-- ==== Sys2Proof/Word.lean ====
section
/-! DEFINITION. Word.lean: the word types of the module: a register word, a byte, a 64-bit quantity (R8). -/
namespace Sys2Proof

/-- A register is 32 bits wide (R8). -/
abbrev Word := BitVec 32
/-- The smallest addressable unit of every memory. -/
abbrev Byte := BitVec 8
/-- A 64-bit quantity: descriptor words, timestamps, tags. -/
abbrev DWord := BitVec 64

end Sys2Proof
end

