-- ==== Sys2Proof/Config.lean ====
section
/-! DEFINITION. Config.lean: what assembly and the fuses fix, the shape of a register table, and the free values: constants
without a body for every result the spec leaves open. -/
namespace Sys2Proof

/-- What the fuses and the assembly variant hold (R2, R3, R17, R312, R375, R451, R485). -/
structure Fuses where
  /-- eight HBM stacks (A8), else four (A4) -/
  a8 : Bool
  /-- two X-dies (X2), else one (X1) -/
  x2 : Bool
  /-- grade L, else grade S -/
  gradeL : Bool
  serial : Nat
  vendorId : Nat
  loaderVersion : Nat
  /-- physical cores fused as folded at test (R392 cause 0x1) -/
  foldedCores : List Nat
  /-- the fused version floor (R451) -/
  floor : Nat
  /-- one bit per revoked signing key (R451) -/
  revoked : Nat
  /-- the identity key's 57-byte secret, which only the key engine reads (R457) -/
  identity : List Byte
  deriving DecidableEq, Repr

/-- MGT_IDENT VARIANT (R485). -/
def Fuses.variantCode (f : Fuses) : Nat :=
  match f.a8, f.x2 with
  | true, true => 0
  | true, false => 1
  | false, true => 2
  | false, false => 3
/-- Sustained core clock of the grade (R3). -/
def Fuses.sustainedMhz (f : Fuses) : Nat := if f.gradeL then 1700 else 2000
/-- Boost core clock of the grade (R3). -/
def Fuses.boostMhz (f : Fuses) : Nat := if f.gradeL then 2000 else 2400
/-- Maximum module power of the grade (R3). -/
def Fuses.maxW (f : Fuses) : Nat := if f.gradeL then 1000 else 1400
def Fuses.linkCount (f : Fuses) : Nat := if f.x2 then 16 else 8
def Fuses.pipeCount (f : Fuses) : Nat := if f.x2 then 16 else 8
def Fuses.reckonerCount (f : Fuses) : Nat := if f.x2 then 2 else 1
/-- Check-value units fitted (R417). -/
def Fuses.checkUnitCount (f : Fuses) : Nat := if f.x2 then 128 else 112
/-- Is stack d.s (index 2d + s) fitted (R17)? -/
def Fuses.stackFitted (f : Fuses) (i : Nat) : Bool := decide (i < 8) && (i % 2 == 0 || f.a8)

/-- A bit range [hi:lo], both ends included (R7). -/
structure BitField where
  hi : Nat
  lo : Nat
  deriving DecidableEq, Repr

/-- The access classes of R10. -/
inductive Access where
  | ro | rw | rs | rl | w1c | wo
  deriving DecidableEq, Repr

/-- Quantities of the fuses that a register shows at reset. -/
inductive FusedValue where
  | fusedVariant | fusedGrade | fusedSerialLo | fusedSerialHi | fusedSustained | fusedBoost | fusedMaxW
  | fusedVendor | isX2 | isA8 | pipeFitted | cvuUnits | loaderVersion | msixReset
  deriving DecidableEq, Repr

/-- The Reset column of a register table. -/
inductive ResetValue where
  | lit (n : Nat)
  | fused (f : FusedValue)
  deriving DecidableEq, Repr

/-- How a value outside a field's range is stored: the field's own rule, then R486. -/
inductive StoreRule where
  | none
  | clamp (lo hi : Nat)
  | zeroAs (v : Nat)
  | outside (lo hi v : Nat)
  | multiple (unit lo hi : Nat)
  | powerCap | hostCap | upToMaxPower | floorClock
  | zeroOrAtLeast (lo : Nat)
  | zeroOrClamp (lo hi : Nat)
  | boostTemp (hi lo : Nat)
  | pageMax (hi lo : Nat)
  | demoteHigh (hi lo : Nat)
  | upToField (hi lo : Nat)
  deriving DecidableEq, Repr

/-- Which registers a variant does not fit (R37). -/
inductive FitRule where
  | always | link | pipe | reckoner | stack | checkUnit
  deriving DecidableEq, Repr

/-- One row of a register table. -/
structure FieldSpec where
  hi : Nat
  lo : Nat
  access : Access
  /-- Reset is cfg: taken from the configuration image (R384, R408) -/
  isCfg : Bool
  reset : ResetValue
  rule : StoreRule
  deriving DecidableEq, Repr

/-- A register, or an array of registers in up to two dimensions. -/
structure RegSpec where
  name : String
  base : Nat
  n1 : Nat
  s1 : Nat
  n2 : Nat
  s2 : Nat
  fit : FitRule
  fields : List FieldSpec
  deriving DecidableEq, Repr

/-! ### Free values: constants without a body -/

/-- Hjeluno's PCI-SIG Vendor ID (R312): the spec gives no number. -/
opaque Config.vendorId : Nat
/-- How many records that are not permanent make the history full (R428): the spec gives no number. -/
opaque Config.historyCapacity : Nat
/-- What a read of an HBM address that is not fitted returns (R118): such an address reaches nothing. Address. -/
opaque Config.nothingRead : Nat → Nat
/-- Contents of the lanes of a vector register that an operation delivers no value for (R63, R65): the spec does not say.
Applied to the draw number. -/
opaque Config.laneTail : List Nat → Nat
/-- A lane shifted by 32 or more (R63): the spec states no result. Shift kind, value, amount. -/
opaque Config.wideShift : Nat → Nat → Nat → Nat
/-- A lane permuted by an index beyond the register (R63): the spec states no result. -/
opaque Config.permuteBeyond : Nat → Nat
/-- The result of a special function (R66) on an FP32 encoding: the spec gives error bounds, not values. Function number. -/
opaque Config.sfu : Nat → Nat → Nat
/-- How many pages of an object had been programmed when its programs were given up (R240, R246): the spec gives no number. Applied to the draw
number. -/
opaque Config.pagesProgrammed : Nat → Nat
/-- Bits [63:44] of word 5 of an extent header, where R231 lays FIRST_DEPTH over FORMAT. Applied to the depth and the format. -/
opaque Config.headerDepth : Nat → Nat → Nat
/-- Offset of a partition's hand records in the controller reserve of its lead C-die (R121, R154): the spec gives no address. Applied to the
partition. -/
opaque Config.handOffset : Nat → Nat
/-- The code of the status with which SHUTDOWN ends a parking in progress (R174, R246): the spec names none. Applied to the draw
number. -/
opaque Config.parkEnded : Nat → Nat
/-- A sample of an INGEST whose crop rectangle holds none (R262 states no value). Applied to the draw number. -/
opaque Config.emptyCrop : Nat → Nat
/-- How far from the exact value an INGEST result lies before conversion, within the bound of 2^-10 (R262), in units of 2^-40. Applied
to the draw number. -/
opaque Config.ingestError : Nat → Nat
/-- A sample of a picture's copy at 1/2^l per axis, from the samples it stands for (R304 names no filter): level, samples. -/
opaque Config.downscaled : Nat → List Nat → Nat
/-- The samples between those of a reference, which each codec defines (R304): codec, quarter-sample phases across and down, the 8 × 8 samples from
three left of and above the position. -/
opaque Config.interpolated : Nat → Nat → Nat → List Nat → Nat
/-- Bits of a motion vector against its prediction (R304): codec, difference in quarter samples. -/
opaque Config.vectorBits : Nat → Int → Int → Nat
/-- λ of R304 in units of 2^-16: codec, quantiser. -/
opaque Config.lambda : Nat → Nat → Nat
/-- The codec's range of motion vectors in quarter samples (R304): codec, axis. -/
opaque Config.vectorRange : Nat → Nat → Nat
/-- Whether the Hadamard transform of R304 works on squares of 8 samples where they fit. -/
opaque Config.wideHadamard : Bool
/-- Which of two positions of one cost a search takes (R304): the first, where true. -/
opaque Config.searchTie : Int → Int → Int → Int → Bool
/-- Which of the three pictures at REF_BASE is the reference, by the pictures coded so far (R302). -/
opaque Config.refPicture : Nat → Nat
/-- Where the plane of a level lies in a picture at REF_BASE (R302). -/
opaque Config.refPlane : Nat → Nat
/-- Samples of a block predicted from a substitute for a missing reference (R299): codec, the samples the stream codes, the substitute's samples,
sample number. -/
opaque Config.substituted : Nat → List Nat → List Nat → Nat → Nat
/-- The parameter sets that an image of a context's state holds, where it is not what was saved last (R291 gives it no layout). -/
opaque Config.imageParams : List Nat → List (Nat × (Nat × List Nat))
/-- The rate-control numbers of such an image: number. -/
opaque Config.imageRate : List Nat → Nat → Nat
/-- The AV1 CDF tables that such an image holds, by DECODE_NUMBER, and those of an encode context. -/
opaque Config.imageCdfs : List Nat → List (Nat × List Nat)
opaque Config.imageCdf : List Nat → List Nat
/-- The bytes of a context's state as they stand at CTX_BASE, by what the state holds (R291 gives no layout). -/
opaque Config.ctxImage : List Nat → List Nat
/-- The bytes of a slice's own header, which the codec's standard lays out (R285, R303): unit type, then first and last block row, whether the slice is
independent, whether the picture is a key picture, and the quantiser of its first row. -/
opaque Config.sliceHeader : Nat → List Nat → List Nat
/-- The bytes of a header of an encoded stream, which the codec's standard lays out (R285): its unit type, then profile, level, size, depth, frame rate,
bit rate, whether the picture is a key picture, its number in the stream, the block rows of a slice and of the picture, tools, and the quantisers of
the rows coded. -/
opaque Config.streamHeader : Nat → List Nat → List Nat
/-- Whether a start code that begins neither an access unit nor a parameter set has its leading zero byte. -/
opaque Config.longStartCodes : Bool
/-- Which of the two kinds of H.265 IDR picture a key picture is. -/
opaque Config.idrKind : Nat
/-- nal_ref_idc of a unit less 1, by its type: only that it is not 0 is fixed. -/
opaque Config.refIdc : Nat → Nat
/-- Whether a quotient that is no whole number is rounded up, where the spec divides and states no rounding: dividend, divisor. -/
opaque Config.roundsUp : Nat → Nat → Bool
/-- The bit rate that a frame rate with a zero numerator stands for (R305): the spec gives no value. BITRATE_KBPS. -/
opaque Config.rateAtZero : Nat → Nat
/-- Which of several up links to a member carries the next flits (R330, R335): the spec fixes the shares, not the order. Applied to the
draw number. -/
opaque Config.linkChoice : Nat → Nat
/-- The image that slot A leaves manufacture with (R440): its MELD_ID, IMAGE_VERSION, SECURITY_VERSION and manifest digest, and its core
firmware. Each module's own; the spec gives no numbers. -/
opaque Config.factoryMeld : Nat
opaque Config.factoryVersion : Nat
opaque Config.factorySecurity : Nat
opaque Config.factoryDigest : Nat → Nat
opaque Config.coreImageBytes : Nat
opaque Config.coreImageByte : Nat → Nat
/-- The fused hashes of the firmware keys (R451), byte by byte: key index, byte. -/
opaque Config.keyHash : Nat → Nat → Nat
/-- Bytes of the identity certificate that manufacture writes (R458). -/
opaque Config.certificateByte : Nat → Nat
/-- The 57-byte identity secret that manufacture fuses into X-die 0 (R457), byte by byte. -/
opaque Config.identitySecret : Nat → Nat
/-- Bytes of the resident loader's copies, and of the slot that the module leaves manufacture with, by NOR offset (R439, R440). -/
opaque Config.norFactoryByte : Nat → Nat
/-- THRESHOLD of the retention trend's forecast entry (R432): the spec gives it a value and no threshold. Applied to the draw number. -/
opaque Config.trendThreshold : Nat → Nat
/-- Fused frequency f0 and temperature coefficient of a ring oscillator, by the number of its site's sensor (R430). -/
opaque Config.oscillator : Nat → Nat
opaque Config.oscillatorSlope : Nat → Int
/-- KEY_INDEX of the factory image (R442, R451). -/
opaque Config.factoryKeyIndex : Nat
/-- Version words that Get MCTP Version Support returns for a message type (R475): the spec names no versions. -/
opaque Config.mctpVersion : Nat → Nat
/-- Version words of PLDM types 0 and 2 (R479): the spec names no versions. -/
opaque Config.pldmVersion : Nat → Nat
/-- Bytes of a sensor's PDR that R479 does not fix, such as entity, accuracy and thresholds. Applied to the sensor identifier and the byte; and how many
there are after a numeric sensor's offset. -/
opaque Config.pdrByte : Nat → Nat → Nat
opaque Config.pdrBytes : Nat → Nat
/-- Update times of the PDR repository, byte by byte (R479). -/
opaque Config.pdrTime : Nat → Nat
/-- Threshold states of a numeric sensor's reading, and the previous state of a state sensor (R479): the spec gives neither. Applied to the
sensor identifier, the byte, and the draw number. -/
opaque Config.sensorState : Nat → Nat → Nat → Nat

/-- Flits that a write of a number of bytes takes at a cluster's router (R396): the spec gives no size. -/
opaque Config.routerFlits : Nat → Nat

/-- A C-die's idle baseline in a window, in nJ (R358): the spec gives no formula. Applied to the die, the readings of its sensors and of
its stacks' sensors, the clock whose voltage point applies, and the cores and clusters that are powered. -/
opaque Config.idleBaseline : Nat → List Int → Nat → List Nat → List Nat → Nat

/-- Contents of a record of Talon's journal, by its sequence number (R234): the spec gives no layout. -/
opaque Config.journalBody : Nat → List (BitVec 8)

end Sys2Proof
end

