-- ==== Sys2Proof/Syntax.lean ====
section
/-! DEFINITION. Syntax.lean: the commands of the module, one constructor per row of the table of operations and events, and
the types of their operands. A command is what the host, the tray controller, a peer module, a task body, the environment or
the passing of time does to the module at one moment. -/
namespace Sys2Proof

/-! ### Operands of core commands (chapter "Cores and Arithmetic") -/

/-- Number formats of R49. -/
inductive NumFmt where
  | fp4 | e4m3 | e5m2 | bf16 | fp16 | fp32 | int8 | uint8 | int32
  deriving DecidableEq, Repr

/-- Cycles an operation waited and collisions it met (R42, R46): what timing decides, given with the command. -/
structure Waits where
  /-- cycles that the core of the command stalled -/
  stalls : Nat
  /-- collisions of writes, each with the core whose store holds the word -/
  storeCollisions : List (Nat × Nat)
  /-- collisions of writes, each with the cluster whose pool holds the word -/
  poolCollisions : List (Nat × Nat)
  deriving DecidableEq, Repr

/-- A core, and what the accesses of its command waited for and met (R42, R46). -/
structure CoreTurn where
  core : Nat
  waits : Waits
  deriving DecidableEq, Repr

/-- Sums that land (R54): the core, what their access waited for and met, and which of the rows on their way is ready first: the oldest is 0. -/
structure RowLanding where
  core : Nat
  waits : Waits
  row : Nat
  deriving DecidableEq, Repr

/-- A core, and the cycles that its command stalled (R54). -/
structure CoreStall where
  core : Nat
  stalls : Nat
  deriving DecidableEq, Repr

/-- Element formats of the array's operands (R53); MXFP4 is `fp4` with its scales. -/
structure ArrayOp where
  actFmt : NumFmt
  wFmt : NumFmt
  /-- core store offset of the row's elements, and of its E8M0 scales -/
  acts : Nat
  actScales : Nat
  /-- accumulator address -/
  acc : Nat
  /-- mode 0b1: add to the accumulator (R54) -/
  add : Bool
  deriving DecidableEq, Repr

/-- A weight tile load (R54): the tile's format, its elements and its scales in the core store. -/
structure TileLoad where
  wFmt : NumFmt
  /-- activations of the pairing: decides K and the tile's size (R53) -/
  actFmt : NumFmt
  elems : Nat
  scales : Nat
  deriving DecidableEq, Repr

/-- An output stage operation (R58): one row of columns. -/
structure OutputOp where
  accInt : Bool
  cols : Nat
  acc : Nat
  scale : Option Nat
  bias : Option Nat
  fmt : NumFmt
  dst : Nat
  deriving DecidableEq, Repr

/-- Lane formats of the vector unit (R63). -/
inductive LaneFmt where
  | fp32 | bf16 | int32
  deriving DecidableEq, Repr

/-- Vector arithmetic (R63, R64). -/
inductive VecOp where
  | add | sub | mul | fma | min | max | abs | neg
  | shl | shr | sra | and | or | xor
  deriving DecidableEq, Repr

/-- Compare predicates (R487). -/
inductive CmpPred where
  | eq | ne | lt | le | gt | ge | ord | unord
  deriving DecidableEq, Repr

inductive ReduceOp where
  | sum | min | max
  deriving DecidableEq, Repr

/-- Functions of the special-function unit (R66). -/
inductive SfuFn where
  | exp | exp2 | log | log2 | recip | rsqrt | sigmoid | tanh
  deriving DecidableEq, Repr

/-- What the control unit does: wait for a stream queue (R70), or read and write the core control page (R48). -/
inductive ControlOp where
  | wait (queue count : Nat)
  | writePage (offset value : Nat)
  /-- read a control page register into a word of the core store -/
  | readPage (offset dst : Nat)
  deriving DecidableEq, Repr

/-- One dimension of a stream descriptor: a count and the byte strides on both sides (R70). -/
structure StreamDim where
  count : Nat
  srcStride : Nat
  dstStride : Nat
  deriving DecidableEq, Repr

/-- A stream descriptor that moves a tensor (R70): addresses with their space bits (R43), the bytes of an element, and up to
five dimensions, innermost first. -/
structure StreamDesc where
  srcGlobal : Bool
  src : Nat
  dstGlobal : Bool
  dst : Nat
  elemBytes : Nat
  dims : List StreamDim
  deriving DecidableEq, Repr

/-- What happened to a word of global space since the last command (R128, R130): a bit went bad, or two did; or the stack's own
on-die ECC corrected one. Or a byte of a firmware store changed, 131,072 × core + offset, and how many unicasts to that core would fail (R399). -/
inductive UpsetKind where
  | single | double | onDie
  | firmware (unicasts : Nat)
  deriving DecidableEq, Repr

structure Upset where
  addr : Nat
  kind : UpsetKind
  deriving DecidableEq, Repr

/-- What the accesses of a stream engine's command meet: waits and collisions, and upsets of the words read (R46, R129). -/
structure StreamAccess where
  waits : Waits
  upsets : List Upset
  deriving DecidableEq, Repr

/-! ### Host accesses -/

/-- A write of a ring's tail or head (R316): by which function, through the register or a BAR2 doorbell, and of the latter the offset and the
bytes written. -/
structure DoorbellWrite where
  fn : Nat
  viaDoorbell : Bool
  offset : Nat
  bytes : Nat
  value : Nat
  deriving DecidableEq, Repr

/-- The rings of the module (R102, R151, R248, R264, R272, R286). -/
inductive RingRef where
  | sq (p q : Nat) | cq (p q : Nat) | rq (p q : Nat) | scq (p q : Nat)
  | msq (m : Nat) | mcq (m : Nat) | eq (d : Nat) | rkq (p : Nat) | tln
  deriving DecidableEq, Repr

/-- The switched power domains that commands name (R350). -/
inductive Domain where
  | core (n : Nat) | cluster (c : Nat) | pipe (m : Nat) | edge (d : Nat) | reckoner (r : Nat) | talonChannel (t : Nat)
  deriving DecidableEq, Repr


/-! ### Flash -/

/-- How one codeword of a flash read decoded (R237): its NAND die, its band and its page there, the step of the ladder (1 to 6), and the bits
that a hard decode corrected. -/
structure Codeword where
  die : Nat
  band : Nat
  page : Nat
  step : Nat
  bits : Nat
  deriving DecidableEq, Repr

/-- A page of flash whose program failed, by band, and what the relocation of its block's pages read (R238). -/
structure PageMove where
  band : Nat
  page : Nat
  cws : List Codeword
  deriving DecidableEq, Repr

/-- A band, and what the relocation of its pages read (R236, R238). -/
structure BandMove where
  band : Nat
  cws : List Codeword
  deriving DecidableEq, Repr

/-- A zone, the weights zone or the prefix zone, and what the relocation of a band's pages read (R236). -/
structure ZoneMove where
  weights : Bool
  cws : List Codeword
  deriving DecidableEq, Repr



/-! ### Ndoyx -/

/-- A flit of Ndoyx (R334): its header fields beside the link sequence number, and its payload. -/
structure Flit where
  type : Nat
  flags : Nat
  src : Nat
  dst : Nat
  group : Nat
  epoch : Nat
  detail : Nat
  payload : List Byte
  deriving DecidableEq, Repr

/-- Codeword of a flit after FEC (R323). -/
inductive FecResult where
  | clean | corrected | lost
  deriving DecidableEq, Repr

/-- One training attempt (R325): at the highest rate tried and then each lower one, the lanes that pass as a mask; and the rate
code and width code that the far end found, if it found any. -/
structure Attempt where
  masks : List Nat
  peer : Option (Nat × Nat)
  deriving DecidableEq, Repr

/-- How a retrain goes (R327): still under way, back at the held rate and width, or by attempts. -/
inductive Retrain where
  | begins
  | held
  | attempts (l : List Attempt)
  deriving DecidableEq, Repr

/-- Why and how a link retrains: block lock was lost, or it replayed too much (R327). -/
structure RetrainEvent where
  lockLost : Bool
  course : Retrain
  deriving DecidableEq, Repr

/-- What a known-answer sweep found: cores, 0 to 15, whose digests differ, and whether the cluster's check-value unit differs (R422). -/
structure SweepResult where
  differ : List Nat
  unitBad : Bool
  deriving DecidableEq, Repr

/-- A collective descriptor of R340, word by word. -/
structure CollDesc where
  fmt : Nat
  peer : Nat
  steer : Bool
  layer : Nat
  slot : Nat
  count : Nat
  src : Nat
  dst : Nat
  /-- a reserved bit is set -/
  reserved : Bool
  deriving DecidableEq, Repr
/-! ### Video: what a bitstream holds

The codec standards are no part of the spec: what an access unit says, and what its samples are, comes with the command. -/

/-- Chroma of a picture (R283): the layouts, and none. -/
inductive PicChroma where
  | c420 | c422 | c444 | grey
  deriving DecidableEq, Repr

/-- Profiles of R283, and any other. -/
inductive PicProfile where
  | constrainedBaseline | main | high | main10 | jpegBaseline | other
  deriving DecidableEq, Repr

/-- What a stream says of itself (R283): its profile, its level in tenths, and whether its form is within the table: progressive frames only, Main
tier, low-overhead OBUs, sequential with Huffman coding and 1 or 3 components. -/
structure StreamClass where
  profile : PicProfile
  level : Nat
  inForm : Bool
  deriving DecidableEq, Repr

/-- A picture as its access unit describes it (R283, R290, R296, R299). -/
structure PicInfo where
  width : Nat
  height : Nat
  tenBit : Bool
  chroma : PicChroma
  key : Bool
  /-- the stream marks the picture as a reference -/
  reference : Bool
  /-- DECODE_NUMBER of each picture it references; none for one never received -/
  refs : List (Option Nat)
  /-- DECODE_NUMBERs that the stream unmarks -/
  unmarks : List Nat
  /-- B of R296 -/
  block : Nat
  stream : StreamClass
  deriving DecidableEq, Repr

/-- What the engine finds next in an access unit, and whether it is the unit's last picture (R284, R288). -/
inductive UnitPart where
  | picture (i : PicInfo)
  /-- a picture of a stream outside R283; a key picture after a header within R283 is a `picture` -/
  | unsupported
  | noPicture
  deriving DecidableEq, Repr

/-- A decoded 16×16 block (R293, R298): its samples, row by row, as the stream codes them, Cb and Cr by turns (16 pairs to a row at 4:4:4, 8 at
4:2:0 and 4:2:2, none where the stream is grey), and what it was predicted from: index into the picture's references and block, or
neighbouring blocks. -/
structure DecodedBlock where
  bx : Nat
  ypos : Nat
  luma : List Nat
  chroma : List Nat
  inter : List (Nat × (Nat × Nat))
  intra : List (Nat × Nat)
  deriving DecidableEq, Repr

/-- A syntax error (R297): the byte of the access unit at which parsing stopped, and the block at which the next resynchronisation point resumes. Where
blocks are not coded in raster order, the blocks between the two; for AV1 where the tile size fields place the tiles: none where those fields
are damaged. -/
structure StreamError where
  byte : Nat
  resumes : Nat × Nat
  blocks : List (Nat × Nat)
  tiles : List Nat
  deriving DecidableEq, Repr

/-- What has been decoded since the last block row (R296, R297): blocks, and syntax errors met; for AV1 the CDF tables as they now stand (R291). -/
structure BlockRow where
  blocks : List DecodedBlock
  errors : List StreamError
  cdf : List Nat
  deriving DecidableEq, Repr

/-- A parameter set or sequence header of an access unit (R291, R297): its kind in the codec's own numbers, its identifier, its bytes, whether it
is damaged, and whether it falls within R283 (R284). -/
structure ParamSet where
  kind : Nat
  id : Nat
  damaged : Bool
  within : Bool
  bytes : List Nat
  deriving DecidableEq, Repr

/-- What the engine finds next in an access unit, after the parameter sets that stand before it (R284, R297). -/
structure UnitFound where
  part : UnitPart
  sets : List ParamSet
  deriving DecidableEq, Repr

/-- A vector in quarter samples. -/
structure Vector2 where
  x : Int
  y : Int
  deriving DecidableEq, Repr

/-- A partition that the mode decision asks a vector for (R304): its place and size in luma samples, and its predicted vector. -/
structure SearchPart where
  x : Nat
  y : Nat
  w : Nat
  h : Nat
  pred : Vector2
  deriving DecidableEq, Repr

/-- A 64×64 area of a P picture (R304): its column, its predicted vector, and its partitions. -/
structure SearchArea where
  col : Nat
  pred : Vector2
  parts : List SearchPart
  deriving DecidableEq, Repr

/-- A block row that the encoder has coded: bits spent, what the mode decision asks of the areas of the row that follows, and for AV1 the CDF tables as
they now stand (R291, R304, R306). -/
structure CodedRow where
  bits : Nat
  areas : List SearchArea
  cdf : List Nat
  deriving DecidableEq, Repr


/-! ### Host reads that fail -/

/-- What a read of host memory was for (R319): a ring's entry; a prompt, for a chunk of a request, for the lookup of the SUBMIT that a partition has
fetched, or for the admission of the HELD request in a place of its queue; an access unit of a media context; the source of the Talon command at the
head of its ring. -/
inductive HostRead where
  | ring (r : RingRef)
  | prompt (p hr : Nat)
  | lookup (p : Nat)
  | held (p place : Nat)
  | bitstream (m c : Nat)
  | talon
  deriving DecidableEq, Repr

/-! ### Bring-up: what the stages find

A bring-up is one command; what its tests and its surroundings show comes with it. -/

/-- How one core fares in the shoe broadcast (R389, R390): for the pass, each round and each unicast, in order, the packets that do not reach it
as they were sent, each with the bytes that arrive in its place (none where it is lost); and in which of them its report is missing. -/
structure ShoeCore where
  core : Nat
  altered : List (List (Nat × List Byte))
  silent : List Nat
  deriving DecidableEq, Repr, Inhabited

/-- A loss while a stage of bring-up is under way (R469): of PRSNT_N, or of the 48 V bus with what its rail then reads in 10 mV. -/
structure StageLoss where
  stage : Nat
  input : Bool
  reading : Nat
  deriving DecidableEq, Repr, Inhabited

/-- What stages 7 and 8 find: their times in ms, the shoe, the cores that do not start, the cores that differ from the reference
in the first and in the second sweep, and the check-value units that fail (R390, R391, R422, R423); and a loss that ends the bring-up in one of
its stages (R469). -/
structure LateBoot where
  ms7 : Nat
  ms8 : Nat
  shoe : List ShoeCore
  noStart : List Nat
  kat : List Nat
  katAgain : List Nat
  badUnits : List Nat
  /-- a part read from the NOR at stage 7 fails its recheck (R444) -/
  badPart : Bool
  /-- a loss of presence or of input power during a stage -/
  loss : Option StageLoss
  deriving DecidableEq, Repr, Inhabited

/-- What a bring-up finds. -/
structure Boot where
  /-- times of stages 0 to 6 in ms; stage 6 without the wait for peers -/
  ms : List Nat
  /-- usable energy of the hold-up bank at stage 0, in mJ (R431) -/
  holdup : Nat
  /-- slots whose NOR content is damaged: they verify with DIGEST_MISMATCH (R452) -/
  damaged : List Nat
  /-- the stage, 2, 3, 4 or 6, at which a part read from the NOR fails its recheck (R444) -/
  badPart : Option Nat
  /-- bytes of the configuration store, and offsets of records whose every read fails its CRC (R380) -/
  store : List Byte
  badReads : List Nat
  /-- speed and width that the host's end offers; 0 for no host (R311) -/
  host : Nat × Nat
  /-- no copy of Talon's metadata is readable (R250) -/
  metadataLost : Bool
  /-- extents found unreadable, and codewords that the retention sampling read (R236, R247) -/
  lostExtents : List Nat
  codewords : List Codeword
  /-- weight images found unreadable -/
  lostImages : List Nat
  /-- copies of the marker, 0 and 1, that cannot be read (R247) -/
  badMarkers : List Nat
  /-- blocks with the maker's bad-block mark, by 8192 × NAND die + block: of account at the first mount (R238) -/
  factoryBad : List Nat
  /-- stage 4: die fabric domains, edges by row of R22, and HBM interfaces by 2d + s that fail -/
  badFabrics : List Nat
  badEdges : List Nat
  badStacks : List Nat
  /-- frequencies measured of the ring oscillators, by the number of their site's sensor, 0 to 39 (R430) -/
  frequencies : List Nat
  /-- stage 5: pseudo-channels by 64 × die + index whose link check fails, pages by 65536 × die + page, cores and clusters whose
  memory fails -/
  badChannels : List Nat
  badPages : List Nat
  badCores : List Nat
  badClusters : List Nat
  /-- stage 5, under FOLD_POLICY 0b1: recorded folds of cores and clusters, and channel failures, that fail their retest -/
  refoldCores : List Nat
  refoldClusters : List Nat
  refailChannels : List Nat
  late : LateBoot
  deriving DecidableEq, Repr, Inhabited


/-- A check-value descriptor of R419, but for its OP. -/
structure CvDesc where
  ctx : Nat
  alg : Nat
  tagLen : Bool
  keep : Bool
  core : Nat
  queue : Nat
  writeSide : Bool
  tag : Nat
  offset : Nat
  length : Nat
  /-- a reserved bit is set, or OP is none of R419's -/
  reserved : Bool
  deriving DecidableEq, Repr

/-- The commands of the block, one for each row of the opcode table. Its arguments are what the row's event brings with it; the commands without any stand last. -/
inductive Instr where
  /-- REGISTER_WRITE -/
  | registerWrite (fn off bytes value : Nat)
  /-- ARRAY_OP -/
  | arrayOp (x : CoreTurn) (op : ArrayOp)
  /-- ARRAY_RESULT_LAND -/
  | arrayResultLand (x : RowLanding)
  /-- WEIGHT_TILE_LOAD -/
  | weightTileLoad (x : CoreTurn) (tile : TileLoad)
  /-- ARRAY_SWAP -/
  | arraySwap (x : CoreStall)
  /-- OUTPUT_STAGE -/
  | outputStage (x : CoreTurn) (op : OutputOp)
  /-- VECTOR_ARITHMETIC -/
  | vectorArithmetic (core : Nat) (fmt : LaneFmt) (op : VecOp) (a b c dst : Nat)
  /-- VECTOR_CONVERT -/
  | vectorConvert (core : Nat) (src dst : NumFmt) (a d : Nat)
  /-- MXFP4_BLOCK_CONVERT -/
  | mxfp4BlockConvert (x : CoreTurn) (bf16 : Bool) (a block elemsAt scaleAt : Nat)
  /-- VECTOR_COMPARE -/
  | vectorCompare (core : Nat) (bf16 : Bool) (pred : CmpPred) (a b dst : Nat)
  /-- VECTOR_SELECT -/
  | vectorSelect (core : Nat) (half : Bool) (cond a b dst : Nat)
  /-- VECTOR_REDUCE -/
  | vectorReduce (core : Nat) (fmt : LaneFmt) (op : ReduceOp) (a dst : Nat)
  /-- VECTOR_PERMUTE -/
  | vectorPermute (core : Nat) (half : Bool) (idx a dst : Nat)
  /-- VECTOR_LOAD_STORE -/
  | vectorLoadStore (core : Nat) (load : Bool) (reg off : Nat) (w : Waits)
  /-- SFU_OP -/
  | sfuOp (core : Nat) (fn : SfuFn) (bf16 : Bool) (a group dst : Nat)
  /-- SFU_RESULT -/
  | sfuResult (core : Nat)
  /-- CONTROL_WAIT -/
  | controlWait (core : Nat) (op : ControlOp) (w : Waits)
  /-- HALT -/
  | halt (core : Nat)
  /-- STREAM_MOVE -/
  | streamMove (core queue : Nat) (desc : StreamDesc) (w : Waits) (upsets : List Upset)
  /-- STREAM_MOVE_COMPLETE -/
  | streamMoveComplete (core queue : Nat) (x : StreamAccess)
  /-- TAP_WALKER -/
  | tapWalker (core queue : Nat) (words : List Nat) (x : StreamAccess)
  /-- CORE_FAULT -/
  | coreFault (core : Nat) (fw : List Upset)
  /-- SQ_TAIL_WRITE -/
  | sqTailWrite (p q : Nat) (d : DoorbellWrite)
  /-- CQ_HEAD_WRITE -/
  | cqHeadWrite (p q : Nat) (d : DoorbellWrite)
  /-- RING_ENABLE_WRITE -/
  | ringEnableWrite (fn : Nat) (r : RingRef) (value : Nat)
  /-- SUBMISSION_FETCH -/
  | submissionFetch (p : Nat) (upsets : List Upset)
  /-- GRAPH_ACCEPT -/
  | graphAccept (p : Nat) (copyBad : Option Nat) (upsets : List Upset)
  /-- DEALER_DECISION -/
  | dealerDecision (p : Nat)
  /-- DOMAIN_POWER_UP_COMPLETE -/
  | domainPowerUpComplete (d : Domain)
  /-- POWER_GOOD_TIMEOUT -/
  | powerGoodTimeout (d : Domain)
  /-- TASK_LOAD_COMPLETE -/
  | taskLoadComplete (uid tid : Nat) (upsets : List Upset)
  /-- TASK_DONE -/
  | taskDone (uid tid : Nat)
  /-- TASK_TIMEOUT -/
  | taskTimeout (uid tid : Nat) (fw : List Upset)
  /-- ABORT_SEQ -/
  | abortSeq (fn p seq : Nat)
  /-- WINDOW_BOUNDARY -/
  | windowBoundary (rails : List Nat)
  /-- REMAP_COMPLETE -/
  | remapComplete (die page : Nat)
  /-- SCRUB_READ -/
  | scrubRead (die : Nat) (upsets : List Upset)
  /-- HBM_CHANNEL_FAILED -/
  | hbmChannelFailed (die pc : Nat) (addr : Option Nat)
  /-- BAR4_READ -/
  | bar4Read (fn off n : Nat) (upsets : List Upset)
  /-- BAR4_WRITE -/
  | bar4Write (fn off : Nat) (bytes : List Nat) (upsets : List Upset)
  /-- WIN_BASE_WRITE -/
  | winBaseWrite (fn target value : Nat)
  /-- REQUEST_FETCH -/
  | requestFetch (p : Nat) (upsets : List Upset)
  /-- RQ_TAIL_WRITE -/
  | rqTailWrite (p q : Nat) (d : DoorbellWrite)
  /-- SCQ_HEAD_WRITE -/
  | scqHeadWrite (p q : Nat) (d : DoorbellWrite)
  /-- SUBMIT -/
  | submit (p : Nat) (upsets : List Upset)
  /-- CANCEL -/
  | cancel (p : Nat)
  /-- PARK -/
  | park (p : Nat)
  /-- RESUME -/
  | resume (p : Nat)
  /-- TRICK_GRAPH_COMPLETE -/
  | trickGraphComplete (slot : Nat) (badHands : List (Nat × Nat)) (upsets : List Upset)
  /-- IDLE_BOUNDARY -/
  | idleBoundary (slot : Nat) (badHands : List (Nat × Nat)) (upsets : List Upset)
  /-- HELD_DEADLINE_PASS -/
  | heldDeadlinePass (slot : Nat)
  /-- HOLD_MAX_PASS -/
  | holdMaxPass (slot : Nat)
  /-- GROUP_TIMEOUT -/
  | groupTimeout (slot : Nat)
  /-- FOLLOWER_TRICK_COMPLETE -/
  | followerTrickComplete (slot : Nat) (badHands : List (Nat × Nat))
  /-- PARK_WRITE_COMPLETE -/
  | parkWriteComplete (p hr : Nat) (upsets : List Upset)
  /-- RESUME_READ_COMPLETE -/
  | resumeReadComplete (p hr : Nat) (cws : List Codeword)
  /-- KV_APPEND -/
  | kvAppend (core queue : Nat) (words : List Nat) (x : StreamAccess)
  /-- KV_DIRECT -/
  | kvDirect (core queue : Nat) (words : List Nat) (x : StreamAccess)
  /-- KV_GATHER -/
  | kvGather (core queue : Nat) (words : List Nat) (x : StreamAccess)
  /-- DEMOTION_READ_COMPLETE -/
  | demotionReadComplete (p extent : Nat) (upsets : List Upset)
  /-- EXTENT_COMMIT -/
  | extentCommit (extent : Nat)
  /-- PROMOTION_READ_COMPLETE -/
  | promotionReadComplete (p extent : Nat) (cws : List Codeword)
  /-- PREFIX_REPORT_SEND -/
  | prefixReportSend (p : Nat)
  /-- TLN_CMD_TAIL_WRITE -/
  | tlnCmdTailWrite (d : DoorbellWrite)
  /-- IMAGE_WRITE -/
  | imageWrite (upsets : List Upset)
  /-- SLOT_LOAD_COMPLETE -/
  | slotLoadComplete (slot : Nat) (cws : List Codeword)
  /-- PARK_EXPORT -/
  | parkExport (cws : List Codeword)
  /-- PARK_IMPORT -/
  | parkImport (upsets : List Upset)
  /-- TALON_CMD_COMPLETE -/
  | talonCmdComplete (upsets : List Upset)
  /-- FLASH_PROGRAM_FAIL -/
  | flashProgramFail (die : Nat) (x : PageMove)
  /-- FLASH_ERASE_FAIL -/
  | flashEraseFail (die : Nat) (x : BandMove)
  /-- TALON_CHANNEL_FAIL -/
  | talonChannelFail (channel : Nat)
  /-- GARBAGE_COLLECT -/
  | garbageCollect (x : ZoneMove)
  /-- STATIC_WEAR_LEVEL -/
  | staticWearLevel (x : ZoneMove)
  /-- RETENTION_AGE_REFRESH -/
  | retentionAgeRefresh (x : BandMove)
  /-- READ_DISTURB_RELOCATE -/
  | readDisturbRelocate (x : BandMove)
  /-- EDGE_INGEST -/
  | edgeIngest (die : Nat) (upsets : List Upset)
  /-- EDGE_CONV -/
  | edgeConv (die : Nat) (upsets : List Upset)
  /-- EDGE_TCONV -/
  | edgeTconv (die : Nat) (upsets : List Upset)
  /-- EQ_TAIL_WRITE -/
  | eqTailWrite (page die : Nat) (d : DoorbellWrite)
  /-- EDGE_JOB_COMPLETE -/
  | edgeJobComplete (die : Nat) (upsets : List Upset)
  /-- RECKONER_DETECT -/
  | reckonerDetect (r : Nat) (upsets : List Upset)
  /-- RECKONER_ARGMAX -/
  | reckonerArgmax (r : Nat) (upsets : List Upset)
  /-- RKQ_TAIL_WRITE -/
  | rkqTailWrite (p : Nat) (d : DoorbellWrite)
  /-- RECKONER_JOB_COMPLETE -/
  | reckonerJobComplete (r : Nat) (upsets : List Upset)
  /-- FEATURE_MAP_SPILL -/
  | featureMapSpill (core queue : Nat) (words : List Nat) (x : StreamAccess)
  /-- FEATURE_MAP_FILL -/
  | featureMapFill (core queue : Nat) (words : List Nat) (x : StreamAccess)
  /-- TAG_POST_DESCRIPTOR -/
  | tagPostDescriptor (core queue : Nat) (words : List Nat)
  /-- TAG_POST_PRESENT -/
  | tagPostPresent (fn p tag : Nat)
  /-- TAG_POST_FAILED -/
  | tagPostFailed (fn p tag : Nat)
  /-- TAG_RETURN_ABSENT -/
  | tagReturnAbsent (fn p tag : Nat)
  /-- PIPELINE_FRAME_START -/
  | pipelineFrameStart (p pipe : Nat) (upsets : List Upset)
  /-- EDGE_ENGINE_FAIL -/
  | edgeEngineFail (die : Nat)
  /-- RECKONER_FAIL -/
  | reckonerFail (r : Nat)
  /-- MSQ_TAIL_WRITE -/
  | msqTailWrite (page m : Nat) (d : DoorbellWrite)
  /-- MCQ_HEAD_WRITE -/
  | mcqHeadWrite (page m : Nat) (d : DoorbellWrite)
  /-- MEDIA_CMD_FETCH -/
  | mediaCmdFetch (m : Nat) (upsets : List Upset)
  /-- OPEN_DEC -/
  | openDec (m c : Nat)
  /-- OPEN_ENC -/
  | openEnc (m c : Nat)
  /-- CLOSE -/
  | close (m c : Nat)
  /-- DECODE -/
  | decode (m c : Nat)
  /-- ENCODE -/
  | encode (m c : Nat)
  /-- RELEASE -/
  | release (m c : Nat)
  /-- RC_UPDATE -/
  | rcUpdate (m c : Nat)
  /-- OUT_CONSUMED -/
  | outConsumed (m c : Nat)
  /-- PICTURE_DECODE_START -/
  | pictureDecodeStart (m : Nat) (unit : UnitFound) (last : Bool) (saved : List Nat) (upsets : List Upset)
  /-- BLOCK_ROW_DECODED -/
  | blockRowDecoded (m : Nat) (row : BlockRow) (upsets : List Upset)
  /-- PICTURE_DECODE_COMPLETE -/
  | pictureDecodeComplete (m : Nat) (upsets : List Upset)
  /-- PICTURE_ENCODE_START -/
  | pictureEncodeStart (m : Nat) (saved : List Nat)
  /-- ENCODE_ROW_START -/
  | encodeRowStart (m : Nat) (row : CodedRow) (upsets : List Upset)
  /-- SLICE_WRITTEN -/
  | sliceWritten (m : Nat) (bytes : List Nat)
  /-- PICTURE_ENCODE_COMPLETE -/
  | pictureEncodeComplete (m : Nat) (row : CodedRow) (recon : List (Nat × List Nat))
  /-- PIPE_POWER_DOWN -/
  | pipePowerDown (m : Nat)
  /-- PIPE_FAIL -/
  | pipeFail (m : Nat)
  /-- PCIE_LINK_UP -/
  | pcieLinkUp (speed width : Nat)
  /-- FLR_VF -/
  | flrVf (vf : Nat)
  /-- MSIX_UNMASK -/
  | msixUnmask (fn v : Nat)
  /-- BUS_MASTER_ENABLE_SET -/
  | busMasterEnableSet (fn : Nat)
  /-- HOST_READ_ERROR -/
  | hostReadError (r : HostRead)
  /-- HOST_READ_TIMEOUT -/
  | hostReadTimeout (r : HostRead)
  /-- PEER_WAIT_TIMEOUT -/
  | peerWaitTimeout (link : Nat) (late : LateBoot) (more : List Boot)
  /-- LINK_RETRAIN -/
  | linkRetrain (link : Nat) (r : RetrainEvent)
  /-- FLIT_RECEIVE -/
  | flitReceive (link lseq : Nat) (fec : FecResult) (f : Flit)
  /-- LINK_NAK_RECEIVE -/
  | linkNakReceive (link seq : Nat)
  /-- LINK_ACK_RECEIVE -/
  | linkAckReceive (link seq : Nat)
  /-- TRICK_PLAN_RECEIVE -/
  | trickPlanReceive (p : Nat) (upsets : List Upset)
  /-- TRICK_REPORT_RECEIVE -/
  | trickReportReceive (p : Nat) (badHands : List (Nat × Nat)) (upsets : List Upset)
  /-- PREFIX_REPORT_RECEIVE -/
  | prefixReportReceive (p : Nat)
  /-- HEARTBEAT_RECEIVE -/
  | heartbeatReceive (p : Nat)
  /-- FENCED_RECEIVE -/
  | fencedReceive (p : Nat)
  /-- CONTROL_ACK_RECEIVE -/
  | controlAckReceive (p : Nat)
  /-- CONTROL_RETRANSMIT -/
  | controlRetransmit (p j : Nat)
  /-- HEARTBEAT_SEND -/
  | heartbeatSend (p : Nat)
  /-- FENCE_TIMEOUT -/
  | fenceTimeout (p j : Nat)
  /-- ALL_REDUCE -/
  | allReduce (core queue : Nat) (d : CollDesc)
  /-- ALL_GATHER -/
  | allGather (core queue : Nat) (d : CollDesc)
  /-- REDUCE_SCATTER -/
  | reduceScatter (core queue : Nat) (d : CollDesc)
  /-- COLL_SEND -/
  | collSend (core queue : Nat) (d : CollDesc)
  /-- COLL_RECV -/
  | collRecv (core queue : Nat) (d : CollDesc)
  /-- COLLECTIVE_INSTANCE_START -/
  | collectiveInstanceStart (p trick coll : Nat) (upsets : List Upset)
  /-- COLLECTIVE_DATA_RECEIVE -/
  | collectiveDataReceive (p : Nat)
  /-- COLLECTIVE_COMPLETE -/
  | collectiveComplete (p trick coll : Nat) (upsets : List Upset)
  /-- COLL_TIMEOUT -/
  | collTimeout (p trick coll : Nat)
  /-- MEASUREMENT_TICK -/
  | measurementTick (watts : Nat)
  /-- BALLAST_TASK_END -/
  | ballastTaskEnd (c : Nat)
  /-- SENSOR_SAMPLE -/
  | sensorSample (n : Nat) (v : Int)
  /-- THERMAL_THROTTLE_STEP -/
  | thermalThrottleStep (d : Nat)
  /-- THERMAL_RISE_STEP -/
  | thermalRiseStep (d : Nat)
  /-- CORE_IDLE_TIMEOUT -/
  | coreIdleTimeout (n : Nat)
  /-- CLUSTER_IDLE_TIMEOUT -/
  | clusterIdleTimeout (c : Nat)
  /-- HBM_IDLE_TIMEOUT -/
  | hbmIdleTimeout (face : Nat)
  /-- ENGINE_IDLE_TIMEOUT -/
  | engineIdleTimeout (d : Domain)
  /-- TALON_CHANNEL_IDLE_TIMEOUT -/
  | talonChannelIdleTimeout (t : Nat)
  /-- HOST_CAP_WRITE -/
  | hostCapWrite (value : Nat)
  /-- RESUME_POWER -/
  | resumePower (boot : Boot) (more : List Boot)
  /-- RESET_N_RELEASE -/
  | resetNRelease (boot : Boot) (more : List Boot)
  /-- STAGE_TIMEOUT -/
  | stageTimeout (more : List Boot)
  /-- MODULE_RESET -/
  | moduleReset (boot : Boot) (more : List Boot)
  /-- RST_CORE_RESET -/
  | rstCoreReset (absorb : Bool) (target : Nat) (fw : List Upset)
  /-- RST_CLUSTER_RESET -/
  | rstClusterReset (absorb : Bool) (target : Nat) (fw : List Upset)
  /-- RST_PARTITION_RESET -/
  | rstPartitionReset (absorb : Bool) (target : Nat)
  /-- RST_MODULE_RESET -/
  | rstModuleReset (absorb : Bool) (boot : Boot) (more : List Boot)
  /-- RST_CORE_FOLD -/
  | rstCoreFold (target : Nat)
  /-- RST_CLUSTER_FOLD -/
  | rstClusterFold (target : Nat)
  /-- DRAIN_COMPLETE -/
  | drainComplete (job : Nat) (fw : List Upset) (boot : Boot) (more : List Boot)
  /-- DRAIN_TIMEOUT -/
  | drainTimeout (job : Nat) (fw : List Upset) (boot : Boot) (more : List Boot)
  /-- CV_ATTACH -/
  | cvAttach (core queue : Nat) (d : CvDesc)
  /-- CV_DETACH -/
  | cvDetach (core queue : Nat) (d : CvDesc)
  /-- CV_SAVE -/
  | cvSave (core queue : Nat) (d : CvDesc) (x : StreamAccess)
  /-- CV_RESTORE -/
  | cvRestore (core queue : Nat) (d : CvDesc) (x : StreamAccess)
  /-- CV_FEED -/
  | cvFeed (core queue : Nat) (d : CvDesc) (x : StreamAccess)
  /-- HOST_CV_ATTACH -/
  | hostCvAttach (u x value : Nat)
  /-- HOST_CV_DETACH -/
  | hostCvDetach (u x value : Nat)
  /-- SWEEP_COMPLETE -/
  | sweepComplete (c : Nat) (r : SweepResult)
  /-- RO_MEASURE -/
  | roMeasure (frequencies : List Nat)
  /-- HOLDUP_MEASURE -/
  | holdupMeasure (mj : Nat)
  /-- HLT_ALERT_ACK -/
  | hltAlertAck (value : Nat)
  /-- UPDATE_PIECE -/
  | updatePiece (fails : Nat)
  /-- ACTIVATE -/
  | activate (boot : Boot) (more : List Boot)
  /-- ACTIVATION_DRAIN_COMPLETE -/
  | activationDrainComplete (boot : Boot) (more : List Boot)
  /-- UPD_CONFIRM_WRITE -/
  | updConfirmWrite (value : Nat)
  /-- SHOWDOWN_DEADLINE -/
  | showdownDeadline (boot : Boot) (more : List Boot)
  /-- INPUT_POWER_LOSS -/
  | inputPowerLoss (reading : Nat)
  /-- INPUT_POWER_APPLIED -/
  | inputPowerApplied (reading : Nat)
  /-- AUX_POWER_APPLIED -/
  | auxPowerApplied (reading : Nat)
  /-- LATCH_LOCKED_CHANGE -/
  | latchLockedChange (locked : Bool)
  /-- SIDEBAND_MESSAGE_RECEIVE -/
  | sidebandMessageReceive (bytes : List Nat)
  /-- SETDASA -/
  | setdasa (static addr : Nat)
  /-- ENTDAA -/
  | entdaa (addr : Nat)
  /-- SET_ENDPOINT_ID -/
  | setEndpointId (op eid : Nat)
  /-- GET_MCTP_VERSION_SUPPORT -/
  | getMctpVersionSupport (type : Nat)
  /-- GET_VENDOR_MESSAGE_SUPPORT -/
  | getVendorMessageSupport (selector : Nat)
  /-- GET_PLDM_VERSION -/
  | getPldmVersion (opFlag type : Nat)
  /-- GET_PLDM_COMMANDS -/
  | getPldmCommands (type version : Nat)
  /-- GET_SENSOR_READING -/
  | getSensorReading (id : Nat)
  /-- GET_STATE_SENSOR_READINGS -/
  | getStateSensorReadings (id : Nat)
  /-- GET_PDR -/
  | getPdr (handle part count : Nat)
  /-- TRANSIT_DIE_FABRIC_FAILURE -/
  | transitDieFabricFailure (die : Nat)
  /-- AUX_POWER_LOSS -/
  | auxPowerLoss (reading : Nat)
  /-- PEER_TRAINING_SIGNAL -/
  | peerTrainingSignal (link : Nat) (attempts : List Attempt) (late : LateBoot) (more : List Boot)
  /-- BUS_MASTER_ENABLE_CLEAR -/
  | busMasterEnableClear (fn : Nat)
  /-- LINK_DOMAIN_FAILURE -/
  | linkDomainFailure (link : Nat)
  /-- IMAGE_CREATE -/
  | imageCreate
  /-- IMAGE_SEAL -/
  | imageSeal
  /-- IMAGE_DELETE -/
  | imageDelete
  /-- SLOT_LOAD -/
  | slotLoad
  /-- SLOT_UNLOAD -/
  | slotUnload
  /-- PARK_DELETE -/
  | parkDelete
  /-- PREFIX_DROP -/
  | prefixDrop
  /-- SHUTDOWN -/
  | shutdown
  /-- WEAR_CREDIT_TICK -/
  | wearCreditTick
  /-- PCIE_LINK_LOSS -/
  | pcieLinkLoss
  /-- FLR_PF0 -/
  | flrPf0
  /-- POISONED_WRITE_RX -/
  | poisonedWriteRx
  /-- CAP_CONTROLLER_STEP -/
  | capControllerStep
  /-- RAIL_FAULT -/
  | railFault
  /-- CLAMP_N_ASSERT -/
  | clampNAssert
  /-- CLAMP_N_RELEASE -/
  | clampNRelease
  /-- DORMANT_ENTRY -/
  | dormantEntry
  /-- RC_TRIM -/
  | rcTrim
  /-- SET_CAP -/
  | setCap
  /-- SET_ANTE -/
  | setAnte
  /-- SET_SHARES -/
  | setShares
  /-- SET_CLAMP_LEVEL -/
  | setClampLevel
  /-- STANDBY -/
  | standby
  /-- POWER_REPORT -/
  | powerReport
  /-- RESET_N_ASSERT -/
  | resetNAssert
  /-- GET_STAGE -/
  | getStage
  /-- STAGE_RECORD -/
  | stageRecord
  /-- CLEAR_STAGED -/
  | clearStaged
  /-- PARTITION_RESET -/
  | partitionReset
  /-- FOLD -/
  | fold
  /-- SWEEP_DUE -/
  | sweepDue
  /-- LEDGER_CHECKPOINT -/
  | ledgerCheckpoint
  /-- DAILY_FORECAST -/
  | dailyForecast
  /-- HEALTH_SUMMARY -/
  | healthSummary
  /-- HEALTH_ACK -/
  | healthAck
  /-- LEDGER_READ -/
  | ledgerRead
  /-- FORECAST_READ -/
  | forecastRead
  /-- HLT_PART_VALUE_READ -/
  | hltPartValueRead
  /-- MGT_TIME_READ -/
  | mgtTimeRead
  /-- UPDATE_BEGIN -/
  | updateBegin
  /-- UPDATE_STATUS -/
  | updateStatus
  /-- SET_CONDITIONS -/
  | setConditions
  /-- SHOWDOWN_CONFIRM -/
  | showdownConfirm
  /-- UPDATE_ABANDON -/
  | updateAbandon
  /-- ATTEST -/
  | attest
  /-- GET_IDENTITY -/
  | getIdentity
  /-- PRESENCE_LOSS -/
  | presenceLoss
  /-- GET_ENDPOINT_ID -/
  | getEndpointId
  /-- GET_MESSAGE_TYPE_SUPPORT -/
  | getMessageTypeSupport
  /-- GET_TID -/
  | getTid
  /-- GET_PLDM_TYPES -/
  | getPldmTypes
  /-- GET_PDR_REPOSITORY_INFO -/
  | getPdrRepositoryInfo
  /-- PRESENCE_RETURN -/
  | presenceReturn
  deriving DecidableEq, Repr

end Sys2Proof
end

