-- ==== Sys2Proof/Decode.lean ====
section
/-! DEFINITION. Decode.lean: commands spelled by words. The table of operations gives no row any bits: its commands are events, and what the
spec encodes in memory (descriptors, ring entries, packets, messages) is read by the meanings. -/
namespace Sys2Proof

/-- The command that a word spells by the table's bits. No row of the table has bits. -/
def decodeTableWord (_nbits _w : Nat) : Option Instr := none

end Sys2Proof
end

