-- ==== Sys2Proof/Machine/Bits.lean ====
section
/-! DEFINITION. Machine/Bits.lean: bit fields, little-endian byte lists, finite maps keyed by number, and the check-value
algorithms of R414 to R416. -/
namespace Sys2Proof.Machine

/-- Bits [lo + n - 1 : lo] of a number. -/
def bitsAt (w lo n : Nat) : Nat := w / 2 ^ lo % 2 ^ n

/-- Bit i of a number. -/
def bitOf (w i : Nat) : Bool := w / 2 ^ i % 2 == 1

/-- A number with bits [lo + n - 1 : lo] replaced. -/
def putBits (w lo n v : Nat) : Nat :=
  w % 2 ^ lo + (v % 2 ^ n) * 2 ^ lo + (w / 2 ^ (lo + n)) * 2 ^ (lo + n)

/-- Value of a bit range of a register word (R7). -/
def getField (f : BitField) (w : Word) : Nat := bitsAt w.toNat f.lo (f.hi + 1 - f.lo)

/-- A register word with a bit range replaced. -/
def putField (f : BitField) (v : Nat) (w : Word) : Word :=
  BitVec.ofNat 32 (putBits w.toNat f.lo (f.hi + 1 - f.lo) v)

def boolNat (b : Bool) : Nat := if b then 1 else 0

/-- Counters that stop at a limit. -/
def satAdd (limit a b : Nat) : Nat := min limit (a + b)

/-- A number of n bits read as two's complement. -/
def toSigned (n v : Nat) : Int :=
  let m := v % 2 ^ n
  if m < 2 ^ (n - 1) then (m : Int) else (m : Int) - (2 : Int) ^ n

/-- Two's complement of n bits. -/
def ofSigned (n : Nat) (v : Int) : Nat := (v % ((2 : Int) ^ n)).toNat

/-! Finite maps keyed by number: ascending keys, no repeats. -/

def mapGet {α : Type} (k : Nat) : List (Nat × α) → Option α
  | [] => none
  | (j, v) :: t => if j = k then some v else mapGet k t

def mapSet {α : Type} (k : Nat) (v : α) : List (Nat × α) → List (Nat × α)
  | [] => [(k, v)]
  | (j, u) :: t =>
    if k < j then (k, v) :: (j, u) :: t
    else if j = k then (k, v) :: t
    else (j, u) :: mapSet k v t

def mapDel {α : Type} (k : Nat) (m : List (Nat × α)) : List (Nat × α) := m.filter (fun p => decide (p.1 ≠ k))

/-- Drop every key that a test selects. -/
def mapDrop {α : Type} (p : Nat → Bool) (m : List (Nat × α)) : List (Nat × α) := m.filter (fun e => !p e.1)

def mapGetD {α : Type} (d : α) (k : Nat) (m : List (Nat × α)) : α := (mapGet k m).getD d

/-- Insertion into an ascending list of numbers without repeats. -/
def setInsert (k : Nat) : List Nat → List Nat
  | [] => [k]
  | j :: t => if k < j then k :: j :: t else if j = k then j :: t else j :: setInsert k t

def setErase (k : Nat) (l : List Nat) : List Nat := l.filter (fun j => decide (j ≠ k))

/-- Number as n bytes, least significant first. -/
def leBytes : Nat → Nat → List Byte
  | 0, _ => []
  | n + 1, v => BitVec.ofNat 8 v :: leBytes n (v / 256)

/-- Bytes, least significant first, as a number. -/
def ofLeBytes : List Byte → Nat
  | [] => 0
  | b :: t => b.toNat + 256 * ofLeBytes t

/-- n bytes of a list from an offset, absent bytes read as 0. -/
def sliceBytes (l : List Byte) (off n : Nat) : List Byte :=
  (List.range n).map (fun i => l.getD (off + i) 0)

/-- A little-endian quantity of n bytes inside a byte list. -/
def leAt (l : List Byte) (off n : Nat) : Nat := ofLeBytes (sliceBytes l off n)

/-! Check values (R414). -/

/-- The four algorithms of R414. -/
structure CrcAlg where
  width : Nat
  /-- polynomial, bit-reversed for a reflected algorithm -/
  poly : Nat
  init : Nat
  reflected : Bool
  xorOut : Nat
  deriving DecidableEq, Repr

/-- ALG of R414; reflected polynomials are written bit-reversed. -/
def crcAlg : Nat → CrcAlg
  | 0 => ⟨32, 0x82F63B78, 0xFFFFFFFF, true, 0xFFFFFFFF⟩
  | 1 => ⟨32, 0xEDB88320, 0xFFFFFFFF, true, 0xFFFFFFFF⟩
  | 2 => ⟨64, 0xC96C5795D7870F42, 0xFFFFFFFFFFFFFFFF, true, 0xFFFFFFFFFFFFFFFF⟩
  | _ => ⟨16, 0x1021, 0xFFFF, false, 0⟩

/-- n shift steps of a reflected register. -/
def crcStepReflected (poly : Nat) : Nat → Nat → Nat
  | 0, r => r
  | n + 1, r => crcStepReflected poly n (if r % 2 = 1 then (r / 2) ^^^ poly else r / 2)

/-- n shift steps of an unreflected register. -/
def crcStepPlain (width poly : Nat) : Nat → Nat → Nat
  | 0, r => r
  | n + 1, r =>
    let d := r * 2
    crcStepPlain width poly n (if r / 2 ^ (width - 1) % 2 = 1 then (d % 2 ^ width) ^^^ poly else d % 2 ^ width)

def crcByte (a : CrcAlg) (r : Nat) (b : Byte) : Nat :=
  if a.reflected then crcStepReflected a.poly 8 (r ^^^ b.toNat)
  else crcStepPlain a.width a.poly 8 (r ^^^ (b.toNat * 2 ^ (a.width - 8)))

/-- Feed bytes to a running value (R416). -/
def crcFeed (a : CrcAlg) (r : Nat) (l : List Byte) : Nat := l.foldl (crcByte a) r

/-- RESULT of a running value (R416): in the low WIDTH bits, every higher bit 0. -/
def crcResult (a : CrcAlg) (r : Nat) : Nat := (r ^^^ a.xorOut) % 2 ^ a.width

/-- The fold rule of R415: initial value, then the tag as 8 bytes, then the payload. -/
def crcTagged (a : CrcAlg) (tag : Nat) (l : List Byte) : Nat :=
  crcResult a (crcFeed a (crcFeed a a.init (leBytes 8 tag)) l)

/-- CRC-32C under the tag rule, as every structure of R412 but the update piece uses it. -/
def crc32cTagged (tag : Nat) (l : List Byte) : Nat := crcTagged (crcAlg 0) tag l

end Sys2Proof.Machine
end

