-- ==== Sys2Proof/Machine/Regs.lean ====
section
/-! DEFINITION. Machine/Regs.lean: the BAR0 register map of the module (R35 to R38 and the register tables of every chapter):
the offset of every register, the bit range of every field, and the table that gives each field its access class, its
reset value and its storing rule. -/
namespace Sys2Proof.Machine

/-! ### MGT -/
/-- R38 -/ def Reg.BLK_ID_MGT : Nat := 0x0
def Fld.BLK_ID_MGT_BLOCK : BitField := ⟨3, 0⟩
def Fld.BLK_ID_MGT_IF_MINOR : BitField := ⟨15, 8⟩
def Fld.BLK_ID_MGT_IF_MAJOR : BitField := ⟨23, 16⟩
/-- R38 R39 -/ def Reg.BLK_ERR_MGT : Nat := 0x4
def Fld.BLK_ERR_MGT_LAST_STATUS : BitField := ⟨15, 0⟩
def Fld.BLK_ERR_MGT_VALID : BitField := ⟨16, 16⟩
def Fld.BLK_ERR_MGT_OVERFLOW : BitField := ⟨17, 17⟩
/-- R38 R39 -/ def Reg.BLK_ERR_COUNT_MGT : Nat := 0x8
/-- R485 -/ def Reg.MGT_IDENT : Nat := 0x1000
def Fld.MGT_IDENT_VARIANT : BitField := ⟨1, 0⟩
def Fld.MGT_IDENT_GRADE : BitField := ⟨2, 2⟩
/-- R485 -/ def Reg.MGT_SERIAL_LO : Nat := 0x1004
/-- R485 -/ def Reg.MGT_SERIAL_HI : Nat := 0x1008
/-- R377 -/ def Reg.MGT_STATE : Nat := 0x100C
def Fld.MGT_STATE_STATE : BitField := ⟨2, 0⟩
def Fld.MGT_STATE_STAGE : BitField := ⟨7, 4⟩
def Fld.MGT_STATE_HALT_STATUS : BitField := ⟨31, 16⟩
/-- R19 -/ def Reg.MGT_TIME_LO : Nat := 0x1010
/-- R19 -/ def Reg.MGT_TIME_HI : Nat := 0x1014
/-- R381 -/ def Reg.MGT_CFG_GEN : Nat := 0x1018
/-- R381 -/ def Reg.MGT_CFG_BYTES : Nat := 0x101C
/-- R427 -/ def Reg.MGT_BRINGUPS : Nat := 0x1020
/-- R377 -/ def Reg.STAGE_STATUS (i : Nat) : Nat := 0x1100 + 0x40 * i
def Fld.STAGE_STATUS_STATUS : BitField := ⟨15, 0⟩
def Fld.STAGE_STATUS_RESULT : BitField := ⟨17, 16⟩
/-- R377 -/ def Reg.STAGE_DURATION (i : Nat) : Nat := 0x1104 + 0x40 * i
/-- R377 -/ def Reg.STAGE_START_LO (i : Nat) : Nat := 0x1108 + 0x40 * i
/-- R377 -/ def Reg.STAGE_START_HI (i : Nat) : Nat := 0x110C + 0x40 * i
/-- R377 -/ def Reg.STAGE_WORD (i j : Nat) : Nat := 0x1110 + 0x40 * i + 0x4 * j

/-- Register table of block MGT, part 0. -/
def regTableMGT0 : List RegSpec := [
  ⟨"BLK_ID_MGT", 0x0, 1, 0x0, 1, 0x0, .always,
    [⟨3, 0, .ro, false, .lit 0, .none⟩, ⟨15, 8, .ro, false, .lit 0, .none⟩, ⟨23, 16, .ro, false, .lit 1, .none⟩]⟩,
  ⟨"BLK_ERR_MGT", 0x4, 1, 0x0, 1, 0x0, .always,
    [⟨15, 0, .ro, false, .lit 0, .none⟩, ⟨16, 16, .w1c, false, .lit 0, .none⟩, ⟨17, 17, .w1c, false, .lit 0, .none⟩]⟩,
  ⟨"BLK_ERR_COUNT_MGT", 0x8, 1, 0x0, 1, 0x0, .always,
    [⟨31, 0, .ro, false, .lit 0, .none⟩]⟩,
  ⟨"MGT_IDENT", 0x1000, 1, 0x0, 1, 0x0, .always,
    [⟨1, 0, .ro, false, .fused .fusedVariant, .none⟩, ⟨2, 2, .ro, false, .fused .fusedGrade, .none⟩]⟩,
  ⟨"MGT_SERIAL_LO", 0x1004, 1, 0x0, 1, 0x0, .always,
    [⟨31, 0, .ro, false, .fused .fusedSerialLo, .none⟩]⟩,
  ⟨"MGT_SERIAL_HI", 0x1008, 1, 0x0, 1, 0x0, .always,
    [⟨31, 0, .ro, false, .fused .fusedSerialHi, .none⟩]⟩,
  ⟨"MGT_STATE", 0x100C, 1, 0x0, 1, 0x0, .always,
    [⟨2, 0, .ro, false, .lit 0, .none⟩, ⟨7, 4, .ro, false, .lit 0, .none⟩, ⟨31, 16, .ro, false, .lit 0, .none⟩]⟩,
  ⟨"MGT_TIME_LO", 0x1010, 1, 0x0, 1, 0x0, .always,
    [⟨31, 0, .ro, false, .lit 0, .none⟩]⟩,
  ⟨"MGT_TIME_HI", 0x1014, 1, 0x0, 1, 0x0, .always,
    [⟨31, 0, .ro, false, .lit 0, .none⟩]⟩,
  ⟨"MGT_CFG_GEN", 0x1018, 1, 0x0, 1, 0x0, .always,
    [⟨31, 0, .ro, true, .lit 0, .none⟩]⟩,
  ⟨"MGT_CFG_BYTES", 0x101C, 1, 0x0, 1, 0x0, .always,
    [⟨31, 0, .ro, true, .lit 0, .none⟩]⟩,
  ⟨"MGT_BRINGUPS", 0x1020, 1, 0x0, 1, 0x0, .always,
    [⟨31, 0, .ro, false, .lit 0, .none⟩]⟩,
  ⟨"STAGE_STATUS", 0x1100, 9, 0x40, 1, 0x0, .always,
    [⟨15, 0, .ro, false, .lit 0, .none⟩, ⟨17, 16, .ro, false, .lit 0, .none⟩]⟩,
  ⟨"STAGE_DURATION", 0x1104, 9, 0x40, 1, 0x0, .always,
    [⟨31, 0, .ro, false, .lit 0, .none⟩]⟩,
  ⟨"STAGE_START_LO", 0x1108, 9, 0x40, 1, 0x0, .always,
    [⟨31, 0, .ro, false, .lit 0, .none⟩]⟩,
  ⟨"STAGE_START_HI", 0x110C, 9, 0x40, 1, 0x0, .always,
    [⟨31, 0, .ro, false, .lit 0, .none⟩]⟩,
  ⟨"STAGE_WORD", 0x1110, 9, 0x40, 12, 0x4, .always,
    [⟨31, 0, .ro, false, .lit 0, .none⟩]⟩]
def regTableMGT : List RegSpec := regTableMGT0

/-! ### PWR -/
/-- R38 -/ def Reg.BLK_ID_PWR : Nat := 0x100000
def Fld.BLK_ID_PWR_BLOCK : BitField := ⟨3, 0⟩
def Fld.BLK_ID_PWR_IF_MINOR : BitField := ⟨15, 8⟩
def Fld.BLK_ID_PWR_IF_MAJOR : BitField := ⟨23, 16⟩
/-- R38 R39 -/ def Reg.BLK_ERR_PWR : Nat := 0x100004
def Fld.BLK_ERR_PWR_LAST_STATUS : BitField := ⟨15, 0⟩
def Fld.BLK_ERR_PWR_VALID : BitField := ⟨16, 16⟩
def Fld.BLK_ERR_PWR_OVERFLOW : BitField := ⟨17, 17⟩
/-- R38 R39 -/ def Reg.BLK_ERR_COUNT_PWR : Nat := 0x100008
/-- R372 -/ def Reg.PWR_FUSE : Nat := 0x101000
def Fld.PWR_FUSE_SUSTAINED_MHZ : BitField := ⟨11, 0⟩
def Fld.PWR_FUSE_BOOST_MHZ : BitField := ⟨23, 12⟩
def Fld.PWR_FUSE_GRADE : BitField := ⟨24, 24⟩
/-- R372 -/ def Reg.PWR_FUSE2 : Nat := 0x101004
def Fld.PWR_FUSE2_MAX_W : BitField := ⟨11, 0⟩
/-- R352 R361 R365 -/ def Reg.PWR_STATE : Nat := 0x101008
def Fld.PWR_STATE_STATE : BitField := ⟨2, 0⟩
def Fld.PWR_STATE_CLAMP : BitField := ⟨3, 3⟩
def Fld.PWR_STATE_CAP_LAG : BitField := ⟨4, 4⟩
def Fld.PWR_STATE_ANTE_SHORT : BitField := ⟨5, 5⟩
def Fld.PWR_STATE_THROTTLE : BitField := ⟨6, 6⟩
def Fld.PWR_STATE_CAP_MHZ : BitField := ⟨19, 8⟩
def Fld.PWR_STATE_DUTY : BitField := ⟨23, 20⟩
/-- R359 R373 -/ def Reg.PWR_CAP : Nat := 0x101010
def Fld.PWR_CAP_RACK_CAP_W : BitField := ⟨11, 0⟩
def Fld.PWR_CAP_HOST_CAP_W : BitField := ⟨27, 16⟩
/-- R359 -/ def Reg.PWR_CAP_EFF : Nat := 0x101014
def Fld.PWR_CAP_EFF_EFF_CAP_W : BitField := ⟨11, 0⟩
def Fld.PWR_CAP_EFF_CLAMP_PCT : BitField := ⟨22, 16⟩
/-- R366 -/ def Reg.PWR_ANTE : Nat := 0x101018
def Fld.PWR_ANTE_ANTE_W : BitField := ⟨11, 0⟩
def Fld.PWR_ANTE_ANTE_MODE : BitField := ⟨12, 12⟩
/-- R360 R373 -/ def Reg.PWR_SHARE : Nat := 0x10101C
def Fld.PWR_SHARE_SHARE_P0 : BitField := ⟨7, 0⟩
def Fld.PWR_SHARE_SHARE_P1 : BitField := ⟨15, 8⟩
def Fld.PWR_SHARE_SHARE_P2 : BitField := ⟨23, 16⟩
def Fld.PWR_SHARE_SHARE_P3 : BitField := ⟨31, 24⟩
/-- R363 R364 -/ def Reg.PWR_CFG : Nat := 0x101020
def Fld.PWR_CFG_FLOOR_MHZ : BitField := ⟨11, 0⟩
def Fld.PWR_CFG_BOOST_EN : BitField := ⟨12, 12⟩
def Fld.PWR_CFG_BOOST_CLUSTERS : BitField := ⟨17, 13⟩
def Fld.PWR_CFG_SPREAD : BitField := ⟨18, 18⟩
/-- R364 R370 -/ def Reg.PWR_CFG2 : Nat := 0x101024
def Fld.PWR_CFG2_BOOST_HEADROOM_W : BitField := ⟨11, 0⟩
def Fld.PWR_CFG2_T_BOOST : BitField := ⟨19, 12⟩
def Fld.PWR_CFG2_T_THROTTLE : BitField := ⟨27, 20⟩
/-- R353 -/ def Reg.PWR_IDLE : Nat := 0x101028
def Fld.PWR_IDLE_CORE_IDLE_US : BitField := ⟨15, 0⟩
def Fld.PWR_IDLE_CLUSTER_IDLE_US : BitField := ⟨31, 16⟩
/-- R353 R354 -/ def Reg.PWR_IDLE2 : Nat := 0x10102C
def Fld.PWR_IDLE2_HBM_IDLE_US : BitField := ⟨15, 0⟩
def Fld.PWR_IDLE2_DORMANT_IDLE_MS : BitField := ⟨31, 16⟩
/-- R358 -/ def Reg.PWR_MEAS : Nat := 0x101030
def Fld.PWR_MEAS_WINDOW_W : BitField := ⟨11, 0⟩
def Fld.PWR_MEAS_PEAK_W : BitField := ⟨27, 16⟩
/-- R362 -/ def Reg.PWR_CAP_OVER : Nat := 0x101034
/-- R362 -/ def Reg.PWR_OVER_TOTAL : Nat := 0x101038
/-- R360 -/ def Reg.PWR_FIXED : Nat := 0x10103C
/-- R363 R364 R370 -/ def Reg.PWR_DIE_CLK (i : Nat) : Nat := 0x101060 + 0x4 * i
def Fld.PWR_DIE_CLK_BASE_MHZ : BitField := ⟨11, 0⟩
def Fld.PWR_DIE_CLK_THERMAL_MHZ : BitField := ⟨23, 12⟩
def Fld.PWR_DIE_CLK_BOOSTED : BitField := ⟨28, 24⟩
/-- R359 R362 R363 R364 R365 R366 R370 R354 -/ def Reg.PWR_COUNTER (i : Nat) : Nat := 0x101100 + 0x4 * i
/-- R369 -/ def Reg.PWR_SENSOR (i : Nat) : Nat := 0x101200 + 0x4 * i
def Fld.PWR_SENSOR_VALUE : BitField := ⟨15, 0⟩
def Fld.PWR_SENSOR_MAX : BitField := ⟨31, 16⟩

/-- Register table of block PWR, part 0. -/
def regTablePWR0 : List RegSpec := [
  ⟨"BLK_ID_PWR", 0x100000, 1, 0x0, 1, 0x0, .always,
    [⟨3, 0, .ro, false, .lit 1, .none⟩, ⟨15, 8, .ro, false, .lit 0, .none⟩, ⟨23, 16, .ro, false, .lit 1, .none⟩]⟩,
  ⟨"BLK_ERR_PWR", 0x100004, 1, 0x0, 1, 0x0, .always,
    [⟨15, 0, .ro, false, .lit 0, .none⟩, ⟨16, 16, .w1c, false, .lit 0, .none⟩, ⟨17, 17, .w1c, false, .lit 0, .none⟩]⟩,
  ⟨"BLK_ERR_COUNT_PWR", 0x100008, 1, 0x0, 1, 0x0, .always,
    [⟨31, 0, .ro, false, .lit 0, .none⟩]⟩,
  ⟨"PWR_FUSE", 0x101000, 1, 0x0, 1, 0x0, .always,
    [⟨11, 0, .ro, false, .fused .fusedSustained, .none⟩, ⟨23, 12, .ro, false, .fused .fusedBoost, .none⟩, ⟨24, 24, .ro, false, .fused .fusedGrade, .none⟩]⟩,
  ⟨"PWR_FUSE2", 0x101004, 1, 0x0, 1, 0x0, .always,
    [⟨11, 0, .ro, false, .fused .fusedMaxW, .none⟩]⟩,
  ⟨"PWR_STATE", 0x101008, 1, 0x0, 1, 0x0, .always,
    [⟨2, 0, .ro, false, .lit 1, .none⟩, ⟨3, 3, .ro, false, .lit 0, .none⟩, ⟨4, 4, .ro, false, .lit 0, .none⟩, ⟨5, 5, .ro, false, .lit 0, .none⟩, ⟨6, 6, .ro, false, .lit 0, .none⟩, ⟨19, 8, .ro, false, .fused .fusedSustained, .none⟩, ⟨23, 20, .ro, false, .lit 15, .none⟩]⟩,
  ⟨"PWR_CAP", 0x101010, 1, 0x0, 1, 0x0, .always,
    [⟨11, 0, .ro, true, .fused .fusedMaxW, .powerCap⟩, ⟨27, 16, .rw, false, .lit 0, .hostCap⟩]⟩,
  ⟨"PWR_CAP_EFF", 0x101014, 1, 0x0, 1, 0x0, .always,
    [⟨11, 0, .ro, true, .fused .fusedMaxW, .powerCap⟩, ⟨22, 16, .ro, true, .lit 60, .clamp 20 100⟩]⟩,
  ⟨"PWR_ANTE", 0x101018, 1, 0x0, 1, 0x0, .always,
    [⟨11, 0, .ro, true, .lit 0, .upToMaxPower⟩, ⟨12, 12, .ro, true, .lit 0, .none⟩]⟩,
  ⟨"PWR_SHARE", 0x10101C, 1, 0x0, 1, 0x0, .always,
    [⟨7, 0, .ro, true, .lit 0, .none⟩, ⟨15, 8, .ro, true, .lit 0, .none⟩, ⟨23, 16, .ro, true, .lit 0, .none⟩, ⟨31, 24, .ro, true, .lit 0, .none⟩]⟩,
  ⟨"PWR_CFG", 0x101020, 1, 0x0, 1, 0x0, .always,
    [⟨11, 0, .rs, true, .lit 1000, .floorClock⟩, ⟨12, 12, .rs, true, .lit 1, .none⟩, ⟨17, 13, .rs, true, .lit 6, .clamp 0 24⟩, ⟨18, 18, .rs, true, .lit 1, .none⟩]⟩,
  ⟨"PWR_CFG2", 0x101024, 1, 0x0, 1, 0x0, .always,
    [⟨11, 0, .rs, true, .lit 100, .none⟩, ⟨27, 20, .rs, true, .lit 100, .outside 85 105 100⟩, ⟨19, 12, .rs, true, .lit 90, .boostTemp 27 20⟩]⟩,
  ⟨"PWR_IDLE", 0x101028, 1, 0x0, 1, 0x0, .always,
    [⟨15, 0, .rs, true, .lit 50, .zeroAs 1⟩, ⟨31, 16, .rs, true, .lit 200, .zeroAs 1⟩]⟩,
  ⟨"PWR_IDLE2", 0x10102C, 1, 0x0, 1, 0x0, .always,
    [⟨15, 0, .rs, true, .lit 200, .zeroAs 1⟩, ⟨31, 16, .rs, true, .lit 10, .zeroAs 1⟩]⟩,
  ⟨"PWR_MEAS", 0x101030, 1, 0x0, 1, 0x0, .always,
    [⟨11, 0, .ro, false, .lit 0, .none⟩, ⟨27, 16, .ro, false, .lit 0, .none⟩]⟩,
  ⟨"PWR_CAP_OVER", 0x101034, 1, 0x0, 1, 0x0, .always,
    [⟨31, 0, .ro, false, .lit 0, .none⟩]⟩,
  ⟨"PWR_OVER_TOTAL", 0x101038, 1, 0x0, 1, 0x0, .always,
    [⟨31, 0, .ro, false, .lit 0, .none⟩]⟩,
  ⟨"PWR_FIXED", 0x10103C, 1, 0x0, 1, 0x0, .always,
    [⟨31, 0, .ro, false, .lit 0, .none⟩]⟩,
  ⟨"PWR_DIE_CLK", 0x101060, 4, 0x4, 1, 0x0, .always,
    [⟨11, 0, .ro, false, .fused .fusedSustained, .none⟩, ⟨23, 12, .ro, false, .fused .fusedSustained, .none⟩, ⟨28, 24, .ro, false, .lit 0, .none⟩]⟩,
  ⟨"PWR_COUNTER", 0x101100, 8, 0x4, 1, 0x0, .always,
    [⟨31, 0, .ro, false, .lit 0, .none⟩]⟩]
/-- Register table of block PWR, part 1. -/
def regTablePWR1 : List RegSpec := [
  ⟨"PWR_SENSOR", 0x101200, 53, 0x4, 1, 0x0, .always,
    [⟨15, 0, .ro, false, .lit 0, .none⟩, ⟨31, 16, .ro, false, .lit 0, .none⟩]⟩]
def regTablePWR : List RegSpec := regTablePWR0 ++ regTablePWR1

/-! ### DEAL -/
/-- R38 -/ def Reg.BLK_ID_DEAL : Nat := 0x200000
def Fld.BLK_ID_DEAL_BLOCK : BitField := ⟨3, 0⟩
def Fld.BLK_ID_DEAL_IF_MINOR : BitField := ⟨15, 8⟩
def Fld.BLK_ID_DEAL_IF_MAJOR : BitField := ⟨23, 16⟩
/-- R38 R39 -/ def Reg.BLK_ERR_DEAL : Nat := 0x200004
def Fld.BLK_ERR_DEAL_LAST_STATUS : BitField := ⟨15, 0⟩
def Fld.BLK_ERR_DEAL_VALID : BitField := ⟨16, 16⟩
def Fld.BLK_ERR_DEAL_OVERFLOW : BitField := ⟨17, 17⟩
/-- R38 R39 -/ def Reg.BLK_ERR_COUNT_DEAL : Nat := 0x200008
/-- R112 R100 R97 -/ def Reg.DEAL_CFG : Nat := 0x201000
def Fld.DEAL_CFG_TIMEOUT_MULT : BitField := ⟨3, 0⟩
def Fld.DEAL_CFG_TRUMP_BORROW : BitField := ⟨15, 8⟩
def Fld.DEAL_CFG_BG_MAX_WAIT : BitField := ⟨31, 16⟩
/-- R394 -/ def Reg.DEAL_DECK_EPOCH : Nat := 0x201004
def Fld.DEAL_DECK_EPOCH_EPOCH : BitField := ⟨31, 0⟩
/-- R362 R360 -/ def Reg.DEAL_STATE : Nat := 0x201008
def Fld.DEAL_STATE_CAP_LAG : BitField := ⟨0, 0⟩
def Fld.DEAL_STATE_PART_RUNNING : BitField := ⟨7, 4⟩
/-- R104 R116 -/ def Reg.PART_CTRL (i : Nat) : Nat := 0x202000 + 0x1000 * i
def Fld.PART_CTRL_ENABLE : BitField := ⟨0, 0⟩
def Fld.PART_CTRL_ABORT_SQ : BitField := ⟨3, 1⟩
/-- R116 -/ def Reg.ABORT_SEQ (i : Nat) : Nat := 0x202004 + 0x1000 * i
def Fld.ABORT_SEQ_SEQ : BitField := ⟨31, 0⟩
/-- R100 -/ def Reg.WINDOW_BUDGET (i : Nat) : Nat := 0x202010 + 0x1000 * i
/-- R100 -/ def Reg.WINDOW_CHARGED (i : Nat) : Nat := 0x202014 + 0x1000 * i
/-- R100 -/ def Reg.WINDOW_DEBT (i : Nat) : Nat := 0x202018 + 0x1000 * i
/-- R98 -/ def Reg.ISSUED (i j : Nat) : Nat := 0x202020 + 0x1000 * i + 0x4 * j
/-- R91 -/ def Reg.READY (i j : Nat) : Nat := 0x202040 + 0x1000 * i + 0x4 * j
/-- R89 -/ def Reg.IN_FLIGHT (i : Nat) : Nat := 0x202060 + 0x1000 * i
def Fld.IN_FLIGHT_GRAPHS : BitField := ⟨6, 0⟩
def Fld.IN_FLIGHT_TASKS : BitField := ⟨23, 8⟩
/-- R102 -/ def Reg.SQ_BASE_LO (i j : Nat) : Nat := 0x202100 + 0x1000 * i + 0x40 * j
/-- R102 -/ def Reg.SQ_BASE_HI (i j : Nat) : Nat := 0x202104 + 0x1000 * i + 0x40 * j
/-- R102 -/ def Reg.CQ_BASE_LO (i j : Nat) : Nat := 0x202120 + 0x1000 * i + 0x40 * j
/-- R102 -/ def Reg.CQ_BASE_HI (i j : Nat) : Nat := 0x202124 + 0x1000 * i + 0x40 * j
/-- R102 R104 -/ def Reg.SQ_CFG (i j : Nat) : Nat := 0x202108 + 0x1000 * i + 0x40 * j
def Fld.SQ_CFG_SIZE_LOG2 : BitField := ⟨3, 0⟩
def Fld.SQ_CFG_SPACE : BitField := ⟨4, 4⟩
def Fld.SQ_CFG_CQ : BitField := ⟨7, 5⟩
def Fld.SQ_CFG_ENABLE : BitField := ⟨31, 31⟩
/-- R102 R106 -/ def Reg.CQ_CFG (i j : Nat) : Nat := 0x202128 + 0x1000 * i + 0x40 * j
def Fld.CQ_CFG_SIZE_LOG2 : BitField := ⟨3, 0⟩
def Fld.CQ_CFG_SPACE : BitField := ⟨4, 4⟩
def Fld.CQ_CFG_VECTOR : BitField := ⟨15, 8⟩
def Fld.CQ_CFG_IRQ_EN : BitField := ⟨16, 16⟩
def Fld.CQ_CFG_ENABLE : BitField := ⟨31, 31⟩
/-- R104 -/ def Reg.SQ_HEAD (i j : Nat) : Nat := 0x20210C + 0x1000 * i + 0x40 * j
/-- R87 -/ def Reg.SQ_EXPECT (i j : Nat) : Nat := 0x202110 + 0x1000 * i + 0x40 * j
/-- R316 -/ def Reg.SQ_TAIL (i j : Nat) : Nat := 0x202114 + 0x1000 * i + 0x40 * j
/-- R106 -/ def Reg.CQ_TAIL (i j : Nat) : Nat := 0x20212C + 0x1000 * i + 0x40 * j
/-- R107 -/ def Reg.CQ_HEAD (i j : Nat) : Nat := 0x202130 + 0x1000 * i + 0x40 * j

/-- Register table of block DEAL, part 0. -/
def regTableDEAL0 : List RegSpec := [
  ⟨"BLK_ID_DEAL", 0x200000, 1, 0x0, 1, 0x0, .always,
    [⟨3, 0, .ro, false, .lit 2, .none⟩, ⟨15, 8, .ro, false, .lit 0, .none⟩, ⟨23, 16, .ro, false, .lit 1, .none⟩]⟩,
  ⟨"BLK_ERR_DEAL", 0x200004, 1, 0x0, 1, 0x0, .always,
    [⟨15, 0, .ro, false, .lit 0, .none⟩, ⟨16, 16, .w1c, false, .lit 0, .none⟩, ⟨17, 17, .w1c, false, .lit 0, .none⟩]⟩,
  ⟨"BLK_ERR_COUNT_DEAL", 0x200008, 1, 0x0, 1, 0x0, .always,
    [⟨31, 0, .ro, false, .lit 0, .none⟩]⟩,
  ⟨"DEAL_CFG", 0x201000, 1, 0x0, 1, 0x0, .always,
    [⟨3, 0, .rw, true, .lit 8, .zeroAs 1⟩, ⟨15, 8, .rs, true, .lit 25, .clamp 0 50⟩, ⟨31, 16, .rs, true, .lit 50, .zeroAs 1⟩]⟩,
  ⟨"DEAL_DECK_EPOCH", 0x201004, 1, 0x0, 1, 0x0, .always,
    [⟨31, 0, .ro, false, .lit 0, .none⟩]⟩,
  ⟨"DEAL_STATE", 0x201008, 1, 0x0, 1, 0x0, .always,
    [⟨0, 0, .ro, false, .lit 0, .none⟩, ⟨7, 4, .ro, false, .lit 0, .none⟩]⟩,
  ⟨"PART_CTRL", 0x202000, 4, 0x1000, 1, 0x0, .always,
    [⟨0, 0, .rw, false, .lit 0, .none⟩, ⟨3, 1, .rw, false, .lit 0, .none⟩]⟩,
  ⟨"ABORT_SEQ", 0x202004, 4, 0x1000, 1, 0x0, .always,
    [⟨31, 0, .wo, false, .lit 0, .none⟩]⟩,
  ⟨"WINDOW_BUDGET", 0x202010, 4, 0x1000, 1, 0x0, .always,
    [⟨31, 0, .ro, false, .lit 0, .none⟩]⟩,
  ⟨"WINDOW_CHARGED", 0x202014, 4, 0x1000, 1, 0x0, .always,
    [⟨31, 0, .ro, false, .lit 0, .none⟩]⟩,
  ⟨"WINDOW_DEBT", 0x202018, 4, 0x1000, 1, 0x0, .always,
    [⟨31, 0, .ro, false, .lit 0, .none⟩]⟩,
  ⟨"ISSUED", 0x202020, 4, 0x1000, 5, 0x4, .always,
    [⟨31, 0, .ro, false, .lit 0, .none⟩]⟩,
  ⟨"READY", 0x202040, 4, 0x1000, 5, 0x4, .always,
    [⟨15, 0, .ro, false, .lit 0, .none⟩]⟩,
  ⟨"IN_FLIGHT", 0x202060, 4, 0x1000, 1, 0x0, .always,
    [⟨6, 0, .ro, false, .lit 0, .none⟩, ⟨23, 8, .ro, false, .lit 0, .none⟩]⟩,
  ⟨"SQ_BASE_LO", 0x202100, 4, 0x1000, 8, 0x40, .always,
    [⟨31, 0, .rl, false, .lit 0, .none⟩]⟩,
  ⟨"SQ_BASE_HI", 0x202104, 4, 0x1000, 8, 0x40, .always,
    [⟨31, 0, .rl, false, .lit 0, .none⟩]⟩,
  ⟨"CQ_BASE_LO", 0x202120, 4, 0x1000, 8, 0x40, .always,
    [⟨31, 0, .rl, false, .lit 0, .none⟩]⟩,
  ⟨"CQ_BASE_HI", 0x202124, 4, 0x1000, 8, 0x40, .always,
    [⟨31, 0, .rl, false, .lit 0, .none⟩]⟩,
  ⟨"SQ_CFG", 0x202108, 4, 0x1000, 8, 0x40, .always,
    [⟨3, 0, .rl, false, .lit 4, .outside 4 12 4⟩, ⟨4, 4, .rl, false, .lit 0, .none⟩, ⟨7, 5, .rl, false, .lit 0, .none⟩, ⟨31, 31, .rw, false, .lit 0, .none⟩]⟩,
  ⟨"CQ_CFG", 0x202128, 4, 0x1000, 8, 0x40, .always,
    [⟨3, 0, .rl, false, .lit 4, .outside 4 12 4⟩, ⟨4, 4, .rl, false, .lit 0, .none⟩, ⟨15, 8, .rl, false, .lit 0, .none⟩, ⟨16, 16, .rw, false, .lit 0, .none⟩, ⟨31, 31, .rw, false, .lit 0, .none⟩]⟩]
/-- Register table of block DEAL, part 1. -/
def regTableDEAL1 : List RegSpec := [
  ⟨"SQ_HEAD", 0x20210C, 4, 0x1000, 8, 0x40, .always,
    [⟨31, 0, .ro, false, .lit 0, .none⟩]⟩,
  ⟨"SQ_EXPECT", 0x202110, 4, 0x1000, 8, 0x40, .always,
    [⟨31, 0, .ro, false, .lit 0, .none⟩]⟩,
  ⟨"SQ_TAIL", 0x202114, 4, 0x1000, 8, 0x40, .always,
    [⟨31, 0, .rw, false, .lit 0, .none⟩]⟩,
  ⟨"CQ_TAIL", 0x20212C, 4, 0x1000, 8, 0x40, .always,
    [⟨31, 0, .ro, false, .lit 0, .none⟩]⟩,
  ⟨"CQ_HEAD", 0x202130, 4, 0x1000, 8, 0x40, .always,
    [⟨31, 0, .rw, false, .lit 0, .none⟩]⟩]
def regTableDEAL : List RegSpec := regTableDEAL0 ++ regTableDEAL1

/-! ### SRV -/
/-- R38 -/ def Reg.BLK_ID_SRV : Nat := 0x300000
def Fld.BLK_ID_SRV_BLOCK : BitField := ⟨3, 0⟩
def Fld.BLK_ID_SRV_IF_MINOR : BitField := ⟨15, 8⟩
def Fld.BLK_ID_SRV_IF_MAJOR : BitField := ⟨23, 16⟩
/-- R38 R39 -/ def Reg.BLK_ERR_SRV : Nat := 0x300004
def Fld.BLK_ERR_SRV_LAST_STATUS : BitField := ⟨15, 0⟩
def Fld.BLK_ERR_SRV_VALID : BitField := ⟨16, 16⟩
def Fld.BLK_ERR_SRV_OVERFLOW : BitField := ⟨17, 17⟩
/-- R38 R39 -/ def Reg.BLK_ERR_COUNT_SRV : Nat := 0x300008
/-- R32 -/ def Reg.SRV_HR_SHARE : Nat := 0x301000
def Fld.SRV_HR_SHARE_SHARE_P0 : BitField := ⟨4, 0⟩
def Fld.SRV_HR_SHARE_SHARE_P1 : BitField := ⟨12, 8⟩
def Fld.SRV_HR_SHARE_SHARE_P2 : BitField := ⟨20, 16⟩
def Fld.SRV_HR_SHARE_SHARE_P3 : BitField := ⟨28, 24⟩
/-- R153 -/ def Reg.PART_SRV_CTRL (i : Nat) : Nat := 0x302000 + 0x1000 * i
def Fld.PART_SRV_CTRL_ENABLE : BitField := ⟨0, 0⟩
/-- R153 -/ def Reg.PART_SRV_COUNT (i : Nat) : Nat := 0x302004 + 0x1000 * i
def Fld.PART_SRV_COUNT_HELD : BitField := ⟨12, 0⟩
def Fld.PART_SRV_COUNT_HR_FREE : BitField := ⟨31, 16⟩
/-- R151 -/ def Reg.RQ_BASE_LO (i j : Nat) : Nat := 0x302100 + 0x1000 * i + 0x40 * j
/-- R151 -/ def Reg.RQ_BASE_HI (i j : Nat) : Nat := 0x302104 + 0x1000 * i + 0x40 * j
/-- R151 -/ def Reg.SCQ_BASE_LO (i j : Nat) : Nat := 0x302120 + 0x1000 * i + 0x40 * j
/-- R151 -/ def Reg.SCQ_BASE_HI (i j : Nat) : Nat := 0x302124 + 0x1000 * i + 0x40 * j
/-- R153 -/ def Reg.RQ_CFG (i j : Nat) : Nat := 0x302108 + 0x1000 * i + 0x40 * j
def Fld.RQ_CFG_SIZE_LOG2 : BitField := ⟨3, 0⟩
def Fld.RQ_CFG_SPACE : BitField := ⟨4, 4⟩
def Fld.RQ_CFG_SCQ : BitField := ⟨6, 5⟩
def Fld.RQ_CFG_ENABLE : BitField := ⟨31, 31⟩
/-- R151 -/ def Reg.SCQ_CFG (i j : Nat) : Nat := 0x302128 + 0x1000 * i + 0x40 * j
def Fld.SCQ_CFG_SIZE_LOG2 : BitField := ⟨3, 0⟩
def Fld.SCQ_CFG_SPACE : BitField := ⟨4, 4⟩
def Fld.SCQ_CFG_VECTOR : BitField := ⟨15, 8⟩
def Fld.SCQ_CFG_IRQ_EN : BitField := ⟨16, 16⟩
def Fld.SCQ_CFG_ENABLE : BitField := ⟨31, 31⟩
/-- R153 -/ def Reg.RQ_HEAD (i j : Nat) : Nat := 0x30210C + 0x1000 * i + 0x40 * j
/-- R316 -/ def Reg.RQ_TAIL (i j : Nat) : Nat := 0x302114 + 0x1000 * i + 0x40 * j
/-- R151 -/ def Reg.SCQ_TAIL (i j : Nat) : Nat := 0x30212C + 0x1000 * i + 0x40 * j
/-- R151 -/ def Reg.SCQ_HEAD (i j : Nat) : Nat := 0x302130 + 0x1000 * i + 0x40 * j
/-- R155 R158 -/ def Reg.CLASS_TTFT (i j : Nat) : Nat := 0x302400 + 0x1000 * i + 0x20 * j
def Fld.CLASS_TTFT_TTFT_LIMIT_MS : BitField := ⟨15, 0⟩
def Fld.CLASS_TTFT_HOLD_MAX_MS : BitField := ⟨31, 16⟩
/-- R155 R156 -/ def Reg.CLASS_TBT (i j : Nat) : Nat := 0x302404 + 0x1000 * i + 0x20 * j
def Fld.CLASS_TBT_TBT_TARGET_MS : BitField := ⟨15, 0⟩
/-- R154 R155 R158 -/ def Reg.CLASS_COMPLETED (i j : Nat) : Nat := 0x302408 + 0x1000 * i + 0x20 * j
/-- R154 R155 R158 -/ def Reg.CLASS_TTFT_OVER (i j : Nat) : Nat := 0x30240C + 0x1000 * i + 0x20 * j
/-- R154 R155 R158 -/ def Reg.CLASS_TBT_OVER (i j : Nat) : Nat := 0x302410 + 0x1000 * i + 0x20 * j
/-- R154 R155 R158 -/ def Reg.CLASS_DEADLINE (i j : Nat) : Nat := 0x302414 + 0x1000 * i + 0x20 * j
/-- R142 R153 R243 -/ def Reg.SLOT_CTRL (i : Nat) : Nat := 0x306000 + 0x400 * i
def Fld.SLOT_CTRL_STATE : BitField := ⟨1, 0⟩
def Fld.SLOT_CTRL_OWNER : BitField := ⟨4, 2⟩
def Fld.SLOT_CTRL_OWNED : BitField := ⟨5, 5⟩
def Fld.SLOT_CTRL_LEAD : BitField := ⟨6, 6⟩
/-- R161 R156 -/ def Reg.SLOT_CFG (i : Nat) : Nat := 0x306004 + 0x400 * i
def Fld.SLOT_CFG_TOKEN_BUDGET : BitField := ⟨14, 0⟩
def Fld.SLOT_CFG_SPEC_DEPTH : BitField := ⟨18, 16⟩
def Fld.SLOT_CFG_RISK_PCT : BitField := ⟨30, 24⟩
/-- R156 R172 R158 -/ def Reg.SLOT_CFG2 (i : Nat) : Nat := 0x306008 + 0x400 * i
def Fld.SLOT_CFG2_PREFILL_FLOOR : BitField := ⟨11, 0⟩
def Fld.SLOT_CFG2_ABANDON_LIMIT : BitField := ⟨15, 12⟩
def Fld.SLOT_CFG2_MAX_SEQS : BitField := ⟨31, 16⟩
/-- R176 -/ def Reg.SLOT_GEOM (i : Nat) : Nat := 0x30600C + 0x400 * i
def Fld.SLOT_GEOM_LAYERS : BitField := ⟨7, 0⟩
def Fld.SLOT_GEOM_HEADS : BitField := ⟨16, 8⟩
/-- R176 -/ def Reg.SLOT_HIDDEN (i : Nat) : Nat := 0x306010 + 0x400 * i
def Fld.SLOT_HIDDEN_HIDDEN : BitField := ⟨23, 0⟩
/-- R154 -/ def Reg.SLOT_MAXPOS (i : Nat) : Nat := 0x306014 + 0x400 * i
def Fld.SLOT_MAXPOS_MAX_POSITIONS : BitField := ⟨23, 0⟩
/-- R159 R160 R176 -/ def Reg.VARIANT_BASE_LO (i : Nat) : Nat := 0x306018 + 0x400 * i
/-- R159 R160 R176 -/ def Reg.VARIANT_BASE_HI (i : Nat) : Nat := 0x30601C + 0x400 * i
/-- R159 R160 R176 -/ def Reg.CODEBOOK_BASE_LO (i : Nat) : Nat := 0x306028 + 0x400 * i
/-- R159 R160 R176 -/ def Reg.CODEBOOK_BASE_HI (i : Nat) : Nat := 0x30602C + 0x400 * i
/-- R159 R160 R176 -/ def Reg.TEMPLATE_TABLE_BASE_LO (i : Nat) : Nat := 0x306030 + 0x400 * i
/-- R159 R160 R176 -/ def Reg.TEMPLATE_TABLE_BASE_HI (i : Nat) : Nat := 0x306034 + 0x400 * i
/-- R159 R160 R176 -/ def Reg.ROW_TABLE_BASE_LO (i : Nat) : Nat := 0x306038 + 0x400 * i
/-- R159 R160 R176 -/ def Reg.ROW_TABLE_BASE_HI (i : Nat) : Nat := 0x30603C + 0x400 * i
/-- R178 -/ def Reg.VARIANT_COUNT (i : Nat) : Nat := 0x306020 + 0x400 * i
/-- R166 -/ def Reg.SLOT_TIMEOUT (i : Nat) : Nat := 0x306040 + 0x400 * i
def Fld.SLOT_TIMEOUT_GROUP_TIMEOUT_MS : BitField := ⟨15, 0⟩
/-- R145 -/ def Reg.TRICK_LO (i : Nat) : Nat := 0x306080 + 0x400 * i
/-- R145 -/ def Reg.TRICK_HI (i : Nat) : Nat := 0x306084 + 0x400 * i
/-- R156 R157 R169 R172 -/ def Reg.TRICK_TIME_AVG (i : Nat) : Nat := 0x306088 + 0x400 * i
/-- R156 R157 R169 R172 -/ def Reg.PREFILL_CAP (i : Nat) : Nat := 0x30608C + 0x400 * i
/-- R156 R157 R169 R172 -/ def Reg.SLOT_RUNNING (i : Nat) : Nat := 0x306090 + 0x400 * i
/-- R156 R157 R169 R172 -/ def Reg.ABANDONED (i : Nat) : Nat := 0x306094 + 0x400 * i
/-- R156 R157 R169 R172 -/ def Reg.SPEC_PROPOSED (i : Nat) : Nat := 0x306098 + 0x400 * i
/-- R156 R157 R169 R172 -/ def Reg.SPEC_ACCEPTED (i : Nat) : Nat := 0x30609C + 0x400 * i

/-- Register table of block SRV, part 0. -/
def regTableSRV0 : List RegSpec := [
  ⟨"BLK_ID_SRV", 0x300000, 1, 0x0, 1, 0x0, .always,
    [⟨3, 0, .ro, false, .lit 3, .none⟩, ⟨15, 8, .ro, false, .lit 0, .none⟩, ⟨23, 16, .ro, false, .lit 1, .none⟩]⟩,
  ⟨"BLK_ERR_SRV", 0x300004, 1, 0x0, 1, 0x0, .always,
    [⟨15, 0, .ro, false, .lit 0, .none⟩, ⟨16, 16, .w1c, false, .lit 0, .none⟩, ⟨17, 17, .w1c, false, .lit 0, .none⟩]⟩,
  ⟨"BLK_ERR_COUNT_SRV", 0x300008, 1, 0x0, 1, 0x0, .always,
    [⟨31, 0, .ro, false, .lit 0, .none⟩]⟩,
  ⟨"SRV_HR_SHARE", 0x301000, 1, 0x0, 1, 0x0, .always,
    [⟨4, 0, .ro, true, .lit 0, .clamp 0 16⟩, ⟨12, 8, .ro, true, .lit 0, .clamp 0 16⟩, ⟨20, 16, .ro, true, .lit 0, .clamp 0 16⟩, ⟨28, 24, .ro, true, .lit 0, .clamp 0 16⟩]⟩,
  ⟨"PART_SRV_CTRL", 0x302000, 4, 0x1000, 1, 0x0, .always,
    [⟨0, 0, .rw, false, .lit 0, .none⟩]⟩,
  ⟨"PART_SRV_COUNT", 0x302004, 4, 0x1000, 1, 0x0, .always,
    [⟨12, 0, .ro, false, .lit 0, .none⟩, ⟨31, 16, .ro, false, .lit 0, .none⟩]⟩,
  ⟨"RQ_BASE_LO", 0x302100, 4, 0x1000, 4, 0x40, .always,
    [⟨31, 0, .rl, false, .lit 0, .none⟩]⟩,
  ⟨"RQ_BASE_HI", 0x302104, 4, 0x1000, 4, 0x40, .always,
    [⟨31, 0, .rl, false, .lit 0, .none⟩]⟩,
  ⟨"SCQ_BASE_LO", 0x302120, 4, 0x1000, 4, 0x40, .always,
    [⟨31, 0, .rl, false, .lit 0, .none⟩]⟩,
  ⟨"SCQ_BASE_HI", 0x302124, 4, 0x1000, 4, 0x40, .always,
    [⟨31, 0, .rl, false, .lit 0, .none⟩]⟩,
  ⟨"RQ_CFG", 0x302108, 4, 0x1000, 4, 0x40, .always,
    [⟨3, 0, .rl, false, .lit 4, .outside 4 12 4⟩, ⟨4, 4, .rl, false, .lit 0, .none⟩, ⟨6, 5, .rl, false, .lit 0, .none⟩, ⟨31, 31, .rw, false, .lit 0, .none⟩]⟩,
  ⟨"SCQ_CFG", 0x302128, 4, 0x1000, 4, 0x40, .always,
    [⟨3, 0, .rl, false, .lit 4, .outside 4 12 4⟩, ⟨4, 4, .rl, false, .lit 0, .none⟩, ⟨15, 8, .rl, false, .lit 0, .none⟩, ⟨16, 16, .rw, false, .lit 0, .none⟩, ⟨31, 31, .rw, false, .lit 0, .none⟩]⟩,
  ⟨"RQ_HEAD", 0x30210C, 4, 0x1000, 4, 0x40, .always,
    [⟨31, 0, .ro, false, .lit 0, .none⟩]⟩,
  ⟨"RQ_TAIL", 0x302114, 4, 0x1000, 4, 0x40, .always,
    [⟨31, 0, .rw, false, .lit 0, .none⟩]⟩,
  ⟨"SCQ_TAIL", 0x30212C, 4, 0x1000, 4, 0x40, .always,
    [⟨31, 0, .ro, false, .lit 0, .none⟩]⟩,
  ⟨"SCQ_HEAD", 0x302130, 4, 0x1000, 4, 0x40, .always,
    [⟨31, 0, .rw, false, .lit 0, .none⟩]⟩,
  ⟨"CLASS_TTFT", 0x302400, 4, 0x1000, 8, 0x20, .always,
    [⟨15, 0, .rs, true, .lit 5000, .zeroAs 1⟩, ⟨31, 16, .rs, true, .lit 0, .none⟩]⟩,
  ⟨"CLASS_TBT", 0x302404, 4, 0x1000, 8, 0x20, .always,
    [⟨15, 0, .rs, true, .lit 100, .none⟩]⟩,
  ⟨"CLASS_COMPLETED", 0x302408, 4, 0x1000, 8, 0x20, .always,
    [⟨31, 0, .ro, false, .lit 0, .none⟩]⟩,
  ⟨"CLASS_TTFT_OVER", 0x30240C, 4, 0x1000, 8, 0x20, .always,
    [⟨31, 0, .ro, false, .lit 0, .none⟩]⟩]
/-- Register table of block SRV, part 1. -/
def regTableSRV1 : List RegSpec := [
  ⟨"CLASS_TBT_OVER", 0x302410, 4, 0x1000, 8, 0x20, .always,
    [⟨31, 0, .ro, false, .lit 0, .none⟩]⟩,
  ⟨"CLASS_DEADLINE", 0x302414, 4, 0x1000, 8, 0x20, .always,
    [⟨31, 0, .ro, false, .lit 0, .none⟩]⟩,
  ⟨"SLOT_CTRL", 0x306000, 8, 0x400, 1, 0x0, .always,
    [⟨1, 0, .ro, false, .lit 0, .none⟩, ⟨4, 2, .ro, true, .lit 0, .clamp 0 3⟩, ⟨5, 5, .ro, true, .lit 0, .none⟩, ⟨6, 6, .ro, true, .lit 0, .none⟩]⟩,
  ⟨"SLOT_CFG", 0x306004, 8, 0x400, 1, 0x0, .always,
    [⟨14, 0, .rs, true, .lit 0, .multiple 64 64 16384⟩, ⟨18, 16, .rs, true, .lit 0, .none⟩, ⟨30, 24, .rs, true, .lit 80, .outside 50 100 80⟩]⟩,
  ⟨"SLOT_CFG2", 0x306008, 8, 0x400, 1, 0x0, .always,
    [⟨11, 0, .rs, true, .lit 64, .multiple 64 0 2048⟩, ⟨15, 12, .rs, true, .lit 3, .zeroAs 1⟩, ⟨31, 16, .rs, true, .lit 0, .clamp 1 65535⟩]⟩,
  ⟨"SLOT_GEOM", 0x30600C, 8, 0x400, 1, 0x0, .always,
    [⟨7, 0, .rl, true, .lit 0, .clamp 1 255⟩, ⟨16, 8, .rl, true, .lit 0, .clamp 1 256⟩]⟩,
  ⟨"SLOT_HIDDEN", 0x306010, 8, 0x400, 1, 0x0, .always,
    [⟨23, 0, .rl, true, .lit 0, .clamp 64 65536⟩]⟩,
  ⟨"SLOT_MAXPOS", 0x306014, 8, 0x400, 1, 0x0, .always,
    [⟨23, 0, .rl, true, .lit 0, .clamp 128 16777215⟩]⟩,
  ⟨"VARIANT_BASE_LO", 0x306018, 8, 0x400, 1, 0x0, .always,
    [⟨31, 0, .rl, true, .lit 0, .multiple 64 0 4294967295⟩]⟩,
  ⟨"VARIANT_BASE_HI", 0x30601C, 8, 0x400, 1, 0x0, .always,
    [⟨15, 0, .rl, true, .lit 0, .none⟩]⟩,
  ⟨"CODEBOOK_BASE_LO", 0x306028, 8, 0x400, 1, 0x0, .always,
    [⟨31, 0, .rl, true, .lit 0, .multiple 64 0 4294967295⟩]⟩,
  ⟨"CODEBOOK_BASE_HI", 0x30602C, 8, 0x400, 1, 0x0, .always,
    [⟨15, 0, .rl, true, .lit 0, .none⟩]⟩,
  ⟨"TEMPLATE_TABLE_BASE_LO", 0x306030, 8, 0x400, 1, 0x0, .always,
    [⟨31, 0, .rl, true, .lit 0, .multiple 64 0 4294967295⟩]⟩,
  ⟨"TEMPLATE_TABLE_BASE_HI", 0x306034, 8, 0x400, 1, 0x0, .always,
    [⟨15, 0, .rl, true, .lit 0, .none⟩]⟩,
  ⟨"ROW_TABLE_BASE_LO", 0x306038, 8, 0x400, 1, 0x0, .always,
    [⟨31, 0, .rl, true, .lit 0, .multiple 64 0 4294967295⟩]⟩,
  ⟨"ROW_TABLE_BASE_HI", 0x30603C, 8, 0x400, 1, 0x0, .always,
    [⟨15, 0, .rl, true, .lit 0, .none⟩]⟩,
  ⟨"VARIANT_COUNT", 0x306020, 8, 0x400, 1, 0x0, .always,
    [⟨14, 0, .rl, true, .lit 0, .clamp 1 16384⟩]⟩,
  ⟨"SLOT_TIMEOUT", 0x306040, 8, 0x400, 1, 0x0, .always,
    [⟨15, 0, .rs, true, .lit 1000, .zeroAs 1⟩]⟩,
  ⟨"TRICK_LO", 0x306080, 8, 0x400, 1, 0x0, .always,
    [⟨31, 0, .ro, false, .lit 0, .none⟩]⟩,
  ⟨"TRICK_HI", 0x306084, 8, 0x400, 1, 0x0, .always,
    [⟨15, 0, .ro, false, .lit 0, .none⟩]⟩]
/-- Register table of block SRV, part 2. -/
def regTableSRV2 : List RegSpec := [
  ⟨"TRICK_TIME_AVG", 0x306088, 8, 0x400, 1, 0x0, .always,
    [⟨31, 0, .ro, false, .lit 0, .none⟩]⟩,
  ⟨"PREFILL_CAP", 0x30608C, 8, 0x400, 1, 0x0, .always,
    [⟨31, 0, .ro, false, .lit 0, .none⟩]⟩,
  ⟨"SLOT_RUNNING", 0x306090, 8, 0x400, 1, 0x0, .always,
    [⟨31, 0, .ro, false, .lit 0, .none⟩]⟩,
  ⟨"ABANDONED", 0x306094, 8, 0x400, 1, 0x0, .always,
    [⟨31, 0, .ro, false, .lit 0, .none⟩]⟩,
  ⟨"SPEC_PROPOSED", 0x306098, 8, 0x400, 1, 0x0, .always,
    [⟨31, 0, .ro, false, .lit 0, .none⟩]⟩,
  ⟨"SPEC_ACCEPTED", 0x30609C, 8, 0x400, 1, 0x0, .always,
    [⟨31, 0, .ro, false, .lit 0, .none⟩]⟩]
def regTableSRV : List RegSpec := regTableSRV0 ++ regTableSRV1 ++ regTableSRV2

/-! ### KVC -/
/-- R38 -/ def Reg.BLK_ID_KVC : Nat := 0x400000
def Fld.BLK_ID_KVC_BLOCK : BitField := ⟨3, 0⟩
def Fld.BLK_ID_KVC_IF_MINOR : BitField := ⟨15, 8⟩
def Fld.BLK_ID_KVC_IF_MAJOR : BitField := ⟨23, 16⟩
/-- R38 R39 -/ def Reg.BLK_ERR_KVC : Nat := 0x400004
def Fld.BLK_ERR_KVC_LAST_STATUS : BitField := ⟨15, 0⟩
def Fld.BLK_ERR_KVC_VALID : BitField := ⟨16, 16⟩
def Fld.BLK_ERR_KVC_OVERFLOW : BitField := ⟨17, 17⟩
/-- R38 R39 -/ def Reg.BLK_ERR_COUNT_KVC : Nat := 0x400008
/-- R186 -/ def Reg.KV_BASE_LO (i : Nat) : Nat := 0x401000 + 0x40 * i
/-- R186 -/ def Reg.KV_BASE_HI (i : Nat) : Nat := 0x401004 + 0x40 * i
/-- R186 -/ def Reg.KV_SIZE (i : Nat) : Nat := 0x401008 + 0x40 * i
def Fld.KV_SIZE_UNITS_16M : BitField := ⟨12, 0⟩
/-- R186 -/ def Reg.SCALE_BASE_LO (i : Nat) : Nat := 0x401010 + 0x40 * i
/-- R186 -/ def Reg.SCALE_BASE_HI (i : Nat) : Nat := 0x401014 + 0x40 * i
/-- R186 -/ def Reg.DESC_BASE_LO (i : Nat) : Nat := 0x401018 + 0x40 * i
/-- R186 -/ def Reg.DESC_BASE_HI (i : Nat) : Nat := 0x40101C + 0x40 * i
/-- R187 -/ def Reg.STOCK_FREE (i : Nat) : Nat := 0x401020 + 0x40 * i
def Fld.STOCK_FREE_UNITS_4K : BitField := ⟨24, 0⟩
def Fld.STOCK_FREE_LARGEST : BitField := ⟨28, 25⟩
def Fld.STOCK_FREE_EMPTY : BitField := ⟨29, 29⟩
/-- R187 R206 R198 R204 R208 R201 -/ def Reg.ROWS_ALLOC (i : Nat) : Nat := 0x401024 + 0x40 * i
/-- R187 R206 R198 R204 R208 R201 -/ def Reg.COW_COUNT (i : Nat) : Nat := 0x401028 + 0x40 * i
/-- R187 R206 R198 R204 R208 R201 -/ def Reg.FLUSH_COUNT (i : Nat) : Nat := 0x40102C + 0x40 * i
/-- R187 R206 R198 R204 R208 R201 -/ def Reg.DISCARD_COUNT (i : Nat) : Nat := 0x401030 + 0x40 * i
/-- R187 R206 R198 R204 R208 R201 -/ def Reg.ROLLBACK_COUNT (i : Nat) : Nat := 0x401034 + 0x40 * i
/-- R187 R206 R198 R204 R208 R201 -/ def Reg.EXHAUST_COUNT (i : Nat) : Nat := 0x401038 + 0x40 * i
/-- R184 R181 R215 R216 -/ def Reg.KV_FMT (i : Nat) : Nat := 0x406000 + 0x400 * i
def Fld.KV_FMT_KV_FORMAT : BitField := ⟨1, 0⟩
def Fld.KV_FMT_QUERY_FORMAT : BitField := ⟨2, 2⟩
def Fld.KV_FMT_HEAD_MODE : BitField := ⟨3, 3⟩
def Fld.KV_FMT_PAGE_MIN_LOG2 : BitField := ⟨7, 4⟩
def Fld.KV_FMT_PAGE_MAX_LOG2 : BitField := ⟨11, 8⟩
def Fld.KV_FMT_HEADS_PER_CORE : BitField := ⟨14, 12⟩
def Fld.KV_FMT_SPLITS : BitField := ⟨20, 16⟩
/-- R185 -/ def Reg.KV_GEOM (i : Nat) : Nat := 0x406004 + 0x400 * i
def Fld.KV_GEOM_KV_HEADS : BitField := ⟨3, 0⟩
def Fld.KV_GEOM_HEAD_DIM : BitField := ⟨5, 4⟩
/-- R210 -/ def Reg.KV_WINDOW (i : Nat) : Nat := 0x406008 + 0x400 * i
def Fld.KV_WINDOW_WINDOW : BitField := ⟨23, 0⟩
/-- R210 -/ def Reg.KV_BIDIR (i : Nat) : Nat := 0x40600C + 0x400 * i
def Fld.KV_BIDIR_BIDIR_LEN : BitField := ⟨23, 0⟩
/-- R214 -/ def Reg.SCORE_SCALE (i : Nat) : Nat := 0x406010 + 0x400 * i
def Fld.SCORE_SCALE_SCALE : BitField := ⟨31, 0⟩
/-- R193 -/ def Reg.KITTY_ENTRIES (i : Nat) : Nat := 0x406014 + 0x400 * i
/-- R193 -/ def Reg.KITTY_BASE_LO (i j : Nat) : Nat := 0x406020 + 0x400 * i + 0x8 * j
/-- R193 -/ def Reg.KITTY_BASE_HI (i j : Nat) : Nat := 0x406024 + 0x400 * i + 0x8 * j

/-- Register table of block KVC, part 0. -/
def regTableKVC0 : List RegSpec := [
  ⟨"BLK_ID_KVC", 0x400000, 1, 0x0, 1, 0x0, .always,
    [⟨3, 0, .ro, false, .lit 4, .none⟩, ⟨15, 8, .ro, false, .lit 0, .none⟩, ⟨23, 16, .ro, false, .lit 1, .none⟩]⟩,
  ⟨"BLK_ERR_KVC", 0x400004, 1, 0x0, 1, 0x0, .always,
    [⟨15, 0, .ro, false, .lit 0, .none⟩, ⟨16, 16, .w1c, false, .lit 0, .none⟩, ⟨17, 17, .w1c, false, .lit 0, .none⟩]⟩,
  ⟨"BLK_ERR_COUNT_KVC", 0x400008, 1, 0x0, 1, 0x0, .always,
    [⟨31, 0, .ro, false, .lit 0, .none⟩]⟩,
  ⟨"KV_BASE_LO", 0x401000, 4, 0x40, 1, 0x0, .always,
    [⟨31, 0, .ro, true, .lit 0, .none⟩]⟩,
  ⟨"KV_BASE_HI", 0x401004, 4, 0x40, 1, 0x0, .always,
    [⟨15, 0, .ro, true, .lit 0, .none⟩]⟩,
  ⟨"KV_SIZE", 0x401008, 4, 0x40, 1, 0x0, .always,
    [⟨12, 0, .ro, true, .lit 0, .clamp 0 4608⟩]⟩,
  ⟨"SCALE_BASE_LO", 0x401010, 4, 0x40, 1, 0x0, .always,
    [⟨31, 0, .ro, true, .lit 0, .none⟩]⟩,
  ⟨"SCALE_BASE_HI", 0x401014, 4, 0x40, 1, 0x0, .always,
    [⟨15, 0, .ro, true, .lit 0, .none⟩]⟩,
  ⟨"DESC_BASE_LO", 0x401018, 4, 0x40, 1, 0x0, .always,
    [⟨31, 0, .ro, true, .lit 0, .none⟩]⟩,
  ⟨"DESC_BASE_HI", 0x40101C, 4, 0x40, 1, 0x0, .always,
    [⟨15, 0, .ro, true, .lit 0, .none⟩]⟩,
  ⟨"STOCK_FREE", 0x401020, 4, 0x40, 1, 0x0, .always,
    [⟨24, 0, .ro, false, .lit 0, .none⟩, ⟨28, 25, .ro, false, .lit 12, .none⟩, ⟨29, 29, .ro, false, .lit 0, .none⟩]⟩,
  ⟨"ROWS_ALLOC", 0x401024, 4, 0x40, 1, 0x0, .always,
    [⟨31, 0, .ro, false, .lit 0, .none⟩]⟩,
  ⟨"COW_COUNT", 0x401028, 4, 0x40, 1, 0x0, .always,
    [⟨31, 0, .ro, false, .lit 0, .none⟩]⟩,
  ⟨"FLUSH_COUNT", 0x40102C, 4, 0x40, 1, 0x0, .always,
    [⟨31, 0, .ro, false, .lit 0, .none⟩]⟩,
  ⟨"DISCARD_COUNT", 0x401030, 4, 0x40, 1, 0x0, .always,
    [⟨31, 0, .ro, false, .lit 0, .none⟩]⟩,
  ⟨"ROLLBACK_COUNT", 0x401034, 4, 0x40, 1, 0x0, .always,
    [⟨31, 0, .ro, false, .lit 0, .none⟩]⟩,
  ⟨"EXHAUST_COUNT", 0x401038, 4, 0x40, 1, 0x0, .always,
    [⟨31, 0, .ro, false, .lit 0, .none⟩]⟩,
  ⟨"KV_FMT", 0x406000, 8, 0x400, 1, 0x0, .always,
    [⟨1, 0, .rs, true, .lit 0, .outside 0 2 0⟩, ⟨2, 2, .rl, true, .lit 0, .none⟩, ⟨3, 3, .rl, true, .lit 0, .none⟩, ⟨7, 4, .rs, true, .lit 4, .outside 4 10 4⟩, ⟨14, 12, .rl, true, .lit 0, .clamp 1 4⟩, ⟨20, 16, .rl, true, .lit 0, .outside 2 16 2⟩, ⟨11, 8, .rs, true, .lit 10, .pageMax 7 4⟩]⟩,
  ⟨"KV_GEOM", 0x406004, 8, 0x400, 1, 0x0, .always,
    [⟨3, 0, .rl, true, .lit 0, .clamp 1 8⟩, ⟨5, 4, .rl, true, .lit 0, .outside 0 2 1⟩]⟩,
  ⟨"KV_WINDOW", 0x406008, 8, 0x400, 1, 0x0, .always,
    [⟨23, 0, .rl, true, .lit 0, .zeroOrAtLeast 16⟩]⟩]
/-- Register table of block KVC, part 1. -/
def regTableKVC1 : List RegSpec := [
  ⟨"KV_BIDIR", 0x40600C, 8, 0x400, 1, 0x0, .always,
    [⟨23, 0, .rl, true, .lit 0, .none⟩]⟩,
  ⟨"SCORE_SCALE", 0x406010, 8, 0x400, 1, 0x0, .always,
    [⟨31, 0, .rl, true, .lit 0, .none⟩]⟩,
  ⟨"KITTY_ENTRIES", 0x406014, 8, 0x400, 1, 0x0, .always,
    [⟨15, 0, .rl, true, .lit 0, .clamp 1 16384⟩]⟩,
  ⟨"KITTY_BASE_LO", 0x406020, 8, 0x400, 4, 0x8, .always,
    [⟨31, 0, .rl, true, .lit 0, .multiple 64 0 4294967295⟩]⟩,
  ⟨"KITTY_BASE_HI", 0x406024, 8, 0x400, 4, 0x8, .always,
    [⟨15, 0, .rl, true, .lit 0, .none⟩]⟩]
def regTableKVC : List RegSpec := regTableKVC0 ++ regTableKVC1

/-! ### PFX -/
/-- R38 -/ def Reg.BLK_ID_PFX : Nat := 0x500000
def Fld.BLK_ID_PFX_BLOCK : BitField := ⟨3, 0⟩
def Fld.BLK_ID_PFX_IF_MINOR : BitField := ⟨15, 8⟩
def Fld.BLK_ID_PFX_IF_MAJOR : BitField := ⟨23, 16⟩
/-- R38 R39 -/ def Reg.BLK_ERR_PFX : Nat := 0x500004
def Fld.BLK_ERR_PFX_LAST_STATUS : BitField := ⟨15, 0⟩
def Fld.BLK_ERR_PFX_VALID : BitField := ⟨16, 16⟩
def Fld.BLK_ERR_PFX_OVERFLOW : BitField := ⟨17, 17⟩
/-- R38 R39 -/ def Reg.BLK_ERR_COUNT_PFX : Nat := 0x500008
/-- R218 R227 -/ def Reg.PFX_CFG (i : Nat) : Nat := 0x502000 + 0x1000 * i
def Fld.PFX_CFG_SLOT_EN : BitField := ⟨7, 0⟩
def Fld.PFX_CFG_DEMOTE_LOW_PCT : BitField := ⟨14, 8⟩
def Fld.PFX_CFG_DEMOTE_HIGH_PCT : BitField := ⟨22, 16⟩
def Fld.PFX_CFG_DEMOTE_INFLIGHT : BitField := ⟨27, 24⟩
/-- R218 -/ def Reg.NODE_BASE_LO (i : Nat) : Nat := 0x502008 + 0x1000 * i
/-- R218 -/ def Reg.NODE_BASE_HI (i : Nat) : Nat := 0x50200C + 0x1000 * i
/-- R218 -/ def Reg.BUCKET_BASE_LO (i : Nat) : Nat := 0x502010 + 0x1000 * i
/-- R218 -/ def Reg.BUCKET_BASE_HI (i : Nat) : Nat := 0x502014 + 0x1000 * i
/-- R218 -/ def Reg.NODE_LIMIT (i : Nat) : Nat := 0x502018 + 0x1000 * i
/-- R223 R224 R226 R227 R228 R229 -/ def Reg.NODES_RESIDENT (i : Nat) : Nat := 0x502020 + 0x1000 * i
/-- R223 R224 R226 R227 R228 R229 -/ def Reg.NODES_FLASH (i : Nat) : Nat := 0x502024 + 0x1000 * i
/-- R223 R224 R226 R227 R228 R229 -/ def Reg.LOOKUP_GRANULES (i : Nat) : Nat := 0x502028 + 0x1000 * i
/-- R223 R224 R226 R227 R228 R229 -/ def Reg.HIT_GRANULES (i : Nat) : Nat := 0x50202C + 0x1000 * i
/-- R223 R224 R226 R227 R228 R229 -/ def Reg.DEMOTIONS (i : Nat) : Nat := 0x502030 + 0x1000 * i
/-- R223 R224 R226 R227 R228 R229 -/ def Reg.PROMOTIONS (i : Nat) : Nat := 0x502034 + 0x1000 * i
/-- R223 R224 R226 R227 R228 R229 -/ def Reg.EVICTIONS (i : Nat) : Nat := 0x502038 + 0x1000 * i
/-- R223 R224 R226 R227 R228 R229 -/ def Reg.WEAR_REFUSED (i : Nat) : Nat := 0x50203C + 0x1000 * i
/-- R223 R224 R226 R227 R228 R229 -/ def Reg.SHARE_FULL (i : Nat) : Nat := 0x502040 + 0x1000 * i

/-- Register table of block PFX, part 0. -/
def regTablePFX0 : List RegSpec := [
  ⟨"BLK_ID_PFX", 0x500000, 1, 0x0, 1, 0x0, .always,
    [⟨3, 0, .ro, false, .lit 5, .none⟩, ⟨15, 8, .ro, false, .lit 0, .none⟩, ⟨23, 16, .ro, false, .lit 1, .none⟩]⟩,
  ⟨"BLK_ERR_PFX", 0x500004, 1, 0x0, 1, 0x0, .always,
    [⟨15, 0, .ro, false, .lit 0, .none⟩, ⟨16, 16, .w1c, false, .lit 0, .none⟩, ⟨17, 17, .w1c, false, .lit 0, .none⟩]⟩,
  ⟨"BLK_ERR_COUNT_PFX", 0x500008, 1, 0x0, 1, 0x0, .always,
    [⟨31, 0, .ro, false, .lit 0, .none⟩]⟩,
  ⟨"PFX_CFG", 0x502000, 4, 0x1000, 1, 0x0, .always,
    [⟨7, 0, .rs, true, .lit 255, .none⟩, ⟨14, 8, .rs, true, .lit 10, .outside 1 50 10⟩, ⟨27, 24, .rs, true, .lit 8, .zeroAs 1⟩, ⟨22, 16, .rs, true, .lit 20, .demoteHigh 14 8⟩]⟩,
  ⟨"NODE_BASE_LO", 0x502008, 4, 0x1000, 1, 0x0, .always,
    [⟨31, 0, .ro, true, .lit 0, .none⟩]⟩,
  ⟨"NODE_BASE_HI", 0x50200C, 4, 0x1000, 1, 0x0, .always,
    [⟨15, 0, .ro, true, .lit 0, .none⟩]⟩,
  ⟨"BUCKET_BASE_LO", 0x502010, 4, 0x1000, 1, 0x0, .always,
    [⟨31, 0, .ro, true, .lit 0, .none⟩]⟩,
  ⟨"BUCKET_BASE_HI", 0x502014, 4, 0x1000, 1, 0x0, .always,
    [⟨15, 0, .ro, true, .lit 0, .none⟩]⟩,
  ⟨"NODE_LIMIT", 0x502018, 4, 0x1000, 1, 0x0, .always,
    [⟨24, 0, .ro, true, .lit 0, .zeroOrClamp 65536 16777216⟩]⟩,
  ⟨"NODES_RESIDENT", 0x502020, 4, 0x1000, 1, 0x0, .always,
    [⟨31, 0, .ro, false, .lit 0, .none⟩]⟩,
  ⟨"NODES_FLASH", 0x502024, 4, 0x1000, 1, 0x0, .always,
    [⟨31, 0, .ro, false, .lit 0, .none⟩]⟩,
  ⟨"LOOKUP_GRANULES", 0x502028, 4, 0x1000, 1, 0x0, .always,
    [⟨31, 0, .ro, false, .lit 0, .none⟩]⟩,
  ⟨"HIT_GRANULES", 0x50202C, 4, 0x1000, 1, 0x0, .always,
    [⟨31, 0, .ro, false, .lit 0, .none⟩]⟩,
  ⟨"DEMOTIONS", 0x502030, 4, 0x1000, 1, 0x0, .always,
    [⟨31, 0, .ro, false, .lit 0, .none⟩]⟩,
  ⟨"PROMOTIONS", 0x502034, 4, 0x1000, 1, 0x0, .always,
    [⟨31, 0, .ro, false, .lit 0, .none⟩]⟩,
  ⟨"EVICTIONS", 0x502038, 4, 0x1000, 1, 0x0, .always,
    [⟨31, 0, .ro, false, .lit 0, .none⟩]⟩,
  ⟨"WEAR_REFUSED", 0x50203C, 4, 0x1000, 1, 0x0, .always,
    [⟨31, 0, .ro, false, .lit 0, .none⟩]⟩,
  ⟨"SHARE_FULL", 0x502040, 4, 0x1000, 1, 0x0, .always,
    [⟨31, 0, .ro, false, .lit 0, .none⟩]⟩]
def regTablePFX : List RegSpec := regTablePFX0

/-! ### TLN -/
/-- R38 -/ def Reg.BLK_ID_TLN : Nat := 0x600000
def Fld.BLK_ID_TLN_BLOCK : BitField := ⟨3, 0⟩
def Fld.BLK_ID_TLN_IF_MINOR : BitField := ⟨15, 8⟩
def Fld.BLK_ID_TLN_IF_MAJOR : BitField := ⟨23, 16⟩
/-- R38 R39 -/ def Reg.BLK_ERR_TLN : Nat := 0x600004
def Fld.BLK_ERR_TLN_LAST_STATUS : BitField := ⟨15, 0⟩
def Fld.BLK_ERR_TLN_VALID : BitField := ⟨16, 16⟩
def Fld.BLK_ERR_TLN_OVERFLOW : BitField := ⟨17, 17⟩
/-- R38 R39 -/ def Reg.BLK_ERR_COUNT_TLN : Nat := 0x600008
/-- R247 R239 -/ def Reg.TLN_STATE : Nat := 0x601000
def Fld.TLN_STATE_MOUNT : BitField := ⟨2, 0⟩
def Fld.TLN_STATE_MARKER : BitField := ⟨5, 4⟩
def Fld.TLN_STATE_FAILED_TC : BitField := ⟨31, 16⟩
/-- R240 R236 -/ def Reg.TLN_CFG : Nat := 0x601004
def Fld.TLN_CFG_SERVICE_DAYS : BitField := ⟨11, 0⟩
def Fld.TLN_CFG_BURST_HOURS : BitField := ⟨19, 12⟩
def Fld.TLN_CFG_REFRESH_BITS : BitField := ⟨27, 20⟩
/-- R236 R241 -/ def Reg.TLN_CFG2 : Nat := 0x601008
def Fld.TLN_CFG2_WT_REFRESH_DAYS : BitField := ⟨7, 0⟩
def Fld.TLN_CFG2_PFX_REFRESH_DAYS : BitField := ⟨15, 8⟩
def Fld.TLN_CFG2_EOL_WARN_DAYS : BitField := ⟨31, 16⟩
/-- R240 -/ def Reg.TLN_POWERED_S_LO : Nat := 0x601010
/-- R240 -/ def Reg.TLN_POWERED_S_HI : Nat := 0x601014
/-- R241 -/ def Reg.TLN_EOL : Nat := 0x601018
def Fld.TLN_EOL_EOL_DAYS : BitField := ⟨15, 0⟩
def Fld.TLN_EOL_LIMITER : BitField := ⟨17, 16⟩
def Fld.TLN_EOL_RETRY_PPM : BitField := ⟨31, 18⟩
/-- R233 R238 -/ def Reg.TLN_ZONES : Nat := 0x601020
def Fld.TLN_ZONES_PFX_BANDS : BitField := ⟨10, 0⟩
def Fld.TLN_ZONES_WT_BANDS : BitField := ⟨23, 12⟩
def Fld.TLN_ZONES_MIN_SPARES : BitField := ⟨30, 24⟩
/-- R236 -/ def Reg.TLN_ERASE : Nat := 0x601024
def Fld.TLN_ERASE_PFX_AVG : BitField := ⟨15, 0⟩
def Fld.TLN_ERASE_WT_AVG : BitField := ⟨31, 16⟩
/-- R233 -/ def Reg.TLN_SHARE (i : Nat) : Nat := 0x601100 + 0x20 * i
def Fld.TLN_SHARE_SHARE_GIB : BitField := ⟨8, 0⟩
def Fld.TLN_SHARE_PARK_GIB : BitField := ⟨24, 16⟩
/-- R240 -/ def Reg.TLN_CREDIT (i : Nat) : Nat := 0x601104 + 0x20 * i
/-- R240 -/ def Reg.TLN_USED (i : Nat) : Nat := 0x601108 + 0x20 * i
/-- R240 -/ def Reg.TLN_PARK_USED (i : Nat) : Nat := 0x60110C + 0x20 * i
/-- R240 -/ def Reg.TLN_CHARGED_30D (i : Nat) : Nat := 0x601110 + 0x20 * i
/-- R237 R238 -/ def Reg.TLN_CHANNEL (i j : Nat) : Nat := 0x601200 + 0x10 * i + 0x4 * j
/-- R248 -/ def Reg.TLN_CMD_BASE_LO : Nat := 0x601400
/-- R248 -/ def Reg.TLN_CMD_BASE_HI : Nat := 0x601404
/-- R248 -/ def Reg.TLN_CMD_CFG : Nat := 0x601408
def Fld.TLN_CMD_CFG_SIZE_LOG2 : BitField := ⟨3, 0⟩
def Fld.TLN_CMD_CFG_SPACE : BitField := ⟨4, 4⟩
def Fld.TLN_CMD_CFG_VECTOR : BitField := ⟨15, 8⟩
def Fld.TLN_CMD_CFG_IRQ_EN : BitField := ⟨16, 16⟩
def Fld.TLN_CMD_CFG_ENABLE : BitField := ⟨31, 31⟩
/-- R248 -/ def Reg.TLN_CMD_HEAD : Nat := 0x60140C
/-- R248 -/ def Reg.TLN_CMD_TAIL : Nat := 0x601410

/-- Register table of block TLN, part 0. -/
def regTableTLN0 : List RegSpec := [
  ⟨"BLK_ID_TLN", 0x600000, 1, 0x0, 1, 0x0, .always,
    [⟨3, 0, .ro, false, .lit 6, .none⟩, ⟨15, 8, .ro, false, .lit 0, .none⟩, ⟨23, 16, .ro, false, .lit 1, .none⟩]⟩,
  ⟨"BLK_ERR_TLN", 0x600004, 1, 0x0, 1, 0x0, .always,
    [⟨15, 0, .ro, false, .lit 0, .none⟩, ⟨16, 16, .w1c, false, .lit 0, .none⟩, ⟨17, 17, .w1c, false, .lit 0, .none⟩]⟩,
  ⟨"BLK_ERR_COUNT_TLN", 0x600008, 1, 0x0, 1, 0x0, .always,
    [⟨31, 0, .ro, false, .lit 0, .none⟩]⟩,
  ⟨"TLN_STATE", 0x601000, 1, 0x0, 1, 0x0, .always,
    [⟨2, 0, .ro, false, .lit 0, .none⟩, ⟨5, 4, .ro, false, .lit 0, .none⟩, ⟨31, 16, .ro, false, .lit 0, .none⟩]⟩,
  ⟨"TLN_CFG", 0x601004, 1, 0x0, 1, 0x0, .always,
    [⟨11, 0, .rs, true, .lit 2557, .outside 365 4095 2557⟩, ⟨19, 12, .rs, true, .lit 24, .zeroAs 1⟩, ⟨27, 20, .rs, true, .lit 96, .outside 16 255 96⟩]⟩,
  ⟨"TLN_CFG2", 0x601008, 1, 0x0, 1, 0x0, .always,
    [⟨7, 0, .rs, true, .lit 60, .outside 7 255 60⟩, ⟨15, 8, .rs, true, .lit 120, .outside 7 255 120⟩, ⟨31, 16, .rs, true, .lit 180, .none⟩]⟩,
  ⟨"TLN_POWERED_S_LO", 0x601010, 1, 0x0, 1, 0x0, .always,
    [⟨31, 0, .ro, false, .lit 0, .none⟩]⟩,
  ⟨"TLN_POWERED_S_HI", 0x601014, 1, 0x0, 1, 0x0, .always,
    [⟨31, 0, .ro, false, .lit 0, .none⟩]⟩,
  ⟨"TLN_EOL", 0x601018, 1, 0x0, 1, 0x0, .always,
    [⟨15, 0, .ro, false, .lit 0, .none⟩, ⟨17, 16, .ro, false, .lit 0, .none⟩, ⟨31, 18, .ro, false, .lit 0, .none⟩]⟩,
  ⟨"TLN_ZONES", 0x601020, 1, 0x0, 1, 0x0, .always,
    [⟨10, 0, .ro, false, .lit 0, .none⟩, ⟨23, 12, .ro, false, .lit 0, .none⟩, ⟨30, 24, .ro, false, .lit 0, .none⟩]⟩,
  ⟨"TLN_ERASE", 0x601024, 1, 0x0, 1, 0x0, .always,
    [⟨15, 0, .ro, false, .lit 0, .none⟩, ⟨31, 16, .ro, false, .lit 0, .none⟩]⟩,
  ⟨"TLN_SHARE", 0x601100, 4, 0x20, 1, 0x0, .always,
    [⟨8, 0, .ro, true, .lit 0, .clamp 0 384⟩, ⟨24, 16, .ro, true, .lit 0, .upToField 8 0⟩]⟩,
  ⟨"TLN_CREDIT", 0x601104, 4, 0x20, 1, 0x0, .always,
    [⟨31, 0, .ro, false, .lit 0, .none⟩]⟩,
  ⟨"TLN_USED", 0x601108, 4, 0x20, 1, 0x0, .always,
    [⟨31, 0, .ro, false, .lit 0, .none⟩]⟩,
  ⟨"TLN_PARK_USED", 0x60110C, 4, 0x20, 1, 0x0, .always,
    [⟨31, 0, .ro, false, .lit 0, .none⟩]⟩,
  ⟨"TLN_CHARGED_30D", 0x601110, 4, 0x20, 1, 0x0, .always,
    [⟨31, 0, .ro, false, .lit 0, .none⟩]⟩,
  ⟨"TLN_CHANNEL", 0x601200, 16, 0x10, 4, 0x4, .always,
    [⟨31, 0, .ro, false, .lit 0, .none⟩]⟩,
  ⟨"TLN_CMD_BASE_LO", 0x601400, 1, 0x0, 1, 0x0, .always,
    [⟨31, 0, .rl, false, .lit 0, .none⟩]⟩,
  ⟨"TLN_CMD_BASE_HI", 0x601404, 1, 0x0, 1, 0x0, .always,
    [⟨31, 0, .rl, false, .lit 0, .none⟩]⟩,
  ⟨"TLN_CMD_CFG", 0x601408, 1, 0x0, 1, 0x0, .always,
    [⟨3, 0, .rl, false, .lit 4, .outside 4 10 4⟩, ⟨4, 4, .rl, false, .lit 0, .none⟩, ⟨15, 8, .rl, false, .lit 0, .none⟩, ⟨16, 16, .rw, false, .lit 0, .none⟩, ⟨31, 31, .rw, false, .lit 0, .none⟩]⟩]
/-- Register table of block TLN, part 1. -/
def regTableTLN1 : List RegSpec := [
  ⟨"TLN_CMD_HEAD", 0x60140C, 1, 0x0, 1, 0x0, .always,
    [⟨31, 0, .ro, false, .lit 0, .none⟩]⟩,
  ⟨"TLN_CMD_TAIL", 0x601410, 1, 0x0, 1, 0x0, .always,
    [⟨31, 0, .rw, false, .lit 0, .none⟩]⟩]
def regTableTLN : List RegSpec := regTableTLN0 ++ regTableTLN1

/-! ### VIS -/
/-- R38 -/ def Reg.BLK_ID_VIS : Nat := 0x700000
def Fld.BLK_ID_VIS_BLOCK : BitField := ⟨3, 0⟩
def Fld.BLK_ID_VIS_IF_MINOR : BitField := ⟨15, 8⟩
def Fld.BLK_ID_VIS_IF_MAJOR : BitField := ⟨23, 16⟩
/-- R38 R39 -/ def Reg.BLK_ERR_VIS : Nat := 0x700004
def Fld.BLK_ERR_VIS_LAST_STATUS : BitField := ⟨15, 0⟩
def Fld.BLK_ERR_VIS_VALID : BitField := ⟨16, 16⟩
def Fld.BLK_ERR_VIS_OVERFLOW : BitField := ⟨17, 17⟩
/-- R38 R39 -/ def Reg.BLK_ERR_COUNT_VIS : Nat := 0x700008
/-- R279 -/ def Reg.VIS_RECKONER : Nat := 0x701000
def Fld.VIS_RECKONER_RK0_OK : BitField := ⟨0, 0⟩
def Fld.VIS_RECKONER_RK1_OK : BitField := ⟨1, 1⟩
/-- R264 -/ def Reg.EQ_BASE_LO (i : Nat) : Nat := 0x701100 + 0x40 * i
/-- R264 -/ def Reg.EQ_BASE_HI (i : Nat) : Nat := 0x701104 + 0x40 * i
/-- R264 -/ def Reg.EQ_CFG (i : Nat) : Nat := 0x701108 + 0x40 * i
def Fld.EQ_CFG_SIZE_LOG2 : BitField := ⟨3, 0⟩
def Fld.EQ_CFG_SPACE : BitField := ⟨4, 4⟩
def Fld.EQ_CFG_VECTOR : BitField := ⟨15, 8⟩
def Fld.EQ_CFG_IRQ_EN : BitField := ⟨16, 16⟩
def Fld.EQ_CFG_ENABLE : BitField := ⟨31, 31⟩
/-- R264 -/ def Reg.EQ_HEAD (i : Nat) : Nat := 0x70110C + 0x40 * i
/-- R264 -/ def Reg.EQ_TAIL (i : Nat) : Nat := 0x701110 + 0x40 * i
/-- R265 R279 -/ def Reg.EDGE_STATE (i : Nat) : Nat := 0x701114 + 0x40 * i
/-- R265 R279 -/ def Reg.EDGE_JOBS (i : Nat) : Nat := 0x701118 + 0x40 * i
/-- R265 R279 -/ def Reg.EDGE_EMPTY (i : Nat) : Nat := 0x70111C + 0x40 * i
/-- R270 R271 -/ def Reg.RK_JOBS (i : Nat) : Nat := 0x701200 + 0x20 * i
/-- R270 R271 -/ def Reg.RK_FALLBACKS (i : Nat) : Nat := 0x701204 + 0x20 * i
/-- R270 R271 -/ def Reg.RK_LATE (i : Nat) : Nat := 0x701208 + 0x20 * i
/-- R270 R271 -/ def Reg.RK_CAND_MAX (i : Nat) : Nat := 0x70120C + 0x20 * i
/-- R272 -/ def Reg.RKQ_BASE_LO (i : Nat) : Nat := 0x702000 + 0x1000 * i
/-- R272 -/ def Reg.RKQ_BASE_HI (i : Nat) : Nat := 0x702004 + 0x1000 * i
/-- R272 -/ def Reg.RKQ_CFG (i : Nat) : Nat := 0x702008 + 0x1000 * i
def Fld.RKQ_CFG_SIZE_LOG2 : BitField := ⟨3, 0⟩
def Fld.RKQ_CFG_SPACE : BitField := ⟨4, 4⟩
def Fld.RKQ_CFG_VECTOR : BitField := ⟨15, 8⟩
def Fld.RKQ_CFG_IRQ_EN : BitField := ⟨16, 16⟩
def Fld.RKQ_CFG_ENABLE : BitField := ⟨31, 31⟩
/-- R272 -/ def Reg.RKQ_HEAD (i : Nat) : Nat := 0x70200C + 0x1000 * i
/-- R272 -/ def Reg.RKQ_TAIL (i : Nat) : Nat := 0x702010 + 0x1000 * i
/-- R273 -/ def Reg.TAG_TABLE_LO (i : Nat) : Nat := 0x702040 + 0x1000 * i
/-- R273 -/ def Reg.TAG_TABLE_HI (i : Nat) : Nat := 0x702044 + 0x1000 * i
/-- R273 -/ def Reg.TAG_POST_ADDR_LO (i : Nat) : Nat := 0x702048 + 0x1000 * i
/-- R273 -/ def Reg.TAG_POST_ADDR_HI (i : Nat) : Nat := 0x70204C + 0x1000 * i
/-- R273 -/ def Reg.TAG_POST_COUNT (i : Nat) : Nat := 0x702050 + 0x1000 * i
def Fld.TAG_POST_COUNT_COUNT : BitField := ⟨23, 0⟩
def Fld.TAG_POST_COUNT_KIND : BitField := ⟨24, 24⟩
/-- R273 -/ def Reg.TAG_POST_CMD (i : Nat) : Nat := 0x702054 + 0x1000 * i
def Fld.TAG_POST_CMD_TAG : BitField := ⟨15, 0⟩
def Fld.TAG_POST_CMD_OP : BitField := ⟨17, 16⟩
/-- R276 -/ def Reg.PIPE_CFG_VIS (i j : Nat) : Nat := 0x702100 + 0x1000 * i + 0x80 * j
def Fld.PIPE_CFG_VIS_ENABLE : BitField := ⟨0, 0⟩
def Fld.PIPE_CFG_VIS_SRC_X : BitField := ⟨1, 1⟩
def Fld.PIPE_CFG_VIS_SRC_PIPE : BitField := ⟨4, 2⟩
def Fld.PIPE_CFG_VIS_SRC_CTX : BitField := ⟨10, 5⟩
def Fld.PIPE_CFG_VIS_DEPTH : BitField := ⟨13, 12⟩
/-- R276 -/ def Reg.STAGE_BASE_LO (i j : Nat) : Nat := 0x702108 + 0x1000 * i + 0x80 * j
/-- R276 -/ def Reg.STAGE_BASE_HI (i j : Nat) : Nat := 0x70210C + 0x1000 * i + 0x80 * j
/-- R276 -/ def Reg.FRAME_BASE_LO (i j : Nat) : Nat := 0x702110 + 0x1000 * i + 0x80 * j
/-- R276 -/ def Reg.FRAME_BASE_HI (i j : Nat) : Nat := 0x702114 + 0x1000 * i + 0x80 * j
/-- R276 -/ def Reg.PKT_BASE_LO (i j : Nat) : Nat := 0x702118 + 0x1000 * i + 0x80 * j
/-- R276 -/ def Reg.PKT_BASE_HI (i j : Nat) : Nat := 0x70211C + 0x1000 * i + 0x80 * j
/-- R276 -/ def Reg.SCRATCH_BASE0_LO (i j : Nat) : Nat := 0x702120 + 0x1000 * i + 0x80 * j
/-- R276 -/ def Reg.SCRATCH_BASE0_HI (i j : Nat) : Nat := 0x702124 + 0x1000 * i + 0x80 * j
/-- R276 -/ def Reg.SCRATCH_BASE1_LO (i j : Nat) : Nat := 0x702128 + 0x1000 * i + 0x80 * j
/-- R276 -/ def Reg.SCRATCH_BASE1_HI (i j : Nat) : Nat := 0x70212C + 0x1000 * i + 0x80 * j
/-- R276 -/ def Reg.SCRATCH_BASE2_LO (i j : Nat) : Nat := 0x702130 + 0x1000 * i + 0x80 * j
/-- R276 -/ def Reg.SCRATCH_BASE2_HI (i j : Nat) : Nat := 0x702134 + 0x1000 * i + 0x80 * j
/-- R276 -/ def Reg.SCRATCH_BASE3_LO (i j : Nat) : Nat := 0x702138 + 0x1000 * i + 0x80 * j
/-- R276 -/ def Reg.SCRATCH_BASE3_HI (i j : Nat) : Nat := 0x70213C + 0x1000 * i + 0x80 * j
/-- R277 -/ def Reg.SCRATCH_STRIDE0 (i j : Nat) : Nat := 0x702140 + 0x1000 * i + 0x80 * j
def Fld.SCRATCH_STRIDE0_STRIDE : BitField := ⟨31, 0⟩
/-- R277 -/ def Reg.SCRATCH_STRIDE1 (i j : Nat) : Nat := 0x702144 + 0x1000 * i + 0x80 * j
def Fld.SCRATCH_STRIDE1_STRIDE : BitField := ⟨31, 0⟩
/-- R277 -/ def Reg.SCRATCH_STRIDE2 (i j : Nat) : Nat := 0x702148 + 0x1000 * i + 0x80 * j
def Fld.SCRATCH_STRIDE2_STRIDE : BitField := ⟨31, 0⟩
/-- R277 -/ def Reg.SCRATCH_STRIDE3 (i j : Nat) : Nat := 0x70214C + 0x1000 * i + 0x80 * j
def Fld.SCRATCH_STRIDE3_STRIDE : BitField := ⟨31, 0⟩
/-- R276 -/ def Reg.PIPE_TAGS (i j : Nat) : Nat := 0x702150 + 0x1000 * i + 0x80 * j
def Fld.PIPE_TAGS_TAG_BASE : BitField := ⟨15, 0⟩
def Fld.PIPE_TAGS_TAG_COUNT : BitField := ⟨27, 16⟩
/-- R278 -/ def Reg.FRAMES_DONE (i j : Nat) : Nat := 0x702160 + 0x1000 * i + 0x80 * j
/-- R278 -/ def Reg.FRAMES_SKIPPED (i j : Nat) : Nat := 0x702164 + 0x1000 * i + 0x80 * j
/-- R278 -/ def Reg.FRAMES_FAILED (i j : Nat) : Nat := 0x702168 + 0x1000 * i + 0x80 * j
/-- R278 -/ def Reg.FRAMES_IN_FLIGHT (i j : Nat) : Nat := 0x70216C + 0x1000 * i + 0x80 * j

/-- Register table of block VIS, part 0. -/
def regTableVIS0 : List RegSpec := [
  ⟨"BLK_ID_VIS", 0x700000, 1, 0x0, 1, 0x0, .always,
    [⟨3, 0, .ro, false, .lit 7, .none⟩, ⟨15, 8, .ro, false, .lit 0, .none⟩, ⟨23, 16, .ro, false, .lit 1, .none⟩]⟩,
  ⟨"BLK_ERR_VIS", 0x700004, 1, 0x0, 1, 0x0, .always,
    [⟨15, 0, .ro, false, .lit 0, .none⟩, ⟨16, 16, .w1c, false, .lit 0, .none⟩, ⟨17, 17, .w1c, false, .lit 0, .none⟩]⟩,
  ⟨"BLK_ERR_COUNT_VIS", 0x700008, 1, 0x0, 1, 0x0, .always,
    [⟨31, 0, .ro, false, .lit 0, .none⟩]⟩,
  ⟨"VIS_RECKONER", 0x701000, 1, 0x0, 1, 0x0, .always,
    [⟨0, 0, .ro, false, .lit 1, .none⟩, ⟨1, 1, .ro, false, .fused .isX2, .none⟩]⟩,
  ⟨"EQ_BASE_LO", 0x701100, 4, 0x40, 1, 0x0, .always,
    [⟨31, 0, .rl, false, .lit 0, .none⟩]⟩,
  ⟨"EQ_BASE_HI", 0x701104, 4, 0x40, 1, 0x0, .always,
    [⟨31, 0, .rl, false, .lit 0, .none⟩]⟩,
  ⟨"EQ_CFG", 0x701108, 4, 0x40, 1, 0x0, .always,
    [⟨3, 0, .rl, false, .lit 4, .outside 4 10 4⟩, ⟨4, 4, .rl, false, .lit 0, .none⟩, ⟨15, 8, .rl, false, .lit 0, .none⟩, ⟨16, 16, .rw, false, .lit 0, .none⟩, ⟨31, 31, .rw, false, .lit 0, .none⟩]⟩,
  ⟨"EQ_HEAD", 0x70110C, 4, 0x40, 1, 0x0, .always,
    [⟨31, 0, .ro, false, .lit 0, .none⟩]⟩,
  ⟨"EQ_TAIL", 0x701110, 4, 0x40, 1, 0x0, .always,
    [⟨31, 0, .rw, false, .lit 0, .none⟩]⟩,
  ⟨"EDGE_STATE", 0x701114, 4, 0x40, 1, 0x0, .always,
    [⟨31, 0, .ro, false, .lit 0, .none⟩]⟩,
  ⟨"EDGE_JOBS", 0x701118, 4, 0x40, 1, 0x0, .always,
    [⟨31, 0, .ro, false, .lit 0, .none⟩]⟩,
  ⟨"EDGE_EMPTY", 0x70111C, 4, 0x40, 1, 0x0, .always,
    [⟨31, 0, .ro, false, .lit 0, .none⟩]⟩,
  ⟨"RK_JOBS", 0x701200, 2, 0x20, 1, 0x0, .reckoner,
    [⟨31, 0, .ro, false, .lit 0, .none⟩]⟩,
  ⟨"RK_FALLBACKS", 0x701204, 2, 0x20, 1, 0x0, .reckoner,
    [⟨31, 0, .ro, false, .lit 0, .none⟩]⟩,
  ⟨"RK_LATE", 0x701208, 2, 0x20, 1, 0x0, .reckoner,
    [⟨31, 0, .ro, false, .lit 0, .none⟩]⟩,
  ⟨"RK_CAND_MAX", 0x70120C, 2, 0x20, 1, 0x0, .reckoner,
    [⟨31, 0, .ro, false, .lit 0, .none⟩]⟩,
  ⟨"RKQ_BASE_LO", 0x702000, 4, 0x1000, 1, 0x0, .always,
    [⟨31, 0, .rl, false, .lit 0, .none⟩]⟩,
  ⟨"RKQ_BASE_HI", 0x702004, 4, 0x1000, 1, 0x0, .always,
    [⟨31, 0, .rl, false, .lit 0, .none⟩]⟩,
  ⟨"RKQ_CFG", 0x702008, 4, 0x1000, 1, 0x0, .always,
    [⟨3, 0, .rl, false, .lit 4, .outside 4 10 4⟩, ⟨4, 4, .rl, false, .lit 0, .none⟩, ⟨15, 8, .rl, false, .lit 0, .none⟩, ⟨16, 16, .rw, false, .lit 0, .none⟩, ⟨31, 31, .rw, false, .lit 0, .none⟩]⟩,
  ⟨"RKQ_HEAD", 0x70200C, 4, 0x1000, 1, 0x0, .always,
    [⟨31, 0, .ro, false, .lit 0, .none⟩]⟩]
/-- Register table of block VIS, part 1. -/
def regTableVIS1 : List RegSpec := [
  ⟨"RKQ_TAIL", 0x702010, 4, 0x1000, 1, 0x0, .always,
    [⟨31, 0, .rw, false, .lit 0, .none⟩]⟩,
  ⟨"TAG_TABLE_LO", 0x702040, 4, 0x1000, 1, 0x0, .always,
    [⟨31, 0, .ro, true, .lit 0, .none⟩]⟩,
  ⟨"TAG_TABLE_HI", 0x702044, 4, 0x1000, 1, 0x0, .always,
    [⟨15, 0, .ro, true, .lit 0, .none⟩]⟩,
  ⟨"TAG_POST_ADDR_LO", 0x702048, 4, 0x1000, 1, 0x0, .always,
    [⟨31, 0, .rw, false, .lit 0, .none⟩]⟩,
  ⟨"TAG_POST_ADDR_HI", 0x70204C, 4, 0x1000, 1, 0x0, .always,
    [⟨15, 0, .rw, false, .lit 0, .none⟩]⟩,
  ⟨"TAG_POST_COUNT", 0x702050, 4, 0x1000, 1, 0x0, .always,
    [⟨23, 0, .rw, false, .lit 0, .none⟩, ⟨24, 24, .rw, false, .lit 0, .none⟩]⟩,
  ⟨"TAG_POST_CMD", 0x702054, 4, 0x1000, 1, 0x0, .always,
    [⟨15, 0, .wo, false, .lit 0, .none⟩, ⟨17, 16, .wo, false, .lit 0, .none⟩]⟩,
  ⟨"PIPE_CFG_VIS", 0x702100, 4, 0x1000, 16, 0x80, .always,
    [⟨0, 0, .rw, false, .lit 0, .none⟩, ⟨1, 1, .rl, false, .lit 0, .none⟩, ⟨4, 2, .rl, false, .lit 0, .none⟩, ⟨10, 5, .rl, false, .lit 0, .none⟩, ⟨13, 12, .rs, false, .lit 0, .none⟩]⟩,
  ⟨"STAGE_BASE_LO", 0x702108, 4, 0x1000, 16, 0x80, .always,
    [⟨31, 0, .rl, false, .lit 0, .multiple 64 0 4294967295⟩]⟩,
  ⟨"STAGE_BASE_HI", 0x70210C, 4, 0x1000, 16, 0x80, .always,
    [⟨15, 0, .rl, false, .lit 0, .none⟩]⟩,
  ⟨"FRAME_BASE_LO", 0x702110, 4, 0x1000, 16, 0x80, .always,
    [⟨31, 0, .rl, false, .lit 0, .multiple 64 0 4294967295⟩]⟩,
  ⟨"FRAME_BASE_HI", 0x702114, 4, 0x1000, 16, 0x80, .always,
    [⟨15, 0, .rl, false, .lit 0, .none⟩]⟩,
  ⟨"PKT_BASE_LO", 0x702118, 4, 0x1000, 16, 0x80, .always,
    [⟨31, 0, .rl, false, .lit 0, .multiple 4096 0 4294967295⟩]⟩,
  ⟨"PKT_BASE_HI", 0x70211C, 4, 0x1000, 16, 0x80, .always,
    [⟨15, 0, .rl, false, .lit 0, .none⟩]⟩,
  ⟨"SCRATCH_BASE0_LO", 0x702120, 4, 0x1000, 16, 0x80, .always,
    [⟨31, 0, .rl, false, .lit 0, .multiple 64 0 4294967295⟩]⟩,
  ⟨"SCRATCH_BASE0_HI", 0x702124, 4, 0x1000, 16, 0x80, .always,
    [⟨15, 0, .rl, false, .lit 0, .none⟩]⟩,
  ⟨"SCRATCH_BASE1_LO", 0x702128, 4, 0x1000, 16, 0x80, .always,
    [⟨31, 0, .rl, false, .lit 0, .multiple 64 0 4294967295⟩]⟩,
  ⟨"SCRATCH_BASE1_HI", 0x70212C, 4, 0x1000, 16, 0x80, .always,
    [⟨15, 0, .rl, false, .lit 0, .none⟩]⟩,
  ⟨"SCRATCH_BASE2_LO", 0x702130, 4, 0x1000, 16, 0x80, .always,
    [⟨31, 0, .rl, false, .lit 0, .multiple 64 0 4294967295⟩]⟩,
  ⟨"SCRATCH_BASE2_HI", 0x702134, 4, 0x1000, 16, 0x80, .always,
    [⟨15, 0, .rl, false, .lit 0, .none⟩]⟩]
/-- Register table of block VIS, part 2. -/
def regTableVIS2 : List RegSpec := [
  ⟨"SCRATCH_BASE3_LO", 0x702138, 4, 0x1000, 16, 0x80, .always,
    [⟨31, 0, .rl, false, .lit 0, .multiple 64 0 4294967295⟩]⟩,
  ⟨"SCRATCH_BASE3_HI", 0x70213C, 4, 0x1000, 16, 0x80, .always,
    [⟨15, 0, .rl, false, .lit 0, .none⟩]⟩,
  ⟨"SCRATCH_STRIDE0", 0x702140, 4, 0x1000, 16, 0x80, .always,
    [⟨31, 0, .rs, false, .lit 0, .none⟩]⟩,
  ⟨"SCRATCH_STRIDE1", 0x702144, 4, 0x1000, 16, 0x80, .always,
    [⟨31, 0, .rs, false, .lit 0, .none⟩]⟩,
  ⟨"SCRATCH_STRIDE2", 0x702148, 4, 0x1000, 16, 0x80, .always,
    [⟨31, 0, .rs, false, .lit 0, .none⟩]⟩,
  ⟨"SCRATCH_STRIDE3", 0x70214C, 4, 0x1000, 16, 0x80, .always,
    [⟨31, 0, .rs, false, .lit 0, .none⟩]⟩,
  ⟨"PIPE_TAGS", 0x702150, 4, 0x1000, 16, 0x80, .always,
    [⟨15, 0, .rs, false, .lit 0, .none⟩, ⟨27, 16, .rs, false, .lit 0, .zeroAs 1⟩]⟩,
  ⟨"FRAMES_DONE", 0x702160, 4, 0x1000, 16, 0x80, .always,
    [⟨31, 0, .ro, false, .lit 0, .none⟩]⟩,
  ⟨"FRAMES_SKIPPED", 0x702164, 4, 0x1000, 16, 0x80, .always,
    [⟨31, 0, .ro, false, .lit 0, .none⟩]⟩,
  ⟨"FRAMES_FAILED", 0x702168, 4, 0x1000, 16, 0x80, .always,
    [⟨31, 0, .ro, false, .lit 0, .none⟩]⟩,
  ⟨"FRAMES_IN_FLIGHT", 0x70216C, 4, 0x1000, 16, 0x80, .always,
    [⟨31, 0, .ro, false, .lit 0, .none⟩]⟩]
def regTableVIS : List RegSpec := regTableVIS0 ++ regTableVIS1 ++ regTableVIS2

/-! ### MED -/
/-- R38 -/ def Reg.BLK_ID_MED : Nat := 0x800000
def Fld.BLK_ID_MED_BLOCK : BitField := ⟨3, 0⟩
def Fld.BLK_ID_MED_IF_MINOR : BitField := ⟨15, 8⟩
def Fld.BLK_ID_MED_IF_MAJOR : BitField := ⟨23, 16⟩
/-- R38 R39 -/ def Reg.BLK_ERR_MED : Nat := 0x800004
def Fld.BLK_ERR_MED_LAST_STATUS : BitField := ⟨15, 0⟩
def Fld.BLK_ERR_MED_VALID : BitField := ⟨16, 16⟩
def Fld.BLK_ERR_MED_OVERFLOW : BitField := ⟨17, 17⟩
/-- R38 R39 -/ def Reg.BLK_ERR_COUNT_MED : Nat := 0x800008
/-- R282 R309 -/ def Reg.PIPE_INFO (i : Nat) : Nat := 0x802000 + 0x1000 * i
def Fld.PIPE_INFO_PRESENT : BitField := ⟨0, 0⟩
def Fld.PIPE_INFO_FAILED : BitField := ⟨1, 1⟩
def Fld.PIPE_INFO_OWNED : BitField := ⟨2, 2⟩
def Fld.PIPE_INFO_OWNER : BitField := ⟨4, 3⟩
def Fld.PIPE_INFO_POWERED : BitField := ⟨5, 5⟩
def Fld.PIPE_INFO_DEC_OPEN : BitField := ⟨14, 8⟩
def Fld.PIPE_INFO_ENC_OPEN : BitField := ⟨22, 16⟩
/-- R282 -/ def Reg.MED_PIPE_CFG (i : Nat) : Nat := 0x802004 + 0x1000 * i
def Fld.MED_PIPE_CFG_POWER_HOLD_MS : BitField := ⟨15, 0⟩
/-- R291 -/ def Reg.CTX_BASE_LO (i : Nat) : Nat := 0x802008 + 0x1000 * i
/-- R291 -/ def Reg.CTX_BASE_HI (i : Nat) : Nat := 0x80200C + 0x1000 * i
/-- R286 -/ def Reg.MSQ_BASE_LO (i : Nat) : Nat := 0x802100 + 0x1000 * i
/-- R286 -/ def Reg.MSQ_BASE_HI (i : Nat) : Nat := 0x802104 + 0x1000 * i
/-- R288 -/ def Reg.MCQ_BASE_LO (i : Nat) : Nat := 0x802120 + 0x1000 * i
/-- R288 -/ def Reg.MCQ_BASE_HI (i : Nat) : Nat := 0x802124 + 0x1000 * i
/-- R287 -/ def Reg.MSQ_CFG (i : Nat) : Nat := 0x802108 + 0x1000 * i
def Fld.MSQ_CFG_SIZE_LOG2 : BitField := ⟨3, 0⟩
def Fld.MSQ_CFG_SPACE : BitField := ⟨4, 4⟩
def Fld.MSQ_CFG_ENABLE : BitField := ⟨31, 31⟩
/-- R289 -/ def Reg.MCQ_CFG (i : Nat) : Nat := 0x802128 + 0x1000 * i
def Fld.MCQ_CFG_SIZE_LOG2 : BitField := ⟨3, 0⟩
def Fld.MCQ_CFG_SPACE : BitField := ⟨4, 4⟩
def Fld.MCQ_CFG_VECTOR : BitField := ⟨15, 8⟩
def Fld.MCQ_CFG_IRQ_EN : BitField := ⟨16, 16⟩
def Fld.MCQ_CFG_ENABLE : BitField := ⟨31, 31⟩
/-- R287 -/ def Reg.MSQ_HEAD (i : Nat) : Nat := 0x80210C + 0x1000 * i
/-- R287 -/ def Reg.MSQ_TAIL (i : Nat) : Nat := 0x802114 + 0x1000 * i
/-- R289 -/ def Reg.MCQ_TAIL (i : Nat) : Nat := 0x80212C + 0x1000 * i
/-- R289 -/ def Reg.MCQ_HEAD (i : Nat) : Nat := 0x802130 + 0x1000 * i
/-- R284 R291 R295 R297 R299 R306 R307 R308 -/ def Reg.MED_COUNTER (i j : Nat) : Nat := 0x802200 + 0x1000 * i + 0x4 * j
/-- R287 R295 R308 -/ def Reg.CTX_STATUS0 (i j : Nat) : Nat := 0x802400 + 0x1000 * i + 0x8 * j
def Fld.CTX_STATUS0_STATE : BitField := ⟨1, 0⟩
def Fld.CTX_STATUS0_QUEUED : BitField := ⟨13, 8⟩
def Fld.CTX_STATUS0_WAITING : BitField := ⟨15, 14⟩
def Fld.CTX_STATUS0_LAST_STATUS : BitField := ⟨31, 16⟩
/-- R307 -/ def Reg.CTX_STATUS1 (i j : Nat) : Nat := 0x802404 + 0x1000 * i + 0x8 * j
def Fld.CTX_STATUS1_CARRY : BitField := ⟨31, 0⟩

/-- Register table of block MED, part 0. -/
def regTableMED0 : List RegSpec := [
  ⟨"BLK_ID_MED", 0x800000, 1, 0x0, 1, 0x0, .pipe,
    [⟨3, 0, .ro, false, .lit 8, .none⟩, ⟨15, 8, .ro, false, .lit 0, .none⟩, ⟨23, 16, .ro, false, .lit 1, .none⟩]⟩,
  ⟨"BLK_ERR_MED", 0x800004, 1, 0x0, 1, 0x0, .pipe,
    [⟨15, 0, .ro, false, .lit 0, .none⟩, ⟨16, 16, .w1c, false, .lit 0, .none⟩, ⟨17, 17, .w1c, false, .lit 0, .none⟩]⟩,
  ⟨"BLK_ERR_COUNT_MED", 0x800008, 1, 0x0, 1, 0x0, .pipe,
    [⟨31, 0, .ro, false, .lit 0, .none⟩]⟩,
  ⟨"PIPE_INFO", 0x802000, 16, 0x1000, 1, 0x0, .pipe,
    [⟨0, 0, .ro, false, .fused .pipeFitted, .none⟩, ⟨1, 1, .ro, false, .lit 0, .none⟩, ⟨2, 2, .ro, true, .lit 0, .none⟩, ⟨4, 3, .ro, true, .lit 0, .none⟩, ⟨5, 5, .ro, false, .lit 0, .none⟩, ⟨14, 8, .ro, false, .lit 0, .none⟩, ⟨22, 16, .ro, false, .lit 0, .none⟩]⟩,
  ⟨"MED_PIPE_CFG", 0x802004, 16, 0x1000, 1, 0x0, .pipe,
    [⟨15, 0, .rs, true, .lit 10, .zeroAs 1⟩]⟩,
  ⟨"CTX_BASE_LO", 0x802008, 16, 0x1000, 1, 0x0, .pipe,
    [⟨31, 0, .rl, false, .lit 0, .multiple 65536 0 4294967295⟩]⟩,
  ⟨"CTX_BASE_HI", 0x80200C, 16, 0x1000, 1, 0x0, .pipe,
    [⟨15, 0, .rl, false, .lit 0, .none⟩]⟩,
  ⟨"MSQ_BASE_LO", 0x802100, 16, 0x1000, 1, 0x0, .pipe,
    [⟨31, 0, .rl, false, .lit 0, .none⟩]⟩,
  ⟨"MSQ_BASE_HI", 0x802104, 16, 0x1000, 1, 0x0, .pipe,
    [⟨31, 0, .rl, false, .lit 0, .none⟩]⟩,
  ⟨"MCQ_BASE_LO", 0x802120, 16, 0x1000, 1, 0x0, .pipe,
    [⟨31, 0, .rl, false, .lit 0, .none⟩]⟩,
  ⟨"MCQ_BASE_HI", 0x802124, 16, 0x1000, 1, 0x0, .pipe,
    [⟨31, 0, .rl, false, .lit 0, .none⟩]⟩,
  ⟨"MSQ_CFG", 0x802108, 16, 0x1000, 1, 0x0, .pipe,
    [⟨3, 0, .rl, false, .lit 4, .outside 4 10 4⟩, ⟨4, 4, .rl, false, .lit 0, .none⟩, ⟨31, 31, .rw, false, .lit 0, .none⟩]⟩,
  ⟨"MCQ_CFG", 0x802128, 16, 0x1000, 1, 0x0, .pipe,
    [⟨3, 0, .rl, false, .lit 4, .outside 4 10 4⟩, ⟨4, 4, .rl, false, .lit 0, .none⟩, ⟨15, 8, .rl, false, .lit 0, .none⟩, ⟨16, 16, .rw, false, .lit 0, .none⟩, ⟨31, 31, .rw, false, .lit 0, .none⟩]⟩,
  ⟨"MSQ_HEAD", 0x80210C, 16, 0x1000, 1, 0x0, .pipe,
    [⟨31, 0, .ro, false, .lit 0, .none⟩]⟩,
  ⟨"MSQ_TAIL", 0x802114, 16, 0x1000, 1, 0x0, .pipe,
    [⟨31, 0, .rw, false, .lit 0, .none⟩]⟩,
  ⟨"MCQ_TAIL", 0x80212C, 16, 0x1000, 1, 0x0, .pipe,
    [⟨31, 0, .ro, false, .lit 0, .none⟩]⟩,
  ⟨"MCQ_HEAD", 0x802130, 16, 0x1000, 1, 0x0, .pipe,
    [⟨31, 0, .rw, false, .lit 0, .none⟩]⟩,
  ⟨"MED_COUNTER", 0x802200, 16, 0x1000, 12, 0x4, .pipe,
    [⟨31, 0, .ro, false, .lit 0, .none⟩]⟩,
  ⟨"CTX_STATUS0", 0x802400, 16, 0x1000, 64, 0x8, .pipe,
    [⟨1, 0, .ro, false, .lit 0, .none⟩, ⟨13, 8, .ro, false, .lit 0, .none⟩, ⟨15, 14, .ro, false, .lit 0, .none⟩, ⟨31, 16, .ro, false, .lit 0, .none⟩]⟩,
  ⟨"CTX_STATUS1", 0x802404, 16, 0x1000, 64, 0x8, .pipe,
    [⟨31, 0, .ro, false, .lit 0, .none⟩]⟩]
def regTableMED : List RegSpec := regTableMED0

/-! ### NDX -/
/-- R38 -/ def Reg.BLK_ID_NDX : Nat := 0x900000
def Fld.BLK_ID_NDX_BLOCK : BitField := ⟨3, 0⟩
def Fld.BLK_ID_NDX_IF_MINOR : BitField := ⟨15, 8⟩
def Fld.BLK_ID_NDX_IF_MAJOR : BitField := ⟨23, 16⟩
/-- R38 R39 -/ def Reg.BLK_ERR_NDX : Nat := 0x900004
def Fld.BLK_ERR_NDX_LAST_STATUS : BitField := ⟨15, 0⟩
def Fld.BLK_ERR_NDX_VALID : BitField := ⟨16, 16⟩
def Fld.BLK_ERR_NDX_OVERFLOW : BitField := ⟨17, 17⟩
/-- R38 R39 -/ def Reg.BLK_ERR_COUNT_NDX : Nat := 0x900008
/-- R339 R343 -/ def Reg.NDX_CFG : Nat := 0x901000
def Fld.NDX_CFG_HB_MS : BitField := ⟨7, 0⟩
def Fld.NDX_CFG_FENCE_MS : BitField := ⟨23, 8⟩
def Fld.NDX_CFG_COLL_TIMEOUT_MS : BitField := ⟨31, 24⟩
/-- R325 -/ def Reg.NDX_CFG2 : Nat := 0x901004
def Fld.NDX_CFG2_PEER_WAIT_S : BitField := ⟨15, 0⟩
/-- R325 R327 -/ def Reg.LINK_STATE (i : Nat) : Nat := 0x901100 + 0x40 * i
def Fld.LINK_STATE_STATE : BitField := ⟨2, 0⟩
def Fld.LINK_STATE_RATE : BitField := ⟨5, 4⟩
def Fld.LINK_STATE_WIDTH : BitField := ⟨7, 6⟩
def Fld.LINK_STATE_LANES : BitField := ⟨11, 8⟩
def Fld.LINK_STATE_OWNED : BitField := ⟨12, 12⟩
def Fld.LINK_STATE_OWNER : BitField := ⟨14, 13⟩
def Fld.LINK_STATE_CAUSE : BitField := ⟨18, 16⟩
/-- R324 R328 -/ def Reg.LINK_PEER (i : Nat) : Nat := 0x901104 + 0x40 * i
def Fld.LINK_PEER_PEER : BitField := ⟨3, 0⟩
def Fld.LINK_PEER_PEER_LINK : BitField := ⟨7, 4⟩
def Fld.LINK_PEER_MAX_RATE : BitField := ⟨9, 8⟩
def Fld.LINK_PEER_REQUIRED : BitField := ⟨10, 10⟩
def Fld.LINK_PEER_BW : BitField := ⟨31, 16⟩
/-- R325 R327 R323 R330 -/ def Reg.LINK_ATTEMPTS (i : Nat) : Nat := 0x901108 + 0x40 * i
/-- R325 R327 R323 R330 -/ def Reg.LINK_RETRAINS (i : Nat) : Nat := 0x90110C + 0x40 * i
/-- R325 R327 R323 R330 -/ def Reg.LINK_FEC_CORR (i : Nat) : Nat := 0x901110 + 0x40 * i
/-- R325 R327 R323 R330 -/ def Reg.LINK_FEC_UNCORR (i : Nat) : Nat := 0x901114 + 0x40 * i
/-- R325 R327 R323 R330 -/ def Reg.LINK_REPLAYS (i : Nat) : Nat := 0x901118 + 0x40 * i
/-- R325 R327 R323 R330 -/ def Reg.LINK_FOREIGN_DROPPED (i : Nat) : Nat := 0x90111C + 0x40 * i
/-- R331 R346 -/ def Reg.GROUP_STATE (i : Nat) : Nat := 0x902000 + 0x1000 * i
def Fld.GROUP_STATE_STATE : BitField := ⟨2, 0⟩
def Fld.GROUP_STATE_MEMBER : BitField := ⟨7, 4⟩
def Fld.GROUP_STATE_SIZE : BitField := ⟨12, 8⟩
def Fld.GROUP_STATE_LEAD : BitField := ⟨19, 16⟩
/-- R345 -/ def Reg.GROUP_ID (i : Nat) : Nat := 0x902004 + 0x1000 * i
def Fld.GROUP_ID_ID : BitField := ⟨15, 0⟩
/-- R345 -/ def Reg.GROUP_EPOCH (i : Nat) : Nat := 0x902008 + 0x1000 * i
/-- R339 -/ def Reg.FENCE_MASK (i : Nat) : Nat := 0x90200C + 0x1000 * i
def Fld.FENCE_MASK_MASK : BitField := ⟨15, 0⟩
/-- R345 R333 R341 R343 R327 -/ def Reg.GROUP_COUNTER (i j : Nat) : Nat := 0x902010 + 0x1000 * i + 0x4 * j
/-- R328 -/ def Reg.TOPO_COPY (i j : Nat) : Nat := 0x902800 + 0x1000 * i + 0x4 * j

/-- Register table of block NDX, part 0. -/
def regTableNDX0 : List RegSpec := [
  ⟨"BLK_ID_NDX", 0x900000, 1, 0x0, 1, 0x0, .always,
    [⟨3, 0, .ro, false, .lit 9, .none⟩, ⟨15, 8, .ro, false, .lit 0, .none⟩, ⟨23, 16, .ro, false, .lit 1, .none⟩]⟩,
  ⟨"BLK_ERR_NDX", 0x900004, 1, 0x0, 1, 0x0, .always,
    [⟨15, 0, .ro, false, .lit 0, .none⟩, ⟨16, 16, .w1c, false, .lit 0, .none⟩, ⟨17, 17, .w1c, false, .lit 0, .none⟩]⟩,
  ⟨"BLK_ERR_COUNT_NDX", 0x900008, 1, 0x0, 1, 0x0, .always,
    [⟨31, 0, .ro, false, .lit 0, .none⟩]⟩,
  ⟨"NDX_CFG", 0x901000, 1, 0x0, 1, 0x0, .always,
    [⟨7, 0, .rs, true, .lit 10, .zeroAs 1⟩, ⟨23, 8, .rs, true, .lit 500, .clamp 50 65535⟩, ⟨31, 24, .rs, true, .lit 100, .zeroAs 1⟩]⟩,
  ⟨"NDX_CFG2", 0x901004, 1, 0x0, 1, 0x0, .always,
    [⟨15, 0, .ro, true, .lit 900, .clamp 1 65535⟩]⟩,
  ⟨"LINK_STATE", 0x901100, 16, 0x40, 1, 0x0, .link,
    [⟨2, 0, .ro, false, .lit 0, .none⟩, ⟨5, 4, .ro, false, .lit 0, .none⟩, ⟨7, 6, .ro, false, .lit 0, .none⟩, ⟨11, 8, .ro, false, .lit 0, .none⟩, ⟨12, 12, .ro, true, .lit 0, .none⟩, ⟨14, 13, .ro, true, .lit 0, .none⟩, ⟨18, 16, .ro, false, .lit 0, .none⟩]⟩,
  ⟨"LINK_PEER", 0x901104, 16, 0x40, 1, 0x0, .link,
    [⟨3, 0, .ro, true, .lit 0, .none⟩, ⟨7, 4, .ro, true, .lit 0, .none⟩, ⟨9, 8, .ro, true, .lit 0, .none⟩, ⟨10, 10, .ro, true, .lit 0, .none⟩, ⟨31, 16, .ro, false, .lit 0, .none⟩]⟩,
  ⟨"LINK_ATTEMPTS", 0x901108, 16, 0x40, 1, 0x0, .link,
    [⟨31, 0, .ro, false, .lit 0, .none⟩]⟩,
  ⟨"LINK_RETRAINS", 0x90110C, 16, 0x40, 1, 0x0, .link,
    [⟨31, 0, .ro, false, .lit 0, .none⟩]⟩,
  ⟨"LINK_FEC_CORR", 0x901110, 16, 0x40, 1, 0x0, .link,
    [⟨31, 0, .ro, false, .lit 0, .none⟩]⟩,
  ⟨"LINK_FEC_UNCORR", 0x901114, 16, 0x40, 1, 0x0, .link,
    [⟨31, 0, .ro, false, .lit 0, .none⟩]⟩,
  ⟨"LINK_REPLAYS", 0x901118, 16, 0x40, 1, 0x0, .link,
    [⟨31, 0, .ro, false, .lit 0, .none⟩]⟩,
  ⟨"LINK_FOREIGN_DROPPED", 0x90111C, 16, 0x40, 1, 0x0, .link,
    [⟨31, 0, .ro, false, .lit 0, .none⟩]⟩,
  ⟨"GROUP_STATE", 0x902000, 4, 0x1000, 1, 0x0, .always,
    [⟨2, 0, .ro, false, .lit 0, .none⟩, ⟨7, 4, .ro, true, .lit 0, .none⟩, ⟨12, 8, .ro, true, .lit 1, .none⟩, ⟨19, 16, .ro, true, .lit 0, .none⟩]⟩,
  ⟨"GROUP_ID", 0x902004, 4, 0x1000, 1, 0x0, .always,
    [⟨15, 0, .ro, true, .lit 0, .none⟩]⟩,
  ⟨"GROUP_EPOCH", 0x902008, 4, 0x1000, 1, 0x0, .always,
    [⟨31, 0, .ro, true, .lit 0, .none⟩]⟩,
  ⟨"FENCE_MASK", 0x90200C, 4, 0x1000, 1, 0x0, .always,
    [⟨15, 0, .ro, false, .lit 0, .none⟩]⟩,
  ⟨"GROUP_COUNTER", 0x902010, 4, 0x1000, 9, 0x4, .always,
    [⟨31, 0, .ro, false, .lit 0, .none⟩]⟩,
  ⟨"TOPO_COPY", 0x902800, 4, 0x1000, 512, 0x4, .always,
    [⟨31, 0, .ro, false, .lit 0, .none⟩]⟩]
def regTableNDX : List RegSpec := regTableNDX0

/-! ### PCI -/
/-- R38 -/ def Reg.BLK_ID_PCI : Nat := 0xA00000
def Fld.BLK_ID_PCI_BLOCK : BitField := ⟨3, 0⟩
def Fld.BLK_ID_PCI_IF_MINOR : BitField := ⟨15, 8⟩
def Fld.BLK_ID_PCI_IF_MAJOR : BitField := ⟨23, 16⟩
/-- R38 R39 -/ def Reg.BLK_ERR_PCI : Nat := 0xA00004
def Fld.BLK_ERR_PCI_LAST_STATUS : BitField := ⟨15, 0⟩
def Fld.BLK_ERR_PCI_VALID : BitField := ⟨16, 16⟩
def Fld.BLK_ERR_PCI_OVERFLOW : BitField := ⟨17, 17⟩
/-- R38 R39 -/ def Reg.BLK_ERR_COUNT_PCI : Nat := 0xA00008
/-- R312 -/ def Reg.PCI_IDENT : Nat := 0xA01000
def Fld.PCI_IDENT_VENDOR_ID : BitField := ⟨15, 0⟩
def Fld.PCI_IDENT_DEVICE_ID : BitField := ⟨31, 16⟩
/-- R311 -/ def Reg.PCI_LINK : Nat := 0xA01004
def Fld.PCI_LINK_SPEED : BitField := ⟨3, 0⟩
def Fld.PCI_LINK_WIDTH : BitField := ⟨8, 4⟩
def Fld.PCI_LINK_FLIT : BitField := ⟨9, 9⟩
/-- R311 R318 R319 -/ def Reg.PCI_CFG : Nat := 0xA01008
def Fld.PCI_CFG_MAX_GEN : BitField := ⟨3, 0⟩
def Fld.PCI_CFG_EVENT_VECTOR : BitField := ⟨15, 8⟩
def Fld.PCI_CFG_EVENT_EN : BitField := ⟨16, 16⟩
def Fld.PCI_CFG_CPL_TIMEOUT_MS : BitField := ⟨31, 24⟩
/-- R317 -/ def Reg.WIN_BASE (i : Nat) : Nat := 0xA01010 + 0x4 * i
def Fld.WIN_BASE_GIB : BitField := ⟨8, 0⟩
/-- R319 R320 R321 R322 -/ def Reg.PCI_COUNTER (i : Nat) : Nat := 0xA01100 + 0x4 * i
/-- R318 -/ def Reg.MSIX_TABLE (i j : Nat) : Nat := 0xA80000 + 0x10 * i + 0x4 * j
def Fld.MSIX_TABLE_WORD : BitField := ⟨31, 0⟩
/-- R318 -/ def Reg.MSIX_PBA (i : Nat) : Nat := 0xA81000 + 0x4 * i

/-- Register table of block PCI, part 0. -/
def regTablePCI0 : List RegSpec := [
  ⟨"BLK_ID_PCI", 0xA00000, 1, 0x0, 1, 0x0, .always,
    [⟨3, 0, .ro, false, .lit 10, .none⟩, ⟨15, 8, .ro, false, .lit 0, .none⟩, ⟨23, 16, .ro, false, .lit 1, .none⟩]⟩,
  ⟨"BLK_ERR_PCI", 0xA00004, 1, 0x0, 1, 0x0, .always,
    [⟨15, 0, .ro, false, .lit 0, .none⟩, ⟨16, 16, .w1c, false, .lit 0, .none⟩, ⟨17, 17, .w1c, false, .lit 0, .none⟩]⟩,
  ⟨"BLK_ERR_COUNT_PCI", 0xA00008, 1, 0x0, 1, 0x0, .always,
    [⟨31, 0, .ro, false, .lit 0, .none⟩]⟩,
  ⟨"PCI_IDENT", 0xA01000, 1, 0x0, 1, 0x0, .always,
    [⟨15, 0, .ro, false, .fused .fusedVendor, .none⟩, ⟨31, 16, .ro, false, .lit 55304, .none⟩]⟩,
  ⟨"PCI_LINK", 0xA01004, 1, 0x0, 1, 0x0, .always,
    [⟨3, 0, .ro, false, .lit 0, .none⟩, ⟨8, 4, .ro, false, .lit 0, .none⟩, ⟨9, 9, .ro, false, .lit 0, .none⟩]⟩,
  ⟨"PCI_CFG", 0xA01008, 1, 0x0, 1, 0x0, .always,
    [⟨3, 0, .ro, true, .lit 6, .clamp 3 6⟩, ⟨15, 8, .rw, false, .lit 0, .none⟩, ⟨16, 16, .rw, false, .lit 0, .none⟩, ⟨31, 24, .rs, true, .lit 50, .zeroAs 1⟩]⟩,
  ⟨"WIN_BASE", 0xA01010, 5, 0x4, 1, 0x0, .always,
    [⟨8, 0, .rw, false, .lit 0, .clamp 0 287⟩]⟩,
  ⟨"PCI_COUNTER", 0xA01100, 8, 0x4, 1, 0x0, .always,
    [⟨31, 0, .ro, false, .lit 0, .none⟩]⟩,
  ⟨"MSIX_TABLE", 0xA80000, 256, 0x10, 4, 0x4, .always,
    [⟨31, 0, .rw, false, .fused .msixReset, .none⟩]⟩,
  ⟨"MSIX_PBA", 0xA81000, 8, 0x4, 1, 0x0, .always,
    [⟨31, 0, .ro, false, .lit 0, .none⟩]⟩]
def regTablePCI : List RegSpec := regTablePCI0

/-! ### CVU -/
/-- R38 -/ def Reg.BLK_ID_CVU : Nat := 0xB00000
def Fld.BLK_ID_CVU_BLOCK : BitField := ⟨3, 0⟩
def Fld.BLK_ID_CVU_IF_MINOR : BitField := ⟨15, 8⟩
def Fld.BLK_ID_CVU_IF_MAJOR : BitField := ⟨23, 16⟩
/-- R38 R39 -/ def Reg.BLK_ERR_CVU : Nat := 0xB00004
def Fld.BLK_ERR_CVU_LAST_STATUS : BitField := ⟨15, 0⟩
def Fld.BLK_ERR_CVU_VALID : BitField := ⟨16, 16⟩
def Fld.BLK_ERR_CVU_OVERFLOW : BitField := ⟨17, 17⟩
/-- R38 R39 -/ def Reg.BLK_ERR_COUNT_CVU : Nat := 0xB00008
/-- R417 -/ def Reg.CVU_INFO : Nat := 0xB01000
def Fld.CVU_INFO_UNITS : BitField := ⟨7, 0⟩
/-- R422 -/ def Reg.CVU_FAILED (i : Nat) : Nat := 0xB01010 + 0x4 * i
/-- R419 R420 R421 -/ def Reg.CV_CTRL (i j : Nat) : Nat := 0xB10000 + 0x200 * i + 0x40 * j
def Fld.CV_CTRL_ALG : BitField := ⟨1, 0⟩
def Fld.CV_CTRL_TAG_LEN : BitField := ⟨2, 2⟩
def Fld.CV_CTRL_KEEP : BitField := ⟨3, 3⟩
def Fld.CV_CTRL_STATE : BitField := ⟨5, 4⟩
def Fld.CV_CTRL_OWNER : BitField := ⟨6, 6⟩
def Fld.CV_CTRL_SRC : BitField := ⟨11, 8⟩
def Fld.CV_CTRL_INDEX : BitField := ⟨23, 12⟩
def Fld.CV_CTRL_SIDE : BitField := ⟨24, 24⟩
def Fld.CV_CTRL_ATTACH : BitField := ⟨31, 31⟩
/-- R416 -/ def Reg.CV_TAG_LO (i j : Nat) : Nat := 0xB10008 + 0x200 * i + 0x40 * j
/-- R416 -/ def Reg.CV_TAG_HI (i j : Nat) : Nat := 0xB1000C + 0x200 * i + 0x40 * j
/-- R416 -/ def Reg.CV_RUNNING_LO (i j : Nat) : Nat := 0xB10010 + 0x200 * i + 0x40 * j
/-- R416 -/ def Reg.CV_RUNNING_HI (i j : Nat) : Nat := 0xB10014 + 0x200 * i + 0x40 * j
/-- R416 -/ def Reg.CV_RESULT_LO (i j : Nat) : Nat := 0xB10018 + 0x200 * i + 0x40 * j
/-- R416 -/ def Reg.CV_RESULT_HI (i j : Nat) : Nat := 0xB1001C + 0x200 * i + 0x40 * j
/-- R416 -/ def Reg.CV_BYTES_LO (i j : Nat) : Nat := 0xB10020 + 0x200 * i + 0x40 * j
/-- R416 -/ def Reg.CV_BYTES_HI (i j : Nat) : Nat := 0xB10024 + 0x200 * i + 0x40 * j

/-- Register table of block CVU, part 0. -/
def regTableCVU0 : List RegSpec := [
  ⟨"BLK_ID_CVU", 0xB00000, 1, 0x0, 1, 0x0, .always,
    [⟨3, 0, .ro, false, .lit 11, .none⟩, ⟨15, 8, .ro, false, .lit 0, .none⟩, ⟨23, 16, .ro, false, .lit 1, .none⟩]⟩,
  ⟨"BLK_ERR_CVU", 0xB00004, 1, 0x0, 1, 0x0, .always,
    [⟨15, 0, .ro, false, .lit 0, .none⟩, ⟨16, 16, .w1c, false, .lit 0, .none⟩, ⟨17, 17, .w1c, false, .lit 0, .none⟩]⟩,
  ⟨"BLK_ERR_COUNT_CVU", 0xB00008, 1, 0x0, 1, 0x0, .always,
    [⟨31, 0, .ro, false, .lit 0, .none⟩]⟩,
  ⟨"CVU_INFO", 0xB01000, 1, 0x0, 1, 0x0, .always,
    [⟨7, 0, .ro, false, .fused .cvuUnits, .none⟩]⟩,
  ⟨"CVU_FAILED", 0xB01010, 4, 0x4, 1, 0x0, .always,
    [⟨31, 0, .ro, false, .lit 0, .none⟩]⟩,
  ⟨"CV_CTRL", 0xB10000, 128, 0x200, 8, 0x40, .checkUnit,
    [⟨1, 0, .rl, false, .lit 0, .none⟩, ⟨2, 2, .rl, false, .lit 0, .none⟩, ⟨3, 3, .rl, false, .lit 0, .none⟩, ⟨5, 4, .ro, false, .lit 0, .none⟩, ⟨6, 6, .ro, false, .lit 0, .none⟩, ⟨11, 8, .rl, false, .lit 0, .none⟩, ⟨23, 12, .rl, false, .lit 0, .none⟩, ⟨24, 24, .rl, false, .lit 0, .none⟩, ⟨31, 31, .rw, false, .lit 0, .none⟩]⟩,
  ⟨"CV_TAG_LO", 0xB10008, 128, 0x200, 8, 0x40, .checkUnit,
    [⟨31, 0, .rl, false, .lit 0, .none⟩]⟩,
  ⟨"CV_TAG_HI", 0xB1000C, 128, 0x200, 8, 0x40, .checkUnit,
    [⟨31, 0, .rl, false, .lit 0, .none⟩]⟩,
  ⟨"CV_RUNNING_LO", 0xB10010, 128, 0x200, 8, 0x40, .checkUnit,
    [⟨31, 0, .rl, false, .lit 0, .none⟩]⟩,
  ⟨"CV_RUNNING_HI", 0xB10014, 128, 0x200, 8, 0x40, .checkUnit,
    [⟨31, 0, .rl, false, .lit 0, .none⟩]⟩,
  ⟨"CV_RESULT_LO", 0xB10018, 128, 0x200, 8, 0x40, .checkUnit,
    [⟨31, 0, .ro, false, .lit 0, .none⟩]⟩,
  ⟨"CV_RESULT_HI", 0xB1001C, 128, 0x200, 8, 0x40, .checkUnit,
    [⟨31, 0, .ro, false, .lit 0, .none⟩]⟩,
  ⟨"CV_BYTES_LO", 0xB10020, 128, 0x200, 8, 0x40, .checkUnit,
    [⟨31, 0, .rl, false, .lit 0, .none⟩]⟩,
  ⟨"CV_BYTES_HI", 0xB10024, 128, 0x200, 8, 0x40, .checkUnit,
    [⟨31, 0, .rl, false, .lit 0, .none⟩]⟩]
def regTableCVU : List RegSpec := regTableCVU0

/-! ### HLT -/
/-- R38 -/ def Reg.BLK_ID_HLT : Nat := 0xC00000
def Fld.BLK_ID_HLT_BLOCK : BitField := ⟨3, 0⟩
def Fld.BLK_ID_HLT_IF_MINOR : BitField := ⟨15, 8⟩
def Fld.BLK_ID_HLT_IF_MAJOR : BitField := ⟨23, 16⟩
/-- R38 R39 -/ def Reg.BLK_ERR_HLT : Nat := 0xC00004
def Fld.BLK_ERR_HLT_LAST_STATUS : BitField := ⟨15, 0⟩
def Fld.BLK_ERR_HLT_VALID : BitField := ⟨16, 16⟩
def Fld.BLK_ERR_HLT_OVERFLOW : BitField := ⟨17, 17⟩
/-- R38 R39 -/ def Reg.BLK_ERR_COUNT_HLT : Nat := 0xC00008
/-- R424 R434 R433 -/ def Reg.HLT_CFG : Nat := 0xC01000
def Fld.HLT_CFG_SWEEP_PERIOD_H : BitField := ⟨7, 0⟩
def Fld.HLT_CFG_ALERT_SEV : BitField := ⟨11, 8⟩
def Fld.HLT_CFG_PRED_WARN_DAYS : BitField := ⟨31, 16⟩
/-- R431 R434 -/ def Reg.HLT_CFG2 : Nat := 0xC01004
def Fld.HLT_CFG2_HOLDUP_MIN_MJ : BitField := ⟨15, 0⟩
def Fld.HLT_CFG2_HUMID_WARN_PCT : BitField := ⟨22, 16⟩
/-- R432 -/ def Reg.HLT_LIMITS : Nat := 0xC01008
def Fld.HLT_LIMITS_RO_LIMIT_PPM : BitField := ⟨15, 0⟩
def Fld.HLT_LIMITS_FEC_LIMIT_PPM : BitField := ⟨31, 16⟩
/-- R432 -/ def Reg.HLT_LIMITS2 : Nat := 0xC0100C
def Fld.HLT_LIMITS2_CE_DAY_LIMIT : BitField := ⟨15, 0⟩
def Fld.HLT_LIMITS2_RETRAIN_DAY_LIMIT : BitField := ⟨31, 16⟩
/-- R426 R431 R435 -/ def Reg.HLT_STATE : Nat := 0xC01010
def Fld.HLT_STATE_LEDGER : BitField := ⟨1, 0⟩
def Fld.HLT_STATE_HOLDUP_LOW : BitField := ⟨2, 2⟩
def Fld.HLT_STATE_HLT_VECTOR : BitField := ⟨15, 8⟩
def Fld.HLT_STATE_HLT_IRQ_EN : BitField := ⟨16, 16⟩
/-- R434 -/ def Reg.HLT_ALERT : Nat := 0xC01014
def Fld.HLT_ALERT_ALERTS : BitField := ⟨8, 0⟩
/-- R433 -/ def Reg.HLT_WORST : Nat := 0xC01018
def Fld.HLT_WORST_DAYS : BitField := ⟨15, 0⟩
def Fld.HLT_WORST_ENTRY : BitField := ⟨21, 16⟩
/-- R427 -/ def Reg.HLT_PART_SEL : Nat := 0xC01020
def Fld.HLT_PART_SEL_PART : BitField := ⟨15, 0⟩
def Fld.HLT_PART_SEL_COUNTER : BitField := ⟨19, 16⟩
/-- R427 -/ def Reg.HLT_PART_VALUE_LO : Nat := 0xC01024
/-- R427 -/ def Reg.HLT_PART_VALUE_HI : Nat := 0xC01028
/-- R428 -/ def Reg.HLT_HIST_FIRST : Nat := 0xC01030
/-- R428 -/ def Reg.HLT_HIST_NEXT : Nat := 0xC01034
/-- R429 -/ def Reg.HLT_HIST_SEL : Nat := 0xC01038
def Fld.HLT_HIST_SEL_SEQ : BitField := ⟨31, 0⟩
/-- R429 -/ def Reg.HLT_HIST_DATA (i : Nat) : Nat := 0xC01040 + 0x4 * i
/-- R424 R425 R428 R430 R431 R434 -/ def Reg.HLT_COUNTER (i : Nat) : Nat := 0xC01100 + 0x4 * i
/-- R433 -/ def Reg.HLT_FORECAST (i j : Nat) : Nat := 0xC01200 + 0x10 * i + 0x4 * j

/-- Register table of block HLT, part 0. -/
def regTableHLT0 : List RegSpec := [
  ⟨"BLK_ID_HLT", 0xC00000, 1, 0x0, 1, 0x0, .always,
    [⟨3, 0, .ro, false, .lit 12, .none⟩, ⟨15, 8, .ro, false, .lit 0, .none⟩, ⟨23, 16, .ro, false, .lit 1, .none⟩]⟩,
  ⟨"BLK_ERR_HLT", 0xC00004, 1, 0x0, 1, 0x0, .always,
    [⟨15, 0, .ro, false, .lit 0, .none⟩, ⟨16, 16, .w1c, false, .lit 0, .none⟩, ⟨17, 17, .w1c, false, .lit 0, .none⟩]⟩,
  ⟨"BLK_ERR_COUNT_HLT", 0xC00008, 1, 0x0, 1, 0x0, .always,
    [⟨31, 0, .ro, false, .lit 0, .none⟩]⟩,
  ⟨"HLT_CFG", 0xC01000, 1, 0x0, 1, 0x0, .always,
    [⟨7, 0, .rs, true, .lit 24, .none⟩, ⟨11, 8, .rs, true, .lit 4, .outside 2 5 4⟩, ⟨31, 16, .rs, true, .lit 180, .none⟩]⟩,
  ⟨"HLT_CFG2", 0xC01004, 1, 0x0, 1, 0x0, .always,
    [⟨15, 0, .rs, true, .lit 4800, .outside 1000 65535 4800⟩, ⟨22, 16, .rs, true, .lit 80, .outside 50 100 80⟩]⟩,
  ⟨"HLT_LIMITS", 0xC01008, 1, 0x0, 1, 0x0, .always,
    [⟨15, 0, .rs, true, .lit 30000, .zeroAs 1⟩, ⟨31, 16, .rs, true, .lit 1000, .zeroAs 1⟩]⟩,
  ⟨"HLT_LIMITS2", 0xC0100C, 1, 0x0, 1, 0x0, .always,
    [⟨15, 0, .rs, true, .lit 1000, .zeroAs 1⟩, ⟨31, 16, .rs, true, .lit 24, .zeroAs 1⟩]⟩,
  ⟨"HLT_STATE", 0xC01010, 1, 0x0, 1, 0x0, .always,
    [⟨1, 0, .ro, false, .lit 2, .none⟩, ⟨2, 2, .ro, false, .lit 0, .none⟩, ⟨15, 8, .rw, false, .lit 0, .none⟩, ⟨16, 16, .rw, false, .lit 0, .none⟩]⟩,
  ⟨"HLT_ALERT", 0xC01014, 1, 0x0, 1, 0x0, .always,
    [⟨8, 0, .w1c, false, .lit 0, .none⟩]⟩,
  ⟨"HLT_WORST", 0xC01018, 1, 0x0, 1, 0x0, .always,
    [⟨15, 0, .ro, false, .lit 65535, .none⟩, ⟨21, 16, .ro, false, .lit 0, .none⟩]⟩,
  ⟨"HLT_PART_SEL", 0xC01020, 1, 0x0, 1, 0x0, .always,
    [⟨15, 0, .rw, false, .lit 0, .none⟩, ⟨19, 16, .rw, false, .lit 0, .none⟩]⟩,
  ⟨"HLT_PART_VALUE_LO", 0xC01024, 1, 0x0, 1, 0x0, .always,
    [⟨31, 0, .ro, false, .lit 0, .none⟩]⟩,
  ⟨"HLT_PART_VALUE_HI", 0xC01028, 1, 0x0, 1, 0x0, .always,
    [⟨31, 0, .ro, false, .lit 0, .none⟩]⟩,
  ⟨"HLT_HIST_FIRST", 0xC01030, 1, 0x0, 1, 0x0, .always,
    [⟨31, 0, .ro, false, .lit 0, .none⟩]⟩,
  ⟨"HLT_HIST_NEXT", 0xC01034, 1, 0x0, 1, 0x0, .always,
    [⟨31, 0, .ro, false, .lit 0, .none⟩]⟩,
  ⟨"HLT_HIST_SEL", 0xC01038, 1, 0x0, 1, 0x0, .always,
    [⟨31, 0, .rw, false, .lit 0, .none⟩]⟩,
  ⟨"HLT_HIST_DATA", 0xC01040, 8, 0x4, 1, 0x0, .always,
    [⟨31, 0, .ro, false, .lit 0, .none⟩]⟩,
  ⟨"HLT_COUNTER", 0xC01100, 8, 0x4, 1, 0x0, .always,
    [⟨31, 0, .ro, false, .lit 0, .none⟩]⟩,
  ⟨"HLT_FORECAST", 0xC01200, 55, 0x10, 4, 0x4, .always,
    [⟨31, 0, .ro, false, .lit 0, .none⟩]⟩]
def regTableHLT : List RegSpec := regTableHLT0

/-! ### UPD -/
/-- R38 -/ def Reg.BLK_ID_UPD : Nat := 0xD00000
def Fld.BLK_ID_UPD_BLOCK : BitField := ⟨3, 0⟩
def Fld.BLK_ID_UPD_IF_MINOR : BitField := ⟨15, 8⟩
def Fld.BLK_ID_UPD_IF_MAJOR : BitField := ⟨23, 16⟩
/-- R38 R39 -/ def Reg.BLK_ERR_UPD : Nat := 0xD00004
def Fld.BLK_ERR_UPD_LAST_STATUS : BitField := ⟨15, 0⟩
def Fld.BLK_ERR_UPD_VALID : BitField := ⟨16, 16⟩
def Fld.BLK_ERR_UPD_OVERFLOW : BitField := ⟨17, 17⟩
/-- R38 R39 -/ def Reg.BLK_ERR_COUNT_UPD : Nat := 0xD00008
/-- R452 R453 R454 -/ def Reg.UPD_STATE : Nat := 0xD01000
def Fld.UPD_STATE_ENGINE : BitField := ⟨2, 0⟩
def Fld.UPD_STATE_BOOTED : BitField := ⟨3, 3⟩
def Fld.UPD_STATE_FELL_BACK : BitField := ⟨4, 4⟩
def Fld.UPD_STATE_MOTION : BitField := ⟨8, 8⟩
def Fld.UPD_STATE_ON_BATTERY : BitField := ⟨9, 9⟩
def Fld.UPD_STATE_OWNER_LOCK : BitField := ⟨10, 10⟩
def Fld.UPD_STATE_HOLDUP_LOW : BitField := ⟨11, 11⟩
/-- R448 -/ def Reg.UPD_STAGING : Nat := 0xD01004
def Fld.UPD_STAGING_PIECES : BitField := ⟨12, 0⟩
def Fld.UPD_STAGING_RECEIVED : BitField := ⟨28, 16⟩
/-- R455 -/ def Reg.UPD_SHOWDOWN : Nat := 0xD01008
def Fld.UPD_SHOWDOWN_REMAINING_MIN : BitField := ⟨15, 0⟩
def Fld.UPD_SHOWDOWN_ATTEMPTS : BitField := ⟨17, 16⟩
/-- R455 -/ def Reg.UPD_CFG : Nat := 0xD0100C
def Fld.UPD_CFG_SHOWDOWN_MIN : BitField := ⟨15, 0⟩
def Fld.UPD_CFG_HOST_CONFIRM : BitField := ⟨16, 16⟩
/-- R451 -/ def Reg.UPD_FLOOR : Nat := 0xD01010
def Fld.UPD_FLOOR_FLOOR : BitField := ⟨6, 0⟩
def Fld.UPD_FLOOR_REVOKED : BitField := ⟨11, 8⟩
def Fld.UPD_FLOOR_LOADER_VERSION : BitField := ⟨31, 16⟩
/-- R455 -/ def Reg.UPD_CONFIRM : Nat := 0xD01014
def Fld.UPD_CONFIRM_MELD_ID : BitField := ⟨31, 0⟩
/-- R440 -/ def Reg.UPD_SLOT_STATE (i : Nat) : Nat := 0xD01100 + 0x10 * i
def Fld.UPD_SLOT_STATE_STATE : BitField := ⟨2, 0⟩
def Fld.UPD_SLOT_STATE_SECURITY_VERSION : BitField := ⟨14, 8⟩
/-- R440 -/ def Reg.UPD_SLOT_MELD (i : Nat) : Nat := 0xD01104 + 0x10 * i
/-- R440 -/ def Reg.UPD_SLOT_VERSION (i : Nat) : Nat := 0xD01108 + 0x10 * i
/-- R447 R453 R454 R459 -/ def Reg.UPD_COUNTER (i : Nat) : Nat := 0xD01200 + 0x4 * i
/-- R448 -/ def Reg.UPD_BITMAP (i : Nat) : Nat := 0xD01400 + 0x4 * i

/-- Register table of block UPD, part 0. -/
def regTableUPD0 : List RegSpec := [
  ⟨"BLK_ID_UPD", 0xD00000, 1, 0x0, 1, 0x0, .always,
    [⟨3, 0, .ro, false, .lit 13, .none⟩, ⟨15, 8, .ro, false, .lit 0, .none⟩, ⟨23, 16, .ro, false, .lit 1, .none⟩]⟩,
  ⟨"BLK_ERR_UPD", 0xD00004, 1, 0x0, 1, 0x0, .always,
    [⟨15, 0, .ro, false, .lit 0, .none⟩, ⟨16, 16, .w1c, false, .lit 0, .none⟩, ⟨17, 17, .w1c, false, .lit 0, .none⟩]⟩,
  ⟨"BLK_ERR_COUNT_UPD", 0xD00008, 1, 0x0, 1, 0x0, .always,
    [⟨31, 0, .ro, false, .lit 0, .none⟩]⟩,
  ⟨"UPD_STATE", 0xD01000, 1, 0x0, 1, 0x0, .always,
    [⟨2, 0, .ro, false, .lit 0, .none⟩, ⟨3, 3, .ro, false, .lit 0, .none⟩, ⟨4, 4, .ro, false, .lit 0, .none⟩, ⟨8, 8, .ro, false, .lit 0, .none⟩, ⟨9, 9, .ro, false, .lit 0, .none⟩, ⟨10, 10, .ro, false, .lit 1, .none⟩, ⟨11, 11, .ro, false, .lit 0, .none⟩]⟩,
  ⟨"UPD_STAGING", 0xD01004, 1, 0x0, 1, 0x0, .always,
    [⟨12, 0, .ro, false, .lit 0, .none⟩, ⟨28, 16, .ro, false, .lit 0, .none⟩]⟩,
  ⟨"UPD_SHOWDOWN", 0xD01008, 1, 0x0, 1, 0x0, .always,
    [⟨15, 0, .ro, false, .lit 0, .none⟩, ⟨17, 16, .ro, false, .lit 0, .none⟩]⟩,
  ⟨"UPD_CFG", 0xD0100C, 1, 0x0, 1, 0x0, .always,
    [⟨15, 0, .ro, true, .lit 60, .outside 10 1440 60⟩, ⟨16, 16, .ro, true, .lit 0, .none⟩]⟩,
  ⟨"UPD_FLOOR", 0xD01010, 1, 0x0, 1, 0x0, .always,
    [⟨6, 0, .ro, false, .lit 0, .none⟩, ⟨11, 8, .ro, false, .lit 0, .none⟩, ⟨31, 16, .ro, false, .fused .loaderVersion, .none⟩]⟩,
  ⟨"UPD_CONFIRM", 0xD01014, 1, 0x0, 1, 0x0, .always,
    [⟨31, 0, .wo, false, .lit 0, .none⟩]⟩,
  ⟨"UPD_SLOT_STATE", 0xD01100, 2, 0x10, 1, 0x0, .always,
    [⟨2, 0, .ro, false, .lit 0, .none⟩, ⟨14, 8, .ro, false, .lit 0, .none⟩]⟩,
  ⟨"UPD_SLOT_MELD", 0xD01104, 2, 0x10, 1, 0x0, .always,
    [⟨31, 0, .ro, false, .lit 0, .none⟩]⟩,
  ⟨"UPD_SLOT_VERSION", 0xD01108, 2, 0x10, 1, 0x0, .always,
    [⟨31, 0, .ro, false, .lit 0, .none⟩]⟩,
  ⟨"UPD_COUNTER", 0xD01200, 7, 0x4, 1, 0x0, .always,
    [⟨31, 0, .ro, false, .lit 0, .none⟩]⟩,
  ⟨"UPD_BITMAP", 0xD01400, 240, 0x4, 1, 0x0, .always,
    [⟨31, 0, .ro, false, .lit 0, .none⟩]⟩]
def regTableUPD : List RegSpec := regTableUPD0

/-! ### MEM -/
/-- R38 -/ def Reg.BLK_ID_MEM : Nat := 0xE00000
def Fld.BLK_ID_MEM_BLOCK : BitField := ⟨3, 0⟩
def Fld.BLK_ID_MEM_IF_MINOR : BitField := ⟨15, 8⟩
def Fld.BLK_ID_MEM_IF_MAJOR : BitField := ⟨23, 16⟩
/-- R38 R39 -/ def Reg.BLK_ERR_MEM : Nat := 0xE00004
def Fld.BLK_ERR_MEM_LAST_STATUS : BitField := ⟨15, 0⟩
def Fld.BLK_ERR_MEM_VALID : BitField := ⟨16, 16⟩
def Fld.BLK_ERR_MEM_OVERFLOW : BitField := ⟨17, 17⟩
/-- R38 R39 -/ def Reg.BLK_ERR_COUNT_MEM : Nat := 0xE00008
/-- R134 R130 R139 -/ def Reg.MEM_CFG : Nat := 0xE01000
def Fld.MEM_CFG_SCRUB_PERIOD : BitField := ⟨7, 0⟩
def Fld.MEM_CFG_CE_RETIRE : BitField := ⟨15, 8⟩
def Fld.MEM_CFG_SRAM_FOLD : BitField := ⟨19, 16⟩
/-- R121 R136 R137 -/ def Reg.MEM_LAYOUT (i : Nat) : Nat := 0xE01010 + 0x4 * i
def Fld.MEM_LAYOUT_FITTED_S0 : BitField := ⟨0, 0⟩
def Fld.MEM_LAYOUT_FITTED_S1 : BitField := ⟨1, 1⟩
def Fld.MEM_LAYOUT_RESERVE_GIB : BitField := ⟨7, 4⟩
def Fld.MEM_LAYOUT_SPARES_LEFT : BitField := ⟨14, 8⟩
def Fld.MEM_LAYOUT_EXHAUSTED : BitField := ⟨15, 15⟩
def Fld.MEM_LAYOUT_LIST_USED : BitField := ⟨24, 16⟩
/-- R135 -/ def Reg.MEM_RETIRE_EPOCH : Nat := 0xE01020
/-- R137 -/ def Reg.MEM_RETIRE_SEL : Nat := 0xE01024
def Fld.MEM_RETIRE_SEL_DIE : BitField := ⟨1, 0⟩
def Fld.MEM_RETIRE_SEL_INDEX : BitField := ⟨15, 8⟩
/-- R137 -/ def Reg.MEM_RETIRE_ENTRY : Nat := 0xE01028
def Fld.MEM_RETIRE_ENTRY_PAGE : BitField := ⟨15, 0⟩
def Fld.MEM_RETIRE_ENTRY_SPARE : BitField := ⟨21, 16⟩
def Fld.MEM_RETIRE_ENTRY_BRINGUP : BitField := ⟨28, 28⟩
def Fld.MEM_RETIRE_ENTRY_UNMAPPED : BitField := ⟨29, 29⟩
def Fld.MEM_RETIRE_ENTRY_PREDICTIVE : BitField := ⟨30, 30⟩
def Fld.MEM_RETIRE_ENTRY_VALID : BitField := ⟨31, 31⟩
/-- R139 -/ def Reg.MEM_SCRUB : Nat := 0xE01030
def Fld.MEM_SCRUB_PASSES : BitField := ⟨15, 0⟩
def Fld.MEM_SCRUB_PROGRESS : BitField := ⟨31, 16⟩
/-- R141 -/ def Reg.MEM_LOG_HEAD : Nat := 0xE01040
def Fld.MEM_LOG_HEAD_NEXT : BitField := ⟨5, 0⟩
def Fld.MEM_LOG_HEAD_WRAPS : BitField := ⟨31, 16⟩
/-- R128 R129 R132 R139 -/ def Reg.STACK_COUNTER (i j : Nat) : Nat := 0xE01100 + 0x20 * i + 0x4 * j
/-- R130 -/ def Reg.SRAM_COUNTER (i j : Nat) : Nat := 0xE01400 + 0x8 * i + 0x4 * j
/-- R141 -/ def Reg.MEM_LOG (i j : Nat) : Nat := 0xE02000 + 0x10 * i + 0x4 * j

/-- Register table of block MEM, part 0. -/
def regTableMEM0 : List RegSpec := [
  ⟨"BLK_ID_MEM", 0xE00000, 1, 0x0, 1, 0x0, .always,
    [⟨3, 0, .ro, false, .lit 14, .none⟩, ⟨15, 8, .ro, false, .lit 0, .none⟩, ⟨23, 16, .ro, false, .lit 1, .none⟩]⟩,
  ⟨"BLK_ERR_MEM", 0xE00004, 1, 0x0, 1, 0x0, .always,
    [⟨15, 0, .ro, false, .lit 0, .none⟩, ⟨16, 16, .w1c, false, .lit 0, .none⟩, ⟨17, 17, .w1c, false, .lit 0, .none⟩]⟩,
  ⟨"BLK_ERR_COUNT_MEM", 0xE00008, 1, 0x0, 1, 0x0, .always,
    [⟨31, 0, .ro, false, .lit 0, .none⟩]⟩,
  ⟨"MEM_CFG", 0xE01000, 1, 0x0, 1, 0x0, .always,
    [⟨7, 0, .rs, true, .lit 24, .none⟩, ⟨15, 8, .rs, true, .lit 16, .none⟩, ⟨19, 16, .rs, true, .lit 2, .none⟩]⟩,
  ⟨"MEM_LAYOUT", 0xE01010, 4, 0x4, 1, 0x0, .always,
    [⟨0, 0, .ro, false, .lit 1, .none⟩, ⟨1, 1, .ro, false, .fused .isA8, .none⟩, ⟨7, 4, .ro, true, .lit 2, .clamp 1 8⟩, ⟨14, 8, .ro, false, .lit 64, .none⟩, ⟨15, 15, .ro, false, .lit 0, .none⟩, ⟨24, 16, .ro, false, .lit 0, .none⟩]⟩,
  ⟨"MEM_RETIRE_EPOCH", 0xE01020, 1, 0x0, 1, 0x0, .always,
    [⟨31, 0, .ro, false, .lit 0, .none⟩]⟩,
  ⟨"MEM_RETIRE_SEL", 0xE01024, 1, 0x0, 1, 0x0, .always,
    [⟨1, 0, .rw, false, .lit 0, .none⟩, ⟨15, 8, .rw, false, .lit 0, .none⟩]⟩,
  ⟨"MEM_RETIRE_ENTRY", 0xE01028, 1, 0x0, 1, 0x0, .always,
    [⟨15, 0, .ro, false, .lit 0, .none⟩, ⟨21, 16, .ro, false, .lit 0, .none⟩, ⟨28, 28, .ro, false, .lit 0, .none⟩, ⟨29, 29, .ro, false, .lit 0, .none⟩, ⟨30, 30, .ro, false, .lit 0, .none⟩, ⟨31, 31, .ro, false, .lit 0, .none⟩]⟩,
  ⟨"MEM_SCRUB", 0xE01030, 1, 0x0, 1, 0x0, .always,
    [⟨15, 0, .ro, false, .lit 0, .none⟩, ⟨31, 16, .ro, false, .lit 0, .none⟩]⟩,
  ⟨"MEM_LOG_HEAD", 0xE01040, 1, 0x0, 1, 0x0, .always,
    [⟨5, 0, .ro, false, .lit 0, .none⟩, ⟨31, 16, .ro, false, .lit 0, .none⟩]⟩,
  ⟨"STACK_COUNTER", 0xE01100, 8, 0x20, 4, 0x4, .stack,
    [⟨31, 0, .ro, false, .lit 0, .none⟩]⟩,
  ⟨"SRAM_COUNTER", 0xE01400, 96, 0x8, 2, 0x4, .always,
    [⟨31, 0, .ro, false, .lit 0, .none⟩]⟩,
  ⟨"MEM_LOG", 0xE02000, 64, 0x10, 4, 0x4, .always,
    [⟨31, 0, .ro, false, .lit 0, .none⟩]⟩]
def regTableMEM : List RegSpec := regTableMEM0

/-! ### RST -/
/-- R38 -/ def Reg.BLK_ID_RST : Nat := 0xF00000
def Fld.BLK_ID_RST_BLOCK : BitField := ⟨3, 0⟩
def Fld.BLK_ID_RST_IF_MINOR : BitField := ⟨15, 8⟩
def Fld.BLK_ID_RST_IF_MAJOR : BitField := ⟨23, 16⟩
/-- R38 R39 -/ def Reg.BLK_ERR_RST : Nat := 0xF00004
def Fld.BLK_ERR_RST_LAST_STATUS : BitField := ⟨15, 0⟩
def Fld.BLK_ERR_RST_VALID : BitField := ⟨16, 16⟩
def Fld.BLK_ERR_RST_OVERFLOW : BitField := ⟨17, 17⟩
/-- R38 R39 -/ def Reg.BLK_ERR_COUNT_RST : Nat := 0xF00008
/-- R385 R395 R399 -/ def Reg.RST_CFG : Nat := 0xF01000
def Fld.RST_CFG_MEMTEST_DEPTH : BitField := ⟨1, 0⟩
def Fld.RST_CFG_FOLD_POLICY : BitField := ⟨2, 2⟩
def Fld.RST_CFG_DRAIN_TIMEOUT_MS : BitField := ⟨31, 16⟩
/-- R398 -/ def Reg.RST_CMD : Nat := 0xF01004
def Fld.RST_CMD_SCOPE : BitField := ⟨1, 0⟩
def Fld.RST_CMD_ABSORB : BitField := ⟨2, 2⟩
def Fld.RST_CMD_FOLD : BitField := ⟨3, 3⟩
def Fld.RST_CMD_TARGET : BitField := ⟨26, 16⟩
/-- R402 -/ def Reg.RST_CMD_STATUS : Nat := 0xF01008
def Fld.RST_CMD_STATUS_STATUS : BitField := ⟨15, 0⟩
def Fld.RST_CMD_STATUS_BUSY : BitField := ⟨16, 16⟩
/-- R394 -/ def Reg.DECK_EPOCH : Nat := 0xF0100C
def Fld.DECK_EPOCH_EPOCH : BitField := ⟨31, 0⟩
/-- R401 -/ def Reg.PART_STATE (i : Nat) : Nat := 0xF01010 + 0x4 * i
def Fld.PART_STATE_STATE : BitField := ⟨2, 0⟩
def Fld.PART_STATE_DIES : BitField := ⟨7, 4⟩
def Fld.PART_STATE_RESETS : BitField := ⟨31, 16⟩
/-- R403 -/ def Reg.RST_STAGED : Nat := 0xF01020
def Fld.RST_STAGED_BYTES : BitField := ⟨16, 0⟩
def Fld.RST_STAGED_RECORDS : BitField := ⟨31, 24⟩
/-- R398 R399 R396 -/ def Reg.RST_COUNTER (i : Nat) : Nat := 0xF01100 + 0x4 * i
/-- R396 -/ def Reg.FOLDED_DROPS (i : Nat) : Nat := 0xF01400 + 0x4 * i
/-- R392 -/ def Reg.CORE_MAP (i : Nat) : Nat := 0xF02000 + 0x4 * i
/-- R392 -/ def Reg.CLUSTER_MAP (i : Nat) : Nat := 0xF020C0 + 0x4 * i
/-- R392 -/ def Reg.DECK_DIES : Nat := 0xF020CC
/-- R392 -/ def Reg.DECK_LINKS : Nat := 0xF020D0
/-- R392 -/ def Reg.DECK_TALON : Nat := 0xF020D4
/-- R392 -/ def Reg.CORE_CAUSE (i : Nat) : Nat := 0xF02100 + 0x4 * i
/-- R392 -/ def Reg.CLUSTER_CAUSE (i : Nat) : Nat := 0xF02400 + 0x4 * i

/-- Register table of block RST, part 0. -/
def regTableRST0 : List RegSpec := [
  ⟨"BLK_ID_RST", 0xF00000, 1, 0x0, 1, 0x0, .always,
    [⟨3, 0, .ro, false, .lit 15, .none⟩, ⟨15, 8, .ro, false, .lit 0, .none⟩, ⟨23, 16, .ro, false, .lit 1, .none⟩]⟩,
  ⟨"BLK_ERR_RST", 0xF00004, 1, 0x0, 1, 0x0, .always,
    [⟨15, 0, .ro, false, .lit 0, .none⟩, ⟨16, 16, .w1c, false, .lit 0, .none⟩, ⟨17, 17, .w1c, false, .lit 0, .none⟩]⟩,
  ⟨"BLK_ERR_COUNT_RST", 0xF00008, 1, 0x0, 1, 0x0, .always,
    [⟨31, 0, .ro, false, .lit 0, .none⟩]⟩,
  ⟨"RST_CFG", 0xF01000, 1, 0x0, 1, 0x0, .always,
    [⟨1, 0, .ro, true, .lit 1, .outside 0 2 1⟩, ⟨2, 2, .ro, true, .lit 0, .none⟩, ⟨31, 16, .rs, true, .lit 2000, .zeroAs 1⟩]⟩,
  ⟨"RST_CMD", 0xF01004, 1, 0x0, 1, 0x0, .always,
    [⟨1, 0, .wo, false, .lit 0, .none⟩, ⟨2, 2, .wo, false, .lit 0, .none⟩, ⟨3, 3, .wo, false, .lit 0, .none⟩, ⟨26, 16, .wo, false, .lit 0, .none⟩]⟩,
  ⟨"RST_CMD_STATUS", 0xF01008, 1, 0x0, 1, 0x0, .always,
    [⟨15, 0, .ro, false, .lit 0, .none⟩, ⟨16, 16, .ro, false, .lit 0, .none⟩]⟩,
  ⟨"DECK_EPOCH", 0xF0100C, 1, 0x0, 1, 0x0, .always,
    [⟨31, 0, .ro, false, .lit 0, .none⟩]⟩,
  ⟨"PART_STATE", 0xF01010, 4, 0x4, 1, 0x0, .always,
    [⟨2, 0, .ro, false, .lit 0, .none⟩, ⟨7, 4, .ro, true, .lit 0, .none⟩, ⟨31, 16, .ro, false, .lit 0, .none⟩]⟩,
  ⟨"RST_STAGED", 0xF01020, 1, 0x0, 1, 0x0, .always,
    [⟨16, 0, .ro, false, .lit 0, .none⟩, ⟨31, 24, .ro, false, .lit 0, .none⟩]⟩,
  ⟨"RST_COUNTER", 0xF01100, 5, 0x4, 1, 0x0, .always,
    [⟨31, 0, .ro, false, .lit 0, .none⟩]⟩,
  ⟨"FOLDED_DROPS", 0xF01400, 96, 0x4, 1, 0x0, .always,
    [⟨31, 0, .ro, false, .lit 0, .none⟩]⟩,
  ⟨"CORE_MAP", 0xF02000, 48, 0x4, 1, 0x0, .always,
    [⟨31, 0, .ro, false, .lit 0, .none⟩]⟩,
  ⟨"CLUSTER_MAP", 0xF020C0, 3, 0x4, 1, 0x0, .always,
    [⟨31, 0, .ro, false, .lit 0, .none⟩]⟩,
  ⟨"DECK_DIES", 0xF020CC, 1, 0x0, 1, 0x0, .always,
    [⟨31, 0, .ro, false, .lit 0, .none⟩]⟩,
  ⟨"DECK_LINKS", 0xF020D0, 1, 0x0, 1, 0x0, .always,
    [⟨31, 0, .ro, false, .lit 0, .none⟩]⟩,
  ⟨"DECK_TALON", 0xF020D4, 1, 0x0, 1, 0x0, .always,
    [⟨31, 0, .ro, false, .lit 0, .none⟩]⟩,
  ⟨"CORE_CAUSE", 0xF02100, 192, 0x4, 1, 0x0, .always,
    [⟨31, 0, .ro, false, .lit 0, .none⟩]⟩,
  ⟨"CLUSTER_CAUSE", 0xF02400, 12, 0x4, 1, 0x0, .always,
    [⟨31, 0, .ro, false, .lit 0, .none⟩]⟩]
def regTableRST : List RegSpec := regTableRST0

/-- The table of a block, by its number (R13). -/
def regTable : Nat → List RegSpec
  | 0 => regTableMGT
  | 1 => regTablePWR
  | 2 => regTableDEAL
  | 3 => regTableSRV
  | 4 => regTableKVC
  | 5 => regTablePFX
  | 6 => regTableTLN
  | 7 => regTableVIS
  | 8 => regTableMED
  | 9 => regTableNDX
  | 10 => regTablePCI
  | 11 => regTableCVU
  | 12 => regTableHLT
  | 13 => regTableUPD
  | 14 => regTableMEM
  | 15 => regTableRST
  | _ => []

/-- Indices of a register array at an offset, if it holds one there. -/
def regIndexOf (r : RegSpec) (off : Nat) : Option (Nat × Nat) :=
  if off < r.base then none
  else
    let d := off - r.base
    let i := if r.n1 ≤ 1 then 0 else d / r.s1
    let e := d - r.s1 * i
    let j := if r.n2 ≤ 1 then 0 else e / r.s2
    if i < r.n1 ∧ j < r.n2 ∧ e = r.s2 * j ∧ d = r.s1 * i + r.s2 * j then some (i, j) else none

/-- The first register of a list that lies at an offset. -/
def findReg (off : Nat) : List RegSpec → Option (RegSpec × Nat × Nat)
  | [] => none
  | r :: rs =>
    match regIndexOf r off with
    | some (i, j) => some (r, i, j)
    | none => findReg off rs

/-- Does the variant fit the resource of this register (R37)? -/
def fitsVariant (fu : Fuses) (i : Nat) : FitRule → Bool
  | .always => true
  | .link => decide (i < fu.linkCount)
  | .pipe => decide (i < fu.pipeCount)
  | .reckoner => decide (i < fu.reckonerCount)
  | .stack => fu.stackFitted i
  | .checkUnit => decide (i < fu.checkUnitCount)

/-- The register at a BAR0 offset, with its indices: none where no register lies, or where the variant fits none (R37). -/
def regAt (fu : Fuses) (off : Nat) : Option (RegSpec × Nat × Nat) :=
  match findReg off (regTable (off / 0x100000)) with
  | some (r, i, j) => if fitsVariant fu i r.fit then some (r, i, j) else none
  | none => none

/-- Value of a fused quantity, as register fields show it. -/
def fusedGet (fu : Fuses) (i : Nat) : FusedValue → Nat
  | .fusedVariant => fu.variantCode
  | .fusedGrade => if fu.gradeL then 1 else 0
  | .fusedSerialLo => fu.serial % 2 ^ 32
  | .fusedSerialHi => fu.serial / 2 ^ 32 % 2 ^ 32
  | .fusedSustained => fu.sustainedMhz
  | .fusedBoost => fu.boostMhz
  | .fusedMaxW => fu.maxW
  | .fusedVendor => fu.vendorId
  | .isX2 => if fu.x2 then 1 else 0
  | .isA8 => if fu.a8 then 1 else 0
  | .pipeFitted => if i < fu.pipeCount then 1 else 0
  | .cvuUnits => fu.checkUnitCount
  | .loaderVersion => fu.loaderVersion
  | .msixReset => if i % 4 = 3 then 1 else 0

def resetGet (fu : Fuses) (i : Nat) : ResetValue → Nat
  | .lit n => n
  | .fused f => fusedGet fu i f

/-- The reset word of a register: every field at the reset value of its table. -/
def regResetNat (fu : Fuses) (i j : Nat) (r : RegSpec) : Nat :=
  r.fields.foldl (fun acc f =>
    acc + (resetGet fu (match f.reset with | .fused .msixReset => j | _ => i) f.reset) % 2 ^ (f.hi + 1 - f.lo) * 2 ^ f.lo) 0

/-- The reset word at an offset; 0 where no register lies (R37). -/
def resetWord (fu : Fuses) (off : Nat) : Word :=
  match regAt fu off with
  | some (r, i, j) => BitVec.ofNat 32 (regResetNat fu i j r)
  | none => 0

end Sys2Proof.Machine
end

