-- ==== Sys2Proof/Machine/State.lean ====
section
/-! DEFINITION. Machine/State.lean: everything the spec gives the module, as plain data, the queue of waiting commands, the
reasons a step can stop, and the module right after reset. -/
namespace Sys2Proof.Machine

/-- Reasons for a fault. -/
inductive Fault where
  /-- No meaning raises it: the spec gives every command of the table an effect in every state, so no command ends in a
  fault. It stands here so that the type of faults is not empty. Safe. -/
  | notRaised
  deriving DecidableEq, Repr

/-- Reasons for a refusal. -/
inductive Refusal where
  /-- Raised by the dispatch arm of a command that has no meaning yet. Safe. -/
  | notModelled (mnemonic : String)
  deriving DecidableEq, Repr

/-- A waiting write of the module to host memory, held while Bus Master Enable is 0 (R319). -/
structure HostWrite where
  fn : Nat
  addr : Nat
  bytes : List Byte
  deriving DecidableEq, Repr

/-- What leaves the module: messages, completions, flits. -/
inductive Sent where
  /-- an MSI-X message of a function (R318) -/
  | msix (fn vector : Nat)
  /-- a completion with data of a host read -/
  | readData (fn value : Nat)
  /-- a completion with Unsupported Request, or an AER report of one -/
  | unsupported (fn : Nat)
  /-- a completion with Completer Abort -/
  | completerAbort (fn : Nat)
  /-- the answer to one of Hjeluno's own sideband messages, byte by byte (R476) -/
  | reply (bytes : List Byte)
  /-- the I3C target raises an in-band interrupt from its dynamic address, with a mandatory data byte: an MCTP packet is pending (R474) -/
  | inBandInterrupt (addr mandatory : Nat)
  /-- the answer to an MCTP control command (R475) -/
  | mctp (body : List Nat)
  /-- the answer to a PLDM command (R479) -/
  | pldm (body : List Nat)
  /-- a flit on an Ndoyx link with its link sequence number (R334) -/
  | flit (link lseq : Nat) (f : Flit)
  /-- a LINK_ACK or LINK_NAK flit, which takes no link sequence number of its own (R334) -/
  | linkFlit (link : Nat) (f : Flit)
  deriving DecidableEq, Repr

/-- The PCIe endpoint beside its registers (R311 to R322). -/
structure PcieState where
  /-- functions whose Bus Master Enable is 1: 0 is PF0, 1 to 4 the VFs -/
  busMaster : List Nat
  /-- host memory as the module sees it -/
  hostMem : List Host.Cell
  /-- writes to host memory that wait for Bus Master Enable (R319) -/
  waiting : List HostWrite
  /-- MSI-X table words of all functions, by 4096 f + 16 v + 4 w -/
  msix : List (Nat × Nat)
  /-- pending bits, by 256 f + v -/
  pending : List Nat
  /-- what the module has sent, newest first -/
  sent : List Sent
  deriving DecidableEq, Repr

/-- The four reset scopes (R398). -/
inductive ResetScope where
  | core | cluster | partition | module
  deriving DecidableEq, Repr

/-- A reset in progress (R398 to R404). -/
structure ResetJob where
  scope : ResetScope
  /-- core number, cluster number, or mask of the partitions that drain -/
  target : Nat
  /-- still draining, else resetting -/
  draining : Bool
  started : Nat
  /-- C-dies in scope of a partition reset -/
  dies : List Nat
  /-- partitions that start once their links have trained (step 7 of R401) -/
  starting : List Nat
  /-- changes of the staging buffer before the reset was accepted: it applies the records that were staged then -/
  upTo : Nat
  deriving DecidableEq, Repr

/-- What a staged record holds (R403): a partition map, a topology record, or entries of a block record by BAR0 offset. -/
inductive StagedItem where
  | map (value : Nat)
  | topology (words : List Nat)
  | entry (off mask value : Nat)
  deriving DecidableEq, Repr

/-- A staged record: its bytes in the buffer, and the items of it that no reset has applied yet. -/
structure StagedRecord where
  bytes : Nat
  /-- changes of the staging buffer before this one -/
  seq : Nat
  items : List StagedItem
  deriving DecidableEq, Repr

/-- A fold ordered for a partition that is being reset (R397). -/
structure PendingFold where
  isCluster : Bool
  target : Nat
  cause : Nat
  deriving DecidableEq, Repr

/-- Management, bring-up, reset and the deck map beside their registers. -/
structure MgmtState where
  /-- high word latched by a read of MGT_TIME_LO -/
  timeLatch : Nat
  /-- the configuration image: register offset to mask and value (R384) -/
  configImage : List (Nat × (Nat × Nat))
  /-- the partition map in force, and the topology records by partition (R328, R384) -/
  partMap : Nat
  /-- topology records in force, by partition -/
  topology : List (Nat × List Nat)
  /-- staged records, oldest first (R403) -/
  staged : List StagedRecord
  /-- changes of the staging buffer so far -/
  stagedSeq : Nat
  /-- resets in progress -/
  jobs : List ResetJob
  /-- folds ordered while their partition resets (R397) -/
  pendingFolds : List PendingFold
  /-- C-dies that bring-up excluded (R385) -/
  excludedDies : List Nat
  /-- C-dies whose die fabric domain failed at stage 4 (R387) -/
  fabricDown : List Nat
  /-- bring-up waits in stage 6 for peers (R325) -/
  waitingPeers : Bool
  /-- time at which the running bring-up stage began -/
  stageStart : Nat
  /-- the most severe status word of the running stage so far, the first of equal severity (R377) -/
  stageStatus : Nat
  /-- a severity 0x5 status word has stopped the module (R15) -/
  fatal : Option Nat
  deriving DecidableEq, Repr

/-- A record of the health ledger's history (R429). -/
structure LedgerRecord where
  poweredS : Nat
  part : Nat
  status : Nat
  kind : Nat
  seq : Nat
  value : Nat
  boot : Nat
  permanent : Bool
  deriving DecidableEq, Repr

/-- The health ledger and the known-answer sweeps (R423 to R436). -/
structure LedgerState where
  /-- live counters, by 16 × part code + counter index (R427) -/
  counters : List (Nat × Nat)
  /-- the last checkpoint written to Talon (R426) -/
  checkpoint : List (Nat × Nat)
  /-- history records held, oldest first -/
  history : List LedgerRecord
  /-- records kept in management memory while Talon is not mounted (R426) -/
  unwritten : List LedgerRecord
  /-- sequence number of the next history record -/
  nextSeq : Nat
  /-- per block: the second of the last recorded event and how many that second recorded (R428) -/
  rate : List (Nat × (Nat × Nat))
  /-- per forecast entry: daily values, newest first, at most 30 (R432) -/
  daily : List (Nat × List Int)
  /-- counters as they stood at the last daily computation -/
  dayBase : List (Nat × Nat)
  /-- per cluster: when it was last swept -/
  swept : List (Nat × Nat)
  /-- clusters due again, with the cores that differed in the first sweep (R425) -/
  retry : List (Nat × List Nat)
  /-- the cluster whose sweep is running -/
  sweeping : Option Nat
  /-- high word latched by a read of HLT_PART_VALUE_LO -/
  partLatch : Nat
  /-- FEC codewords received per link in the current powered day (R427) -/
  codewords : List (Nat × Nat)
  /-- highest readings of the sensors that R370 has the ledger record and R427 gives no counter: the NAND area and the connector -/
  boardMax : List (Nat × Nat)
  /-- when the last checkpoint was due to the hour, by the timebase (R426) -/
  checkpointAt : Nat
  /-- when the last daily forecasts were made (R432) -/
  forecastAt : Nat
  /-- when the oscillators were last measured (R430) -/
  driftAt : Nat
  /-- when the hold-up bank was last measured (R431) -/
  holdupAt : Nat
  deriving DecidableEq, Repr

/-- One of Hjeluno's own sideband messages (R476). -/
structure SidebandMsg where
  instanceId : Nat
  code : Nat
  body : List Byte
  /-- it breaks R476 or R477, and is answered BAD_SIDEBAND_MESSAGE in its turn -/
  bad : Bool
  deriving DecidableEq, Repr

/-- A boot control record (R441). -/
structure BootRecord where
  seq : Nat
  /-- states of slots A and B (R440) -/
  stateA : Nat
  stateB : Nat
  attempts : Nat
  meldA : Nat
  meldB : Nat
  versionA : Nat
  versionB : Nat
  trialMeld : Nat
  deriving DecidableEq, Repr

/-- The staging record in force (R448): pieces received and slot sectors erased. -/
structure StagingRecord where
  seq : Nat
  meld : Nat
  pieces : Nat
  received : List Nat
  erased : List Nat
  deriving DecidableEq, Repr

/-- The boot NOR, the update engine and the loader's choice, beside their registers (R439 to R459). -/
structure UpdateState where
  /-- the boot control record in force (R441) -/
  boot : BootRecord
  /-- the staging record in force (R448) -/
  staging : Option StagingRecord
  /-- slots that still hold the image they left manufacture with -/
  factory : List Nat
  /-- bytes of the two firmware slots by NOR offset; an unlisted byte reads 0xFF -/
  nor : List Host.Cell
  /-- bytes of the boot control sectors and the staging sectors by NOR offset (R441, R448) -/
  control : List Host.Cell
  /-- an activation waits for its drain (R453): its ACTIVATE, not yet answered -/
  activating : Option SidebandMsg
  /-- start of stage 1 of the running attempt (R455) -/
  stage1At : Nat
  /-- the loader stays in recovery (R454) -/
  recovery : Bool
  /-- MELD_ID, IMAGE_VERSION and manifest digest of the booted slot, and the digest of the store read at stage 2 (R459) -/
  bootedMeld : Nat
  /-- IMAGE_VERSION of the booted slot -/
  bootedVersion : Nat
  /-- manifest digest of the booted slot -/
  manifestDigest : List Byte
  /-- digest of the configuration store read at stage 2 -/
  configDigest : List Byte
  deriving DecidableEq, Repr

/-- The sideband, the discrete lines and the rails (R465 to R479). -/
structure SidebandState where
  /-- messages held: the one being served and those waiting behind it, oldest first (R477) -/
  held : List SidebandMsg
  /-- the I3C target answers (R474) -/
  targetUp : Bool
  /-- I3C dynamic address -/
  dynamicAddr : Option Nat
  /-- MCTP endpoint ID -/
  endpointId : Nat
  /-- SLOT_ID on the straps, and as last sampled -/
  slotIdLine : Nat
  /-- SLOT_ID as last sampled -/
  slotId : Nat
  /-- LATCH reads locked -/
  latchLocked : Bool
  /-- PRSNT_N reads low -/
  present : Bool
  /-- RESET_N is asserted -/
  resetAsserted : Bool
  /-- CLAMP_N is asserted -/
  clampAsserted : Bool
  /-- the 48 V bus is in range -/
  bus48 : Bool
  /-- the 12 V auxiliary is in range -/
  aux12 : Bool
  /-- PWR_GOOD is driven -/
  powerGood : Bool
  /-- ALERT_N is asserted -/
  alertAsserted : Bool
  /-- rail voltages as last sampled, in 10 mV: 48 V and 12 V -/
  volts48 : Nat
  /-- 12 V rail as last sampled, in 10 mV -/
  volts12 : Nat
  deriving DecidableEq, Repr

/-! ### Cores -/

/-- A weight buffer of the array: a tile's elements and scales; bytes beyond it read 0 (R45, R53, R54). -/
structure WeightTile where
  elems : List Byte
  scales : List Byte
  deriving DecidableEq, Repr

/-- Column sums on their way to the core store (R54). -/
structure Landing where
  acc : Nat
  add : Bool
  int : Bool
  /-- per column: the FP32 encoding or the exact INT32 sum, and its flags -/
  sums : List (Int × Nat)
  /-- the core's cycle, in units of 1/6,400,000, at which they are ready: 40 or 48 cycles after the row entered -/
  readyAt : Nat
  deriving DecidableEq, Repr

/-- Special-function results that have not yet returned (R68). -/
structure SfuBatch where
  dst : Nat
  firstLane : Nat
  bf16 : Bool
  results : List Nat
  flags : Nat
  deriving DecidableEq, Repr

/-- Collective operations (R340). -/
inductive CollOp where
  | allReduce | allGather | reduceScatter | send | recv
  deriving DecidableEq, Repr

/-- Operations on a check-value context that a stream descriptor carries (R419). -/
inductive CvOp where
  | attach | detach | save | restore | feed
  deriving DecidableEq, Repr

/-- A descriptor of a stream queue, of any of the types that a core issues (R70, R72, R196, R212, R259, R274, R340, R419). -/
inductive StreamItem where
  | move (d : StreamDesc)
  | tap (words : List Nat)
  | cv (op : CvOp) (d : CvDesc)
  | fmap (fill : Bool) (words : List Nat)
  | tag (words : List Nat)
  | kvWrite (op : Nat) (words : List Nat)
  | kvGather (words : List Nat)
  | coll (op : CollOp) (d : CollDesc)
  deriving DecidableEq, Repr

/-- A descriptor that has started in a stream queue and has not completed (R70). -/
structure StreamJob where
  desc : StreamDesc
  /-- check-value contexts that snoop it (R418) -/
  snoops : List Nat
  deriving DecidableEq, Repr

/-- One core: its units, its control page, its firmware store (R40, R45, R48, R109, R388). -/
structure CoreState where
  /-- vector registers that are not 0, as 2,048-bit numbers -/
  vregs : List (Nat × Nat)
  active : WeightTile
  shadow : WeightTile
  landing : List Landing
  sfu : List SfuBatch
  /-- started global moves, by queue 0 to 3 -/
  queues : List (Nat × StreamJob)
  /-- descriptors issued to a queue whose previous one has not completed, oldest first (R70) -/
  issued : List (Nat × StreamItem)
  /-- completed descriptors per queue -/
  done : List (Nat × Nat)
  flags : Nat
  rmode : Nat
  satEn : Nat
  lfsr : Nat
  /-- clock cycles since task start, in units of 1/6,400,000 of a cycle (R48, R356) -/
  cycles : Nat
  stalls : Nat
  storeCollisions : Nat
  halted : Bool
  /-- queue and completion count that the control unit waits for (R70) -/
  waiting : Option (Nat × Nat)
  /-- a tap walker produced an empty result (R253) -/
  emptySeen : Bool
  bodyTag : Nat
  /-- the task loading or running on the core: graph and TASK_ID -/
  task : Option (Nat × Nat)
  /-- firmware store: bitmap of received packets, payload bytes, COUNT, IMAGE_BYTES, IMAGE_CRC, started -/
  fwReceived : Nat
  fwBytes : List Byte
  fwCount : Nat
  fwImageBytes : Nat
  fwImageCrc : Nat
  fwStarted : Bool
  /-- unicasts to the core that will not reach it whole, should its firmware store need repair (R399): the environment's -/
  fwBadCasts : Nat
  deriving DecidableEq, Repr

def WeightTile.zero : WeightTile := ⟨[], []⟩

/-- A core after power-up (R45, R48). -/
def CoreState.fresh : CoreState :=
  ⟨[], .zero, .zero, [], [], [], [], [], 0, 0, 1, 1, 0, 0, 0, false, none, false, 0, none, 0, [], 0, 0, 0, false, 0⟩

/-! ### Memory -/

/-- An entry of a die's retirement list (R137). -/
structure RetireEntry where
  die : Nat
  page : Nat
  /-- none: unmapped -/
  spare : Option Nat
  bringup : Bool
  predictive : Bool
  deriving DecidableEq, Repr

/-- A remap in progress (R135). -/
structure RemapJob where
  die : Nat
  page : Nat
  spare : Nat
  predictive : Bool
  deriving DecidableEq, Repr

/-- The memory controllers beside their registers (R128 to R140). Words are named by address ÷ 32 in HBM and by address ÷ 8 in
SRAM. -/
structure MemState where
  /-- contents of global space (R118) -/
  mem : List Host.Cell
  /-- HBM words holding a single-bit error, an uncorrectable error, or lost (R129, R131, R133) -/
  single : List Nat
  /-- HBM words with a double-bit upset -/
  double : List Nat
  /-- HBM words whose contents are lost -/
  lost : List Nat
  /-- SRAM words with a single-bit upset -/
  sramSingle : List Nat
  /-- SRAM words with a double-bit upset -/
  sramDouble : List Nat
  /-- retirement lists of all dies, in list order -/
  retired : List RetireEntry
  /-- HBM pages being remapped -/
  remaps : List RemapJob
  /-- lowest spares no longer free, by die: how many were taken since bring-up -/
  sparesTaken : List (Nat × Nat)
  /-- HBM_CORRECTED events per page (die × 65536 + page) since bring-up or its last remap -/
  pageCe : List (Nat × Nat)
  /-- SRAM_UNCORRECTABLE events per store (core n) and per pool (2048 + cluster) since bring-up -/
  sramUe : List (Nat × Nat)
  /-- failed pseudo-channels, by die × 64 + pc -/
  failedChannels : List Nat
  /-- the next offset to scrub, by die -/
  scrubAt : List (Nat × Nat)
  /-- clusters whose POOL_COLLISIONS are not 0 -/
  poolCollisions : List (Nat × Nat)
  /-- stacks in self-refresh, by 2d + s (R353) -/
  selfRefresh : List Nat
  /-- time of the last access to a stack -/
  lastAccess : List (Nat × Nat)
  deriving DecidableEq, Repr

/-! ### Dealer -/

/-- Task classes in rank order (R81). -/
inductive TaskClass where
  | trump | prefill | vision | collective | background
  deriving DecidableEq, Repr

/-- Task states (R91). -/
inductive TaskPhase where
  | waiting | ready | reserved | loading | running | done | failed | skipped
  deriving DecidableEq, Repr

structure Placement where
  dieMask : Nat
  clusterMask : Nat
  coreMask : Nat
  bodyTable : Nat
  deriving DecidableEq, Repr

/-- A task descriptor (R81) with its successors (R83). -/
structure TaskDesc where
  id : Nat
  cls : TaskClass
  resident : Bool
  depCount : Nat
  succs : List Nat
  placements : List Placement
  energy : Nat
  duration : Nat
  rmode : Nat
  satEn : Nat
  seed : Nat
  bodyTag : Nat
  collId : Nat
  preambleAt : Nat
  args : List Nat
  deriving DecidableEq, Repr

/-- A task in the dealer's task store (R91). -/
structure Task where
  desc : TaskDesc
  phase : TaskPhase
  /-- predecessors not yet ended -/
  count : Nat
  /-- a predecessor failed or was skipped: starts in abort form (R93) -/
  abortForm : Bool
  readyAt : Nat
  /-- a background task ranks as a vision task since this time, where BG_MAX_WAIT has changed meanwhile (R97) -/
  agedAt : Option Nat
  /-- since when it has been held by energy (R100) -/
  heldSince : Option Nat
  /-- cores reserved (R95) -/
  reserved : List Nat
  placement : Nat
  cores : List Nat
  charged : Nat
  startTs : Nat
  /-- time of the first bundle -/
  runTs : Nat
  /-- cycles after the first bundle at which it times out, by the TIMEOUT_MULT of its first bundle (R112, R405) -/
  limit : Nat
  endTs : Nat
  status : Nat
  flags : Nat
  stallMax : Nat
  deriving DecidableEq, Repr

/-- Where a graph comes from (R78, R276, R366, R424). -/
inductive GraphSource where
  | serving (slot : Nat)
  | sq (q : Nat)
  | pipeline (pipe frame q : Nat)
  | sweep (cluster : Nat)
  | ballast (cluster : Nat)
  deriving DecidableEq, Repr

/-- An accepted graph (R86). -/
structure Graph where
  uid : Nat
  part : Nat
  source : GraphSource
  seq : Nat
  tag : Nat
  trick : Nat
  deckOld : Bool
  records : Option Nat
  aborted : Bool
  tasks : List Task
  deriving DecidableEq, Repr

/-- A submission entry (R103). -/
structure SubmissionEntry where
  source : GraphSource
  packetAddr : Nat
  packetBytes : Nat
  seq : Nat
  fence : Bool
  records : Bool
  recordAddr : Nat
  /-- the serving engine's copy of a template (R159), in place of bytes at the address; empty for other queues -/
  copy : List Byte
  deriving DecidableEq, Repr

/-- A completion entry of a graph (R106). -/
structure GraphCompletion where
  sq : Nat
  status : Nat
  seq : Nat
  tag : Nat
  endTs : Nat
  done : Nat
  failed : Nat
  skipped : Nat
  deriving DecidableEq, Repr

/-- The end of a graph of the serving queue or of a pipeline, on its way to the engine that submitted it (R78, R276). -/
structure GraphReport where
  part : Nat
  source : GraphSource
  trick : Nat
  status : Nat
  /-- status and end of each failed task -/
  failed : List (Nat × Nat)
  accepted : Bool
  deriving DecidableEq, Repr

/-- The dealer's state for one partition, beside its registers. -/
structure PartDealer where
  /-- round-robin: the SQ whose turn is next (R104) -/
  turn : Nat
  /-- entry fetched and not yet accepted or rejected -/
  fetched : Option SubmissionEntry
  /-- the status of the read of its packet's header, where that read failed (R131) -/
  fetchedBad : Option Nat
  servingQueue : List SubmissionEntry
  servingExpect : Nat
  /-- completions held for a full CQ, oldest first (R107) -/
  heldCompletions : List GraphCompletion
  /-- CQs whose current pass writes PHASE 0 -/
  phaseFlipped : List Nat
  deriving DecidableEq, Repr

def PartDealer.empty : PartDealer := ⟨0, none, none, [], 0, [], []⟩

structure DealerState where
  /-- the dealer's state by partition -/
  parts : List (Nat × PartDealer)
  /-- graphs held, with their tasks -/
  graphs : List Graph
  /-- the model's name of the next graph -/
  nextUid : Nat
  /-- graph ends that the serving engine or a pipeline has not yet handled, oldest first -/
  reports : List GraphReport
  deriving DecidableEq, Repr

/-! ### Power -/

/-- The power manager beside its registers (R350 to R371). -/
structure PowerState where
  /-- the power state STANDBY, which PWR_STATE cannot show (R352) -/
  standby : Bool
  /-- the power manager has started (R360) -/
  started : Bool
  /-- powered cores -/
  coresUp : List Nat
  /-- powered clusters -/
  clustersUp : List Nat
  /-- media pipes, edge engines, reckoners and Talon channels that are powered -/
  enginesUp : List Domain
  /-- domains whose power-up has been requested and has not completed -/
  waking : List Domain
  /-- when each of those power-ups was requested (R350) -/
  wakeAt : List (Domain × Nat)
  /-- since when a core or cluster (by 2048 + cluster) has been idle -/
  idleSince : List (Nat × Nat)
  /-- boosted clusters -/
  boosted : List Nat
  /-- tasks, by graph and TASK_ID, that a boosted cluster runs boosted (R364) -/
  boostedBy : List (Nat × (Nat × Nat))
  /-- input power of the last 25 measurements in W, newest first (R358, R362) -/
  input : List Nat
  /-- measurements of the current window: sum, count, peak -/
  winSum : Nat
  /-- measurements in the window -/
  winCount : Nat
  /-- highest measurement of the window -/
  winPeak : Nat
  /-- CAP_LAG clear and no clamp, so far in this window (R363) -/
  winClean : Bool
  /-- time of the last change of the effective cap -/
  capChangeAt : Nat
  /-- consecutive complete windows at or below the cap since CAP_LAG was set (R362) -/
  lagBelow : Nat
  /-- a complete window has ended since the power manager started -/
  windowDone : Bool
  /-- measurements of the last complete window: sum and count (R364) -/
  lastWindow : Nat × Nat
  /-- CLAMP_N was released and the first window boundary has not come (R365) -/
  clampReleased : Bool
  /-- step 5 of R365 runs -/
  clampRising : Bool
  /-- ballast tasks started since the last measurement (R366) -/
  ballastStarted : Nat
  /-- ballast was held by the budget in this window (R368) -/
  ballastHeld : Bool
  /-- values of SET_ANTE and SET_SHARES that have not yet taken effect (R373) -/
  anteNext : Option Nat
  /-- value of SET_SHARES not yet in effect -/
  sharesNext : Option Nat
  /-- since when a die has been cool enough (R363) -/
  coolSince : List (Nat × Nat)
  /-- C-dies that are throttled -/
  throttledDies : List Nat
  /-- X-dies that are throttled -/
  throttledXdies : List Nat
  /-- the input stage is at reduced power -/
  stageReduced : Bool
  /-- stacks at the doubled refresh -/
  hotStacks : List Nat
  /-- the hold-up bank is hot -/
  holdupHot : Bool
  /-- since when nothing has run and everything has been down (R354) -/
  restingSince : Option Nat
  /-- trimmed RC oscillator: the second of the last trim (R351) -/
  trimmedAt : Nat
  deriving DecidableEq, Repr

/-! ### Serving and the KV cache -/

/-- A multimodal segment (R148). -/
structure Segment where
  addr : Nat
  embed : Bool
  wait : Bool
  pos : Nat
  count : Nat
  tag : Nat
  deriving DecidableEq, Repr

/-- A request descriptor (R146), with its segments once they have been read. -/
structure ReqDesc where
  opcode : Nat
  slot : Nat
  cls : Nat
  hostSpace : Bool
  variant : Nat
  hostTag : Nat
  promptAddr : Nat
  target : Nat
  promptLen : Nat
  maxNew : Nat
  temperature : Nat
  topK : Nat
  topP : Nat
  deadlineMs : Nat
  seed : Nat
  stop0 : Nat
  stop1 : Nat
  mmAddr : Nat
  segs : List Segment
  deriving DecidableEq, Repr

/-- A HELD request in the admission queue (R152). -/
structure HeldReq where
  desc : ReqDesc
  rq : Nat
  fetchTs : Nat
  deriving DecidableEq, Repr

/-- States of a page-table entry (R192). -/
inductive EntryState where
  | committed | copyPending | provisional
  deriving DecidableEq, Repr

/-- A page-table entry of a request on one C-die (R192); rows are named by the page reference of their layer-0 page. -/
structure KvEntry where
  basePos : Nat
  log2p : Nat
  format : Nat
  state : EntryState
  row : Nat
  deriving DecidableEq, Repr

/-- A request's page table on one C-die: its page-table blocks and its entries. -/
structure KvTable where
  die : Nat
  blocks : List Nat
  entries : List KvEntry
  deriving DecidableEq, Repr

/-- Phases of a request that holds a hand record (R152); `resuming` while its parked image is being read. -/
inductive ReqPhase where
  | prefill | decode | parking | resuming
  /-- ended at this boundary, COMPLETED or not -/
  | ended (completed : Bool)
  deriving DecidableEq, Repr

/-- A hand record (R154, R191). -/
structure HandRecord where
  index : Nat
  generation : Nat
  phase : ReqPhase
  desc : ReqDesc
  rq : Nat
  /-- admission order -/
  order : Nat
  submitTs : Nat
  admitTs : Nat
  firstTs : Nat
  lastTs : Nat
  promptDone : Nat
  generated : Nat
  position : Nat
  lastToken : Nat
  tbtLast : Nat
  tbtMax : Nat
  tbtOver : Nat
  drafts : List Nat
  parkHandle : Nat
  /-- the next interval between tokens spans a parking and is not counted (R155) -/
  skipInterval : Bool
  /-- a resumed request's image, removed after its first completed trick (R175) -/
  dropImage : Option Nat
  /-- the PARK command's own queue and tag, for its ACK -/
  parkBy : Nat × Nat
  /-- members that have not yet reported the end of this parking or resumption -/
  awaiting : List Nat
  /-- how the parking or resumption ended, until the boundary that acts on it -/
  outcome : Option Nat
  log2p : Nat
  kitty : Nat
  flushPending : Bool
  /-- layer slices (256 × die + layer) of the pending run that have been flushed -/
  flushed : List Nat
  /-- layer slices whose copy-on-write copy has been made -/
  copied : List Nat
  tentative : Nat
  startPos : Nat
  reservedRows : Nat
  /-- positions written in the current trick: layer slice, first position, count -/
  written : List (Nat × (Nat × Nat))
  tables : List KvTable
  /-- prefix index nodes of the request's path, by granule -/
  path : List Nat
  /-- a follower could not allocate a row: the request's descriptors write nothing (R202) -/
  noPage : Bool
  /-- a parking read holds an engine lease on each of the request's rows (R205) -/
  leased : Bool
  /-- token identifiers of the indexable granules, as the walker read them at admission (R219, R224) -/
  prompt : List Nat
  deriving DecidableEq, Repr

/-- A page row (R180, R189): LAYERS blocks of one order on one C-die. -/
structure KvRow where
  /-- page reference of the layer-0 page -/
  ref : Nat
  /-- block offsets in 4 KiB units, layer 0 first -/
  blocks : List Nat
  order : Nat
  log2p : Nat
  format : Nat
  slot : Nat
  refcount : Nat
  leases : Nat
  leaseTrick : Nat
  source : Option Nat
  /-- positions written from the page base, per layer -/
  fill : List Nat
  deriving DecidableEq, Repr

/-- Kinds of row of a trick (R160). -/
inductive RowKind where
  | decode | draft | prefill | pad
  deriving DecidableEq, Repr

/-- Words 0 to 2 of a row table entry (R160). -/
structure TrickRow where
  hr : Nat
  kind : RowKind
  position : Nat
  token : Nat
  variant : Nat
  embed : Option Nat
  sample : Bool
  deriving DecidableEq, Repr

/-- A CANCEL, PARK or RESUME waiting for the slot's next boundary (R170, R174, R175). -/
structure SlotCommand where
  opcode : Nat
  target : Nat
  hostTag : Nat
  rq : Nat
  /-- of a RESUME: CLASS and word 6 -/
  cls : Nat
  stop0 : Nat
  stop1 : Nat
  deriving DecidableEq, Repr

/-- A trick in flight (R164): its rows, its graph's end, and the reports of the followers. -/
structure TrickInFlight where
  num : Nat
  bucket : Nat
  rows : List TrickRow
  submittedAt : Nat
  /-- status of the graph and the failures of its tasks (status, time), once complete -/
  graphEnd : Option (Nat × List (Nat × Nat))
  /-- member, status of its trick, requests it must end -/
  reports : List (Nat × (Nat × List (Nat × Nat)))
  deriving DecidableEq, Repr

/-- Prefix actions carried in the next plan (R222, R336). -/
inductive PrefixAction where
  | insert (node parent hr depth : Nat) (tokens : List Nat)
  | hit (node hr depth : Nat)
  | evict (node depth : Nat)
  | demote (node extent depth : Nat)
  | promote (node depth : Nat)
  | adopt (node parent depth extent : Nat)
  | toFlash (node depth : Nat)
  deriving DecidableEq, Repr

/-- What the next plan reports of the boundary (R162, R336). -/
structure PlanNews where
  verify : List (Nat × (Nat × Nat))
  ends : List (Nat × Nat)
  /-- HR, kitty index, LOG2_P, hit, park handle -/
  starts : List (Nat × (Nat × (Nat × (Nat × Nat))))
  parks : List (Nat × Nat)
  actions : List PrefixAction
  deriving DecidableEq, Repr

/-- A trick plan (R162, R336), all its parts joined. -/
structure TrickPlan where
  trick : Nat
  slot : Nat
  bucket : Nat
  rows : List TrickRow
  news : PlanNews
  embedBytes : Nat
  deriving DecidableEq, Repr

def PlanNews.empty : PlanNews := ⟨[], [], [], [], []⟩

/-- A trick that the lead plans and submits once the embedding rows of its plan have left on their links (R149): its number, its template, the
plan, and the transfers that carry the rows, by member and TRANSFER_ID. -/
structure HeldTrick where
  num : Nat
  template : List Byte
  plan : TrickPlan
  transfers : List (Nat × Nat)
  deriving DecidableEq, Repr

/-- The serving engine's state for one slot (R156 to R175). -/
structure SlotServing where
  inFlight : Option TrickInFlight
  /-- time of the previous boundary; none before the first -/
  boundaryAt : Option Nat
  averaged : Bool
  /-- decode rows of the trick just completed (R157) -/
  lastDecode : Nat
  /-- consecutive abandoned tricks (R172) -/
  abandonRun : Nat
  /-- admission order of the last request that received a row when rows fell short (R161) -/
  rotateAfter : Option Nat
  commands : List SlotCommand
  news : PlanNews
  /-- end of parkings to report to the lead, on a follower: HR and status -/
  parkReports : List (Nat × Nat)
  imageId : Nat
  imageTag : Nat
  /-- an event of R488 waits for a boundary -/
  event : Bool
  /-- requests a follower names in its next trick report -/
  toEnd : List (Nat × Nat)
  /-- the trick in flight, while its embedding rows are on their way -/
  toSubmit : Option HeldTrick
  /-- class and prefix registers of the partition that have committed at another slot's boundary: the words this slot still has in force -/
  lag : List (Nat × Nat)
  /-- on a follower, the plan whose trick waits for the images of requests that it resumes (R175) -/
  waitingPlan : Option TrickPlan
  deriving DecidableEq, Repr

def SlotServing.empty : SlotServing := ⟨none, none, false, 0, 0, none, [], .empty, [], 0, 0, false, [], none, [], none⟩

/-- The serving engine's state for one partition. -/
structure PartServing where
  held : List HeldReq
  hrs : List HandRecord
  /-- GENERATION of every hand record that was ever allocated -/
  generations : List (Nat × Nat)
  admitted : Nat
  rqTurn : Nat
  scqFlipped : List Nat
  /-- entries held for a full SCQ, oldest first -/
  heldEntries : List (Nat × List Byte)
  /-- entries of a boundary, in the order they were decided: kind, SCQ, bytes; empty between commands -/
  outbox : List (Nat × (Nat × List Byte))
  /-- the slot whose boundary decides prefix actions (R222); none between commands -/
  deciding : Option Nat
  deriving DecidableEq, Repr

def PartServing.empty : PartServing := ⟨[], [], [], 0, 0, [], [], [], none⟩

structure ServingState where
  /-- the serving engine's state by partition -/
  parts : List (Nat × PartServing)
  /-- the serving engine's state by slot -/
  slots : List (Nat × SlotServing)
  /-- descriptor last fetched from an RQ, by partition: its queue and its words -/
  fetched : List (Nat × (Nat × List Byte))
  /-- free blocks of each C-die's KV region: offset in 4 KiB units to order (R187) -/
  stock : List (Nat × List (Nat × Nat))
  /-- page rows allocated -/
  rows : List KvRow
  deriving DecidableEq, Repr

/-! ### Prefix index and Talon -/

/-- States of a node (R221); FREE nodes are not listed. -/
inductive NodeState where
  | resident | demoting | flash | promoting | lostNode
  deriving DecidableEq, Repr

/-- A node of the prefix index (R221). -/
structure PfxNode where
  parent : Option Nat
  state : NodeState
  slot : Nat
  variant : Nat
  depth : Nat
  chain : Option Nat
  hits : Nat
  lastUse : Nat
  flashValid : Bool
  rows : List (Nat × Nat)
  extent : Nat
  tokens : List Nat
  deriving DecidableEq, Repr

/-- A demotion or promotion under way (R228, R229). -/
structure PfxTransfer where
  part : Nat
  extent : Nat
  nodes : List Nat
  /-- rows by C-die: leased (demotion) or newly allocated (promotion) -/
  rows : List (Nat × Nat)
  demotion : Bool
  deriving DecidableEq, Repr

/-- A run of stripe pages within one band (R234), holding the pages of its object from `page` on. -/
structure Fragment where
  band : Nat
  first : Nat
  pages : Nat
  page : Nat
  deriving DecidableEq, Repr

/-- What an extent holds (R231, R242, R244). -/
inductive ExtentKind where
  | prefixes | parked | image (id : Nat)
  deriving DecidableEq, Repr

/-- An extent of Talon (R231, R234): its header fields, its bytes and where they lie. -/
structure Extent where
  name : Nat
  part : Nat
  kind : ExtentKind
  committed : Bool
  /-- its programs were given up by a reset: freed at the next mount (R230) -/
  stale : Bool
  parentExtent : Nat
  imageTag : Nat
  slot : Nat
  variant : Nat
  groupSize : Nat
  member : Nat
  dies : Nat
  log2p : Nat
  format : Nat
  firstDepth : Nat
  layers : Nat
  kvHeads : Nat
  headDim : Nat
  tokens : List Nat
  bytes : Nat
  /-- content, header page first, by byte offset; bytes that are 0 are not listed -/
  body : List Host.Cell
  fragments : List Fragment
  deriving DecidableEq, Repr

inductive ImageState where
  | open | sealed | damaged
  deriving DecidableEq, Repr

/-- A weight image (R242). -/
structure WeightImage where
  id : Nat
  tag : Nat
  part : Nat
  sections : List Nat
  /-- written ranges in units of 16 KiB -/
  written : List Nat
  state : ImageState
  body : List Host.Cell
  fragments : List Fragment
  deriving DecidableEq, Repr

/-- A parked request (R244): the record as at the boundary where parking started. -/
structure ParkedImage where
  handle : Nat
  part : Nat
  complete : Bool
  /-- a codeword of it is lost (R237) -/
  lost : Bool
  hand : HandRecord
  imageTag : Nat
  groupSize : Nat
  member : Nat
  dies : Nat
  layers : Nat
  kvHeads : Nat
  headDim : Nat
  bytes : Nat
  /-- kitty and rows, by byte offset in the image's order -/
  body : List Host.Cell
  fragments : List Fragment
  deriving DecidableEq, Repr

/-- Zones of R233. -/
inductive Zone where
  | system | prefixZone | weights
  deriving DecidableEq, Repr

/-- A band (R232, R236): only bands that differ from a fresh free one are listed. -/
structure Band where
  index : Nat
  erases : Nat
  /-- stripe pages programmed since erase -/
  programmed : Nat
  /-- powered seconds when its blocks were last programmed, by NAND die (R236) -/
  programmedAt : List (Nat × Nat)
  /-- relocation is due within 60 s (R236) -/
  refreshDue : Bool
  /-- retired from its zone (R238) -/
  retired : Bool
  /-- reads since erase of the band's blocks, by NAND die (R236) -/
  reads : List (Nat × Nat)
  /-- blocks that a spare has replaced, by NAND die: the band's erase count at that time (R236, R238) -/
  spared : List (Nat × Nat)
  deriving DecidableEq, Repr

/-- The Talon command being executed (R248). -/
structure TalonCommand where
  words : List Nat
  /-- ring index it was taken from -/
  ringIndex : Nat
  status : Option Nat
  /-- PARK_EXPORT: value of word 4 on completion -/
  word4 : Option Nat
  deriving DecidableEq, Repr

/-- A marker of the system zone (R246): 1 CLEAN or 2 PULLED, and why; the journal's sequence number, TLN_POWERED_S, and the programs that
were given up. -/
structure TalonMarker where
  kind : Nat
  reason : Nat
  journal : Nat
  seconds : Nat
  abandoned : Nat
  deriving DecidableEq, Repr

/-- A record of Talon's journal (R234): its sequence number and its bytes, the CRC-32C last. -/
structure JournalRecord where
  seq : Nat
  bytes : List Byte
  deriving DecidableEq, Repr

structure TalonState where
  /-- extents -/
  extents : List Extent
  /-- weight images -/
  images : List WeightImage
  /-- parked requests -/
  parked : List ParkedImage
  /-- bands that differ from a fresh one -/
  bands : List Band
  /-- open band of the prefix zone -/
  openPrefix : Option Nat
  /-- open band of the weights zone -/
  openWeights : Option Nat
  /-- next serial of each partition (R235) -/
  serials : List (Nat × Nat)
  /-- wear credit of each partition in bytes (R240) -/
  credit : List (Nat × Int)
  /-- bytes charged per partition, newest powered day first, at most 30 -/
  charged : List (Nat × List Nat)
  /-- pages programmed in the weights zone, newest powered day first -/
  weightsCharged : List Nat
  /-- grown bad blocks, newest powered day first -/
  grown : List Nat
  /-- codeword reads, and those needing step 3 or later, newest powered day first -/
  readDays : List (Nat × Nat)
  /-- spares left per NAND die; dies not listed hold 64 -/
  spares : List (Nat × Nat)
  /-- demotions and promotions under way -/
  transfers : List PfxTransfer
  /-- the command being executed -/
  command : Option TalonCommand
  /-- slots being loaded, with their image -/
  loads : List (Nat × Nat)
  /-- marker in the system zone, in two copies -/
  marker : Option TalonMarker
  /-- programs given up since the last marker (R246) -/
  abandoned : Nat
  /-- sequence number of the journal's last record (R234) -/
  journal : Nat
  /-- records since the last checkpoint, oldest first (R234) -/
  records : List JournalRecord
  /-- sequence number of the last record that the latest checkpoint holds (R234) -/
  checkpointed : Nat
  /-- blocks with the maker's bad-block mark have been entered, at the first mount (R238) -/
  mounted : Bool
  /-- Talon has been quiesced -/
  quiesced : Bool
  /-- powered seconds of the running powered day of Talon (R241) -/
  secondsToday : Nat
  /-- commands that still stand at the front of the ring since a partition's reset absorbed those that name it (R400), by partition -/
  absorbed : List (Nat × Nat)
  deriving DecidableEq, Repr

structure PfxState where
  /-- nodes by 2^24 × partition + index -/
  nodes : List (Nat × PfxNode)
  /-- first node of each chain, by 2^24 × partition + bucket -/
  buckets : List (Nat × Nat)
  /-- partitions whose index is disabled (R218) -/
  disabled : List Nat
  /-- partitions in which a run of demotions goes on (R227) -/
  demoting : List Nat
  deriving DecidableEq, Repr

/-! ### Ndoyx -/

/-- A control message not yet acknowledged (R332, R333); `sentAt` is the time of its last transmission, none while it waits
behind 32 others. -/
structure CtlMessage where
  type : Nat
  seq : Nat
  body : List Byte
  retries : Nat
  sentAt : Option Nat
  deriving DecidableEq, Repr

/-- What a partition keeps about one member of its group (R332, R333, R338, R339). -/
structure PeerState where
  member : Nat
  /-- last SEQ sent, last SEQ accepted -/
  txSeq : Nat
  rxSeq : Nat
  unacked : List CtlMessage
  lastHeard : Nat
  creditMiB : Int
  parkFreeMiB : Nat
  /-- TRANSFER_ID of the next data transfer to the member (R335) -/
  transferId : Nat
  deriving DecidableEq, Repr

/-- A received data transfer of R335: its header's fields and its data. -/
structure DataTransfer where
  src : Nat
  kind : Nat
  abort : Bool
  steer : Bool
  op : Nat
  fmt : Nat
  phase : Nat
  trick : Nat
  collId : Nat
  count : Nat
  chunk : Nat
  offset : Nat
  layer : Nat
  slot : Nat
  bytes : List Byte
  /-- the TRANSFER_ID under which it came -/
  id : Nat
  deriving DecidableEq, Repr

/-- A collective instance of a partition (R340 to R343). -/
structure Collective where
  part : Nat
  uid : Nat
  tid : Nat
  core : Nat
  queue : Nat
  trick : Nat
  collId : Nat
  op : CollOp
  fmt : Nat
  peer : Nat
  steer : Bool
  layer : Nat
  slot : Nat
  count : Nat
  src : Nat
  dst : Nat
  issuedAt : Nat
  /-- holds one of the 64 places -/
  placed : Bool
  started : Bool
  /-- its task is in abort form -/
  abort : Bool
  /-- this member's own contribution, per C-die read -/
  own : List (List Byte)
  /-- the chunk that this member reduced, once it has every contribution -/
  reduced : Option (List Byte)
  data : List DataTransfer
  /-- check-value contexts that snoop the descriptor (R418) -/
  snoops : List Nat
  deriving DecidableEq, Repr

/-- A data transfer whose flits are arriving (R335). -/
structure OpenTransfer where
  part : Nat
  src : Nat
  id : Nat
  /-- payloads by index -/
  flits : List (Nat × List Byte)
  last : Option Nat
  deriving DecidableEq, Repr

/-- A control message accepted by a partition and not yet acted on (R333). -/
structure InboxEntry where
  part : Nat
  src : Nat
  type : Nat
  seq : Nat
  body : List Byte
  deriving DecidableEq, Repr

/-- A link's sequence numbers, replay buffer and receiver (R323, R325, R334, R345). -/
structure LinkRun where
  txSeq : Nat
  rxSeq : Nat
  /-- flits kept for replay, oldest first -/
  replay : List (Nat × Flit)
  /-- flits that wait for room in the replay buffer -/
  backlog : List Flit
  /-- bytes of the control message being received -/
  control : List Byte
  /-- when the last FENCED notice went out on this link -/
  noticeAt : Option Nat
  /-- when it began to wait for its peer (R325) -/
  since : Nat
  /-- failed attempts of the training or retraining under way (R325, R327) -/
  tries : Nat
  /-- flits replayed within the last millisecond: when, and how many (R327) -/
  replays : List (Nat × Nat)
  /-- payload bytes of data sent since the peer's up links last changed (R330) -/
  carried : Nat
  /-- flits of a control message that this member forwards, until its LAST flit (R330, R335) -/
  relay : List Flit
  deriving DecidableEq, Repr

def LinkRun.empty : LinkRun := ⟨0, 0, [], [], [], none, 0, 0, [], 0, []⟩

/-- A data transfer that this member forwards (R330): the link of its present 4 KiB unit, and that unit's number. -/
structure RelayRoute where
  part : Nat
  src : Nat
  dst : Nat
  id : Nat
  link : Nat
  unit : Nat
  deriving DecidableEq, Repr

structure NdxState where
  /-- peers by 16 × partition + member -/
  peers : List (Nat × PeerState)
  /-- the links' sequence numbers and replay buffers -/
  links : List (Nat × LinkRun)
  /-- flits that wait for an up link: partition, member at its far end, flit -/
  outbox : List (Nat × (Nat × Flit))
  /-- control messages accepted and not yet acted on -/
  inbox : List InboxEntry
  /-- data transfers whose flits are arriving -/
  opens : List OpenTransfer
  /-- complete data transfers by partition, oldest first -/
  arrived : List (Nat × DataTransfer)
  /-- collective instances -/
  collectives : List Collective
  /-- data held for instances that this member has not yet issued (R335) -/
  early : List (Nat × DataTransfer)
  /-- tasks (graph, TASK_ID) that have issued their collective (R340) -/
  issued : List (Nat × Nat)
  /-- instances ended before they completed: partition, TRICK, COLL_ID (R343) -/
  ended : List (Nat × (Nat × Nat))
  /-- late data dropped: the spec counts it and names no register (R343) -/
  lateDropped : Nat
  /-- embedding rows received for a plan: partition, TRICK, offset, bytes (R149) -/
  embeds : List (Nat × (Nat × (Nat × List Byte)))
  /-- when a partition's last heartbeats went out (R339) -/
  heartbeatAt : List (Nat × Nat)
  /-- data transfers being forwarded (R330) -/
  routes : List RelayRoute
  deriving DecidableEq, Repr

def NdxState.ofReset : NdxState := ⟨[], [], [], [], [], [], [], [], [], [], 0, [], [], []⟩
/-! ### Vision engines -/

/-- Where an edge or reckoner job comes from (R264, R272): a host ring, or a pipeline's frame. -/
inductive JobSource where
  | ring (index : Nat)
  | pipe (part pipe slot : Nat)
  deriving DecidableEq, Repr

/-- A queued job of a pipeline: its descriptor words with relative addresses resolved (R277). -/
structure QueuedJob where
  source : JobSource
  words : List Nat
  deriving DecidableEq, Repr

/-- An edge job in progress (R264, R265): its words with a chained job's SRC_ADDR replaced, output rows in all and written, the numbers read for it at
its start (weights and scales, or MEAN and SCALE), and its status once it has run. -/
structure EdgeRun where
  source : JobSource
  words : List Nat
  rows : Nat
  row : Nat
  weights : List Nat
  scales : List Nat
  status : Option Nat
  deriving DecidableEq, Repr

/-- An edge engine: pipeline jobs in order, the job running with the chained ones that run beside it, and the last job taken of each source, for a
chained one: its DST_ADDR, and whether its result was empty. -/
structure EdgeEngine where
  queue : List QueuedJob
  running : Option EdgeRun
  chained : List EdgeRun
  last : List (JobSource × (Nat × Bool))
  idleSince : Nat
  deriving DecidableEq, Repr

def EdgeEngine.idle : EdgeEngine := ⟨[], none, [], [], 0⟩

/-- A reckoner job that has run and has not ended: what it will write (R271). -/
structure ReckonRun where
  part : Nat
  source : JobSource
  words : List Nat
  status : Nat
  flags : Nat
  candidates : Nat
  kept : Nat
  dropped : Nat
  output : List Byte
  fetchTs : Nat
  deriving DecidableEq, Repr

structure Reckoner where
  running : Option ReckonRun
  idleSince : Nat
  deriving DecidableEq, Repr

/-- Phases of a frame (R276): waiting for its first row, for its last row, running a stage, or skipped. -/
inductive FramePhase where
  | arriving
  | waitingLast
  | stage
  | skipped
  deriving DecidableEq, Repr

/-- A frame of a pipeline (R276). -/
structure Frame where
  part : Nat
  pipe : Nat
  /-- frame slot; a skipped frame has none -/
  slot : Nat
  phase : FramePhase
  number : Nat
  /-- media pipe 8x + n, context, the context's serial, ring slot -/
  media : Nat
  ctx : Nat
  serial : Nat
  ringSlot : Nat
  firstTs : Nat
  rows : Nat
  done : Bool
  luma : Nat
  chroma : Nat
  map : Nat
  pitch : Nat
  /-- MAP_PITCH of its context (R292) -/
  mapPitch : Nat
  width : Nat
  height : Nat
  status : Nat
  concealed : Nat
  stageIndex : Nat
  /-- jobs of the stage not yet DONE, and the first error among its ended jobs -/
  jobsLeft : Nat
  error : Option Nat
  deriving DecidableEq, Repr

/-- A graph entry that the sequencer has put into an SQ and the dealer has not yet accepted or rejected. -/
structure PipeSubmit where
  part : Nat
  q : Nat
  seq : Nat
  pipe : Nat
  slot : Nat
  packetAddr : Nat
  packetBytes : Nat
  /-- the entry is in the ring; else it waits for room -/
  written : Bool
  deriving DecidableEq, Repr

structure VisionState where
  /-- the edge engines -/
  edges : List (Nat × EdgeEngine)
  /-- the reckoners -/
  reckoners : List (Nat × Reckoner)
  /-- pipeline jobs for the reckoners, by partition, oldest first -/
  reckonQueue : List (Nat × QueuedJob)
  /-- partition served last (R272) -/
  served : Nat
  /-- frames, in order of arrival -/
  frames : List Frame
  /-- the sequencer's entries not yet accepted -/
  submits : List PipeSubmit
  deriving DecidableEq, Repr

/-! ### Media pipes -/

/-- A media command (R286) and when it was fetched. -/
structure MediaCmd where
  words : List Nat
  fetchTs : Nat
  deriving DecidableEq, Repr

/-- A slot of a frame ring (R294, R295). -/
structure RingSlot where
  number : Nat
  holds : Nat
  decoding : Bool
  /-- FMT of the picture in it -/
  fmt : Nat
  deriving DecidableEq, Repr

/-- A decode context (R290 to R295). -/
structure DecCtx where
  codec : Nat
  maxRefs : Nat
  depth10 : Bool
  hostHold : Bool
  maxW : Nat
  maxH : Nat
  base : Nat
  slots : List RingSlot
  /-- DECODE_NUMBER of the next picture -/
  next : Nat
  /-- slot of the last correctly decoded picture -/
  lastGood : Option Nat
  /-- an unsupported stream: pictures wait for a header within R283 and a key picture (R284); such a header has come -/
  unsupported : Bool
  renewed : Bool
  /-- access unit being decoded, its bytes up to one that cannot be read, and the status of that one (R300) -/
  unit : Option MediaCmd
  unitBytes : List Byte
  unitMem : Option Nat
  /-- parameter sets and sequence headers (R291, R297) -/
  params : List ParamSet
  /-- AV1 CDF tables that pictures held as references have left, by DECODE_NUMBER (R291) -/
  cdfs : List (Nat × List Nat)
  /-- a wait for a ring slot has been counted -/
  waiting : Bool
  deriving DecidableEq, Repr

/-- Rate control of R286 word 5 and 6. -/
structure RateCfg where
  mode : Nat
  qpInit : Nat
  qpMin : Nat
  qpMax : Nat
  kbps : Nat
  fpsNum : Nat
  fpsDen : Nat
  gop : Nat
  keyPct : Nat
  hardPct : Nat
  deriving DecidableEq, Repr

/-- An encode context (R302 to R308). -/
structure EncCtx where
  codec : Nat
  depth10 : Bool
  width : Nat
  height : Nat
  sliceRows : Nat
  refBase : Nat
  outBase : Nat
  outHost : Bool
  outSize : Nat
  rate : RateCfg
  /-- pictures since the last key picture; none before the first -/
  sinceKey : Option Nat
  lostSlice : Bool
  carry : Nat
  /-- sum and count of the previous picture's row quantisers -/
  lastQp : Option (Nat × Nat)
  /-- bits of the most recent row coded at the maximum quantiser, and of the last row coded (R306) -/
  maxqBits : Option Nat
  lastBits : Nat
  /-- output ring: write offset, OUT_HEAD, bytes not yet consumed -/
  outWrite : Nat
  outHead : Nat
  outUsed : Nat
  /-- the ENCODE at the head of the queue, ready to start -/
  ready : Option MediaCmd
  /-- pictures coded: they decide which of the three pictures at REF_BASE is the reference (R302) -/
  coded : Nat
  /-- AV1 CDF tables (R291) -/
  cdf : List Nat
  deriving DecidableEq, Repr

inductive CtxKind where
  | dec (c : DecCtx)
  | enc (c : EncCtx)
  deriving DecidableEq, Repr

/-- An open context. -/
structure MediaCtx where
  serial : Nat
  kind : CtxKind
  /-- CMD_TAG of a CLOSE that has not completed -/
  closing : Option Nat
  /-- its state as last saved at CTX_BASE (R291) -/
  image : Option (List Byte)
  deriving DecidableEq, Repr

/-- A picture being decoded. -/
structure DecRun where
  ctx : Nat
  tag : Nat
  pts : Nat
  slot : Nat
  info : PicInfo
  last : Bool
  number : Nat
  /-- indices of references that are missing (R299) -/
  missing : List Nat
  /-- ring slot of each reference that is held -/
  refSlots : List (Option Nat)
  /-- an error after which the access unit holds no resynchronisation point has been met (R297) -/
  ended : Bool
  /-- blocks decoded or concealed, and blocks marked, by 1024 × y + x -/
  done : List Nat
  marked : List Nat
  resync : Bool
  /-- some block is concealed -/
  concealed : Bool
  mem : Option Nat
  rows : Nat
  firstTs : Nat
  /-- AV1 CDF tables as they stand (R291) -/
  cdf : List Nat
  deriving DecidableEq, Repr

/-- How a block row is coded (R306). -/
inductive RowMode where
  | normal | maxq | skip
  deriving DecidableEq, Repr

/-- The mode of a skipped block (R306): P_Skip, cu_skip_flag with merge index 0, NEARESTMV from LAST_FRAME with skip set, DC intra prediction
without residual. -/
inductive SkipMode where
  | pSkip | mergeZero | nearestMv | dcIntra
  deriving DecidableEq, Repr

/-- The coding of a row's blocks: a quantiser, or a skip mode. -/
inductive RowCoding where
  | coded (q : Nat)
  | skipped (mode : SkipMode)
  deriving DecidableEq, Repr

/-- A vector that motion search has found for a partition (R304). -/
structure FoundVector where
  part : SearchPart
  vec : Vector2
  deriving DecidableEq, Repr

/-- A picture being encoded. -/
structure EncRun where
  ctx : Nat
  tag : Nat
  pts : Nat
  luma : Nat
  chroma : Nat
  pitch : Nat
  key : Bool
  forced : Bool
  rate : RateCfg
  /-- budget, and the base of which the carry was taken; none under a constant quantiser -/
  budget : Option (Nat × Nat)
  /-- block rows, and rows started -/
  rows : Nat
  row : Nat
  used : Nat
  /-- mode and quantiser of the row last started, and its target as a fraction -/
  mode : RowMode
  q : Nat
  target : Int × Nat
  qSum : Nat
  qCount : Nat
  maxqFrom : Option Nat
  skipFrom : Option Nat
  /-- first block row of the next slice -/
  sliceRow : Nat
  /-- the coding of each row started, and the vectors found -/
  coding : List RowCoding
  vectors : List FoundVector
  /-- a slice that waits for output space -/
  waiting : Option (List Byte)
  tooLarge : Bool
  mem : Option Nat
  deriving DecidableEq, Repr

structure MediaPipe where
  ctxs : List (Nat × MediaCtx)
  queues : List (Nat × List MediaCmd)
  /-- contexts opened so far -/
  serials : Nat
  dec : Option DecRun
  enc : Option EncRun
  /-- context whose state each engine holds (R291) -/
  decLoaded : Option Nat
  encLoaded : Option Nat
  /-- entries held for a full MCQ, oldest first -/
  held : List (List Byte)
  phaseFlipped : Bool
  idleSince : Nat
  deriving DecidableEq, Repr

def MediaPipe.empty : MediaPipe := ⟨[], [], 0, none, none, none, none, [], false, 0⟩

structure MediaState where
  /-- the media pipes -/
  pipes : List (Nat × MediaPipe)
  deriving DecidableEq, Repr

/-! ### The module -/

/-- The whole module. -/
structure State where
  /-- commands waiting, first in first out -/
  pending : List Instr
  fuses : Fuses
  /-- the timebase, in ns (R19) -/
  now : Nat
  /-- draws so far of values that the spec leaves open (the model's own) -/
  freeCtr : Nat
  /-- registers that have left their reset word, by BAR0 offset -/
  regs : List (Nat × Word)
  /-- held RS values: offset to mask and value (R406) -/
  heldRS : List (Nat × (Nat × Nat))
  pcie : PcieState
  mgmt : MgmtState
  ledger : LedgerState
  side : SidebandState
  /-- cores that differ from a fresh one, by physical number -/
  cores : List (Nat × CoreState)
  memory : MemState
  power : PowerState
  dealer : DealerState
  /-- check-value contexts that a task owns: 8 × unit + context to graph and TASK_ID (R420) -/
  cvOwner : List (Nat × (Nat × Nat))
  serving : ServingState
  pfx : PfxState
  talon : TalonState
  ndx : NdxState
  vision : VisionState
  media : MediaState
  update : UpdateState
  deriving DecidableEq, Repr

/-- What a meaning answers. -/
abbrev Out := Host.Outcome State Fault Refusal

/-- The fuses of a DL8-A8X2-S without folds (R2, R485). DESIGN CHOICE: the spec leaves each module's fuses open. -/
def fusesOfReset : Fuses := ⟨true, true, false, 1, Config.vendorId, 1, [], 0, 0, (List.range 57).map (fun i => BitVec.ofNat 8 (Config.identitySecret i))⟩

def PcieState.ofReset : PcieState := ⟨[], [], [], [], [], []⟩
def MgmtState.ofReset : MgmtState := ⟨0, [], 0, [], [], 0, [], [], [], [], false, 0, 0, none⟩
def LedgerState.ofReset : LedgerState := ⟨[], [], [], [], 0, [], [], [], [], [], none, 0, [], [], 0, 0, 0, 0⟩
def SidebandState.ofReset : SidebandState :=
  ⟨[], true, none, 0, 0, 0, true, true, true, false, true, true, false, false, 4800, 1200⟩
def MemState.ofReset : MemState := ⟨[], [], [], [], [], [], [], [], [], [], [], [], [], [], [], []⟩
def PowerState.ofReset : PowerState :=
  ⟨true, false, [], [], [], [], [], [], [], [], [], 0, 0, 0, true, 0, 0, false, (0, 0), false, false, 0, false, none, none, [], [], [], false, [],
    false, none, 0⟩
/-- The NOR as it leaves manufacture (R440): slot A CONFIRMED, slot B EMPTY. -/
def UpdateState.ofReset : UpdateState :=
  ⟨⟨1, 4, 0, 0, Config.factoryMeld, 0, Config.factoryVersion, 0, 0⟩, none, [0], [], [], none, 0, false, 0, 0, [], []⟩
def DealerState.ofReset : DealerState := ⟨[], [], 0, []⟩

/-- The module right after a module-level reset, before bring-up: every register at its reset value, nothing in memory,
both rails present, RESET_N asserted, no command waiting. -/
def State.reset : State where
  pending := []
  fuses := fusesOfReset
  now := 0
  freeCtr := 0
  regs := []
  heldRS := []
  pcie := .ofReset
  mgmt := .ofReset
  ledger := .ofReset
  side := .ofReset
  cores := []
  memory := .ofReset
  power := .ofReset
  dealer := .ofReset
  cvOwner := []
  serving := ⟨[], [], [], [], []⟩
  pfx := ⟨[], [], [], []⟩
  talon := ⟨[], [], [], [], none, none, [], [], [], [], [], [], [], [], none, [], none, 0, 0, [], 0, false, false, 0, []⟩
  ndx := .ofReset
  vision := ⟨[], [], [], 3, [], []⟩
  media := ⟨[]⟩
  update := .ofReset

end Sys2Proof.Machine
end

