-- ==== Sys2Proof/Machine/Status.lean ====
section
/-! DEFINITION. Machine/Status.lean: the status words of every block's code table, in the layout of R12:
block in [15:12], severity in [11:8], code in [7:0]. -/
namespace Sys2Proof.Machine

/-- R116 -/ def St.DEAL_PACKET_FORMAT : Nat := 0x2310
/-- R116 -/ def St.DEAL_PACKET_CRC : Nat := 0x2311
/-- R116 -/ def St.DEAL_SEQ_MISMATCH : Nat := 0x2312
/-- R116 -/ def St.DEAL_GRAPH_CYCLE : Nat := 0x2313
/-- R116 -/ def St.DEAL_DEP_MISMATCH : Nat := 0x2314
/-- R116 -/ def St.DEAL_PLACEMENT_OUTSIDE_PARTITION : Nat := 0x2315
/-- R116 -/ def St.DEAL_NO_PLACEMENT : Nat := 0x2316
/-- R116 -/ def St.DEAL_DECK_EPOCH_AHEAD : Nat := 0x2317
/-- R116 -/ def St.DEAL_DECK_EPOCH_OLD : Nat := 0x2018
/-- R116 -/ def St.DEAL_ADDRESS_FAULT : Nat := 0x2319
/-- R116 -/ def St.DEAL_DESCRIPTOR_ERROR : Nat := 0x231A
/-- R116 -/ def St.DEAL_TASK_TIMEOUT : Nat := 0x231B
/-- R116 -/ def St.DEAL_PREDECESSOR_FAILED : Nat := 0x231C
/-- R116 -/ def St.DEAL_GRAPH_ABORTED : Nat := 0x231D
/-- R116 -/ def St.DEAL_CORE_FOLDED : Nat := 0x231E
/-- R116 -/ def St.DEAL_BAD_ENTRY : Nat := 0x231F
/-- R116 -/ def St.DEAL_BAD_DOORBELL : Nat := 0x2020
/-- R116 -/ def St.DEAL_CORE_FAULT : Nat := 0x2321
/-- R141 -/ def St.MEM_HBM_CORRECTED : Nat := 0xE110
/-- R141 -/ def St.MEM_SRAM_CORRECTED : Nat := 0xE111
/-- R141 -/ def St.MEM_PREDICTIVE_RETIRE : Nat := 0xE112
/-- R141 -/ def St.MEM_SCRUB_UNCORRECTABLE : Nat := 0xE220
/-- R141 -/ def St.MEM_SPARES_EXHAUSTED : Nat := 0xE223
/-- R141 -/ def St.MEM_SRAM_UNCORRECTABLE : Nat := 0xE325
/-- R141 -/ def St.MEM_HBM_CHANNEL_FAILED : Nat := 0xE426
/-- R141 -/ def St.MEM_GLOBAL_ADDRESS_FAULT : Nat := 0xE330
/-- R141 -/ def St.MEM_HOST_ACCESS_FAULT : Nat := 0xE031
/-- R179 -/ def St.SRV_COMPLETED : Nat := 0x3010
/-- R179 -/ def St.SRV_CANCELLED : Nat := 0x3011
/-- R179 -/ def St.SRV_PARKED : Nat := 0x3012
/-- R179 -/ def St.SRV_TOO_LATE : Nat := 0x3013
/-- R179 -/ def St.SRV_UNKNOWN_REQUEST : Nat := 0x3014
/-- R179 -/ def St.SRV_NOT_PARKABLE : Nat := 0x3015
/-- R179 -/ def St.SRV_PARK_NO_SPACE : Nat := 0x3016
/-- R179 -/ def St.SRV_BAD_DOORBELL : Nat := 0x3017
/-- R179 -/ def St.SRV_BAD_REQUEST : Nat := 0x3320
/-- R179 -/ def St.SRV_BAD_VARIANT : Nat := 0x3321
/-- R179 -/ def St.SRV_SLOT_NOT_READY : Nat := 0x3322
/-- R179 -/ def St.SRV_NOT_LEAD : Nat := 0x3323
/-- R179 -/ def St.SRV_DEADLINE_MISSED : Nat := 0x3324
/-- R179 -/ def St.SRV_KV_EXHAUSTED : Nat := 0x3325
/-- R179 -/ def St.SRV_SLOT_FAILED : Nat := 0x3326
/-- R179 -/ def St.SRV_GROUP_LOST : Nat := 0x3327
/-- R179 -/ def St.SRV_RESUME_FAILED : Nat := 0x3328
/-- R179 -/ def St.SRV_SEGMENT_FAILED : Nat := 0x3329
/-- R179 -/ def St.SRV_TRICK_ABANDONED : Nat := 0x3230
/-- R217 -/ def St.KVC_FORMAT_STORED_DEFAULT : Nat := 0x4010
/-- R217 -/ def St.KVC_KITTY_AREA_INVALID : Nat := 0x4220
/-- R217 -/ def St.KVC_FOLLOWER_NO_PAGE : Nat := 0x4321
/-- R217 -/ def St.KVC_PAGE_TABLE_CORRUPT : Nat := 0x4422
/-- R217 -/ def St.KVC_FORMAT_TAG_INVALID : Nat := 0x4323
/-- R249 -/ def St.PFX_WEAR_REFUSED : Nat := 0x5010
/-- R249 -/ def St.PFX_SHARE_FULL : Nat := 0x5011
/-- R249 -/ def St.PFX_FOLLOWER_PREFIX_LOST : Nat := 0x5320
/-- R249 -/ def St.PFX_PFX_AREA_INVALID : Nat := 0x5221
/-- R249 -/ def St.PFX_EXTENT_LOST : Nat := 0x5222
/-- R250 -/ def St.TLN_PULLED_RECOVERED : Nat := 0x6010
/-- R250 -/ def St.TLN_LADDER_CORRECTED : Nat := 0x6111
/-- R250 -/ def St.TLN_BLOCK_RETIRED : Nat := 0x6112
/-- R250 -/ def St.TLN_NO_MARKER_RECOVERED : Nat := 0x6113
/-- R250 -/ def St.TLN_UNCORRECTABLE : Nat := 0x6220
/-- R250 -/ def St.TLN_SPARES_LOW : Nat := 0x6221
/-- R250 -/ def St.TLN_CHANNEL_FAILED : Nat := 0x6222
/-- R250 -/ def St.TLN_IMAGE_READ_FAILED : Nat := 0x6330
/-- R250 -/ def St.TLN_ZONE_FULL : Nat := 0x6331
/-- R250 -/ def St.TLN_BAD_COMMAND : Nat := 0x6332
/-- R250 -/ def St.TLN_IMAGE_STATE : Nat := 0x6333
/-- R250 -/ def St.TLN_SLOT_BUSY : Nat := 0x6334
/-- R250 -/ def St.TLN_PARK_IMAGE_INVALID : Nat := 0x6335
/-- R250 -/ def St.TLN_METADATA_LOST : Nat := 0x6540
/-- R280 -/ def St.VIS_EMPTY_OUTPUT : Nat := 0x7010
/-- R280 -/ def St.VIS_RECKONER_FALLBACK : Nat := 0x7011
/-- R280 -/ def St.VIS_RESULT_LATE : Nat := 0x7012
/-- R280 -/ def St.VIS_BAD_DOORBELL : Nat := 0x7013
/-- R280 -/ def St.VIS_EDGE_FAILED : Nat := 0x7220
/-- R280 -/ def St.VIS_RECKONER_FAILED : Nat := 0x7221
/-- R280 -/ def St.VIS_BAD_JOB : Nat := 0x7330
/-- R280 -/ def St.VIS_FRAME_SKIPPED : Nat := 0x7331
/-- R280 -/ def St.VIS_HOST_FAILED : Nat := 0x7332
/-- R280 -/ def St.VIS_TAG_POST_REFUSED : Nat := 0x7333
/-- R310 -/ def St.MED_RATE_OVERSHOOT : Nat := 0x8010
/-- R310 -/ def St.MED_BAD_DOORBELL : Nat := 0x8011
/-- R310 -/ def St.MED_CONCEALED : Nat := 0x8220
/-- R310 -/ def St.MED_MISSING_REF : Nat := 0x8221
/-- R310 -/ def St.MED_PIPE_FAILED : Nat := 0x8222
/-- R310 -/ def St.MED_BAD_COMMAND : Nat := 0x8330
/-- R310 -/ def St.MED_UNSUPPORTED : Nat := 0x8331
/-- R310 -/ def St.MED_CTX_STATE : Nat := 0x8332
/-- R310 -/ def St.MED_CTX_CLOSED : Nat := 0x8333
/-- R310 -/ def St.MED_SLICE_TOO_LARGE : Nat := 0x8334
/-- R348 -/ def St.PCI_FLR_COMPLETED : Nat := 0xA010
/-- R348 -/ def St.PCI_POISONED_WRITE : Nat := 0xA011
/-- R348 -/ def St.PCI_PCIE_DEGRADED : Nat := 0xA220
/-- R348 -/ def St.PCI_PCIE_LINK_DOWN : Nat := 0xA221
/-- R348 -/ def St.PCI_RING_FETCH_FAILED : Nat := 0xA222
/-- R348 -/ def St.PCI_HOST_DMA_FAILED : Nat := 0xA330
/-- R349 -/ def St.NDX_STALE_EPOCH_DROPPED : Nat := 0x9010
/-- R349 -/ def St.NDX_CTRL_RETRANSMIT : Nat := 0x9111
/-- R349 -/ def St.NDX_LINK_NARROW : Nat := 0x9220
/-- R349 -/ def St.NDX_LINK_DOWN : Nat := 0x9221
/-- R349 -/ def St.NDX_CTRL_LOST : Nat := 0x9222
/-- R349 -/ def St.NDX_COLL_ABORTED : Nat := 0x9330
/-- R349 -/ def St.NDX_COLL_TIMEOUT : Nat := 0x9331
/-- R349 -/ def St.NDX_COLL_MISMATCH : Nat := 0x9332
/-- R349 -/ def St.NDX_MEMBER_FENCED : Nat := 0x9333
/-- R349 -/ def St.NDX_GROUP_NOT_ACTIVE : Nat := 0x9334
/-- R349 -/ def St.NDX_FENCED : Nat := 0x9440
/-- R349 -/ def St.NDX_DEGRADED_TOPOLOGY : Nat := 0x9441
/-- R349 -/ def St.NDX_TOPOLOGY_INVALID : Nat := 0x9442
/-- R374 -/ def St.PWR_CAP_CHANGED : Nat := 0x1010
/-- R374 -/ def St.PWR_CLAMP_APPLIED : Nat := 0x1011
/-- R374 -/ def St.PWR_CLAMP_RELEASED : Nat := 0x1012
/-- R374 -/ def St.PWR_HBM_HOT : Nat := 0x1013
/-- R374 -/ def St.PWR_HOLDUP_HOT : Nat := 0x1014
/-- R374 -/ def St.PWR_CAP_LAG : Nat := 0x1220
/-- R374 -/ def St.PWR_ANTE_SHORT : Nat := 0x1221
/-- R374 -/ def St.PWR_THERMAL_THROTTLE : Nat := 0x1222
/-- R374 -/ def St.PWR_POWER_UP_FAILED : Nat := 0x1223
/-- R374 -/ def St.PWR_BAD_POWER_MESSAGE : Nat := 0x1330
/-- R374 -/ def St.PWR_THERMAL_TRIP : Nat := 0x1550
/-- R374 -/ def St.PWR_RAIL_FAULT : Nat := 0x1551
/-- R410 -/ def St.MGT_MODULE_READY : Nat := 0x0010
/-- R410 -/ def St.MGT_CORES_BELOW_GUARANTEE : Nat := 0x0220
/-- R410 -/ def St.MGT_DIE_EXCLUDED : Nat := 0x0221
/-- R410 -/ def St.MGT_ROUTE_ALTERNATE : Nat := 0x0222
/-- R410 -/ def St.MGT_CONFIG_READ_FAILED : Nat := 0x0550
/-- R410 -/ def St.MGT_CONFIG_CRC : Nat := 0x0551
/-- R410 -/ def St.MGT_CONFIG_RECORD_INVALID : Nat := 0x0552
/-- R410 -/ def St.MGT_PARTITION_MAP_INVALID : Nat := 0x0553
/-- R410 -/ def St.MGT_KV_RECORD_INVALID : Nat := 0x0554
/-- R410 -/ def St.MGT_NO_WORKING_DIE : Nat := 0x0555
/-- R410 -/ def St.MGT_TRANSIT_FAILED : Nat := 0x0556
/-- R410 -/ def St.MGT_STAGE_TIMEOUT : Nat := 0x0557
/-- R411 -/ def St.RST_RESET_DONE : Nat := 0xF010
/-- R411 -/ def St.RST_DRAIN_TIMED_OUT : Nat := 0xF011
/-- R411 -/ def St.RST_FOLDED_CORE : Nat := 0xF220
/-- R411 -/ def St.RST_FOLDED_CLUSTER : Nat := 0xF221
/-- R411 -/ def St.RST_FOLDED_LINK : Nat := 0xF222
/-- R411 -/ def St.RST_RESET_ABSORBED : Nat := 0xF330
/-- R411 -/ def St.RST_RESET_BUSY : Nat := 0xF331
/-- R411 -/ def St.RST_RESET_SCOPE_INVALID : Nat := 0xF332
/-- R411 -/ def St.RST_STAGED_RECORD_INVALID : Nat := 0xF333
/-- R411 -/ def St.RST_BAD_RESET_COMMAND : Nat := 0xF334
/-- R411 -/ def St.RST_PARTITION_NOT_STARTED : Nat := 0xF440
/-- R437 -/ def St.CVU_CVU_ATTACH_REFUSED : Nat := 0xB010
/-- R437 -/ def St.CVU_CVU_FAILED : Nat := 0xB220
/-- R438 -/ def St.HLT_KAT_TRANSIENT : Nat := 0xC110
/-- R438 -/ def St.HLT_ALERT_RAISED : Nat := 0xC011
/-- R438 -/ def St.HLT_LEDGER_UNAVAILABLE : Nat := 0xC012
/-- R438 -/ def St.HLT_KAT_FOLD : Nat := 0xC220
/-- R438 -/ def St.HLT_HOLDUP_LOW : Nat := 0xC221
/-- R438 -/ def St.HLT_WEAR_ALERT : Nat := 0xC222
/-- R438 -/ def St.HLT_FORECAST_ALERT : Nat := 0xC223
/-- R438 -/ def St.HLT_LEDGER_VOLATILE : Nat := 0xC224
/-- R461 -/ def St.UPD_PIECE_DUPLICATE : Nat := 0xD010
/-- R461 -/ def St.UPD_SHOWDOWN_PASSED : Nat := 0xD011
/-- R461 -/ def St.UPD_STAGING_RESUMED : Nat := 0xD012
/-- R461 -/ def St.UPD_FELL_BACK : Nat := 0xD220
/-- R461 -/ def St.UPD_SLOT_CORRUPT : Nat := 0xD221
/-- R461 -/ def St.UPD_PIECE_CRC : Nat := 0xD330
/-- R461 -/ def St.UPD_PIECE_INVALID : Nat := 0xD331
/-- R461 -/ def St.UPD_NOT_STAGING : Nat := 0xD332
/-- R461 -/ def St.UPD_SLOT_BUSY : Nat := 0xD333
/-- R461 -/ def St.UPD_REFUSED_MOTION : Nat := 0xD334
/-- R461 -/ def St.UPD_REFUSED_POWER : Nat := 0xD335
/-- R461 -/ def St.UPD_REFUSED_OWNER_LOCK : Nat := 0xD336
/-- R461 -/ def St.UPD_STAGING_INCOMPLETE : Nat := 0xD337
/-- R461 -/ def St.UPD_SIGNATURE_INVALID : Nat := 0xD338
/-- R461 -/ def St.UPD_DIGEST_MISMATCH : Nat := 0xD339
/-- R461 -/ def St.UPD_ROLLBACK_REFUSED : Nat := 0xD33A
/-- R461 -/ def St.UPD_INCOMPATIBLE : Nat := 0xD33B
/-- R461 -/ def St.UPD_ACTIVATION_CANCELLED : Nat := 0xD33C
/-- R461 -/ def St.UPD_UPDATE_BUSY : Nat := 0xD33D
/-- R461 -/ def St.UPD_CONFIRM_MISMATCH : Nat := 0xD33E
/-- R461 -/ def St.UPD_NO_BOOTABLE_SLOT : Nat := 0xD550
/-- R478 -/ def St.MGT_BAD_SIDEBAND_MESSAGE : Nat := 0x0330
/-- R478 -/ def St.MGT_SIDEBAND_BUSY : Nat := 0x0031

/-- WRITE_WHILE_RUNNING of block b (R14, R407). -/
def stWriteWhileRunning (b : Nat) : Nat := b * 0x1000 + 0x01

/-- Originating block of a status word (R12). -/
def stBlock (st : Nat) : Nat := st / 0x1000 % 16
/-- Severity of a status word (R12). -/
def stSeverity (st : Nat) : Nat := st / 0x100 % 16
/-- Code of a status word (R12). -/
def stCode (st : Nat) : Nat := st % 0x100

/-- R131: HBM_UNCORRECTABLE, its severity by reader. -/
def stHbmUncorrectable (sev : Nat) : Nat := 0xE021 + 0x100 * sev
/-- R133: LOST_WORD_READ, its severity by reader. -/
def stLostWord (sev : Nat) : Nat := 0xE022 + 0x100 * sev
/-- R136: RETIRED_PAGE_ACCESS, its severity by reader. -/
def stRetiredPage (sev : Nat) : Nat := 0xE024 + 0x100 * sev

end Sys2Proof.Machine
end

