-- ==== Sys2Proof/Machine/Ops.lean ====
section
/-! DEFINITION. Machine/Ops.lean: the named operations over the register file, host memory, messages, status words, the
health ledger and the scopes that a fatal status word stops. -/
namespace Sys2Proof.Machine

/-! ### Register file -/

/-- Value of the register at a BAR0 offset: what was last put there, else its reset word. -/
def State.rd (s : State) (off : Nat) : Word := (mapGet off s.regs).getD (resetWord s.fuses off)
/-- Same, as a number. -/
def State.rdN (s : State) (off : Nat) : Nat := (s.rd off).toNat
/-- A field of a register. -/
def State.rdF (s : State) (off : Nat) (f : BitField) : Nat := getField f (s.rd off)
/-- A one-bit field as a truth value. -/
def State.rdB (s : State) (off : Nat) (f : BitField) : Bool := s.rdF off f == 1

def State.wr (off : Nat) (v : Word) (s : State) : State := { s with regs := mapSet off v s.regs }
def State.wrN (off : Nat) (v : Nat) (s : State) : State := s.wr off (BitVec.ofNat 32 v)
def State.wrF (off : Nat) (f : BitField) (v : Nat) (s : State) : State := s.wr off (putField f v (s.rd off))

/-- A 64-bit value in two registers, low word first (R8). -/
def State.rd64 (s : State) (off : Nat) : Nat := s.rdN off + s.rdN (off + 4) * 2 ^ 32
def State.wr64 (off : Nat) (v : Nat) (s : State) : State := (s.wrN off (v % 2 ^ 32)).wrN (off + 4) (v / 2 ^ 32 % 2 ^ 32)

/-- A counter that wraps at 2^32. -/
def State.count (off : Nat) (n : Nat := 1) (s : State) : State := s.wrN off ((s.rdN off + n) % 2 ^ 32)
/-- A counter that stops at a limit. -/
def State.countSat (off limit : Nat) (n : Nat := 1) (s : State) : State := s.wrN off (satAdd limit (s.rdN off) n)
/-- A counter in a field that stops at its largest value. -/
def State.countF (off : Nat) (f : BitField) (s : State) : State :=
  s.wrF off f (satAdd (2 ^ (f.hi + 1 - f.lo) - 1) (s.rdF off f) 1)

/-- Return every register of a range to its reset word and drop its held RS values. -/
def State.resetRegs (lo n : Nat) (s : State) : State :=
  { s with
    regs := mapDrop (fun k => decide (lo ≤ k ∧ k < lo + n)) s.regs
    heldRS := mapDrop (fun k => decide (lo ≤ k ∧ k < lo + n)) s.heldRS }

/-- Commit the held RS values of the registers that a test selects (R406). -/
def State.commitRS (p : Nat → Bool) (s : State) : State :=
  { s with
    regs := s.heldRS.foldl (fun m e => if p e.1 then
        mapSet e.1 (BitVec.ofNat 32 ((((mapGet e.1 m).getD (resetWord s.fuses e.1)).toNat &&& (0xFFFFFFFF ^^^ e.2.1)) ||| (e.2.2 &&& e.2.1))) m
      else m) s.regs
    heldRS := mapDrop p s.heldRS }

/-- Is an offset within a window? -/
def inRange (lo n : Nat) (k : Nat) : Bool := decide (lo ≤ k ∧ k < lo + n)

/-- Apply a function over a list of indices, in order. -/
def State.overList {α : Type} (l : List α) (f : α → State → State) (s : State) : State := l.foldl (fun t a => f a t) s

/-- One more draw of a value that the spec leaves open. -/
def State.drawn (s : State) : State := { s with freeCtr := s.freeCtr + 1 }

/-! ### Module and partitions -/

/-- MGT_STATE STATE reads READY and no module-fatal status word has stopped the module (R15, R377). -/
def State.ready (s : State) : Bool := s.rdF Reg.MGT_STATE Fld.MGT_STATE_STATE == 1 && s.mgmt.fatal.isNone

/-- The state of PART_STATE. -/
def State.partState (s : State) (p : Nat) : Nat := s.rdF (Reg.PART_STATE p) Fld.PART_STATE_STATE

/-- C-dies of a partition (R29, R31). -/
def State.partDies (s : State) (p : Nat) : List Nat :=
  (List.range 4).filter (fun d => bitOf (s.rdF (Reg.PART_STATE p) Fld.PART_STATE_DIES) d)

/-- The partition that owns a C-die. -/
def State.dieOwner (s : State) (d : Nat) : Option Nat := (List.range 4).find? (fun p => (s.partDies p).contains d)

/-- Owner of a media pipe (R32). -/
def State.pipeOwner (s : State) (m : Nat) : Option Nat :=
  if decide (m < s.fuses.pipeCount) && s.rdB (Reg.PIPE_INFO m) Fld.PIPE_INFO_OWNED then
    some (s.rdF (Reg.PIPE_INFO m) Fld.PIPE_INFO_OWNER)
  else none

/-- The partition exists in the current map (R312). -/
def State.partExists (s : State) (p : Nat) : Bool := decide (p < 4) && !(s.partDies p).isEmpty

/-- A partition does work: the module runs, and it is RUNNING or DRAINING (R15, R399). -/
def State.partWorks (s : State) (p : Nat) : Bool :=
  s.ready && decide (p < 4) && (s.partState p == 1 || s.partState p == 2)

/-- A partition takes new work: RUNNING and not draining (R399). -/
def State.partRuns (s : State) (p : Nat) : Bool := s.ready && decide (p < 4) && s.partState p == 1

/-- C-die of a physical core (R17). -/
def coreDie (n : Nat) : Nat := n / 384
/-- Cluster number 24d + c of a physical core (R17). -/
def coreCluster (n : Nat) : Nat := n / 16

/-- CORE_MAP bit of a core (R392). -/
def State.coreWorking (s : State) (n : Nat) : Bool := decide (n < 1536) && bitOf (s.rdN (Reg.CORE_MAP (n / 32))) (n % 32)
/-- A core or cluster reset that drains or runs takes no new work on the core (R399). -/
def State.coreResetting (s : State) (n : Nat) : Bool :=
  s.mgmt.jobs.any (fun j => (j.scope == .core && j.target == n) || (j.scope == .cluster && j.target == coreCluster n))
/-- CLUSTER_MAP bit of a cluster (R392). -/
def State.clusterWorking (s : State) (c : Nat) : Bool := decide (c < 96) && bitOf (s.rdN (Reg.CLUSTER_MAP (c / 32))) (c % 32)

/-- Set or clear one bit of a register. -/
def State.putBit (off i : Nat) (b : Bool) (s : State) : State := s.wr off (putField ⟨i, i⟩ (boolNat b) (s.rd off))

/-! ### Host memory, MSI-X and messages -/

/-- Overwrite bytes of a list of cells; a byte equal to what an unlisted address reads as leaves the list. -/
def cellsPut (dflt : Byte) (m : List Host.Cell) (a : Nat) (b : Byte) : List Host.Cell :=
  if b = dflt then mapDel a m else mapSet a b m

def cellsGet (dflt : Byte) (m : List Host.Cell) (a : Nat) : Byte := (mapGet a m).getD dflt

def cellsWrite (dflt : Byte) (m : List Host.Cell) (a : Nat) : List Byte → List Host.Cell
  | [] => m
  | b :: t => cellsWrite dflt (cellsPut dflt m a b) (a + 1) t

def cellsRead (dflt : Byte) (m : List Host.Cell) (a n : Nat) : List Byte :=
  (List.range n).map (fun i => cellsGet dflt m (a + i))

/-- Drop every cell of a range: it reads as unlisted afterwards. -/
def cellsClear (m : List Host.Cell) (a n : Nat) : List Host.Cell := mapDrop (inRange a n) m

/-- The canonical form of a memory: addresses strictly rising, no cell equal to what an unlisted address reads as. -/
def cellsWf (dflt : Byte) : List Host.Cell → Bool
  | [] => true
  | [(_, b)] => b != dflt
  | (a, b) :: (a', b') :: t => b != dflt && decide (a < a') && cellsWf dflt ((a', b') :: t)

/-- Bus Master Enable of a function (R319). -/
def State.busMaster (s : State) (fn : Nat) : Bool := s.pcie.busMaster.contains fn

/-- PCI_LINK shows a trained link (R311). -/
def State.pcieUp (s : State) : Bool := s.rdF Reg.PCI_LINK Fld.PCI_LINK_SPEED != 0

def State.emit (m : Sent) (s : State) : State := { s with pcie := { s.pcie with sent := m :: s.pcie.sent } }

/-- A write to host memory under a function's requester ID: at once while Bus Master Enable is 1, else it waits (R319). -/
def State.hostWrite (fn addr : Nat) (bytes : List Byte) (s : State) : State :=
  if s.busMaster fn then { s with pcie := { s.pcie with hostMem := cellsWrite 0 s.pcie.hostMem addr bytes } }
  else { s with pcie := { s.pcie with waiting := s.pcie.waiting ++ [⟨fn, addr, bytes⟩] } }

def State.hostRead (s : State) (addr n : Nat) : List Byte := cellsRead 0 s.pcie.hostMem addr n

/-- A word of a function's MSI-X table; Vector Control resets with its mask bit set (R318). -/
def State.msixWord (s : State) (fn v w : Nat) : Nat :=
  (mapGet (4096 * fn + 16 * v + 4 * w) s.pcie.msix).getD (if w = 3 then 1 else 0)

def State.msixMasked (s : State) (fn v : Nat) : Bool := s.msixWord fn v 3 % 2 == 1

/-- A message falls due (R318): lost while the link is down, pending while masked or while Bus Master Enable is 0. -/
def State.msix (fn v : Nat) (s : State) : State :=
  if !s.pcieUp then s
  else if s.msixMasked fn v || !s.busMaster fn then
    { s with pcie := { s.pcie with pending := setInsert (256 * fn + v) s.pcie.pending } }
  else s.emit (.msix fn v)

/-! ### Alerts, the ledger and status words -/

/-- ALERT_N follows HLT_ALERT (R435). -/
def State.driveAlert (s : State) : State :=
  { s with side := { s.side with alertAsserted := s.rdN Reg.HLT_ALERT != 0 } }

/-- STATUS of a stage report: the stage's most severe status word, the first of equal severity (R377). -/
def State.noteStage (st : Nat) (s : State) : State :=
  let w := s.mgmt.stageStatus
  if w = 0 ∨ stSeverity w < stSeverity st then { s with mgmt := { s.mgmt with stageStatus := st } } else s

/-- Capture of a status word in its block's header registers (R39). OVERFLOW is cleared by a write of 1 alone, so a capture leaves it as it stands. -/
def State.capture (st : Nat) (s : State) : State :=
  let b := stBlock st * 0x100000
  let errOff := b + 4
  let w := s.rdN errOff
  let s := s.countSat (b + 8) 0xFFFFFFFF
  let s := s.noteStage st
  if !bitOf w 16 then s.wrN errOff (st % 2 ^ 16 + 2 ^ 16 + w / 2 ^ 17 % 2 * 2 ^ 17)
  else if stSeverity (w % 2 ^ 16) ≤ stSeverity st then s.wrN errOff (st % 2 ^ 16 + 2 ^ 16 + 2 ^ 17)
  else s.wrN errOff (w % 2 ^ 17 + 2 ^ 17)

/-- Set an alert bit (R434, R435): on a change from 0 to 1 it is counted, ALERT_RAISED is produced and HLT_VECTOR is sent. -/
def State.setAlert (i : Nat) (s : State) : State :=
  if bitOf (s.rdN Reg.HLT_ALERT) i then s
  else
    let s := (s.putBit Reg.HLT_ALERT i true).driveAlert
    let s := (s.count (Reg.HLT_COUNTER 3)).capture St.HLT_ALERT_RAISED
    if s.rdB Reg.HLT_STATE Fld.HLT_STATE_HLT_IRQ_EN then s.msix 0 (s.rdF Reg.HLT_STATE Fld.HLT_STATE_HLT_VECTOR) else s

/-- A live counter of the ledger (R427). -/
def State.ledgerGet (s : State) (part idx : Nat) : Nat := mapGetD 0 (16 * part + idx) s.ledger.counters
def State.ledgerPut (part idx v : Nat) (s : State) : State :=
  { s with ledger := { s.ledger with counters := mapSet (16 * part + idx) (v % 2 ^ 64) s.ledger.counters } }
/-- Counters of the ledger stop at 2^64 - 1 (R427). -/
def State.ledgerAdd (part idx : Nat) (n : Nat := 1) (s : State) : State :=
  s.ledgerPut part idx (satAdd (2 ^ 64 - 1) (s.ledgerGet part idx) n)
def State.ledgerMax (part idx v : Nat) (s : State) : State := s.ledgerPut part idx (max (s.ledgerGet part idx) v)

/-- The management cluster runs while either rail is present (R350). -/
def State.mgmtRuns (s : State) : Bool := s.side.bus48 || s.side.aux12

/-- Some powered hours have passed since a time: by the management cluster's clock, which counts while it is powered. -/
def State.hoursSince (s : State) (at_ hours : Nat) : Bool := decide (at_ + hours * 3600000000000 ≤ s.now)

/-- Powered seconds of the Talon clock (R240). -/
def State.poweredS (s : State) : Nat := s.rd64 Reg.TLN_POWERED_S_LO

/-- Drop the oldest record that is not permanent while the history exceeds its capacity (R428). -/
def trimHistory (h : List LedgerRecord) : List LedgerRecord :=
  if h.length ≤ Config.historyCapacity then h
  else h.eraseP (fun r => !r.permanent)

/-- Permanent records that the history holds at most (R428). -/
def maxPermanent : Nat := 262144

/-- A record enters the history. One more permanent record than it holds finds no place. -/
def putHistory (h : List LedgerRecord) (r : LedgerRecord) : List LedgerRecord :=
  if r.permanent && decide (maxPermanent ≤ (h.filter (fun x => x.permanent)).length) then h else trimHistory (h ++ [r])

/-- Write a history record (R428, R429); while the ledger is not persistent it is kept in management memory (R426). -/
def State.ledgerRecord (part status kind value : Nat) (permanent : Bool) (s : State) : State :=
  let r : LedgerRecord := ⟨s.poweredS, part, status, kind, s.ledger.nextSeq, value, s.rdN Reg.MGT_BRINGUPS, permanent⟩
  let s := s.count (Reg.HLT_COUNTER 4)
  let l : LedgerState := { s.ledger with nextSeq := s.ledger.nextSeq + 1 }
  if s.rdF Reg.HLT_STATE Fld.HLT_STATE_LEDGER == 0 then { s with ledger := { l with history := putHistory l.history r } }
  else if l.unwritten.length < 4096 then { s with ledger := { l with unwritten := l.unwritten ++ [r] } }
  else { s with ledger := l }

/-- The event record of a status word of severity 0x2 or above, at most 16 per second per block (R428). -/
def State.ledgerEvent (part st : Nat) (s : State) : State :=
  let b := stBlock st
  let sec := s.now / 1000000000
  let (sec0, n) := mapGetD (0, 0) b s.ledger.rate
  let n := if sec0 = sec then n else 0
  if 16 ≤ n then s.count (Reg.HLT_COUNTER 5)
  else ({ s with ledger := { s.ledger with rate := mapSet b (sec, n + 1) s.ledger.rate } }).ledgerRecord part st 1 0 false

/-- A block produces a status word (R39, R318, R428, R434), about a part of R427. -/
def State.postAt (part st : Nat) (s : State) : State :=
  if stCode st = 0 then s
  else
    let s := s.capture st
    let s := if 2 ≤ stSeverity st then s.ledgerEvent part st else s
    let s := if s.rdF Reg.HLT_CFG Fld.HLT_CFG_ALERT_SEV ≤ stSeverity st then s.setAlert 0 else s
    if (stBlock st = 9 ∨ stBlock st = 10) ∧ 2 ≤ stSeverity st ∧ s.rdB Reg.PCI_CFG Fld.PCI_CFG_EVENT_EN then
      s.msix 0 (s.rdF Reg.PCI_CFG Fld.PCI_CFG_EVENT_VECTOR)
    else s

/-- A status word that names no part beyond the module. -/
def State.post (st : Nat) (s : State) : State := s.postAt 0 st

/-! ### The window budgets (R360, R365) -/

def State.clampInForce (s : State) : Bool := s.rdB Reg.PWR_STATE Fld.PWR_STATE_CLAMP
def State.capLag (s : State) : Bool := s.rdB Reg.PWR_STATE Fld.PWR_STATE_CAP_LAG
def State.effCap (s : State) : Nat := s.rdF Reg.PWR_CAP_EFF Fld.PWR_CAP_EFF_EFF_CAP_W

/-- P_clamp = EFF_CAP_W × CLAMP_PCT ÷ 100 (R365), in hundredths of a watt. -/
def State.clampLevel (s : State) : Nat := s.effCap * s.rdF Reg.PWR_CAP_EFF Fld.PWR_CAP_EFF_CLAMP_PCT

/-- The power, in hundredths of a watt, that caps the budget: P_clamp from a clamp until the window boundary after its release
(R360, R365). -/
def State.budgetCap (s : State) : Nat := if s.clampInForce && !s.power.clampRising then s.clampLevel else s.effCap * 100

def State.partRunningBit (s : State) (p : Nat) : Bool := bitOf (s.rdF Reg.DEAL_STATE Fld.DEAL_STATE_PART_RUNNING) p

/-- SHARE_p (R360). -/
def State.shareOf (s : State) (p : Nat) : Nat := bitsAt (s.rdN Reg.PWR_SHARE) (8 * p) 8

/-- The budgets of R360, in nJ. -/
def State.recomputeBudgets (s : State) : State :=
  let fixed := s.rdN Reg.PWR_FIXED
  let b := s.budgetCap * 2500 - fixed
  let run := (List.range 4).filter s.partRunningBit
  let total := (run.map s.shareOf).sum
  s.overList (List.range 4) (fun p t =>
    t.wrN (Reg.WINDOW_BUDGET p)
      (if !run.contains p then 0
       else min 0xFFFFFFFF (if total = 0 then b / run.length else b * s.shareOf p / total)))

/-- A partition's PART_RUNNING bit, each change of which sets the budgets anew (R360). -/
def State.setRunning (p : Nat) (b : Bool) (s : State) : State := (s.putBit Reg.DEAL_STATE (4 + p) b).recomputeBudgets

/-- A severity 0x4 status word stops its partition until a partition-level reset (R15). -/
def State.stopPart (p : Nat) (s : State) : State :=
  if s.partState p = 1 ∨ s.partState p = 2 then
    (s.wrF (Reg.PART_STATE p) Fld.PART_STATE_STATE 4).setRunning p false
  else s

def State.postPartFatal (p st : Nat) (s : State) : State := (s.post st).stopPart p

/-- A severity 0x5 status word about a part stops the module until a module-level reset (R15, R377). -/
def State.postFatalAt (part st : Nat) (s : State) : State :=
  let s := (s.postAt part st).ledgerAdd 0 6
  let s := { s with mgmt := { s.mgmt with fatal := some st } }
  (s.wrF Reg.MGT_STATE Fld.MGT_STATE_STATE 2).wrF Reg.MGT_STATE Fld.MGT_STATE_HALT_STATUS st

def State.postFatal (st : Nat) (s : State) : State := s.postFatalAt 0 st

/-! ### Links (R334) -/

def State.linkRun (s : State) (l : Nat) : LinkRun := mapGetD .empty l s.ndx.links
def State.putLink (l : Nat) (x : LinkRun) (s : State) : State := { s with ndx := { s.ndx with links := mapSet l x s.ndx.links } }

end Sys2Proof.Machine
end

