-- ==== Sys2Proof/Machine/MemoryOps.lean ====
section
/-! DEFINITION. Machine/MemoryOps.lean: global space (R118), the address checks of R119 and R121, the interleave of R122, error
correction and lost words (R129 to R133), retirement (R134 to R138), and the reads and writes that every engine makes. -/
namespace Sys2Proof.Machine

/-! ### Where an address lands -/

/-- Size of a C-die's HBM region in global space: 72 GiB (R118). -/
def hbmRegion : Nat := 0x1200000000
def storeBase : Nat := 0x10000000000
def poolBase : Nat := 0x10080000000
def storeSize : Nat := 0x40000
def poolSize : Nat := 0x200000
/-- An HBM page is 2 MiB (R121). -/
def pageSize : Nat := 0x200000

/-- Regions of R118. -/
inductive Region where
  | hbm (die off : Nat)
  | store (core off : Nat)
  | pool (cluster off : Nat)
  | nowhere
  deriving DecidableEq, Repr

def regionOf (a : Nat) : Region :=
  if a < 4 * hbmRegion then .hbm (a / hbmRegion) (a % hbmRegion)
  else if storeBase ≤ a ∧ a < storeBase + 1536 * storeSize then .store ((a - storeBase) / storeSize) ((a - storeBase) % storeSize)
  else if poolBase ≤ a ∧ a < poolBase + 96 * poolSize then .pool ((a - poolBase) / poolSize) ((a - poolBase) % poolSize)
  else .nowhere

/-- Global address of a core store offset. -/
def storeAddr (core off : Nat) : Nat := storeBase + core * storeSize + off
def poolAddr (cluster off : Nat) : Nat := poolBase + cluster * poolSize + off

/-- HBM fitted to a C-die: 72 or 36 GiB (R121). -/
def State.fitted (s : State) : Nat := if s.fuses.a8 then 0x1200000000 else 0x900000000
def State.reserveBytes (s : State) (d : Nat) : Nat := s.rdF (Reg.MEM_LAYOUT d) Fld.MEM_LAYOUT_RESERVE_GIB * 0x40000000
/-- End of a die's task space: F - S - V (R121). -/
def State.taskEnd (s : State) (d : Nat) : Nat := s.fitted - 64 * pageSize - s.reserveBytes d
/-- First byte of a die's controller reserve (R121). -/
def State.reserveStart (s : State) (d : Nat) : Nat := s.fitted - s.reserveBytes d

/-- n bytes from a lie in the task space of one C-die: that die. -/
def State.taskSpaceDie (s : State) (a n : Nat) : Option Nat :=
  match regionOf a with
  | .hbm d off => if off + n ≤ s.taskEnd d then some d else none
  | _ => none

/-- n bytes from a lie in the task space of a partition's C-dies (R121, R126). -/
def State.inTaskSpace (s : State) (p a n : Nat) : Bool :=
  match s.taskSpaceDie a n with
  | some d => (s.partDies p).contains d
  | none => false

/-- n bytes from a lie in the controller reserve of a C-die. -/
def State.inReserve (s : State) (d a n : Nat) : Bool :=
  match regionOf a with
  | .hbm e off => e == d && decide (s.reserveStart d ≤ off ∧ off + n ≤ s.fitted)
  | _ => false

/-- The conditions under which a global access by a task of a partition is performed (R119). -/
def State.taskAccessOk (s : State) (p a n : Nat) : Bool :=
  match regionOf a with
  | .hbm _ _ => s.inTaskSpace p a n
  | .store c off => decide (off + n ≤ storeSize) && (s.partDies p).contains (coreDie c) && s.coreWorking c
  | .pool c off => decide (off + n ≤ poolSize) && (s.partDies p).contains (c / 24) && s.clusterWorking c
  | .nowhere => false

/-- Pseudo-channel index of a die offset (R122). -/
def pseudoChannel (a8 : Bool) (off : Nat) : Nat :=
  let u := off / 256
  if a8 then (bitsAt u 0 6 ^^^ bitsAt u 8 6) ^^^ bitsAt u 16 6
  else (bitsAt u 0 5 ^^^ bitsAt u 8 5) ^^^ bitsAt u 16 5

/-- Stack s of a die offset (R122). -/
def stackOf (a8 : Bool) (off : Nat) : Nat := if a8 then bitsAt (pseudoChannel a8 off) 5 1 else 0

/-- Location inside a pseudo-channel: stack ID, bank group, bank, row, column unit (R122). -/
def hbmLocation (a8 : Bool) (off : Nat) : Nat × Nat × Nat × Nat × Nat :=
  let u := off / 256
  let a := if a8 then u / 64 else u / 32
  let b := a % 1572864
  (a / 1572864, bitsAt b 2 2 ^^^ bitsAt b 8 2, bitsAt b 4 2 ^^^ bitsAt b 10 2, b / 64, bitsAt b 0 2)

/-! ### Contents -/

def State.peek (s : State) (a n : Nat) : List Byte := cellsRead 0 s.memory.mem a n
def State.poke (a : Nat) (bytes : List Byte) (s : State) : State :=
  { s with memory := { s.memory with mem := cellsWrite 0 s.memory.mem a bytes } }
def State.peekN (s : State) (a n : Nat) : Nat := ofLeBytes (s.peek a n)
def State.pokeN (a n v : Nat) (s : State) : State := s.poke a (leBytes n v)

/-- Words of k bytes that n bytes from a touch. -/
def wordsOf (k a n : Nat) : List Nat := if n = 0 then [] else (List.range ((a + n - 1) / k + 1 - a / k)).map (· + a / k)

/-- A word of k bytes that n bytes from a cover whole. -/
def wholeWord (k a n w : Nat) : Bool := decide (a ≤ k * w ∧ k * w + k ≤ a + n)

/-! ### Error log and retirement -/

/-- Write an entry of the error log of MEM. -/
def State.memLog (a st : Nat) (s : State) : State :=
  let i := s.rdF Reg.MEM_LOG_HEAD Fld.MEM_LOG_HEAD_NEXT
  let s := s.wrN (Reg.MEM_LOG i 0) (a % 2 ^ 32)
  let s := s.wrN (Reg.MEM_LOG i 1) (a / 2 ^ 32 % 2 ^ 16 + st * 2 ^ 16)
  let s := s.wr64 (Reg.MEM_LOG i 2) s.now
  let s := s.wrF Reg.MEM_LOG_HEAD Fld.MEM_LOG_HEAD_NEXT ((i + 1) % 64)
  if i = 63 then s.countF Reg.MEM_LOG_HEAD Fld.MEM_LOG_HEAD_WRAPS else s

/-- MEM produces a status word about an address; codes from 0x20 and 0x11 are logged. -/
def State.postMem (part a st : Nat) (s : State) : State :=
  (if 0x20 ≤ stCode st ∨ stCode st = 0x11 then s.memLog a st else s).postAt part st

def State.findEntry (s : State) (d page : Nat) : Option RetireEntry :=
  s.memory.retired.find? (fun e => e.die == d && e.page == page)

def State.entriesOf (s : State) (d : Nat) : List RetireEntry := s.memory.retired.filter (fun e => e.die == d)

/-- First byte of a die's spare pool (R121). -/
def State.spareStart (s : State) (d : Nat) : Nat := s.taskEnd d

/-- Where the bytes of a die offset are stored: a remapped page lies in its spare (R135). -/
def State.storedAt (s : State) (d off : Nat) : Nat :=
  match (s.findEntry d (off / pageSize)).bind RetireEntry.spare with
  | some n => s.spareStart d + n * pageSize + off % pageSize
  | none => off

/-- The die offset by which readers reach the bytes stored at a die offset: a spare in use is reached through its page. -/
def State.reachedAt (s : State) (d off : Nat) : Nat :=
  if s.spareStart d ≤ off ∧ off < s.spareStart d + 64 * pageSize then
    match (s.entriesOf d).find? (fun e => e.spare == some ((off - s.spareStart d) / pageSize)) with
    | some e => e.page * pageSize + off % pageSize
    | none => off
  else off

/-- Pseudo-channel, as die × 64 + pc, that stores the word at a global HBM address (R122, R135). -/
def State.channelOf (s : State) (a : Nat) : Nat :=
  a / hbmRegion * 64 + pseudoChannel s.fuses.a8 (s.storedAt (a / hbmRegion) (a % hbmRegion))

/-- Index 2d + s of the stack that stores a global HBM address. -/
def State.stackIndex (s : State) (a : Nat) : Nat :=
  2 * (a / hbmRegion) + stackOf s.fuses.a8 (s.storedAt (a / hbmRegion) (a % hbmRegion))

/-- A page that no spare backs any more (R136). -/
def State.pageUnmapped (s : State) (d page : Nat) : Bool :=
  match s.findEntry d page with
  | some e => e.spare.isNone
  | none => false

/-- A page whose accesses a remap holds (R135). -/
def State.pageHeld (s : State) (d page : Nat) : Bool := s.memory.remaps.any (fun r => r.die == d && r.page == page)

/-- Some page that n bytes from a touch is held by a remap. -/
def State.rangeHeld (s : State) (a n : Nat) : Bool :=
  match regionOf a with
  | .hbm d off => (wordsOf pageSize off n).any (s.pageHeld d)
  | _ => false

def State.sparesTaken (s : State) (d : Nat) : Nat := mapGetD 0 d s.memory.sparesTaken

/-- The word of MEM_RETIRE_ENTRY (R137). -/
def retireWord (e : RetireEntry) : Nat :=
  e.page % 2 ^ 16 + (e.spare.getD 0) % 2 ^ 6 * 2 ^ 16 + boolNat e.bringup * 2 ^ 28 + boolNat e.spare.isNone * 2 ^ 29
    + boolNat e.predictive * 2 ^ 30 + 2 ^ 31

/-- Enter a retirement in the list, count it, and record it in the ledger (R135, R138). Of an entry that the page has already, SPARE and UNMAPPED
alone are rewritten. -/
def State.enterRetirement (e : RetireEntry) (s : State) : State :=
  let l := s.memory.retired
  let l := if (s.findEntry e.die e.page).isSome then
      l.map (fun x => if x.die = e.die ∧ x.page = e.page then { x with spare := e.spare } else x)
    else l ++ [e]
  let s := { s with memory := { s.memory with
    retired := l, pageCe := mapDel (e.die * 65536 + e.page) s.memory.pageCe } }
  let s := s.wrF (Reg.MEM_LAYOUT e.die) Fld.MEM_LAYOUT_LIST_USED (s.entriesOf e.die).length
  let s := s.wrF (Reg.MEM_LAYOUT e.die) Fld.MEM_LAYOUT_SPARES_LEFT (64 - s.sparesTaken e.die)
  let s := s.count Reg.MEM_RETIRE_EPOCH
  let s := (s.ledgerAdd (0x1000 + e.die) 9).ledgerPut (0x1000 + e.die) 10 (64 - s.sparesTaken e.die)
  s.ledgerRecord (0x1000 + e.die) 0 2 (retireWord e + e.die * 2 ^ 32) true

/-- Would the list refuse one more entry that is unmapped, or mapped (R137)? -/
def State.listFull (s : State) (d page : Nat) (unmapped : Bool) : Bool :=
  let es := (s.entriesOf d).filter (fun e => e.page != page)
  if unmapped then decide (192 ≤ (es.filter (fun e => e.spare.isNone)).length)
  else decide (64 ≤ (es.filter (fun e => e.spare.isSome)).length + (s.memory.remaps.filter (fun r => r.die == d && r.page != page)).length)

/-- Unmap a page (R136): the first unmapping of a die reports SPARES_EXHAUSTED. -/
def State.unmapPage (d page : Nat) (predictive bringup : Bool) (s : State) : State :=
  let first := !s.rdB (Reg.MEM_LAYOUT d) Fld.MEM_LAYOUT_EXHAUSTED
  let s := s.enterRetirement ⟨d, page, none, bringup, predictive⟩
  if first then
    ((s.wrF (Reg.MEM_LAYOUT d) Fld.MEM_LAYOUT_EXHAUSTED 1).postMem (0x1000 + d) (d * hbmRegion + page * pageSize)
      St.MEM_SPARES_EXHAUSTED)
  else s

/-- Retire a page (R134, R135): start a remap into the lowest free spare, or unmap it. Answers false where the list is full
and the retirement is not made (R137). -/
def State.retirePage (d page : Nat) (predictive : Bool) (s : State) : Bool × State :=
  if s.pageHeld d page || s.pageUnmapped d page then (true, s)
  else if s.sparesTaken d < 64 then
    if s.listFull d page false then (false, s)
    else
      let n := s.sparesTaken d
      (true, { s with memory := { s.memory with
        remaps := s.memory.remaps ++ [⟨d, page, n, predictive⟩]
        sparesTaken := mapSet d (n + 1) s.memory.sparesTaken } })
  else if s.listFull d page true then (false, s)
  else (true, s.unmapPage d page predictive false)

/-- What a word of HBM answers a reader with. -/
inductive WordState where
  | good | corrected | uncorrectable | lostWord | retired | channel
  deriving DecidableEq, Repr

/-- The state of a word (R129 to R136, R140). A lost word stays lost whatever happens to it in storage: its check code never decodes. -/
def State.wordState (s : State) (w : Nat) : WordState :=
  let a := w * 32
  if s.memory.failedChannels.contains (s.channelOf a) then .channel
  else if s.pageUnmapped (a / hbmRegion) (a % hbmRegion / pageSize) then .retired
  else if s.memory.lost.contains w then .lostWord
  else if s.memory.double.contains w then .uncorrectable
  else if s.memory.single.contains w then .corrected
  else .good

/-- A word that is not delivered. -/
def State.wordFails (s : State) (w : Nat) : Bool :=
  match s.wordState w with
  | .good | .corrected => false
  | _ => true

/-- The remap copies the page and redirects it: singles are corrected, words that cannot be read become lost words, and whatever the spare held
before is written over (R133, R135). -/
def State.finishRemap (r : RemapJob) (s : State) : State :=
  let inPage := inRange ((r.die * hbmRegion + r.page * pageSize) / 32) (pageSize / 32)
  let inSpare := inRange ((r.die * hbmRegion + s.spareStart r.die + r.spare * pageSize) / 32) (pageSize / 32)
  let m := s.memory
  let silent := if m.failedChannels.isEmpty then [] else
    ((List.range (pageSize / 32)).map (· + (r.die * hbmRegion + r.page * pageSize) / 32)).filter (fun w => s.wordState w == .channel)
  let keep := fun w => !inPage w && !inSpare w
  let s := { s with memory := { m with
    single := m.single.filter keep
    double := m.double.filter keep
    lost := (m.double.filter inPage ++ silent).foldl (fun l w => setInsert w l) (m.lost.filter (fun w => !inSpare w))
    remaps := m.remaps.filter (fun x => !(x.die == r.die && x.page == r.page)) } }
  s.enterRetirement ⟨r.die, r.page, some r.spare, false, r.predictive⟩

/-- An access to pages that a remap holds waits until the remap has finished (R135). -/
def State.releaseHeld (a n : Nat) (s : State) : State :=
  match regionOf a with
  | .hbm d off =>
    s.overList (s.memory.remaps.filter (fun r => r.die == d && (wordsOf pageSize off n).contains r.page)) (fun r t => t.finishRemap r)
  | _ => s

/-! ### Reads and writes through error correction -/

/-- The stacks that hold n bytes from a: a C-die's two interleave in units of 256 bytes, each block of 64 units holding both (R122). -/
def State.stacksOf (s : State) (a n : Nat) : List Nat :=
  ((wordsOf 256 a (min n 16384)).map (fun u => s.stackIndex (256 * u))).eraseDups

/-- The stacks of n bytes from a are accessed: they leave self-refresh (R353). -/
def State.touchStacks (a n : Nat) (s : State) : State :=
  s.overList (s.stacksOf a n) (fun i t => { t with memory := { t.memory with
    selfRefresh := setErase i t.memory.selfRefresh, lastAccess := mapSet i t.now t.memory.lastAccess } })

/-- A single-bit error is corrected in delivery and in place (R129); a page whose count of corrections has reached CE_RETIRE is retired
predictively, if the list has room (R134, R137). -/
def State.correctWord (w : Nat) (s : State) : State :=
  let a := w * 32
  let d := a / hbmRegion
  let page := a % hbmRegion / pageSize
  let key := d * 65536 + page
  let n := mapGetD 0 key s.memory.pageCe + 1
  let s := { s with memory := { s.memory with single := setErase w s.memory.single, pageCe := mapSet key n s.memory.pageCe } }
  let i := s.stackIndex a
  let s := s.countSat (Reg.STACK_COUNTER i 0) 0xFFFFFFFF
  let s := s.ledgerAdd (0x4000 + i) 0
  let s := s.postMem (0x4000 + i) a St.MEM_HBM_CORRECTED
  let lim := s.rdF Reg.MEM_CFG Fld.MEM_CFG_CE_RETIRE
  if lim ≠ 0 ∧ lim ≤ n ∧ !s.pageHeld d page ∧ !s.pageUnmapped d page then
    match s.retirePage d page true with
    | (true, s) => s.postMem (0x1000 + d) a St.MEM_PREDICTIVE_RETIRE
    | (false, s) => s
  else s

/-- A MEM status word about a word of HBM; a partition-fatal one stops the owner of the C-die (R131). -/
def State.reportWord (part a st : Nat) (s : State) : State :=
  if stSeverity st = 4 then
    let s := s.postMem (0x1000 + a / hbmRegion) a st
    match s.dieOwner (a / hbmRegion) with
    | some p => s.stopPart p
    | none => s
  else s.postMem part a st

/-- The owner of an address's C-die stops, under a partition-fatal MEM status word. -/
def State.memPartFatal (a st : Nat) (s : State) : State := s.reportWord (0x1000 + a / hbmRegion) a st

/-- The pages of uncorrectable words are retired (R134); the first word whose retirement finds no room in the list (R137). -/
def State.retireWords (ws : List Nat) (s : State) : Option Nat × State :=
  ws.foldl (fun r w =>
    match r.2.retirePage (w * 32 / hbmRegion) (w * 32 % hbmRegion / pageSize) false with
    | (true, t) => (r.1, t)
    | (false, t) => (r.1.orElse (fun _ => some w), t)) (none, s)

/-- An uncorrectable word is counted, whatever the reader (R132). -/
def State.countDead (w : Nat) (s : State) : State :=
  (s.countSat (Reg.STACK_COUNTER (s.stackIndex (w * 32)) 2) 0xFFFFFFFF).ledgerAdd (0x4000 + s.stackIndex (w * 32)) 2

/-- The status word and the part of a read whose first failing word is in this state. -/
def State.failureOf (s : State) (sev w : Nat) : Nat × Nat :=
  match s.wordState w with
  | .retired => (stRetiredPage sev, 0x1000 + w * 32 / hbmRegion)
  | .lostWord => (stLostWord sev, 0x4000 + s.stackIndex (w * 32))
  | _ => (stHbmUncorrectable sev, 0x4000 + s.stackIndex (w * 32))

/-- Read of HBM words by a reader of a severity (R129 to R137, R140): none when every word is delivered, else one status word, for the first
word in address order that is not. Every uncorrectable word is counted and its page retired, and every correctable one corrected, after the
words have been judged: a page that this read's own corrections retire has still delivered them.
DESIGN CHOICE (log 166): UE_COUNT counts words that are uncorrectable or on a failed pseudo-channel, not reads of lost words or of unmapped pages. -/
def State.readWords (sev : Nat) (ws : List Nat) (s : State) : Option Nat × State :=
  let bad := ws.filter s.wordFails
  let dead := bad.filter (fun w => s.wordState w == .uncorrectable || s.wordState w == .channel)
  let weak := ws.filter (fun w => s.wordState w == .corrected)
  let r := (s.overList dead State.countDead).retireWords (dead.filter (fun w => s.wordState w == .uncorrectable))
  let fix := fun (t : State) => t.overList weak State.correctWord
  match bad, r.1 with
  | [], _ => (none, fix r.2)
  | _, some w => (some (stHbmUncorrectable 4), fix (r.2.memPartFatal (w * 32) (stHbmUncorrectable 4)))
  | w :: _, none =>
    let f := s.failureOf sev w
    (some f.1, fix (r.2.reportWord f.2 (w * 32) f.1))

/-- n bytes from a lie in fitted HBM (R118). -/
def State.hbmFitted (s : State) (a n : Nat) : Bool :=
  match regionOf a with
  | .hbm _ off => decide (off + n ≤ s.fitted)
  | _ => false

/-- Read n bytes of HBM: the status of a failed read, and the bytes. An address outside fitted HBM reaches nothing (R118): what its read returns
is open. -/
def State.hbmRead (sev a n : Nat) (s : State) : Option Nat × List Byte × State :=
  if !s.hbmFitted a n then (none, (List.range n).map (fun i => BitVec.ofNat 8 (Config.nothingRead (a + i))), s)
  else
    let s := (s.releaseHeld a n).touchStacks a n
    let r := s.readWords sev (wordsOf 32 a n)
    (r.1, r.2.peek a n, r.2)

/-- A whole aligned word written ends any error condition of the word (R133). -/
def State.cleanWords (a n : Nat) (s : State) : State :=
  let keep := fun w => !wholeWord 32 a n w
  { s with memory := { s.memory with
    single := s.memory.single.filter keep, double := s.memory.double.filter keep, lost := s.memory.lost.filter keep } }

/-- A word of a page that is unmapped, or of a failed pseudo-channel: a write of it fails as its read would (R136, R140). -/
def State.wordBarred (s : State) (w : Nat) : Bool :=
  match s.wordState w with
  | .retired | .channel => true
  | _ => false

/-- Write bytes to HBM (R118, R123, R131, R133, R136): a word written in part is read first; whole words are written without a
read. -/
def State.hbmWrite (sev a : Nat) (bytes : List Byte) (s : State) : Option Nat × State :=
  let n := bytes.length
  if !s.hbmFitted a n then (none, s)
  else
    let s := (s.releaseHeld a n).touchStacks a n
    let needs := (wordsOf 32 a n).filter (fun w => !wholeWord 32 a n w || s.wordBarred w)
    match s.readWords sev needs with
    | (some st, s) => (some st, s)
    | (none, s) => (none, (s.cleanWords a n).poke a bytes)

/-- Words of n bytes from a that a write reads first or finds barred, in address order: those written in part (R123), and the barred ones, of which
a range without failed pseudo-channels has whole pages or none. -/
def State.hardWords (s : State) (a n : Nat) : List Nat :=
  let part := fun w => !wholeWord 32 a n w
  if s.memory.failedChannels.isEmpty then
    let ends := if n = 0 then [] else if a / 32 = (a + n - 1) / 32 then [a / 32] else [a / 32, (a + n - 1) / 32]
    let pages := (wordsOf pageSize a n).filter (fun p => s.pageUnmapped (p * pageSize / hbmRegion) (p * pageSize % hbmRegion / pageSize))
    match pages with
    | [] => ends.filter part
    | p :: _ => (ends.take 1).filter part ++ [max (a / 32) (p * (pageSize / 32))]
  else (wordsOf 32 a n).filter (fun w => part w || s.wordBarred w)

/-- Write n bytes from a whose contents are a sparse list of cells at their own offsets from `off` on: as `hbmWrite`, for a transfer that is too long
to be written out (R118, R123, R133, R135, R136, R140). -/
def State.hbmPour (sev a n off : Nat) (body : List Host.Cell) (s : State) : Option Nat × State :=
  if !s.hbmFitted a n then (none, s)
  else
    let s := (s.releaseHeld a n).touchStacks a n
    match s.readWords sev (s.hardWords a n) with
    | (some st, s) => (some st, s)
    | (none, s) =>
      let s := s.cleanWords a n
      (none, { s with memory := { s.memory with
        mem := (body.filter (fun c => inRange off n c.1)).foldl (fun m c => cellsPut 0 m (a + (c.1 - off)) c.2) (cellsClear s.memory.mem a n) } })

/-- Cluster whose counters a word of SRAM counts in, and the store or pool that holds it (R130). -/
def sramPlace (w : Nat) : Nat × Nat :=
  match regionOf (w * 8) with
  | .store c _ => (coreCluster c, c)
  | .pool c _ => (c, 2048 + c)
  | _ => (0, 0)

/-- A single-bit error in SRAM is corrected in delivery and in place (R130). -/
def State.correctSram (w : Nat) (s : State) : State :=
  let c := (sramPlace w).1
  let s := { s with memory := { s.memory with sramSingle := setErase w s.memory.sramSingle } }
  let s := s.countSat (Reg.SRAM_COUNTER c 0) 0xFFFFFFFF
  let s := (s.ledgerAdd (0x3000 + c) 0).ledgerAdd (0x1000 + c / 24) 1
  s.postMem (0x3000 + c) (w * 8) St.MEM_SRAM_CORRECTED

/-- SRAM words of 8 bytes read by a task (R130): corrections, or the first uncorrectable word. -/
def State.readSram (ws : List Nat) (s : State) : Option Nat × State :=
  let s := s.overList (ws.filter (fun w => s.memory.sramSingle.contains w)) State.correctSram
  match ws.filter (fun w => s.memory.sramDouble.contains w) with
  | [] => (none, s)
  | w :: _ =>
    let (c, key) := sramPlace w
    let s := s.countSat (Reg.SRAM_COUNTER c 1) 0xFFFFFFFF
    let s := (s.ledgerAdd (0x3000 + c) 1).ledgerAdd (0x1000 + c / 24) 2
    let s := { s with memory := { s.memory with sramUe := mapSet key (mapGetD 0 key s.memory.sramUe + 1) s.memory.sramUe } }
    (some St.MEM_SRAM_UNCORRECTABLE, s.postMem (0x3000 + c) (w * 8) St.MEM_SRAM_UNCORRECTABLE)

def State.sramRead (a n : Nat) (s : State) : Option Nat × State := s.readSram (wordsOf 8 a n)

/-- Write to SRAM: a word written in part is read first, and corrected, or the write fails as its read would (R123, R130). -/
def State.sramWrite (a : Nat) (bytes : List Byte) (s : State) : Option Nat × State :=
  let n := bytes.length
  let whole := wholeWord 8 a n
  match s.readSram ((wordsOf 8 a n).filter (fun w => !whole w)) with
  | (some st, s) => (some st, s)
  | (none, s) =>
    let s := { s with memory := { s.memory with
      sramSingle := s.memory.sramSingle.filter (fun w => !whole w), sramDouble := s.memory.sramDouble.filter (fun w => !whole w) } }
    (none, s.poke a bytes)

/-- Read of global space, whichever region holds it; an address in none is refused (R118, R119). -/
def State.globalRead (sev a n : Nat) (s : State) : Option Nat × List Byte × State :=
  match regionOf a with
  | .hbm _ _ => s.hbmRead sev a n
  | .nowhere => (some St.MEM_GLOBAL_ADDRESS_FAULT, [], s.postMem 0 a St.MEM_GLOBAL_ADDRESS_FAULT)
  | _ => let r := s.sramRead a n; (r.1, r.2.peek a n, r.2)

def State.globalWrite (sev a : Nat) (bytes : List Byte) (s : State) : Option Nat × State :=
  match regionOf a with
  | .hbm _ _ => s.hbmWrite sev a bytes
  | .nowhere => (some St.MEM_GLOBAL_ADDRESS_FAULT, s.postMem 0 a St.MEM_GLOBAL_ADDRESS_FAULT)
  | _ => s.sramWrite a bytes

/-- A write that a block makes on its own account (R136): not made into an unmapped page, and then reported. -/
def State.blockWrite (a : Nat) (bytes : List Byte) (s : State) : Bool × State :=
  match s.hbmWrite 2 a bytes with
  | (none, s) => (true, s)
  | (some _, s) => (false, s)

/-- A write of a die controller's engine to its own state in the reserve: a word written in part is read first, and one that cannot be read stops
the partition (R131); nothing is written into an unmapped page (R136). -/
def State.engineWrite (a : Nat) (bytes : List Byte) (s : State) : State :=
  if (wordsOf 32 a bytes.length).any (fun w => s.wordState w == .retired) then (s.blockWrite a bytes).2 else (s.hbmWrite 4 a bytes).2

/-- One word of HBM goes bad: a lost word stays lost, and a word with a double-bit error has no single one. -/
def MemState.upsetHbm (double : Bool) (w : Nat) (m : MemState) : MemState :=
  if m.lost.contains w then m
  else if double then { m with double := setInsert w m.double, single := setErase w m.single }
  else if m.double.contains w then m
  else { m with single := setInsert w m.single }

/-- One word of SRAM goes bad. -/
def MemState.upsetSram (double : Bool) (w : Nat) (m : MemState) : MemState :=
  if double then { m with sramDouble := setInsert w m.sramDouble, sramSingle := setErase w m.sramSingle }
  else if m.sramDouble.contains w then m
  else { m with sramSingle := setInsert w m.sramSingle }

/-- A byte of a core's firmware store has changed (R399), and so many unicasts to the core would fail. -/
def State.firmwareUpset (n off k : Nat) (s : State) : State :=
  match mapGet n s.cores with
  | some c => { s with cores := mapSet n { c with fwBytes := c.fwBytes.modify off (fun b => ~~~b), fwBadCasts := k } s.cores }
  | none => s

/-- Words that have gone bad in memory since the last command: global word addresses with single-bit or double-bit errors, or corrections that a
stack made on its own die (R128). -/
def State.upset (us : List Upset) (s : State) : State :=
  s.overList us (fun u t =>
    match regionOf u.addr, u.kind with
    | _, .firmware k => t.firmwareUpset (u.addr / 131072) (u.addr % 131072) k
    | .hbm _ _, .onDie =>
      (t.countSat (Reg.STACK_COUNTER (t.stackIndex u.addr) 1) 0xFFFFFFFF).ledgerAdd (0x4000 + t.stackIndex u.addr) 1
    | .hbm d off, k => { t with memory := t.memory.upsetHbm (k == .double) ((d * hbmRegion + t.reachedAt d off) / 32) }
    | .nowhere, _ => t
    | _, .onDie => t
    | _, k => { t with memory := t.memory.upsetSram (k == .double) (u.addr / 8) })

/-- Zero a range of global space and clear the error conditions of its words (R127, R385). -/
def State.zeroRange (a n : Nat) (s : State) : State :=
  let keep := fun w => !inRange (a / 32) (n / 32) w
  let keepS := fun w => !inRange (a / 8) (n / 8) w
  let m := s.memory
  { s with memory := { m with
    mem := cellsClear m.mem a n
    single := m.single.filter keep, double := m.double.filter keep, lost := m.lost.filter keep
    sramSingle := m.sramSingle.filter keepS, sramDouble := m.sramDouble.filter keepS } }

/-- A die's task space and controller reserve are zeroed once its remaps have finished (R127). -/
def State.zeroDie (d : Nat) (s : State) : State :=
  let s := s.overList (s.memory.remaps.filter (fun r => r.die == d)) (fun r t => t.finishRemap r)
  (s.zeroRange (d * hbmRegion) (s.taskEnd d)).zeroRange (d * hbmRegion + s.reserveStart d) (s.reserveBytes d)

/-- A core powers down or up: its store reads zeros (R45). -/
def State.zeroStore (core : Nat) (s : State) : State := s.zeroRange (storeAddr core 0) storeSize
def State.zeroPool (cluster : Nat) (s : State) : State := s.zeroRange (poolAddr cluster 0) poolSize

end Sys2Proof.Machine
end

