-- ==== Sys2Proof/Machine/PowerOps.lean ====
section
/-! DEFINITION. Machine/PowerOps.lean: power domains, budgets, cap changes and boost (R350 to R364), as other blocks use them. -/
namespace Sys2Proof.Machine

def State.corePowered (s : State) (n : Nat) : Bool := s.power.coresUp.contains n
def State.clusterPowered (s : State) (c : Nat) : Bool := s.power.clustersUp.contains c

/-- ACTIVE or DORMANT, as PWR_STATE shows (R352). -/
def State.powerOn (s : State) : Bool := !s.power.standby && 2 ≤ s.rdF Reg.PWR_STATE Fld.PWR_STATE_STATE

def State.isDormant (s : State) : Bool := s.rdF Reg.PWR_STATE Fld.PWR_STATE_STATE == 3


/-- Boost is withdrawn from the clusters that a test selects (R364). -/
def State.unboost (p : Nat → Bool) (s : State) : State :=
  let b := s.power.boosted.filter (fun c => !p c)
  let s := { s with power := { s.power with boosted := b, boostedBy := mapDrop p s.power.boostedBy } }
  s.overList (List.range 4) (fun d t =>
    t.wrF (Reg.PWR_DIE_CLK d) Fld.PWR_DIE_CLK_BOOSTED (b.filter (fun c => c / 24 == d)).length)

/-- The smallest of the caps, less the power-stage reduction (R359, R370). -/
def State.capNow (s : State) : Nat :=
  let rack := s.rdF Reg.PWR_CAP Fld.PWR_CAP_RACK_CAP_W
  let host := s.rdF Reg.PWR_CAP Fld.PWR_CAP_HOST_CAP_W
  let c := min (if host = 0 then rack else min rack host) s.fuses.maxW
  if s.power.stageReduced then c - c / 10 else c

/-- A cap change (R359, R361, R364): the budget is recomputed, boost is withdrawn, the change is counted,
and reported where the effective cap changed. -/
def State.capChange (s : State) : State :=
  let old := s.effCap
  let s := s.wrF Reg.PWR_CAP_EFF Fld.PWR_CAP_EFF_EFF_CAP_W s.capNow
  let s := { s with power := { s.power with capChangeAt := s.now } }
  let s := (s.recomputeBudgets.unboost (fun _ => true)).count (Reg.PWR_COUNTER 0)
  if s.effCap = old then s else s.post St.PWR_CAP_CHANGED

/-- Latest reading of a sensor, in 1/16 (R369). -/
def State.sensor (s : State) (n : Nat) : Int := toSigned 16 (s.rdF (Reg.PWR_SENSOR n) Fld.PWR_SENSOR_VALUE)

/-- Sensors of a C-die. -/
def dieSensors (d : Nat) : List Nat := (List.range 8).map (· + 8 * d)

/-- The boost conditions that do not count clusters (R364). -/
def State.boostAllowed (s : State) (d : Nat) : Bool :=
  s.rdB Reg.PWR_CFG Fld.PWR_CFG_BOOST_EN
  && s.rdF (Reg.PWR_DIE_CLK d) Fld.PWR_DIE_CLK_BASE_MHZ == s.fuses.sustainedMhz
  && (dieSensors d).all (fun n => decide (s.sensor n < 16 * (s.rdF Reg.PWR_CFG2 Fld.PWR_CFG2_T_BOOST : Int)))
  && !s.capLag && !s.clampInForce
  && s.power.windowDone
  && decide (s.power.lastWindow.1 + s.power.lastWindow.2 * s.rdF Reg.PWR_CFG2 Fld.PWR_CFG2_BOOST_HEADROOM_W
      ≤ s.power.lastWindow.2 * s.effCap)

/-- Boost is granted cluster by cluster in ascending number at the start of a task (R364). A cluster that is boosted already runs boosted
for this task too. -/
def State.boostClusters (task : Nat × Nat) (cs : List Nat) (s : State) : State :=
  s.overList cs (fun c t =>
    let d := c / 24
    let n := (t.power.boosted.filter (fun x => x / 24 == d)).length
    if t.boostAllowed d && decide (n < t.rdF Reg.PWR_CFG Fld.PWR_CFG_BOOST_CLUSTERS) then
      let had := t.power.boosted.contains c
      let t := { t with power := { t.power with
        boosted := setInsert c t.power.boosted, boostedBy := t.power.boostedBy ++ [(c, task)] } }
      if had then t else (t.wrF (Reg.PWR_DIE_CLK d) Fld.PWR_DIE_CLK_BOOSTED (n + 1)).count (Reg.PWR_COUNTER 6)
    else t)

/-- Boost ends at the end of the task that it was granted to; a cluster stays boosted for another such task (R364). -/
def State.endBoost (task : Nat × Nat) (s : State) : State :=
  let left := s.power.boostedBy.filter (fun e => e.2 != task)
  let mine := (s.power.boostedBy.filter (fun e => e.2 == task)).map (fun e => e.1)
  let s := { s with power := { s.power with boostedBy := left } }
  s.unboost (fun c => mine.contains c && !left.any (fun e => e.1 == c))

/-- Clock of a cluster's cores in MHz (R356, R364). -/
def State.clusterMhz (s : State) (c : Nat) : Nat :=
  if s.power.boosted.contains c then s.fuses.boostMhz
  else s.rdF (Reg.PWR_DIE_CLK (c / 24)) Fld.PWR_DIE_CLK_BASE_MHZ

/-- Units of 1/6,400,000 of a cycle: what a clock of 1 MHz makes in 1 ns, sixteenths of a gated clock and 1/400 parts of a spread one included. -/
def cycleUnit : Nat := 6400000

/-- Cycle units per nanosecond of a cluster's clock: its MHz, gated by the clamp (R365) and lowered by the spread (R357). -/
def State.cycleRate (s : State) (c : Nat) : Nat :=
  s.clusterMhz c * (s.rdF Reg.PWR_STATE Fld.PWR_STATE_DUTY + 1) * (if s.rdB Reg.PWR_CFG Fld.PWR_CFG_SPREAD then 399 else 400)

def phaseStarted : TaskPhase → Bool
  | .loading | .running => true
  | _ => false

def phaseReady : TaskPhase → Bool
  | .ready | .reserved => true
  | _ => false

/-- Sleep mode (R353). -/
def State.sleepMode (s : State) : Bool := !s.rdB Reg.PWR_ANTE Fld.PWR_ANTE_ANTE_MODE

/-- Stacks that are in use. -/
def State.fittedStacks (s : State) : List Nat :=
  (List.range 8).filter (fun i => s.fuses.stackFitted i && !s.mgmt.excludedDies.contains (i / 2))

/-- Nothing runs and everything is down (R354). -/
def State.resting (s : State) : Bool :=
  s.ready && s.sleepMode && s.power.coresUp.isEmpty && s.power.clustersUp.isEmpty
    && s.fittedStacks.all s.memory.selfRefresh.contains
    && s.dealer.graphs.all (fun g => g.tasks.all (fun t => !phaseReady t.phase && !phaseStarted t.phase))

/-- An event of R354 leaves DORMANT at once; the three conditions must then hold anew for DORMANT_IDLE_MS. While the module is ACTIVE an
event that leaves the conditions true changes nothing. -/
def State.wake (s : State) : State :=
  if s.isDormant then
    { s.wrF Reg.PWR_STATE Fld.PWR_STATE_STATE 2 with power := { s.power with restingSince := none } }
  else if s.resting then s
  else { s with power := { s.power with restingSince := none } }

/-- Time passes (R19): every core counts the cycles of its clock (R48, R356), and the module notes since when it has rested (R354). -/
def State.passTime (ns : Nat) (s : State) : State :=
  { s with
    now := s.now + ns
    power := { s.power with restingSince := if s.resting then some (s.power.restingSince.getD s.now) else none }
    cores := s.cores.map (fun e => (e.1, { e.2 with cycles := e.2.cycles + ns * s.cycleRate (coreCluster e.1) })) }

/-- Request power-up of a core and, if needed, of its cluster (R99, R353). -/
def State.requestCore (n : Nat) (s : State) : State :=
  let want := (if s.corePowered n then [] else [Domain.core n]) ++
    (if s.clusterPowered (coreCluster n) then [] else [Domain.cluster (coreCluster n)])
  { s with power := { s.power with
    waking := want.foldl (fun w d => if w.contains d then w else w ++ [d]) s.power.waking
    wakeAt := want.foldl (fun w d => if s.power.waking.contains d then w else w.filter (fun e => e.1 != d) ++ [(d, s.now)]) s.power.wakeAt
    idleSince := mapDel n s.power.idleSince } }

def State.engineUp (s : State) (d : Domain) : Bool := s.power.enginesUp.contains d

/-- Request power-up of an engine's domain. -/
def State.requestEngine (d : Domain) (s : State) : State :=
  if s.engineUp d || s.power.waking.contains d then s
  else { s with power := { s.power with
    waking := s.power.waking ++ [d], wakeAt := s.power.wakeAt.filter (fun e => e.1 != d) ++ [(d, s.now)] } }

def State.coreAt (s : State) (n : Nat) : CoreState := mapGetD .fresh n s.cores

def State.putCore (n : Nat) (c : CoreState) (s : State) : State := { s with cores := mapSet n c s.cores }

/-- A core that has lost its state but for its firmware store (R350, R388, R398). -/
def CoreState.cleared (c : CoreState) : CoreState :=
  { CoreState.fresh with
    fwReceived := c.fwReceived, fwBytes := c.fwBytes, fwCount := c.fwCount, fwImageBytes := c.fwImageBytes
    fwImageCrc := c.fwImageCrc, fwStarted := c.fwStarted, fwBadCasts := c.fwBadCasts }

/-- Contexts of the check-value unit of a cluster return to idle with zeroed state (R350, R420). -/
def State.resetCheckUnit (u : Nat) (s : State) : State :=
  let failed := bitOf (s.rdN (Reg.CVU_FAILED (u / 32))) (u % 32)
  let s := s.resetRegs (Reg.CV_CTRL u 0) 0x200
  let s := { s with cvOwner := s.cvOwner.filter (fun e => e.1 / 8 != u) }
  if failed then s.overList (List.range 8) (fun x t => t.wrF (Reg.CV_CTRL u x) Fld.CV_CTRL_STATE 3) else s

/-- A core powers down: its store reads zeros, its state is lost, its firmware store is kept (R350, R388). -/
def State.coreDown (n : Nat) (s : State) : State :=
  let s := (s.putCore n (s.coreAt n).cleared).zeroStore n
  { s with power := { s.power with
    coresUp := setErase n s.power.coresUp, idleSince := mapDel n s.power.idleSince
    waking := s.power.waking.filter (fun d => d != .core n) } }

/-- A cluster powers down: its pool reads zeros, and its check-value unit loses its contexts (R350). -/
def State.clusterDown (c : Nat) (s : State) : State :=
  let s := (s.zeroPool c).resetCheckUnit c
  { s with
    power := { s.power with
      clustersUp := setErase c s.power.clustersUp, idleSince := mapDel (2048 + c) s.power.idleSince
      waking := s.power.waking.filter (fun d => d != .cluster c) }
    memory := { s.memory with poolCollisions := mapDel c s.memory.poolCollisions } }

end Sys2Proof.Machine
end

