-- ==== Sys2Proof/Machine/Shared.lean ====
section
/-! DEFINITION. Machine/Shared.lean: what several blocks share: rings (R102, R136), check-value contexts (R416, R421), the serving
engine's records as other blocks reach them, and the preparation of a template packet (R159, R276). -/
namespace Sys2Proof.Machine

/-! ### Rings shared by every queue -/

/-- Base of a ring: low bits below the ring's own size are ignored (R102). -/
def ringBase (base entryBytes log2 : Nat) : Nat := base - base % (entryBytes * 2 ^ log2)

/-- An entry of a function's ring lies in the HBM of its partition; of PF0's ring, in any C-die's task space (R102). -/
def State.ringInHbm (s : State) (fn a n : Nat) : Bool :=
  if fn = 0 then (s.taskSpaceDie a n).isSome else s.inTaskSpace (fn - 1) a n

/-- Write an entry of a ring in the partition's HBM (SPACE 0b0) or in host memory (SPACE 0b1): false where it lies in an
unmapped page (R136). DESIGN CHOICE (log 179): an entry that does not lie in the partition's HBM is neither read nor written, and stops its ring. -/
def State.ringWrite (space : Nat) (fn a : Nat) (bytes : List Byte) (s : State) : Bool × State :=
  if space = 1 then (true, s.hostWrite fn a bytes)
  else if s.ringInHbm fn a bytes.length then s.blockWrite a bytes
  else (false, s)

/-- A read request to host memory goes out: the RS fields of PCI commit. -/
def State.hostReading (s : State) : State := s.commitRS (inRange 0xA00000 0x100000)

/-- Read an entry of a ring: none where the entry in HBM cannot be read (R131). -/
def State.ringRead (space fn a n : Nat) (s : State) : Option (List Byte) × State :=
  if space = 1 then (some (s.hostRead a n), s.hostReading)
  else if !s.ringInHbm fn a n then (none, s)
  else
    let r := s.hbmRead 2 a n
    (match r.1 with | none => some r.2.1 | some _ => none, r.2.2)

/-- The module may read host memory under a function's requester ID now (R319). -/
def State.hostReadable (s : State) (space fn : Nat) : Bool := space == 0 || (s.busMaster fn && s.pcieUp)

/-! ### Check-value units (R416, R421) -/

/-- Feed payload bytes to a check-value context (R415, R416). -/
def State.feedContext (u x : Nat) (bytes : List Byte) (s : State) : State :=
  let alg := crcAlg (s.rdF (Reg.CV_CTRL u x) Fld.CV_CTRL_ALG)
  let r := crcFeed alg (s.rd64 (Reg.CV_RUNNING_LO u x) % 2 ^ alg.width) bytes
  let s := (s.wr64 (Reg.CV_RUNNING_LO u x) r).wr64 (Reg.CV_BYTES_LO u x) (s.rd64 (Reg.CV_BYTES_LO u x) + bytes.length)
  s.wr64 (Reg.CV_RESULT_LO u x) (crcResult alg r)

/-- Contexts of the X-die units attached to a path (R421), by 8 × unit + context. -/
def State.pathContexts (s : State) (src index : Nat) : List Nat :=
  (List.range 256).filterMap (fun i =>
    let off := Reg.CV_CTRL (96 + i / 8) (i % 8)
    if s.rdF off Fld.CV_CTRL_STATE = 1 ∧ s.rdF off Fld.CV_CTRL_SRC = src ∧ s.rdF off Fld.CV_CTRL_INDEX = index
    then some (8 * 96 + i) else none)

/-- Bytes of a path pass its snooping contexts (R421). -/
def State.feedPath (src index : Nat) (bytes : List Byte) (s : State) : State :=
  s.overList (s.pathContexts src index) (fun e t => t.feedContext (e / 8) (e % 8) bytes)

/-! ### The serving engine's records -/

def State.partServing (s : State) (p : Nat) : PartServing := mapGetD .empty p s.serving.parts
def State.putServing (p : Nat) (x : PartServing) (s : State) : State :=
  { s with serving := { s.serving with parts := mapSet p x s.serving.parts } }
def State.slotServing (s : State) (sl : Nat) : SlotServing := mapGetD .empty sl s.serving.slots
def State.putSlot (sl : Nat) (x : SlotServing) (s : State) : State :=
  { s with serving := { s.serving with slots := mapSet sl x s.serving.slots } }
def State.updSlot (sl : Nat) (f : SlotServing → SlotServing) (s : State) : State := s.putSlot sl (f (s.slotServing sl))


/-- An event of R488: a boundary of the slot is due, at the trick's end while one is in flight. -/
def State.slotEvent (sl : Nat) (s : State) : State := s.updSlot sl (fun x => { x with event := true })

/-! ### The dealer's and the media pipes' records -/

def State.partDealer (s : State) (p : Nat) : PartDealer := mapGetD .empty p s.dealer.parts
def State.putPartDealer (p : Nat) (d : PartDealer) (s : State) : State :=
  { s with dealer := { s.dealer with parts := mapSet p d s.dealer.parts } }

def State.mediaPipe (s : State) (m : Nat) : MediaPipe := mapGetD .empty m s.media.pipes
def State.putMedia (m : Nat) (x : MediaPipe) (s : State) : State := { s with media := ⟨mapSet m x s.media.pipes⟩ }
def State.updMedia (m : Nat) (f : MediaPipe → MediaPipe) (s : State) : State := s.putMedia m (f (s.mediaPipe m))

/-! ### Stopping a ring -/

/-- What the dealer has fetched from an SQ leaves with it: the queue holds nothing once it has stopped. -/
def State.dropFetched (p q : Nat) (s : State) : State :=
  let d := s.partDealer p
  let mine := fun (e : SubmissionEntry) => match e.source with
    | .sq r => r == q
    | .pipeline _ _ r => r == q
    | _ => false
  if d.fetched.any mine then s.putPartDealer p { d with fetched := none } else s

/-- Sources are the same ring, or the same frame. -/
def sameSource : JobSource → JobSource → Bool
  | .ring _, .ring _ => true
  | .pipe a b c, .pipe x y z => a == x && b == y && c == z
  | _, _ => false

/-- No job follows those of a source any more: its frame has ended, or its ring has stopped (R264). -/
def EdgeEngine.forget (e : EdgeEngine) (src : JobSource) : EdgeEngine := { e with last := e.last.filter (fun x => !sameSource x.1 src) }

/-- Where a ring lies in host memory (SPACE 0b1): the function it is reached under, its first address and its bytes (R102). -/
def State.ringArea (s : State) (r : RingRef) : Option (Nat × Nat × Nat) :=
  let area := fun (fn space base entryBytes log2 : Nat) =>
    if space = 1 then some (fn, ringBase base entryBytes log2, entryBytes * 2 ^ log2) else none
  match r with
  | .sq p q => area (p + 1) (s.rdF (Reg.SQ_CFG p q) Fld.SQ_CFG_SPACE) (s.rd64 (Reg.SQ_BASE_LO p q)) 32 (s.rdF (Reg.SQ_CFG p q) Fld.SQ_CFG_SIZE_LOG2)
  | .cq p q => area (p + 1) (s.rdF (Reg.CQ_CFG p q) Fld.CQ_CFG_SPACE) (s.rd64 (Reg.CQ_BASE_LO p q)) 32 (s.rdF (Reg.CQ_CFG p q) Fld.CQ_CFG_SIZE_LOG2)
  | .rq p q => area (p + 1) (s.rdF (Reg.RQ_CFG p q) Fld.RQ_CFG_SPACE) (s.rd64 (Reg.RQ_BASE_LO p q)) 64 (s.rdF (Reg.RQ_CFG p q) Fld.RQ_CFG_SIZE_LOG2)
  | .scq p q => area (p + 1) (s.rdF (Reg.SCQ_CFG p q) Fld.SCQ_CFG_SPACE) (s.rd64 (Reg.SCQ_BASE_LO p q)) 64 (s.rdF (Reg.SCQ_CFG p q) Fld.SCQ_CFG_SIZE_LOG2)
  | .rkq p => area (p + 1) (s.rdF (Reg.RKQ_CFG p) Fld.RKQ_CFG_SPACE) (s.rd64 (Reg.RKQ_BASE_LO p)) 128 (s.rdF (Reg.RKQ_CFG p) Fld.RKQ_CFG_SIZE_LOG2)
  | .msq m => (s.pipeOwner m).bind (fun p =>
    area (p + 1) (s.rdF (Reg.MSQ_CFG m) Fld.MSQ_CFG_SPACE) (s.rd64 (Reg.MSQ_BASE_LO m)) 64 (s.rdF (Reg.MSQ_CFG m) Fld.MSQ_CFG_SIZE_LOG2))
  | .mcq m => (s.pipeOwner m).bind (fun p =>
    area (p + 1) (s.rdF (Reg.MCQ_CFG m) Fld.MCQ_CFG_SPACE) (s.rd64 (Reg.MCQ_BASE_LO m)) 32 (s.rdF (Reg.MCQ_CFG m) Fld.MCQ_CFG_SIZE_LOG2))
  | .eq d => (s.dieOwner d).bind (fun p =>
    area (p + 1) (s.rdF (Reg.EQ_CFG d) Fld.EQ_CFG_SPACE) (s.rd64 (Reg.EQ_BASE_LO d)) 128 (s.rdF (Reg.EQ_CFG d) Fld.EQ_CFG_SIZE_LOG2))
  | .tln => area 0 (s.rdF Reg.TLN_CMD_CFG Fld.TLN_CMD_CFG_SPACE) (s.rd64 Reg.TLN_CMD_BASE_LO) 64 (s.rdF Reg.TLN_CMD_CFG Fld.TLN_CMD_CFG_SIZE_LOG2)

/-- Writes of entries that wait for Bus Master Enable are discarded with their ring (R319, R321). -/
def State.dropWaiting (r : RingRef) (s : State) : State :=
  match s.ringArea r with
  | none => s
  | some (fn, a, n) => { s with pcie := { s.pcie with
      waiting := s.pcie.waiting.filter (fun w => !(w.fn == fn && decide (a ≤ w.addr ∧ w.addr < a + n))) } }

/-- ENABLE 0 (R102, R319, R321): the ring stops, its head, tail and expected sequence are 0 and its next pass is the first again;
entries held for it are discarded. -/
def State.stopRing (r : RingRef) (s : State) : State :=
  let s := s.dropWaiting r
  match r with
  | .sq p q => ((((s.dropFetched p q).wrF (Reg.SQ_CFG p q) Fld.SQ_CFG_ENABLE 0).wrN (Reg.SQ_HEAD p q) 0).wrN (Reg.SQ_TAIL p q) 0).wrN (Reg.SQ_EXPECT p q) 0
  | .cq p q =>
    let s := ((s.wrF (Reg.CQ_CFG p q) Fld.CQ_CFG_ENABLE 0).wrN (Reg.CQ_HEAD p q) 0).wrN (Reg.CQ_TAIL p q) 0
    let d := s.partDealer p
    s.putPartDealer p { d with
      heldCompletions := d.heldCompletions.filter (fun c => s.rdF (Reg.SQ_CFG p c.sq) Fld.SQ_CFG_CQ != q)
      phaseFlipped := setErase q d.phaseFlipped }
  | .rq p q => ((s.wrF (Reg.RQ_CFG p q) Fld.RQ_CFG_ENABLE 0).wrN (Reg.RQ_HEAD p q) 0).wrN (Reg.RQ_TAIL p q) 0
  | .scq p q =>
    let s := ((s.wrF (Reg.SCQ_CFG p q) Fld.SCQ_CFG_ENABLE 0).wrN (Reg.SCQ_HEAD p q) 0).wrN (Reg.SCQ_TAIL p q) 0
    let x := s.partServing p
    s.putServing p { x with heldEntries := x.heldEntries.filter (fun e => e.1 != q), scqFlipped := setErase q x.scqFlipped }
  | .msq m => ((s.wrF (Reg.MSQ_CFG m) Fld.MSQ_CFG_ENABLE 0).wrN (Reg.MSQ_HEAD m) 0).wrN (Reg.MSQ_TAIL m) 0
  | .mcq m =>
    let s := ((s.wrF (Reg.MCQ_CFG m) Fld.MCQ_CFG_ENABLE 0).wrN (Reg.MCQ_HEAD m) 0).wrN (Reg.MCQ_TAIL m) 0
    s.updMedia m (fun x => { x with held := [], phaseFlipped := false })
  | .eq d =>
    let s := ((s.wrF (Reg.EQ_CFG d) Fld.EQ_CFG_ENABLE 0).wrN (Reg.EQ_HEAD d) 0).wrN (Reg.EQ_TAIL d) 0
    { s with vision := { s.vision with edges := s.vision.edges.map (fun e => if e.1 = d then (e.1, e.2.forget (.ring 0)) else e) } }
  | .rkq p => ((s.wrF (Reg.RKQ_CFG p) Fld.RKQ_CFG_ENABLE 0).wrN (Reg.RKQ_HEAD p) 0).wrN (Reg.RKQ_TAIL p) 0
  | .tln => ((s.wrF Reg.TLN_CMD_CFG Fld.TLN_CMD_CFG_ENABLE 0).wrN Reg.TLN_CMD_HEAD 0).wrN Reg.TLN_CMD_TAIL 0

/-- The same of any ring; with its own ring Talon forgets which of the commands that wait there a reset has absorbed (R400). -/
def State.disableRing (r : RingRef) (s : State) : State :=
  let s := s.stopRing r
  match r with
  | .tln => { s with talon := { s.talon with absorbed := [] } }
  | _ => s

/-! ### Templates -/

/-- A template with a trick number, a sequence number and a new check value (R159). -/
def preparePacket (b : List Byte) (trick seq : Nat) : List Byte :=
  let w0 := leAt b 0 8 % 2 ^ 32 + seq % 2 ^ 32 * 2 ^ 32
  let w3 := leAt b 24 8 / 2 ^ 48 * 2 ^ 48 + trick % 2 ^ 48
  let b := leBytes 8 w0 ++ (b.drop 8).take 16 ++ leBytes 8 w3 ++ b.drop 32
  let crc := crc32cTagged seq (b.take 40 ++ [0, 0, 0, 0] ++ b.drop 44)
  b.take 40 ++ leBytes 4 crc ++ b.drop 44

end Sys2Proof.Machine
end

