-- ==== Sys2Proof/Machine/MediaOps.lean ====
section
/-! DEFINITION. Machine/MediaOps.lean: the media pipes' records (R281, R287), completion entries (R288, R289), the layout of a frame
ring and its slot status blocks (R292 to R295), and the end of a closing context (R309). -/
namespace Sys2Proof.Machine

/-- The pipe's X-die is too hot to start a picture (R370). -/
def State.pipeHot (s : State) (m : Nat) : Bool := s.power.throttledXdies.contains (m / 8)

/-- A pipe that is owned, has not failed, and whose partition works. -/
def State.pipeWorks (s : State) (m : Nat) : Bool :=
  !s.rdB (Reg.PIPE_INFO m) Fld.PIPE_INFO_FAILED &&
    (match s.pipeOwner m with
     | some p => s.partWorks p
     | none => false)

def State.mediaCtx (s : State) (m c : Nat) : Option MediaCtx := mapGet c (s.mediaPipe m).ctxs
def State.mediaQueue (s : State) (m c : Nat) : List MediaCmd := mapGetD [] c (s.mediaPipe m).queues

def MediaCmd.op (x : MediaCmd) : Nat := bitsAt (x.words.getD 0 0) 0 8
def MediaCmd.ctx (x : MediaCmd) : Nat := bitsAt (x.words.getD 0 0) 8 6
def MediaCmd.tag (x : MediaCmd) : Nat := bitsAt (x.words.getD 0 0) 32 32
def MediaCmd.word (x : MediaCmd) (i : Nat) : Nat := x.words.getD i 0

def isDec (k : CtxKind) : Bool := match k with | .dec _ => true | .enc _ => false

/-- The registers that show a context and its pipe: CTX_STATUS and the counts of PIPE_INFO. -/
def State.showCtx (m c : Nat) (s : State) : State :=
  let x := s.mediaPipe m
  let off := Reg.CTX_STATUS0 m c
  let (state, wait, word) := match mapGet c x.ctxs with
    | none => (0, 0, 0)
    | some k =>
      let st := if k.closing.isSome then 3 else if isDec k.kind then 1 else 2
      match k.kind with
      | .dec d => (st, if d.waiting then 1 else 0, d.next)
      | .enc e =>
        let w := match x.enc with | some r => r.ctx == c && r.waiting.isSome | none => false
        (st, if w then 2 else 0, e.carry)
  let s := (s.wrF off Fld.CTX_STATUS0_STATE state).wrF off Fld.CTX_STATUS0_WAITING wait
  let s := (s.wrF off Fld.CTX_STATUS0_QUEUED (s.mediaQueue m c).length).wrN (Reg.CTX_STATUS1 m c) (word % 2 ^ 32)
  let n := fun b => (x.ctxs.filter (fun e => isDec e.2.kind == b)).length
  (s.wrF (Reg.PIPE_INFO m) Fld.PIPE_INFO_DEC_OPEN (n true)).wrF (Reg.PIPE_INFO m) Fld.PIPE_INFO_ENC_OPEN (n false)

def State.putCtx (m c : Nat) (k : MediaCtx) (s : State) : State :=
  (s.updMedia m (fun x => { x with ctxs := mapSet c k x.ctxs, idleSince := s.now })).showCtx m c
def State.dropCtx (m c : Nat) (s : State) : State :=
  (s.updMedia m (fun x => { x with ctxs := mapDel c x.ctxs, idleSince := s.now })).showCtx m c
def State.putQueue (m c : Nat) (q : List MediaCmd) (s : State) : State :=
  (s.updMedia m (fun x => { x with
    queues := if q.isEmpty then mapDel c x.queues else mapSet c q x.queues, idleSince := s.now })).showCtx m c

/-- Update the decode context of a number. -/
def State.updDec (m c : Nat) (f : DecCtx → DecCtx) (s : State) : State :=
  match s.mediaCtx m c with
  | some k => (match k.kind with | .dec d => s.putCtx m c { k with kind := .dec (f d) } | .enc _ => s)
  | none => s
def State.updEnc (m c : Nat) (f : EncCtx → EncCtx) (s : State) : State :=
  match s.mediaCtx m c with
  | some k => (match k.kind with | .enc e => s.putCtx m c { k with kind := .enc (f e) } | .dec _ => s)
  | none => s
def State.decCtx (s : State) (m c : Nat) : Option DecCtx :=
  match s.mediaCtx m c with
  | some k => (match k.kind with | .dec d => some d | .enc _ => none)
  | none => none
def State.encCtx (s : State) (m c : Nat) : Option EncCtx :=
  match s.mediaCtx m c with
  | some k => (match k.kind with | .enc e => some e | .dec _ => none)
  | none => none

/-! ### Completion entries -/

def State.mcqFull (s : State) (m : Nat) : Bool :=
  let n := 2 ^ s.rdF (Reg.MCQ_CFG m) Fld.MCQ_CFG_SIZE_LOG2
  (s.rdN (Reg.MCQ_TAIL m) + 1) % n == s.rdN (Reg.MCQ_HEAD m) % n

/-- Write an entry at the MCQ's tail with its PHASE bit, then its message (R106, R107, R136). -/
def State.mcqPut (m p : Nat) (b : List Byte) (s : State) : State :=
  let cfg := Reg.MCQ_CFG m
  let log2 := s.rdF cfg Fld.MCQ_CFG_SIZE_LOG2
  let tail := s.rdN (Reg.MCQ_TAIL m)
  let flip := (s.mediaPipe m).phaseFlipped
  let b := leBytes 8 (leAt b 0 8 + boolNat (!flip) * 2 ^ 31) ++ b.drop 8
  match s.ringWrite (s.rdF cfg Fld.MCQ_CFG_SPACE) (p + 1) (ringBase (s.rd64 (Reg.MCQ_BASE_LO m)) 32 log2 + 32 * tail) b with
  | (false, s) => s.stopRing (.mcq m)
  | (true, s) =>
    let next := (tail + 1) % 2 ^ log2
    let s := s.wrN (Reg.MCQ_TAIL m) next
    let s := if next = 0 then s.updMedia m (fun x => { x with phaseFlipped := !flip }) else s
    if s.rdB cfg Fld.MCQ_CFG_IRQ_EN then s.msix (p + 1) (s.rdF cfg Fld.MCQ_CFG_VECTOR) else s

/-- An MCQ entry (R288): discarded while the queue is stopped, held while it is full (R107). -/
def State.mediaEntry (m c st kind tag w1 w2 w3 : Nat) (s : State) : State :=
  let s := if stBlock st = 8 then s.post st else s
  let s := s.wrF (Reg.CTX_STATUS0 m c) Fld.CTX_STATUS0_LAST_STATUS st
  let b := leBytes 8 (st % 2 ^ 16 + kind % 16 * 2 ^ 16 + c % 64 * 2 ^ 20 + tag % 2 ^ 32 * 2 ^ 32)
    ++ leBytes 8 w1 ++ leBytes 8 w2 ++ leBytes 8 w3
  match s.pipeOwner m with
  | none => s
  | some p =>
    if !s.rdB (Reg.MCQ_CFG m) Fld.MCQ_CFG_ENABLE then s
    else if !(s.mediaPipe m).held.isEmpty || s.mcqFull m then s.updMedia m (fun x => { x with held := x.held ++ [b] })
    else s.mcqPut m p b

def State.mediaAck (m c st tag : Nat) (s : State) : State := s.mediaEntry m c st 4 tag 0 0 s.now

/-- The one entry of a command that ends without being executed (R288). -/
def State.endCommand (m : Nat) (x : MediaCmd) (st : Nat) (s : State) : State :=
  if x.op = 4 then s.mediaEntry m x.ctx st 1 x.tag (0x1F + 2 ^ 5 * 2 ^ 8) (x.word 3) s.now
  else if x.op = 5 then s.mediaEntry m x.ctx st 3 x.tag 0 (x.word 4) (0xFFFF * 2 ^ 8 + 0xFFFF * 2 ^ 24)
  else s.mediaAck m x.ctx st x.tag

/-- PICTURES_DECODED and its neighbours, by i (R295 to R308). -/
def State.mediaCount (m i : Nat) (n : Nat := 1) (s : State) : State := s.count (Reg.MED_COUNTER m i) n

/-! ### Frame rings (R292 to R295) -/

def ceilDiv (a b : Nat) : Nat := (a + b - 1) / b
def sampleBytes (depth10 : Bool) : Nat := if depth10 then 2 else 1
def planePitch (w : Nat) (depth10 : Bool) : Nat := ceilDiv (w * sampleBytes depth10) 256 * 256
def rows16 (h : Nat) : Nat := ceilDiv h 16 * 16

def DecCtx.pitch (d : DecCtx) : Nat := planePitch d.maxW d.depth10
def DecCtx.luma (d : DecCtx) : Nat := d.pitch * rows16 d.maxH
def DecCtx.chroma (d : DecCtx) : Nat := if d.codec = 4 then d.luma else d.luma / 2
def DecCtx.mapPitch (d : DecCtx) : Nat := ceilDiv (ceilDiv d.maxW 16) 64 * 8
def DecCtx.slotBytes (d : DecCtx) : Nat :=
  ceilDiv (4096 + d.luma + d.chroma + d.mapPitch * (rows16 d.maxH / 16)) 65536 * 65536
def DecCtx.slotAddr (d : DecCtx) (i : Nat) : Nat := d.base + i * d.slotBytes
def DecCtx.lumaAt (d : DecCtx) (i : Nat) : Nat := d.slotAddr i + 4096
def DecCtx.chromaAt (d : DecCtx) (i : Nat) : Nat := d.lumaAt i + d.luma
def DecCtx.mapAt (d : DecCtx) (i : Nat) : Nat := d.chromaAt i + d.chroma

/-- Write words of a slot status block (R294): the status of the first that cannot be written in part (R131). -/
def State.slotWords (d : DecCtx) (i : Nat) (words : List (Nat × Nat)) (s : State) : Option Nat × State :=
  words.foldl (fun (acc : Option Nat × State) w =>
    let r := acc.2.hbmWrite 2 (d.slotAddr i + 8 * w.1) (leBytes 8 w.2)
    (match acc.1 with | some st => some st | none => r.1, r.2)) (none, s)

/-- Write one word of a slot status block. -/
def State.slotWord (d : DecCtx) (i w v : Nat) (s : State) : State := (s.slotWords d i [(w, v)]).2

def updSlotOf (i : Nat) (f : RingSlot → RingSlot) (d : DecCtx) : DecCtx :=
  { d with slots := d.slots.zipIdx.map (fun e => if e.2 = i then f e.1 else e.1) }

/-- A slot's holds change (R294, R295); a slot that nothing holds is free once its picture has ended. DESIGN CHOICE (log 236): where the word of the
status block cannot be written, the status is posted, and the hold changes in the pipe all the same. -/
def State.setHolds (m c i holds : Nat) (s : State) : State :=
  match s.decCtx m c with
  | none => s
  | some d =>
    let s := s.slotWord d i 7 holds
    let (busy, fmt) := match d.slots[i]? with | some x => (x.decoding, x.fmt) | none => (false, 0)
    let free := holds == 0 && !busy
    let s := if free then (s.blockWrite (d.slotAddr i) [BitVec.ofNat 8 (4 * fmt)]).2 else s
    s.updDec m c (fun d => { updSlotOf i (fun x => { x with holds := holds }) d with waiting := d.waiting && !free })

def State.holdsOf (s : State) (m c i : Nat) : Nat :=
  match s.decCtx m c with
  | some d => (match d.slots[i]? with | some x => x.holds | none => 0)
  | none => 0

/-- Clear a hold of a slot. -/
def State.unhold (m c i bit : Nat) (s : State) : State :=
  let h := s.holdsOf m c i
  if bitOf h bit then s.setHolds m c i (h - 2 ^ bit) else s

/-- A closing context completes when no picture of it runs and no hold but a pipeline's is left (R309). -/
def State.finishClose (m c : Nat) (s : State) : State :=
  match s.mediaCtx m c with
  | none => s
  | some k =>
    match k.closing with
    | none => s
    | some tag =>
      let x := s.mediaPipe m
      let runs := (match x.dec with | some r => r.ctx == c | none => false) || (match x.enc with | some r => r.ctx == c | none => false)
      let held := match k.kind with
        | .dec d => d.unit.isSome || d.slots.any (fun z => z.holds % 2 ^ 16 != 0)
        | .enc _ => false
      if runs || held then s else (s.dropCtx m c).mediaAck m c 0x8000 tag

/-- The slot of a frame whose context has closed (R309): its status block lies before its luma plane, and the holds of the other frames that use it
are all that is left. -/
def State.releaseClosedSlot (f : Frame) (s : State) : State :=
  let rest := s.vision.frames.filter (fun g =>
    g.media == f.media && g.ctx == f.ctx && g.serial == f.serial && g.ringSlot == f.ringSlot && g.phase != .skipped && g.pipe != f.pipe)
  let holds := (rest.map (fun g => 2 ^ (16 + g.pipe))).sum
  let a := f.luma - 4096
  let s := (s.blockWrite (a + 56) (leBytes 8 holds)).2
  if holds = 0 then
    let b := s.hbmRead 2 a 1
    (b.2.2.blockWrite a [BitVec.ofNat 8 (leAt b.2.1 0 1 / 4 * 4)]).2
  else s

/-- The hold of a pipeline ends with its frame (R295); a context opened since keeps its slots. -/
def State.releaseFrameSlot (f : Frame) (s : State) : State :=
  if f.phase = .skipped then s
  else
    match s.mediaCtx f.media f.ctx with
    | some k => if k.serial = f.serial then s.unhold f.media f.ctx f.ringSlot (16 + f.pipe) else s.releaseClosedSlot f
    | none => s.releaseClosedSlot f

end Sys2Proof.Machine
end

