-- ==== Sys2Proof/Machine/PipeOps.lean ====
section
/-! DEFINITION. Machine/PipeOps.lean: result tags (R273, R275) and the pipeline sequencer (R276 to R278): frames, stages and the
resolution of relative addresses. -/
namespace Sys2Proof.Machine

/-! ### Result tags -/

/-- A held request of a partition waits for a tag. -/
def heldWaits (tag : Nat) (r : HeldReq) : Bool := r.desc.segs.any (fun g => g.wait && g.tag == tag)

/-- A post replaces the entry of a tag whole (R273); it is an event for a slot whose HELD request names the tag (R488). The writer of a severity
meets the status of an entry that cannot be written (R123, R131, R136). -/
def State.putTag (sev p tag addr : Nat) (kind : Bool) (state count status : Nat) (s : State) : Option Nat × State :=
  let a := s.rd64 (Reg.TAG_TABLE_LO p) % 2 ^ 48 + 16 * (tag % 2 ^ 16)
  match s.hbmWrite sev a (leBytes 8 (addr % 2 ^ 48 + boolNat kind * 2 ^ 48 + state % 4 * 2 ^ 49)
      ++ leBytes 8 (count % 2 ^ 24 + status % 2 ^ 16 * 2 ^ 32)) with
  | (some st, s) => (some st, s)
  | (none, s) =>
    let hit := (s.partServing p).held.filter (heldWaits tag)
    (none, s.overList (hit.map (fun r => r.desc.slot)) (fun sl t => t.slotEvent sl))

/-- The vision block's own post of a tag. DESIGN CHOICE (log 222): an entry that it cannot write is reported at severity 0x2 and stays as it is. -/
def State.writeTag (p tag addr : Nat) (kind : Bool) (state count status : Nat) (s : State) : State := (s.putTag 2 p tag addr kind state count status).2

def State.postTagFailed (p tag st : Nat) (s : State) : State := s.writeTag p tag 0 false 2 0 st

/-! ### Frames -/

def isFrame (p pipe slot : Nat) (f : Frame) : Bool := f.part == p && f.pipe == pipe && f.slot == slot && f.phase != .skipped

def State.frameAt (s : State) (p pipe slot : Nat) : Option Frame := s.vision.frames.find? (isFrame p pipe slot)
def State.putFrames (l : List Frame) (s : State) : State := { s with vision := { s.vision with frames := l } }
def State.updFrame (p pipe slot : Nat) (f : Frame → Frame) (s : State) : State :=
  s.putFrames (s.vision.frames.map (fun x => if isFrame p pipe slot x then f x else x))

/-- The frames of a pipeline that hold a frame slot. -/
def State.framesOf (s : State) (p pipe : Nat) : List Frame :=
  s.vision.frames.filter (fun f => f.part == p && f.pipe == pipe && f.phase != .skipped)

def State.showFrames (p pipe : Nat) (s : State) : State := s.wrN (Reg.FRAMES_IN_FLIGHT p pipe) (s.framesOf p pipe).length

/-- TAG_BASE + (f mod TAG_COUNT), modulo 65,536 (R276). -/
def State.frameTag (s : State) (f : Frame) : Nat :=
  let r := Reg.PIPE_TAGS f.part f.pipe
  (s.rdF r Fld.PIPE_TAGS_TAG_BASE + f.number % max 1 (s.rdF r Fld.PIPE_TAGS_TAG_COUNT)) % 65536

/-- The frame record (R276). -/
def State.writeFrameRecord (f : Frame) (s : State) : State :=
  let a := s.rd64 (Reg.FRAME_BASE_LO f.part f.pipe) % 2 ^ 48 + 64 * f.slot
  (s.blockWrite a (leBytes 8 f.number ++ leBytes 8 f.firstTs ++ leBytes 8 f.luma ++ leBytes 8 f.chroma ++ leBytes 8 f.map
    ++ leBytes 8 (f.pitch % 2 ^ 32 + f.width % 2 ^ 16 * 2 ^ 32 + f.height % 2 ^ 16 * 2 ^ 48)
    ++ leBytes 8 (f.status % 2 ^ 16 + f.concealed % 2 ^ 32 * 2 ^ 16)
    ++ leBytes 8 (s.frameTag f + f.slot % 4 * 2 ^ 16))).2

def State.forgetJobs (src : JobSource) (s : State) : State :=
  { s with vision := { s.vision with edges := s.vision.edges.map (fun e => (e.1, e.2.forget src)) } }

/-- A frame ends (R278): its slot and its ring slot are released. -/
def State.endFrame (f : Frame) (counter : Nat) (s : State) : State :=
  let s := s.forgetJobs (.pipe f.part f.pipe f.slot)
  let s := s.putFrames (s.vision.frames.filter (fun x => !isFrame f.part f.pipe f.slot x))
  ((s.count counter).showFrames f.part f.pipe).releaseFrameSlot f

/-- A stage ends with a status that fails the frame (R278). -/
def State.failFrame (f : Frame) (st : Nat) (s : State) : State :=
  let s := if stBlock st = 7 then s.post st else s
  ((s.postTagFailed f.part (s.frameTag f) st).endFrame f (Reg.FRAMES_FAILED f.part f.pipe))

/-! ### Relative addresses (R277) -/

def scratchBase (p pipe k : Nat) : Nat := Reg.SCRATCH_BASE0_LO p pipe + 8 * k
def scratchStride (p pipe k : Nat) : Nat := Reg.SCRATCH_STRIDE0 p pipe + 4 * k

/-- An address word of a template: none where its selector is not one of R277. -/
def State.relative (s : State) (f : Frame) (w : Nat) : Option Nat :=
  if bitsAt w 44 4 = 15 ∧ w / 2 ^ 48 = 0 then
    let off := bitsAt w 0 40
    match bitsAt w 40 4 with
    | 0 => some (f.luma + off)
    | 1 => some (f.chroma + off)
    | 2 => some (f.map + off)
    | 3 => some (s.rd64 (Reg.FRAME_BASE_LO f.part f.pipe) % 2 ^ 48 + 64 * f.slot + off)
    | k =>
      if k < 8 then
        some (s.rd64 (scratchBase f.part f.pipe (k - 4)) % 2 ^ 48
          + f.slot * (s.rdN (scratchStride f.part f.pipe (k - 4)) * 4096) + off)
      else none
  else some w

/-- Resolve the words of a template at some indices. -/
def State.resolveWords (s : State) (f : Frame) (at_ : List Nat) (ws : List Nat) : Option (List Nat) :=
  ws.zipIdx.foldr (fun e acc =>
    match acc, (if at_.contains e.2 then s.relative f e.1 else some e.1) with
    | some l, some v => some (v :: l)
    | _, _ => none) (some [])

def wordsOf8 (b : List Byte) : List Nat := (List.range (b.length / 8)).map (fun i => leAt b (8 * i) 8)

/-! ### Graph stages -/

/-- The sequencer's entries for a queue, oldest first. -/
def State.submitsOf (s : State) (p q : Nat) : List PipeSubmit :=
  s.vision.submits.filter (fun x => x.part == p && x.q == q)

/-- Put an entry at the tail of an SQ (R102, R103). -/
def State.submitEntry (p q addr bytes seq : Nat) (s : State) : State :=
  let cfg := Reg.SQ_CFG p q
  let log2 := s.rdF cfg Fld.SQ_CFG_SIZE_LOG2
  let tail := s.rdN (Reg.SQ_TAIL p q)
  let a := ringBase (s.rd64 (Reg.SQ_BASE_LO p q)) 32 log2 + 32 * tail
  let r := s.ringWrite (s.rdF cfg Fld.SQ_CFG_SPACE) (p + 1) a
    (leBytes 8 addr ++ leBytes 8 (bytes % 2 ^ 32 + seq % 2 ^ 32 * 2 ^ 32) ++ leBytes 8 0 ++ leBytes 8 0)
  r.2.wrN (Reg.SQ_TAIL p q) ((tail + 1) % 2 ^ log2)

/-- Entries of the sequencer that wait for room in an SQ are put into it in order. -/
def State.flushSubmits (p q : Nat) (s : State) : State :=
  s.overList ((s.submitsOf p q).filter (fun x => !x.written)) (fun x t =>
    let n := 2 ^ t.rdF (Reg.SQ_CFG p q) Fld.SQ_CFG_SIZE_LOG2
    let earlier := (t.submitsOf p q).any (fun y => !y.written && y.seq != x.seq && decide ((x.seq + 2 ^ 32 - y.seq) % 2 ^ 32 < 2 ^ 31))
    if earlier || (t.rdN (Reg.SQ_TAIL p q) + 1) % n == t.rdN (Reg.SQ_HEAD p q) % n then t
    else
      let t := t.submitEntry p q x.packetAddr x.packetBytes x.seq
      { t with vision := { t.vision with
        submits := t.vision.submits.map (fun y => if y = x then { y with written := true } else y) } })

/-- A graph template as it is submitted for a frame (R276, R277): ARGS resolved, TRICK 0, its SEQ and a new check value. -/
def State.frameGraph (s : State) (f : Frame) (b : List Byte) (seq : Nat) : Option (List Byte) :=
  let n := min (bitsAt (leAt b 8 8) 0 13) ((b.length - 64) / 128)
  let args := (List.range n).flatMap (fun i => (List.range 4).map (fun k => 8 + 16 * i + 12 + k))
  match s.resolveWords f args (wordsOf8 b) with
  | none => none
  | some ws => some (preparePacket (ws.flatMap (leBytes 8)) 0 seq)

/-- Start a GRAPH stage (R276). -/
def State.startGraph (f : Frame) (q addr bytes : Nat) (s : State) : State :=
  if bytes % 64 ≠ 0 ∨ bytes < 64 ∨ 0x100000 < bytes ∨ !s.inTaskSpace f.part addr bytes then s.failFrame f St.VIS_BAD_JOB
  else
    match s.hbmRead 3 addr bytes with
    | (some st, _, s) => s.failFrame f st
    | (none, b, s) =>
      let seq := (s.rdN (Reg.SQ_EXPECT f.part q) + (s.submitsOf f.part q).length) % 2 ^ 32
      match s.frameGraph f b seq with
      | none => s.failFrame f St.VIS_BAD_JOB
      | some pk =>
        let at_ := s.rd64 (Reg.PKT_BASE_LO f.part f.pipe) % 2 ^ 48 + f.slot * 0x100000
        match s.hbmWrite 2 at_ pk with
        | (some st, s) => s.failFrame f st
        | (none, s) =>
          let s := { s with vision := { s.vision with submits := s.vision.submits ++ [PipeSubmit.mk f.part q seq f.pipe f.slot at_ bytes false] } }
          s.flushSubmits f.part q

/-! ### Edge and reckoner stages -/

def State.edgeAt (s : State) (d : Nat) : EdgeEngine := mapGetD .idle d s.vision.edges
def State.putEdge (d : Nat) (e : EdgeEngine) (s : State) : State :=
  { s with vision := { s.vision with edges := mapSet d e s.vision.edges } }
def State.edgeFailed (s : State) (d : Nat) : Bool := s.rdN (Reg.EDGE_STATE d) % 2 == 1
/-- Reckoners fitted and working. -/
def State.reckonerOk (s : State) (r : Nat) : Bool :=
  decide (r < s.fuses.reckonerCount) && s.rdB Reg.VIS_RECKONER (if r = 0 then Fld.VIS_RECKONER_RK0_OK else Fld.VIS_RECKONER_RK1_OK)

/-- Where a frame stands in the order in which frames started. -/
def State.frameRank (s : State) (p pipe slot : Nat) : Nat := s.vision.frames.findIdx (isFrame p pipe slot)

/-- A queued job belongs to a frame that started no later than a given one. -/
def State.startedBy (s : State) (rank : Nat) (q : QueuedJob) : Bool :=
  match q.source with
  | .pipe a b c => decide (s.frameRank a b c ≤ rank)
  | .ring _ => true

/-- Pipeline jobs wait in the order in which their frames started, and one frame's in the order of its stages (R264). -/
def State.queueEdge (s : State) (f : Frame) (new l : List QueuedJob) : List QueuedJob :=
  let r := s.frameRank f.part f.pipe f.slot
  l.takeWhile (s.startedBy r) ++ new ++ l.dropWhile (s.startedBy r)

def State.startEdge (f : Frame) (die count addr : Nat) (s : State) : State :=
  if count = 0 ∨ 64 < count ∨ !(s.partDies f.part).contains die ∨ !s.inTaskSpace f.part addr (128 * count) then
    s.failFrame f St.VIS_BAD_JOB
  else if s.edgeFailed die then s.failFrame f St.VIS_EDGE_FAILED
  else
    match s.hbmRead 3 addr (128 * count) with
    | (some st, _, s) => s.failFrame f st
    | (none, b, s) =>
      let jobs := (List.range count).map (fun i => s.resolveWords f [1, 2, 8, 9] (wordsOf8 (sliceBytes b (128 * i) 128)))
      if jobs.any (fun j => j.isNone) then s.failFrame f St.VIS_BAD_JOB
      else
        let e := s.edgeAt die
        let s := s.putEdge die { e with
          queue := s.queueEdge f (jobs.filterMap (fun j => j.map (fun ws => QueuedJob.mk (.pipe f.part f.pipe f.slot) ws))) e.queue }
        let s := s.updFrame f.part f.pipe f.slot (fun x => { x with jobsLeft := count, error := none })
        (s.requestEngine (.edge die)).wake

def State.startReckon (f : Frame) (addr : Nat) (s : State) : State :=
  if !s.inTaskSpace f.part addr 128 then s.failFrame f St.VIS_BAD_JOB
  else if !(s.reckonerOk 0 || s.reckonerOk 1) then s.failFrame f St.VIS_RECKONER_FAILED
  else
    match s.hbmRead 3 addr 128 with
    | (some st, _, s) => s.failFrame f st
    | (none, b, s) =>
      match s.resolveWords f [1, 2, 7, 8, 10, 12, 14] (wordsOf8 b) with
      | none => s.failFrame f St.VIS_BAD_JOB
      | some ws =>
        let s := { s with vision := { s.vision with
          reckonQueue := s.vision.reckonQueue ++ [(f.part, QueuedJob.mk (.pipe f.part f.pipe f.slot) ws)] } }
        let s := s.updFrame f.part f.pipe f.slot (fun x => { x with jobsLeft := 1, error := none })
        (s.requestEngine (.reckoner (if s.reckonerOk 0 then 0 else 1))).wake

/-! ### Stages in order -/

/-- Start the stage that a frame has reached (R276). At most eight stages precede END. -/
def State.startStage (p pipe slot : Nat) (s : State) : State :=
  match s.frameAt p pipe slot with
  | none => s
  | some f =>
    let a := s.rd64 (Reg.STAGE_BASE_LO p pipe) % 2 ^ 48 + 16 * f.stageIndex
    if !s.inTaskSpace p a 16 then s.failFrame f St.VIS_BAD_JOB
    else
      match s.hbmRead 3 a 16 with
      | (some st, _, s) => s.failFrame f st
      | (none, b, s) =>
        let w := leAt b 0 8
        let f' := { f with phase := FramePhase.stage }
        let s := s.updFrame p pipe slot (fun _ => f')
        if bitsAt w 0 2 = 3 then s.endFrame f' (Reg.FRAMES_DONE p pipe)
        else if f.stageIndex = 8 then s.failFrame f' St.VIS_BAD_JOB
        else
          let addr := bitsAt w 16 48
          match bitsAt w 0 2 with
          | 0 => s.startEdge f' (bitsAt w 2 2) (bitsAt w 8 8) addr
          | 1 => s.startGraph f' (bitsAt w 4 3) addr (bitsAt (leAt b 8 8) 0 32)
          | _ => s.startReckon f' addr

/-- A stage completes, or fails the frame (R276, R278). -/
def State.stageEnded (p pipe slot : Nat) (err : Option Nat) (s : State) : State :=
  match s.frameAt p pipe slot with
  | none => s
  | some f =>
    match err with
    | some st => s.failFrame f st
    | none => (s.updFrame p pipe slot (fun x => { x with stageIndex := x.stageIndex + 1 })).startStage p pipe slot

/-- A job of a stage is DONE; `err` is a status that fails the frame. -/
def State.jobDone (p pipe slot : Nat) (err : Option Nat) (s : State) : State :=
  match s.frameAt p pipe slot with
  | none => s
  | some f =>
    let e := match f.error with | some x => some x | none => err
    let s := s.updFrame p pipe slot (fun x => { x with jobsLeft := x.jobsLeft - 1, error := e })
    if f.jobsLeft ≤ 1 then s.stageEnded p pipe slot e else s

/-- The completion entry of a frame's graph (R276): the sequencer consumes the bound CQ. -/
def State.pipelineGraphEnded (p pipe slot q st : Nat) (s : State) : State :=
  let cq := s.rdF (Reg.SQ_CFG p q) Fld.SQ_CFG_CQ
  let s := s.wrN (Reg.CQ_HEAD p cq) (s.rdN (Reg.CQ_TAIL p cq))
  s.stageEnded p pipe slot (if st = 0x2000 ∨ st = St.DEAL_DECK_EPOCH_OLD then none else some st)

/-- Start a frame whose first row has landed (R276): an EDGE stage, or a table that ends at once, starts now; a GRAPH or RECKON
stage when the last row lands. -/
def State.beginFrame (f : Frame) (s : State) : State :=
  let s := s.writeFrameRecord f
  let r := s.hbmRead 3 (s.rd64 (Reg.STAGE_BASE_LO f.part f.pipe) % 2 ^ 48) 8
  let k := leAt r.2.1 0 1 % 4
  let s := r.2.2
  if r.1.isNone ∧ (k = 1 ∨ k = 2) ∧ !f.done then s.updFrame f.part f.pipe f.slot (fun x => { x with phase := .waitingLast })
  else s.startStage f.part f.pipe f.slot

end Sys2Proof.Machine
end

