-- ==== Sys2Proof/Machine/Crypto.lean ====
section
/-! DEFINITION. Machine/Crypto.lean: SHAKE256 (FIPS 202) and the Ed448 signature check (RFC 8032), as the manifests and reports of R442 to
R459 use them. -/
namespace Sys2Proof.Machine

/-! ### SHAKE256 -/

/-- A 64-bit lane turned left. -/
def laneTurn (n v : Nat) : Nat := v * 2 ^ n % 2 ^ 64 + v / 2 ^ (64 - n)

/-- Lane of column x and row y, both modulo 5. -/
def laneNo (x y : Nat) : Nat := x % 5 + 5 * (y % 5)

/-- The next n bits of the register of FIPS 202, 3.2.5: its low bit, then one step of x^8 + x^6 + x^5 + x^4 + 1. -/
def iotaBits : Nat → Nat → List Nat
  | 0, _ => []
  | n + 1, r => r % 2 :: iotaBits n (if r < 128 then 2 * r else (2 * r) ^^^ 0x171)

/-- ι: seven bits of the register for a round, the j-th at bit 2^j - 1 of lane 0. -/
def iotaWords : Nat → List Nat → List Nat
  | 0, _ => []
  | n + 1, l => ((l.take 7).zipIdx.map (fun e => e.1 * 2 ^ (2 ^ e.2 - 1))).sum :: iotaWords n (l.drop 7)

/-- ρ and π together: the walk of FIPS 202, 3.2.2 from lane (1, 0), where the t-th lane turns by (t + 1)(t + 2)/2 and goes to the next lane of the
walk. Each entry is the lane it fills, the lane it takes and the turn. -/
def rhoPi : Nat → Nat → Nat → Nat → List (Nat × Nat × Nat)
  | 0, _, _, _ => [(0, 0, 0)]
  | n + 1, t, x, y => (laneNo y (2 * x + 3 * y), laneNo x y, (t + 1) * (t + 2) / 2 % 64) :: rhoPi n (t + 1) y ((2 * x + 3 * y) % 5)

/-- One round of Keccak on 25 lanes: θ, then ρ and π, then χ row by row, then ι. -/
def keccakRound (walk : List (Nat × Nat × Nat)) (a : List Nat) (iota : Nat) : List Nat :=
  let parity := (List.range 5).map (fun x => (List.range 5).foldl (fun v y => v ^^^ a.getD (laneNo x y) 0) 0)
  let mixed := a.zipIdx.map (fun e => e.1 ^^^ parity.getD ((e.2 + 4) % 5) 0 ^^^ laneTurn 1 (parity.getD ((e.2 + 1) % 5) 0))
  let moved := walk.foldl (fun l e => l.set e.1 (laneTurn e.2.2 (mixed.getD e.2.1 0))) mixed
  let chi := moved.zipIdx.map (fun e =>
    let row := e.2 / 5
    e.1 ^^^ (moved.getD (laneNo (e.2 + 2) row) 0 &&& ((2 ^ 64 - 1) ^^^ moved.getD (laneNo (e.2 + 1) row) 0)))
  chi.modify 0 (fun v => v ^^^ iota)

/-- The permutation of 24 rounds. -/
def keccak (a : List Nat) : List Nat :=
  let walk := rhoPi 24 0 1 0
  (iotaWords 24 (iotaBits 168 1)).foldl (keccakRound walk) a

/-- XOR a block of 136 bytes into the state. -/
def keccakAbsorb (a : List Nat) (block : List Byte) : List Nat :=
  keccak (a.zipIdx.map (fun e => e.1 ^^^ (if e.2 < 17 then leAt block (8 * e.2) 8 else 0)))

def shakeBlocks : Nat → List Byte → List Nat → List Nat
  | 0, _, a => a
  | n + 1, m, a => shakeBlocks n (m.drop 136) (keccakAbsorb a (m.take 136))

/-- The message with SHAKE's padding. -/
def shakePad (m : List Byte) : List Byte :=
  let z := 136 - (m.length + 1) % 136
  let tail := [0x1F] ++ List.replicate (if z = 136 then 0 else z) (0 : Byte)
  let l := m ++ tail
  l.take (l.length - 1) ++ [l.getLastD 0 ||| 0x80]

def shakeSqueeze : Nat → List Nat → List Byte
  | 0, _ => []
  | n + 1, a => (a.take 17).flatMap (leBytes 8) ++ shakeSqueeze n (keccak a)

/-- SHAKE256 of a message, n bytes of output. -/
def shake256 (m : List Byte) (n : Nat) : List Byte :=
  let p := shakePad m
  (shakeSqueeze ((n + 135) / 136) (shakeBlocks (p.length / 136) p (List.replicate 25 0))).take n

/-! ### Ed448 -/

def edP : Nat := 2 ^ 448 - 2 ^ 224 - 1
/-- d = -39081. -/
def edD : Nat := edP - 39081
def edL : Nat := 2 ^ 446 - 0x8335dc163bb124b65129c96fde933d8d723a70aadc873d6d54a7bb0d

def edSub (a b : Nat) : Nat := (a + (edP - b % edP)) % edP
def edMul (a b : Nat) : Nat := a * b % edP

/-- a to the power e, over the lowest n bits of e. -/
def edPow (a : Nat) : Nat → Nat → Nat
  | 0, _ => 1
  | n + 1, e =>
    let r := edPow a n (e / 2)
    let q := edMul r r
    if e % 2 = 1 then edMul q a else q

/-- A point in projective coordinates. -/
structure EdPoint where
  x : Nat
  y : Nat
  z : Nat
  deriving DecidableEq, Repr

def edZero : EdPoint := ⟨0, 1, 1⟩

def edAdd (p q : EdPoint) : EdPoint :=
  let a := edMul p.z q.z
  let b := edMul a a
  let c := edMul p.x q.x
  let d := edMul p.y q.y
  let e := edMul edD (edMul c d)
  let f := edSub b e
  let g := (b + e) % edP
  let h := edMul ((p.x + p.y) % edP) ((q.x + q.y) % edP)
  ⟨edMul (edMul a f) (edSub (edSub h c) d), edMul (edMul a g) (edSub d c), edMul f g⟩

/-- k times a point, over the lowest n bits of k. -/
def edTimes (p : EdPoint) : Nat → Nat → EdPoint
  | 0, _ => edZero
  | n + 1, k =>
    let r := edTimes p n (k / 2)
    let q := edAdd r r
    if k % 2 = 1 then edAdd q p else q

def edSame (p q : EdPoint) : Bool := edMul p.x q.z == edMul q.x p.z && edMul p.y q.z == edMul q.y p.z

/-- The base point (RFC 8032, 5.2). -/
def edBase : EdPoint :=
  ⟨224580040295924300187604334099896036246789641632564134246125461686950415467406032909029192869357953282578032075146446173674602635247710,
   298819210078481492676017930443930673437544040154080242095928241372331506189835876003536878655418784733982303233503462500531545062832660,
   1⟩

/-- A 57-byte encoding as a point, if it is one. -/
def edDecode (b : List Byte) : Option EdPoint :=
  let n := leAt b 0 57
  let y := n % 2 ^ 455
  let sign := n / 2 ^ 455
  if edP ≤ y then none
  else
    let u := edSub (edMul y y) 1
    let v := edSub (edMul edD (edMul y y)) 1
    let u3v := edMul (edMul u (edMul u u)) v
    let x := edMul u3v (edPow (edMul u3v (edMul (edMul u u) (edMul v v))) 448 ((edP - 3) / 4))
    if edMul v (edMul x x) ≠ u then none
    else if x = 0 ∧ sign = 1 then none
    else some ⟨if x % 2 = sign then x else edSub 0 x, y, 1⟩

/-- The domain of Ed448, pure, with an empty context. -/
def edDomain : List Byte := [0x53, 0x69, 0x67, 0x45, 0x64, 0x34, 0x34, 0x38, 0, 0]

/-- The 57-byte encoding of a point. -/
def edEncode (p : EdPoint) : List Byte :=
  let w := edPow p.z 448 (edP - 2)
  leBytes 57 (edMul p.y w + edMul p.x w % 2 * 2 ^ 455)

/-- The scalar of a 57-byte secret, and the prefix that its signatures hash (RFC 8032, 5.2.5). -/
def edExpand (secret : List Byte) : Nat × List Byte :=
  let h := shake256 secret 114
  (ofLeBytes (h.take 57) % 2 ^ 447 / 4 * 4 + 2 ^ 447, h.drop 57)

/-- The public key of a secret. -/
def ed448Public (secret : List Byte) : List Byte := edEncode (edTimes edBase 448 (edExpand secret).1)

/-- The signature of a message (RFC 8032, 5.2.6). -/
def ed448Sign (secret msg : List Byte) : List Byte :=
  let (s, prefix_) := edExpand secret
  let r := ofLeBytes (shake256 (edDomain ++ prefix_ ++ msg) 114) % edL
  let point := edEncode (edTimes edBase 446 r)
  let k := ofLeBytes (shake256 (edDomain ++ point ++ ed448Public secret ++ msg) 114) % edL
  point ++ leBytes 57 ((r + k * s) % edL)

/-- Ed448, pure, empty context: the cofactored group equation of RFC 8032, 5.2.7. -/
def ed448Verify (key msg sig : List Byte) : Bool :=
  match edDecode key, edDecode (sig.take 57) with
  | some a, some r =>
    let s := leAt sig 57 57
    let k := ofLeBytes (shake256 (edDomain ++ sig.take 57 ++ key.take 57 ++ msg) 114) % edL
    decide (s < edL) && edSame (edTimes (edTimes edBase 446 s) 3 4) (edTimes (edAdd r (edTimes a 446 k)) 3 4)
  | _, _ => false

end Sys2Proof.Machine
end

