-- ==== Sys2Proof/Machine/UpdateOps.lean ====
section
/-! DEFINITION. Machine/UpdateOps.lean: the boot NOR's slots and records, the verification of a slot, the registers of the update engine, and
the resident loader's choice (R439 to R454). -/
namespace Sys2Proof.Machine

/-! ### Slots and boot control records (R439 to R441) -/

def slotEmpty : Nat := 0
def slotStaging : Nat := 1
def slotStaged : Nat := 2
def slotTrial : Nat := 3
def slotConfirmed : Nat := 4
def slotPrevious : Nat := 5
def slotRejected : Nat := 6

/-- NOR offset of slot A (0) or B (1). -/
def slotBase (k : Nat) : Nat := if k = 0 then 0x400000 else 0x2200000
def slotBytes : Nat := 0x1E00000

def slotStateOf (r : BootRecord) (k : Nat) : Nat := if k = 0 then r.stateA else r.stateB
def slotMeldOf (r : BootRecord) (k : Nat) : Nat := if k = 0 then r.meldA else r.meldB
def slotVersionOf (r : BootRecord) (k : Nat) : Nat := if k = 0 then r.versionA else r.versionB
def setSlotState (k v : Nat) (r : BootRecord) : BootRecord := if k = 0 then { r with stateA := v } else { r with stateB := v }
def setSlotMeld (k meld version : Nat) (r : BootRecord) : BootRecord :=
  if k = 0 then { r with meldA := meld, versionA := version } else { r with meldB := meld, versionB := version }

/-- The slot in a state, A before B. -/
def slotIn (r : BootRecord) (v : Nat) : Option Nat :=
  if r.stateA = v then some 0 else if r.stateB = v then some 1 else none

/-- The 64 bytes of a boot control record (R441). -/
def bootRecordBytes (r : BootRecord) : List Byte :=
  leBytes 4 r.seq ++ leBytes 1 (r.stateA % 8 + r.stateB % 8 * 16) ++ leBytes 1 (r.attempts % 4) ++ leBytes 2 0 ++ leBytes 4 r.meldA
    ++ leBytes 4 r.meldB ++ leBytes 4 r.versionA ++ leBytes 4 r.versionB ++ leBytes 4 r.trialMeld ++ leBytes 32 0 ++ leBytes 4 0xC0DED8A5

/-- A bitmap of n bytes in which the listed bits are 0 and all others 1 (R447, R448). -/
def missingBits (n : Nat) (have_ : List Nat) : List Byte :=
  (List.range n).map (fun i => BitVec.ofNat 8 ((List.range 8).foldl (fun a b => if have_.contains (8 * i + b) then a else a + 2 ^ b) 0))

/-- The 2,048 bytes of a staging record (R448). -/
def stagingRecordBytes (r : StagingRecord) : List Byte :=
  leBytes 4 r.seq ++ leBytes 4 r.meld ++ leBytes 2 r.pieces ++ leBytes 6 0 ++ missingBits 960 r.received ++ missingBits 60 r.erased
    ++ List.replicate 1008 0xFF ++ leBytes 4 0x57A6D8A5

/-- Where record RECORD_SEQ of two sectors lies (R441, R448): each goes into the sector that does not hold the newest, behind the records that
the sector has; a full sector is erased first. Answers the sector, and the offset within it. -/
def recordPlace (sectors : Nat × Nat) (size seq : Nat) : Nat × Nat :=
  (if seq % 2 = 1 then sectors.1 else sectors.2, (seq - 1) / 2 % (65536 / size) * size)

/-- Program a record; where it is the first of its sector the sector is erased. -/
def programRecord (sectors : Nat × Nat) (seq : Nat) (b : List Byte) (m : List Host.Cell) : List Host.Cell :=
  let (base, off) := recordPlace sectors b.length seq
  cellsWrite 0xFF (if off = 0 then cellsClear m base 65536 else m) (base + off) b

def bootSectors : Nat × Nat := (0x200000, 0x210000)
def stagingSectors : Nat × Nat := (0x220000, 0x240000)

/-- The bytes of the boot control and staging sectors: the record that manufacture wrote, the first of sector 0, is in force until another is
written (R440, R441). -/
def State.controlCells (s : State) : List Host.Cell :=
  if s.update.boot.seq = 1 then programRecord bootSectors 1 (bootRecordBytes s.update.boot) s.update.control else s.update.control

/-- A new boot control record comes into force (R441). -/
def State.writeBoot (r : BootRecord) (s : State) : State :=
  let r := { r with seq := s.update.boot.seq + 1 }
  { s with update := { s.update with
    boot := r, control := programRecord bootSectors r.seq (bootRecordBytes r) s.controlCells } }

/-- A boot control record as its bytes spell it, valid where COMMIT reads as it must (R441). -/
def bootRecordOf (b : List Byte) : Option BootRecord :=
  if leAt b 60 4 = 0xC0DED8A5 then
    some ⟨leAt b 0 4, bitsAt (leAt b 4 1) 0 3, bitsAt (leAt b 4 1) 4 3, bitsAt (leAt b 5 1) 0 2, leAt b 8 4, leAt b 12 4, leAt b 16 4, leAt b 20 4,
      leAt b 24 4⟩
  else none

/-- The newest valid record, by RECORD_SEQ across both sectors (R441). -/
def newestRecord (m : List Host.Cell) : Option BootRecord :=
  let places := [bootSectors.1, bootSectors.2].flatMap (fun base => (List.range 1024).map (fun i => base + 64 * i))
  places.foldl (fun best off =>
    match bootRecordOf (cellsRead 0xFF m off 64), best with
    | some r, some b => if b.seq < r.seq then some r else some b
    | some r, none => some r
    | none, b => b) none

/-- The resident loader takes the newest valid boot control record (R441, R454). -/
def State.loadBoot (s : State) : State :=
  match newestRecord s.controlCells with
  | some r => { s with update := { s.update with boot := r, control := s.controlCells } }
  | none => s

/-- A staging record comes into force, or its bits are programmed in place (R447, R448). -/
def State.putStaging (r : StagingRecord) (s : State) : State :=
  { s with update := { s.update with
    staging := some r, control := programRecord stagingSectors r.seq (stagingRecordBytes r) s.update.control } }

def State.norBytes (s : State) (off n : Nat) : List Byte := cellsRead 0xFF s.update.nor off n
def State.norWrite (off : Nat) (b : List Byte) (s : State) : State :=
  { s with update := { s.update with nor := cellsWrite 0xFF s.update.nor off b } }
def State.norErase (off n : Nat) (s : State) : State :=
  { s with update := { s.update with nor := cellsClear s.update.nor off n } }

/-! ### The manifest and its parts (R442, R443) -/

structure PartEntry where
  id : Nat
  offset : Nat
  length : Nat
  digest : List Byte
  reserved : Bool
  deriving DecidableEq, Repr

structure Manifest where
  raw : List Byte
  imageVersion : Nat
  security : Nat
  pieces : Nat
  variants : Nat
  minLoader : Nat
  keyIndex : Nat
  revokeBelow : Nat
  key : List Byte
  parts : List PartEntry
  deriving DecidableEq, Repr

def partEntry (b : List Byte) : PartEntry :=
  ⟨leAt b 0 2, leAt b 4 4, leAt b 8 4, sliceBytes b 32 64, leAt b 2 2 != 0 || leAt b 12 20 != 0⟩

def parseManifest (b : List Byte) : Manifest :=
  let n := leAt b 19 1
  ⟨b, leAt b 8 4, leAt b 12 4, leAt b 16 2, leAt b 18 1, leAt b 20 4, leAt b 24 1, leAt b 25 1, sliceBytes b 64 57,
    (List.range n).map (fun i => partEntry (sliceBytes b (128 + 96 * i) 96))⟩

def requiredParts : List Nat := (List.range 9).map (· + 1)

/-- Bytes 0 to 127 + 96 × PART_COUNT, which the signature covers. -/
def signedBytes (m : Manifest) : List Byte := m.raw.take (128 + 96 * m.parts.length)
def signatureOf (m : Manifest) : List Byte := sliceBytes m.raw (128 + 96 * m.parts.length) 114

/-- One part entry: aligned, behind piece 0, within PIECES, of a known PART_ID, reserved bytes 0. -/
def partOk (m : Manifest) (p : PartEntry) : Bool :=
  !p.reserved && p.offset % 4096 == 0 && decide (4096 ≤ p.offset ∧ p.offset + p.length ≤ m.pieces * 4096)
    && (requiredParts.contains p.id || decide (0x100 ≤ p.id ∧ p.id ≤ 0x1FF)) && (p.id != 5 || decide (p.length ≤ 131072))

def partsApart (ps : List PartEntry) : Bool :=
  ps.zipIdx.all (fun a => ps.zipIdx.all (fun b =>
    a.2 == b.2 || (a.1.id != b.1.id && decide (a.1.offset + a.1.length ≤ b.1.offset ∨ b.1.offset + b.1.length ≤ a.1.offset))))

/-- MAGIC, VERSION and layout match R442 and R443. -/
def manifestOk (m : Manifest) : Bool :=
  let b := m.raw
  let n := leAt b 19 1
  leAt b 0 2 == 0xD8A4 && leAt b 2 2 == 1 && leAt b 4 4 != 0 && decide (1 ≤ m.security ∧ m.security ≤ 64)
    && decide (2 ≤ m.pieces ∧ m.pieces ≤ 7680) && decide (9 ≤ n ∧ n ≤ 16) && decide (m.keyIndex ≤ 3)
    && decide (m.revokeBelow ≤ m.keyIndex) && leAt b 26 38 == 0 && leAt b 121 7 == 0
    && m.parts.all (partOk m) && partsApart m.parts && requiredParts.all (fun i => m.parts.any (fun p => p.id == i))
    && (b.drop (128 + 96 * n + 114)).all (fun x => x == 0)

def State.manifestAt (s : State) (k : Nat) : Manifest := parseManifest (s.norBytes (slotBase k) 4096)

/-! ### Verification (R451, R452) -/

/-- Revoked key indices, and the fused hash of a firmware key. -/
def State.keyRevoked (s : State) (i : Nat) : Bool := bitOf s.fuses.revoked i
def fusedKeyHash (i : Nat) : List Byte := (List.range 32).map (fun j => BitVec.ofNat 8 (Config.keyHash i j))

/-- A slot whose content is the module's own image from manufacture. -/
def State.isFactory (s : State) (k : Nat) : Bool := s.update.factory.contains k

/-- SECURITY_VERSION of a slot's image. -/
def State.slotSecurity (s : State) (k : Nat) : Nat := if s.isFactory k then Config.factorySecurity else (s.manifestAt k).security

/-- The checks of R452 in order: none where all pass. `damaged` says that the NOR content of the slot has decayed. The factory image
was signed for this module, so that only the floor and the revocations can fail it. -/
def State.verifySlot (s : State) (k : Nat) (damaged : Bool) : Option Nat :=
  if s.isFactory k then
    if s.keyRevoked Config.factoryKeyIndex then some St.UPD_SIGNATURE_INVALID
    else if Config.factorySecurity < s.fuses.floor then some St.UPD_ROLLBACK_REFUSED
    else if damaged then some St.UPD_DIGEST_MISMATCH else none
  else
    let m := s.manifestAt k
    if !manifestOk m then some St.UPD_DIGEST_MISMATCH
    else if s.keyRevoked m.keyIndex || shake256 m.key 32 != fusedKeyHash m.keyIndex then some St.UPD_SIGNATURE_INVALID
    else if !ed448Verify m.key (signedBytes m) (signatureOf m) then some St.UPD_SIGNATURE_INVALID
    else if m.security < s.fuses.floor then some St.UPD_ROLLBACK_REFUSED
    else if !bitOf m.variants s.fuses.variantCode || decide (s.fuses.loaderVersion < m.minLoader) then some St.UPD_INCOMPATIBLE
    else if damaged || m.parts.any (fun p => shake256 (s.norBytes (slotBase k + p.offset) p.length) 64 != p.digest) then
      some St.UPD_DIGEST_MISMATCH
    else none

/-- The manifest digest of a slot (R442, R459). -/
def State.slotDigest (s : State) (k : Nat) : List Byte :=
  if s.isFactory k then (List.range 64).map (fun i => BitVec.ofNat 8 (Config.factoryDigest i))
  else shake256 (signedBytes (s.manifestAt k)) 64

/-- The core firmware of a slot: part 0x0005 (R388, R443). -/
def State.coreImage (s : State) (k : Nat) : List Byte :=
  if s.isFactory k then (List.range (min 131072 Config.coreImageBytes)).map (fun i => BitVec.ofNat 8 (Config.coreImageByte i))
  else
    match (s.manifestAt k).parts.find? (fun p => p.id == 5) with
    | some p => s.norBytes (slotBase k + p.offset) p.length
    | none => []

/-- The booted slot's core firmware. -/
def State.bootedImage (s : State) : List Byte := s.coreImage (s.rdF Reg.UPD_STATE Fld.UPD_STATE_BOOTED)

/-- CRC-32C of the whole image with its length as the tag (R388). -/
def imageCrc (image : List Byte) : Nat := crc32cTagged image.length image

/-! ### Registers of the update engine -/

/-- ENGINE: verification takes no time of its own here. -/
def State.engineState (s : State) : Nat :=
  if s.update.activating.isSome then 3
  else if (slotIn s.update.boot slotTrial).isSome then 4
  else if (slotIn s.update.boot slotStaging).isSome then 1
  else 0

/-- Whole minutes left to the deadline of R455, as R456's worked example counts them (log 259); 0 outside showdown. -/
def State.remainingMin (s : State) : Nat :=
  if (slotIn s.update.boot slotTrial).isNone then 0
  else
    let due := s.update.stage1At + s.rdF Reg.UPD_CFG Fld.UPD_CFG_SHOWDOWN_MIN * 60000000000
    (due - s.now) / 60000000000

/-- UPD_STATE, the slot registers, the staging registers and the floor show what the NOR and the fuses hold. -/
def State.showUpdate (s : State) : State :=
  let r := s.update.boot
  let s := s.wrF Reg.UPD_STATE Fld.UPD_STATE_ENGINE s.engineState
  let s := s.overList [0, 1] (fun k t =>
    let v := slotStateOf r k
    let verified := [slotStaged, slotTrial, slotConfirmed, slotPrevious].contains v
    let t := t.wrN (Reg.UPD_SLOT_STATE k) (v + (if verified then t.slotSecurity k % 128 else 0) * 256)
    let t := t.wrN (Reg.UPD_SLOT_MELD k) (if v = slotEmpty then 0 else slotMeldOf r k)
    t.wrN (Reg.UPD_SLOT_VERSION k) (if v = slotEmpty then 0 else slotVersionOf r k))
  let s := s.wrF Reg.UPD_SHOWDOWN Fld.UPD_SHOWDOWN_ATTEMPTS r.attempts
  let s := s.wrF Reg.UPD_SHOWDOWN Fld.UPD_SHOWDOWN_REMAINING_MIN (min 0xFFFF s.remainingMin)
  let s := (s.wrF Reg.UPD_FLOOR Fld.UPD_FLOOR_FLOOR s.fuses.floor).wrF Reg.UPD_FLOOR Fld.UPD_FLOOR_REVOKED s.fuses.revoked
  -- the staging registers read the record in force, whatever the slots' states (R448)
  match s.update.staging with
  | some st =>
    let s := (s.wrF Reg.UPD_STAGING Fld.UPD_STAGING_PIECES st.pieces).wrF Reg.UPD_STAGING Fld.UPD_STAGING_RECEIVED st.received.length
    s.overList (List.range 240) (fun w t => t.wrN (Reg.UPD_BITMAP w)
      ((List.range 32).foldl (fun a i => if st.received.contains (32 * w + i) then a + 2 ^ i else a) 0))
  | none => (s.wrN Reg.UPD_STAGING 0).overList (List.range 240) (fun w t => t.wrN (Reg.UPD_BITMAP w) 0)

/-! ### The resident loader (R454) -/

/-- boot(s): the slot runs; what attestation reports of it is kept (R454, R459). -/
def State.bootSlot (k : Nat) (fellBack : Bool) (s : State) : State :=
  let s := (s.wrF Reg.UPD_STATE Fld.UPD_STATE_BOOTED k).wrF Reg.UPD_STATE Fld.UPD_STATE_FELL_BACK (boolNat fellBack)
  let r := s.update.boot
  { s with update := { s.update with
    bootedMeld := slotMeldOf r k, bootedVersion := slotVersionOf r k, manifestDigest := s.slotDigest k } }

/-- The CONFIRMED slot, then the other (R454): false where the loader enters recovery. -/
def State.bootConfirmed (damaged : List Nat) (fellBack : Bool) (s : State) : Bool × State :=
  let r := s.update.boot
  let c := (slotIn r slotConfirmed).getD 0
  let o := 1 - c
  let has := (slotIn r slotConfirmed).isSome
  if has && s.verifySlot c (damaged.contains c) == none then (true, s.bootSlot c fellBack)
  else if [slotStaged, slotPrevious, slotRejected].contains (slotStateOf r o) && s.verifySlot o (damaged.contains o) == none then
    let s := s.post St.UPD_SLOT_CORRUPT
    let s := s.writeBoot (setSlotState c slotRejected (setSlotState o slotConfirmed r))
    (true, s.bootSlot o fellBack)
  else (false, s)

/-- select_slot of R454: false where no slot boots. -/
def State.selectSlot (damaged : List Nat) (s : State) : Bool × State :=
  let r := s.update.boot
  match slotIn r slotTrial with
  | none => s.bootConfirmed damaged false
  | some t =>
    if r.attempts < 3 ∧ s.verifySlot t (damaged.contains t) = none then
      (true, (s.writeBoot { r with attempts := r.attempts + 1 }).bootSlot t false)
    else
      let s := s.writeBoot { setSlotState t slotRejected r with trialMeld := 0, attempts := 0 }
      let s := (s.count (Reg.UPD_COUNTER 5)).post St.UPD_FELL_BACK
      s.bootConfirmed damaged true

/-- Showdown runs while a slot is TRIAL (R455). -/
def State.inShowdown (s : State) : Bool := (slotIn s.update.boot slotTrial).isSome

end Sys2Proof.Machine
end

