-- ==== Sys2Proof/Machine/DealerOps.lean ====
section
/-! DEFINITION. Machine/DealerOps.lean: graphs and tasks as the dealer keeps them (R91 to R94), completion records and entries
(R105 to R107), core-scope reset (R398) and run-time folds (R396). -/
namespace Sys2Proof.Machine

/-! ### Graphs and tasks -/


def State.graphAt (s : State) (uid : Nat) : Option Graph := s.dealer.graphs.find? (fun g => g.uid == uid)

def State.updGraph (uid : Nat) (f : Graph → Graph) (s : State) : State :=
  { s with dealer := { s.dealer with graphs := s.dealer.graphs.map (fun g => if g.uid = uid then f g else g) } }

def State.dropGraph (uid : Nat) (s : State) : State :=
  { s with dealer := { s.dealer with graphs := s.dealer.graphs.filter (fun g => g.uid != uid) } }

def Graph_task (g : Graph) (tid : Nat) : Option Task := g.tasks.find? (fun t => t.desc.id == tid)
def Graph_upd (tid : Nat) (f : Task → Task) (g : Graph) : Graph :=
  { g with tasks := g.tasks.map (fun t => if t.desc.id = tid then f t else t) }

def State.taskAt (s : State) (uid tid : Nat) : Option (Graph × Task) :=
  match s.graphAt uid with
  | some g => (Graph_task g tid).map (fun t => (g, t))
  | none => none

def phaseEnded : TaskPhase → Bool
  | .done | .failed | .skipped => true
  | _ => false

/-- Physical cores of a placement, ascending (R82). -/
def placementCores (p : Placement) : List Nat :=
  (List.range 1536).filter (fun n =>
    bitOf p.dieMask (n / 384) && bitOf p.clusterMask (n / 16 % 24) && bitOf p.coreMask (n % 16))

def placementDies (p : Placement) : List Nat := (List.range 4).filter (bitOf p.dieMask)

def classCode : TaskClass → Nat
  | .trump => 0
  | .prefill => 1
  | .vision => 2
  | .collective => 3
  | .background => 4

def classOf : Nat → Option TaskClass
  | 0 => some .trump
  | 1 => some .prefill
  | 2 => some .vision
  | 3 => some .collective
  | 4 => some .background
  | _ => none

/-- A graph that holds work of a submission, not a sweep or a ballast task (R366, R424). -/
def Graph_counted (g : Graph) : Bool :=
  match g.source with
  | .sweep _ | .ballast _ => false
  | _ => true

/-- The task completion record (R105). DESIGN CHOICE (log 221): a task that FAILED without starting records PLACEMENT, CORES, ENERGY_CHARGED and START_TS
as 0, as R105 has it for a skipped task. -/
def recordBytes (t : Task) : List Byte :=
  let started := !(t.phase == .skipped)
  leBytes 8 (t.status % 2 ^ 16 + t.desc.id % 2 ^ 12 * 2 ^ 16 + (if started then t.placement % 4 else 0) * 2 ^ 28
      + t.flags % 16 * 2 ^ 32 + (if started then t.cores.length % 2 ^ 11 else 0) * 2 ^ 36)
    ++ leBytes 8 (t.stallMax % 2 ^ 32 + (if started then t.charged else 0) % 2 ^ 32 * 2 ^ 32)
    ++ leBytes 8 (if started then t.startTs else 0) ++ leBytes 8 t.endTs

/-- Write a task's completion record when its graph asked for records (R105, R136). -/
def State.writeRecord (g : Graph) (t : Task) (s : State) : State :=
  match g.records with
  | some a => (s.blockWrite (a + 32 * t.desc.id) (recordBytes t)).2
  | none => s

/-- The completion entry of a graph (R106), with its PHASE bit. -/
def completionBytes (c : GraphCompletion) (phase : Bool) : List Byte :=
  leBytes 8 (c.status % 2 ^ 16 + c.sq % 8 * 2 ^ 16 + boolNat phase * 2 ^ 31 + c.seq % 2 ^ 32 * 2 ^ 32)
    ++ leBytes 8 c.tag ++ leBytes 8 c.endTs
    ++ leBytes 8 (c.done % 2 ^ 16 + c.failed % 2 ^ 16 * 2 ^ 16 + c.skipped % 2 ^ 16 * 2 ^ 32)

/-- A CQ is full when one more entry would make its tail equal its head (R107). -/
def State.cqFull (s : State) (p cq : Nat) : Bool :=
  let n := 2 ^ s.rdF (Reg.CQ_CFG p cq) Fld.CQ_CFG_SIZE_LOG2
  (s.rdN (Reg.CQ_TAIL p cq) + 1) % n == s.rdN (Reg.CQ_HEAD p cq) % n

/-- Write a completion entry into the CQ bound to its SQ and send its message (R106, R107, R136); an entry for a stopped
queue is discarded (R321), and one for a full queue is held. -/
def State.postCompletion (p : Nat) (c : GraphCompletion) (s : State) : State :=
  let cq := s.rdF (Reg.SQ_CFG p c.sq) Fld.SQ_CFG_CQ
  let cfg := Reg.CQ_CFG p cq
  if !s.rdB cfg Fld.CQ_CFG_ENABLE then s
  else if s.cqFull p cq then
    let d := s.partDealer p
    s.putPartDealer p { d with heldCompletions := d.heldCompletions ++ [c] }
  else
    let log2 := s.rdF cfg Fld.CQ_CFG_SIZE_LOG2
    let tail := s.rdN (Reg.CQ_TAIL p cq)
    let d := s.partDealer p
    let phase := !d.phaseFlipped.contains cq
    let a := ringBase (s.rd64 (Reg.CQ_BASE_LO p cq)) 32 log2 + 32 * tail
    match s.ringWrite (s.rdF cfg Fld.CQ_CFG_SPACE) (p + 1) a (completionBytes c phase) with
    | (false, s) => s.stopRing (.cq p cq)
    | (true, s) =>
      let next := (tail + 1) % 2 ^ log2
      let s := s.wrN (Reg.CQ_TAIL p cq) next
      let s := if next = 0 then
          s.putPartDealer p { d with phaseFlipped := if phase then setInsert cq d.phaseFlipped else setErase cq d.phaseFlipped }
        else s
      if s.rdB cfg Fld.CQ_CFG_IRQ_EN then s.msix (p + 1) (s.rdF cfg Fld.CQ_CFG_VECTOR) else s

/-- The failed task whose END_TS is earliest, the lower TASK_ID on a tie (R106). -/
def firstFailed (ts : List Task) : Option Task :=
  (ts.filter (fun t => t.phase == .failed)).foldl (fun best t =>
    match best with
    | none => some t
    | some b => if t.endTs < b.endTs ∨ (t.endTs = b.endTs ∧ t.desc.id < b.desc.id) then some t else some b) none

/-- STATUS of a completed graph (R106). -/
def graphStatus (g : Graph) : Nat :=
  match firstFailed g.tasks with
  | some t => t.status
  | none => if g.aborted then St.DEAL_GRAPH_ABORTED else if g.deckOld then St.DEAL_DECK_EPOCH_OLD else 0x2000

def phaseCount (ph : TaskPhase) (g : Graph) : Nat := (g.tasks.filter (fun t => t.phase == ph)).length

/-- When every task of a graph has ended, its completion goes to the CQ, or to the engine that submitted it (R78, R106). -/
def State.finishGraph (uid : Nat) (s : State) : State :=
  match s.graphAt uid with
  | none => s
  | some g =>
    if !g.tasks.all (fun t => phaseEnded t.phase) then s
    else
      let s := s.dropGraph uid
      let st := graphStatus g
      let report := fun (s : State) => { s with dealer := { s.dealer with
        reports := s.dealer.reports ++ [⟨g.part, g.source, g.trick, st,
          (g.tasks.filter (fun t => t.phase == .failed)).map (fun t => (t.status, t.endTs)), true⟩] } }
      match g.source with
      | .sq q =>
        let s := if st = St.DEAL_DECK_EPOCH_OLD then s.post st else s
        s.postCompletion g.part ⟨q, st, g.seq, g.tag, s.now, phaseCount .done g, phaseCount .failed g, phaseCount .skipped g⟩
      | .pipeline pipe slot q =>
        (s.postCompletion g.part
          ⟨q, st, g.seq, g.tag, s.now, phaseCount .done g, phaseCount .failed g, phaseCount .skipped g⟩).pipelineGraphEnded
            g.part pipe slot q st
      | .serving _ => report s
      | .sweep _ => s
      | .ballast _ => s

/-- A successor whose count reaches 0 becomes READY (R92). -/
def readyNow (now : Nat) (t : Task) : Task :=
  if t.count = 0 ∧ t.phase = .waiting then { t with phase := .ready, readyAt := now } else t

/-- Successors of a task that reached DONE (R92). -/
def releaseSuccs (now : Nat) (succs : List Nat) (g : Graph) : Graph :=
  succs.foldl (fun g i => Graph_upd i (fun t => readyNow now { t with count := t.count - 1 }) g) g

/-- Successors of tasks that failed or were skipped (R93): the graph and the tasks that became SKIPPED. -/
def skipSuccs (now : Nat) : Nat → List Nat → Graph → Graph × List Nat
  | 0, _, g => (g, [])
  | _ + 1, [], g => (g, [])
  | fuel + 1, i :: work, g =>
    match Graph_task g i with
    | none => skipSuccs now fuel work g
    | some t =>
      let step := fun (acc : Graph × List Nat) (j : Nat) =>
        match Graph_task acc.1 j with
        | some u =>
          if u.phase ≠ .waiting then acc
          else if u.desc.cls = .collective then
            (Graph_upd j (fun u => readyNow now { u with count := u.count - 1, abortForm := true }) acc.1, acc.2)
          else
            (Graph_upd j (fun u => { u with phase := .skipped, status := St.DEAL_PREDECESSOR_FAILED, endTs := now }) acc.1,
              acc.2 ++ [j])
        | none => acc
      let r := t.desc.succs.foldl step (g, [])
      let r' := skipSuccs now fuel (work ++ r.2) r.1
      (r'.1, r.2 ++ r'.2)

/-- What a task leaves behind when it ends: the check-value contexts it owns are detached (R420), and its collective is no more. -/
def State.detachTask (uid tid : Nat) (s : State) : State :=
  let mine := s.cvOwner.filter (fun e => e.2 == (uid, tid))
  let s := { s with cvOwner := s.cvOwner.filter (fun e => e.2 != (uid, tid)) }
  let s := { s with ndx := { s.ndx with
    issued := s.ndx.issued.filter (fun e => e != (uid, tid))
    collectives := s.ndx.collectives.filter (fun c => !(c.uid == uid && c.tid == tid)) } }
  s.overList mine (fun e t =>
    let off := Reg.CV_CTRL (e.1 / 8) (e.1 % 8)
    let t := t.wrF off Fld.CV_CTRL_OWNER 0
    if t.rdF off Fld.CV_CTRL_STATE = 1 then (t.wrF off Fld.CV_CTRL_STATE 2).wrF off Fld.CV_CTRL_ATTACH 0 else t)

/-- A core returns to the free cores when its task ends. -/
def State.freeCore (n : Nat) (s : State) : State :=
  let c := s.coreAt n
  let s := s.putCore n { c with task := none }
  { s with power := { s.power with idleSince := mapSet n s.now s.power.idleSince } }

/-! ### Run-time folds (R396, R397) -/

/-- Set the deck map bit and the cause of a core. -/
def State.markCore (n cause : Nat) (s : State) : State :=
  let s := s.putBit (Reg.CORE_MAP (n / 32)) (n % 32) (cause == 0)
  let s := s.wrF (Reg.CORE_CAUSE (n / 8)) ⟨4 * (n % 8) + 3, 4 * (n % 8)⟩ cause
  s.ledgerPut (0x2000 + n) 1 cause

def State.markCluster (c cause : Nat) (s : State) : State :=
  let s := s.putBit (Reg.CLUSTER_MAP (c / 32)) (c % 32) (cause == 0)
  s.wrF (Reg.CLUSTER_CAUSE (c / 8)) ⟨4 * (c % 8) + 3, 4 * (c % 8)⟩ cause

/-- DECK_EPOCH increments and is recorded (R394, R428, R434). -/
def State.bumpEpoch (s : State) : State :=
  let e := (s.rdN Reg.DECK_EPOCH + 1) % 2 ^ 32
  let s := (s.wrN Reg.DECK_EPOCH e).wrN Reg.DEAL_DECK_EPOCH e
  (s.ledgerRecord 0 0 5 e true).setAlert 8

/-- The partition of a C-die drains for a reset: a fold ordered for one of its cores or clusters waits for step 6 of R401 (R397). A reset whose
links train is past that step. -/
def State.inReset (s : State) (d : Nat) : Bool := s.mgmt.jobs.any (fun j => j.scope == .partition && j.draining && j.dies.contains d)

/-- Step 2 of R396: the writes that a folded core has queued for global space are dropped at its router, and their flits are counted; how many flits
a write takes the spec does not say (log 150). -/
def State.dropWrites (n : Nat) (s : State) : State :=
  let c := s.coreAt n
  let l := c.queues.filter (fun e => e.2.desc.dstGlobal)
  let k := (l.map (fun e => Config.routerFlits (e.2.desc.elemBytes * (e.2.desc.dims.map (fun d => d.count)).prod))).sum
  let s := s.putCore n { c with queues := c.queues.filter (fun e => !e.2.desc.dstGlobal) }
  (s.count (Reg.FOLDED_DROPS (coreCluster n)) k).ledgerAdd (0x3000 + coreCluster n) 2 k

/-- RS fields of RST commit at the start of a reset of any scope (R406). -/
def State.commitReset (s : State) : State := s.commitRS (inRange 0xF00000 0x100000)

/-- Steps 4 and 5 of R396 for a core without a task: the map, the epoch, the report, and the domain powers down. FOLD is a request at core scope. -/
def State.foldIdle (n cause : Nat) (s : State) : State :=
  if !s.coreWorking n then s
  else if s.inReset (coreDie n) then
    { s with mgmt := { s.mgmt with pendingFolds := s.mgmt.pendingFolds ++ [⟨false, n, cause⟩] } }
  else
    let s := s.markCore n cause
    let s := (s.ledgerAdd (0x1000 + coreDie n) 5).ledgerRecord (0x2000 + n) 0 3 cause true
    let s := s.bumpEpoch.count (Reg.RST_COUNTER 4)
    (s.postAt (0x2000 + n) St.RST_FOLDED_CORE).coreDown n

/-! ### Core-scope reset (R398, R399) -/

/-- The image in a firmware store passes its check: CRC-32C with IMAGE_BYTES as the tag (R388, R399). -/
def CoreState.firmwareOk (c : CoreState) : Bool :=
  !c.fwStarted || crc32cTagged c.fwImageBytes (c.fwBytes.take c.fwImageBytes) == c.fwImageCrc

/-- The firmware check of a core-scope reset (R399): up to two unicasts repair the store, else the core is folded with cause 0x7. -/
def State.checkFirmware (n : Nat) (s : State) : State :=
  let c := s.coreAt n
  if !s.coreWorking n || c.firmwareOk then s
  else if c.fwBadCasts < 2 then s.putCore n { c with fwBytes := s.bootedImage, fwBadCasts := 0 }
  else s.foldIdle n 7

/-- Core-scope reset of one core (R398): its units, stream queues, vector registers, weight buffers and loaded body tag; its store and its firmware
store are kept, and the latter is checked. -/
def State.resetCore (n : Nat) (s : State) : State :=
  let s := s.putCore n (s.coreAt n).cleared
  { s with power := { s.power with idleSince := mapSet n s.now s.power.idleSince } }

/-- A core-scope reset that covers a cluster, every working core of it, resets its check-value unit (R420). -/
def State.resetCovered (cores : List Nat) (s : State) : State :=
  s.overList ((cores.map coreCluster).eraseDups) (fun u t =>
    if ((List.range 16).map (· + 16 * u)).all (fun n => cores.contains n || !t.coreWorking n) then t.resetCheckUnit u else t)

/-- Core-scope resets of a task's or a command's cores: each is counted and reported (R398, R411), and then the firmware checks follow (R399). -/
def State.resetCores (cores : List Nat) (s : State) : State :=
  if cores.isEmpty then s
  else
    let s := s.commitReset
    let s := s.overList cores (fun n t => ((t.resetCore n).count (Reg.RST_COUNTER 0)).post St.RST_RESET_DONE)
    (s.resetCovered cores).overList cores (fun n t => t.checkFirmware n)

/-- A task fails (R94): its cores are stopped and reset, its record is written with the first failure status, and its
successors follow R93. -/
def State.failTask (uid tid status : Nat) (s : State) : State :=
  match s.taskAt uid tid with
  | none => s
  | some (_, t) =>
    if phaseEnded t.phase then s
    else
      let started := phaseStarted t.phase
      let cores := if started then t.cores else []
      let flags := cores.foldl (fun f n => f ||| (s.coreAt n).flags) 0
      let stall := cores.foldl (fun f n => max f (s.coreAt n).stalls) 0
      let s := s.resetCores cores
      let s := (s.endBoost (uid, tid)).detachTask uid tid
      let s := if stBlock status = 2 then s.post status else s
      let s := s.updGraph uid (Graph_upd tid (fun t =>
        { t with phase := .failed, status := status, endTs := s.now, reserved := [], flags := flags, stallMax := stall }))
      match s.graphAt uid with
      | none => s
      | some g =>
        let r := skipSuccs s.now (2 * g.tasks.length + 1) [tid] g
        let s := s.updGraph uid (fun _ => r.1)
        let s := s.overList (tid :: r.2) (fun i u =>
          match Graph_task r.1 i with
          | some x => (if i = tid then u else u.post x.status).writeRecord r.1 x
          | none => u)
        (if r.1.tasks.any (fun x => phaseReady x.phase) then s.wake else s).finishGraph uid

/-- The task loading or running on a core fails. -/
def State.failOnCore (n status : Nat) (s : State) : State :=
  match (s.coreAt n).task with
  | some (u, t) => s.failTask u t status
  | none => s

/-! ### Run-time folds of busy cores (R396, R397, R130) -/

/-- Fold a core at run time (R396): its queued writes are dropped, and the task on it fails. -/
def State.foldCore (n cause : Nat) (s : State) : State :=
  if !s.coreWorking n then s
  else if s.inReset (coreDie n) then s.foldIdle n cause
  else ((s.commitReset.dropWrites n).failOnCore n St.DEAL_CORE_FOLDED).foldIdle n cause

/-- Fold a cluster at run time: its 16 cores are folded with cause 0x8 (R386, R396). -/
def State.foldCluster (c cause : Nat) (s : State) : State :=
  if !s.clusterWorking c then s
  else if s.inReset (c / 24) then
    { s with mgmt := { s.mgmt with pendingFolds := s.mgmt.pendingFolds ++ [⟨true, c, cause⟩] } }
  else
    let cores := (List.range 16).map (· + 16 * c)
    let live := cores.filter s.coreWorking
    let s := s.commitReset.overList live (fun n t => t.dropWrites n)
    let s := s.overList live (fun n t => t.failOnCore n St.DEAL_CORE_FOLDED)
    let s := s.overList (live.filter s.coreWorking) (fun n t => t.markCore n 8)
    let s := s.markCluster c cause
    let s := (s.ledgerAdd (0x1000 + c / 24) 6).ledgerRecord (0x3000 + c) 0 3 cause true
    let s := s.bumpEpoch.count (Reg.RST_COUNTER 4)
    let s := s.postAt (0x3000 + c) St.RST_FOLDED_CLUSTER
    (s.overList cores (fun n t => t.coreDown n)).clusterDown c

/-- What SRAM_FOLD orders for an address whose uncorrectable events have reached the limit (R130): a core, or a cluster. -/
def State.sramFolds (a : Nat) (s : State) : Option (Nat ⊕ Nat) :=
  let lim := s.rdF Reg.MEM_CFG Fld.MEM_CFG_SRAM_FOLD
  match regionOf a with
  | .store n _ => if lim ≠ 0 ∧ lim ≤ mapGetD 0 n s.memory.sramUe then some (.inl n) else none
  | .pool c _ => if lim ≠ 0 ∧ lim ≤ mapGetD 0 (2048 + c) s.memory.sramUe then some (.inr c) else none
  | _ => none

/-- SRAM_FOLD: a core store or a pool whose uncorrectable events reach the limit is folded (R130). -/
def State.sramFold (a : Nat) (s : State) : State :=
  match s.sramFolds a with
  | some (.inl n) => s.foldCore n 6
  | some (.inr c) => s.foldCluster c 6
  | none => s

/-- The task on a core fails under an SRAM status; the store or pool may be folded (R130). The router drops the folded resource's writes before the
task's cores are reset (R396). -/
def State.failSram (core a status : Nat) (s : State) : State :=
  if status = St.MEM_SRAM_UNCORRECTABLE then
    let s := match s.sramFolds a with
      | some (.inl n) => if s.inReset (coreDie n) || !s.coreWorking n then s else s.dropWrites n
      | some (.inr c) => if s.inReset (c / 24) || !s.clusterWorking c then s
          else s.overList (((List.range 16).map (· + 16 * c)).filter s.coreWorking) (fun n t => t.dropWrites n)
      | none => s
    (s.failOnCore core status).sramFold a
  else s.failOnCore core status

end Sys2Proof.Machine
end

