-- ==== Sys2Proof/Machine/Flags.lean ====
section
/-! DEFINITION. Machine/Flags.lean: the FLAGS register of a core (R48), the exact values that flags are computed from, and the
flags of an arithmetic result (R56, R64). -/
namespace Sys2Proof.Machine

/-- An operand's exact value: a NaN, an infinity, or (-1)^neg × m × 2^e. Zero keeps its sign. -/
inductive Exact where
  | nan
  | inf (neg : Bool)
  | fin (neg : Bool) (m : Nat) (e : Int)
  deriving DecidableEq, Repr

def numIsNan : Exact → Bool
  | .nan => true
  | _ => false

/-- Flag bits of the FLAGS register (R48). -/
def flagNanIn : Nat := 1
def flagInvalid : Nat := 2
def flagOverflow : Nat := 4
def flagSat : Nat := 8

/-- Flags of an arithmetic result (R48, R64): NAN_IN for a NaN operand, INVALID for a NaN out of none.
DESIGN CHOICE (log 214): a fused multiply-add of infinity × 0 and a NaN sets NAN_IN and not INVALID; IEEE 754-2019 leaves that INVALID open. -/
def arithFlags (ins : List Exact) (out : Exact) (rounded : Nat) : Nat :=
  let nanIn := ins.any numIsNan
  (if nanIn then flagNanIn else 0) + (if numIsNan out && !nanIn then flagInvalid else 0) + rounded

end Sys2Proof.Machine
end

