-- ==== Sys2Proof/Machine/Operands.lean ====
section
/-! DEFINITION. Machine/Operands.lean: the number formats of R49 to R52: how each is read as an exact number, and how an exact
number is rounded into each (R55 to R62), with the flags of R48. -/
namespace Sys2Proof.Machine

/-- Exponent bits, mantissa bits and bias of a floating-point format (R49). -/
def floatShape : NumFmt → Nat × Nat × Nat
  | .fp4 => (2, 1, 1)
  | .e4m3 => (4, 3, 7)
  | .e5m2 => (5, 2, 15)
  | .bf16 => (8, 7, 127)
  | .fp16 => (5, 10, 15)
  | _ => (8, 23, 127)

/-- Bytes of an element; MXFP4 elements are packed two to a byte (R51). -/
def NumFmt_bytes : NumFmt → Nat
  | .fp4 => 1
  | .e4m3 | .e5m2 | .int8 | .uint8 => 1
  | .bf16 | .fp16 => 2
  | .fp32 | .int32 => 4

def isIntFmt : NumFmt → Bool
  | .int8 | .uint8 | .int32 => true
  | _ => false

/-- Width of an integer format and whether it is signed. -/
def intShape : NumFmt → Nat × Bool
  | .int8 => (8, true)
  | .uint8 => (8, false)
  | _ => (32, true)

def numOfInt (i : Int) : Exact := .fin (decide (i < 0)) i.natAbs 0

/-- The exact value of an encoding (R49). -/
def decodeNum (f : NumFmt) (bits : Nat) : Exact :=
  if isIntFmt f then
    let (w, signed) := intShape f
    if signed then numOfInt (toSigned w bits) else .fin false (bits % 2 ^ w) 0
  else
    let (eb, mb, bias) := floatShape f
    let man := bits % 2 ^ mb
    let ex := bits / 2 ^ mb % 2 ^ eb
    let neg := bits / 2 ^ (mb + eb) % 2 == 1
    let top := 2 ^ eb - 1
    if f = .e4m3 ∧ ex = top ∧ man = 7 then .nan
    else if f ≠ .e4m3 ∧ f ≠ .fp4 ∧ ex = top then (if man = 0 then .inf neg else .nan)
    else if ex = 0 then .fin neg man (1 - (bias : Int) - mb)
    else .fin neg (man + 2 ^ mb) ((ex : Int) - bias - mb)

/-- Canonical NaN of a format (R52). -/
def canonicalNan : NumFmt → Nat
  | .fp32 => 0x7FC00000
  | .bf16 => 0x7FC0
  | .fp16 => 0x7E00
  | .e4m3 => 0x7F
  | .e5m2 => 0x7E
  | _ => 0

def signBit (f : NumFmt) : Nat := let (eb, mb, _) := floatShape f; 2 ^ (eb + mb)

/-- Encoding of an infinity; E4M3 and FP4 have none. -/
def infBits (f : NumFmt) (neg : Bool) : Nat :=
  let (eb, mb, _) := floatShape f
  (2 ^ eb - 1) * 2 ^ mb + (if neg then signBit f else 0)

/-- Encoding of the largest finite value (R49). -/
def maxFiniteBits (f : NumFmt) (neg : Bool) : Nat :=
  let (eb, mb, _) := floatShape f
  (match f with
   | .e4m3 => 0x7E
   | .fp4 => 7
   | _ => (2 ^ eb - 1) * 2 ^ mb - 1) + (if neg then signBit f else 0)

/-- The rounding modes of RMODE (R48). -/
inductive RMode where
  | nearestEven | towardZero | stochastic | nearestAway
  deriving DecidableEq, Repr

def rmodeOf : Nat → RMode
  | 0 => .nearestEven
  | 1 => .towardZero
  | 2 => .stochastic
  | _ => .nearestAway

/-- m ÷ 2^s rounded to an integer; a stochastic draw is 16 fraction bits (R60). -/
def roundShift (mode : RMode) (draw m s : Nat) : Nat :=
  let q := m / 2 ^ s
  let r := m % 2 ^ s
  match mode with
  | .towardZero => q
  | .nearestEven => if 2 * r < 2 ^ s then q else if 2 ^ s < 2 * r then q + 1 else q + q % 2
  | .nearestAway => if 2 * r < 2 ^ s then q else q + 1
  | .stochastic => (m * 2 ^ 16 + draw * 2 ^ s) / 2 ^ (s + 16)

/-- m × 2^e rounded to a multiple of 2^q: the multiple. -/
def roundAt (mode : RMode) (draw m : Nat) (e q : Int) : Nat :=
  if q ≤ e then m * 2 ^ (e - q).toNat else roundShift mode draw m (q - e).toNat

/-- Magnitude m × 2^e rounded to a float format as if its exponent had no upper bound: significand and its exponent. -/
def roundSig (f : NumFmt) (mode : RMode) (draw m : Nat) (e : Int) : Nat × Int :=
  let (_, mb, bias) := floatShape f
  let top : Int := (Nat.log2 m : Int) + e
  let emin : Int := 1 - (bias : Int)
  let q : Int := max top emin - mb
  let k := roundAt mode draw m e q
  if 2 ^ (mb + 1) ≤ k then (k / 2, q + 1) else (k, q)

/-- Is a rounded magnitude above the format's largest finite value? -/
def exceeds (f : NumFmt) (k : Nat) (q : Int) : Bool :=
  let (_, mb, bias) := floatShape f
  let code := if k < 2 ^ mb then (k : Int) else (q + mb + bias) * 2 ^ mb + ((k : Int) - 2 ^ mb)
  decide ((maxFiniteBits f false : Int) < code)

/-- Encoding of a rounded magnitude that the format holds. -/
def encodeSig (f : NumFmt) (neg : Bool) (k : Nat) (q : Int) : Nat :=
  let (_, mb, bias) := floatShape f
  (if k < 2 ^ mb then k else ((q + mb + bias).toNat) * 2 ^ mb + (k - 2 ^ mb)) + (if neg then signBit f else 0)

/-- A result and the flags it sets. -/
structure Rounded where
  bits : Nat
  flags : Nat
  deriving DecidableEq, Repr

/-- Conversion of an exact value to a format under ROUND (R59, R60, R61, R57).
DESIGN CHOICE (log 215): the table of R61 has no INT32 target, and INT32 is converted to by the row of INT8 and UINT8. -/
def convertNum (f : NumFmt) (mode : RMode) (satEn : Bool) (draw : Nat) (x : Exact) : Rounded :=
  if isIntFmt f then
    let (w, signed) := intShape f
    let lo : Int := if signed then -(2 : Int) ^ (w - 1) else 0
    let hi : Int := if signed then (2 : Int) ^ (w - 1) - 1 else (2 : Int) ^ w - 1
    match x with
    | .nan => ⟨0, flagNanIn + flagInvalid⟩
    | .inf neg => ⟨ofSigned w (if neg then lo else hi), flagSat⟩
    | .fin neg m e =>
      let k : Int := (roundAt mode draw m e 0 : Nat)
      let v := if neg then -k else k
      if v < lo then ⟨ofSigned w lo, flagSat⟩
      else if hi < v then ⟨ofSigned w hi, flagSat⟩
      else ⟨ofSigned w v, 0⟩
  else
    match x with
    | .nan => ⟨canonicalNan f, flagNanIn⟩
    | .inf neg =>
      if satEn then ⟨maxFiniteBits f neg, flagSat⟩
      else if f = .e4m3 then ⟨canonicalNan f, flagOverflow⟩
      else ⟨infBits f neg, 0⟩
    | .fin neg m e =>
      if m = 0 then ⟨if neg then signBit f else 0, 0⟩
      else
        let (k, q) := roundSig f mode draw m e
        if exceeds f k q then
          if mode = .towardZero then ⟨maxFiniteBits f neg, 0⟩
          else if satEn then ⟨maxFiniteBits f neg, flagSat⟩
          else if f = .e4m3 then ⟨canonicalNan f, flagOverflow⟩
          else ⟨infBits f neg, flagOverflow⟩
        else ⟨encodeSig f neg k q, 0⟩

/-- Arithmetic rounding: nearest, ties to even; overflow gives an infinity and OVERFLOW (R55, R56, R64). -/
def roundArith (f : NumFmt) (x : Exact) : Rounded :=
  match x with
  | .nan => ⟨canonicalNan f, 0⟩
  | .inf neg => ⟨infBits f neg, 0⟩
  | .fin neg m e => convertNum f .nearestEven false 0 (.fin neg m e)

/-! ### Exact arithmetic -/

def numNeg : Exact → Exact
  | .nan => .nan
  | .inf n => .inf !n
  | .fin n m e => .fin (!n) m e

/-- Exact product; infinity × 0 is a NaN. -/
def numMul : Exact → Exact → Exact
  | .nan, _ => .nan
  | _, .nan => .nan
  | .inf a, .inf b => .inf (a != b)
  | .inf a, .fin b m _ => if m = 0 then .nan else .inf (a != b)
  | .fin a m _, .inf b => if m = 0 then .nan else .inf (a != b)
  | .fin a m e, .fin b n g => .fin (a != b) (m * n) (e + g)

def signedInt (neg : Bool) (m : Nat) : Int := if neg then -(m : Int) else m

/-- Exact sum; opposite infinities give a NaN; an exact zero is -0 only from two negative zeros. -/
def numAdd : Exact → Exact → Exact
  | .nan, _ => .nan
  | _, .nan => .nan
  | .inf a, .inf b => if a = b then .inf a else .nan
  | .inf a, .fin _ _ _ => .inf a
  | .fin _ _ _, .inf b => .inf b
  | .fin a m e, .fin b n g =>
    let lo := min e g
    let v := signedInt a m * 2 ^ (e - lo).toNat + signedInt b n * 2 ^ (g - lo).toNat
    if v = 0 then .fin (a && b) 0 lo else .fin (decide (v < 0)) v.natAbs lo

/-- Exact comparison of two numbers that are no NaN: a < b. -/
def numLt : Exact → Exact → Bool
  | .inf a, .inf b => a && !b
  | .inf a, _ => a
  | _, .inf b => !b
  | .fin a m e, .fin b n g =>
    let lo := min e g
    decide (signedInt a m * 2 ^ (e - lo).toNat < signedInt b n * 2 ^ (g - lo).toNat)
  | _, _ => false

/-- Equality of two numbers that are no NaN; zeros of both signs are equal. -/
def numEq (a b : Exact) : Bool := !numIsNan a && !numIsNan b && !numLt a b && !numLt b a

def numNegative : Exact → Bool
  | .nan => false
  | .inf n => n
  | .fin n _ _ => n

/-- An arithmetic operation on an FP32 or BF16 lane: computed at FP32 and, for BF16, rounded once more (R64). -/
def laneResult (bf : Bool) (ins : List Exact) (out : Exact) : Rounded :=
  let r := roundArith .fp32 out
  let r := if bf then let r2 := roundArith .bf16 (decodeNum .fp32 r.bits); ⟨r2.bits, r.flags ||| r2.flags⟩ else r
  ⟨r.bits, arithFlags ins out 0 ||| r.flags⟩

/-- Minimum of two numbers; -0 is less than +0 (R64). -/
def numMin (a b : Exact) : Exact :=
  if numIsNan a || numIsNan b then .nan
  else if numLt a b then a
  else if numLt b a then b
  else if numNegative a then a else b

def numMax (a b : Exact) : Exact :=
  if numIsNan a || numIsNan b then .nan
  else if numLt b a then a
  else if numLt a b then b
  else if numNegative a then b else a

/-! ### FP32 arithmetic on encodings, each operation rounded once (R64) -/

/-- A quotient with enough bits for one rounding to FP32: 64 fraction bits and a sticky bit. -/
def numDiv : Exact → Exact → Exact
  | .nan, _ => .nan
  | _, .nan => .nan
  | .inf _, .inf _ => .nan
  | .inf a, .fin b _ _ => .inf (a != b)
  | .fin a _ _, .inf b => .fin (a != b) 0 0
  | .fin a m e, .fin b n g =>
    if n = 0 then (if m = 0 then .nan else .inf (a != b))
    else .fin (a != b) (2 * (m * 2 ^ 64 / n) + (if m * 2 ^ 64 % n = 0 then 0 else 1)) (e - g - 65)

def f32 (b : Nat) : Exact := decodeNum .fp32 b
def f32Of (x : Exact) : Nat := (roundArith .fp32 x).bits
def f32Add (a b : Nat) : Nat := f32Of (numAdd (f32 a) (f32 b))
def f32Sub (a b : Nat) : Nat := f32Of (numAdd (f32 a) (numNeg (f32 b)))
def f32Mul (a b : Nat) : Nat := f32Of (numMul (f32 a) (f32 b))
def f32Div (a b : Nat) : Nat := f32Of (numDiv (f32 a) (f32 b))
def f32Lt (a b : Nat) : Bool := numLt (f32 a) (f32 b)
def f32Le (a b : Nat) : Bool := !numIsNan (f32 a) && !numIsNan (f32 b) && !f32Lt b a
def f32Min (a b : Nat) : Nat := f32Of (numMin (f32 a) (f32 b))
def f32Max (a b : Nat) : Nat := f32Of (numMax (f32 a) (f32 b))
def f32OfNat (n : Nat) : Nat := f32Of (.fin false n 0)
def f32OfInt (i : Int) : Nat := f32Of (numOfInt i)
/-- 0.5 -/
def f32Half : Nat := 0x3F000000
/-- Whole part of a number that is not negative. -/
def wholePart : Exact → Nat
  | .fin false m e => if 0 ≤ e then m * 2 ^ e.toNat else m / 2 ^ (-e).toNat
  | _ => 0

/-! ### Stochastic rounding (R60) -/

/-- One step of the linear-feedback generator. -/
def lfsrStep (s : Nat) : Nat :=
  let fb := (s / 2 ^ 31 + s / 2 ^ 21 + s / 2 + s) % 2
  s / 2 + fb * 2 ^ 31

def lfsrSteps : Nat → Nat → Nat
  | 0, s => s
  | n + 1, s => lfsrSteps n (lfsrStep s)

/-- The draw of one element: the low 16 bits of the state, which then advances 16 steps. -/
def lfsrDraw (mode : RMode) (s : Nat) : Nat × Nat :=
  if mode = .stochastic then (s % 2 ^ 16, lfsrSteps 16 s) else (0, s)

/-- Convert a list of values in ascending lane order: encodings, flags, generator state (R60, R61).
DESIGN CHOICE (log 169): every element of a stochastic conversion takes a draw, also one that cannot round. -/
def convertAll (f : NumFmt) (mode : RMode) (satEn : Bool) (lfsr : Nat) : List Exact → List Nat × Nat × Nat
  | [] => ([], 0, lfsr)
  | x :: t =>
    let (d, l) := lfsrDraw mode lfsr
    let r := convertNum f mode satEn d x
    let (bs, fl, l) := convertAll f mode satEn l t
    (r.bits :: bs, r.flags ||| fl, l)

/-! ### MXFP4 (R50, R51, R62) -/

/-- Value of an E8M0 scale byte: 2^(e - 127); 0xFF is a NaN (R50). -/
def scaleNum (e : Nat) : Exact := if e = 0xFF then .nan else .fin false 1 ((e : Int) - 127)

/-- Floor of log2 of a magnitude m × 2^e, m not 0. -/
def magLog2 (m : Nat) (e : Int) : Int := (Nat.log2 m : Int) + e

/-- Conversion of a block to one MXFP4 block: element encodings, scale byte, flags, generator state (R62). -/
def mxBlock (mode : RMode) (lfsr : Nat) (xs : List Exact) : List Nat × Nat × Nat × Nat :=
  let special := xs.any (fun x => match x with | .fin _ _ _ => false | _ => true)
  let tops := xs.filterMap (fun x => match x with | .fin _ m e => if m = 0 then none else some (magLog2 m e) | _ => none)
  let ex : Int := match tops with
    | [] => -127
    | t :: ts => max (-127) (min 127 (ts.foldl max t - 2))
  let scaled := xs.map (fun x => match x with | .fin n m e => Exact.fin n m (e - ex) | y => y)
  let (bs, fl, l) := convertAll .fp4 mode true lfsr scaled
  if special then
    (xs.map (fun _ => 0), 0xFF, (if xs.any numIsNan then flagNanIn else 0) + flagInvalid, l)
  else (bs, (ex + 127).toNat, fl, l)

/-- Elements of a block of an element plane: byte j holds element 2j low and 2j + 1 high (R51). -/
def nibbles (l : List Byte) : List Nat := l.flatMap (fun b => [b.toNat % 16, b.toNat / 16])

def packNibbles : List Nat → List Byte
  | a :: b :: t => BitVec.ofNat 8 (a % 16 + 16 * (b % 16)) :: packNibbles t
  | [a] => [BitVec.ofNat 8 (a % 16)]
  | [] => []

end Sys2Proof.Machine
end

