-- ==== Sys2Proof/Machine/SpecialFns.lean ====
section
/-! DEFINITION. Machine/SpecialFns.lean: the special-function unit's results (R66, R67): the exact value of a function to more than a hundred bits,
the FP32 values that the bound of R66 leaves, and the one of them that the unit gives, which is a free value. -/
namespace Sys2Proof.Machine

def sfuCode : SfuFn → Nat
  | .exp => 0 | .exp2 => 1 | .log => 2 | .log2 => 3 | .recip => 4 | .rsqrt => 5 | .sigmoid => 6 | .tanh => 7

/-! ### Elementary functions in fixed point with 128 fraction bits -/

/-- One. -/
def fixOne : Nat := 2 ^ 128
/-- ln 2 with 128 fraction bits. -/
def fixLn2 : Nat := 0xB17217F7D1CF79ABC9E3B39803F2F6AF

/-- x and its first terms of the exponential series after the one given: term k is the one before times x ÷ k. -/
def expTerms (x : Nat) : Nat → Nat → Nat → Nat
  | 0, _, _ => 0
  | fuel + 1, k, term => term + expTerms x fuel (k + 1) (term * x / (k * fixOne))

/-- e^x for x from 0 to ln 2. -/
def fixExp (x : Nat) : Nat := expTerms x 36 1 fixOne

/-- The terms z^(2k+1) ÷ (2k+1) of the inverse hyperbolic tangent of z. -/
def atanhTerms (z2 : Nat) : Nat → Nat → Nat → Nat
  | 0, _, _ => 0
  | fuel + 1, k, pow => pow / k + atanhTerms z2 fuel (k + 2) (pow * z2 / fixOne)

/-- ln t for t from 1 to 2. -/
def fixLn (t : Nat) : Nat :=
  let z := (t - fixOne) * fixOne / (t + fixOne)
  2 * atanhTerms (z * z / fixOne) 42 1 z

/-- A dyadic number m × 2^e in fixed point, rounded toward minus infinity. -/
def toFix (neg : Bool) (m : Nat) (e : Int) : Int :=
  let sh := e + 128
  let v : Int := if 0 ≤ sh then (m * 2 ^ sh.toNat : Nat) else (m / 2 ^ (-sh).toNat : Nat)
  if neg then -v else v

/-- e^(x), x in fixed point, as m × 2^k. -/
def expOfFix (x : Int) : Nat × Int :=
  let n := x / fixLn2
  (fixExp (x - n * fixLn2).toNat, n - 128)

/-- ln(m × 2^e) in fixed point, m not 0. -/
def lnOfNum (m : Nat) (e : Int) : Int :=
  let k := Nat.log2 m
  ((k : Int) + e) * fixLn2 + (fixLn (m * fixOne / 2 ^ k) : Nat)

/-- Quotient a ÷ b of dyadic numbers with 256 bits more than b has. -/
def dyadicDiv (a : Nat) (ea : Int) (b : Nat) (eb : Int) : Exact :=
  let sh := Nat.log2 b + 256
  .fin false (a * 2 ^ sh / b) (ea - eb - sh)

def dyadicAdd (a : Nat) (ea : Int) (b : Nat) (eb : Int) : Nat × Int :=
  let lo := min ea eb
  (a * 2 ^ (ea - lo).toNat + b * 2 ^ (eb - lo).toNat, lo)

/-- Arguments beyond these bounds give results that no bound of R66 tells apart from the result at the bound. -/
def clampFix (lim : Nat) (x : Int) : Int := max (-((lim * fixOne : Nat) : Int)) (min x (lim * fixOne : Nat))

/-- An argument of finite magnitude in fixed point, held to ±512 first so that no shift is long. -/
def argFix (neg : Bool) (m : Nat) (e : Int) : Int :=
  if 9 ≤ magLog2 m e then (if neg then -((512 * fixOne : Nat) : Int) else (512 * fixOne : Nat)) else toFix neg m e

/-- The value of a function at (-1)^neg × m × 2^e, m not 0, correct to more than 100 bits. -/
def sfuExact (fn : SfuFn) (neg : Bool) (m : Nat) (e : Int) : Exact :=
  let x := argFix neg m e
  match fn with
  | .exp => let r := expOfFix x; .fin false r.1 r.2
  | .exp2 => let r := expOfFix (x * fixLn2 / fixOne); if x % fixOne = 0 then .fin false 1 (x / fixOne) else .fin false r.1 r.2
  | .log => let l := lnOfNum m e; .fin (decide (l < 0)) l.natAbs (-128)
  | .log2 => let l := lnOfNum m e * fixOne / fixLn2; .fin (decide (l < 0)) l.natAbs (-128)
  | .recip => match dyadicDiv 1 0 m e with | .fin _ a k => .fin neg a k | y => y
  | .rsqrt => let r := expOfFix (-(lnOfNum m e) / 2); .fin false r.1 r.2
  | .sigmoid =>
    let r := expOfFix (clampFix 256 x)
    let d := dyadicAdd 1 0 r.1 r.2
    dyadicDiv r.1 r.2 d.1 d.2
  | .tanh =>
    let r := expOfFix (clampFix 256 (2 * x.natAbs))
    let d := dyadicAdd 1 0 r.1 r.2
    match dyadicDiv (r.1 * 2 ^ (r.2 + 128).toNat - fixOne) (-128) d.1 d.2 with
    | .fin _ a k => .fin neg a k
    | y => y

/-! ### The results that the bounds allow -/

/-- Encodings in ascending order of value, -0 just below +0: those of positive numbers from 0 up, those of negative ones from -1 down. -/
def orderOf (bits : Nat) : Int := if bits < 2 ^ 31 then bits else -1 - ((bits : Int) - 2 ^ 31)
def ofOrder (i : Int) : Nat := if 0 ≤ i then i.toNat else (-1 - i).toNat + 2 ^ 31

/-- The largest finite encoding that is not above an exact number, in that order. -/
def floorOrder : Exact → Int
  | .fin false m e =>
    if m = 0 then 0 else
      let r := roundSig .fp32 .towardZero 0 m e
      if exceeds .fp32 r.1 r.2 then 0x7F7FFFFF else encodeSig .fp32 false r.1 r.2
  | .fin true m e =>
    if m = 0 then 0 else
      let r := roundSig .fp32 .towardZero 0 m e
      if exceeds .fp32 r.1 r.2 then -1 - 0x7F7FFFFF
      else
        let c : Int := encodeSig .fp32 false r.1 r.2
        if numEq (.fin false r.1 r.2) (.fin false m e) then -1 - c else -2 - c
  | _ => 0

/-- The smallest finite encoding that is not below an exact number. -/
def ceilOrder (x : Exact) : Int := -1 - floorOrder (numNeg x)

/-- How far a result may lie from the exact one (R66): a number of ulps, never less than 2 × 2^-149 in the subnormal range; an absolute error for
logarithms about 1. The ulp is widened by 2^-60 of itself, more than the exact value's own error. -/
def sfuBound (fn : SfuFn) (neg : Bool) (m : Nat) (e : Int) (y : Exact) : Exact :=
  let top : Int := match y with
    | .fin _ a k => if a = 0 then -1000 else magLog2 a k
    | _ => 0
  let ulps := fun (k : Nat) => if top < -126 then Exact.fin false (2 ^ 61 + 1) (-209) else .fin false (k * (2 ^ 60 + 1)) (top - 83)
  let near := numLt (.fin false 1 1) (.fin neg m e) || numLt (.fin neg m e) (.fin false 1 (-1))
  match fn with
  | .exp2 => ulps 2
  | .exp => ulps 3
  | .log2 => if near then ulps 2 else .fin false (2 ^ 60 + 1) (-82)
  | .log => if near then ulps 3 else .fin false (2 ^ 60 + 1) (-82)
  | .recip => ulps 1
  | .rsqrt => ulps 2
  | .sigmoid => ulps 4
  | .tanh => if magLog2 m e < -12 then ulps 1 else ulps 4

/-- The result for a finite input that is not 0: infinity where the exact result lies beyond the FP32 range (R67), else one of the values within the
bound of R66, which one being a free value. -/
def sfuFinite (fn : SfuFn) (bits : Nat) (neg : Bool) (m : Nat) (e : Int) : Rounded :=
  let y := if fn = .tanh ∧ magLog2 m e < -12 then Exact.fin neg m e else sfuExact fn neg m e
  let mag := match y with | .fin _ a k => Exact.fin false a k | z => z
  if numLt (f32 0x7F7FFFFF) mag then ⟨infBits .fp32 (numNegative y), flagOverflow⟩
  else
    let b := sfuBound fn neg m e y
    let lo := ceilOrder (numAdd y (numNeg b))
    let hi := floorOrder (numAdd y b)
    ⟨ofOrder (lo + (Config.sfu (sfuCode fn) bits % ((hi - lo).toNat + 1) : Nat)), 0⟩

/-- A result that is a NaN out of no NaN. -/
def sfuNan : Rounded := ⟨0x7FC00000, flagInvalid⟩

/-- FP32 result of a special function (R66, R67). -/
def sfuResult (fn : SfuFn) (bits : Nat) : Rounded :=
  match decodeNum .fp32 bits with
  | .nan => ⟨0x7FC00000, flagNanIn⟩
  | .inf neg =>
    (match fn with
     | .exp | .exp2 => if neg then ⟨0, 0⟩ else ⟨0x7F800000, 0⟩
     | .log | .log2 => if neg then sfuNan else ⟨0x7F800000, 0⟩
     | .recip => ⟨if neg then 0x80000000 else 0, 0⟩
     | .rsqrt => if neg then sfuNan else ⟨0, 0⟩
     | .sigmoid => if neg then ⟨0, 0⟩ else ⟨0x3F800000, 0⟩
     | .tanh => ⟨if neg then 0xBF800000 else 0x3F800000, 0⟩)
  | .fin neg m e =>
    if m = 0 then
      (match fn with
       | .exp | .exp2 => ⟨0x3F800000, 0⟩
       | .log | .log2 => ⟨0xFF800000, 0⟩
       | .recip | .rsqrt => ⟨if neg then 0xFF800000 else 0x7F800000, 0⟩
       | .sigmoid => ⟨0x3F000000, 0⟩
       | .tanh => ⟨if neg then 0x80000000 else 0, 0⟩)
    else
      (match fn with
       | .log | .log2 | .rsqrt => if neg then sfuNan else sfuFinite fn bits neg m e
       | _ => sfuFinite fn bits neg m e)

end Sys2Proof.Machine
end

