-- ==== Sys2Proof/Machine/Cores.lean ====
section
/-! DEFINITION. Machine/Cores.lean: what a task body does on one core: the array (R53 to R58), the vector unit (R63 to R65,
R487), the special-function unit (R66 to R68), the control unit and the core control page (R48), the stream engine (R70) and
its tap walker (R72 to R75). -/
namespace Sys2Proof.Machine

/-! ### Access by a core -/

/-- A core works on a task that is RUNNING, in a partition that works (R15, R91). -/
def State.coreRuns (s : State) (n : Nat) : Bool :=
  match (s.coreAt n).task with
  | some (u, t) =>
    (match s.taskAt u t with
     | some (g, x) => (x.phase == .running) && s.partWorks g.part
     | none => false)
  | none => false

/-- The control unit stalls at a wait whose count has not been reached (R70). -/
def CoreState.stalled (c : CoreState) : Bool :=
  match c.waiting with
  | some (q, k) => decide (mapGetD 0 q c.done < k)
  | none => false

/-- A core issues bundles of a body: it has not halted, and no wait stalls it (R47, R70). -/
def State.bodyRuns (s : State) (n : Nat) : Bool := s.coreRuns n && !(s.coreAt n).halted && !(s.coreAt n).stalled

/-- The partition of the task on a core. -/
def State.corePart (s : State) (n : Nat) : Option Nat :=
  match (s.coreAt n).task with
  | some (u, _) => (s.graphAt u).map (fun g => g.part)
  | none => none

def State.updCore (n : Nat) (f : CoreState → CoreState) (s : State) : State := s.putCore n (f (s.coreAt n))

def State.raise (n fl : Nat) (s : State) : State := s.updCore n (fun c => { c with flags := c.flags ||| fl })

/-- Read the core's own store (R43, R44, R130), then go on with the bytes; an address past its end or an uncorrectable word
fails the task. -/
def State.useStore (n off len : Nat) (k : List Byte → State → State) (s : State) : State :=
  if storeSize < off + len then s.failOnCore n St.DEAL_ADDRESS_FAULT
  else
    match s.sramRead (storeAddr n off) len with
    | (some st, s) => s.failSram n (storeAddr n off) st
    | (none, s) => k (s.peek (storeAddr n off) len) s

/-- Write the core's own store. -/
def State.putStore (n off : Nat) (bytes : List Byte) (s : State) : State :=
  if storeSize < off + bytes.length then s.failOnCore n St.DEAL_ADDRESS_FAULT
  else
    match s.sramWrite (storeAddr n off) bytes with
    | (some st, s) => s.failSram n (storeAddr n off) st
    | (none, s) => s

/-- A collision of writes in a core's store is counted there, and one in a pool for its cluster (R46). -/
def State.collide (w : Waits) (s : State) : State :=
  let s := s.overList w.storeCollisions (fun e t =>
    t.updCore e.1 (fun c => { c with storeCollisions := satAdd 0xFFFFFFFF c.storeCollisions e.2 }))
  s.overList w.poolCollisions (fun e t => { t with memory := { t.memory with
    poolCollisions := mapSet e.1 (satAdd 0xFFFFFFFF (mapGetD 0 e.1 t.memory.poolCollisions) e.2) t.memory.poolCollisions } })

/-- Cycles for which a core stalled (R42). -/
def State.stalled (n cycles : Nat) (s : State) : State := s.updCore n (fun c => { c with stalls := satAdd 0xFFFFFFFF c.stalls cycles })

/-- Cycles waited and collisions met, as R42 and R46 count them. -/
def State.waited (n : Nat) (w : Waits) (s : State) : State := (s.stalled n w.stalls).collide w

/-- Elements of a format in a byte list. -/
def elements (f : NumFmt) (l : List Byte) : List Nat :=
  match f with
  | .fp4 => nibbles l
  | _ => (List.range (l.length / NumFmt_bytes f)).map (fun i => leAt l (i * NumFmt_bytes f) (NumFmt_bytes f))

def packElements (f : NumFmt) (l : List Nat) : List Byte :=
  match f with
  | .fp4 => packNibbles l
  | _ => l.flatMap (leBytes (NumFmt_bytes f))

/-! ### The array -/

def isFp8 : NumFmt → Bool
  | .e4m3 | .e5m2 => true
  | _ => false

/-- Operand pairs of R53: rows of activations K and columns N; none for a pair that the array does not accept. -/
def arrayShape (act w : NumFmt) : Option (Nat × Nat) :=
  match act, w with
  | .fp4, .fp4 => some (64, 32)
  | .int8, .int8 | .uint8, .int8 => some (32, 32)
  | .bf16, .bf16 | .fp16, .fp16 => some (32, 16)
  | a, b => if isFp8 a && (isFp8 b || b == .fp4) then some (32, 32) else none

/-- Bytes of elements and of scales of a weight tile (R53). -/
def tileBytes (act w : NumFmt) : Nat × Nat :=
  match w with
  | .fp4 => if act = .fp4 then (1024, 64) else (512, 32)
  | _ => (1024, 0)

/-- Exact sum of a list; the empty sum is +0. -/
def exactSum : List Exact → Exact
  | [] => .fin false 0 0
  | x :: t => t.foldl numAdd x

/-- Discard the bits of a product below 2^q toward zero (R55). -/
def truncBelow (q : Int) : Exact → Exact
  | .fin n m e => if q ≤ e then .fin n m e else .fin n (m / 2 ^ (q - e).toNat) q
  | x => x

/-- Products of BF16 and FP16, aligned to the largest product exponent of the pass (R55). -/
def alignProducts (ps : List Exact) : List Exact :=
  let tops := ps.filterMap (fun x => match x with | .fin _ m e => if m = 0 then none else some (magLog2 m e) | _ => none)
  match tops with
  | [] => ps
  | t :: ts => ps.map (truncBelow (ts.foldl max t - 34))

/-- A pass that holds infinity × 0, or sums infinities of both signs, is invalid, whatever else it holds (R56). -/
def passInvalid (row col : List Exact) : Bool :=
  let ps := row.zipWith numMul col
  (row.zipWith (fun a b => numIsNan (numMul a b) && !numIsNan a && !numIsNan b) col).any id
    || (ps.contains (.inf true) && ps.contains (.inf false))

/-- The pass sum of one column (R55, R56): FP32 encoding or exact integer, and flags. -/
def passSum (act w : NumFmt) (row col : List Exact) (rowScales colScales : List Exact) : Int × Nat :=
  let ps := row.zipWith numMul col
  if isIntFmt act then
    ((row.zipWith (fun a b => match a, b with
      | .fin s m _, .fin t k _ => signedInt s m * signedInt t k
      | _, _ => 0) col).sum, 0)
  else
    let out :=
      match w with
      | .fp4 => exactSum ((List.range (row.length / 32)).map (fun b =>
          numMul (exactSum ((ps.drop (32 * b)).take 32)) (numMul (rowScales.getD b (.fin false 1 0)) (colScales.getD b (.fin false 1 0)))))
      | .bf16 | .fp16 => exactSum (alignProducts ps)
      | _ => exactSum ps
    let r := roundArith .fp32 out
    let nanIn := (row ++ col ++ rowScales ++ colScales).any numIsNan
    ((r.bits : Int), (if nanIn then flagNanIn else 0) + (if passInvalid row col then flagInvalid else 0) + r.flags)

/-- ARRAY_OP (R53, R55): one activation row against the active tile; its sums are on their way. -/
def State.arrayRow (n : Nat) (op : ArrayOp) (s : State) : State :=
  let t := (s.coreAt n).active
  let w := op.wFmt
  match arrayShape op.actFmt w with
  | none => s.failOnCore n St.DEAL_CORE_FAULT
  | some (k, cols) =>
    let actBytes := if op.actFmt = .fp4 then 32 else k * NumFmt_bytes op.actFmt
    let scaleBytes := if op.actFmt = .fp4 then 2 else 0
    s.useStore n op.acts actBytes (fun a s => s.useStore n op.actScales scaleBytes (fun sc s =>
      let row := (elements op.actFmt a).map (decodeNum op.actFmt)
      let rowScales := sc.map (fun b => scaleNum b.toNat)
      let welems := (elements w t.elems).map (decodeNum w)
      let wscales := t.scales.map (fun b => scaleNum b.toNat)
      let per := if op.actFmt = .fp4 then 2 else if w = .fp4 then 1 else 0
      let sums := (List.range cols).map (fun c =>
        passSum op.actFmt w row ((List.range k).map (fun i => welems.getD (c * k + i) (decodeNum w 0)))
          rowScales ((List.range per).map (fun b => wscales.getD (c * per + b) (.fin false 1 (-127)))))
      s.updCore n (fun c => { c with landing := c.landing ++
        [⟨op.acc, op.add, isIntFmt w, sums, c.cycles + (if w = .bf16 ∨ w = .fp16 then 48 else 40) * cycleUnit⟩] })))

/-- One column lands (R54, R55, R57): overwrite, or add with one further rounding or an INT32 clamp. -/
def landColumn (add int : Bool) (old : Nat) (sum : Int × Nat) : Nat × Nat :=
  if int then
    let v := (if add then toSigned 32 old else 0) + sum.1
    let lo : Int := -(2 : Int) ^ 31
    let hi : Int := (2 : Int) ^ 31 - 1
    if v < lo then (ofSigned 32 lo, flagSat) else if hi < v then (ofSigned 32 hi, flagSat) else (ofSigned 32 v, 0)
  else if add then
    let a := decodeNum .fp32 old
    let b := decodeNum .fp32 sum.1.toNat
    let out := numAdd a b
    let r := roundArith .fp32 out
    -- a NaN pass sum has set its own flags: only the accumulator is an operand here
    (r.bits, sum.2 ||| (if numIsNan b then arithFlags [a] a 0 else arithFlags [a, b] out r.flags))
  else (sum.1.toNat, sum.2)

/-- The row that lands: the oldest, or a younger one that is ready before every older one (R54). -/
def landingRow (row : Nat) (l : List Landing) : Option Landing :=
  match l[row]? with
  | some x => if (l.take row).all (fun e => decide (x.readyAt < e.readyAt)) then some x else none
  | none => none

/-- ARRAY_RESULT_LAND (R54): a row's sums reach their accumulators. Overwrite mode writes them without reading.
DESIGN CHOICE (log 171): a row's flags are raised when it lands. -/
def State.landRow (n row : Nat) (s : State) : State :=
  match landingRow row (s.coreAt n).landing with
  | none => s
  | some l =>
    let s := s.updCore n (fun c => { c with landing := c.landing.eraseIdx row })
    s.useStore n l.acc (if l.add then 4 * l.sums.length else 0) (fun old s =>
      let rs := (List.range l.sums.length).map (fun i => landColumn l.add l.int (leAt old (4 * i) 4) (l.sums.getD i (0, 0)))
      (s.raise n (rs.foldl (fun f r => f ||| r.2) 0)).putStore n l.acc (rs.flatMap (fun r => leBytes 4 r.1)))

/-- WEIGHT_TILE_LOAD (R54): elements and scales go to the shadow buffer. -/
def State.loadTile (n : Nat) (t : TileLoad) (s : State) : State :=
  match arrayShape t.actFmt t.wFmt with
  | none => s.failOnCore n St.DEAL_CORE_FAULT
  | some _ =>
    let (e, sc) := tileBytes t.actFmt t.wFmt
    s.useStore n t.elems e (fun es s => s.useStore n t.scales sc (fun ss s =>
      s.updCore n (fun c => { c with shadow := ⟨es, ss⟩ })))

/-- ARRAY_SWAP (R54). -/
def State.swapTiles (n : Nat) (s : State) : State :=
  s.updCore n (fun c => { c with active := c.shadow, shadow := c.active })

/-- The output stage on one column (R58): FP32 value of step 2 and its flags. -/
def outputColumn (int : Bool) (acc : Nat) (scale bias : Option Nat) : Exact × Nat :=
  let v := if int then decodeNum .fp32 (convertNum .fp32 .nearestEven false 0 (numOfInt (toSigned 32 acc))).bits
    else decodeNum .fp32 acc
  let sc := match scale with | some b => decodeNum .fp32 b | none => .fin false 1 0
  let bi := match bias with | some b => decodeNum .fp32 b | none => .fin false 0 0
  let out := numAdd (numMul v sc) bi
  let r := roundArith .fp32 out
  (decodeNum .fp32 r.bits, arithFlags [v, sc, bi] out r.flags)

/-- OUTPUT_STAGE (R58 to R61).
DESIGN CHOICE (log 216): a NaN that step 2 makes of operands that are none is a NaN operand of step 3's conversion, and sets NAN_IN there beside the
INVALID of step 2. -/
def State.outputStage (n : Nat) (op : OutputOp) (s : State) : State :=
  match op.fmt with
  | .fp4 | .int32 => s.failOnCore n St.DEAL_CORE_FAULT
  | _ =>
    let sc := op.scale
    let bi := op.bias
    s.useStore n op.acc (4 * op.cols) (fun acc s =>
    s.useStore n (sc.getD 0) (if sc.isSome then 4 * op.cols else 0) (fun scale s =>
    s.useStore n (bi.getD 0) (if bi.isSome then 4 * op.cols else 0) (fun bias s =>
      let vs := (List.range op.cols).map (fun i => outputColumn op.accInt (leAt acc (4 * i) 4)
        (if sc.isSome then some (leAt scale (4 * i) 4) else none) (if bi.isSome then some (leAt bias (4 * i) 4) else none))
      let c := s.coreAt n
      let (bits, fl, lfsr) := convertAll op.fmt (rmodeOf c.rmode) (c.satEn == 1) c.lfsr (vs.map (fun v => v.1))
      let s := s.updCore n (fun c => { c with lfsr := lfsr, flags := c.flags ||| fl ||| vs.foldl (fun f v => f ||| v.2) 0 })
      s.putStore n op.dst (packElements op.fmt bits))))

/-! ### The vector unit -/

def laneBits : LaneFmt → Nat
  | .bf16 => 16
  | _ => 32

def lanesOf (f : LaneFmt) : Nat := 2048 / laneBits f

def State.vreg (s : State) (n r : Nat) : Nat := mapGetD 0 r (s.coreAt n).vregs

def State.putVreg (n r v : Nat) (s : State) : State := s.updCore n (fun c => { c with vregs := mapSet r (v % 2 ^ 2048) c.vregs })

/-- Lanes of w bits of a register value, and back. -/
def lanes (w k v : Nat) : List Nat := (List.range k).map (fun i => bitsAt v (w * i) w)
def ofLanes (w : Nat) : List Nat → Nat
  | [] => 0
  | x :: t => x % 2 ^ w + 2 ^ w * ofLanes w t

def laneNum (f : LaneFmt) (b : Nat) : Exact := match f with | .bf16 => decodeNum .bf16 b | _ => decodeNum .fp32 b

/-- INT32 lane arithmetic (R63): results are taken modulo 2^32; a shift by 32 or more is a free value. -/
def intLane (op : VecOp) (a b : Nat) : Option Nat :=
  match op with
  | .add => some ((a + b) % 2 ^ 32)
  | .sub => some ((a + 2 ^ 32 - b % 2 ^ 32) % 2 ^ 32)
  | .mul => some (a * b % 2 ^ 32)
  | .shl => some (if b < 32 then a * 2 ^ b % 2 ^ 32 else Config.wideShift 0 a b % 2 ^ 32)
  | .shr => some (if b < 32 then a / 2 ^ b else Config.wideShift 1 a b % 2 ^ 32)
  | .sra => some (if b < 32 then ofSigned 32 (toSigned 32 a / 2 ^ b) else Config.wideShift 2 a b % 2 ^ 32)
  | .and => some (a &&& b)
  | .or => some (a ||| b)
  | .xor => some (a ^^^ b)
  | _ => none

/-- FP32 and BF16 lane arithmetic (R64): the exact result and its operands. -/
def floatLane (op : VecOp) (a b c : Exact) : Option (Exact × List Exact) :=
  match op with
  | .add => some (numAdd a b, [a, b])
  | .sub => some (numAdd a (numNeg b), [a, b])
  | .mul => some (numMul a b, [a, b])
  | .fma => some (numAdd (numMul a b) c, [a, b, c])
  | .min => some (numMin a b, [a, b])
  | .max => some (numMax a b, [a, b])
  | .abs => some (match a with | .nan => .nan | .inf _ => .inf false | .fin _ m e => .fin false m e, [a])
  | .neg => some (numNeg a, [a])
  | _ => none

/-- VECTOR_ARITHMETIC (R63, R64): an operation that the lane format does not have is a bundle that the core cannot decode. -/
def State.vectorArith (n : Nat) (f : LaneFmt) (op : VecOp) (a b c dst : Nat) (s : State) : State :=
  let w := laneBits f
  let la := lanes w (lanesOf f) (s.vreg n a)
  let lb := lanes w (lanesOf f) (s.vreg n b)
  let lc := lanes w (lanesOf f) (s.vreg n c)
  match f with
  | .int32 =>
    (match intLane op 0 0 with
     | none => s.failOnCore n St.DEAL_CORE_FAULT
     | some _ => s.putVreg n dst (ofLanes w (la.zipWith (fun x y => (intLane op x y).getD 0) lb)))
  | _ =>
    (match floatLane op .nan .nan .nan with
     | none => s.failOnCore n St.DEAL_CORE_FAULT
     | some _ =>
       let rs := (List.range (lanesOf f)).map (fun i =>
         match floatLane op (laneNum f (la.getD i 0)) (laneNum f (lb.getD i 0)) (laneNum f (lc.getD i 0)) with
         | some (out, ins) => laneResult (f == LaneFmt.bf16) ins out
         | none => ⟨0, 0⟩)
       (s.raise n (rs.foldl (fun fl r => fl ||| r.flags) 0)).putVreg n dst (ofLanes w (rs.map (fun r => r.bits))))

/-- The low bits of a register are a result; what lies above them is a free value, the same for the same inputs (R76). -/
def State.putLow (n dst bits v : Nat) (inputs : List Nat) (s : State) : State :=
  s.putVreg n dst (v % 2 ^ bits + 2 ^ bits * (Config.laneTail inputs % 2 ^ (2048 - bits)))

/-- VECTOR_CONVERT (R59 to R61, R63): elements of the source packed from the register's low end, and so the results. -/
def State.vectorConvert (n : Nat) (src dst : NumFmt) (a d : Nat) (s : State) : State :=
  if src = .fp4 ∨ dst = .fp4 then s.failOnCore n St.DEAL_CORE_FAULT
  else
    let ws := 8 * NumFmt_bytes src
    let wd := 8 * NumFmt_bytes dst
    let k := 2048 / max ws wd
    let c := s.coreAt n
    let (bits, fl, lfsr) := convertAll dst (rmodeOf c.rmode) (c.satEn == 1) c.lfsr ((lanes ws k (s.vreg n a)).map (decodeNum src))
    let s := s.updCore n (fun c => { c with lfsr := lfsr, flags := c.flags ||| fl })
    let v := ofLanes wd bits
    if wd * k = 2048 then s.putVreg n d v else s.putLow n d (wd * k) v [0, ws, wd, s.vreg n a, c.rmode, c.satEn, c.lfsr]

/-- MXFP4_BLOCK_CONVERT (R62): block i of a register's FP32 or BF16 lanes to an element block and a scale byte. -/
def State.mxConvert (n : Nat) (bf : Bool) (a block elemsAt scaleAt : Nat) (s : State) : State :=
  let f : LaneFmt := if bf then .bf16 else .fp32
  let xs := ((lanes (laneBits f) (lanesOf f) (s.vreg n a)).drop (32 * block)).take 32
  if xs.length < 32 then s.failOnCore n St.DEAL_CORE_FAULT
  else
    let c := s.coreAt n
    let (es, sc, fl, lfsr) := mxBlock (rmodeOf c.rmode) c.lfsr (xs.map (laneNum f))
    let s := s.updCore n (fun c => { c with lfsr := lfsr, flags := c.flags ||| fl })
    (s.putStore n elemsAt (packNibbles es)).putStore n scaleAt [BitVec.ofNat 8 sc]

/-- Does a predicate hold of two lanes (R487)? -/
def predHolds (p : CmpPred) (a b : Exact) : Bool :=
  let un := numIsNan a || numIsNan b
  match p with
  | .eq => numEq a b
  | .ne => !numEq a b
  | .lt => !un && numLt a b
  | .le => !un && !numLt b a
  | .gt => !un && numLt b a
  | .ge => !un && !numLt a b
  | .ord => !un
  | .unord => un

/-- Predicates that signal INVALID on a NaN (R487). -/
def predSignals : CmpPred → Bool
  | .lt | .le | .gt | .ge => true
  | _ => false

/-- VECTOR_COMPARE (R487). -/
def State.vectorCompare (n : Nat) (bf : Bool) (p : CmpPred) (a b dst : Nat) (s : State) : State :=
  let f : LaneFmt := if bf then .bf16 else .fp32
  let w := laneBits f
  let la := (lanes w (lanesOf f) (s.vreg n a)).map (laneNum f)
  let lb := (lanes w (lanesOf f) (s.vreg n b)).map (laneNum f)
  let un := (la.zipWith (fun x y => numIsNan x || numIsNan y) lb).any id
  let fl := if un then flagNanIn + (if predSignals p then flagInvalid else 0) else 0
  (s.raise n fl).putVreg n dst (ofLanes w (la.zipWith (fun x y => if predHolds p x y then 2 ^ w - 1 else 0) lb))

/-- VECTOR_SELECT (R487): bits are copied unchanged and no flag is set. -/
def State.vectorSelect (n : Nat) (half : Bool) (cond a b dst : Nat) (s : State) : State :=
  let w := if half then 16 else 32
  let k := 2048 / w
  let lc := lanes w k (s.vreg n cond)
  let la := lanes w k (s.vreg n a)
  let lb := lanes w k (s.vreg n b)
  s.putVreg n dst (ofLanes w ((List.range k).map (fun i => if lc.getD i 0 ≠ 0 then la.getD i 0 else lb.getD i 0)))

/-- One level of the pairwise tree (R65). -/
def pairUp (f : Rounded → Rounded → Rounded) : List Rounded → List Rounded
  | a :: b :: t => f a b :: pairUp f t
  | [a] => [a]
  | [] => []

def treeLevels (f : Rounded → Rounded → Rounded) : Nat → List Rounded → List Rounded
  | 0, l => l
  | n + 1, l => treeLevels f n (pairUp f l)

/-- Combine two FP32 partial results of a reduction.
DESIGN CHOICE (log 217): a NaN that arises inside the tree is a NaN operand of the next level, and sets NAN_IN there. -/
def reduceStep (op : ReduceOp) (a b : Rounded) : Rounded :=
  let x := decodeNum .fp32 a.bits
  let y := decodeNum .fp32 b.bits
  let out := match op with | .sum => numAdd x y | .min => numMin x y | .max => numMax x y
  let r := laneResult false [x, y] out
  ⟨r.bits, a.flags ||| b.flags ||| r.flags⟩

/-- Combine two INT32 partial results. -/
def reduceInt (op : ReduceOp) (a b : Rounded) : Rounded :=
  match op with
  | .sum => ⟨(a.bits + b.bits) % 2 ^ 32, 0⟩
  | .min => if toSigned 32 a.bits ≤ toSigned 32 b.bits then a else b
  | .max => if toSigned 32 a.bits ≤ toSigned 32 b.bits then b else a

/-- The result of a reduction across the lanes of a register (R65). -/
def reduceLanes (f : LaneFmt) (op : ReduceOp) (v : Nat) : Rounded :=
  match f with
  | .int32 => ((treeLevels (reduceInt op) 6 ((lanes 32 64 v).map (fun b => ⟨b, 0⟩))).getD 0 ⟨0, 0⟩)
  | .fp32 => ((treeLevels (reduceStep op) 6 ((lanes 32 64 v).map (fun b => ⟨b, 0⟩))).getD 0 ⟨0, 0⟩)
  | .bf16 =>
    let r := (treeLevels (reduceStep op) 7 ((lanes 16 128 v).map (fun b => ⟨b * 2 ^ 16, 0⟩))).getD 0 ⟨0, 0⟩
    let o := roundArith .bf16 (decodeNum .fp32 r.bits)
    ⟨o.bits, r.flags ||| o.flags⟩

/-- VECTOR_REDUCE (R65): the result is lane 0 of the destination. -/
def State.vectorReduce (n : Nat) (f : LaneFmt) (op : ReduceOp) (a dst : Nat) (s : State) : State :=
  let r := reduceLanes f op (s.vreg n a)
  (s.raise n r.flags).putLow n dst (laneBits f) r.bits [1, laneBits f, s.vreg n a]

/-- VECTOR_PERMUTE (R63): lane i takes the source's lane that lane i of the index register names. -/
def State.vectorPermute (n : Nat) (half : Bool) (idx a dst : Nat) (s : State) : State :=
  let w := if half then 16 else 32
  let k := 2048 / w
  let li := lanes w k (s.vreg n idx)
  let la := lanes w k (s.vreg n a)
  s.putVreg n dst (ofLanes w (li.map (fun i => if i < k then la.getD i 0 else Config.permuteBeyond i)))

/-- VECTOR_LOAD_STORE (R63): one register to or from the core store. -/
def State.vectorMove (n : Nat) (load : Bool) (r off : Nat) (s : State) : State :=
  if load then s.useStore n off 256 (fun b s => s.putVreg n r (ofLeBytes b))
  else s.putStore n off (leBytes 256 (s.vreg n r))

/-! ### The special-function unit -/

/-- SFU_OP (R66, R68): 16 lanes from lane 16 g of a register; BF16 inputs are computed at FP32 and rounded once. -/
def State.sfuOp (n : Nat) (fn : SfuFn) (bf : Bool) (a g dst : Nat) (s : State) : State :=
  let f : LaneFmt := if bf then .bf16 else .fp32
  let xs := ((lanes (laneBits f) (lanesOf f) (s.vreg n a)).drop (16 * g)).take 16
  let rs := xs.map (fun x =>
    if bf then
      let r := sfuResult fn (x * 2 ^ 16)
      let o := roundArith .bf16 (decodeNum .fp32 r.bits)
      (⟨o.bits, r.flags ||| o.flags⟩ : Rounded)
    else sfuResult fn x)
  s.updCore n (fun c => { c with sfu := c.sfu ++
    [⟨dst, 16 * g, bf, rs.map (fun r => r.bits), rs.foldl (fun f r => f ||| r.flags) 0⟩] })

/-- SFU_RESULT (R68): the oldest inputs' results return. -/
def State.sfuReturn (n : Nat) (s : State) : State :=
  match (s.coreAt n).sfu with
  | [] => s
  | b :: rest =>
    let w := if b.bf16 then 16 else 32
    let s := s.updCore n (fun c => { c with sfu := rest, flags := c.flags ||| b.flags })
    s.putVreg n b.dst (putBits (s.vreg n b.dst) (w * b.firstLane) (w * b.results.length) (ofLanes w b.results))

/-! ### The control unit -/

/-- Cycles since task start (R48). -/
def State.coreCycles (s : State) (n : Nat) : Nat := (s.coreAt n).cycles / cycleUnit

/-- A register of the core control page (R48). -/
def State.pageReg (s : State) (n off : Nat) : Nat :=
  let c := s.coreAt n
  match off with
  | 0x000 => n % 2 ^ 11 + coreDie n * 2 ^ 16 + (coreCluster n % 24) * 2 ^ 18 + n % 16 * 2 ^ 23
  | 0x004 => c.flags
  | 0x008 => c.rmode % 4 + c.satEn % 2 * 4
  | 0x00C => c.lfsr
  | 0x010 => s.coreCycles n % 2 ^ 32
  | 0x014 => s.coreCycles n / 2 ^ 32 % 2 ^ 32
  | 0x018 => c.stalls
  | 0x01C => c.storeCollisions
  | 0x020 => mapGetD 0 (coreCluster n) s.memory.poolCollisions
  | _ => 0

/-- A write of the control page by the body (R48). -/
def State.writePage (n off v : Nat) (s : State) : State :=
  s.updCore n (fun c =>
    match off with
    | 0x004 => { c with flags := c.flags &&& (15 ^^^ (v % 16)) }
    | 0x008 => { c with rmode := v % 4, satEn := v / 4 % 2 }
    | 0x00C => { c with lfsr := if v % 2 ^ 32 = 0 then 1 else v % 2 ^ 32 }
    | _ => c)

/-- CONTROL_WAIT (R48, R70): a wait stalls the core until the count is reached; a page access beyond the page is an address fault (R44). -/
def State.control (n : Nat) (op : ControlOp) (s : State) : State :=
  match op with
  | .wait q k => s.updCore n (fun c => { c with waiting := some (q, k) })
  | .writePage off v => if 0x1000 ≤ off then s.failOnCore n St.DEAL_ADDRESS_FAULT else s.writePage n off v
  | .readPage off dst =>
    if 0x1000 ≤ off then s.failOnCore n St.DEAL_ADDRESS_FAULT else s.putStore n dst (leBytes 4 (s.pageReg n off))

/-- HALT (R47). -/
def State.haltCore (n : Nat) (s : State) : State := s.updCore n (fun c => { c with halted := true })

/-! ### The stream engine -/

/-- Contexts of a cluster's unit that snoop a queue of a core on a side (R418), by 8 × unit + context. -/
def State.snoopers (s : State) (n q : Nat) : List Nat :=
  let u := coreCluster n
  ((List.range 8).filter (fun x =>
    s.rdF (Reg.CV_CTRL u x) Fld.CV_CTRL_STATE == 1 && s.rdF (Reg.CV_CTRL u x) Fld.CV_CTRL_SRC == 1
      && s.rdF (Reg.CV_CTRL u x) Fld.CV_CTRL_INDEX == 4 * (n % 16) + q)).map (fun x => 8 * u + x)

/-- The contexts still attached take the bytes of a descriptor whole, in order (R418). -/
def State.snoop (ctxs : List Nat) (read written : List Byte) (s : State) : State :=
  s.overList ctxs (fun e t =>
    if t.rdF (Reg.CV_CTRL (e / 8) (e % 8)) Fld.CV_CTRL_STATE = 1 then
      t.feedContext (e / 8) (e % 8) (if t.rdB (Reg.CV_CTRL (e / 8) (e % 8)) Fld.CV_CTRL_SIDE then written else read)
    else t)

/-- Global address of a local address of a core (R43); none outside the ranges.
DESIGN CHOICE (log 218): the core control page, which the control unit alone reaches, is for a stream descriptor no range, and naming it is an
address fault as of an address outside the ranges (R44). -/
def localToGlobal (n a : Nat) : Option Nat :=
  let cl := coreCluster n
  if a < 0x40000 then some (storeAddr n a)
  else if 0x100000 ≤ a ∧ a < 0x300000 then some (poolAddr cl (a - 0x100000))
  else if 0x400000 ≤ a ∧ a < 0x800000 then some (storeAddr (16 * cl + (a - 0x400000) / 0x40000) ((a - 0x400000) % 0x40000))
  else none

/-- Every core whose store n bytes of global space from a touch works (R44). -/
def State.storesWork (s : State) (a n : Nat) : Bool :=
  match regionOf a with
  | .store c off => ((List.range ((off + n - 1) / storeSize + 1)).map (· + c)).all s.coreWorking
  | _ => true

/-- Resolve n bytes of an operand of a stream descriptor by a core of a partition: the global address, or the status that the
task fails with (R43, R44, R119). -/
def State.resolve (s : State) (n p : Nat) (isGlobal : Bool) (a len : Nat) : Except Nat Nat :=
  if isGlobal then
    if s.taskAccessOk p a len then .ok a else .error St.MEM_GLOBAL_ADDRESS_FAULT
  else
    match localToGlobal n a, localToGlobal n (a + len - 1) with
    | some g, some h => if h - g = len - 1 ∧ s.storesWork g len then .ok g else .error St.DEAL_ADDRESS_FAULT
    | _, _ => .error St.DEAL_ADDRESS_FAULT

/-- Offsets of the elements of a tensor, innermost dimension fastest (R70): source and destination offsets. -/
def elementOffsets : List StreamDim → List (Nat × Nat)
  | [] => [(0, 0)]
  | d :: ds => (elementOffsets ds).flatMap (fun o =>
      (List.range d.count).map (fun i => (o.1 + i * d.srcStride, o.2 + i * d.dstStride)))

/-- Every element's global source and destination, or the status of the first that breaks a rule. -/
def State.resolveAll (s : State) (n p : Nat) (d : StreamDesc) : Except Nat (List (Nat × Nat)) :=
  (elementOffsets d.dims).foldr (fun o acc =>
    match s.resolve n p d.srcGlobal (d.src + o.1) d.elemBytes, s.resolve n p d.dstGlobal (d.dst + o.2) d.elemBytes, acc with
    | .ok a, .ok b, .ok l => .ok ((a, b) :: l)
    | .error e, _, _ => .error e
    | _, .error e, _ => .error e
    | _, _, .error e => .error e) (.ok [])

/-- A task's global access is refused: MEM reports it (R119). -/
def State.refuseAccess (n a st : Nat) (s : State) : State :=
  (if stBlock st = 14 then s.postMem 0 a st else s).failOnCore n st

/-- Read a list of addresses in order; stop at the first that fails. -/
def State.readAll (len : Nat) : List Nat → List Byte → State → Except (Nat × Nat) (List Byte) × State
  | [], acc, s => (.ok acc, s)
  | a :: t, acc, s =>
    match s.globalRead 3 a len with
    | (some st, _, s) => (.error (a, st), s)
    | (none, b, s) => s.readAll len t (acc ++ b)

def State.writeAll (len : Nat) : List Nat → List Byte → State → Option (Nat × Nat) × State
  | [], _, s => (none, s)
  | a :: t, bytes, s =>
    match s.globalWrite 3 a (bytes.take len) with
    | (some st, s) => (some (a, st), s)
    | (none, s) => s.writeAll len t (bytes.drop len)

def State.bumpDone (n q : Nat) (s : State) : State :=
  s.updCore n (fun c => { c with done := mapSet q (mapGetD 0 q c.done + 1) c.done })

/-- Perform a move: read every element, then write every element; the first failure fails the task (R70, R130, R131). -/
def State.performMove (n q : Nat) (d : StreamDesc) (pairs : List (Nat × Nat)) (ctxs : List Nat) (s : State) : State :=
  match s.readAll d.elemBytes (pairs.map (fun x => x.1)) [] with
  | (.error (a, st), s) => s.failSram n a st
  | (.ok bytes, s) =>
    match s.writeAll d.elemBytes (pairs.map (fun x => x.2)) bytes with
    | (some (a, st), s) => s.failSram n a st
    | (none, s) => (s.snoop ctxs bytes bytes).bumpDone n q

/-- A descriptor that breaks a rule writes nothing and fails the task (R75). -/
def State.rejectDescriptor (n : Nat) (s : State) : State := s.failOnCore n St.DEAL_DESCRIPTOR_ERROR

/-- A queue's next descriptor may start: the previous one has completed (R70). -/
def State.queueFree (s : State) (n q : Nat) : Bool :=
  ((s.coreAt n).queues.filter (fun e => e.1 == q)).isEmpty && !s.ndx.collectives.any (fun c => c.core == n && c.queue == q)

/-- A stream descriptor starts (R70, R71): a move inside the cluster is performed; one that reaches global space is on its way.
DESIGN CHOICE (log 170): an element size of 0 or a dimension of count 0 is a descriptor error.
DESIGN CHOICE (log 219): a move inside the cluster takes effect whole when it starts, before any later bundle and any later descriptor of another
queue, between which R70 holds no order. -/
def State.streamMove (n q : Nat) (d : StreamDesc) (s : State) : State :=
  if 5 < d.dims.length ∨ d.elemBytes = 0 ∨ d.dims.any (fun x => x.count == 0) then s.rejectDescriptor n
  else
    match s.corePart n with
    | none => s
    | some p =>
      match s.resolveAll n p d with
      | .error st => s.refuseAccess n (if d.srcGlobal then d.src else d.dst) st
      | .ok pairs =>
        let ctxs := s.snoopers n q
        if d.srcGlobal || d.dstGlobal then
          s.updCore n (fun c => { c with queues := c.queues ++ [(q, ⟨d, ctxs⟩)] })
        else s.performMove n q d pairs ctxs

/-- STREAM_MOVE_COMPLETE (R111): the started move of a queue is performed. -/
def State.streamComplete (n q : Nat) (s : State) : State :=
  match (s.coreAt n).queues.find? (fun e => e.1 == q), s.corePart n with
  | some (_, job), some p =>
    (match s.resolveAll n p job.desc with
     | .error st => s.refuseAccess n (if job.desc.srcGlobal then job.desc.src else job.desc.dst) st
     | .ok pairs =>
       (s.updCore n (fun c => { c with queues := c.queues.filter (fun e => e.1 != q) })).performMove n q job.desc pairs job.snoops)
  | _, _ => s

/-! ### The tap walker -/

/-- Output size along one axis (R251), the floor taken toward minus infinity. -/
def outSize (inp k dil stride padLo padHi : Nat) : Int :=
  Int.fdiv ((inp : Int) + padLo + padHi - (dil : Int) * ((k : Int) - 1) - 1) stride + 1

/-- A tap walker descriptor (R72). -/
structure TapDesc where
  src : Nat
  srcGlobal : Bool
  rowPitch : Nat
  pixPitch : Nat
  esize : Nat
  inH : Nat
  inW : Nat
  chBase : Nat
  chCount : Nat
  kH : Nat
  kW : Nat
  tapY : Nat
  tapX : Nat
  strideY : Nat
  strideX : Nat
  dilY : Nat
  dilX : Nat
  padTop : Nat
  padBottom : Nat
  padLeft : Nat
  padRight : Nat
  padMode : Nat
  padConst : Nat
  oyBase : Nat
  oyCount : Nat
  dst : Nat
  dstPitch : Nat
  reservedZero : Bool
  deriving DecidableEq, Repr

/-- Read the eight words of a descriptor (R72). -/
def tapDesc (w : List Nat) : TapDesc :=
  let g := fun i => w.getD i 0
  { src := bitsAt (g 0) 0 48, srcGlobal := bitOf (g 0) 48
    rowPitch := bitsAt (g 1) 0 32, pixPitch := bitsAt (g 1) 32 16, esize := bitsAt (g 1) 48 2
    inH := bitsAt (g 2) 0 16, inW := bitsAt (g 2) 16 16, chBase := bitsAt (g 2) 32 16, chCount := bitsAt (g 2) 48 16
    kH := bitsAt (g 3) 0 6, kW := bitsAt (g 3) 8 6, tapY := bitsAt (g 3) 16 5, tapX := bitsAt (g 3) 24 5
    strideY := bitsAt (g 3) 32 5, strideX := bitsAt (g 3) 40 5, dilY := bitsAt (g 3) 48 5, dilX := bitsAt (g 3) 56 5
    padTop := bitsAt (g 4) 0 8, padBottom := bitsAt (g 4) 8 8, padLeft := bitsAt (g 4) 16 8, padRight := bitsAt (g 4) 24 8
    padMode := bitsAt (g 4) 32 2, padConst := bitsAt (g 4) 48 16
    oyBase := bitsAt (g 5) 0 16, oyCount := bitsAt (g 5) 16 16
    dst := bitsAt (g 6) 0 18, dstPitch := bitsAt (g 6) 32 16
    reservedZero := bitsAt (g 0) 49 15 == 0 && bitsAt (g 1) 50 14 == 0 && bitsAt (g 3) 6 2 == 0 && bitsAt (g 3) 14 2 == 0
      && bitsAt (g 3) 21 3 == 0 && bitsAt (g 3) 29 3 == 0 && bitsAt (g 3) 37 3 == 0 && bitsAt (g 3) 45 3 == 0
      && bitsAt (g 3) 53 3 == 0 && bitsAt (g 3) 61 3 == 0 && bitsAt (g 4) 34 14 == 0 && bitsAt (g 5) 32 32 == 0
      && bitsAt (g 6) 18 14 == 0 && bitsAt (g 6) 48 16 == 0 && g 7 == 0 }

def tapOutH (d : TapDesc) : Int := outSize d.inH d.kH d.dilY d.strideY d.padTop d.padBottom
def tapOutW (d : TapDesc) : Int := outSize d.inW d.kW d.dilX d.strideX d.padLeft d.padRight

def tapElemBytes (d : TapDesc) : Nat := 2 ^ d.esize

/-- Output rows the descriptor produces (R73). -/
def tapRows (d : TapDesc) : List Nat :=
  (List.range (min d.oyCount ((tapOutH d).toNat - d.oyBase))).map (· + d.oyBase)

/-- End of the output region in the core store (R75). -/
def tapEnd (d : TapDesc) : Nat :=
  let k := (tapRows d).length * (tapOutW d).toNat
  if k = 0 then d.dst else d.dst + (k - 1) * d.dstPitch + d.chCount * tapElemBytes d

/-- The ranges of R72 and the rejections of R75. -/
def tapValid (d : TapDesc) : Bool :=
  d.reservedZero && decide (d.esize ≤ 2) && decide (1 ≤ d.rowPitch) && decide (1 ≤ d.pixPitch)
  && decide (1 ≤ d.inH ∧ d.inH ≤ 16384) && decide (1 ≤ d.inW ∧ d.inW ≤ 16384) && decide (1 ≤ d.chCount ∧ d.chCount ≤ 256)
  && decide (1 ≤ d.kH ∧ d.kH ≤ 32) && decide (1 ≤ d.kW ∧ d.kW ≤ 32) && decide (d.tapY < d.kH) && decide (d.tapX < d.kW)
  && decide (1 ≤ d.strideY ∧ d.strideY ≤ 16) && decide (1 ≤ d.strideX ∧ d.strideX ≤ 16)
  && decide (1 ≤ d.dilY ∧ d.dilY ≤ 16) && decide (1 ≤ d.dilX ∧ d.dilX ≤ 16)
  && decide (1 ≤ d.oyCount) && decide (d.dst % 64 = 0) && decide (1 ≤ d.dstPitch) && decide (tapEnd d ≤ storeSize)

/-- The input index that a position maps to: none where the pad value is a constant (R73, R74). -/
def padIndex (mode : Nat) (i : Int) (size : Nat) : Option Nat :=
  if 0 ≤ i ∧ i < size then some i.toNat
  else
    match mode with
    | 2 => some (max 0 (min i ((size : Int) - 1))).toNat
    | 3 =>
      if size = 1 then some 0
      else
        let p : Int := 2 * ((size : Int) - 1)
        let m := i % p
        some (if m ≤ (size : Int) - 1 then m else p - m).toNat
    | _ => none

/-- One padded element (R74): PAD_CONST, a BF16 value widened to FP32 for 4-byte elements; or +0. -/
def padElement (d : TapDesc) : List Byte :=
  if d.padMode = 1 then
    (if d.esize = 2 then leBytes 4 (d.padConst * 2 ^ 16) else leBytes (tapElemBytes d) d.padConst)
  else leBytes (tapElemBytes d) 0

/-- Where one output row of channels comes from and goes to (R73). -/
structure TapCell where
  dst : Nat
  src : Option Nat
  deriving DecidableEq, Repr

def tapCells (d : TapDesc) : List TapCell :=
  (tapRows d).flatMap (fun (oy : Nat) => (List.range (tapOutW d).toNat).map (fun (ox : Nat) =>
    let iy : Int := (oy : Int) * d.strideY - d.padTop + d.tapY * d.dilY
    let ix : Int := (ox : Int) * d.strideX - d.padLeft + d.tapX * d.dilX
    let src := match padIndex d.padMode iy d.inH, padIndex d.padMode ix d.inW with
      | some y, some x => some (d.src + y * d.rowPitch + x * d.pixPitch + d.chBase * tapElemBytes d)
      | _, _ => none
    ⟨d.dst + ((oy - d.oyBase) * (tapOutW d).toNat + ox) * d.dstPitch, src⟩))

/-- Write the rows of a walker one by one, reading or padding (R73). -/
def State.walk (n p : Nat) (d : TapDesc) : List TapCell → List Byte → List Byte → State → Except (Nat × Nat) (List Byte × List Byte) × State
  | [], rd, wrt, s => (.ok (rd, wrt), s)
  | c :: t, rd, wrt, s =>
    let len := d.chCount * tapElemBytes d
    match c.src with
    | none =>
      let bytes := (List.range d.chCount).flatMap (fun _ => padElement d)
      (match s.sramWrite (storeAddr n c.dst) bytes with
       | (some st, s) => (.error (storeAddr n c.dst, st), s)
       | (none, s) => s.walk n p d t rd (wrt ++ bytes))
    | some a =>
      match s.resolve n p d.srcGlobal a len with
      | .error st => (.error (a, st), if stBlock st = 14 then s.postMem 0 a st else s)
      | .ok g =>
        match s.globalRead 3 g len with
        | (some st, _, s) => (.error (g, st), s)
        | (none, bytes, s) =>
          match s.sramWrite (storeAddr n c.dst) bytes with
          | (some st, s) => (.error (storeAddr n c.dst, st), s)
          | (none, s) => s.walk n p d t (rd ++ bytes) (wrt ++ bytes)

/-- TAP_WALKER (R72 to R75). DESIGN CHOICE (log 219): a walk takes effect whole when it starts, one with a global source too. -/
def State.tapWalk (n q : Nat) (words : List Nat) (s : State) : State :=
  let d := tapDesc words
  match s.corePart n with
  | none => s
  | some p =>
    if !tapValid d then s.rejectDescriptor n
    else if tapOutH d < 1 ∨ tapOutW d < 1 then (s.updCore n (fun c => { c with emptySeen := true })).bumpDone n q
    else
      let ctxs := s.snoopers n q
      match s.walk n p d (tapCells d) [] [] with
      | (.error (a, st), s) => s.failSram n a st
      | (.ok (rd, wrt), s) => (s.snoop ctxs rd wrt).bumpDone n q

/-! ### Commands -/

/-- A command of a body acts only on a core that issues one's bundles (R47). -/
def onBody (n : Nat) (f : State → State) (s : State) : Out := .next (if s.bodyRuns n then f s else s)
/-- A bundle whose accesses may wait and collide (R42, R46). -/
def onBodyWaiting (n : Nat) (w : Waits) (f : State → State) (s : State) : Out := onBody n (fun s => f (s.waited n w)) s
/-- The same, of a command that names its core with its waits. -/
def onTurn (x : CoreTurn) (f : Nat → State → State) (s : State) : Out := onBodyWaiting x.core x.waits (f x.core) s

def execArrayOp (x : CoreTurn) (op : ArrayOp) (s : State) : Out := onTurn x (fun n => State.arrayRow n op) s
/-- Sums land also after the body has halted (R47). -/
def execArrayResultLand (x : RowLanding) (s : State) : Out :=
  .next (if s.coreRuns x.core then (s.waited x.core x.waits).landRow x.core x.row else s)
def execWeightTileLoad (x : CoreTurn) (t : TileLoad) (s : State) : Out := onTurn x (fun n => State.loadTile n t) s
/-- A swap before the shadow load is complete stalls the core (R54): those cycles are the command's. -/
def execArraySwap (x : CoreStall) (s : State) : Out := onBody x.core (fun s => (s.stalled x.core x.stalls).swapTiles x.core) s
def execOutputStage (x : CoreTurn) (op : OutputOp) (s : State) : Out := onTurn x (fun n => State.outputStage n op) s
def execVectorArithmetic (core : Nat) (f : LaneFmt) (op : VecOp) (a b c dst : Nat) (s : State) : Out :=
  onBody core (State.vectorArith core f op a b c dst) s
def execVectorConvert (core : Nat) (src dst : NumFmt) (a d : Nat) (s : State) : Out :=
  onBody core (State.vectorConvert core src dst a d) s
def execMxfp4BlockConvert (x : CoreTurn) (bf : Bool) (a block elemsAt scaleAt : Nat) (s : State) : Out :=
  onTurn x (fun n => State.mxConvert n bf a block elemsAt scaleAt) s
def execVectorCompare (core : Nat) (bf : Bool) (p : CmpPred) (a b dst : Nat) (s : State) : Out :=
  onBody core (State.vectorCompare core bf p a b dst) s
def execVectorSelect (core : Nat) (half : Bool) (cond a b dst : Nat) (s : State) : Out :=
  onBody core (State.vectorSelect core half cond a b dst) s
def execVectorReduce (core : Nat) (f : LaneFmt) (op : ReduceOp) (a dst : Nat) (s : State) : Out :=
  onBody core (State.vectorReduce core f op a dst) s
def execVectorPermute (core : Nat) (half : Bool) (idx a dst : Nat) (s : State) : Out :=
  onBody core (State.vectorPermute core half idx a dst) s
def execVectorLoadStore (core : Nat) (load : Bool) (r off : Nat) (w : Waits) (s : State) : Out :=
  onBodyWaiting core w (State.vectorMove core load r off) s
def execSfuOp (core : Nat) (fn : SfuFn) (bf : Bool) (a g dst : Nat) (s : State) : Out := onBody core (State.sfuOp core fn bf a g dst) s
def execSfuResult (core : Nat) (s : State) : Out := .next (if s.coreRuns core then s.sfuReturn core else s)
/-- A wait already satisfied costs no cycle (R70). -/
def waitSatisfied (c : CoreState) : ControlOp → Bool
  | .wait q k => decide (k ≤ mapGetD 0 q c.done)
  | _ => false

def execControlWait (core : Nat) (op : ControlOp) (w : Waits) (s : State) : Out :=
  if waitSatisfied (s.coreAt core) op then onBody core (State.control core op) s else onBodyWaiting core w (State.control core op) s
def execHalt (core : Nat) (s : State) : Out := onBody core (State.haltCore core) s
/-- CORE_FAULT (R94): an undecodable bundle, or an internal error of a unit. -/
def execCoreFault (core : Nat) (fw : List Upset) (s : State) : Out := onBody core (State.failOnCore core St.DEAL_CORE_FAULT) (s.upset fw)

end Sys2Proof.Machine
end

