-- ==== Sys2Proof/Machine/RegWrite.lean ====
section
/-! DEFINITION. Machine/RegWrite.lean: how a value is stored in a field (R383, R486), how a write is applied field by field
(R9 to R11, R405 to R407), and the doorbell checks that every ring shares (R316). -/
namespace Sys2Proof.Machine

def clampTo (lo hi v : Nat) : Nat := max lo (min hi v)

/-- The stored form of a value (R486): the field's own rule first, then the unit, then the range. `w` is the word under
construction, for rules that name a sibling field. -/
def storeValue (fu : Fuses) (w : Nat) (r : StoreRule) (v : Nat) : Nat :=
  match r with
  | .none => v
  | .clamp lo hi => clampTo lo hi v
  | .zeroAs x => if v = 0 then x else v
  | .outside lo hi x => if v < lo ∨ hi < v then x else v
  | .multiple u lo hi => clampTo lo hi (v - v % u)
  | .powerCap => clampTo 250 fu.maxW v
  | .hostCap => if v = 0 then 0 else clampTo 250 fu.maxW v
  | .upToMaxPower => min v fu.maxW
  | .floorClock => clampTo 500 fu.sustainedMhz v
  | .zeroOrAtLeast lo => if v = 0 then 0 else max lo v
  | .zeroOrClamp lo hi => if v = 0 then 0 else clampTo lo hi v
  | .boostTemp hi lo =>
    let t := bitsAt w lo (hi + 1 - lo)
    if v < 60 ∨ t < v then min t 90 else v
  | .pageMax hi lo =>
    let t := bitsAt w lo (hi + 1 - lo)
    if v < t ∨ 10 < v then 10 else v
  | .demoteHigh hi lo =>
    let t := bitsAt w lo (hi + 1 - lo)
    if v < t ∨ 90 < v then t + 10 else v
  | .upToField hi lo => min v (bitsAt w lo (hi + 1 - lo))

def fieldWidth (f : FieldSpec) : Nat := f.hi + 1 - f.lo
def fieldOf (f : FieldSpec) (w : Nat) : Nat := bitsAt w f.lo (fieldWidth f)
def putFieldOf (f : FieldSpec) (v w : Nat) : Nat := putBits w f.lo (fieldWidth f) v

/-- What a write leaves: the register, the mask and value of its held RS fields, and whether an RL field was rejected. -/
structure WriteResult where
  word : Nat
  mask : Nat
  held : Nat
  rejected : Bool
  /-- the stored form of every field so far -/
  stored : Nat
  deriving DecidableEq, Repr

/-- One field of a write (R10). -/
def writeField (fu : Fuses) (running : Bool) (v : Nat) (r : WriteResult) (f : FieldSpec) : WriteResult :=
  let nv := storeValue fu r.stored f.rule (fieldOf f v) % 2 ^ fieldWidth f
  let r := { r with stored := putFieldOf f nv r.stored }
  match f.access with
  | .ro | .wo => r
  | .rw => { r with word := putFieldOf f nv r.word }
  | .rs => { r with mask := putFieldOf f (2 ^ fieldWidth f - 1) r.mask, held := putFieldOf f nv r.held }
  | .rl =>
    if !running then { r with word := putFieldOf f nv r.word }
    else if nv = fieldOf f r.word then r
    else { r with rejected := true }
  | .w1c => { r with word := putFieldOf f (fieldOf f r.word &&& (2 ^ fieldWidth f - 1 - fieldOf f v)) r.word }

/-- Write a register field by field, each by its class (R11); a rejected RL field is reported (R407). -/
def State.writeReg (running : Bool) (off v : Nat) (s : State) : State :=
  match regAt s.fuses off with
  | none => s
  | some (r, _, _) =>
    let (hm, hv) := mapGetD (0, 0) off s.heldRS
    let res := r.fields.foldl (writeField s.fuses running v) ⟨s.rdN off, hm, hv, false, 0⟩
    let s := s.wrN off res.word
    let s := if res.mask = 0 then s else { s with heldRS := mapSet off (res.mask, res.held) s.heldRS }
    if res.rejected then s.post (stWriteWhileRunning (off / 0x100000)) else s

/-- What a host reads of a register: held RS values while they are pending (R406), write-only fields as 0 (R10). -/
def State.readStored (s : State) (off : Nat) : Nat :=
  match regAt s.fuses off with
  | none => 0
  | some (r, _, _) =>
    let w := s.rdN off
    let (hm, hv) := mapGetD (0, 0) off s.heldRS
    r.fields.foldl (fun acc f =>
      let v := match f.access with
        | .wo => 0
        | .rs => if fieldOf f hm = 0 then fieldOf f w else fieldOf f hv
        | _ => fieldOf f w
      putFieldOf f v acc) 0

/-! ### Doorbells -/

/-- The host reaches the registers of every block: the link is up and the module ready (R378). -/
def State.hostReaches (s : State) : Bool := s.pcieUp && s.ready

/-- A function may reach the page of a partition: PF0 reaches every page, VF(n+1) the page of Pn (R31, R312, R314). -/
def State.mayReach (s : State) (fn p : Nat) : Bool := s.partExists p && (fn == 0 || fn == p + 1)

/-- An uncorrectable error logged by AER: counted (PRESUMED for which events AER logs). -/
def State.aerError (s : State) : State := (s.count (Reg.PCI_COUNTER 1)).ledgerAdd 0xA000 2

/-- An aligned 32-bit write. -/
def alignedDoorbell (d : DoorbellWrite) : Bool := d.bytes == 4 && d.offset % 4 == 0

/-- A tail or head write (R316): a doorbell that is no aligned 32-bit write is dropped and reported through AER, a value out
of range is ignored and reported; otherwise the register takes the value. A doorbell leaves DORMANT (R354). -/
def State.ringPointer (d : DoorbellWrite) (off log2 bad : Nat) (s : State) : State :=
  if d.viaDoorbell && !alignedDoorbell d then s.aerError.emit (.unsupported d.fn)
  else
    let s := if d.viaDoorbell then s.wake else s
    if 2 ^ log2 ≤ d.value then s.post bad
    else s.wrN off d.value

end Sys2Proof.Machine
end

