-- ==== Sys2Proof/Machine/CheckUnits.lean ====
section
/-! DEFINITION. Machine/CheckUnits.lean: the check-value units (R414 to R422): the descriptor of a task body and the host's attach and
detach. -/
namespace Sys2Proof.Machine

def State.cvState (s : State) (u x : Nat) : Nat := s.rdF (Reg.CV_CTRL u x) Fld.CV_CTRL_STATE

/-- RESULT is RUNNING XOR the final value (R416). -/
def State.showResult (u x : Nat) (s : State) : State :=
  let alg := crcAlg (s.rdF (Reg.CV_CTRL u x) Fld.CV_CTRL_ALG)
  s.wr64 (Reg.CV_RESULT_LO u x) (crcResult alg (s.rd64 (Reg.CV_RUNNING_LO u x)))

/-- A computation starts under the fold rule of R415, or with KEEP goes on from RUNNING and BYTES (R419). -/
def State.startContext (u x : Nat) (keep : Bool) (s : State) : State :=
  if keep then s.showResult u x
  else
    let ctrl := Reg.CV_CTRL u x
    let alg := crcAlg (s.rdF ctrl Fld.CV_CTRL_ALG)
    let tag := if s.rdB ctrl Fld.CV_CTRL_TAG_LEN then leBytes 8 (s.rd64 (Reg.CV_TAG_LO u x)) else []
    let s := (s.wr64 (Reg.CV_RUNNING_LO u x) (crcFeed alg alg.init tag)).wr64 (Reg.CV_BYTES_LO u x) 0
    s.showResult u x

/-- ALG, TAG_LEN, KEEP and the tag of a descriptor are loaded into its context. -/
def State.loadContext (u : Nat) (d : CvDesc) (s : State) : State :=
  let ctrl := Reg.CV_CTRL u d.ctx
  let s := (s.wrF ctrl Fld.CV_CTRL_ALG d.alg).wrF ctrl Fld.CV_CTRL_TAG_LEN (boolNat d.tagLen)
  let s := s.wrF ctrl Fld.CV_CTRL_KEEP (boolNat d.keep)
  if d.tagLen then s.wr64 (Reg.CV_TAG_LO u d.ctx) d.tag else s

/-- Owner of a context of a cluster unit (R420). -/
def State.cvOwnedBy (s : State) (u x : Nat) : Option (Nat × Nat) := mapGet (8 * u + x) s.cvOwner

/-- A context that a task's descriptor may take: not attached, not owned by another task, of a unit that has not failed. -/
def State.cvFree (s : State) (u x : Nat) (task : Nat × Nat) : Bool :=
  s.cvState u x != 1 && s.cvState u x != 3 && (match s.cvOwnedBy u x with
    | some t => t == task
    | none => true)

/-- Fields that exist: CTX 0 to 7, ALG of two bits, no reserved bit. -/
def cvDescOk (d : CvDesc) : Bool := decide (d.ctx < 8) && decide (d.alg < 4) && !d.reserved

/-- A check-value descriptor takes effect in its queue's order (R419); an invalid one fails the task. -/
def State.onContext (n : Nat) (d : CvDesc) (ok : State → Nat → (Nat × Nat) → Bool)
    (f : State → Nat → (Nat × Nat) → State) (s : State) : State :=
  match (s.coreAt n).task with
  | none => s
  | some t =>
    let u := coreCluster n
    if cvDescOk d && ok s u t then f s u t
    else s.rejectDescriptor n

/-- ATTACH: from the next descriptor that the queue issues (R419, R420). -/
def State.cvAttach (n q : Nat) (d : CvDesc) (s : State) : State :=
  s.onContext n d (fun s u t => s.cvFree u d.ctx t && decide (d.core < 16) && decide (d.queue < 4)) (fun s u t =>
    let ctrl := Reg.CV_CTRL u d.ctx
    let s := (s.loadContext u d).wrF ctrl Fld.CV_CTRL_SRC 1
    let s := (s.wrF ctrl Fld.CV_CTRL_INDEX (4 * d.core + d.queue)).wrF ctrl Fld.CV_CTRL_SIDE (boolNat d.writeSide)
    let s := ((s.wrF ctrl Fld.CV_CTRL_STATE 1).wrF ctrl Fld.CV_CTRL_OWNER 1).wrF ctrl Fld.CV_CTRL_ATTACH 1
    let s := { s with cvOwner := mapSet (8 * u + d.ctx) t s.cvOwner }
    (s.startContext u d.ctx d.keep).bumpDone n q)

/-- A context leaves its path; RESULT, RUNNING and BYTES stay readable (R420). -/
def State.detachContext (u x : Nat) (s : State) : State :=
  let ctrl := Reg.CV_CTRL u x
  let s := ((s.wrF ctrl Fld.CV_CTRL_STATE 2).wrF ctrl Fld.CV_CTRL_OWNER 0).wrF ctrl Fld.CV_CTRL_ATTACH 0
  { s with cvOwner := mapDel (8 * u + x) s.cvOwner }

/-- DETACH: a context that the task does not own stays as it is (R420). -/
def State.cvDetach (n q : Nat) (d : CvDesc) (s : State) : State :=
  s.onContext n d (fun _ _ _ => true) (fun s u t =>
    (if s.cvState u d.ctx = 1 ∧ s.cvOwnedBy u d.ctx = some t then s.detachContext u d.ctx else s).bumpDone n q)

/-- The context record of SAVE (R419). -/
def State.cvRecord (s : State) (u x : Nat) : List Byte :=
  let ctrl := Reg.CV_CTRL u x
  leBytes 8 (s.rd64 (Reg.CV_RUNNING_LO u x)) ++ leBytes 8 (s.rd64 (Reg.CV_BYTES_LO u x))
    ++ leBytes 8 (s.rdF ctrl Fld.CV_CTRL_ALG + 4 * s.rdF ctrl Fld.CV_CTRL_TAG_LEN) ++ leBytes 8 (s.rd64 (Reg.CV_RESULT_LO u x))

/-- A record lies 32-byte aligned in the core store. -/
def recordPlaceOk (d : CvDesc) : Bool := d.offset % 32 == 0 && decide (d.offset + 32 ≤ storeSize)

/-- SAVE (R419). -/
def State.cvSave (n q : Nat) (d : CvDesc) (s : State) : State :=
  s.onContext n d (fun _ _ _ => recordPlaceOk d) (fun s u _ =>
    match s.globalWrite 3 (storeAddr n d.offset) (s.cvRecord u d.ctx) with
    | (some st, s) => s.failSram n (storeAddr n d.offset) st
    | (none, s) => s.bumpDone n q)

/-- RESTORE (R416, R419): RUNNING, BYTES, ALG and TAG_LEN of a record; RESULT follows from them. -/
def State.cvRestore (n q : Nat) (d : CvDesc) (s : State) : State :=
  s.onContext n d (fun s u t => s.cvFree u d.ctx t && recordPlaceOk d) (fun s u _ =>
    match s.globalRead 3 (storeAddr n d.offset) 32 with
    | (some st, _, s) => s.failSram n (storeAddr n d.offset) st
    | (none, b, s) =>
      let ctrl := Reg.CV_CTRL u d.ctx
      let s := (s.wr64 (Reg.CV_RUNNING_LO u d.ctx) (leAt b 0 8)).wr64 (Reg.CV_BYTES_LO u d.ctx) (leAt b 8 8)
      let s := (s.wrF ctrl Fld.CV_CTRL_ALG (bitsAt (leAt b 16 8) 0 2)).wrF ctrl Fld.CV_CTRL_TAG_LEN (bitsAt (leAt b 16 8) 2 1)
      ((s.wrF ctrl Fld.CV_CTRL_STATE 2).showResult u d.ctx).bumpDone n q)

/-- FEED (R419): bytes of the core store go into an idle context, which stays idle with RESULT valid. -/
def State.cvFeed (n q : Nat) (d : CvDesc) (s : State) : State :=
  s.onContext n d (fun s u t => s.cvFree u d.ctx t && decide (1 ≤ d.length ∧ d.offset + d.length ≤ storeSize)) (fun s u _ =>
    match s.globalRead 3 (storeAddr n d.offset) d.length with
    | (some st, _, s) => s.failSram n (storeAddr n d.offset) st
    | (none, b, s) =>
      let s := ((s.loadContext u d).startContext u d.ctx d.keep).feedContext u d.ctx b
      (s.wrF (Reg.CV_CTRL u d.ctx) Fld.CV_CTRL_STATE 2).bumpDone n q)

/-! ### Attach and detach by the host (R420, R421) -/

def State.cdieExcluded (s : State) (d : Nat) : Bool := s.mgmt.excludedDies.contains d

/-- The path that SRC and INDEX of a context name exists (R418, R421). -/
def State.pathOk (s : State) (u src index : Nat) : Bool :=
  if u < 96 then src == 1 && decide (index < 64) && !s.cdieExcluded (u / 24)
  else
    match src with
    | 1 => index == 0 || (decide (index < 5) && s.partExists (index - 1) && !(s.partDies (index - 1)).all s.cdieExcluded)
    | 2 | 3 => index == 0
    | 4 => decide (index / 64 < s.fuses.pipeCount)
    | 5 => decide (index < s.fuses.linkCount)
    | _ => false

def cvContextFits (s : State) (u x : Nat) : Bool := decide (u < s.fuses.checkUnitCount) && decide (x < 8)

/-- The fields of CV_CTRL beside ATTACH take what PF0 writes, under RL (R10). -/
def State.writeCtrl (u x value : Nat) (s : State) : State :=
  s.writeReg (s.cvState u x == 1) (Reg.CV_CTRL u x) (bitsAt value 0 31 + 2 ^ 31 * s.rdF (Reg.CV_CTRL u x) Fld.CV_CTRL_ATTACH)

/-- PF0 writes CV_CTRL with ATTACH 1 (R421). A context that is attached stays so. -/
def State.hostAttach (u x value : Nat) (s : State) : State :=
  let ctrl := Reg.CV_CTRL u x
  let attached := s.cvState u x == 1
  let owned := (s.cvOwnedBy u x).isSome
  let s := s.writeCtrl u x value
  if owned then s.post St.CVU_CVU_ATTACH_REFUSED
  else if attached then s
  else if s.cvState u x = 3 || !s.pathOk u (s.rdF ctrl Fld.CV_CTRL_SRC) (s.rdF ctrl Fld.CV_CTRL_INDEX) then
    s.post St.CVU_CVU_ATTACH_REFUSED
  else
    let s := (s.wrF ctrl Fld.CV_CTRL_STATE 1).wrF ctrl Fld.CV_CTRL_ATTACH 1
    s.startContext u x (s.rdB ctrl Fld.CV_CTRL_KEEP)

/-- PF0 writes CV_CTRL with ATTACH 0: a context that no task owns is detached (R420). -/
def State.hostDetach (u x value : Nat) (s : State) : State :=
  let attached := s.cvState u x == 1
  let owned := (s.cvOwnedBy u x).isSome
  let s := s.writeCtrl u x value
  if attached && !owned then s.detachContext u x
  else if attached then s
  else s.showResult u x

/-! ### Commands -/

/-- HOST_CV_ATTACH (R421). -/
def execHostCvAttach (u x value : Nat) (s : State) : Out :=
  .next (if s.hostReaches && cvContextFits s u x then s.hostAttach u x value else s)

/-- HOST_CV_DETACH (R420). -/
def execHostCvDetach (u x value : Nat) (s : State) : Out :=
  .next (if s.hostReaches && cvContextFits s u x then s.hostDetach u x value else s)

end Sys2Proof.Machine
end

