-- ==== Sys2Proof/Machine/Dealer.lean ====
section
/-! DEFINITION. Machine/Dealer.lean: fetching and accepting graphs (R79 to R90, R103, R104), the issue decision (R95 to R101),
loading and ending tasks (R84, R85, R92 to R94, R109, R112), and aborting a graph (R116). -/
namespace Sys2Proof.Machine

/-! ### Fetching -/

/-- A submission entry (R103); reserved bits are not checked. -/
def parseEntry (src : GraphSource) (b : List Byte) : SubmissionEntry :=
  let w0 := leAt b 0 8
  let w1 := leAt b 8 8
  ⟨src, bitsAt w0 0 48, bitsAt w1 0 32, bitsAt w1 32 32, bitOf w0 48, bitOf w0 49, bitsAt (leAt b 16 8) 0 48, []⟩

/-- The queue a graph was submitted through, if it is an SQ (R78, R276). -/
def sourceQueue : GraphSource → Option Nat
  | .sq q => some q
  | .pipeline _ _ q => some q
  | _ => none

/-- Graphs of a partition that count against R89. -/
def State.heldGraphs (s : State) (p : Nat) : List Graph := s.dealer.graphs.filter (fun g => g.part == p && Graph_counted g)

/-- Task entries a partition holds (R89). -/
def State.heldTasks (s : State) (p : Nat) : Nat := ((s.heldGraphs p).map (fun g => g.tasks.length)).sum

/-- TASK_COUNT in the bytes of a packet (R80). -/
def packetCount (b : List Byte) : Nat := bitsAt (leAt b 8 8) 0 13

/-- The packet lies aligned in the partition's task space; the serving engine's copy lies in the copy area (R86, R159). -/
def State.packetPlaceOk (s : State) (p : Nat) (e : SubmissionEntry) : Bool :=
  !e.copy.isEmpty || (e.packetAddr % 64 == 0 && s.inTaskSpace p e.packetAddr e.packetBytes)

/-- The record area of a packet of a number of tasks (R86). -/
def State.recordsOk (s : State) (p : Nat) (e : SubmissionEntry) (n : Nat) : Bool :=
  !e.records || (e.recordAddr % 32 == 0 && s.inTaskSpace p e.recordAddr (32 * n))

/-- TASK_COUNT of the packet that an entry names: the dealer reads the packet's header ahead, unless check 1 of R86 fails. Where the read fails the
count is 0, and its status rejects the graph (R131). -/
def State.packetTasks (p : Nat) (e : SubmissionEntry) (s : State) : Nat × Option Nat × State :=
  if !e.copy.isEmpty then (packetCount e.copy, none, s)
  else if !s.packetPlaceOk p e || !s.recordsOk p e 1 || decide (e.packetBytes < 64) then (0, none, s)
  else
    let r := s.hbmRead 3 e.packetAddr 64
    (if r.1.isSome then 0 else packetCount r.2.1, r.1, r.2.2)

/-- Neither limit of R89 would be exceeded by a packet of a number of tasks. -/
def State.roomFor (s : State) (p n : Nat) : Bool :=
  decide ((s.heldGraphs p).length < 64) && decide (s.heldTasks p + n ≤ 8192 * (s.partDies p).length)

/-- An earlier graph of a queue has not completed. -/
def State.queueBusy (s : State) (p q : Nat) : Bool := (s.heldGraphs p).any (fun g => sourceQueue g.source == some q)

/-- An SQ that is enabled, holds an entry that can be read now, and whose bound CQ is not full (R104, R319). -/
def State.sqWaiting (s : State) (p q : Nat) : Bool :=
  let cfg := Reg.SQ_CFG p q
  s.rdB cfg Fld.SQ_CFG_ENABLE
    && s.rdN (Reg.SQ_HEAD p q) != s.rdN (Reg.SQ_TAIL p q)
    && !(s.rdB (Reg.CQ_CFG p (s.rdF cfg Fld.SQ_CFG_CQ)) Fld.CQ_CFG_ENABLE && s.cqFull p (s.rdF cfg Fld.SQ_CFG_CQ))
    && s.hostReadable (s.rdF cfg Fld.SQ_CFG_SPACE) (p + 1)

/-- The head entry of the first of some SQs that does not lose its turn (R104). An entry in HBM that cannot be read stops its
ring (R131). -/
def State.fetchFrom (p : Nat) : List Nat → State → State
  | [], s => s
  | q :: rest, s =>
    if !s.sqWaiting p q then State.fetchFrom p rest s
    else
      let cfg := Reg.SQ_CFG p q
      let log2 := s.rdF cfg Fld.SQ_CFG_SIZE_LOG2
      let head := s.rdN (Reg.SQ_HEAD p q)
      match s.ringRead (s.rdF cfg Fld.SQ_CFG_SPACE) (p + 1) (ringBase (s.rd64 (Reg.SQ_BASE_LO p q)) 32 log2 + 32 * head) 32 with
      | (none, s) => State.fetchFrom p rest (s.stopRing (.sq p q))
      | (some b, s) =>
        let src := match (s.submitsOf p q).find? (fun x => x.seq == bitsAt (leAt b 8 8) 32 32) with
          | some x => GraphSource.pipeline x.pipe x.slot q
          | none => .sq q
        let e := parseEntry src b
        if e.fence && s.queueBusy p q then State.fetchFrom p rest s
        else
          match s.packetTasks p e with
          | (n, bad, s) =>
            if !s.roomFor p n then s
            else
              ((s.wrN (Reg.SQ_HEAD p q) ((head + 1) % 2 ^ log2)).putPartDealer p
                { s.partDealer p with fetched := some e, fetchedBad := bad, turn := (q + 1) % 8 }).flushSubmits p q

/-- The dealer of a partition fetches and starts tasks (R399, R401). -/
def State.dealerOn (s : State) (p : Nat) : Bool :=
  s.powerOn && s.partRunningBit p && s.rdB (Reg.PART_CTRL p) Fld.PART_CTRL_ENABLE

/-- SUBMISSION_FETCH (R104): the serving queue first, then the enabled SQs in round robin. -/
def execSubmissionFetch (p : Nat) (upsets : List Upset) (s : State) : Out :=
  let s := s.upset upsets
  let d := s.partDealer p
  if !(s.partRuns p && s.dealerOn p) || d.fetched.isSome then .next s
  else
    match d.servingQueue with
    | e :: rest => .next (if s.roomFor p (packetCount e.copy) then s.putPartDealer p { d with fetched := some e, fetchedBad := none, servingQueue := rest } else s)
    | [] => .next (State.fetchFrom p ((List.range 8).map (fun i => (d.turn + i) % 8)) s)

/-! ### Acceptance -/

/-- A task descriptor (R81, R83): its successors are taken from the successor array. -/
def parseTask (b : List Byte) (succ : List Nat) : TaskDesc :=
  let w := fun i => leAt b (8 * i) 8
  let n := bitsAt (w 0) 49 2 + 1
  { id := bitsAt (w 0) 0 12
    cls := (classOf (bitsAt (w 0) 12 3)).getD .background
    resident := bitOf (w 0) 15
    depCount := bitsAt (w 0) 16 8
    succs := (succ.drop (bitsAt (w 0) 32 17)).take (bitsAt (w 0) 24 8)
    placements := (List.range n).map (fun i =>
      ⟨bitsAt (w (4 + 2 * i)) 0 4, bitsAt (w (4 + 2 * i)) 4 24, bitsAt (w (4 + 2 * i)) 28 16, bitsAt (w (5 + 2 * i)) 0 48⟩)
    energy := bitsAt (w 1) 0 32
    duration := bitsAt (w 1) 32 32
    rmode := bitsAt (w 2) 0 2
    satEn := bitsAt (w 2) 2 1
    seed := bitsAt (w 2) 32 32
    bodyTag := bitsAt (w 3) 0 32
    collId := bitsAt (w 3) 32 16
    preambleAt := bitsAt (w 3) 48 12
    args := [w 12, w 13, w 14, w 15] }

/-- Reserved bits of a descriptor, those of its placement words included, and the words beyond PLACE_COUNT (R81). -/
def taskReservedOk (b : List Byte) : Bool :=
  let w := fun i => leAt b (8 * i) 8
  let n := bitsAt (w 0) 49 2 + 1
  bitsAt (w 0) 51 13 == 0 && bitsAt (w 2) 3 29 == 0 && bitsAt (w 3) 60 4 == 0
    && (List.range 4).all (fun k =>
      if k < n then bitsAt (w (4 + 2 * k)) 44 20 == 0 && bitsAt (w (5 + 2 * k)) 48 16 == 0
      else w (4 + 2 * k) == 0 && w (5 + 2 * k) == 0)

/-- The ranges of a descriptor's fields (R81, R83, R84). -/
def taskFormatOk (count succEntries i : Nat) (b : List Byte) : Bool :=
  let w := fun i => leAt b (8 * i) 8
  let n := bitsAt (w 0) 49 2 + 1
  let coll := bitsAt (w 0) 12 3 == 3
  bitsAt (w 0) 0 12 == i && decide (i < count)
    && (classOf (bitsAt (w 0) 12 3)).isSome
    && (coll == (bitsAt (w 3) 32 16 != 0))
    && decide (bitsAt (w 0) 32 17 + bitsAt (w 0) 24 8 ≤ succEntries)
    && bitsAt (w 1) 0 32 != 0 && bitsAt (w 1) 32 32 != 0
    && (List.range n).all (fun k =>
      bitsAt (w (5 + 2 * k)) 0 4 == 0
        && bitsAt (w (4 + 2 * k)) 0 4 != 0 && bitsAt (w (4 + 2 * k)) 4 24 != 0 && bitsAt (w (4 + 2 * k)) 28 16 != 0)

/-- Remove, up to fuel times, the tasks that no remaining task names; a cycle leaves some (R86). -/
def acyclicIn : Nat → List TaskDesc → Bool
  | 0, ts => ts.isEmpty
  | fuel + 1, ts =>
    if ts.isEmpty then true
    else
      let rest := ts.filter (fun t => ts.any (fun u => u.succs.contains t.id))
      if rest.length = ts.length then false else acyclicIn fuel rest

/-- DEP_COUNT of every task equals the number of successor entries that name it (R86). -/
def depCountsOk (ts : List TaskDesc) : Bool :=
  let all := ts.flatMap (fun t => t.succs)
  ts.all (fun t => t.depCount == (all.filter (fun i => i == t.id)).length)

/-- The checks of R86 from the third on, over a packet that has been read: the rejection status or the tasks.
DESIGN CHOICE (log 173): within check 5 the points of PACKET_FORMAT are tested before PLACEMENT_OUTSIDE_PARTITION. -/
def State.checkPacket (s : State) (p : Nat) (e : SubmissionEntry) (b : List Byte) : Except Nat (List TaskDesc) :=
  let w := fun i => leAt b (8 * i) 8
  let n := bitsAt (w 1) 0 13
  let m := bitsAt (w 1) 16 17
  let bytes := 64 + 128 * n + 64 * ((m + 31) / 32)
  let headerOk := bitsAt (w 0) 0 16 == 0xD8C7 && bitsAt (w 0) 16 8 == 1 && bitsAt (w 0) 24 8 == 0
    && bitsAt (w 1) 13 3 == 0 && bitsAt (w 1) 33 31 == 0
    && decide (1 ≤ n ∧ n ≤ 4096 ∧ m ≤ 65536) && e.packetBytes == bytes && bitsAt (w 2) 32 32 == bytes
    && bitsAt (w 3) 48 16 == 0 && bitsAt (w 5) 32 32 == 0 && w 6 == 0 && w 7 == 0
  if !headerOk then .error St.DEAL_PACKET_FORMAT
  else
    let succBytes := b.drop (64 + 128 * n)
    let succ := (List.range m).map (fun i => leAt succBytes (2 * i) 2)
    let padOk := (succBytes.drop (2 * m)).all (fun x => x == 0)
    let descs := (List.range n).map (fun i => (b.drop (64 + 128 * i)).take 128)
    if !(padOk && succ.all (fun x => decide (x < 4096)) && descs.all taskReservedOk) then .error St.DEAL_PACKET_FORMAT
    else if crc32cTagged e.seq (b.take 40 ++ [0, 0, 0, 0] ++ b.drop 44) ≠ bitsAt (w 5) 0 32 then .error St.DEAL_PACKET_CRC
    else
      if !(descs.zipIdx.all (fun d => taskFormatOk n m d.2 d.1) && succ.all (fun x => decide (x < n))) then
        .error St.DEAL_PACKET_FORMAT
      else
        let ts := descs.map (fun d => parseTask d succ)
        if !(ts.all (fun t => t.placements.all (fun pl => (placementDies pl).all (s.partDies p).contains))) then
          .error St.DEAL_PLACEMENT_OUTSIDE_PARTITION
        else if !depCountsOk ts then .error St.DEAL_DEP_MISMATCH
        else if !acyclicIn ts.length ts then .error St.DEAL_GRAPH_CYCLE
        else if s.rdN Reg.DEAL_DECK_EPOCH < bitsAt (w 2) 0 32 then .error St.DEAL_DECK_EPOCH_AHEAD
        else .ok ts

/-- A task as it enters the task store (R91). -/
def newTask (now : Nat) (d : TaskDesc) : Task :=
  ⟨d, if d.depCount = 0 then .ready else .waiting, d.depCount, false, now, none, none, [], 0, [], 0, 0, 0, 0, 0, 0, 0, 0⟩

def State.expectOf (s : State) (p : Nat) (src : GraphSource) : Nat :=
  match sourceQueue src with
  | some q => s.rdN (Reg.SQ_EXPECT p q)
  | none => (s.partDealer p).servingExpect

/-- The expected sequence number advances (R87). -/
def State.advanceExpect (p : Nat) (src : GraphSource) (s : State) : State :=
  match sourceQueue src with
  | some q => s.count (Reg.SQ_EXPECT p q)
  | none =>
    let d := s.partDealer p
    s.putPartDealer p { d with servingExpect := (d.servingExpect + 1) % 2 ^ 32 }

/-- A graph is rejected (R86, R106). -/
def State.rejectGraph (p : Nat) (e : SubmissionEntry) (trick st : Nat) (s : State) : State :=
  let s := if st = St.DEAL_SEQ_MISMATCH then s else s.advanceExpect p e.source
  let s := if stBlock st = 2 then s.post st else s
  let s := match sourceQueue e.source with
    | some q => s.postCompletion p ⟨q, st, e.seq, 0, s.now, 0, 0, 0⟩
    | none => s
  match e.source with
  | .sq _ => s
  | .pipeline pipe slot q => s.pipelineGraphEnded p pipe slot q st
  | _ => { s with dealer := { s.dealer with reports := s.dealer.reports ++ [⟨p, e.source, trick, st, [], false⟩] } }

/-- The die controller reads a word of its own structures, which lie in the controller reserve of the partition's lead C-die. The spec does not say
where: the command that reads them brings the address of the word that fails, if one does (R131, R132). -/
def State.readReserve (p : Nat) (word : Option Nat) (s : State) : Option Nat × State :=
  match word, (s.partDies p).head? with
  | some a, some d => if s.inReserve d a 1 then ((s.releaseHeld a 1).touchStacks a 1).readWords 3 [a / 32] else (none, s)
  | _, _ => (none, s)

/-- The bytes of the packet that an entry names; a copy of the serving engine's lies in the reserve (R131, R159). -/
def State.readPacket (p : Nat) (e : SubmissionEntry) (copyBad : Option Nat) (s : State) : Option Nat × List Byte × State :=
  if e.copy.isEmpty then s.globalRead 3 e.packetAddr (min e.packetBytes 655424)
  else let r := s.readReserve p copyBad; (r.1, e.copy, r.2)

/-- Check, accept or reject a fetched entry (R86, R87, R90). -/
def State.acceptEntry (p : Nat) (e : SubmissionEntry) (copyBad : Option Nat) (s : State) : State :=
  if !s.packetPlaceOk p e || !s.recordsOk p e 1 then s.rejectGraph p e 0 St.DEAL_BAD_ENTRY
  else
    match s.readPacket p e copyBad with
    | (some st, _, s) => s.rejectGraph p e 0 st
    | (none, b, s) =>
      if !s.recordsOk p e (packetCount b) then s.rejectGraph p e 0 St.DEAL_BAD_ENTRY else
      let trick := bitsAt (leAt b 24 8) 0 48
      let expect := s.expectOf p e.source
      if e.seq ≠ expect ∨ bitsAt (leAt b 0 8) 32 32 ≠ expect then s.rejectGraph p e trick St.DEAL_SEQ_MISMATCH
      else
        match s.checkPacket p e b with
        | .error st => s.rejectGraph p e trick st
        | .ok ts =>
          let s := s.advanceExpect p e.source
          let g : Graph := {
            uid := s.dealer.nextUid, part := p, source := e.source, seq := e.seq, tag := leAt b 32 8, trick := trick
            deckOld := decide (bitsAt (leAt b 16 8) 0 32 < s.rdN Reg.DEAL_DECK_EPOCH)
            records := if e.records then some e.recordAddr else none
            aborted := false
            tasks := ts.map (newTask s.now) }
          { s.wake with dealer := { s.dealer with graphs := s.dealer.graphs ++ [g], nextUid := s.dealer.nextUid + 1 } }

/-- An entry of the pipeline sequencer leaves its queue. -/
def State.dropSubmit (p : Nat) (e : SubmissionEntry) (s : State) : State :=
  match e.source with
  | .pipeline _ _ q => { s with vision := { s.vision with
      submits := s.vision.submits.filter (fun x => !(x.part == p && x.q == q && x.seq == e.seq)) } }
  | _ => s

/-- GRAPH_ACCEPT (R86): the entry last fetched is checked, and accepted or rejected. -/
def execGraphAccept (p : Nat) (copyBad : Option Nat) (upsets : List Upset) (s : State) : Out :=
  let s := s.upset upsets
  let d := s.partDealer p
  match d.fetched with
  | none => .next s
  | some e =>
    .next (if s.partWorks p then
        let s := (s.putPartDealer p { d with fetched := none, fetchedBad := none }).dropSubmit p e
        match d.fetchedBad with
        | some st => s.rejectGraph p e 0 st
        | none => s.acceptEntry p e copyBad
      else s)

/-! ### The issue decision -/

/-- A ready task in rank order: its graph, its task, the time that ranks it, and whether its age put it there (R97). -/
structure Ranked where
  graph : Graph
  task : Task
  rankTime : Nat
  aged : Bool
  deriving DecidableEq, Repr

/-- The order of R97; a task that came by age stands behind those that became READY at the same time. -/
def rankBefore (a b : Ranked) : Bool :=
  decide (a.rankTime < b.rankTime ∨ (a.rankTime = b.rankTime ∧ (boolNat a.aged < boolNat b.aged ∨ (a.aged = b.aged ∧
    (a.graph.uid < b.graph.uid ∨ (a.graph.uid = b.graph.uid ∧ a.task.desc.id < b.task.desc.id))))))

def rankInsert (x : Ranked) : List Ranked → List Ranked
  | [] => [x]
  | y :: t => if rankBefore x y then x :: y :: t else y :: rankInsert x t

def isBallast (g : Graph) : Bool := match g.source with | .ballast _ => true | _ => false

/-- BG_MAX_WAIT in ns. -/
def State.maxWait (s : State) : Nat := s.rdF Reg.DEAL_CFG Fld.DEAL_CFG_BG_MAX_WAIT * 1000000

/-- A background task other than ballast has been READY for longer than a time (R97). -/
def agedBy (wait now : Nat) (g : Graph) (t : Task) : Bool :=
  t.desc.cls == .background && !isBallast g && phaseReady t.phase && decide (t.readyAt + wait < now)

/-- BG_MAX_WAIT has changed from an old value: a task that ranks as a vision task keeps the time since when it does, and one that comes to do so now
ranks after every vision task that is already READY (R97). -/
def State.waitChanged (old : Nat) (s : State) : State :=
  if old = s.maxWait then s
  else
    let since := fun (g : Graph) (t : Task) =>
      if agedBy s.maxWait s.now g t then some (t.agedAt.getD (if agedBy old s.now g t then t.readyAt + old + 1 else s.now)) else none
    let graph := fun (g : Graph) => ({ g with tasks := g.tasks.map (fun t => { t with agedAt := since g t }) } : Graph)
    { s with dealer := { s.dealer with graphs := s.dealer.graphs.map graph } }

/-- Ready tasks of one class; a background task that is no ballast and has waited longer than BG_MAX_WAIT counts as a vision
task, after those that were already ready (R97). -/
def State.rankedOf (s : State) (p : Nat) (cls : TaskClass) : List Ranked :=
  let maxWait := s.maxWait
  let all := (s.dealer.graphs.filter (fun g => g.part == p)).flatMap (fun g =>
    (g.tasks.filter (fun t => phaseReady t.phase)).map (fun t => (g, t)))
  let mine := all.filterMap (fun e =>
    if agedBy maxWait s.now e.1 e.2 then (if cls = .vision then some ⟨e.1, e.2, e.2.agedAt.getD (e.2.readyAt + maxWait + 1), true⟩ else none)
    else if e.2.desc.cls = cls then some ⟨e.1, e.2, e.2.readyAt, false⟩ else none)
  mine.foldl (fun l x => rankInsert x l) []

/-- A collective task with a successor of class trump (R101). -/
def trumpServing (g : Graph) (t : Task) : Bool :=
  t.desc.cls == .collective && t.desc.succs.any (fun i =>
    match Graph_task g i with
    | some u => u.desc.cls == .trump
    | none => false)

/-- A trump task of the trick is READY or RESERVED (R98). -/
def State.trumpWaiting (s : State) (p trick : Nat) : Bool :=
  s.dealer.graphs.any (fun g => g.part == p && g.trick == trick &&
    g.tasks.any (fun t => t.desc.cls == .trump && phaseReady t.phase))

/-- Steps 2 to 4 of R100. -/
def State.energyAdmits (s : State) (p : Nat) (g : Graph) (t : Task) (held : Bool) : Bool :=
  let budget := s.rdN (Reg.WINDOW_BUDGET p)
  let need := s.rdN (Reg.WINDOW_CHARGED p) + t.desc.energy + s.rdN (Reg.WINDOW_DEBT p)
  let borrow := s.rdF Reg.DEAL_CFG Fld.DEAL_CFG_TRUMP_BORROW
  let trumpRules := t.desc.cls == .trump || trumpServing g t
  decide (need ≤ budget)
    || (trumpRules && !s.capLag && decide (100 * need ≤ budget * (100 + borrow)))
    || (t.desc.cls != .trump && !s.capLag && !held &&
      (match t.heldSince with
       | some h => decide (h + 250000 < s.now)
       | none => false))

/-- A link that a partition owns and that has not gone down (R32, R327). -/
def State.ownsLink (s : State) (p l : Nat) : Bool :=
  s.rdB (Reg.LINK_STATE l) Fld.LINK_STATE_OWNED && s.rdF (Reg.LINK_STATE l) Fld.LINK_STATE_OWNER == p
    && (s.rdF (Reg.LINK_STATE l) Fld.LINK_STATE_STATE == 3 || s.rdF (Reg.LINK_STATE l) Fld.LINK_STATE_STATE == 4)

/-- A partition owns a working link for its group (R115). -/
def State.groupLinkUp (s : State) (p : Nat) : Bool := (List.range s.fuses.linkCount).any (s.ownsLink p)

/-- What one decision carries from task to task. -/
structure DecisionState where
  startedOn : List Nat
  held : Bool
  /-- cores reserved by tasks of higher rank -/
  reserved : List Nat
  deriving DecidableEq, Repr

/-- Cores on which a task starts leave every reservation (R95). -/
def State.dropReservations (cores : List Nat) (s : State) : State :=
  let task := fun (u : Task) => ({ u with reserved := u.reserved.filter (fun n => !cores.contains n) } : Task)
  let graph := fun (h : Graph) => ({ h with tasks := h.tasks.map task } : Graph)
  { s with dealer := { s.dealer with graphs := s.dealer.graphs.map graph } }

/-- Start a task on a placement (R95, R99, R100, R364). -/
def State.startTask (p : Nat) (g : Graph) (t : Task) (i : Nat) (s : State) : State :=
  let cores := match t.desc.placements[i]? with
    | some pl => placementCores pl
    | none => []
  let s := s.wrN (Reg.WINDOW_CHARGED p) (satAdd 0xFFFFFFFF (s.rdN (Reg.WINDOW_CHARGED p)) t.desc.energy)
  let s := s.updGraph g.uid (Graph_upd t.desc.id (fun t =>
    { t with phase := .loading, placement := i, cores := cores, charged := t.desc.energy, startTs := s.now, reserved := [] }))
  let s := s.dropReservations cores
  let s := s.overList cores (fun n u => (u.putCore n { u.coreAt n with task := some (g.uid, t.desc.id) }).requestCore n)
  let boosts := t.desc.cls == .trump || t.desc.cls == .prefill
  let s := if boosts then s.boostClusters (g.uid, t.desc.id) (cores.foldl (fun l n => setInsert (coreCluster n) l) []) else s
  let s := s.count (Reg.ISSUED p (classCode t.desc.cls))
  if isBallast g then
    ({ s with power := { s.power with ballastStarted := s.power.ballastStarted + 1 } }).count (Reg.PWR_COUNTER 5)
  else s

/-- One task of a decision (R95, R96, R98, R100, R101). -/
def State.decideTask (p : Nat) (x : Ranked) (acc : DecisionState × State) : DecisionState × State :=
  let (d, s) := acc
  match s.taskAt x.graph.uid x.task.desc.id with
  | none => acc
  | some (g, t) =>
    if !phaseReady t.phase then acc
    else
      let keep : DecisionState × State := ({ d with reserved := d.reserved ++ t.reserved }, s)
      let setTask := fun (f : Task → Task) => s.updGraph g.uid (Graph_upd t.desc.id f)
      if d.held && !trumpServing g t then keep
      else if t.desc.cls == .prefill && s.trumpWaiting p g.trick then keep
      else
        let usable := (t.desc.placements.zipIdx).filter (fun e => (placementCores e.1).all s.coreWorking)
        let free := fun n => (s.coreAt n).task.isNone && !d.reserved.contains n && !s.coreResetting n
        match usable with
        | [] => (d, s.failTask g.uid t.desc.id St.DEAL_NO_PLACEMENT)
        | (pl, _) :: _ =>
          if t.desc.cls == .collective && !s.groupLinkUp p then (d, s.failTask g.uid t.desc.id St.DEAL_NO_PLACEMENT)
          else if (placementDies pl).any d.startedOn.contains then keep
          else
            match usable.find? (fun e => (placementCores e.1).all free) with
            | none =>
              let mine := (placementCores pl).filter (fun n => !d.reserved.contains n)
              let s := setTask (fun t => { t with phase := .reserved, reserved := mine })
              ({ d with reserved := d.reserved ++ mine }, s.overList mine (fun n u => u.requestCore n))
            | some (pf, i) =>
              if (placementDies pf).any d.startedOn.contains then keep
              else if !s.energyAdmits p g t d.held then
                ({ d with held := true, reserved := d.reserved ++ t.reserved },
                  setTask (fun t => { t with heldSince := some (t.heldSince.getD s.now) }))
              else ({ d with startedOn := d.startedOn ++ placementDies pf }, s.startTask p g t i)

/-- DEALER_DECISION (R98): every 8 ns the lead issue unit of a partition reserves, charges and starts ready tasks. -/
def execDealerDecision (p : Nat) (s : State) : Out :=
  if !(s.partWorks p && s.dealerOn p) then .next s
  else
    .next ([TaskClass.trump, .prefill, .vision, .collective, .background].foldl
      (fun acc cls => (acc.2.rankedOf p cls).foldl (fun acc x => State.decideTask p x acc) acc)
      (({ startedOn := [], held := false, reserved := [] } : DecisionState), s)).2

/-! ### Loading, running, ending -/

/-- The state of a core at the start of a task (R45). -/
def CoreState.atStart (n : Nat) (d : TaskDesc) (task : Nat × Nat) (tag : Nat) (c : CoreState) : CoreState :=
  { c.cleared with
    rmode := d.rmode, satEn := d.satEn
    lfsr := if d.seed ^^^ n = 0 then 1 else d.seed ^^^ n
    bodyTag := tag, task := some task }

/-- The preamble of R85. -/
def preamble (g : Graph) (t : Task) (rank epoch : Nat) : List Byte :=
  leBytes 8 (t.desc.id + classCode t.desc.cls * 2 ^ 12 + t.placement * 2 ^ 16 + rank * 2 ^ 32 + t.cores.length * 2 ^ 48)
    ++ leBytes 8 g.seq ++ leBytes 8 g.trick ++ leBytes 8 epoch ++ t.desc.args.flatMap (leBytes 8)

/-- A body table entry keeps R84. DESIGN CHOICE (log 220): one whose reserved or unlisted bits are not 0 breaks it. -/
def bodyEntryOk (s : State) (p addr off bytes reserved : Nat) : Bool :=
  addr % 64 == 0 && off % 64 == 0 && bytes % 64 == 0 && decide (64 ≤ bytes ∧ bytes ≤ 131072)
    && decide (off + bytes ≤ storeSize) && reserved == 0 && s.inTaskSpace p addr bytes

/-- Load the body and write the preamble on one core (R84, R85, R109): none, or the status that fails the task.
DESIGN CHOICE (log 174): the preamble is written after the image, where the two overlap. -/
def State.loadCore (g : Graph) (t : Task) (table rank n : Nat) (s : State) : Option Nat × State :=
  if !s.inTaskSpace g.part (table + 16 * rank) 16 then (some St.DEAL_DESCRIPTOR_ERROR, s)
  else
    match s.globalRead 3 (table + 16 * rank) 16 with
    | (some st, _, s) => (some st, s)
    | (none, b, s) =>
      let w0 := leAt b 0 8
      let w1 := leAt b 8 8
      let addr := bitsAt w0 0 48
      let off := bitsAt w1 0 18
      let bytes := bitsAt w1 18 18
      if !bodyEntryOk s g.part addr off bytes (bitsAt w0 48 16 + bitsAt w1 36 28) then (some St.DEAL_DESCRIPTOR_ERROR, s)
      else
        let c := s.coreAt n
        let finish := fun (s : State) =>
          let s := (s.sramWrite (storeAddr n (64 * t.desc.preambleAt)) (preamble g t rank (s.rdN Reg.DECK_EPOCH))).2
          s.putCore n (CoreState.atStart n t.desc (g.uid, t.desc.id) t.desc.bodyTag c)
        if t.desc.resident && t.desc.bodyTag != 0 && c.bodyTag == t.desc.bodyTag then (none, finish s)
        else
          match s.globalRead 3 addr bytes with
          | (some st, _, s) => (some st, s)
          | (none, image, s) => (none, finish (s.sramWrite (storeAddr n off) image).2)

def State.loadCores (g : Graph) (t : Task) (table : Nat) : List (Nat × Nat) → State → Option Nat × State
  | [], s => (none, s)
  | (n, rank) :: rest, s =>
    match s.loadCore g t table rank n with
    | (some st, s) => (some st, s)
    | (none, s) => State.loadCores g t table rest s

/-- Cycles after which a task that begins now times out (R112): the TIMEOUT_MULT in force stays with it (R405). -/
def State.timeoutLimit (s : State) (t : Task) : Nat := t.desc.duration * s.rdF Reg.DEAL_CFG Fld.DEAL_CFG_TIMEOUT_MULT + 200000

/-- The first bundles of a task issue (R91). -/
def Task.begin (now limit : Nat) (t : Task) : Task := { t with phase := .running, runTs := now, limit := limit }

/-- TASK_LOAD_COMPLETE (R109): every core has power, the bodies and preambles are written, and the first bundles issue. -/
def execTaskLoadComplete (uid tid : Nat) (upsets : List Upset) (s : State) : Out :=
  let s := s.upset upsets
  match s.taskAt uid tid with
  | none => .next s
  | some (g, t) =>
    if t.phase ≠ .loading || !s.partWorks g.part || !Graph_counted g || !t.cores.all (fun n => s.corePowered n && s.clusterPowered (coreCluster n)) then .next s
    else
      let table := match t.desc.placements[t.placement]? with
        | some pl => pl.bodyTable
        | none => 0
      match State.loadCores g t table t.cores.zipIdx s with
      | (some st, s) => .next (s.failTask uid tid st)
      | (none, s) => .next (s.updGraph uid (Graph_upd tid (Task.begin s.now (s.timeoutLimit t))))

/-- A core has halted and drained (R47). -/
def CoreState.drained (c : CoreState) : Bool := c.halted && c.queues.isEmpty && c.issued.isEmpty && c.landing.isEmpty && c.sfu.isEmpty

/-- TASK_DONE (R47, R92): every core of the task has halted and drained. A collective in abort form ends FAILED (R93).
DESIGN CHOICE (log 172): its cores are then reset as those of any failed task. -/
def execTaskDone (uid tid : Nat) (s : State) : Out :=
  match s.taskAt uid tid with
  | none => .next s
  | some (g, t) =>
    if t.phase ≠ .running || !s.partWorks g.part || !t.cores.all (fun n => (s.coreAt n).drained)
        || s.ndx.collectives.any (fun c => c.uid == uid && c.tid == tid) then .next s
    else if t.abortForm then .next (s.failTask uid tid St.DEAL_PREDECESSOR_FAILED)
    else
      let flags := t.cores.foldl (fun f n => f ||| (s.coreAt n).flags) 0
      let stall := t.cores.foldl (fun f n => max f (s.coreAt n).stalls) 0
      let empty := t.cores.any (fun n => (s.coreAt n).emptySeen)
      let s := s.overList t.cores (fun n u => u.freeCore n)
      let s := (s.endBoost (uid, tid)).detachTask uid tid
      let s := s.updGraph uid (fun g => releaseSuccs s.now t.desc.succs (Graph_upd tid (fun t =>
        { t with phase := .done, status := if empty then St.VIS_EMPTY_OUTPUT else 0x2000, endTs := s.now, flags := flags
                 stallMax := stall }) g))
      match s.taskAt uid tid with
      | none => .next s
      | some (g, t) => .next ((s.writeRecord g t).finishGraph uid)

/-- TASK_TIMEOUT (R112): a core of the task still runs DURATION × TIMEOUT_MULT + 200,000 cycles after its first bundle. -/
def execTaskTimeout (uid tid : Nat) (fw : List Upset) (s : State) : Out :=
  let s := s.upset fw
  match s.taskAt uid tid with
  | none => .next s
  | some (g, t) =>
    let late := t.cores.any (fun n => !(s.coreAt n).drained && decide (t.limit * cycleUnit ≤ (s.coreAt n).cycles))
    .next (if t.phase = .running && s.partWorks g.part && late then s.failTask uid tid St.DEAL_TASK_TIMEOUT else s)

/-- A write of ABORT_SEQ (R116): unstarted tasks of the named graph become SKIPPED with GRAPH_ABORTED. -/
def State.abortGraph (uid : Nat) (s : State) : State :=
  match s.graphAt uid with
  | none => s
  | some g =>
    let unstarted := fun (t : Task) => !phaseEnded t.phase && !phaseStarted t.phase
    let ids := (g.tasks.filter unstarted).map (fun t => t.desc.id)
    let g' := { g with
      aborted := true
      tasks := g.tasks.map (fun t =>
        if unstarted t then { t with phase := .skipped, status := St.DEAL_GRAPH_ABORTED, endTs := s.now, reserved := [] } else t) }
    let s := s.updGraph uid (fun _ => g')
    let s := s.overList ids (fun i u =>
      match Graph_task g' i with
      | some x => (u.post x.status).writeRecord g' x
      | none => u)
    s.finishGraph uid

/-- A write of ABORT_SEQ by a function that reaches the partition's queue page. -/
def State.abortSeq (fn p seq : Nat) (s : State) : State :=
  if !(s.hostReaches && s.mayReach fn p && s.partWorks p) then s
  else
    let q := s.rdF (Reg.PART_CTRL p) Fld.PART_CTRL_ABORT_SQ
    match (s.heldGraphs p).find? (fun g => sourceQueue g.source == some q && g.seq == seq % 2 ^ 32) with
    | some g => s.abortGraph g.uid
    | none => s

/-- ABORT_SEQ. -/
def execAbortSeq (fn p seq : Nat) (s : State) : Out := .next (s.abortSeq fn p seq)

end Sys2Proof.Machine
end

