-- ==== Sys2Proof/Machine/KvOps.lean ====
section
/-! DEFINITION. Machine/KvOps.lean: the KV region and its stock (R186 to R190), page rows and their references (R180 to R185,
R203, R207), page tables (R192), the kitty (R193), and commit, flush, copy-on-write and rollback (R197 to R208). -/
namespace Sys2Proof.Machine

/-! ### Geometry of a slot -/

def State.slotLayers (s : State) (sl : Nat) : Nat := s.rdF (Reg.SLOT_GEOM sl) Fld.SLOT_GEOM_LAYERS
def State.kvHeads (s : State) (sl : Nat) : Nat := s.rdF (Reg.KV_GEOM sl) Fld.KV_GEOM_KV_HEADS
def State.headDim (s : State) (sl : Nat) : Nat := 64 * 2 ^ s.rdF (Reg.KV_GEOM sl) Fld.KV_GEOM_HEAD_DIM
def State.slotOwner (s : State) (sl : Nat) : Nat := s.rdF (Reg.SLOT_CTRL sl) Fld.SLOT_CTRL_OWNER
def State.slotOwned (s : State) (sl : Nat) : Bool := s.rdB (Reg.SLOT_CTRL sl) Fld.SLOT_CTRL_OWNED
def State.slotState (s : State) (sl : Nat) : Nat := s.rdF (Reg.SLOT_CTRL sl) Fld.SLOT_CTRL_STATE
def State.slotReady (s : State) (sl : Nat) : Bool := s.slotOwned sl && s.slotState sl == 2
def State.slotLead (s : State) (sl : Nat) : Bool := s.rdB (Reg.SLOT_CTRL sl) Fld.SLOT_CTRL_LEAD
def State.maxPositions (s : State) (sl : Nat) : Nat := s.rdF (Reg.SLOT_MAXPOS sl) Fld.SLOT_MAXPOS_MAX_POSITIONS

def pow2Floor (n : Nat) : Nat := if n = 0 then 1 else 2 ^ Nat.log2 n
def pow2Ceil (n : Nat) : Nat := if n ≤ 1 then 1 else 2 ^ (Nat.log2 (n - 1) + 1)
def roundUp (n k : Nat) : Nat := (n + k - 1) / k * k

/-- Bytes of n elements of a page format (R184). -/
def fmtBytes (fmt n : Nat) : Nat := if fmt = 1 then n / 2 else if fmt = 2 then 2 * n else n

/-- Content of each half of a page, and its block (R185). -/
def State.pageHalf (s : State) (sl fmt p : Nat) : Nat := fmtBytes fmt (s.kvHeads sl * p * s.headDim sl)
def State.pageBlock (s : State) (sl fmt p : Nat) : Nat := pow2Ceil (max (2 * s.pageHalf sl fmt p) 4096)
def State.pageOrder (s : State) (sl fmt p : Nat) : Nat := Nat.log2 (s.pageBlock sl fmt p / 4096)

/-- P of R181. -/
def State.pageSizeLog2 (s : State) (sl want : Nat) : Nat :=
  let lo := s.rdF (Reg.KV_FMT sl) Fld.KV_FMT_PAGE_MIN_LOG2
  let hi := s.rdF (Reg.KV_FMT sl) Fld.KV_FMT_PAGE_MAX_LOG2
  max lo (min (Nat.log2 (pow2Floor (want / 8))) hi)

/-- Positions of the row that begins at b for a sequence of page size P (R182). -/
def rowPositions (pLog2 b : Nat) : Nat :=
  if b % 2 ^ pLog2 = 0 then 2 ^ pLog2 else (List.range (pLog2 + 1)).foldl (fun m i => if b % 2 ^ i = 0 then 2 ^ i else m) 16

/-! ### The stock: a buddy allocator per C-die (R187) -/

def State.regionUnits (s : State) (d : Nat) : Nat := s.rdF (Reg.KV_SIZE d) Fld.KV_SIZE_UNITS_16M
def State.stockOf (s : State) (d : Nat) : List (Nat × Nat) :=
  (mapGet d s.serving.stock).getD ((List.range (s.regionUnits d)).map (fun i => (4096 * i, 12)))

/-- Largest free order, 0 where nothing is free. -/
def largestOrder (l : List (Nat × Nat)) : Nat := l.foldl (fun m e => max m e.2) 0
def freeUnits (l : List (Nat × Nat)) : Nat := (l.map (fun e => 2 ^ e.2)).sum

/-- Split the block at an offset from order j down to k: the upper halves become free. -/
def buddySplit (k off : Nat) : Nat → List (Nat × Nat) → List (Nat × Nat)
  | 0, l => l
  | j + 1, l => if j < k then l else buddySplit k off j (mapSet (off + 2 ^ j) j l)

/-- Take a block of order k: the smallest order at or above k, then the lowest address. -/
def buddyTake (k : Nat) (l : List (Nat × Nat)) : Option (Nat × List (Nat × Nat)) :=
  match l.foldl (fun best e =>
      if e.2 < k then best
      else match best with
        | none => some e
        | some b => if e.2 < b.2 ∨ (e.2 = b.2 ∧ e.1 < b.1) then some e else best) none with
  | none => none
  | some (off, j) => some (off, buddySplit k off j (mapDel off l))

/-- Free a block: it merges with its buddy up to order 12. -/
def buddyGive : Nat → Nat → Nat → List (Nat × Nat) → List (Nat × Nat)
  | 0, off, k, l => mapSet off k l
  | fuel + 1, off, k, l =>
    let buddy := if off / 2 ^ k % 2 = 0 then off + 2 ^ k else off - 2 ^ k
    if k < 12 ∧ mapGet buddy l = some k then buddyGive fuel (min off buddy) (k + 1) (mapDel buddy l)
    else mapSet off k l

def State.putStock (d : Nat) (l : List (Nat × Nat)) (s : State) : State :=
  let s := { s with serving := { s.serving with stock := mapSet d l s.serving.stock } }
  let s := s.wrF (Reg.STOCK_FREE d) Fld.STOCK_FREE_UNITS_4K (freeUnits l)
  let s := s.wrF (Reg.STOCK_FREE d) Fld.STOCK_FREE_LARGEST (largestOrder l)
  s.wrF (Reg.STOCK_FREE d) Fld.STOCK_FREE_EMPTY (boolNat l.isEmpty)

/-- Allocate n blocks of one order, all or none (R188). -/
def takeBlocks (k : Nat) : Nat → List (Nat × Nat) → Option (List Nat × List (Nat × Nat))
  | 0, l => some ([], l)
  | n + 1, l =>
    match buddyTake k l with
    | none => none
    | some (off, l) => (takeBlocks k n l).map (fun r => (off :: r.1, r.2))

def giveBlocks (k : Nat) (offs : List Nat) (l : List (Nat × Nat)) : List (Nat × Nat) :=
  offs.foldl (fun l o => buddyGive 13 o k l) l

/-! ### Page descriptors and rows (R189, R190) -/

def pageRef (d off : Nat) : Nat := off + d * 2 ^ 25
def refDie (r : Nat) : Nat := r / 2 ^ 25
def refOff (r : Nat) : Nat := r % 2 ^ 25
def nullRef : Nat := 0xFFFFFFFF

def State.kvBase (s : State) (d : Nat) : Nat := s.rd64 (Reg.KV_BASE_LO d)
def State.descAddr (s : State) (d off : Nat) : Nat := s.rd64 (Reg.DESC_BASE_LO d) + 16 * off
def State.blockAddr (s : State) (d off : Nat) : Nat := s.kvBase d + 4096 * off

/-- Descriptor of layer l's page of a row; the row-wide fields stand in layer 0's (R189). -/
def descNumber (r : KvRow) (l : Nat) : Nat :=
  1 + r.order * 2 ^ 2 + r.format * 2 ^ 6 + r.log2p * 2 ^ 8 + r.slot * 2 ^ 12
    + (r.fill.getD l 0) * 2 ^ 35
    + (if l = 0 then r.refcount * 2 ^ 15 + r.leases * 2 ^ 46 + r.leaseTrick % 2 ^ 32 * 2 ^ 54 + (r.source.getD nullRef) * 2 ^ 86
       else nullRef * 2 ^ 86)

def State.writeDescs (r : KvRow) (s : State) : State :=
  s.overList r.blocks.zipIdx (fun e t => t.engineWrite (t.descAddr (refDie r.ref) e.1) (leBytes 16 (descNumber r e.2)))

def State.rowAt (s : State) (ref : Nat) : Option KvRow := s.serving.rows.find? (fun r => r.ref == ref)
def State.rowsOn (s : State) (d : Nat) : Nat := (s.serving.rows.filter (fun r => refDie r.ref == d)).length

def State.updRow (ref : Nat) (f : KvRow → KvRow) (s : State) : State :=
  match s.rowAt ref with
  | none => s
  | some r =>
    let r' := f r
    ({ s with serving := { s.serving with rows := s.serving.rows.map (fun x : KvRow => if x.ref = ref then r' else x) } }).writeDescs r'

/-- Allocate a row of 2^log2p positions on a C-die (R188): none where the stock cannot give LAYERS blocks. DESIGN CHOICE (log 178): its LEASE_TRICK
starts at the last trick of its slot, so that every later trick is newer. -/
def State.allocRow (d sl fmt log2p : Nat) (s : State) : Option (Nat × State) :=
  let layers := s.slotLayers sl
  let k := s.pageOrder sl fmt (2 ^ log2p)
  match takeBlocks k layers (s.stockOf d) with
  | none => none
  | some (blocks, l) =>
    let ref := pageRef d (blocks.headD 0)
    let r : KvRow := ⟨ref, blocks, k, log2p, fmt, sl, 0, 0, s.rdN (Reg.TRICK_LO sl), none, List.replicate layers 0⟩
    let s := s.putStock d l
    let s := { s with serving := { s.serving with rows := s.serving.rows ++ [r] } }
    some (ref, (s.writeDescs r).wrN (Reg.ROWS_ALLOC d) (s.rowsOn d))

/-- Is a trick of a slot completed or abandoned on this member, modulo 2^32 (R207)? -/
def State.trickOver (s : State) (sl t : Nat) : Bool := decide ((s.rdN (Reg.TRICK_LO sl) + 2 ^ 32 - t % 2 ^ 32) % 2 ^ 32 < 2 ^ 31)

/-- A row returns to the stock when nothing holds it (R207). -/
def State.tryFree (ref : Nat) (s : State) : State :=
  match s.rowAt ref with
  | none => s
  | some r =>
    if r.refcount = 0 ∧ r.leases = 0 ∧ s.trickOver r.slot r.leaseTrick then
      let d := refDie ref
      let s := { s with serving := { s.serving with rows := s.serving.rows.filter (fun x : KvRow => x.ref != ref) } }
      let s := s.overList r.blocks (fun o t => t.engineWrite (t.descAddr d o) (List.replicate 16 0))
      (s.putStock d (giveBlocks r.order r.blocks (s.stockOf d))).wrN (Reg.ROWS_ALLOC d) (s.rowsOn d)
    else s

def State.addRef (ref : Nat) (s : State) : State := s.updRow ref (fun r => { r with refcount := min (r.refcount + 1) 1048575 })
def State.dropRef (ref : Nat) (s : State) : State := (s.updRow ref (fun r => { r with refcount := r.refcount - 1 })).tryFree ref
def State.lease (ref : Nat) (s : State) : State := s.updRow ref (fun r => { r with leases := min (r.leases + 1) 255 })
def State.unlease (ref : Nat) (s : State) : State := (s.updRow ref (fun r => { r with leases := r.leases - 1 })).tryFree ref

/-- Rows of a slot that nothing holds any more return at a commit of the slot (R207). -/
def State.freeRows (sl : Nat) (s : State) : State :=
  s.overList ((s.serving.rows.filter (fun r => r.slot == sl && r.refcount == 0)).map (fun r => r.ref)) (fun r t => t.tryFree r)

/-- A descriptor of trick T resolves a position in a row (R205). -/
def State.trickLease (ref t : Nat) (s : State) : State :=
  s.updRow ref (fun r => if (t % 2 ^ 32 + 2 ^ 32 - r.leaseTrick) % 2 ^ 32 < 2 ^ 31 then { r with leaseTrick := t % 2 ^ 32 } else r)

/-! ### Hand records -/

def State.handAt (s : State) (p i : Nat) : Option HandRecord := (s.partServing p).hrs.find? (fun h => h.index == i)
def State.putHand (p : Nat) (h : HandRecord) (s : State) : State :=
  let x := s.partServing p
  s.putServing p { x with hrs := x.hrs.map (fun g => if g.index = h.index then h else g) }
def State.updHand (p i : Nat) (f : HandRecord → HandRecord) (s : State) : State :=
  match s.handAt p i with
  | some h => s.putHand p (f h)
  | none => s

/-- Hand records of a partition's share (R32). -/
def State.handShare (s : State) (p : Nat) : Nat := 4096 * bitsAt (s.rdN Reg.SRV_HR_SHARE) (8 * p) 5

/-- PART_SRV_COUNT and SLOT_RUNNING show the queues and records as they stand. -/
def State.showServing (p : Nat) (s : State) : State :=
  let x := s.partServing p
  let off := Reg.PART_SRV_COUNT p
  let s := s.wrF off Fld.PART_SRV_COUNT_HELD x.held.length
  let s := s.wrF off Fld.PART_SRV_COUNT_HR_FREE (min 65535 (s.handShare p - x.hrs.length))
  s.overList ((List.range 8).filter (fun sl => s.slotOwned sl && s.slotOwner sl == p)) (fun sl t =>
    t.wrN (Reg.SLOT_RUNNING sl)
      ((x.hrs.filter (fun h => h.desc.slot == sl && (h.phase == .prefill || h.phase == .decode))).length))

/-! ### Page tables (R192) -/

def HandRecord.table (h : HandRecord) (d : Nat) : KvTable := (h.tables.find? (fun t => t.die == d)).getD ⟨d, [], []⟩
def HandRecord.putTable (t : KvTable) (h : HandRecord) : HandRecord :=
  { h with tables := h.tables.map (fun u => if u.die = t.die then t else u) }

def entryEnd (e : KvEntry) : Nat := e.basePos + 2 ^ e.log2p
def tableEnd (t : KvTable) : Nat := (t.entries.getLast?.map entryEnd).getD 0
def KvTable.covering (t : KvTable) (pos : Nat) : Option KvEntry := t.entries.find? (fun e => decide (e.basePos ≤ pos ∧ pos < entryEnd e))

/-- Positions of the row that will hold a position, of the rows that follow one another from b on (R182): every row that begins below a multiple
of P ends where the next larger power of two divides. -/
def rowHolding (pLog2 pos : Nat) : Nat → Nat → Nat
  | 0, b => rowPositions pLog2 b
  | n + 1, b =>
    let p := rowPositions pLog2 b
    if b % 2 ^ pLog2 = 0 ∨ pos < b + p then p else rowHolding pLog2 pos n (b + p)

/-- Run size of the page that holds, or will hold, a position (R183). -/
def HandRecord.runSize (h : HandRecord) (pos : Nat) : Nat :=
  match h.tables.head? with
  | none => min (rowHolding h.log2p pos (h.log2p + 1) 0) 64
  | some t =>
    match t.covering pos with
    | some e => min (2 ^ e.log2p) 64
    | none => min (rowHolding h.log2p pos (h.log2p + 1) (tableEnd t)) 64

def HandRecord.kittyRoom (h : HandRecord) : Nat := h.runSize h.position - h.position % h.runSize h.position

def State.entrySize (s : State) (sl : Nat) : Nat := roundUp (16 + 4 * s.slotLayers sl) 16
def State.entriesPerBlock (s : State) (sl : Nat) : Nat := 4032 / s.entrySize sl

def entryStateCode : EntryState → Nat
  | .committed => 0
  | .copyPending => 1
  | .provisional => 2

/-- Bytes of a page-table entry: word 0, word 1, then the LAYERS page references. -/
def State.entryBytes (s : State) (sl d : Nat) (e : KvEntry) : List Byte :=
  let refs := match s.rowAt e.row with
    | some r => r.blocks.flatMap (fun o => leBytes 4 (pageRef d o))
    | none => []
  let b := leBytes 8 (e.basePos + e.log2p * 2 ^ 24 + e.format * 2 ^ 28 + entryStateCode e.state * 2 ^ 30) ++ leBytes 8 0 ++ refs
  b ++ List.replicate (s.entrySize sl - b.length) 0

/-- Write a request's page-table blocks of a C-die into memory. -/
def State.writeTable (sl : Nat) (t : KvTable) (s : State) : State :=
  let per := s.entriesPerBlock sl
  s.overList t.blocks.zipIdx (fun e u =>
    let mine := (t.entries.drop (per * e.2)).take per
    let next := match t.blocks[e.2 + 1]? with
      | some o => pageRef t.die o
      | none => nullRef
    let body := leBytes 8 (next + mine.length * 2 ^ 32) ++ List.replicate 56 0 ++ mine.flatMap (u.entryBytes sl t.die)
    (u.blockWrite (u.blockAddr t.die e.1) (body ++ List.replicate (4096 - body.length) 0)).2)

/-- Descriptor of a page-table block (R189). -/
def State.writeTableDesc (sl d off : Nat) (s : State) : State :=
  s.engineWrite (s.descAddr d off) (leBytes 16 (2 + sl * 2 ^ 12 + nullRef * 2 ^ 86))

/-- Append an entry to a table: a further block is allocated when the last is full. -/
def State.appendEntry (sl : Nat) (t : KvTable) (e : KvEntry) (s : State) : Option (KvTable × State) :=
  let grow := s.entriesPerBlock sl * t.blocks.length ≤ t.entries.length
  if grow then
    match buddyTake 0 (s.stockOf t.die) with
    | none => none
    | some (off, l) =>
      let t := { t with blocks := t.blocks ++ [off], entries := t.entries ++ [e] }
      some (t, ((s.putStock t.die l).writeTableDesc sl t.die off).writeTable sl t)
  else
    let t := { t with entries := t.entries ++ [e] }
    some (t, s.writeTable sl t)

/-- Allocate the row that begins at b on every C-die of a request, and append its entries (R182, R188, R192). -/
def State.growTables (sl b : Nat) (st : EntryState) (h : HandRecord) : List Nat → State → Option (HandRecord × State)
  | [], s => some (h, s)
  | d :: rest, s =>
    let p := rowPositions h.log2p b
    let fmt := s.rdF (Reg.KV_FMT sl) Fld.KV_FMT_KV_FORMAT
    match s.allocRow d sl fmt (Nat.log2 p) with
    | none => none
    | some (ref, s) =>
      match (s.addRef ref).appendEntry sl (h.table d) ⟨b, Nat.log2 p, fmt, st, ref⟩ with
      | none => none
      | some (t, s) => State.growTables sl b st (h.putTable t) rest s

/-- Start a copy-on-write of the row that holds a position, on every C-die where it is shared (R206). -/
def State.startCow (sl pos : Nat) (h : HandRecord) : List Nat → State → Option (HandRecord × State)
  | [], s => some (h, s)
  | d :: rest, s =>
    match (h.table d).covering pos with
    | none => State.startCow sl pos h rest s
    | some e =>
      match s.rowAt e.row with
      | none => State.startCow sl pos h rest s
      | some r =>
        if r.refcount ≤ 1 ∨ e.state = .copyPending then State.startCow sl pos h rest s
        else
          match s.allocRow d sl r.format r.log2p with
          | none => none
          | some (ref, s) =>
            let s := (s.updRow ref (fun x => { x with refcount := 1, source := some e.row })).count (Reg.COW_COUNT d)
            let t := h.table d
            let t := { t with entries := t.entries.map (fun x =>
              if x.basePos = e.basePos then { x with row := ref, state := .copyPending } else x) }
            State.startCow sl pos ({ h with copied := [] }.putTable t) rest (s.writeTable sl t)

/-- Count a failed allocation on every C-die of a partition (R201, R202). -/
def State.countExhaust (p : Nat) (s : State) : State := s.overList (s.partDies p) (fun d t => t.count (Reg.EXHAUST_COUNT d))

/-- Rows for the runs that a chunk completes, from the end of the table on (R201). -/
def State.reserveRows (sl limit : Nat) : Nat → HandRecord → List Nat → State → Option (HandRecord × State)
  | 0, h, _, s => some (h, s)
  | fuel + 1, h, dies, s =>
    let b := (h.tables.head?.map tableEnd).getD 0
    let p := rowPositions h.log2p b
    if limit < b + min p 64 then some (h, s)
    else
      match s.growTables sl b .provisional h dies with
      | none => none
      | some (h, s) => State.reserveRows sl limit fuel { h with reservedRows := h.reservedRows + 1 } dies s

/-- kv_reserve (R201): all the rows a chunk of some positions needs, or none. -/
def State.kvReserve (p : Nat) (h : HandRecord) (valid : Nat) (s : State) : Option (HandRecord × State) :=
  let sl := h.desc.slot
  let dies := s.partDies p
  let limit := h.position + valid
  let f := h.runSize h.position
  let writesRow := decide (h.position / f * f + f ≤ limit)
  match (if writesRow then s.startCow sl h.position h dies else some (h, s)) with
  | none => none
  | some (h, s) => State.reserveRows sl limit (valid / 16 + 2) h dies s

/-! ### Commit, rollback, release (R197, R202, R208) -/

/-- Layer slices of a slot on a partition: 256 × die + layer. -/
def State.slicesOf (s : State) (p sl : Nat) : List Nat :=
  (s.partDies p).flatMap (fun d => (List.range (s.slotLayers sl)).map (fun l => 256 * d + l))

/-- Finished copies: the entry becomes committed, SOURCE null, and the writer's reference to the source falls (R206). -/
def State.finishCow (sl : Nat) (h : HandRecord) (d : Nat) (s : State) : HandRecord × State :=
  let t := h.table d
  let done := t.entries.filter (fun e => e.state == .copyPending)
  let slices := (List.range (s.slotLayers sl)).map (fun l => 256 * d + l)
  if done.isEmpty || !slices.all h.copied.contains then (h, s)
  else
    let t' := { t with entries := t.entries.map (fun e => if e.state = .copyPending then { e with state := .committed } else e) }
    let s := s.overList done (fun e u =>
      let src := (u.rowAt e.row).bind (fun r => r.source)
      let u := u.updRow e.row (fun r => { r with source := none })
      match src with
      | some r => u.dropRef r
      | none => u)
    (h.putTable t', s.writeTable sl t')

def State.finishCows (sl : Nat) (h : HandRecord) : List Nat → State → HandRecord × State
  | [], s => (h, s)
  | d :: rest, s => let r := s.finishCow sl h d; State.finishCows sl r.1 rest r.2

/-- A pending run whose every layer slice has been flushed is pending no more (R198). -/
def State.settleFlush (p : Nat) (h : HandRecord) (s : State) : HandRecord × State :=
  let sl := h.desc.slot
  if h.flushPending && (s.slicesOf p sl).all h.flushed.contains then
    ({ h with flushPending := false, flushed := [] }, s.overList (s.partDies p) (fun d t => t.count (Reg.FLUSH_COUNT d)))
  else (h, s)

/-- Entries of a table change state; the table is written. -/
def State.retable (sl : Nat) (f : KvEntry → KvEntry) (h : HandRecord) (s : State) : HandRecord × State :=
  let ts := h.tables.map (fun t => { t with entries := t.entries.map f })
  ({ h with tables := ts }, s.overList ts (fun t u => u.writeTable sl t))

/-- Commit of a trick for a request, steps 1 to 4 (R197, R204): the record, the state, and whether a run of the kitty is now full. -/
def State.kvSettle (p kept : Nat) (wasDecode : Bool) (h : HandRecord) (s : State) : HandRecord × State × Bool :=
  let sl := h.desc.slot
  let dies := s.partDies p
  let kept := if wasDecode then min kept h.tentative else h.tentative
  let s := s.overList dies (fun d t => t.count (Reg.DISCARD_COUNT d) (h.tentative - kept))
  let pos := h.startPos + kept
  let (h, s) := s.retable sl (fun e => if e.state = .provisional then { e with state := .committed } else e) h
  let (h, s) := s.finishCows sl h dies
  let (h, s) := s.settleFlush p h
  let h := { h with position := pos, startPos := pos, tentative := 0, reservedRows := 0, written := [] }
  let f := if pos = 0 then 64 else h.runSize (pos - 1)
  let full := wasDecode && decide (0 < kept) && pos % f == 0
  (if full then { h with flushPending := true, flushed := [] } else h, s, full)

/-- Steps 5 and 6 of R197: the row of the next position, and the copy-on-write of the row of a full run; none where a row is
lacking on some C-die. -/
def State.kvExtend (p : Nat) (full : Bool) (h : HandRecord) (s : State) : Option (HandRecord × State) :=
  let sl := h.desc.slot
  let dies := s.partDies p
  let covered := h.tables.all (fun t => (t.covering h.position).isSome)
  match (if covered then some (h, s) else s.growTables sl ((h.tables.head?.map tableEnd).getD 0) .committed h dies) with
  | none => none
  | some (h, s) => if full then s.startCow sl (h.position - 1) h dies else some (h, s)

/-- Rollback of a request after a failed trick (R208): a copy or a flush that some layer slice has not completed is done again in full. -/
def State.kvRollback (p : Nat) (h : HandRecord) (s : State) : HandRecord × State :=
  let sl := h.desc.slot
  let dies := s.partDies p
  let s := s.overList dies (fun d t => t.count (Reg.ROLLBACK_COUNT d))
  let dead := h.tables.flatMap (fun t => (t.entries.filter (fun e => e.state == .provisional)).map (fun e => e.row))
  let ts := h.tables.map (fun t => { t with entries := t.entries.filter (fun e => e.state != .provisional) })
  let h := { h with tables := ts, tentative := 0, reservedRows := 0, written := [], position := h.startPos }
  let s := s.overList ts (fun t u => u.writeTable sl t)
  let s := s.overList dead (fun r u => u.dropRef r)
  let (h, s) := s.finishCows sl h dies
  let (h, s) := s.settleFlush p h
  let pending := fun (slice : Nat) => (h.table (slice / 256)).entries.any (fun e => e.state == .copyPending)
  ({ h with copied := h.copied.filter (fun c => !pending c), flushed := [] }, s)

/-- Release everything a request holds in the KV region: row references, copies in progress, page-table blocks. -/
def State.kvRelease (h : HandRecord) (s : State) : State :=
  s.overList h.tables (fun t u =>
    let u := u.overList t.entries (fun e v =>
      let src := if e.state = .copyPending then (v.rowAt e.row).bind (fun r => r.source) else none
      let v := v.dropRef e.row
      match src with
      | some r => v.dropRef r
      | none => v)
    let u := u.overList t.blocks (fun o v => v.engineWrite (v.descAddr t.die o) (List.replicate 16 0))
    u.putStock t.die (giveBlocks 0 t.blocks (u.stockOf t.die)))

/-- Rows of a request, on every C-die. -/
def HandRecord.rows (h : HandRecord) : List Nat := h.tables.flatMap (fun t => t.entries.map (fun e => e.row))

/-- A parking read begins: it takes an engine lease on each row (R205). -/
def State.leaseHand (h : HandRecord) (s : State) : HandRecord × State :=
  ({ h with leased := true }, s.overList h.rows (fun r t => t.lease r))
/-- A parking read ends. -/
def State.unleaseHand (h : HandRecord) (s : State) : HandRecord × State :=
  if h.leased then ({ h with leased := false }, s.overList h.rows (fun r t => t.unlease r)) else (h, s)

/-- A hand record returns to the free list (R152). -/
def State.freeHand (p i : Nat) (s : State) : State :=
  match s.handAt p i with
  | none => s
  | some h =>
    let s := (s.unleaseHand h).2.kvRelease h
    let x := s.partServing p
    (s.putServing p { x with hrs := x.hrs.filter (fun g => g.index != i) }).showServing p

/-! ### The kitty and page contents (R185, R193, R199) -/

def State.kittySlotBytes (s : State) (sl : Nat) : Nat := s.kvHeads sl * s.headDim sl * 4
def State.kittyLayerBytes (s : State) (sl : Nat) : Nat := 64 * s.kittySlotBytes sl
def State.kittyEntryBytes (s : State) (sl : Nat) : Nat := roundUp (s.slotLayers sl * s.kittyLayerBytes sl) 64
def State.kittyBase (s : State) (sl d : Nat) : Nat := s.rd64 (Reg.KITTY_BASE_LO sl d)
/-- Address of kitty slot j of a layer record. -/
def State.kittyAddr (s : State) (sl d entry layer j : Nat) : Nat :=
  s.kittyBase sl d + entry * s.kittyEntryBytes sl + layer * s.kittyLayerBytes sl + j * s.kittySlotBytes sl

/-- One head vector converted from BF16 to a page format: its elements, its scales, flags (R199). -/
def toPageFormat (fmt : Nat) (bf : List Nat) : List Byte × List Byte × Nat :=
  let xs := bf.map (decodeNum .bf16)
  if fmt = 2 then (bf.flatMap (leBytes 2), [], 0)
  else if fmt = 1 then
    (List.range (bf.length / 32)).foldl (fun acc q =>
      let (es, sc, fl, _) := mxBlock .nearestEven 1 ((xs.drop (32 * q)).take 32)
      (acc.1 ++ packNibbles es, acc.2.1 ++ [BitVec.ofNat 8 sc], acc.2.2 ||| fl)) ([], [], 0)
  else
    xs.foldl (fun acc x =>
      let r := convertNum .e4m3 .nearestEven true 0 x
      (acc.1 ++ [BitVec.ofNat 8 r.bits], [], acc.2.2 ||| r.flags)) ([], [], 0)

/-- Where the element plane of a vector, and its scales, stand in a page (R185): row, layer, values, head, page-relative
position. -/
def State.vectorAddr (s : State) (r : KvRow) (layer : Nat) (value : Bool) (h i : Nat) : Nat × Nat :=
  let d := refDie r.ref
  let off := r.blocks.getD layer 0
  let b := s.pageBlock r.slot r.format (2 ^ r.log2p)
  let n := (h * 2 ^ r.log2p + i) * s.headDim r.slot
  (s.blockAddr d off + (if value then b / 2 else 0) + fmtBytes r.format n,
   s.rd64 (Reg.SCALE_BASE_LO d) + 4096 * off / 16 + (if value then b / 32 else 0) + n / 32)

/-- What a descriptor has moved so far: the flags it raises, and the bytes that it has read and written, in order (R199, R418). -/
structure KvTraffic where
  flags : Nat
  read : List Byte
  wrote : List Byte
  deriving DecidableEq, Repr

def KvTraffic.none : KvTraffic := ⟨0, [], []⟩

/-- One further piece of a descriptor's traffic. -/
def KvTraffic.add (t : KvTraffic) (flags : Nat) (read wrote : List Byte) : KvTraffic :=
  ⟨t.flags ||| flags, t.read ++ read, t.wrote ++ wrote⟩

/-- Write one head's key or value vector of a position, converted from BF16, into a page: the status of a failed write (R185, R199). -/
def State.writeVector (r : KvRow) (layer : Nat) (value : Bool) (h i : Nat) (bf : List Nat) (m : KvTraffic) (s : State) :
    Option Nat × KvTraffic × State :=
  let (es, sc, f) := toPageFormat r.format bf
  let (ea, sa) := s.vectorAddr r layer value h i
  match s.hbmWrite 3 ea es with
  | (some st, s) => (some st, m.add f [] [], s)
  | (none, s) =>
    if sc.isEmpty then (none, m.add f [] es, s)
    else
      let q := s.hbmWrite 3 sa sc
      (q.1, m.add f [] (es ++ sc), q.2)

/-- Write one position, given as a kitty slot's bytes, into a page (R199): the status of a failed write. -/
def State.writePosition (r : KvRow) (layer i : Nat) (slotBytes : List Byte) (m : KvTraffic) (s : State) : Option Nat × KvTraffic × State :=
  let hd := s.headDim r.slot
  (List.range (s.kvHeads r.slot)).foldl (fun acc h =>
    [false, true].foldl (fun (acc : Option Nat × KvTraffic × State) value =>
      match acc with
      | (some st, m, s) => (some st, m, s)
      | (none, m, s) =>
        let off := h * hd * 4 + (if value then hd * 2 else 0)
        s.writeVector r layer value h i ((List.range hd).map (fun n => leAt slotBytes (off + 2 * n) 2)) m) acc) (none, m, s)

/-- Copy bytes within HBM: the status of a read or write that fails. -/
def State.copyBytes (src dst n : Nat) (m : KvTraffic) (s : State) : Option Nat × KvTraffic × State :=
  match s.hbmRead 3 src n with
  | (some st, _, s) => (some st, m, s)
  | (none, b, s) => let q := s.hbmWrite 3 dst b; (q.1, m.add 0 b b, q.2)

/-- Copy one position of a row into another row of the same format, scales included (R206). -/
def State.copyPosition (src dst : KvRow) (layer i : Nat) (m : KvTraffic) (s : State) : Option Nat × KvTraffic × State :=
  let hd := s.headDim src.slot
  (List.range (s.kvHeads src.slot)).foldl (fun acc h =>
    [false, true].foldl (fun (acc : Option Nat × KvTraffic × State) value =>
      match acc with
      | (some st, m, s) => (some st, m, s)
      | (none, m, s) =>
        let (ea, sa) := s.vectorAddr src layer value h i
        let (eb, sb) := s.vectorAddr dst layer value h i
        match s.copyBytes ea eb (fmtBytes src.format hd) m with
        | (some st, m, s) => (some st, m, s)
        | (none, m, s) => if src.format ≠ 1 then (none, m, s) else s.copyBytes sa sb (hd / 32) m) acc) (none, m, s)

end Sys2Proof.Machine
end

