-- ==== Sys2Proof/Machine/TalonOps.lean ====
section
/-! DEFINITION. Machine/TalonOps.lean: bands, extents, names, wear credit, the retry ladder and bad blocks of Talon (R232 to
R241). -/
namespace Sys2Proof.Machine

def flashPage : Nat := 16384

/-- Talon is MOUNTED or DEGRADED_CHANNEL and has not been quiesced (R239, R246, R247). -/
def State.talonUp (s : State) : Bool :=
  (s.rdF Reg.TLN_STATE Fld.TLN_STATE_MOUNT == 2 || s.rdF Reg.TLN_STATE Fld.TLN_STATE_MOUNT == 3) && !s.talon.quiesced

/-- Talon's channels have power while it works (R350). -/
def State.useTalon (s : State) : State :=
  let add := fun (l : List Domain) (t : Nat) => if l.contains (Domain.talonChannel t) then l else l ++ [Domain.talonChannel t]
  let up := (List.range 16).foldl add s.power.enginesUp
  { s with power := { s.power with enginesUp := up, idleSince := mapSet 8192 s.now s.power.idleSince } }

/-! ### Names (R235) -/

def State.newName (p : Nat) (s : State) : Nat × State :=
  let n := mapGetD 1 p s.talon.serials
  (n % 2 ^ 40 + p * 2 ^ 40 + s.fuses.serial % 2 ^ 22 * 2 ^ 42,
   { s with talon := { s.talon with serials := mapSet p (n + 1) s.talon.serials } })

/-! ### Bands (R232, R233, R236) -/

def zoneFirst : Zone → Nat
  | .system => 0
  | .prefixZone => 21
  | .weights => 1813

def zoneCount : Zone → Nat
  | .system => 21
  | .prefixZone => 1792
  | .weights => 3584

def inZone (z : Zone) (b : Nat) : Bool := inRange (zoneFirst z) (zoneCount z) b

def Band.fresh (i : Nat) : Band := ⟨i, 0, 0, [], false, false, [], []⟩

/-- Erase counts of a band's blocks: a spare counts from the time it came in (R236, R238). -/
def Band.blockErases (b : Band) : List Nat := (List.range 32).map (fun d => b.erases - mapGetD 0 d b.spared)
/-- Their sum: 32 times the band's average erase count. -/
def Band.wear (b : Band) : Nat := 32 * b.erases - (b.spared.map (fun e => e.2)).sum

/-- NAND dies that a band's stripes run across, in order (R232, R239). -/
def State.stripeDies (s : State) : List Nat :=
  (List.range 32).filter (fun d => !bitOf (s.rdF Reg.TLN_STATE Fld.TLN_STATE_FAILED_TC) (d / 2))

/-- 16 KiB pages of a band: 30 blocks after a channel failure (R239), two fewer for each further one (log 258). -/
def State.bandPages (s : State) (z : Zone) : Nat :=
  (match z with | .weights => 1536 | _ => 512) * s.stripeDies.length

/-- Pages of a run that lie on the block of one die: page i of a band lies on die i mod the width of its stripe. -/
def State.pagesOn (s : State) (d : Nat) (f : Fragment) : Nat :=
  let l := s.stripeDies
  let w := max 1 l.length
  let k := l.findIdx (· == d)
  if l.length ≤ k then 0 else (f.first + f.pages + w - 1 - k) / w - (f.first + w - 1 - k) / w

def State.bandAt (s : State) (i : Nat) : Band := (s.talon.bands.find? (fun b => b.index == i)).getD (.fresh i)
def State.putBand (b : Band) (s : State) : State :=
  let rest := s.talon.bands.filter (fun x => x.index != b.index)
  { s with talon := { s.talon with bands := rest ++ [b] } }

def State.openBand (s : State) : Zone → Option Nat
  | .prefixZone => s.talon.openPrefix
  | .weights => s.talon.openWeights
  | .system => none

def State.setOpen (z : Zone) (b : Option Nat) (s : State) : State :=
  match z with
  | .prefixZone => { s with talon := { s.talon with openPrefix := b } }
  | .weights => { s with talon := { s.talon with openWeights := b } }
  | .system => s

def State.freeBands (s : State) (z : Zone) : List Band :=
  ((List.range (zoneCount z)).map (fun i => s.bandAt (zoneFirst z + i))).filter
    (fun b => b.programmed == 0 && !b.retired && s.openBand z != some b.index)

/-- The band with the least of a measure, the lower index on a tie. -/
def leastBand (f : Band → Nat) (l : List Band) : Option Band :=
  l.foldl (fun best b => match best with
    | none => some b
    | some x => if f b < f x ∨ (f b = f x ∧ b.index < x.index) then some b else some x) none

/-- Fragments of everything held, by object. -/
def State.allFragments (s : State) : List Fragment :=
  s.talon.extents.flatMap (fun e => e.fragments) ++ s.talon.images.flatMap (fun e => e.fragments)
    ++ s.talon.parked.flatMap (fun e => e.fragments)

def State.validPages (s : State) (b : Nat) : Nat := ((s.allFragments.filter (fun f => f.band == b)).map (fun f => f.pages)).sum

/-- A record of the journal: its contents, whose layout the spec does not give, and a CRC-32C that folds in its sequence number (R234). -/
def journalRecord (seq : Nat) : JournalRecord := ⟨seq, Config.journalBody seq ++ leBytes 4 (crc32cTagged seq (Config.journalBody seq))⟩

/-- The CRC-32C of a record holds (R234). -/
def JournalRecord.ok (r : JournalRecord) : Bool :=
  leAt r.bytes (r.bytes.length - 4) 4 == crc32cTagged r.seq (r.bytes.take (r.bytes.length - 4))

/-- Bytes of journal after which a checkpoint is written (R234). -/
def checkpointEvery : Nat := 0x10000000

/-- A checkpoint of the whole table is due after some records. -/
def checkpointDue (l : List JournalRecord) : Bool := decide (checkpointEvery ≤ (l.map (fun r => r.bytes.length)).sum)

/-- Every change of the extent table is a record of the journal, under the next sequence number; after 256 MiB of records a checkpoint of the whole
table takes their place (R234). -/
def State.journalled (s : State) : State :=
  let n := s.talon.journal + 1
  let l := s.talon.records ++ [journalRecord n]
  { s with talon := { s.talon with
    journal := n, records := if checkpointDue l then [] else l
    checkpointed := if checkpointDue l then n else s.talon.checkpointed } }

/-- The mount replays the journal from the latest checkpoint, as far as its records' checks hold (R234, R247). -/
def State.replayJournal (s : State) : State :=
  let l := s.talon.records.takeWhile JournalRecord.ok
  { s with talon := { s.talon with records := l, journal := (l.getLast?.map (fun r => r.seq)).getD s.talon.checkpointed } }

/-- A run of pages is programmed into a band: the blocks that it reaches are as young as now (R236). -/
def State.program (b : Band) (k : Nat) (s : State) : State :=
  let reached := s.stripeDies.filter (fun d => s.pagesOn d ⟨b.index, b.programmed, k, 0⟩ != 0)
  s.putBand { b with programmed := b.programmed + k, programmedAt := reached.foldl (fun m d => mapSet d s.poweredS m) b.programmedAt }

/-- Program n pages of an object, from one of its pages on, into the zone's open band; where that is full, the free band of the lowest average
erase count is opened (R234, R236). -/
def State.placeRuns (z : Zone) : Nat → Nat → Nat → State → Option (List Fragment × State)
  | 0, _, n, s => if n = 0 then some ([], s) else none
  | fuel + 1, page, n, s =>
    if n = 0 then some ([], s)
    else
      let room := match s.openBand z with
        | some b => s.bandPages z - (s.bandAt b).programmed
        | none => 0
      if room = 0 then
        match leastBand Band.wear (s.freeBands z) with
        | none => none
        | some b => (s.setOpen z (some b.index)).placeRuns z fuel page n
      else
        let b := s.bandAt ((s.openBand z).getD 0)
        let k := min room n
        let s' := s.program b k
        match s'.placeRuns z fuel (page + k) (n - k) with
        | none => none
        | some (fs, t) => some (⟨b.index, b.programmed, k, page⟩ :: fs, t)

/-- The extent table's limits (R234): extents of up to 64 fragments, 2,097,152 of them, and 4,194,304 fragments; a weight image takes as many
extents as its fragments need. -/
def State.tableRoom (s : State) (z : Zone) (fs : List Fragment) : Bool :=
  let extents := s.talon.extents.length + s.talon.parked.length + (s.talon.images.map (fun i => (i.fragments.length + 63) / 64)).sum
  (z == .weights || decide (fs.length ≤ 64))
    && decide (extents + (fs.length + 63) / 64 ≤ 2097152) && decide (s.allFragments.length + fs.length ≤ 4194304)

/-- Place pages of an object, if the zone and the extent table have room for them. -/
def State.place (z : Zone) (page n : Nat) (s : State) : Option (List Fragment × State) :=
  match s.placeRuns z (2 * zoneCount z + 2) page n with
  | some (fs, t) => if s.tableRoom z fs then some (fs, t.journalled) else none
  | none => none

def pagesFor (bytes : Nat) : Nat := (bytes + flashPage - 1) / flashPage

/-- Pages programmed for a partition's extents charge it 16 KiB each (R240). -/
def headAdd (n : Nat) : List Nat → List Nat
  | [] => [n]
  | a :: t => (a + n) :: t

def State.charge (p pages : Nat) (s : State) : State :=
  let bytes := pages * flashPage
  let c := mapGetD 0 p s.talon.credit - (bytes : Int)
  let l := headAdd bytes (mapGetD [] p s.talon.charged)
  let s := { s with talon := { s.talon with credit := mapSet p c s.talon.credit, charged := mapSet p l s.talon.charged } }
  let s := s.wrN (Reg.TLN_CREDIT p) (ofSigned 32 (c / 1048576))
  s.wrN (Reg.TLN_CHARGED_30D p) ((l.sum / 1048576) % 2 ^ 32)

/-- Programs of an object are given up. How many of its pages had been programmed by then is a free value; the partition is charged for those
(R240), and the others are counted as abandoned (R246). -/
def State.giveUp (p pages : Nat) (s : State) : State :=
  let k := Config.pagesProgrammed s.freeCtr % (pages + 1)
  let s := s.drawn.charge p k
  { s with talon := { s.talon with abandoned := s.talon.abandoned + (pages - k) } }

def State.chargeWeights (pages : Nat) (s : State) : State :=
  { s with talon := { s.talon with weightsCharged := headAdd (pages * flashPage) s.talon.weightsCharged } }

/-- USED and PARK_USED of a partition (R233). -/
def State.prefixUsed (s : State) (p : Nat) : Nat :=
  ((s.talon.extents.filter (fun e => e.part == p && e.kind == .prefixes)).map (fun e => pagesFor e.bytes * flashPage)).sum
def State.parkUsed (s : State) (p : Nat) : Nat :=
  ((s.talon.parked.filter (fun e => e.part == p)).map (fun e => pagesFor e.bytes * flashPage)).sum
def State.showShare (p : Nat) (s : State) : State :=
  let pk := s.parkUsed p
  (s.wrN (Reg.TLN_USED p) ((s.prefixUsed p + pk) / 1048576)).wrN (Reg.TLN_PARK_USED p) (pk / 1048576)

def gib : Nat := 0x40000000
def State.shareBytes (s : State) (p : Nat) : Nat := s.rdF (Reg.TLN_SHARE p) Fld.TLN_SHARE_SHARE_GIB * gib
def State.parkBytes (s : State) (p : Nat) : Nat := s.rdF (Reg.TLN_SHARE p) Fld.TLN_SHARE_PARK_GIB * gib
def State.parkFree (s : State) (p : Nat) : Nat := s.parkBytes p - s.parkUsed p

/-- Usable space of a zone (R233), 15/16 of it after one channel failure (R239). -/
def State.zoneUsable (s : State) (z : Zone) : Nat :=
  let scale := fun n => n * s.stripeDies.length / 32
  match z with
  | .prefixZone => scale (min (384 * gib) ((s.rdF Reg.TLN_ZONES Fld.TLN_ZONES_PFX_BANDS - 32) * 0x10000000))
  | .weights => scale (min (2560 * gib) ((s.rdF Reg.TLN_ZONES Fld.TLN_ZONES_WT_BANDS - 170) * 0x30000000))
  | .system => 0

/-- Space of the prefix zone that extents and parked images of every partition leave free. -/
def State.prefixRoom (s : State) (bytes : Nat) : Bool :=
  decide (((List.range 4).map (fun p => s.prefixUsed p + s.parkUsed p)).sum + pagesFor bytes * flashPage ≤ s.zoneUsable .prefixZone)

/-- Space for a parked image (R233, R244). -/
def State.parkRoom (s : State) (p bytes : Nat) : Bool := decide (pagesFor bytes * flashPage ≤ s.parkFree p) && s.prefixRoom bytes

/-! ### Relocation (R236) -/

/-- A read of some pages counts against the blocks that hold them (R236). -/
def State.countReads (fs : List Fragment) (s : State) : State :=
  s.overList fs (fun f t =>
    let b := t.bandAt f.band
    t.putBand { b with reads := t.stripeDies.foldl (fun m d => (if t.pagesOn d f = 0 then m else mapSet d (mapGetD 0 d m + t.pagesOn d f) m)) b.reads })

/-- Neighbouring fragments of one run are one fragment. -/
def joinRuns : List Fragment → List Fragment
  | [] => []
  | f :: t =>
    match joinRuns t with
    | g :: r =>
      if f.band = g.band ∧ f.first + f.pages = g.first ∧ f.page + f.pages = g.page then ⟨f.band, f.first, f.pages + g.pages, f.page⟩ :: r
      else f :: g :: r
    | [] => [f]

/-- An extent's fragments after a move, at most 64 (R234): where they would be more, the whole extent is programmed anew. -/
def State.fitExtent (pages : Nat) (r : Option (List Fragment × Nat × State)) (s : State) : Option (List Fragment × Nat × State) :=
  r.bind (fun x =>
    let fs := joinRuns x.1
    if fs.length ≤ 64 then some (fs, x.2) else (s.place .prefixZone 0 pages).map (fun y => (y.1, pages, y.2)))

/-- Objects with pages that `touch` names take new fragments from `f`, which answers the pages it programmed: each owner is charged for them
(R240). An object for which it finds no place stays as it is. -/
def State.rewrite (touch : Fragment → Bool) (f : List Fragment → State → Option (List Fragment × Nat × State)) (s : State) : State :=
  let s := s.overList (s.talon.extents.filter (fun e => e.fragments.any touch)) (fun e t =>
    match t.fitExtent (pagesFor e.bytes) (f e.fragments t) with
    | none => t
    | some (fs, n, t) =>
      let t := t.charge e.part n
      { t with talon := { t.talon with
        extents := t.talon.extents.map (fun x : Extent => if x.name = e.name then { x with fragments := fs } else x) } })
  let s := s.overList (s.talon.parked.filter (fun e => e.fragments.any touch)) (fun e t =>
    match t.fitExtent (pagesFor e.bytes) (f e.fragments t) with
    | none => t
    | some (fs, n, t) =>
      let t := t.charge e.part n
      { t with talon := { t.talon with
        parked := t.talon.parked.map (fun x : ParkedImage => if x.handle = e.handle then { x with fragments := fs } else x) } })
  s.overList (s.talon.images.filter (fun e => e.fragments.any touch)) (fun e t =>
    match f e.fragments t with
    | none => t
    | some (fs, n, t) =>
      let t := t.chargeWeights n
      { t with talon := { t.talon with
        images := t.talon.images.map (fun x : WeightImage => if x.id = e.id then { x with fragments := fs } else x) } })

/-- New places for the pages that some fragments hold: the others stay. -/
def State.moveFragments (z : Zone) (touch : Fragment → Bool) (fs : List Fragment) (s : State) : Option (List Fragment × Nat × State) :=
  fs.foldl (fun acc f =>
    match acc with
    | none => none
    | some (l, n, t) =>
      if !touch f then some (l ++ [f], n, t)
      else (t.place z f.page f.pages).map (fun r => (l ++ r.1, n + f.pages, r.2))) (some ([], 0, s))

def State.eraseBand (b : Nat) (s : State) : State :=
  let x := s.bandAt b
  s.putBand { x with erases := x.erases + 1, programmed := 0, programmedAt := [], refreshDue := false, reads := [] }

/-- The average erase counts of the zones are shown, and the ledger's counters follow (R241, R427). -/
def State.showErase (s : State) : State :=
  let avg := fun z (n : Nat) => if n = 0 then 0
    else ((s.talon.bands.filter (fun b => inZone z b.index && !b.retired)).map Band.wear).sum / (32 * n)
  let pfx := avg .prefixZone (s.rdF Reg.TLN_ZONES Fld.TLN_ZONES_PFX_BANDS)
  let wt := avg .weights (s.rdF Reg.TLN_ZONES Fld.TLN_ZONES_WT_BANDS)
  let s' := (s.wrF Reg.TLN_ERASE Fld.TLN_ERASE_PFX_AVG pfx).wrF Reg.TLN_ERASE Fld.TLN_ERASE_WT_AVG wt
  (s'.ledgerPut 0x6000 1 pfx).ledgerPut 0x6000 2 wt

def bandZone (b : Nat) : Zone := if b < 21 then .system else if b < 1813 then .prefixZone else .weights

/-- Relocate everything a band holds, then erase it. A band whose pages find no place stays. -/
def State.relocateBand (b : Nat) (s : State) : State :=
  let z := bandZone b
  let s := if s.openBand z = some b then s.setOpen z none else s
  let touch := fun (f : Fragment) => f.band == b
  let s := s.countReads (s.allFragments.filter touch)
  let s := s.rewrite touch (State.moveFragments z touch)
  if s.validPages b = 0 ∧ (s.bandAt b).programmed ≠ 0 then (s.eraseBand b).showErase else s

/-! ### The retry ladder and bad blocks (R237, R238) -/

def State.sparesOf (s : State) (die : Nat) : Nat := mapGetD 64 die s.talon.spares

def State.showSpares (s : State) : State :=
  let m := (s.talon.spares.map (fun e => e.2)).foldl min 64
  (s.wrF Reg.TLN_ZONES Fld.TLN_ZONES_MIN_SPARES m).ledgerPut 0x6000 3 m

/-- A block's place is taken by the lowest-numbered free spare of its die; with none left, the band leaves its zone, once (R238). True where a spare
came in. -/
def State.spareBlock (die b : Nat) (s : State) : Bool × State :=
  let n := s.sparesOf die
  if (s.bandAt b).retired then (false, s)
  else if n = 0 then
    let s := s.putBand { s.bandAt b with retired := true }
    (false, (match bandZone b with
      | .prefixZone => s.wrF Reg.TLN_ZONES Fld.TLN_ZONES_PFX_BANDS (s.rdF Reg.TLN_ZONES Fld.TLN_ZONES_PFX_BANDS - 1)
      | .weights => s.wrF Reg.TLN_ZONES Fld.TLN_ZONES_WT_BANDS (s.rdF Reg.TLN_ZONES Fld.TLN_ZONES_WT_BANDS - 1)
      | .system => s).showErase)
  else
    let x := s.bandAt b
    let s := s.putBand { x with
      reads := mapDel die x.reads, spared := mapSet die x.erases x.spared
      programmedAt := if (mapGet die x.programmedAt).isSome then mapSet die s.poweredS x.programmedAt else x.programmedAt }
    let s := ({ s with talon := { s.talon with spares := mapSet die (n - 1) s.talon.spares } }).showSpares
    (true, if n - 1 ≤ 8 then s.postAt 0x6000 St.TLN_SPARES_LOW else s)

/-- A grown bad block is retired (R238): its readable pages are relocated to the spare that takes its place, at the places they had, or the whole
band's where the die has no spare left. -/
def State.retireBlock (die b : Nat) (s : State) : State :=
  let off := Reg.TLN_CHANNEL (die / 2) 3
  let s := s.wrN off (min 0xFFFF (bitsAt (s.rdN off) 0 16 + 1) + bitsAt (s.rdN off) 16 16 * 2 ^ 16)
  let s := { s with talon := { s.talon with grown := headAdd 1 s.talon.grown } }
  let touch := fun (f : Fragment) => f.band == b && s.pagesOn die f != 0
  let s := if s.sparesOf die = 0 then s.relocateBand b
    else s.rewrite touch (fun fs t => some (fs, ((fs.filter touch).map (t.pagesOn die)).sum, t))
  match s.spareBlock die b with
  | (true, s) => s.postAt 0x6000 St.TLN_BLOCK_RETIRED
  | (false, s) => s

/-- A block carries the maker's bad-block mark (R238): entered in the bad-block table at the first mount. -/
def State.factoryBlock (die b : Nat) (s : State) : State :=
  let off := Reg.TLN_CHANNEL (die / 2) 3
  let s := s.wrN off (bitsAt (s.rdN off) 0 16 + min 0xFFFF (bitsAt (s.rdN off) 16 16 + 1) * 2 ^ 16)
  if b < 5397 then (s.spareBlock die b).2
  else
    let n := s.sparesOf die
    let s := ({ s with talon := { s.talon with spares := mapSet die (n - 1) s.talon.spares } }).showSpares
    if n - 1 ≤ 8 then s.postAt 0x6000 St.TLN_SPARES_LOW else s

/-- A page of a fragment is taken out of it. -/
def Fragment.without (f : Fragment) (i : Nat) (new : List Fragment) : List Fragment :=
  let k := i - f.first
  (if k = 0 then [] else [⟨f.band, f.first, k, f.page⟩]) ++ new
    ++ (if k + 1 = f.pages then [] else [⟨f.band, i + 1, f.pages - k - 1, f.page + k + 1⟩])

/-- The fragment holds a page of a band. -/
def Fragment.holds (f : Fragment) (band i : Nat) : Bool := f.band == band && inRange f.first f.pages i

/-- A page whose program failed is written again from staging into the next page of the open band (R238). -/
def State.reprogram (band i : Nat) (s : State) : State :=
  let touch := fun (f : Fragment) => f.holds band i
  s.rewrite touch (fun fs t =>
    match fs.find? touch with
    | none => none
    | some f => (t.place (bandZone band) (f.page + (i - f.first)) 1).map (fun r =>
        (fs.flatMap (fun g => if touch g then g.without i r.1 else [g]), 1, r.2)))

/-! ### Extents -/

def State.extentAt (s : State) (name : Nat) : Option Extent := s.talon.extents.find? (fun e => e.name == name)
def State.dropExtent (name : Nat) (s : State) : State :=
  match s.extentAt name with
  | none => s
  | some e =>
    let s := if e.committed then s else s.giveUp e.part (pagesFor e.bytes)
    (({ s with talon := { s.talon with extents := s.talon.extents.filter (fun x : Extent => x.name != name) } }).journalled).showShare e.part

def State.imageAt (s : State) (id : Nat) : Option WeightImage := s.talon.images.find? (fun i => i.id == id)
def State.updImage (id : Nat) (f : WeightImage → WeightImage) (s : State) : State :=
  { s with talon := { s.talon with images := s.talon.images.map (fun i : WeightImage => if i.id = id then f i else i) } }

def State.parkedAt (s : State) (handle : Nat) : Option ParkedImage := s.talon.parked.find? (fun i => i.handle == handle)
def State.dropParked (handle : Nat) (s : State) : State :=
  match s.parkedAt handle with
  | none => s
  | some e =>
    let s := if e.complete then s else s.giveUp e.part (pagesFor e.bytes)
    (({ s with talon := { s.talon with parked := s.talon.parked.filter (fun x : ParkedImage => x.handle != handle) } }).journalled).showShare e.part

/-- Store bytes at an offset of a content list; bytes that are 0 are not listed. -/
def putBody (m : List Host.Cell) (off : Nat) (b : List Byte) : List Host.Cell := cellsWrite 0 m off b
def getBody (m : List Host.Cell) (off n : Nat) : List Byte := cellsRead 0 m off n

end Sys2Proof.Machine
end

