-- ==== Sys2Proof/Machine/PrefixOps.lean ====
section
/-! DEFINITION. Machine/PrefixOps.lean: the prefix index of a partition (R218 to R222), lookup, hits and inserts (R223 to R225),
eviction (R226), demotion and promotion (R227 to R230) and the rebuild of a slot's index (R231). -/
namespace Sys2Proof.Machine

def pfxKey (p i : Nat) : Nat := 2 ^ 24 * p + i
def nullNode : Nat := 0xFFFFFF
def State.nodeLimit (s : State) (p : Nat) : Nat := s.rdN (Reg.NODE_LIMIT p)
/-- The partition keeps an index (R218). -/
def State.indexOn (s : State) (p : Nat) : Bool := s.nodeLimit p != 0 && !s.pfx.disabled.contains p
/-- A field of a class or prefix register of a partition, as it stands for one of its slots (R10, R406). -/
def State.slotField (s : State) (sl off : Nat) (f : BitField) : Nat :=
  getField f (BitVec.ofNat 32 (mapGetD (s.rdN off) off (s.slotServing sl).lag))
def State.slotIndexed (s : State) (p sl : Nat) : Bool :=
  s.indexOn p && bitOf (s.slotField sl (Reg.PFX_CFG p) Fld.PFX_CFG_SLOT_EN) sl
/-- The partition is a follower of its group (R142). -/
def State.followsGroup (s : State) (p : Nat) : Bool :=
  s.rdF (Reg.GROUP_STATE p) Fld.GROUP_STATE_MEMBER != s.rdF (Reg.GROUP_STATE p) Fld.GROUP_STATE_LEAD

def State.nodeAt (s : State) (p i : Nat) : Option PfxNode := mapGet (pfxKey p i) s.pfx.nodes
/-- Nodes of a partition that are not FREE, by index. -/
def State.nodesOf (s : State) (p : Nat) : List (Nat × PfxNode) :=
  (s.pfx.nodes.filter (fun e => e.1 / 2 ^ 24 == p)).map (fun e => (e.1 % 2 ^ 24, e.2))

def nodeStateCode : NodeState → Nat
  | .resident => 1
  | .demoting => 2
  | .flash => 3
  | .promoting => 4
  | .lostNode => 5

def State.childCount (s : State) (p i : Nat) : Nat := ((s.nodesOf p).filter (fun e => e.2.parent == some i)).length

/-- The 128 bytes of a node (R221). -/
def State.nodeBytes (s : State) (p i : Nat) (n : PfxNode) : List Byte :=
  let row := fun d => mapGetD nullRef d n.rows
  leBytes 8 (n.parent.getD nullNode + nodeStateCode n.state * 2 ^ 24 + n.slot * 2 ^ 27 + n.variant * 2 ^ 30 + n.depth * 2 ^ 44)
    ++ leBytes 8 (n.chain.getD nullNode + s.childCount p i % 2 ^ 24 * 2 ^ 24 + min n.hits 0xFFFF * 2 ^ 48)
    ++ leBytes 8 (n.lastUse % 2 ^ 32 + boolNat n.flashValid * 2 ^ 32)
    ++ leBytes 4 (row 0) ++ leBytes 4 (row 1) ++ leBytes 4 (row 2) ++ leBytes 4 (row 3)
    ++ leBytes 8 n.extent ++ leBytes 16 0 ++ n.tokens.flatMap (leBytes 4)

def State.writeNode (p i : Nat) (s : State) : State :=
  let a := s.rd64 (Reg.NODE_BASE_LO p) + 128 * i
  match s.nodeAt p i with
  | some n => (s.blockWrite a (s.nodeBytes p i n)).2
  | none => (s.blockWrite a (List.replicate 128 0)).2

def State.showIndex (p : Nat) (s : State) : State :=
  let c := fun f => ((s.nodesOf p).filter (fun e => f e.2.state)).length
  (s.wrN (Reg.NODES_RESIDENT p) (c (fun x => x == .resident || x == .demoting))).wrN (Reg.NODES_FLASH p) (c (fun x => x == .flash))

def State.putNode (p i : Nat) (n : PfxNode) (s : State) : State :=
  (({ s with pfx := { s.pfx with nodes := mapSet (pfxKey p i) n s.pfx.nodes } }).writeNode p i).showIndex p

def State.updNode (p i : Nat) (f : PfxNode → PfxNode) (s : State) : State :=
  match s.nodeAt p i with
  | some n => s.putNode p i (f n)
  | none => s

/-- The 64 token bytes of a granule. -/
def granuleBytes (tokens : List Nat) : List Byte := tokens.flatMap (leBytes 4)

/-- Bucket of a child (R220). -/
def State.bucketOf (s : State) (p : Nat) (parent : Option Nat) (sl variant : Nat) (tokens : List Nat) : Nat :=
  crcTagged (crcAlg 2) (parent.getD nullNode + sl * 2 ^ 24 + variant * 2 ^ 27) (granuleBytes tokens) % s.nodeLimit p

def State.writeBucket (p b : Nat) (s : State) : State :=
  s.engineWrite (s.rd64 (Reg.BUCKET_BASE_LO p) + 4 * b) (leBytes 4 (mapGetD nullNode (pfxKey p b) s.pfx.buckets))

/-- The child of a node with a granule's tokens (R220). -/
def State.findChild (s : State) (p : Nat) (parent : Option Nat) (sl variant : Nat) (tokens : List Nat) : Option Nat :=
  ((s.nodesOf p).find? (fun e =>
    e.2.parent == parent && e.2.slot == sl && e.2.variant == variant && e.2.tokens == tokens)).map (fun e => e.1)

/-- The node that an action names. -/
def PrefixAction.node : PrefixAction → Nat
  | .insert node _ _ _ _ | .hit node _ _ | .evict node _ | .demote node _ _ | .promote node _ | .adopt node _ _ _ | .toFlash node _ => node

/-- Actions of a slot that no plan has carried yet: those of its next plan, and those of a plan that waits for its embedding rows. -/
def SlotServing.unsent (x : SlotServing) : List PrefixAction :=
  ((x.toSubmit.map (fun k => k.plan.news.actions)).getD []) ++ x.news.actions

/-- Slots of a partition with an action on a node that no plan has carried yet. -/
def State.pendingSlots (s : State) (p i : Nat) : List Nat :=
  (List.range 8).filter (fun sl => s.slotOwned sl && s.slotOwner sl == p && (s.slotServing sl).unsent.any (fun a => a.node == i))

/-- The lowest FREE node (R218): the last entry of a pool of 2^24 nodes is never allocated. DESIGN CHOICE (log 225): an index that an action of
another slot still has to announce to the followers is passed over, so that plans of several slots keep the members' indices equal (R222). -/
def State.freeNode (s : State) (p sl : Nat) : Option Nat :=
  let cap := if s.nodeLimit p = 2 ^ 24 then 2 ^ 24 - 1 else s.nodeLimit p
  let busy := (List.range 8).foldl (fun l k =>
    if k ≠ sl ∧ s.slotOwned k ∧ s.slotOwner k = p then (s.slotServing k).unsent.foldl (fun l a => setInsert a.node l) l else l) []
  let i := ((s.nodesOf p).foldl (fun l e => setInsert e.1 l) busy).foldl (fun n k => if k = n then n + 1 else n) 0
  if i < cap then some i else none

/-- The slot whose next plan carries an action (R222): the slot whose boundary decides it, which for an insert, a hit or an adoption is the slot of
its request or image. DESIGN CHOICE (log 225): an action decided outside a boundary goes with the node's slot, and one on a node that a slot's plan
has still to announce goes with that slot. -/
def State.planSlot (s : State) (p own : Nat) : PrefixAction → Nat
  | .insert _ _ _ _ _ | .hit _ _ _ | .adopt _ _ _ _ => own
  | .evict i _ | .demote i _ _ | .promote i _ | .toFlash i _ =>
    ((s.pendingSlots p i).head?.orElse (fun _ => (s.partServing p).deciding)).getD own

/-- The lead decides a prefix action on a node of a slot (R222). -/
def State.news (p own : Nat) (a : PrefixAction) (s : State) : State :=
  if s.followsGroup p then s
  else s.updSlot (s.planSlot p own a) (fun x => { x with news := { x.news with actions := x.news.actions ++ [a] } })

/-- Enter a node in the pool and at the head of its bucket's chain. -/
def State.linkNode (p i : Nat) (n : PfxNode) (s : State) : State :=
  let b := s.bucketOf p n.parent n.slot n.variant n.tokens
  let n := { n with chain := mapGet (pfxKey p b) s.pfx.buckets }
  let s := ({ s with pfx := { s.pfx with buckets := mapSet (pfxKey p b) i s.pfx.buckets } }).writeBucket p b
  let s := s.putNode p i n
  match n.parent with
  | some j => s.writeNode p j
  | none => s

/-- Take a node out of its chain and make it FREE. -/
def State.unlinkNode (p i : Nat) (s : State) : State :=
  match s.nodeAt p i with
  | none => s
  | some n =>
    let b := s.bucketOf p n.parent n.slot n.variant n.tokens
    let s := if mapGet (pfxKey p b) s.pfx.buckets = some i then
        let l := match n.chain with
          | some j => mapSet (pfxKey p b) j s.pfx.buckets
          | none => mapDel (pfxKey p b) s.pfx.buckets
        ({ s with pfx := { s.pfx with buckets := l } }).writeBucket p b
      else
        s.overList ((s.nodesOf p).filter (fun e => e.2.chain == some i)) (fun e t => t.putNode p e.1 { e.2 with chain := n.chain })
    let s := (({ s with pfx := { s.pfx with nodes := mapDel (pfxKey p i) s.pfx.nodes } }).writeNode p i).showIndex p
    match n.parent with
    | some j => s.writeNode p j
    | none => s

/-! ### Eviction (R226) -/

/-- Nodes of a subtree, deepest first. -/
def State.subtree (s : State) (p : Nat) : Nat → Nat → List Nat
  | 0, i => [i]
  | fuel + 1, i => ((s.nodesOf p).filter (fun e => e.2.parent == some i)).flatMap (fun e => s.subtree p fuel e.1) ++ [i]

/-- A demotion is given up: its pages are freed and its leases released; nodes still DEMOTING are RESIDENT again (R230). -/
def State.abandonTransfer (x : PfxTransfer) (s : State) : State :=
  let l := s.talon.transfers.filter (fun y : PfxTransfer => y.extent != x.extent || y.part != x.part || y.demotion != x.demotion)
  let s := { s with talon := { s.talon with transfers := l } }
  let s := s.dropExtent x.extent
  let s := s.overList x.nodes (fun i t => t.updNode x.part i (fun n => if n.state = .demoting then { n with state := .resident } else n))
  s.overList x.rows (fun r t => t.unlease r.2)

def State.evictNode (p i : Nat) (s : State) : State :=
  match s.nodeAt p i with
  | none => s
  | some n =>
    let s := s.overList n.rows (fun r t => t.dropRef r.2)
    let s := match s.talon.transfers.find? (fun x => x.part == p && x.nodes.contains i) with
      | none => s
      | some x =>
        let x' := { x with nodes := x.nodes.filter (· != i) }
        if x.demotion then s.abandonTransfer x'
        else
          let l := s.talon.transfers.map (fun y : PfxTransfer => if y.extent = x.extent ∧ y.part = p then x' else y)
          { s with talon := { s.talon with transfers := l } }
    let s := s.overList ((s.partServing p).hrs.filter (fun h => h.path.contains i)) (fun h t =>
      t.updHand p h.index (fun g => { g with path := g.path.takeWhile (· != i) }))
    let s := s.unlinkNode p i
    let s := if n.extent ≠ 0 ∧ !(s.nodesOf p).any (fun e => e.2.extent == n.extent) then s.dropExtent n.extent else s
    (s.count (Reg.EVICTIONS p)).news p n.slot (.evict i n.depth)

def State.evictSubtree (p i : Nat) (s : State) : State :=
  s.overList (s.subtree p (s.nodesOf p).length i) (fun j t => t.evictNode p j)

/-- A node that this member cannot keep as the lead does (R222). -/
def State.markLost (p i : Nat) (s : State) : State :=
  match s.nodeAt p i with
  | some n => (s.overList n.rows (fun r t => t.dropRef r.2)).putNode p i { n with state := .lostNode, rows := [] }
  | none => s

/-- Nodes whose contents a member has lost: the lead evicts them, a follower marks them LOST and reports them (R222, R226). -/
def State.loseNodes (p : Nat) (nodes : List Nat) (s : State) : State :=
  s.overList nodes (fun i t => if s.followsGroup p then t.markLost p i else t.evictSubtree p i)

/-- The victim of R226: smallest LAST_USE among nodes without children, the lower index on a tie; a request that inserts spares its own path. -/
def State.victim (s : State) (p : Nat) (spare : List Nat) : Option Nat :=
  (((s.nodesOf p).filter (fun e => s.childCount p e.1 == 0 && !spare.contains e.1)).foldl (fun (best : Option (Nat × PfxNode)) e =>
    match best with
    | none => some e
    | some b => if e.2.lastUse < b.2.lastUse then some e else some b) none).map (fun e => e.1)

/-! ### Prompts -/

/-- Token identifiers of a prompt as the walker reads them, segments of identifiers in place (R146, R148): none where a read fails (R131). -/
def State.promptTokens (p : Nat) (d : ReqDesc) (s : State) : List Nat × State :=
  let words := fun (b : List Byte) => (List.range (b.length / 4)).map (fun i => leAt b (4 * i) 4)
  let r : Option Nat × List Byte × State := if d.hostSpace then
      (if s.hostReadable 1 (p + 1) then (none, s.hostRead d.promptAddr (4 * d.promptLen), s.hostReading) else (none, [], s))
    else s.globalRead 3 d.promptAddr (4 * d.promptLen)
  let q := (d.segs.filter (fun g => !g.embed && !g.wait)).foldl (fun (acc : Option Nat × List Nat × State) g =>
    match acc.2.2.globalRead 3 g.addr (4 * g.count) with
    | (some st, _, s) => (some st, acc.2.1, s)
    | (none, b, s) => (acc.1, (words b).zipIdx.foldl (fun l e => l.set (g.pos + e.2) e.1) acc.2.1, s)) (r.1, words r.2.1, r.2.2)
  if q.1.isSome then ([], q.2.2) else q.2

/-- Number of indexable granules of a prompt (R219). -/
def State.indexable (s : State) (p : Nat) (d : ReqDesc) : Nat :=
  if !s.slotIndexed p d.slot then 0
  else
    let stop := (d.segs.filter (fun g => g.embed || g.wait)).foldl (fun m g => min m g.pos) d.promptLen
    stop / 16

def granuleTokens (tokens : List Nat) (g : Nat) : List Nat := (tokens.drop (16 * g)).take 16

/-- Nodes of a chain, in order (R220). -/
def State.chainFrom (s : State) (p : Nat) : Nat → Option Nat → List Nat
  | _, none => []
  | 0, _ => []
  | n + 1, some i => i :: s.chainFrom p n ((s.nodeAt p i).bind (fun x => x.chain))

/-- Read some areas of HBM, 4 to 128 bytes each: true where every one is delivered. -/
def State.readAreas : List (Nat × Nat) → State → Bool × State
  | [], s => (true, s)
  | (a, n) :: t, s =>
    match s.hbmRead 3 a n with
    | (some _, _, s) => (false, s)
    | (none, _, s) => s.readAreas t

/-- One step of the walker (R220, R223): it reads the bucket's entry and the nodes of its chain up to the match, and answers the matching child.
DESIGN CHOICE (log 224): a word that cannot be read is no match, with the MEM status word at severity 0x3; R131 names no operation that it ends. -/
def State.walkStep (p : Nat) (parent : Option Nat) (sl variant : Nat) (tokens : List Nat) (s : State) : Option (Option Nat) × State :=
  let b := s.bucketOf p parent sl variant tokens
  let chain := s.chainFrom p (s.nodesOf p).length (mapGet (pfxKey p b) s.pfx.buckets)
  let hit := s.findChild p parent sl variant tokens
  let seen := chain.takeWhile (fun i => some i != hit) ++ hit.toList
  match s.readAreas ((s.rd64 (Reg.BUCKET_BASE_LO p) + 4 * b, 4) :: seen.map (fun i => (s.rd64 (Reg.NODE_BASE_LO p) + 128 * i, 128))) with
  | (false, s) => (none, s)
  | (true, s) => (some hit, s)

/-- Matched nodes of a prompt's path, from depth 0 on (R223): a LOST node ends it. -/
def State.walkPath (p : Nat) (d : ReqDesc) (tokens : List Nat) : Nat → Nat → Option Nat → State → List Nat × State
  | 0, _, _, s => ([], s)
  | n + 1, g, parent, s =>
    match s.walkStep p parent d.slot d.variant (granuleTokens tokens g) with
    | (some (some i), s) =>
      if (s.nodeAt p i).all (fun x => x.state == .lostNode) then ([], s)
      else let r := s.walkPath p d tokens n (g + 1) (some i); (i :: r.1, r.2)
    | (_, s) => ([], s)

/-- Rows for a promotion on every C-die of the partition, with references still 0 (R229). -/
def State.promotionRows (sl fmt log2p : Nat) : List Nat → State → Option (List (Nat × Nat) × State)
  | [], s => some ([], s)
  | d :: t, s =>
    match s.allocRow d sl fmt log2p with
    | none => none
    | some (r, s) => (State.promotionRows sl fmt log2p t (s.lease r)).map (fun x => ((d, r) :: x.1, x.2))

/-- Start the promotion of an extent for the nodes of a slot (R229). -/
def State.startPromotion (p sl name : Nat) (s : State) : State :=
  match s.extentAt name with
  | none => s
  | some e =>
    let nodes := (s.nodesOf p).filter (fun x => x.2.extent == name && x.2.state == .flash && x.2.slot == sl)
    if nodes.isEmpty || s.talon.transfers.any (fun x => x.extent == name) || !s.talonUp then s
    else
      match State.promotionRows sl e.format e.log2p (s.partDies p) s with
      | none => s
      | some (rows, s) =>
        let s := s.overList nodes (fun x t =>
          (t.updNode p x.1 (fun n => { n with state := .promoting })).news p sl (.promote x.1 x.2.depth))
        let nodes := nodes.map (fun x => x.1)
        let l := s.talon.transfers ++ [⟨p, name, nodes, rows, false⟩]
        { s with talon := { s.talon with transfers := l } }

/-- What the walker reads of a prompt: nothing where no granule is indexed (R219). -/
def State.walkTokens (p : Nat) (d : ReqDesc) (s : State) : List Nat × State :=
  if s.indexable p d = 0 then ([], s)
  else let r := s.promptTokens p d; (r.1.take (16 * s.indexable p d), r.2)

/-- The walker must wait for host memory (R319). -/
def State.walkWaits (s : State) (p : Nat) (d : ReqDesc) : Bool := d.hostSpace && s.indexable p d != 0 && !s.hostReadable 1 (p + 1)

/-- The walker looks up a prompt (R223): every FLASH node on the matched path starts a promotion. -/
def State.lookup (p : Nat) (d : ReqDesc) (s : State) : State :=
  let (tokens, s) := s.walkTokens p d
  let (path, s) := s.walkPath p d tokens (tokens.length / 16) 0 none
  let s := s.count (Reg.LOOKUP_GRANULES p) path.length
  s.overList path (fun i t =>
    match t.nodeAt p i with
    | some n => if n.state = .flash then t.startPromotion p n.slot n.extent else t
    | none => t)

/-! ### Hits and inserts (R200, R224, R225) -/

/-- Leading matched nodes that are RESIDENT or DEMOTING. -/
def State.hitPath (s : State) (p : Nat) (path : List Nat) : List Nat :=
  path.takeWhile (fun i =>
    match s.nodeAt p i with
    | some n => n.state == .resident || n.state == .demoting
    | none => false)

/-- The page-table entry of a node's row on a C-die. -/
def State.nodeEntry (s : State) (p d depth i : Nat) : Option KvEntry :=
  ((s.nodeAt p i).bind (fun n => mapGet d n.rows)).bind (fun r =>
    (s.rowAt r).map (fun row => ⟨16 * depth / 2 ^ row.log2p * 2 ^ row.log2p, row.log2p, row.format, .committed, r⟩))

/-- Entries for the rows of a path on a C-die, in ascending BASE_POS, and how many nodes they serve. A node whose row begins where an entry begins
replaces that entry and those after it: such a row is a copy-on-write of the one before, and holds its positions (R206). DEDUCED (log 226): a node
whose row begins inside another page ends the path, for a table covers positions without gaps or overlaps (R192). -/
def State.pathEntries (s : State) (p d : Nat) : Nat → List Nat → List KvEntry → List KvEntry × Nat
  | depth, [], l => (l, depth)
  | depth, i :: rest, l =>
    match s.nodeEntry p d depth i with
    | none => (l, depth)
    | some e =>
      if l.any (fun x => x.row == e.row) then s.pathEntries p d (depth + 1) rest l
      else
        let l' := l.filter (fun x => decide (x.basePos < e.basePos))
        if (l'.getLast?.map entryEnd).getD 0 = e.basePos then s.pathEntries p d (depth + 1) rest (l' ++ [e]) else (l, depth)

/-- Append entries to a request's table on a C-die, each with its reference. -/
def State.appendEntries (sl d : Nat) : List KvEntry → HandRecord → State → Option (HandRecord × State)
  | [], h, s => some (h, s)
  | e :: t, h, s =>
    match (s.addRef e.row).appendEntry sl (h.table d) e with
    | some (u, s) => State.appendEntries sl d t (h.putTable u) s
    | none => none

/-- References to the rows of a path, on every C-die (R200); none where a page-table block is lacking. -/
def State.referRows (p sl : Nat) (used : List Nat) : List Nat → HandRecord → State → Option (HandRecord × State)
  | [], h, s => some (h, s)
  | d :: rest, h, s =>
    match State.appendEntries sl d (s.pathEntries p d 0 used []).1 h s with
    | some (h, s) => State.referRows p sl used rest h s
    | none => none

/-- Apply a hit to a new record's page tables (R200, R224): h' is h where h ends a matched page. DESIGN CHOICE (log 227): a hit whose references
find no page-table block is not taken. -/
def State.applyHit (p : Nat) (h : HandRecord) (path : List Nat) (s : State) : HandRecord × State :=
  let dies := s.partDies p
  let hit := s.hitPath p path
  let hit := hit.take (dies.foldl (fun m d => min m (s.pathEntries p d 0 hit []).2) hit.length)
  let n := 16 * hit.length
  let ends := dies.all (fun d => ((s.pathEntries p d 0 hit []).1.getLast?.map entryEnd) == some n)
  let n' := if ends then n else n / 64 * 64
  let used := hit.take (n' / 16)
  match State.referRows p h.desc.slot used dies h s with
  | none => (h, s)
  | some (h, s) =>
    let s := s.count (Reg.HIT_GRANULES p) used.length
    let s := s.overList used.zipIdx (fun e t =>
      (t.updNode p e.1 (fun x => { x with lastUse := s.poweredS % 2 ^ 32, hits := min (x.hits + 1) 0xFFFF })).news p h.desc.slot
        (.hit e.1 h.index e.2))
    ({ h with promptDone := n', position := n', startPos := n', path := used }, s)

/-- FILL of the row of a granule covers it on every C-die (R225). -/
def State.granuleFilled (s : State) (h : HandRecord) (g : Nat) : Bool :=
  h.tables.all (fun t =>
    match t.covering (16 * g) with
    | some e =>
      (match s.rowAt e.row with
       | some r => decide (16 * (g + 1) ≤ e.basePos + r.fill.foldl min 1024) && !r.fill.isEmpty
       | none => false)
    | none => false)

/-- Insert nodes for the granules a request has filled (R225). -/
def State.insertNodes (p : Nat) : Nat → HandRecord → State → HandRecord × State
  | 0, h, s => (h, s)
  | fuel + 1, h, s =>
    let g := h.path.length
    if !s.slotIndexed p h.desc.slot ∨ h.prompt.length < 16 * (g + 1) ∨ !s.granuleFilled h g then (h, s)
    else
      let parent := h.path.getLast?
      let toks := granuleTokens h.prompt g
      match s.walkStep p parent h.desc.slot h.desc.variant toks with
      | (none, s) => (h, s)
      | (some (some i), s) => State.insertNodes p fuel { h with path := h.path ++ [i] } s
      | (some none, s) =>
        let s := match s.freeNode p h.desc.slot with
          | some _ => s
          | none => (match s.victim p h.path with | some v => s.evictSubtree p v | none => s)
        match s.freeNode p h.desc.slot with
        | none => (h, s)
        | some i =>
          let rows := h.tables.filterMap (fun t => (t.covering (16 * g)).map (fun e => (t.die, e.row)))
          let n : PfxNode := ⟨parent, .resident, h.desc.slot, h.desc.variant, g, none, 0, s.poweredS % 2 ^ 32, false, rows, 0, toks⟩
          let s := s.overList rows (fun r t => t.addRef r.2)
          let s := (s.linkNode p i n).news p h.desc.slot (.insert i (parent.getD nullNode) h.index g toks)
          State.insertNodes p fuel { h with path := h.path ++ [i] } s

/-! ### Demotion (R227, R228) -/

/-- Extent bytes of a row group: a header page, then every C-die's blocks and scales (R231). -/
def State.groupBytes (s : State) (rows : List (Nat × Nat)) : Nat :=
  flashPage + (rows.map (fun r =>
    match s.rowAt r.2 with
    | some x => x.blocks.length * (4096 * 2 ^ x.order + (if x.format = 1 then 4096 * 2 ^ x.order / 16 else 0))
    | none => 0)).sum

/-- Bytes of a row as an extent or an image holds them. -/
def State.rowBytes (_ : State) (r : KvRow) : Nat :=
  r.blocks.length * (4096 * 2 ^ r.order + (if r.format = 1 then 4096 * 2 ^ r.order / 16 else 0))

/-- Row groups held only by the index, with their nodes: in order of the largest LAST_USE, the lower node index on a tie. -/
def State.candidates (s : State) (p : Nat) : List (List (Nat × Nat) × List Nat) :=
  let res := (s.nodesOf p).filter (fun e => e.2.state == .resident)
  let groups := res.foldl (fun (l : List (List (Nat × Nat))) e => if l.contains e.2.rows then l else l ++ [e.2.rows]) []
  let held := groups.filterMap (fun rows =>
    let mine := res.filter (fun e => e.2.rows == rows)
    let only := rows.all (fun r => match s.rowAt r.2 with
      | some x => x.refcount == ((s.nodesOf p).filter (fun e => e.2.rows.any (fun y => y.2 == r.2))).length
      | none => false)
    let byDepth := mine.foldl (fun l e => l.takeWhile (fun (y : Nat × PfxNode) => decide (y.2.depth ≤ e.2.depth)) ++ e ::
      l.dropWhile (fun (y : Nat × PfxNode) => decide (y.2.depth ≤ e.2.depth))) []
    if only && !rows.isEmpty then some (rows, byDepth.map (fun e => e.1), (mine.map (fun e => e.2.lastUse)).foldl max 0) else none)
  let ins := fun (x : List (Nat × Nat) × (List Nat × Nat)) l =>
    l.takeWhile (fun (y : List (Nat × Nat) × (List Nat × Nat)) => decide (y.2.2 ≤ x.2.2)) ++ x ::
      l.dropWhile (fun (y : List (Nat × Nat) × (List Nat × Nat)) => decide (y.2.2 ≤ x.2.2))
  (held.foldl (fun l x => ins x l) []).map (fun x => (x.1, x.2.1))

/-- Free share of a C-die's KV region in percent of its size, compared with a limit. -/
def State.stockAbove (s : State) (d pct : Nat) : Bool :=
  s.regionUnits d == 0 || decide (pct * (4096 * s.regionUnits d) < freeUnits (s.stockOf d) * 100)
def State.stockBelow (s : State) (d pct : Nat) : Bool :=
  s.regionUnits d != 0 && decide (freeUnits (s.stockOf d) * 100 < pct * (4096 * s.regionUnits d))

/-- The wear credit of every member covers some bytes (R227). -/
def State.creditCovers (s : State) (p bytes : Nat) : Bool :=
  let pendingBytes := ((s.talon.extents.filter (fun e => e.part == p && !e.committed)).map (fun e => e.bytes)).sum
  decide ((bytes + pendingBytes : Int) ≤ mapGetD 0 p s.talon.credit)
    && (List.range (s.rdF (Reg.GROUP_STATE p) Fld.GROUP_STATE_SIZE)).all (fun j =>
      j == s.rdF (Reg.GROUP_STATE p) Fld.GROUP_STATE_MEMBER ||
        (match mapGet (16 * p + j) s.ndx.peers with
         | some x => decide ((bytes : Int) ≤ x.creditMiB * 1048576)
         | none => false))

/-- The header of an extent, its first 4,160 bytes (R231). -/
def extentHeader (e : Extent) : List Byte :=
  let head := leBytes 8 (0xD8E1 + 1 * 2 ^ 16) ++ leBytes 8 0 ++ leBytes 8 e.name ++ leBytes 8 e.parentExtent ++ leBytes 8 e.imageTag
    ++ leBytes 8 (e.variant % 2 ^ 14 + e.groupSize % 32 * 2 ^ 16 + e.member % 16 * 2 ^ 24 + e.dies % 8 * 2 ^ 32 + e.log2p % 16 * 2 ^ 40
        + Config.headerDepth e.firstDepth e.format % 2 ^ 20 * 2 ^ 44)
    ++ leBytes 8 (e.layers % 256 + e.kvHeads % 16 * 2 ^ 8 + e.headDim / 128 % 4 * 2 ^ 12 + e.tokens.length / 16 % 2 ^ 16 * 2 ^ 16
        + (e.bytes - flashPage) % 2 ^ 32 * 2 ^ 32)
  let tokens := (List.range 1024).flatMap (fun i => leBytes 4 (e.tokens.getD i 0))
  head ++ leBytes 8 (crc32cTagged e.name (head ++ leBytes 8 0 ++ tokens)) ++ tokens

/-- The header that an extent holds is whole: MAGIC, VERSION and the check, and with them every field. -/
def headerOk (e : Extent) : Bool := cellsRead 0 e.body 0 4160 == extentHeader e

/-- Start the demotion of a row group (R228 step 1), under the extent name of a plan on a follower (R222) or a new one. -/
def State.startDemotion (p : Nat) (given : Option Nat) (rows : List (Nat × Nat)) (nodes : List Nat) (s : State) : State :=
  match rows.head?.bind (fun r => s.rowAt r.2), nodes.head?.bind (s.nodeAt p) with
  | some row, some n0 =>
    let bytes := s.groupBytes rows
    match s.place .prefixZone 0 (pagesFor bytes) with
    | none => s
    | some (frags, s) =>
      let (name, s) := match given with
        | some n => (n, s)
        | none => s.newName p
      -- a parent that is being demoted has its extent's name already (R231)
      let par := n0.parent.bind (fun i =>
        ((s.talon.transfers.find? (fun x => x.part == p && x.demotion && x.nodes.contains i)).map (fun x => x.extent)).orElse
          (fun _ => (s.nodeAt p i).map (fun n => n.extent)))
      let e : Extent := {
        name := name, part := p, kind := .prefixes, committed := false, stale := false
        parentExtent := par.getD 0
        imageTag := (s.slotServing n0.slot).imageTag, slot := n0.slot, variant := n0.variant
        groupSize := s.rdF (Reg.GROUP_STATE p) Fld.GROUP_STATE_SIZE
        member := s.rdF (Reg.GROUP_STATE p) Fld.GROUP_STATE_MEMBER
        dies := (s.partDies p).length, log2p := row.log2p, format := row.format, firstDepth := n0.depth
        layers := row.blocks.length, kvHeads := s.kvHeads n0.slot, headDim := s.headDim n0.slot
        tokens := nodes.flatMap (fun i => ((s.nodeAt p i).map (fun n => n.tokens)).getD [])
        bytes := bytes, body := [], fragments := frags }
      let s := s.overList rows (fun r t => t.lease r.2)
      let s := s.overList nodes (fun i t => (t.updNode p i (fun n => { n with state := .demoting })).news p n0.slot
        (.demote i name (((t.nodeAt p i).map (fun n => n.depth)).getD 0)))
      let t := { s.talon with
        extents := s.talon.extents ++ [e], transfers := s.talon.transfers ++ [⟨p, name, nodes, rows, true⟩] }
      ({ s with talon := t }).showShare p
  | _, _ => s

/-- The partition's prefix share has room for an extent (R227, R233). -/
def State.shareRoom (s : State) (p bytes : Nat) : Bool :=
  decide (s.prefixUsed p + pagesFor bytes * flashPage ≤ s.shareBytes p - s.parkBytes p) && s.prefixRoom bytes

/-- A demotion that finds the share full evicts victims of R226 until there is room, or until one of its own nodes is the victim. -/
def State.makeRoom (p bytes : Nat) (own : List Nat) : Nat → State → State
  | 0, s => s
  | fuel + 1, s =>
    if s.shareRoom p bytes || own.any (fun i => (s.nodeAt p i).isNone) then s
    else
      match s.victim p [] with
      | some v => State.makeRoom p bytes own fuel (s.evictSubtree p v)
      | none => s

/-- One candidate of R227. -/
def State.demoteGroup (p : Nat) (rows : List (Nat × Nat)) (nodes : List Nat) (s : State) : State :=
  let all := nodes.all (fun i => match s.nodeAt p i with | some n => n.flashValid | none => false)
  if all then
    let s := s.overList nodes (fun i t =>
      match t.nodeAt p i with
      | some n => (t.putNode p i { n with state := .flash, rows := [] }).news p n.slot (.toFlash i n.depth)
      | none => t)
    s.overList nodes (fun _ t => t.overList rows (fun r u => u.dropRef r.2))
  else
    let bytes := s.groupBytes rows
    let s := if pagesFor bytes * flashPage + s.parkBytes p ≤ s.shareBytes p then s.makeRoom p bytes nodes (s.nodesOf p).length else s
    let gone := nodes.any (fun i => (s.nodeAt p i).isNone)
    if gone || !s.shareRoom p bytes || !s.talonUp || (s.place .prefixZone 0 (pagesFor bytes)).isNone then
      ((s.overList nodes (fun i t => t.evictSubtree p i)).count (Reg.SHARE_FULL p)).post St.PFX_SHARE_FULL
    else if s.creditCovers p bytes then s.startDemotion p none rows nodes
    else ((s.overList nodes (fun i t => t.evictSubtree p i)).count (Reg.WEAR_REFUSED p)).post St.PFX_WEAR_REFUSED

def State.setDemoting (p : Nat) (on : Bool) (s : State) : State :=
  { s with pfx := { s.pfx with demoting := if on then setInsert p s.pfx.demoting else setErase p s.pfx.demoting } }

/-- A run of demotions goes on until every C-die is above DEMOTE_HIGH_PCT or no candidate remains; at DEMOTE_INFLIGHT it waits (R227). -/
def State.demoteLoop (p : Nat) : Nat → State → State
  | 0, s => s
  | fuel + 1, s =>
    let high := s.rdF (Reg.PFX_CFG p) Fld.PFX_CFG_DEMOTE_HIGH_PCT
    -- a demotion is in progress until its extent commits (R228)
    let busy := (s.talon.extents.filter (fun e => e.part == p && e.kind == .prefixes && !e.committed && !e.stale)).length
    if (s.partDies p).all (fun d => s.stockAbove d high) then s.setDemoting p false
    else if s.rdF (Reg.PFX_CFG p) Fld.PFX_CFG_DEMOTE_INFLIGHT ≤ busy then s
    else
      match s.candidates p with
      | [] => s.setDemoting p false
      | (rows, nodes) :: _ => State.demoteLoop p fuel (s.demoteGroup p rows nodes)

/-- A run begins when the stock of a C-die falls below DEMOTE_LOW_PCT, or when kv_reserve asks for rows (R227); the lead decides for its
group (R222). -/
def State.demoteCheck (p : Nat) (asked : Bool) (s : State) : State :=
  let low := s.rdF (Reg.PFX_CFG p) Fld.PFX_CFG_DEMOTE_LOW_PCT
  if !s.indexOn p || s.followsGroup p then s
  else
    let s := if asked || (s.partDies p).any (fun d => s.stockBelow d low) then s.setDemoting p true else s
    if s.pfx.demoting.contains p then s.demoteLoop p (s.nodesOf p).length else s

/-! ### Transfers complete (R228, R229) -/

/-- Contents of a row as an extent or image holds it: per layer, the block and its scales. -/
def State.rowImage (sev : Nat) (r : KvRow) (s : State) : Option Nat × List Byte × State :=
  let d := refDie r.ref
  let size := 4096 * 2 ^ r.order
  r.blocks.foldl (fun acc o =>
    match acc with
    | (some st, b, s) => (some st, b, s)
    | (none, b, s) =>
      match s.hbmRead sev (s.blockAddr d o) size with
      | (some st, _, s) => (some st, b, s)
      | (none, x, s) =>
        if r.format ≠ 1 then (none, b ++ x, s)
        else
          match s.hbmRead sev (s.rd64 (Reg.SCALE_BASE_LO d) + 4096 * o / 16) (size / 16) with
          | (some st, _, s) => (some st, b, s)
          | (none, y, s) => (none, b ++ x ++ y, s)) (none, [], s)

/-- Write a row's contents from an extent or image. -/
def State.fillRow (r : KvRow) (b : List Byte) (s : State) : State :=
  let d := refDie r.ref
  let size := 4096 * 2 ^ r.order
  let step := if r.format = 1 then size + size / 16 else size
  s.overList r.blocks.zipIdx (fun e t =>
    let x := (b.drop (step * e.2)).take step
    let t := (t.hbmWrite 2 (t.blockAddr d e.1) (x.take size)).2
    if r.format = 1 then (t.hbmWrite 2 (t.rd64 (Reg.SCALE_BASE_LO d) + 4096 * e.1 / 16) (x.drop size)).2 else t)

def State.endTransfer (x : PfxTransfer) (s : State) : State :=
  let l := s.talon.transfers.filter (fun y : PfxTransfer => y.extent != x.extent || y.part != x.part)
  { s with talon := { s.talon with transfers := l } }

def State.updExtent (name : Nat) (f : Extent → Extent) (s : State) : State :=
  { s with talon := { s.talon with extents := s.talon.extents.map (fun e : Extent => if e.name = name then f e else e) } }

/-- The last byte of a demoted group has been read (R228 step 3); an uncorrectable word abandons the demotion (R131). -/
def State.demotionRead (x : PfxTransfer) (s : State) : State :=
  let r := x.rows.foldl (fun (acc : Option Nat × List Byte × State) e =>
    match acc with
    | (some st, b, s) => (some st, b, s)
    | (none, b, s) =>
      match s.rowAt e.2 with
      | none => (none, b, s)
      | some row => let q := s.rowImage 3 row; (q.1, b ++ q.2.1, q.2.2)) (none, [], s)
  match r with
  | (some _, _, s) => ((s.abandonTransfer x).loseNodes x.part x.nodes).demoteCheck x.part false
  | (none, b, s) =>
    let s := (s.endTransfer x).updExtent x.extent (fun e => { e with body := putBody (putBody [] 0 (extentHeader e)) flashPage b })
    let old := (x.nodes.filterMap (s.nodeAt x.part)).foldl (fun l n => setInsert n.extent l) []
    let s := s.overList x.nodes (fun i t =>
      t.updNode x.part i (fun n => { n with state := .flash, extent := x.extent, flashValid := true, rows := [] }))
    -- an extent that no node claims any longer is freed (R226)
    let s := s.overList old (fun name t =>
      if name = 0 ∨ (t.nodesOf x.part).any (fun e => e.2.extent == name) then t else t.dropExtent name)
    let s := s.overList x.nodes (fun _ t => t.overList x.rows (fun e u => u.dropRef e.2))
    (((s.overList x.rows (fun e t => t.unlease e.2)).count (Reg.DEMOTIONS x.part))).demoteCheck x.part false

/-! ### The retry ladder (R237) -/

/-- A page is lost at step 6 (R237): a prefix extent is freed and its nodes go, a weight image is DAMAGED, a parked image cannot be read. -/
def State.pageLost (band page : Nat) (s : State) : State :=
  let touch := fun (fs : List Fragment) => fs.any (fun f => f.holds band page)
  let s := s.overList (s.talon.extents.filter (fun e => touch e.fragments)) (fun e t =>
    let nodes := ((t.nodesOf e.part).filter (fun x => x.2.extent == e.name)).map (fun x => x.1)
    ((t.loseNodes e.part nodes).dropExtent e.name).post St.PFX_EXTENT_LOST)
  let hit := s.talon.images.any (fun i => touch i.fragments) || s.talon.parked.any (fun i => touch i.fragments)
  let s := { s with talon := { s.talon with
    images := s.talon.images.map (fun i => if touch i.fragments then { i with state := .damaged } else i)
    parked := s.talon.parked.map (fun i => if touch i.fragments then { i with lost := true } else i) } }
  if hit then s.journalled else s

/-- Both copies of a system record are lost: one lies on TC0 to TC7, the other on TC8 to TC15 (R233, R237). -/
def systemLost (cws : List Codeword) : Bool :=
  let sys := cws.filter (fun c => decide (c.band < 21 ∧ 6 ≤ c.step))
  sys.any (fun c => decide (c.die < 16)) && sys.any (fun c => decide (16 ≤ c.die))

/-- Reads that the ladder has added when a codeword leaves it at a step, at most (R237). -/
def addedReads (step : Nat) : Nat :=
  match step with
  | 0 | 1 => 0
  | 2 => 1
  | 3 => 8
  | 4 => 11
  | _ => 18

/-- The ladder's added reads count against the blocks that they read: those of a page's codewords are the same reads (R236, R237). DESIGN CHOICE
(log 228): a step takes all its reads. -/
def State.countRetries (cws : List Codeword) (s : State) : State :=
  let pages := (cws.map (fun c => (c.die, c.band, c.page))).eraseDups
  s.overList pages (fun x t =>
    let n := ((cws.filter (fun c => c.die == x.1 && c.band == x.2.1 && c.page == x.2.2)).map (fun c => addedReads c.step)).foldl max 0
    let b := t.bandAt x.2.1
    if n = 0 then t else t.putBand { b with reads := mapSet x.1 (mapGetD 0 x.1 b.reads + n) b.reads })

/-- Blocks, as die and band, that a read has found a lost codeword in: each is retired once (R238). -/
def lostBlocks (cws : List Codeword) : List (Nat × Nat) := ((cws.filter (fun c => decide (6 ≤ c.step))).map (fun c => (c.die, c.band))).eraseDups

/-- The ledger cannot write to Talon (R426, R434). -/
def State.ledgerVolatile (s : State) : State :=
  ((s.wrF Reg.HLT_STATE Fld.HLT_STATE_LEDGER 1).post St.HLT_LEDGER_VOLATILE).setAlert 6

/-- Codewords of one read (R237): counters, reports, the band's refresh (R236), and what follows from a lost one. -/
def State.ladder (cws : List Codeword) (s : State) : State :=
  let s := s.useTalon.countRetries cws
  let hard := cws.filter (fun c => decide (3 ≤ c.step))
  let days := match s.talon.readDays with
    | [] => [(cws.length, hard.length)]
    | (a, b) :: t => (a + cws.length, b + hard.length) :: t
  let s := { s with talon := { s.talon with readDays := days } }
  let s := s.overList cws (fun c t =>
    let tc := c.die / 2
    let t := if c.step = 2 ∨ c.step = 3 then t.countSat (Reg.TLN_CHANNEL tc 0) 0xFFFFFFFF
      else if c.step = 4 ∨ c.step = 5 then t.countSat (Reg.TLN_CHANNEL tc 1) 0xFFFFFFFF
      else if 6 ≤ c.step then t.countSat (Reg.TLN_CHANNEL tc 2) 0xFFFFFFFF else t
    let t := if 3 ≤ c.step ∧ c.step ≤ 5 then t.postAt 0x6000 St.TLN_LADDER_CORRECTED else t
    let b := t.bandAt c.band
    let t := t.putBand { b with
      refreshDue := b.refreshDue || decide (3 ≤ c.step) || decide (t.rdF Reg.TLN_CFG Fld.TLN_CFG_REFRESH_BITS < c.bits) }
    if 6 ≤ c.step then ((t.ledgerAdd 0x6000 5).postAt 0x6000 St.TLN_UNCORRECTABLE).pageLost c.band c.page else t)
  let s := s.overList (lostBlocks cws) (fun e t => t.retireBlock e.1 e.2)
  if systemLost cws then ((s.wrF Reg.TLN_STATE Fld.TLN_STATE_MOUNT 4).ledgerVolatile).postFatalAt 0x6000 St.TLN_METADATA_LOST else s

/-- A promoted extent has been read (R229 step 3): a read that has lost a page has evicted the extent's nodes. -/
def State.promotionRead (x : PfxTransfer) (s : State) : State :=
  let s := s.endTransfer x
  match s.extentAt x.extent with
  | none => s.overList x.rows (fun e t => t.unlease e.2)
  | some ext =>
    let filled := min (16 * (ext.tokens.length / 16)) (2 ^ ext.log2p)
    let s := s.countReads ext.fragments
    let r := x.rows.foldl (fun (acc : Nat × State) e =>
      match acc.2.rowAt e.2 with
      | none => acc
      | some row =>
        let n := acc.2.rowBytes row
        let s := acc.2.fillRow row (getBody ext.body acc.1 n)
        (acc.1 + n, s.updRow e.2 (fun y => { y with fill := y.fill.map (fun _ => filled) }))) (flashPage, s)
    let s := r.2.overList x.nodes (fun i t =>
      (t.overList x.rows (fun e u => u.addRef e.2)).updNode x.part i (fun n => { n with state := .resident, rows := x.rows }))
    (s.overList x.rows (fun e t => t.unlease e.2)).count (Reg.PROMOTIONS x.part)

/-- Rows held only by the index that hold a lost word: their nodes go (R209, R226). -/
def State.dropLostNodes (p : Nat) (s : State) : State :=
  s.overList (s.candidates p) (fun g t =>
    let holds := fun (r : Nat × Nat) (w : Nat) => match t.rowAt r.2 with
      | none => false
      | some row => row.blocks.any (fun o =>
          inRange (t.blockAddr r.1 o) (4096 * 2 ^ row.order) (32 * w)
            || (row.format == 1 && inRange (t.rd64 (Reg.SCALE_BASE_LO r.1) + 256 * o) (256 * 2 ^ row.order) (32 * w)))
    if g.1.any (fun r => t.memory.lost.any (holds r)) then t.loseNodes p g.2 else t)

/-! ### Rebuild (R231) -/

/-- Adopt one extent as FLASH nodes, under the nodes of its parent extent. -/
def State.adopt (p sl : Nat) (e : Extent) (s : State) : State :=
  let parent := if e.firstDepth = 0 then none else
    ((s.nodesOf p).find? (fun x => x.2.extent == e.parentExtent && x.2.slot == sl && x.2.depth + 1 == e.firstDepth)).map (fun x => x.1)
  let r := (List.range (e.tokens.length / 16)).foldl (fun (acc : Option Nat × State) g =>
    match acc.2.freeNode p sl with
    | none => acc
    | some i =>
      let n : PfxNode := ⟨acc.1, .flash, sl, e.variant, e.firstDepth + g, none, 0, acc.2.poweredS % 2 ^ 32, true, [], e.name,
        granuleTokens e.tokens g⟩
      (some i, (acc.2.linkNode p i n).news p sl (.adopt i (acc.1.getD nullNode) (e.firstDepth + g) e.name))) (parent, s)
  r.2

def State.rebuildIndex (p sl : Nat) (s : State) : State :=
  if !s.slotIndexed p sl || !s.slotLead sl then s
  else
    let tag := (s.slotServing sl).imageTag
    let ok := s.talon.extents.filter (fun e =>
      e.part == p && e.kind == .prefixes && e.committed && headerOk e && e.imageTag == tag
        && e.groupSize == s.rdF (Reg.GROUP_STATE p) Fld.GROUP_STATE_SIZE
        && e.member == s.rdF (Reg.GROUP_STATE p) Fld.GROUP_STATE_MEMBER
        && e.dies == (s.partDies p).length)
    let depths := ok.foldl (fun l e => setInsert e.firstDepth l) []
    s.overList depths (fun d t =>
      t.overList (ok.filter (fun e => e.firstDepth == d)) (fun e u =>
        let under := e.parentExtent != 0 && (u.nodesOf p).any (fun x => x.2.extent == e.parentExtent && x.2.slot == sl && x.2.depth + 1 == e.firstDepth)
        if e.firstDepth = 0 || under then (u.countReads (e.fragments.take 1 |>.map (fun f => { f with pages := 1 }))).adopt p sl e else u))

end Sys2Proof.Machine
end

