-- ==== Sys2Proof/Machine/NdxOps.lean ====
section
/-! DEFINITION. Machine/NdxOps.lean: the members of a partition's group and the control messages sent to them (R332, R333), and
the bodies of trick plans, trick reports and prefix reports (R336 to R338). -/
namespace Sys2Proof.Machine

def State.groupSize (s : State) (p : Nat) : Nat := s.rdF (Reg.GROUP_STATE p) Fld.GROUP_STATE_SIZE
def State.groupMember (s : State) (p : Nat) : Nat := s.rdF (Reg.GROUP_STATE p) Fld.GROUP_STATE_MEMBER
def State.groupLead (s : State) (p : Nat) : Nat := s.rdF (Reg.GROUP_STATE p) Fld.GROUP_STATE_LEAD

/-- The other members of a partition's group; a partition with no topology record is a group of its own (R142). -/
def State.otherMembers (s : State) (p : Nat) : List Nat :=
  if s.groupSize p ≤ 1 then [] else (List.range (s.groupSize p)).filter (fun j => j != s.groupMember p)

def PeerState.fresh (j now : Nat) : PeerState := ⟨j, 0, 0, [], now, 0, 0, 0⟩
def State.peerAt (s : State) (p j : Nat) : PeerState := mapGetD (.fresh j s.now) (16 * p + j) s.ndx.peers
def State.putPeer (p j : Nat) (x : PeerState) (s : State) : State :=
  { s with ndx := { s.ndx with peers := mapSet (16 * p + j) x s.ndx.peers } }

/-- States of GROUP_STATE. -/
def State.groupState (s : State) (p : Nat) : Nat := s.rdF (Reg.GROUP_STATE p) Fld.GROUP_STATE_STATE
def State.groupActive (s : State) (p : Nat) : Bool := s.groupState p == 1
def State.groupIsolated (s : State) (p : Nat) : Bool := s.groupState p == 3

/-! ### Routes and links (R328, R330) -/

/-- VIA_j of the module's copy of the topology record (R328). -/
def State.via (s : State) (p j : Nat) : Nat := bitsAt (s.rdN (Reg.TOPO_COPY p (3 + j / 8))) (4 * (j % 8)) 4
/-- The member at the far end of the links that lead to j: j itself, or the relay. -/
def State.nextHop (s : State) (p j : Nat) : Nat := if s.via p j = s.groupMember p then j else s.via p j

def State.linkState (s : State) (l : Nat) : Nat := s.rdF (Reg.LINK_STATE l) Fld.LINK_STATE_STATE
def State.linkOwner (s : State) (l : Nat) : Option Nat :=
  if s.rdB (Reg.LINK_STATE l) Fld.LINK_STATE_OWNED then some (s.rdF (Reg.LINK_STATE l) Fld.LINK_STATE_OWNER) else none
def State.linkUp (s : State) (l : Nat) : Bool := decide (l < s.fuses.linkCount) && s.linkState l == 3
def State.linkPeer (s : State) (l : Nat) : Nat := s.rdF (Reg.LINK_PEER l) Fld.LINK_PEER_PEER

/-- Up links of a partition whose far end is a member. -/
def State.linksTo (s : State) (p hop : Nat) : List Nat :=
  (List.range 16).filter (fun l => s.linkUp l && s.linkOwner l == some p && s.linkPeer l == hop)

/-- Flits that a sender keeps for replay in one direction of a link (R334). -/
def replayDepth : Nat := 512

/-- A flit that an ISOLATED member may send on its group's links: the one flit of an ACK (R333, R346). -/
def ackFlit (f : Flit) : Bool := f.type == 1 && bitOf f.flags 0 && leAt f.payload 0 2 == 6

/-- Whether a flit may go out on a link: an ISOLATED member sends nothing there but ACKs (R346). -/
def State.maySend (s : State) (l : Nat) (f : Flit) : Bool :=
  ackFlit f || (match s.linkOwner l with
    | some p => !s.groupIsolated p
    | none => true)

/-- Put a flit on a link: it takes the next LSEQ and enters the replay buffer, or waits for room in it (R323, R334). -/
def State.sendFlit (l : Nat) (f : Flit) (s : State) : State :=
  let x := s.linkRun l
  if !s.maySend l f then s
  else if replayDepth ≤ x.replay.length then s.putLink l { x with backlog := x.backlog ++ [f] }
  else (s.putLink l { x with txSeq := (x.txSeq + 1) % 2 ^ 16, replay := x.replay ++ [(x.txSeq, f)] }).emit (.flit l x.txSeq f)

def State.linkBandwidth (s : State) (l : Nat) : Nat := s.rdF (Reg.LINK_PEER l) Fld.LINK_PEER_BW

/-- One of several links: free where more than one would do. -/
def State.anyLink (ls : List Nat) (s : State) : Option Nat × State :=
  match ls with
  | [] => (none, s)
  | [l] => (some l, s)
  | l :: _ => (some (ls.getD (Config.linkChoice s.freeCtr % ls.length) l), s.drawn)

/-- The link for the next unit of data towards a neighbour: the up link that has carried least in proportion to its BW (R330). -/
def State.shareLink (p hop : Nat) (s : State) : Option Nat × State :=
  let ls := s.linksTo p hop
  s.anyLink (ls.filter (fun l => ls.all (fun m =>
    decide ((s.linkRun l).carried * s.linkBandwidth m ≤ (s.linkRun m).carried * s.linkBandwidth l))))

/-- A fresh share begins when the up links to a neighbour change (R327, R330). -/
def State.restripe (p hop : Nat) (s : State) : State :=
  s.overList ((List.range 16).filter (fun l => s.linkOwner l == some p && s.linkPeer l == hop)) (fun l t =>
    t.putLink l { t.linkRun l with carried := 0 })

/-- Flits with no up link towards a neighbour wait (R327). -/
def State.waitFlits (p hop : Nat) (fs : List Flit) (s : State) : State :=
  { s with ndx := { s.ndx with outbox := s.ndx.outbox ++ fs.map (fun f => (p, (hop, f))) } }

/-- Send one unit of data on its link (R330). -/
def State.sendOn (l : Nat) (fs : List Flit) (s : State) : State :=
  (s.putLink l { s.linkRun l with carried := (s.linkRun l).carried + 240 * fs.length }).overList fs (fun f t => t.sendFlit l f)

/-- A unit of data towards a neighbour (R330). -/
def State.sendUnit (p hop : Nat) (fs : List Flit) (s : State) : State :=
  match s.shareLink p hop with
  | (some l, s) => s.sendOn l fs
  | (none, s) => s.waitFlits p hop fs

/-- The flits of one control message go in order on one link towards the member (R335). -/
def State.sendVia (p j : Nat) (fs : List Flit) (s : State) : State :=
  match s.anyLink (s.linksTo p (s.nextHop p j)) with
  | (some l, s) => s.overList fs (fun f t => t.sendFlit l f)
  | (none, s) => s.waitFlits p (s.nextHop p j) fs

/-- Number of the 4 KiB unit of its transfer that an OPEN or DATA flit's first byte of data lies in (R330, R335). -/
def flitUnit (f : Flit) : Nat := (240 * (f.detail / 2 ^ 16 % 2 ^ 16) - 64) / 4096

/-- Flits of one unit of one data transfer. -/
def sameUnit (f g : Flit) : Bool :=
  f.type != 1 && g.type != 1 && f.src == g.src && f.dst == g.dst && f.detail % 2 ^ 16 == g.detail % 2 ^ 16 && flitUnit f == flitUnit g

/-- Waiting flits in groups that go on one link each: a control flit by itself, data flits by unit (R330). -/
def unitsOf : Nat → List Flit → List (List Flit)
  | 0, _ => []
  | _ + 1, [] => []
  | n + 1, f :: rest => (f :: rest.filter (sameUnit f)) :: unitsOf n (rest.filter (fun g => !sameUnit f g))

/-- Flits that waited for a link to a member go out when one is up: control flits in order on one link, data shared in units
of 4 KiB (R327, R330). -/
def State.flushWaiting (p hop : Nat) (s : State) : State :=
  match s.linksTo p hop with
  | [] => s
  | l :: _ =>
    let mine := s.ndx.outbox.filter (fun e => e.1 == p && e.2.1 == hop)
    let s := { s with ndx := { s.ndx with outbox := s.ndx.outbox.filter (fun e => !(e.1 == p && e.2.1 == hop)) } }
    s.overList (unitsOf mine.length (mine.map (fun e => e.2.2))) (fun fs t =>
      match fs with
      | f :: _ => if f.type = 1 then t.sendFlit l f else t.sendUnit p hop fs
      | [] => t)

/-! ### Control messages (R332, R333, R335) -/

/-- Cut bytes into pieces of n, the last one shorter. -/
def piecesOf (n : Nat) : Nat → List Byte → List (List Byte)
  | 0, _ => []
  | fuel + 1, l => if l.isEmpty then [] else l.take n :: piecesOf n fuel (l.drop n)

/-- A payload filled up with zeros to 240 bytes (R334). -/
def padFlit (b : List Byte) : List Byte := sliceBytes b 0 240

/-- CONTROL flits of a message: FIRST on the first, LAST on the last, DETAIL the byte offset (R334, R335). -/
def controlFlits (src dst group epoch : Nat) (msg : List Byte) : List Flit :=
  let pieces := piecesOf 240 (msg.length / 240 + 1) msg
  pieces.zipIdx.map (fun e =>
    ⟨1, boolNat (e.2 == 0) + 2 * boolNat (e.2 + 1 == pieces.length), src, dst, group, epoch, 240 * e.2, padFlit e.1⟩)

/-- A control message: header and body, with its CRC over both (R332). -/
def messageBytes (type src dst group epoch seq : Nat) (body : List Byte) : List Byte :=
  let head := leBytes 2 type ++ leBytes 1 src ++ leBytes 1 dst ++ leBytes 2 group ++ leBytes 2 0 ++ leBytes 4 epoch
    ++ leBytes 4 body.length ++ leBytes 8 seq ++ leBytes 4 0
  head ++ leBytes 4 (crc32cTagged seq (head ++ leBytes 4 0 ++ body)) ++ body

def State.groupId (s : State) (p : Nat) : Nat := s.rdF (Reg.GROUP_ID p) Fld.GROUP_ID_ID
def State.groupEpoch (s : State) (p : Nat) : Nat := s.rdN (Reg.GROUP_EPOCH p)

/-- The flits of a message of this member to another. -/
def State.messageFlits (s : State) (p j type seq : Nat) (body : List Byte) : List Flit :=
  controlFlits (s.groupMember p) j (s.groupId p) (s.groupEpoch p)
    (messageBytes type (s.groupMember p) j (s.groupId p) (s.groupEpoch p) seq body)

/-- Hand a message to the links: an ISOLATED member sends nothing but ACKs (R346). -/
def State.transmit (p j type seq : Nat) (body : List Byte) (s : State) : State :=
  if s.groupIsolated p && type != 6 then s else s.sendVia p j (s.messageFlits p j type seq body)

/-- Most control messages to one member that may be unacknowledged (R333). -/
def controlWindow : Nat := 32

/-- Transmit the messages that have come within the window. -/
def State.fillWindow (p j : Nat) (s : State) : State :=
  let x := s.peerAt p j
  let due := (x.unacked.take controlWindow).filter (fun m => m.sentAt.isNone)
  let mark := fun (i : CtlMessage × Nat) => if i.2 < controlWindow ∧ i.1.sentAt.isNone then { i.1 with sentAt := some s.now } else i.1
  (s.putPeer p j { x with unacked := x.unacked.zipIdx.map mark }).overList due (fun m t => t.transmit p j m.type m.seq m.body)

/-- Send a control message to a member (R332, R333): it waits while 32 messages to that member are unacknowledged. -/
def State.sendControl (p j type : Nat) (body : List Byte) (s : State) : State :=
  let x := s.peerAt p j
  let m : CtlMessage := ⟨type, x.txSeq + 1, body, 0, none⟩
  (s.putPeer p j { x with txSeq := x.txSeq + 1, unacked := x.unacked ++ [m] }).fillWindow p j

/-- An ACK, whose body is the SEQ acknowledged (R333, R338). DESIGN CHOICE: the SEQ of an ACK and of a FENCED message is 0. -/
def State.sendAck (p j seq : Nat) (s : State) : State := s.transmit p j 6 0 (leBytes 8 seq)

/-! ### Data transfers (R335) -/

/-- Most data of one transfer in the model's cut of striped traffic: the unit of R330. -/
def stripeUnit : Nat := 4096

/-- The 64-byte transfer header of R335. -/
def transferHeader (d : DataTransfer) : List Byte :=
  leBytes 1 d.kind ++ leBytes 1 (boolNat d.abort + 2 * boolNat d.steer) ++ leBytes 1 (d.op % 8 + d.fmt % 4 * 16) ++ leBytes 1 d.phase
    ++ leBytes 6 d.trick ++ leBytes 2 d.collId ++ leBytes 4 d.count ++ leBytes 4 d.chunk ++ leBytes 8 d.offset
    ++ leBytes 4 d.bytes.length ++ leBytes 1 d.layer ++ leBytes 1 (d.slot % 8) ++ List.replicate 30 0

/-- OPEN and DATA flits of a transfer: 176 bytes of data in the OPEN flit, 240 in each DATA flit (R335). -/
def transferFlits (src dst group epoch id : Nat) (d : DataTransfer) : List Flit :=
  let pieces := piecesOf 240 (d.bytes.length / 240 + 2) (transferHeader d ++ d.bytes)
  pieces.zipIdx.map (fun e =>
    ⟨if e.2 = 0 then 2 else 3, boolNat (e.2 == 0) + 2 * boolNat (e.2 + 1 == pieces.length), src, dst, group, epoch,
      id % 2 ^ 16 + e.2 % 2 ^ 16 * 2 ^ 16, padFlit e.1⟩)

/-- One transfer to a member, under a TRANSFER_ID of its own. -/
def State.sendTransfer (p j : Nat) (d : DataTransfer) (s : State) : State :=
  let x := s.peerAt p j
  let fs := transferFlits (s.groupMember p) j (s.groupId p) (s.groupEpoch p) x.transferId d
  (s.putPeer p j { x with transferId := (x.transferId + 1) % 2 ^ 16 }).sendUnit p (s.nextHop p j) fs

/-- Data for a member, cut into units of 4 KiB that the up links share (R330). -/
def State.sendData (p j : Nat) (d : DataTransfer) (s : State) : State :=
  s.overList (piecesOf stripeUnit (d.bytes.length / stripeUnit + 1) d.bytes).zipIdx (fun e t =>
    t.sendTransfer p j { d with offset := d.offset + stripeUnit * e.2, bytes := e.1 })

/-! ### Trick plans (R336) -/

def kindCode : RowKind → Nat
  | .pad => 0
  | .decode => 1
  | .draft => 2
  | .prefill => 3

/-- Words 0 to 2 of a row (R160). -/
def rowWords (r : TrickRow) : List Byte :=
  leBytes 8 (r.hr % 2 ^ 16 + kindCode r.kind * 2 ^ 16 + r.position % 2 ^ 24 * 2 ^ 32)
    ++ leBytes 8 (r.token % 2 ^ 32 + r.variant % 2 ^ 14 * 2 ^ 32 + boolNat r.embed.isSome * 2 ^ 46 + boolNat r.sample * 2 ^ 47)
    ++ leBytes 8 (r.embed.getD 0)

/-- A prefix action with its trailer (R336). -/
def actionBytes (a : PrefixAction) : List Byte :=
  let head := fun (op node parent hr depth : Nat) =>
    leBytes 8 (op + node % 2 ^ 24 * 2 ^ 8 + parent % 2 ^ 24 * 2 ^ 32) ++ leBytes 2 hr ++ leBytes 3 (depth % 2 ^ 20) ++ leBytes 3 0
  match a with
  | .insert node parent hr depth tokens => head 1 node parent hr depth ++ tokens.flatMap (leBytes 4)
  | .hit node hr depth => head 2 node 0 hr depth
  | .evict node depth => head 3 node 0 0xFFFF depth
  | .demote node extent depth => head 4 node 0 0xFFFF depth ++ leBytes 8 extent
  | .promote node depth => head 5 node 0 0xFFFF depth
  | .adopt node parent depth extent => head 6 node parent 0xFFFF depth ++ leBytes 8 extent
  | .toFlash node depth => head 7 node 0 0xFFFF depth

/-- Entries of a plan in the order of R336, each with the number of its list. -/
def planEntries (t : TrickPlan) : List (Nat × List Byte) :=
  (t.rows.map (fun r => (0, rowWords r)))
    ++ (t.news.verify.map (fun v => (1, leBytes 4 (v.1 % 2 ^ 16 + v.2.1 % 16 * 2 ^ 16 + v.2.2 % 16 * 2 ^ 20))))
    ++ (t.news.ends.map (fun e => (2, leBytes 4 (e.1 % 2 ^ 16 + e.2 % 2 ^ 16 * 2 ^ 16))))
    ++ (t.news.starts.map (fun e => (3, leBytes 8 (e.1 % 2 ^ 16 + e.2.1 % 2 ^ 16 * 2 ^ 16 + e.2.2.1 % 16 * 2 ^ 32
          + e.2.2.2.1 % 2 ^ 24 * 2 ^ 40) ++ leBytes 8 e.2.2.2.2)))
    ++ (t.news.parks.map (fun e => (4, leBytes 8 (e.1 % 2 ^ 16) ++ leBytes 8 e.2)))
    ++ (t.news.actions.map (fun a => (5, actionBytes a)))

/-- Cut entries into bodies of at most 65,536 bytes with their header. -/
def splitEntries : List (Nat × List Byte) → Nat → List (Nat × List Byte) → List (List (Nat × List Byte))
  | [], _, acc => [acc.reverse]
  | e :: t, n, acc =>
    if 65536 < n + e.2.length then acc.reverse :: splitEntries t (32 + e.2.length) [e]
    else splitEntries t (n + e.2.length) (e :: acc)

/-- The bodies of a plan's messages (R336). -/
def planBodies (t : TrickPlan) : List (List Byte) :=
  let parts := splitEntries (planEntries t) 32 []
  parts.zipIdx.map (fun e =>
    let n := fun k => (e.1.filter (fun x => x.1 == k)).length
    leBytes 6 t.trick ++ leBytes 1 (t.slot + t.bucket * 16) ++ leBytes 1 (e.2 % 16 + (parts.length - 1) % 16 * 16)
      ++ leBytes 2 (n 0) ++ leBytes 2 (n 1) ++ leBytes 2 (n 2) ++ leBytes 2 (n 3) ++ leBytes 2 (n 4) ++ leBytes 2 (n 5)
      ++ leBytes 4 t.embedBytes ++ leBytes 8 0 ++ e.1.flatMap (fun x => x.2))

/-- A trick report's body (R337). -/
def reportBody (trick sl status : Nat) (ends parks : List (Nat × Nat)) : List Byte :=
  let pair := fun (e : Nat × Nat) => leBytes 4 (e.1 % 2 ^ 16 + e.2 % 2 ^ 16 * 2 ^ 16)
  leBytes 6 trick ++ leBytes 1 sl ++ leBytes 1 0 ++ leBytes 2 status ++ leBytes 2 ends.length ++ leBytes 2 parks.length
    ++ leBytes 2 0 ++ ends.flatMap pair ++ parks.flatMap pair

/-- A prefix report's body (R338). -/
def prefixReportBody (creditMiB : Int) (parkFreeMiB : Nat) (lost : List Nat) : List Byte :=
  leBytes 4 (ofSigned 32 creditMiB) ++ leBytes 4 parkFreeMiB ++ leBytes 2 lost.length ++ leBytes 6 0 ++ lost.flatMap (leBytes 4)

end Sys2Proof.Machine
end

