-- ==== Sys2Proof/Machine/ServingOps.lean ====
section
/-! DEFINITION. Machine/ServingOps.lean: serving completion entries (R150, R151), the end of requests (R152 to R154), effective
budgets (R159, R161), admission (R155 to R158), and what the members of a group lose together (R166, R172). -/
namespace Sys2Proof.Machine

/-! ### Serving completion queues (R150, R151, R107) -/

/-- A serving completion entry with PHASE 0; `body` is words 3 to 6. -/
def servingEntry (status kind count position tag ts : Nat) (body : List Nat) (latency : Nat) : List Byte :=
  leBytes 8 (status % 2 ^ 16 + kind % 16 * 2 ^ 16 + count % 16 * 2 ^ 20 + position % 2 ^ 32 * 2 ^ 32)
    ++ leBytes 8 tag ++ leBytes 8 ts ++ leBytes 8 (body.getD 0 0) ++ leBytes 8 (body.getD 1 0) ++ leBytes 8 (body.getD 2 0)
    ++ leBytes 8 (body.getD 3 0) ++ leBytes 8 (min latency 0xFFFFFFFF)

/-- The SCQ bound to an RQ. -/
def State.scqOf (s : State) (p rq : Nat) : Nat := s.rdF (Reg.RQ_CFG p rq) Fld.RQ_CFG_SCQ

def State.scqFull (s : State) (p c : Nat) : Bool :=
  let n := 2 ^ s.rdF (Reg.SCQ_CFG p c) Fld.SCQ_CFG_SIZE_LOG2
  (s.rdN (Reg.SCQ_TAIL p c) + 1) % n == s.rdN (Reg.SCQ_HEAD p c) % n

/-- Write an entry at the tail of an SCQ with its PHASE bit: true where a message is due for it. A write into an unmapped page
stops the ring (R136). -/
def State.scqPut (p c : Nat) (b : List Byte) (s : State) : Bool × State :=
  let cfg := Reg.SCQ_CFG p c
  let log2 := s.rdF cfg Fld.SCQ_CFG_SIZE_LOG2
  let tail := s.rdN (Reg.SCQ_TAIL p c)
  let x := s.partServing p
  let phase := !x.scqFlipped.contains c
  let b := leBytes 8 (leAt b 0 8 + boolNat phase * 2 ^ 31) ++ b.drop 8
  match s.ringWrite (s.rdF cfg Fld.SCQ_CFG_SPACE) (p + 1) (ringBase (s.rd64 (Reg.SCQ_BASE_LO p c)) 64 log2 + 64 * tail) b with
  | (false, s) => (false, s.stopRing (.scq p c))
  | (true, s) =>
    let next := (tail + 1) % 2 ^ log2
    let s := s.wrN (Reg.SCQ_TAIL p c) next
    (true, if next = 0 then
        s.putServing p { x with scqFlipped := if phase then setInsert c x.scqFlipped else setErase c x.scqFlipped }
      else s)

/-- An entry of an SCQ: discarded while the ring is stopped, held while it is full (R107). -/
def State.postEntry (p c : Nat) (b : List Byte) (s : State) : Bool × State :=
  if !s.rdB (Reg.SCQ_CFG p c) Fld.SCQ_CFG_ENABLE then (false, s)
  else
    let x := s.partServing p
    if x.heldEntries.any (fun e => e.1 == c) || s.scqFull p c then
      (false, s.putServing p { x with heldEntries := x.heldEntries ++ [(c, b)] })
    else s.scqPut p c b

def State.scqIrq (p c : Nat) (s : State) : State :=
  let cfg := Reg.SCQ_CFG p c
  if s.rdB cfg Fld.SCQ_CFG_IRQ_EN then s.msix (p + 1) (s.rdF cfg Fld.SCQ_CFG_VECTOR) else s

/-- A status word of the serving engine that goes into an entry is also produced by its block (R39). -/
def State.postSrv (st : Nat) (s : State) : State := if stBlock st = 3 then s.post st else s

/-- An entry posted outside a boundary. -/
def State.postNow (p rq : Nat) (st kind tag : Nat) (s : State) : State :=
  let c := s.scqOf p rq
  match (s.postSrv st).postEntry p c (servingEntry st kind 0 0 tag s.now [] 0) with
  | (true, s) => s.scqIrq p c
  | (false, s) => s

/-- Decide an entry of the boundary under way. -/
def State.note (p rq st kind : Nat) (b : List Byte) (s : State) : State :=
  let s := s.postSrv st
  let x := s.partServing p
  s.putServing p { x with outbox := x.outbox ++ [(kind, (s.scqOf p rq, b))] }

def State.noteAck (p rq st tag : Nat) (s : State) : State := s.note p rq st 3 (servingEntry st 3 0 0 tag s.now [] 0)

/-- Post the entries of a boundary in the order of R151, then one message for each SCQ that received one. -/
def State.flushOutbox (p : Nat) (s : State) : State :=
  let x := s.partServing p
  let s := s.putServing p { x with outbox := [] }
  let l := [1, 2, 3].flatMap (fun k => x.outbox.filter (fun e => e.1 == k))
  let r := l.foldl (fun (acc : List Nat × State) e =>
    let q := acc.2.postEntry p e.2.1 e.2.2
    (if q.1 then setInsert e.2.1 acc.1 else acc.1, q.2)) ([], s)
  r.2.overList r.1 (fun c t => t.scqIrq p c)

/-! ### The end of requests (R152, R154) -/

def handLive (h : HandRecord) : Bool :=
  match h.phase with
  | .ended _ => false
  | _ => true

def endEntry (st generated reason handle tag ts : Nat) : List Byte :=
  servingEntry st 2 0 0 tag ts [generated % 2 ^ 32 + reason % 16 * 2 ^ 32, handle] 0

def State.handsOf (s : State) (p sl : Nat) : List HandRecord :=
  (s.partServing p).hrs.filter (fun h => h.desc.slot == sl && handLive h)

/-- A request that holds a hand record ends; the record is freed later at the same boundary. -/
def State.endHand (p i st reason : Nat) (s : State) : State :=
  match s.handAt p i with
  | none => s
  | some h =>
    if !handLive h then s
    else
      let done := st == St.SRV_COMPLETED
      let s := s.note p h.rq st 2
        (endEntry st h.generated reason (if st = St.SRV_PARKED then h.parkHandle else 0) h.desc.hostTag s.now)
      let s := if done then s.count (Reg.CLASS_COMPLETED p h.desc.cls) else s
      let s := s.updHand p i (fun h => { h with phase := .ended done })
      s.updSlot h.desc.slot (fun x => { x with news := { x.news with ends := x.news.ends ++ [(i, st)] } })

/-- A HELD request ends. -/
def State.endHeld (p : Nat) (r : HeldReq) (st : Nat) (s : State) : State :=
  let s := s.note p r.rq st 2 (endEntry st 0 0xF 0 r.desc.hostTag s.now)
  let x := s.partServing p
  s.putServing p { x with held := x.held.filter (fun y => y != r) }

def State.heldOf (s : State) (p sl : Nat) : List HeldReq := (s.partServing p).held.filter (fun r => r.desc.slot == sl)

/-- The ACK of a RESUME in a group waits for the resumed request's first trick, which tells whether every member holds it (R175). -/
def State.ackPending (s : State) (p : Nat) (h : HandRecord) : Bool := h.dropImage.isSome && decide (1 < s.groupSize p)

/-- A request that has ended gives its record back; a RESUME that it still owes an ACK to has failed (R175). -/
def State.retireHand (p i : Nat) (s : State) : State :=
  match s.handAt p i with
  | some h => (if s.ackPending p h then s.noteAck p h.parkBy.1 St.SRV_RESUME_FAILED h.parkBy.2 else s).freeHand p i
  | none => s

/-- Records of ended requests return to the free list (R152). -/
def State.freeEnded (p sl : Nat) (s : State) : State :=
  s.overList ((s.partServing p).hrs.filter (fun h => h.desc.slot == sl && !handLive h)) (fun h t => t.retireHand p h.index)

/-- TRICK, a 48-bit register. -/
def State.trickOf (s : State) (sl : Nat) : Nat := s.rd64 (Reg.TRICK_LO sl) % 2 ^ 48
def State.setTrick (sl t : Nat) (s : State) : State := s.wr64 (Reg.TRICK_LO sl) (t % 2 ^ 48)

/-- Every request of a slot ends with a status word and the slot stands FAILED (R144, R162, R166, R172). -/
def State.failSlot (p sl st : Nat) (s : State) : State :=
  let s := s.overList (s.handsOf p sl) (fun h t => t.endHand p h.index st 0xF)
  let s := s.overList (s.heldOf p sl) (fun r t => t.endHeld p r st)
  let s := s.overList (s.slotServing sl).commands (fun c t =>
    if c.opcode = 4 then t.noteAck p c.rq St.SRV_RESUME_FAILED c.hostTag
    else t.noteAck p c.rq St.SRV_UNKNOWN_REQUEST c.hostTag)
  let s := (s.updSlot sl (fun x => { x with commands := [], inFlight := none, event := false, toSubmit := none })).freeEnded p sl
  ((s.wrF (Reg.SLOT_CTRL sl) Fld.SLOT_CTRL_STATE 3).showServing p)

/-- One trick is abandoned (R172): true where ABANDON_LIMIT is reached. -/
def State.countAbandoned (sl t : Nat) (s : State) : Bool × State :=
  let s := ((s.setTrick sl t).count (Reg.ABANDONED sl)).post St.SRV_TRICK_ABANDONED
  let s := s.updSlot sl (fun x => { x with abandonRun := x.abandonRun + 1 })
  (decide (s.rdF (Reg.SLOT_CFG2 sl) Fld.SLOT_CFG2_ABANDON_LIMIT ≤ (s.slotServing sl).abandonRun), s)

/-- A member or the links of the group are lost (R166): at once, without waiting for a boundary. -/
def State.loseSlot (p sl : Nat) (s : State) : State :=
  if !(s.slotReady sl && s.slotOwner sl == p && s.slotLead sl) then s
  else
    let s := match (s.slotServing sl).inFlight with
      | some f => (s.countAbandoned sl f.num).2
      | none => s
    (s.failSlot p sl St.SRV_GROUP_LOST).flushOutbox p

def State.loseGroup (p : Nat) (s : State) : State := s.overList (List.range 8) (fun sl t => t.loseSlot p sl)

/-! ### Budgets (R159, R161) -/

def State.templateBase (s : State) (sl : Nat) : Nat := s.rd64 (Reg.TEMPLATE_TABLE_BASE_LO sl) % 2 ^ 48

/-- Buckets present in a template table, ascending: index, address, PACKET_BYTES. -/
def bucketsOf (table : List Byte) : List (Nat × (Nat × Nat)) :=
  (List.range 11).filterMap (fun i =>
    let a := bitsAt (leAt table (16 * i) 8) 0 48
    if a = 0 then none else some (i, (a, bitsAt (leAt table (16 * i + 8) 8) 0 32)))

def bucketRows (i : Nat) : Nat := 2 ^ (i + 4)

def State.effectiveBudget (s : State) (sl : Nat) (bs : List (Nat × (Nat × Nat))) : Nat :=
  min (s.rdF (Reg.SLOT_CFG sl) Fld.SLOT_CFG_TOKEN_BUDGET) ((bs.getLast?.map (fun b => bucketRows b.1)).getD 0)

/-- Effective MAX_SEQS under a template table (R161). -/
def State.effectiveSeqs (s : State) (sl : Nat) (table : List Byte) : Nat :=
  let e := s.effectiveBudget sl (bucketsOf table)
  max 1 (min (s.rdF (Reg.SLOT_CFG2 sl) Fld.SLOT_CFG2_MAX_SEQS) (min (s.rdN (Reg.KITTY_ENTRIES sl)) (e - 64)))

/-! ### Latency (R155 to R157) -/

def State.ttftMs (s : State) (p sl k : Nat) : Nat := s.slotField sl (Reg.CLASS_TTFT p k) Fld.CLASS_TTFT_TTFT_LIMIT_MS
def State.holdMaxMs (s : State) (p sl k : Nat) : Nat := s.slotField sl (Reg.CLASS_TTFT p k) Fld.CLASS_TTFT_HOLD_MAX_MS
def State.tbtMs (s : State) (p sl k : Nat) : Nat := s.slotField sl (Reg.CLASS_TBT p k) Fld.CLASS_TBT_TBT_TARGET_MS

/-- The record of a request that received tokens at this boundary, and the LATENCY_US of its entry (R150, R155). -/
def State.tokensArrived (p : Nat) (h : HandRecord) (first : Nat) (s : State) : HandRecord × Nat × State :=
  if first = 0 then
    let t := s.now - h.submitTs
    let s := if s.ttftMs p h.desc.slot h.desc.cls * 1000000 < t then s.count (Reg.CLASS_TTFT_OVER p h.desc.cls) else s
    ({ h with firstTs := s.now, lastTs := s.now, skipInterval := false }, t / 1000, s)
  else
    let t := s.now - h.lastTs
    if h.skipInterval then ({ h with lastTs := s.now, skipInterval := false }, t / 1000, s)
    else
      let us := min (t / 1000) 0xFFFFFFFF
      let target := s.tbtMs p h.desc.slot h.desc.cls
      let late := target != 0 && decide (target * 1000000 < t)
      let s := if late then s.count (Reg.CLASS_TBT_OVER p h.desc.cls) else s
      ({ h with lastTs := s.now, tbtLast := us, tbtMax := max h.tbtMax us, tbtOver := (h.tbtOver + boolNat late) % 2 ^ 32 }, t / 1000, s)

/-- A DECODE request at risk (R156). -/
def State.atRisk (s : State) (p sl : Nat) (h : HandRecord) : Bool :=
  let target := s.tbtMs p h.desc.slot h.desc.cls
  h.phase == .decode && target != 0
    && decide (target * 1000 * s.rdF (Reg.SLOT_CFG sl) Fld.SLOT_CFG_RISK_PCT < h.tbtLast * 100)

/-- PREFILL_CAP at a boundary (R156). -/
def State.updateCap (p sl : Nat) (s : State) : State :=
  let cap := s.rdN (Reg.PREFILL_CAP sl)
  let floor := s.rdF (Reg.SLOT_CFG2 sl) Fld.SLOT_CFG2_PREFILL_FLOOR
  let risk := (s.handsOf p sl).any (s.atRisk p sl)
  s.wrN (Reg.PREFILL_CAP sl)
    (if risk then max floor (64 * (cap / 128))
     else min (s.rdF (Reg.SLOT_CFG sl) Fld.SLOT_CFG_TOKEN_BUDGET) (max 64 (2 * cap)))

/-- TRICK_TIME_AVG in µs (R157): `trick` says that a trick has completed at this boundary. -/
def State.updateAverage (sl : Nat) (trick : Bool) (s : State) : State :=
  let x := s.slotServing sl
  let t := (s.now - x.boundaryAt.getD s.now) / 1000
  let avg := s.rdN (Reg.TRICK_TIME_AVG sl)
  let s := s.putSlot sl { x with boundaryAt := some s.now, averaged := x.averaged || trick }
  if x.averaged then
    s.wrN (Reg.TRICK_TIME_AVG sl) (min 0xFFFFFFFF (if avg ≤ t then avg + (t - avg) / 8 else avg - (avg - t) / 8))
  else if trick then s.wrN (Reg.TRICK_TIME_AVG sl) (min 0xFFFFFFFF t)
  else s

/-- Predicted time to first token in µs (R157). -/
def State.predicted (s : State) (p sl : Nat) (d : ReqDesc) : Nat :=
  let a := (((s.handsOf p sl).filter (fun h => h.phase == .prefill && decide (h.desc.cls ≤ d.cls))).map
    (fun h => h.desc.promptLen - h.promptDone)).sum
  let budget := s.rdF (Reg.SLOT_CFG sl) Fld.SLOT_CFG_TOKEN_BUDGET
  let c := max 64 (min (s.rdN (Reg.PREFILL_CAP sl)) (budget - (s.slotServing sl).lastDecode))
  s.rdN (Reg.TRICK_TIME_AVG sl) * ((a + d.promptLen + c - 1) / c + 1)

/-! ### Admission (R158, R275) -/

/-- Entry of the tag table (R273): ADDR, KIND, STATE, COUNT. -/
structure TagEntry where
  addr : Nat
  embed : Bool
  state : Nat
  count : Nat
  deriving DecidableEq, Repr

/-- An entry read from the tag table: none where it cannot be read, which stops the partition (R131). -/
def State.tagEntry (p tag : Nat) (s : State) : Option TagEntry × State :=
  match s.hbmRead 4 (s.rd64 (Reg.TAG_TABLE_LO p) + 16 * tag) 16 with
  | (some _, _, s) => (none, s)
  | (none, b, s) =>
    let w := leAt b 0 8
    (some ⟨bitsAt w 0 48, bitOf w 48, bitsAt w 49 2, bitsAt (leAt b 8 8) 0 24⟩, s)

/-- What a WAIT segment says at a boundary (R149, R275). -/
inductive SegmentLook where
  | absent | failed
  | present (seg : Segment)
  deriving DecidableEq, Repr

def State.lookSegment (p sl : Nat) (g : Segment) (s : State) : SegmentLook × State :=
  if !g.wait then (.present g, s)
  else
    match s.tagEntry p g.tag with
    | (none, s) => (.absent, s)
    | (some t, s) =>
      let bytes := if g.embed then g.count * s.rdF (Reg.SLOT_HIDDEN sl) Fld.SLOT_HIDDEN_HIDDEN * 2 else g.count * 4
      if t.state = 0 ∨ t.state = 3 then (.absent, s)
      else if t.state = 1 ∧ t.embed = g.embed ∧ t.count = g.count ∧ s.inTaskSpace p t.addr bytes then
        (.present { g with addr := t.addr }, s)
      else (.failed, s)

/-- A request's segments at a boundary, in order. -/
def State.lookSegments (p sl : Nat) (segs : List Segment) (s : State) : List SegmentLook × State :=
  segs.foldl (fun acc g => let q := acc.2.lookSegment p sl g; (acc.1 ++ [q.1], q.2)) ([], s)

/-- Segments that are all present. -/
def presentSegments : List SegmentLook → Option (List Segment)
  | [] => some []
  | .present g :: t => (presentSegments t).map (fun l => g :: l)
  | _ :: _ => none

/-- The lowest number that a list does not hold. -/
def lowestFree (l : List Nat) : Nat := l.foldl (fun n k => if k = n then n + 1 else n) 0

def State.freeRecord (s : State) (p : Nat) : Option Nat :=
  let i := lowestFree ((s.partServing p).hrs.map (fun h => h.index))
  if i < s.handShare p then some i else none

def State.freeKitty (s : State) (p sl : Nat) : Option Nat :=
  let used := ((s.partServing p).hrs.filter (fun h => h.desc.slot == sl)).foldl (fun l h => setInsert h.kitty l) []
  let i := lowestFree used
  if i < s.rdN (Reg.KITTY_ENTRIES sl) then some i else none

/-- A new hand record (R154, R191). -/
def State.newHand (s : State) (p i kitty : Nat) (d : ReqDesc) (rq ts : Nat) : HandRecord :=
  let x := s.partServing p
  { index := i, generation := (mapGetD 0 i x.generations + 1) % 2 ^ 32, phase := .prefill, desc := d, rq := rq, order := x.admitted
    submitTs := ts, admitTs := s.now, firstTs := 0, lastTs := 0, promptDone := 0, generated := 0, position := 0, lastToken := 0
    tbtLast := 0, tbtMax := 0, tbtOver := 0, drafts := [], parkHandle := 0, skipInterval := false, dropImage := none
    parkBy := (0, 0), awaiting := [], outcome := none
    log2p := s.pageSizeLog2 d.slot (d.promptLen + d.maxNew)
    kitty := kitty, flushPending := false, flushed := [], copied := [], tentative := 0, startPos := 0, reservedRows := 0
    written := [], tables := (s.partDies p).map (fun c => ⟨c, [], []⟩), path := [], noPage := false, leased := false, prompt := [] }

/-- Enter a record among those of a partition, by index. -/
def State.addHand (p : Nat) (h : HandRecord) (s : State) : State :=
  let x := s.partServing p
  let lo := x.hrs.filter (fun g => decide (g.index < h.index))
  let hi := x.hrs.filter (fun g => decide (h.index < g.index))
  (s.putServing p { x with
    hrs := lo ++ h :: hi, generations := mapSet h.index h.generation x.generations, admitted := x.admitted + 1 }).showServing p

/-- Admit a HELD request (R152, R158, R200, R224). -/
def State.admitRequest (p : Nat) (r : HeldReq) (segs : List Segment) (i kitty : Nat) (s : State) : State :=
  let d := { r.desc with segs := segs }
  let x := s.partServing p
  let s := s.putServing p { x with held := x.held.filter (fun y => y != r) }
  let (tokens, s) := s.walkTokens p d
  let h := { s.newHand p i kitty d r.rq r.fetchTs with prompt := tokens }
  let (path, s) := s.walkPath p d tokens (tokens.length / 16) 0 none
  let (h, s) := s.applyHit p h path
  let s := s.addHand p h
  s.updSlot d.slot (fun y => { y with news := { y.news with
    starts := y.news.starts ++ [(i, (kitty, (h.log2p, (h.promptDone, 0))))] } })

/-- PREFILL and DECODE requests of a slot. -/
def State.running (s : State) (p sl : Nat) : List HandRecord :=
  (s.handsOf p sl).filter (fun h => h.phase == .prefill || h.phase == .decode)

/-- Consider HELD requests in order (R158); `stuck` holds the classes that a failed prediction holds. -/
def State.considerHeld (p sl : Nat) (table : List Byte) : List HeldReq → List Nat → State → State
  | [], _, s => s
  | r :: rest, stuck, s =>
    let (looks, s) := s.lookSegments p sl r.desc.segs
    match presentSegments looks with
    | none => (if looks.contains .failed then s.endHeld p r St.SRV_SEGMENT_FAILED else s).considerHeld p sl table rest stuck
    | some segs =>
      if stuck.contains r.desc.cls || s.walkWaits p { r.desc with segs := segs } then s.considerHeld p sl table rest stuck
      else
        match s.freeRecord p, s.freeKitty p sl with
        | some i, some k =>
          if s.effectiveSeqs sl table ≤ (s.running p sl).length then s.considerHeld p sl table rest stuck
          else
            let hold := s.holdMaxMs p sl r.desc.cls
            let inTime := decide (s.predicted p sl r.desc ≤ s.ttftMs p sl r.desc.cls * 1000)
            let forced := hold != 0 && decide (r.fetchTs + hold * 1000000 < s.now)
            if inTime || forced then (s.admitRequest p r segs i k).considerHeld p sl table rest stuck
            else s.considerHeld p sl table rest (r.desc.cls :: stuck)
        | _, _ => s.considerHeld p sl table rest stuck

/-- A HELD request whose DEADLINE_MS has passed since its fetch (R158). -/
def State.deadlinePassed (s : State) (r : HeldReq) : Bool :=
  r.desc.deadlineMs != 0 && decide (r.fetchTs + r.desc.deadlineMs * 1000000 ≤ s.now)

/-- Step 9 of R164 for HELD requests; while the template table cannot be read (R131) none is admitted. -/
def State.admitHeld (p sl : Nat) (table : Option (List Byte)) (s : State) : State :=
  let s := s.overList ((s.heldOf p sl).filter s.deadlinePassed) (fun r t =>
    (t.endHeld p r St.SRV_DEADLINE_MISSED).count (Reg.CLASS_DEADLINE p r.desc.cls))
  let l := s.heldOf p sl
  match table with
  | some b => s.considerHeld p sl b ((List.range 8).flatMap (fun k => l.filter (fun r => r.desc.cls == k))) []
  | none => s

/-! ### Submission of a trick (R149, R159) -/

/-- The sequence number of the next entry of the serving queue: entries not yet accepted count. -/
def State.servingSeq (s : State) (p : Nat) : Nat :=
  let d := s.partDealer p
  let inHand := match d.fetched with
    | some e => (match e.source with | .serving _ => 1 | _ => 0)
    | none => 0
  (d.servingExpect + d.servingQueue.length + inHand) % 2 ^ 32

/-- Submit a copy of a template to the serving queue (R159). -/
def State.submitCopy (p sl trick : Nat) (template : List Byte) (s : State) : State :=
  let seq := s.servingSeq p
  let d := s.partDealer p
  let e : SubmissionEntry := ⟨.serving sl, 0, template.length, seq, false, false, 0, preparePacket template trick seq⟩
  (s.putPartDealer p { d with servingQueue := d.servingQueue ++ [e] }).wake

/-- A flit of a transfer to a member has not yet left on a link: it waits for one, or its receiver has not acknowledged it (R334). -/
def State.transferOut (s : State) (p j id : Nat) : Bool :=
  let mine := fun (f : Flit) => (f.type == 2 || f.type == 3) && f.src == s.groupMember p && f.dst == j && f.detail % 2 ^ 16 == id
  s.ndx.outbox.any (fun e => e.1 == p && mine e.2.2)
    || ((List.range 16).filter (fun l => s.linkOwner l == some p)).any (fun l =>
        (s.linkRun l).backlog.any mine || (s.linkRun l).replay.any (fun e => mine e.2))

/-- Send a plan to every follower (R162, R336). -/
def State.sendPlan (p : Nat) (t : TrickPlan) (s : State) : State :=
  s.overList (s.otherMembers p) (fun j u => u.overList (planBodies t) (fun b v => v.sendControl p j 1 b))

/-- A trick whose embedding rows have all left and been acknowledged is planned on every follower, and submitted on the lead: no member submits it
before the transfers to every member are complete (R149, R162). -/
def State.submitReady (p : Nat) (s : State) : State :=
  s.overList ((List.range 8).filter (fun sl => s.slotOwned sl && s.slotOwner sl == p)) (fun sl t =>
    match (t.slotServing sl).toSubmit with
    | some k =>
      if k.transfers.any (fun e => t.transferOut p e.1 e.2) then t
      else ((t.updSlot sl (fun x => { x with toSubmit := none })).sendPlan p k.plan).submitCopy p sl k.num k.template
    | none => t)

/-! ### Hand records as bytes (R154, R191) -/

/-- The 512 bytes of a hand record: PT_HEAD and PT_TAIL name page-table blocks as page references do (R190). -/
def handBytes (h : HandRecord) (state : Nat) : List Byte :=
  leBytes 8 (state + h.desc.slot * 2 ^ 3 + h.desc.cls * 2 ^ 6 + h.desc.variant * 2 ^ 9 + h.generation % 2 ^ 32 * 2 ^ 32)
    ++ leBytes 8 h.desc.hostTag
    ++ leBytes 8 h.submitTs ++ leBytes 8 h.admitTs ++ leBytes 8 h.firstTs ++ leBytes 8 h.lastTs
    ++ leBytes 8 (h.desc.promptLen + h.promptDone * 2 ^ 32)
    ++ leBytes 8 (h.generated + h.desc.maxNew * 2 ^ 32)
    ++ leBytes 8 (h.position + h.lastToken % 2 ^ 32 * 2 ^ 32)
    ++ leBytes 8 (h.tbtLast + h.tbtMax * 2 ^ 32)
    ++ leBytes 8 (h.desc.temperature + h.desc.topK * 2 ^ 16 + h.desc.topP * 2 ^ 32)
    ++ leBytes 8 h.desc.seed
    ++ leBytes 8 (h.desc.stop0 + h.desc.stop1 * 2 ^ 32)
    ++ leBytes 4 h.drafts.length ++ (List.range 7).flatMap (fun i => leBytes 4 (h.drafts.getD i 0))
    ++ leBytes 8 (h.desc.promptAddr + boolNat h.desc.hostSpace * 2 ^ 63)
    ++ leBytes 8 (h.desc.mmAddr + h.desc.segs.length * 2 ^ 48)
    ++ leBytes 8 h.parkHandle
    ++ leBytes 4 h.tbtOver ++ leBytes 92 0
    ++ leBytes 8 (h.log2p + h.kitty % 2 ^ 16 * 2 ^ 16 + boolNat h.flushPending * 2 ^ 32 + h.tentative % 2 ^ 12 * 2 ^ 33)
    ++ leBytes 8 (h.startPos + h.reservedRows % 2 ^ 16 * 2 ^ 32)
    ++ (List.range 4).flatMap (fun d => match h.tables.find? (fun t => t.die == d) with
        | some t =>
          let ref := fun (o : Option Nat) => (o.map (pageRef d)).getD nullRef
          leBytes 8 (ref t.blocks.head? + ref t.blocks.getLast? * 2 ^ 32) ++ leBytes 8 t.entries.length
        | none => leBytes 8 (nullRef + nullRef * 2 ^ 32) ++ leBytes 8 0)
    ++ leBytes 176 0

/-- STATE of a hand record (R154); a resumed request whose image is being read shows the state it enters. -/
def handState (h : HandRecord) : Nat :=
  match h.phase with
  | .prefill => 1
  | .decode => 2
  | .parking => 3
  | .resuming => if h.promptDone < h.desc.promptLen then 1 else 2
  | .ended _ => 0

/-- Global address of a partition's hand records, at an unstated place in the controller reserve of its lead C-die (R121, R154). -/
def State.handBase (s : State) (p : Nat) : Option Nat :=
  (s.partDies p).head?.map (fun d =>
    d * hbmRegion + s.reserveStart d + Config.handOffset p % (max 1 ((s.reserveBytes d - 512 * s.handShare p) / 512)) * 512)

/-- What a read of global space from an address shows where other bytes lie from `lo` on. -/
def overlay (a lo : Nat) (r b : List Byte) : List Byte :=
  if lo + r.length ≤ a ∨ a + b.length ≤ lo then b
  else b.zipIdx.map (fun e => if inRange lo r.length (a + e.2) then r.getD (a + e.2 - lo) e.1 else e.1)

/-- What a read of global space shows of a partition's hand records (R124, R154): every live one, and word 0 of each free one that was ever
allocated, with STATE free and its GENERATION. -/
def State.showHands (s : State) (a : Nat) (b : List Byte) : List Byte :=
  (List.range 4).foldl (fun b p =>
    match s.handBase p with
    | none => b
    | some base =>
      let x := s.partServing p
      let free := x.generations.filter (fun e => !x.hrs.any (fun h => h.index == e.1))
      let b := free.foldl (fun b e => overlay a (base + 512 * e.1) (leBytes 8 (e.2 % 2 ^ 32 * 2 ^ 32)) b) b
      x.hrs.foldl (fun b h => overlay a (base + 512 * h.index) (handBytes h (handState h)) b) b) b

end Sys2Proof.Machine
end

