-- ==== Sys2Proof/Machine/Links.lean ====
section
/-! DEFINITION. Machine/Links.lean: training Ndoyx links (R324 to R327), the state of a group (R331), the end of collective
instances (R341, R343), and receiving flits and control messages (R330, R333 to R335, R345). -/
namespace Sys2Proof.Machine

/-! ### The end of an instance (R341, R343) -/

def State.dropCollective (c : Collective) (s : State) : State :=
  { s with ndx := { s.ndx with collectives := s.ndx.collectives.filter (fun x => !(x.uid == c.uid && x.tid == c.tid)) } }

def State.updCollective (uid tid : Nat) (f : Collective → Collective) (s : State) : State :=
  { s with ndx := { s.ndx with collectives := s.ndx.collectives.map (fun x => if x.uid = uid ∧ x.tid = tid then f x else x) } }

/-- Instances of a partition that run at once (R341). -/
def collectivePlaces : Nat := 64

/-- The waiting instance issued first takes a place that has become free (R341). -/
def State.placeNext (p : Nat) (s : State) : State :=
  let mine := s.ndx.collectives.filter (fun c => c.part == p)
  if collectivePlaces ≤ (mine.filter (fun c => c.placed)).length then s
  else
    match mine.find? (fun c => !c.placed) with
    | some c => s.updCollective c.uid c.tid (fun x => { x with placed := true })
    | none => s

/-- An instance fails: its task ends with the status word, and its place is free (R343). -/
def State.failCollective (c : Collective) (st : Nat) (s : State) : State :=
  let s := (s.dropCollective c).count (Reg.GROUP_COUNTER c.part 7)
  let s := { s with ndx := { s.ndx with ended := s.ndx.ended ++ [(c.part, (c.trick, c.collId))] } }
  let s := if stBlock st = 9 then s.post st else s
  (s.failTask c.uid c.tid st).placeNext c.part

def State.failCollectives (p st : Nat) (sel : Collective → Bool) (s : State) : State :=
  s.overList (s.ndx.collectives.filter (fun c => c.part == p && sel c)) (fun c t => t.failCollective c st)

/-- The members that an instance needs. -/
def State.needs (s : State) (c : Collective) (j : Nat) : Bool :=
  match c.op with
  | .send | .recv => j == c.peer
  | _ => (s.otherMembers c.part).contains j

/-! ### The state of a group (R331, R346) -/

def State.linksOf (s : State) (p : Nat) : List Nat := (List.range 16).filter (fun l => s.linkOwner l == some p)

/-- A link that a route can use: up, or retraining (R327). -/
def State.linkUsable (s : State) (l : Nat) : Bool := s.linkState l == 3 || s.linkState l == 4

/-- The relay towards a member has been fenced, so that it forwards no more (R331, R339). -/
def State.relayFenced (s : State) (p j : Nat) : Bool :=
  s.nextHop p j != j && bitOf (s.rdF (Reg.FENCE_MASK p) Fld.FENCE_MASK_MASK) (s.nextHop p j)

/-- A REQUIRED link is down, or a member has no route whose links are up and whose relay forwards (R331). -/
def State.degraded (s : State) (p : Nat) : Bool :=
  let mine := s.linksOf p
  mine.any (fun l => s.rdB (Reg.LINK_PEER l) Fld.LINK_PEER_REQUIRED && !s.linkUsable l)
    || (s.otherMembers p).any (fun j => s.relayFenced p j || !mine.any (fun l => s.linkUsable l && s.linkPeer l == s.nextHop p j))

/-- The partition leaves its group's work: the group's requests end and the partition stops (R15, R166, R331, R346). -/
def State.leaveGroup (p code st : Nat) (s : State) : State :=
  ((s.wrF (Reg.GROUP_STATE p) Fld.GROUP_STATE_STATE code).loseGroup p).postPartFatal p st

/-- Silence of the other members is measured from here on (R339). -/
def State.hearFrom (p : Nat) (s : State) : State :=
  s.overList (s.otherMembers p) (fun j t => t.putPeer p j { t.peerAt p j with lastHeard := t.now })

/-- Evaluate a group at stage 6, after a partition reset, when a link has gone down, or when a relay is fenced (R331): it becomes
ACTIVE or DEGRADED_TOPOLOGY. -/
def State.evaluateGroup (p : Nat) (s : State) : State :=
  if 2 ≤ s.groupState p then s
  else
    let s := if s.groupState p = 0 then s.hearFrom p else s
    if s.degraded p then
      (s.failCollectives p St.NDX_GROUP_NOT_ACTIVE (fun _ => true)).leaveGroup p 2 St.NDX_DEGRADED_TOPOLOGY
    else s.wrF (Reg.GROUP_STATE p) Fld.GROUP_STATE_STATE 1

/-! ### Link training (R324 to R327) -/

/-- BW of a rate code and a width code (R324): 375 units per lane at 50 Gb/s. -/
def linkBw (rate width : Nat) : Nat :=
  if rate = 0 ∨ width = 0 then 0 else 375 * 2 ^ (rate - 1) * 2 ^ (width - 1)

/-- Word of a link's entry in the topology record (R328). -/
def State.topoLink (s : State) (p l : Nat) : Option Nat :=
  (List.range (bitsAt (s.rdN (Reg.TOPO_COPY p 1)) 16 5)).find? (fun i => bitsAt (s.rdN (Reg.TOPO_COPY p (5 + i))) 0 4 == l)

/-- Set a link's BW in LINK_PEER and in the copy of the topology record (R326); a change counts in TOPO_CHANGES (R327). -/
def State.setBw (l bw : Nat) (s : State) : State :=
  let old := s.rdF (Reg.LINK_PEER l) Fld.LINK_PEER_BW
  let s := s.wrF (Reg.LINK_PEER l) Fld.LINK_PEER_BW bw
  match s.linkOwner l with
  | none => s
  | some p =>
    let s := match s.topoLink p l with
      | some i => s.wr (Reg.TOPO_COPY p (5 + i)) (putField ⟨31, 16⟩ bw (s.rd (Reg.TOPO_COPY p (5 + i))))
      | none => s
    if old = bw then s else s.count (Reg.GROUP_COUNTER p 8)

/-- Lanes in use for a mask of passing lanes (R325): all four, lanes 0 and 1, lanes 2 and 3, or the lowest; width code and mask. -/
def laneChoice (mask : Nat) : Nat × Nat :=
  let m := mask % 16
  if m = 15 then (3, 15)
  else if m % 4 = 3 then (2, 3)
  else if m / 4 = 3 then (2, 12)
  else match (List.range 4).find? (bitOf m) with
    | some i => (1, 2 ^ i)
    | none => (0, 0)

/-- Lanes of a width no wider than the own result: the lowest that stay in use. -/
def narrowLanes (width lanes : Nat) : Nat :=
  let on := (List.range 4).filter (bitOf lanes)
  (on.take (2 ^ (width - 1))).foldl (fun a i => a + 2 ^ i) 0

/-- The result of one attempt from a rate on downward: rate code, width code, lanes. -/
def attemptFrom : Nat → List Nat → Option (Nat × (Nat × Nat))
  | 0, _ => none
  | _ + 1, [] => none
  | r + 1, m :: rest =>
    let c := laneChoice m
    if c.1 = 0 then attemptFrom r rest else some (r + 1, c)

/-- Both ends settle on the lower of their results (R325). -/
def settle (maxRate maxWidth : Nat) (a : Attempt) : Option (Nat × (Nat × Nat)) :=
  match attemptFrom maxRate a.masks, a.peer with
  | some (r, (w, lanes)), some (pr, pw) =>
    if pr = 0 ∨ pw = 0 then none
    else
      let w' := min (min w pw) maxWidth
      some (min r pr, (w', if w' = w then lanes else narrowLanes w' lanes))
  | _, _ => none

/-- Attempts in order, at most three (R325): how many were made, and the first result. -/
def firstResult (maxRate maxWidth : Nat) : Nat → List Attempt → Nat × Option (Nat × (Nat × Nat))
  | 0, _ => (0, none)
  | _ + 1, [] => (0, none)
  | n + 1, a :: rest =>
    match settle maxRate maxWidth a with
    | some r => (1, some r)
    | none => let x := firstResult maxRate maxWidth n rest; (x.1 + 1, x.2)

/-- Flits that a link leaves unacknowledged move to the peer's other links, or wait (R327). -/
def State.moveFlits (l : Nat) (s : State) : State :=
  let x := s.linkRun l
  let fs := x.replay.map (fun e => e.2) ++ x.backlog
  let s := s.putLink l { x with replay := [], backlog := [], control := [], relay := [], replays := [] }
  match s.linkOwner l with
  | none => s
  | some p => (((s.restripe p (s.linkPeer l)).waitFlits p (s.linkPeer l) fs).flushWaiting p (s.linkPeer l))

/-- A link is up at a rate and width (R324 to R327): sequence numbers start at 0, and what waited for it goes out. -/
def State.linkTrained (l rate width lanes : Nat) (narrow : Bool) (s : State) : State :=
  let off := Reg.LINK_STATE l
  let s := (((s.wrF off Fld.LINK_STATE_STATE 3).wrF off Fld.LINK_STATE_RATE rate).wrF off Fld.LINK_STATE_WIDTH width).wrF off
    Fld.LINK_STATE_LANES lanes
  let s := (s.wrF off Fld.LINK_STATE_CAUSE 0).setBw l (linkBw rate width)
  let x := s.linkRun l
  let s := s.putLink l { x with txSeq := 0, rxSeq := 0, tries := 0 }
  let s := s.putBit Reg.DECK_LINKS l true
  let s := if narrow then (s.ledgerAdd (0x5000 + l) 4).postAt (0x5000 + l) St.NDX_LINK_NARROW else s
  match s.linkOwner l with
  | some p => (s.restripe p (s.linkPeer l)).flushWaiting p (s.linkPeer l)
  | none => s

/-- A link goes down (R325, R327, R33). While the module runs it is a fold (R394, R396), and its group is evaluated (R331). -/
def State.linkDown (l cause : Nat) (s : State) : State :=
  let off := Reg.LINK_STATE l
  let s := (((s.wrF off Fld.LINK_STATE_STATE 5).wrF off Fld.LINK_STATE_RATE 0).wrF off Fld.LINK_STATE_WIDTH 0).wrF off
    Fld.LINK_STATE_LANES 0
  let s := (s.wrF off Fld.LINK_STATE_CAUSE cause).setBw l 0
  let s := ((s.ledgerAdd (0x5000 + l) 5).postAt (0x5000 + l) St.NDX_LINK_DOWN).moveFlits l
  let was := bitOf (s.rdN Reg.DECK_LINKS) l
  let s := s.putBit Reg.DECK_LINKS l false
  let s := if s.ready && was then
      let s := (s.ledgerRecord (0x5000 + l) 0 3 0 true).bumpEpoch.count (Reg.RST_COUNTER 4)
      s.postAt (0x5000 + l) St.RST_FOLDED_LINK
    else s
  match s.linkOwner l with
  | some p => if s.groupState p = 1 then s.evaluateGroup p else s
  | none => s

/-- Attempts that a link makes, at most three in all (R325, R327): the first that settles trains it, the third that fails takes it
down with the cause. -/
def State.attempt (l maxRate maxWidth narrowRate cause : Nat) (as : List Attempt) (s : State) : State :=
  let before := (s.linkRun l).tries
  let r := firstResult maxRate maxWidth (3 - before) as
  let s := (s.count (Reg.LINK_ATTEMPTS l) r.1).ledgerAdd (0x5000 + l) 3 r.1
  match r.2 with
  | some (rate, w, lanes) => s.linkTrained l rate w lanes (decide (w < maxWidth ∨ rate < narrowRate))
  | none =>
    if 3 ≤ before + r.1 then s.linkDown l cause
    else s.putLink l { s.linkRun l with tries := before + r.1 }

/-- Training attempts of a link that waits or trains (R325). -/
def State.trainLink (l : Nat) (as : List Attempt) (s : State) : State :=
  let maxRate := s.rdF (Reg.LINK_PEER l) Fld.LINK_PEER_MAX_RATE
  (s.wrF (Reg.LINK_STATE l) Fld.LINK_STATE_STATE 2).attempt l maxRate 3 maxRate 2 as

/-- A running link retrains when it loses block lock, or has made more than 1,000 replays within 1 ms (R327). -/
def State.mustRetrain (s : State) (l : Nat) (lockLost : Bool) : Bool :=
  lockLost || decide (1000 < (((s.linkRun l).replays.filter (fun e => decide (s.now < e.1 + 1000000))).map (fun e => e.2)).sum)

/-- LINK_RETRAIN (R327): a running link retrains, first at the held rate and width, then by attempts that never rise above them. -/
def execLinkRetrain (link : Nat) (r : RetrainEvent) (s : State) : Out :=
  if !((s.linkState link == 3 && s.mustRetrain link r.lockLost) || s.linkState link == 4) || 16 ≤ link then .next s
  else
    let rate := s.rdF (Reg.LINK_STATE link) Fld.LINK_STATE_RATE
    let width := s.rdF (Reg.LINK_STATE link) Fld.LINK_STATE_WIDTH
    let lanes := s.rdF (Reg.LINK_STATE link) Fld.LINK_STATE_LANES
    let s := if s.linkState link = 3 then
        (((s.count (Reg.LINK_RETRAINS link)).ledgerAdd (0x5000 + link) 2).wrF (Reg.LINK_STATE link) Fld.LINK_STATE_STATE 4).moveFlits link
      else s
    match r.course with
    | .begins => .next s
    | .held => .next (s.linkTrained link rate width lanes false)
    | .attempts as => .next (s.attempt link rate width rate 3 as)

/-- LINK_DOMAIN_FAILURE (R33): the power domain of an assigned link fails. -/
def execLinkDomainFailure (link : Nat) (s : State) : Out :=
  .next (if link < 16 ∧ (s.linkOwner link).isSome ∧ 1 ≤ s.linkState link ∧ s.linkState link ≤ 4 then s.linkDown link 4 else s)

/-- TRANSIT_DIE_FABRIC_FAILURE (R25): on an X1 module the fabric of a die that carries another die's traffic fails. -/
def execTransitDieFabricFailure (die : Nat) (s : State) : Out :=
  let fitted := fun d => bitOf (s.rdN Reg.DECK_DIES) d
  let route := fun d alt => if !fitted d then [] else if bitOf (s.rdN Reg.DECK_TALON) alt then (if d = 1 then [3, 2] else [1, 0])
    else (if d = 1 then [0] else [2])
  .next (if !s.fuses.x2 ∧ s.ready ∧ (route 1 16 ++ route 3 17).contains die then s.postFatal St.MGT_TRANSIT_FAILED else s)

/-! ### Control messages that arrive (R332, R333, R336 to R338) -/

/-- A trick plan's body is as R336 lays it out. -/
def planBodyOk (b : List Byte) : Bool :=
  let n := fun i => leAt b (8 + 2 * i) 2
  let fixed := 32 + 24 * n 0 + 4 * n 1 + 4 * n 2 + 16 * n 3 + 16 * n 4
  let rec walk : Nat → Nat → Bool
    | 0, off => off == b.length
    | k + 1, off =>
      let op := leAt b off 1
      let size := 16 + (if op = 1 then 64 else if op = 4 ∨ op = 6 then 8 else 0)
      decide (off + 16 ≤ b.length) && decide (1 ≤ op ∧ op ≤ 7) && leAt b (off + 13) 3 == 0
        && (op = 1 ∨ op = 2 ∨ leAt b (off + 8) 2 = 0xFFFF) && walk k (off + size)
  decide (32 ≤ b.length) && bitsAt (leAt b 6 1) 3 1 == 0 && leAt b 24 8 == 0 && decide (leAt b 7 1 % 16 ≤ leAt b 7 1 / 16)
    && decide (fixed ≤ b.length) && walk (n 5) fixed

def reportBodyOk (b : List Byte) : Bool :=
  decide (16 ≤ b.length) && leAt b 7 1 == 0 && leAt b 14 2 == 0 && decide (leAt b 6 1 < 8)
    && b.length == 16 + 4 * (leAt b 10 2 + leAt b 12 2)

def prefixBodyOk (b : List Byte) : Bool :=
  decide (16 ≤ b.length) && leAt b 10 6 == 0 && b.length == 16 + 4 * leAt b 8 2
    && (List.range (leAt b 8 2)).all (fun i => leAt b (19 + 4 * i) 1 == 0)

/-- A body keeps R336 to R338 for its TYPE. -/
def bodyOk (type : Nat) (b : List Byte) : Bool :=
  match type with
  | 1 => planBodyOk b
  | 2 => reportBodyOk b
  | 3 => prefixBodyOk b
  | 4 | 5 => b.isEmpty
  | 6 => b.length == 8
  | _ => false

def State.toInbox (p src type seq : Nat) (body : List Byte) (s : State) : State :=
  { s with ndx := { s.ndx with inbox := s.ndx.inbox ++ [⟨p, src, type, seq, body⟩] } }

/-- A message's header names the members, group and epoch that its flit's header names (R332, R334). -/
def headerMatches (f : Flit) (m : List Byte) : Bool :=
  leAt m 2 1 == f.src && leAt m 3 1 == f.dst && leAt m 4 2 == f.group && leAt m 8 4 == f.epoch

/-- A whole control message has arrived at its receiver (R333); its header says what its last flit's does (log 120). -/
def State.receiveMessage (p : Nat) (f : Flit) (m : List Byte) (s : State) : State :=
  let type := leAt m 0 2
  let src := f.src
  let len := leAt m 12 4
  let seq := leAt m 16 8
  let body := (m.drop 32).take len
  let good := decide (len ≤ 65536 ∧ 32 + len ≤ m.length) && leAt m 28 4 == crc32cTagged seq (m.take 28 ++ leBytes 4 0 ++ body)
    && leAt m 6 2 == 0 && leAt m 24 4 == 0 && headerMatches f m && bodyOk type body
  if !good then s.count (Reg.GROUP_COUNTER p 2)
  else if type = 5 ∨ type = 6 then s.toInbox p src type seq body
  else
    let x := s.peerAt p src
    if seq = x.rxSeq + 1 then ((s.putPeer p src { x with rxSeq := seq }).toInbox p src type seq body).sendAck p src seq
    else if seq ≤ x.rxSeq then s.sendAck p src seq
    else s.count (Reg.GROUP_COUNTER p 3)

/-! ### Flits that arrive (R330, R334, R335, R345) -/

/-- Replay from a link sequence number (R323, R334). -/
def State.replayFrom (l seq : Nat) (s : State) : State :=
  let x := s.linkRun l
  let again := (x.replay.dropWhile (fun e => e.1 != seq % 2 ^ 16)).filter (fun e => s.maySend l e.2)
  let recent := x.replays.filter (fun e => decide (s.now < e.1 + 1000000))
  let s := s.putLink l { x with replays := recent ++ [(s.now, again.length)] }
  (s.overList again (fun e t => t.emit (.flit l e.1 e.2))).count (Reg.LINK_REPLAYS l) again.length

/-- Flits up to an acknowledged LSEQ leave the replay buffer; flits that waited take their room (R334). -/
def State.linkAcked (l seq : Nat) (s : State) : State :=
  let x := s.linkRun l
  if !x.replay.any (fun e => e.1 == seq % 2 ^ 16) then s
  else
    let s := s.putLink l { x with replay := (x.replay.dropWhile (fun e => e.1 != seq % 2 ^ 16)).drop 1, backlog := [] }
    s.overList x.backlog (fun f t => t.sendFlit l f)

/-- A FENCED notice on the arrival link, at most one per link per 10 ms (R345); an ISOLATED member sends none (R346). -/
def State.sendNotice (p l j : Nat) (s : State) : State :=
  let x := s.linkRun l
  let due := match x.noticeAt with
    | some t => decide (t + 10000000 ≤ s.now)
    | none => true
  if !due || s.groupIsolated p then s
  else
    let s := (s.putLink l { x with noticeAt := some s.now }).count (Reg.GROUP_COUNTER p 5)
    s.overList (s.messageFlits p j 5 0 []) (fun f t => t.sendFlit l f)

/-- A transfer header and its data (R335). -/
def parseTransfer (src id : Nat) (b : List Byte) : DataTransfer :=
  let n := leAt b 28 4
  ⟨src, leAt b 0 1, bitOf (leAt b 1 1) 0, bitOf (leAt b 1 1) 1, bitsAt (leAt b 2 1) 0 3, bitsAt (leAt b 2 1) 4 2, leAt b 3 1, leAt b 4 6,
    leAt b 10 2, leAt b 12 4, leAt b 16 4, leAt b 20 8, leAt b 32 1, bitsAt (leAt b 33 1) 0 3, sliceBytes b 64 n, id⟩

/-- An OPEN or DATA flit joins its transfer; a whole transfer waits for the engine (R335). -/
def State.receiveData (p : Nat) (f : Flit) (s : State) : State :=
  let id := f.detail % 2 ^ 16
  let idx := f.detail / 2 ^ 16 % 2 ^ 16
  let mine := fun (o : OpenTransfer) => o.part == p && o.src == f.src && o.id == id
  let o := (s.ndx.opens.find? mine).getD ⟨p, f.src, id, [], none⟩
  let o := { o with flits := mapSet idx f.payload o.flits, last := if bitOf f.flags 1 then some idx else o.last }
  let others := s.ndx.opens.filter (fun x => !mine x)
  match o.last with
  | some n =>
    if o.flits.length = n + 1 then
      { s with ndx := { s.ndx with
        opens := others, arrived := s.ndx.arrived ++ [(p, parseTransfer f.src id (o.flits.flatMap (fun e => e.2)))] } }
    else { s with ndx := { s.ndx with opens := others ++ [o] } }
  | none => { s with ndx := { s.ndx with opens := others ++ [o] } }

/-- A CONTROL flit joins the message that its link carries; LAST completes it (R335). -/
def State.receiveControl (p l : Nat) (f : Flit) (s : State) : State :=
  let x := s.linkRun l
  let whole := (if bitOf f.flags 0 then [] else x.control) ++ f.payload
  if bitOf f.flags 1 then (s.putLink l { x with control := [] }).receiveMessage p f whole
  else s.putLink l { x with control := whole }

/-- The link of a forwarded transfer's present unit, while it is up and the flit is of that unit (R330). -/
def State.routeLink (s : State) (p : Nat) (f : Flit) (r : RelayRoute) : Option Nat :=
  if s.linkUp r.link && s.linkOwner r.link == some p && r.unit == flitUnit f then some r.link else none

/-- Forward a flit of a data transfer: its units of 4 KiB share the links to the destination (R330). -/
def State.relayData (p : Nat) (f : Flit) (s : State) : State :=
  let id := f.detail % 2 ^ 16
  let mine := fun (r : RelayRoute) => r.part == p && r.src == f.src && r.dst == f.dst && r.id == id
  let old := s.ndx.routes.find? mine
  let keep := fun (r : List RelayRoute) (t : State) =>
    { t with ndx := { t.ndx with routes := t.ndx.routes.filter (fun r => !mine r) ++ (if bitOf f.flags 1 then [] else r) } }
  match old.bind (s.routeLink p f) with
  | some l => (keep [⟨p, f.src, f.dst, id, l, flitUnit f⟩] s).sendOn l [f]
  | none =>
    match s.shareLink p f.dst with
    | (some l, s) => (keep [⟨p, f.src, f.dst, id, l, flitUnit f⟩] s).sendOn l [f]
    | (none, s) => (keep [] s).waitFlits p f.dst [f]

/-- Forward a flit of a control message: the message goes on whole, so that no other comes between its flits (R330, R335). -/
def State.relayControl (p l : Nat) (f : Flit) (s : State) : State :=
  let fs := (if bitOf f.flags 0 then [] else (s.linkRun l).relay) ++ [f]
  if bitOf f.flags 1 then (s.putLink l { s.linkRun l with relay := [] }).sendVia p f.dst fs
  else s.putLink l { s.linkRun l with relay := fs }

/-- Deliver a flit to this member, or forward it towards another as a relay (R330). -/
def State.deliver (p l : Nat) (f : Flit) (s : State) : State :=
  if f.dst = s.groupMember p then
    let s := s.putPeer p f.src { s.peerAt p f.src with lastHeard := s.now }
    if f.type = 1 then
      -- heartbeats and ACKs do not leave DORMANT (R354)
      let quiet := bitOf f.flags 0 && (leAt f.payload 0 2 == 4 || leAt f.payload 0 2 == 6)
      (if quiet then s else s.wake).receiveControl p l f
    else s.wake.receiveData p f
  else if f.dst < s.groupSize p ∧ s.via p f.dst = s.groupMember p then
    if f.type = 1 then s.relayControl p l f else s.relayData p f
  else s.count (Reg.LINK_FOREIGN_DROPPED l)

/-- The table of R345. -/
def State.checkFlit (p l : Nat) (f : Flit) (s : State) : State :=
  let notice := f.type == 1 && bitOf f.flags 0 && leAt f.payload 0 2 == 5
  if notice && f.group == s.groupId p && f.dst == s.groupMember p then s.deliver p l f
  else if f.group ≠ s.groupId p then (s.count (Reg.LINK_FOREIGN_DROPPED l)).post St.NDX_STALE_EPOCH_DROPPED
  else if f.epoch < s.groupEpoch p ∨ bitOf (s.rdF (Reg.FENCE_MASK p) Fld.FENCE_MASK_MASK) f.src then
    ((s.count (Reg.GROUP_COUNTER p 0)).post St.NDX_STALE_EPOCH_DROPPED).sendNotice p l f.src
  else if s.groupEpoch p < f.epoch then (s.count (Reg.GROUP_COUNTER p 1)).post St.NDX_STALE_EPOCH_DROPPED
  else s.deliver p l f

/-- A LINK_ACK or LINK_NAK flit back to the sender: no payload, and the GROUP_ID and EPOCH of the link's owner (R334); an
ISOLATED member sends no LINK_NAK (R346). -/
def State.linkReply (type l p seq : Nat) (s : State) : State :=
  if type = 5 ∧ s.groupIsolated p then s
  else s.emit (.linkFlit l ⟨type, 0, s.groupMember p, s.linkPeer l, s.groupId p, s.groupEpoch p, seq % 2 ^ 16, []⟩)

/-- Data of a partition held for instances not yet issued: at most 64 MiB (R335). -/
def earlyLimit : Nat := 0x4000000

/-- Whether a transfer's data would be held for an instance that this member has not issued (R335). -/
def State.isEarly (s : State) (p : Nat) (d : DataTransfer) : Bool :=
  d.kind != 3 && !s.ndx.collectives.any (fun c => c.part == p && c.trick == d.trick && c.collId == d.collId)
    && !s.ndx.ended.contains (p, (d.trick, d.collId))

/-- Bytes of data that a partition's engine holds, or is receiving, for instances not yet issued. -/
def State.earlyHeld (s : State) (p : Nat) : Nat :=
  let opening := s.ndx.opens.filterMap (fun o => if o.part = p then (mapGet 0 o.flits).map (fun b => (parseTransfer o.src o.id b, leAt b 28 4)) else none)
  ((s.ndx.early.filter (fun e => e.1 == p)).map (fun e => e.2.bytes.length)).sum
    + ((s.ndx.arrived.filter (fun e => e.1 == p && s.isEarly p e.2)).map (fun e => e.2.bytes.length)).sum
    + ((opening.filter (fun e => s.isEarly p e.1)).map (fun e => e.2)).sum

/-- An OPEN flit to this member whose data would pass the limit stays with the sender (R335).
DESIGN CHOICE: it is neither acknowledged nor asked for again, so that the sender's replay buffer keeps it. -/
def State.mustWait (s : State) (p : Nat) (f : Flit) : Bool :=
  f.type == 2 && f.dst == s.groupMember p && f.group == s.groupId p && f.epoch == s.groupEpoch p
    && s.isEarly p (parseTransfer f.src 0 f.payload) && decide (earlyLimit < s.earlyHeld p + leAt f.payload 28 4)

/-- FLIT_RECEIVE (R323, R334, R345): a flit arrives on an up link with an LSEQ and an FEC outcome. -/
def execFlitReceive (link lseq : Nat) (fec : FecResult) (f : Flit) (s : State) : Out :=
  match (if s.linkUp link then s.linkOwner link else none) with
  | none => .next s
  | some p =>
    let x := s.linkRun link
    let s := { s with ledger := { s.ledger with codewords := mapSet link (mapGetD 0 link s.ledger.codewords + 1) s.ledger.codewords } }
    if fec = .lost then
      .next (((s.count (Reg.LINK_FEC_UNCORR link)).ledgerAdd (0x5000 + link) 1).linkReply 5 link p x.rxSeq)
    else
      let s := if fec = .corrected then (s.count (Reg.LINK_FEC_CORR link)).ledgerAdd (0x5000 + link) 0 else s
      match f.type with
      | 15 => .next s
      | 4 => .next ((s.linkAcked link (f.detail % 2 ^ 16)).submitReady p)
      | 5 => .next (s.replayFrom link (f.detail % 2 ^ 16))
      | 1 | 2 | 3 =>
        if lseq ≠ x.rxSeq || s.mustWait p f then .next s
        else
          let s := (s.putLink link { x with rxSeq := (x.rxSeq + 1) % 2 ^ 16 }).linkReply 4 link p lseq
          -- a check-value unit sees what the link receives, in link sequence order (R421)
          .next ((if f.type = 1 then s else s.feedPath 5 link f.payload).checkFlit p link f)
      | _ => .next (s.count (Reg.LINK_FOREIGN_DROPPED link))

/-- LINK_NAK_RECEIVE (R334): the sender replays from the named sequence number. -/
def execLinkNakReceive (link seq : Nat) (s : State) : Out := .next (if s.linkUp link then s.replayFrom link seq else s)

/-- LINK_ACK_RECEIVE (R334): acknowledged flits leave the replay buffer. -/
def execLinkAckReceive (link seq : Nat) (s : State) : Out := 
  .next (if s.linkUp link then
      let s := s.linkAcked link seq
      (match s.linkOwner link with
       | some p => s.submitReady p
       | none => s)
    else s)

end Sys2Proof.Machine
end

