-- ==== Sys2Proof/Machine/Serving.lean ====
section
/-! DEFINITION. Machine/Serving.lean: fetching requests (R146 to R153), the trick boundary (R164 to R175, R488), building a trick
(R159 to R162), parking and resumption, and the events of demotions and promotions (R228, R229). -/
namespace Sys2Proof.Machine

/-! ### Samples and verification (R160, R167 to R169) -/

def State.rowTable (s : State) (sl trick : Nat) : Nat := s.rd64 (Reg.ROW_TABLE_BASE_LO sl) % 2 ^ 48 + trick % 2 * 0x100000

/-- What the final task wrote into a row: SAMPLED and the drafts that follow it. -/
structure Sampled where
  index : Nat
  row : TrickRow
  sampled : Nat
  drafts : List Nat
  deriving DecidableEq, Repr

/-- Words 4 to 7 of the SAMPLE rows of a trick, on the lead; none where the row table cannot be read (R131). -/
def State.readSamples (sl trick : Nat) : List (TrickRow × Nat) → State → Option (List Sampled) × State
  | [], s => (some [], s)
  | (r, i) :: t, s =>
    if !r.sample then s.readSamples sl trick t
    else
      match s.globalRead 3 (s.rowTable sl trick + 64 * i + 32) 32 with
      | (some _, _, s) => (none, s)
      | (none, b, s) =>
        match s.readSamples sl trick t with
        | (none, s) => (none, s)
        | (some l, s) => (some (⟨i, r, leAt b 0 4, (List.range 7).map (fun k => leAt b (4 + 4 * k) 4)⟩ :: l), s)

/-- Tokens emitted by the rows of a DECODE request (R168). -/
def emitTokens : List Sampled → List Nat
  | [] => []
  | [a] => [a.sampled]
  | a :: b :: t => if a.sampled = b.row.token then a.sampled :: emitTokens (b :: t) else [a.sampled]

/-- Truncate emitted tokens at the completing one (R154): the tokens that count, and REASON if one completes. -/
def completing (h : HandRecord) (maxPos : Nat) : Nat → Nat → List Nat → List Nat × Option Nat
  | _, _, [] => ([], none)
  | gen, pos, t :: rest =>
    if (t = h.desc.stop0 ∧ h.desc.stop0 ≠ 0xFFFFFFFF) ∨ (t = h.desc.stop1 ∧ h.desc.stop1 ≠ 0xFFFFFFFF) then ([t], some 1)
    else if h.desc.maxNew ≤ gen then ([t], some 0)
    else if maxPos ≤ pos then ([t], some 2)
    else
      let r := completing h maxPos (gen + 1) (pos + 1) rest
      (t :: r.1, r.2)

/-- A request's positions kept by the trick, for its commit. -/
structure Kept where
  hr : Nat
  count : Nat
  wasDecode : Bool
  deriving DecidableEq, Repr

/-- Post a request's tokens and mark it COMPLETED where R154 says so: steps 2 and 3 of R164 for one request. -/
def State.postTokens (p : Nat) (h : HandRecord) (toks : List Nat) (firstPos : Nat) (s : State) : Nat × State :=
  let sl := h.desc.slot
  let (kept, reason) := completing h (s.maxPositions sl) (h.generated + 1) firstPos toks
  let (h', lat, s) := s.tokensArrived p h h.generated
  let words := (List.range 4).map (fun i => kept.getD (2 * i) 0 + kept.getD (2 * i + 1) 0 * 2 ^ 32)
  let s := s.note p h.rq 0x3000 1 (servingEntry 0x3000 1 kept.length h.generated h.desc.hostTag s.now words lat)
  let s := s.putHand p { h' with generated := h.generated + kept.length, lastToken := kept.getLast?.getD h.lastToken }
  (kept.length, match reason with
    | some r => s.endHand p h.index St.SRV_COMPLETED r
    | none => s)

/-- Steps 2 and 3 of R164 for one request of the trick. -/
def State.verifyHand (p sl : Nat) (rows : List TrickRow) (samples : List Sampled) (i : Nat) (s : State) : Option Kept × State :=
  match s.handAt p i with
  | none => (none, s)
  | some h =>
    if !handLive h then (none, s)
    else
      let mine := samples.filter (fun x => x.row.hr == i)
      let own := rows.filter (fun r => r.hr == i)
      let depth := s.rdF (Reg.SLOT_CFG sl) Fld.SLOT_CFG_SPEC_DEPTH
      if h.phase = .decode then
        let toks := emitTokens mine
        let drafts := ((mine[toks.length - 1]?.map (fun x => x.drafts)).getD []).take depth
        let s := s.count (Reg.SPEC_PROPOSED sl) (own.length - 1)
        let s := s.count (Reg.SPEC_ACCEPTED sl) (toks.length - 1)
        let (n, s) := s.postTokens p { h with drafts := drafts } toks (h.startPos + 1)
        let v := (i, (toks.length, own.length - toks.length))
        (some ⟨i, n, true⟩, s.updSlot sl (fun x => { x with news := { x.news with verify := x.news.verify ++ [v] } }))
      else
        let h := { h with promptDone := h.promptDone + own.length }
        match mine with
        | [] => (some ⟨i, own.length, false⟩, s.putHand p h)
        | x :: _ =>
          let h := { h with phase := .decode, drafts := x.drafts.take depth }
          let (_, s) := s.postTokens p h [x.sampled] (h.startPos + own.length)
          (some ⟨i, own.length, false⟩, s)

/-! ### Failure of a trick (R171, R172) -/

/-- Addresses of the MEM error log entries of a failure. -/
def State.loggedAt (s : State) (st ts : Nat) : List Nat :=
  (List.range 64).filterMap (fun i =>
    if s.rdN (Reg.MEM_LOG i 1) / 2 ^ 16 = st ∧ s.rd64 (Reg.MEM_LOG i 2) = ts then
      some (s.rdN (Reg.MEM_LOG i 0) + s.rdN (Reg.MEM_LOG i 1) % 2 ^ 16 * 2 ^ 32)
    else none)

/-- A request's KV pages, with their scales and its page-table blocks, or its kitty entry contain an address (R171, R209). -/
def State.ownsAddress (s : State) (p : Nat) (h : HandRecord) (a : Nat) : Bool :=
  let sl := h.desc.slot
  (s.partDies p).any (fun d =>
    inRange (s.kittyBase sl d + h.kitty * s.kittyEntryBytes sl) (s.kittyEntryBytes sl) a
      || (h.table d).blocks.any (fun o => inRange (s.blockAddr d o) 4096 a)
      || (h.table d).entries.any (fun e =>
        match s.rowAt e.row with
        | some r => r.blocks.any (fun o =>
            inRange (s.blockAddr d o) (4096 * 2 ^ r.order) a
              || (r.format == 1 && inRange (s.rd64 (Reg.SCALE_BASE_LO d) + 256 * o) (256 * 2 ^ r.order) a))
        | none => false))

def memFailure (st : Nat) : Bool :=
  stBlock st == 0xE && (stCode st == 0x21 || stCode st == 0x22 || stCode st == 0x24 || stCode st == 0x25)

/-- Requests of a slot that failures of a member's trick end, each with the MEM status word (R171). -/
def State.namedByFailures (s : State) (p sl : Nat) (fails : List (Nat × Nat)) : List (Nat × Nat) :=
  (fails.filter (fun f => memFailure f.1)).flatMap (fun f =>
    (s.handsOf p sl).filterMap (fun h =>
      if (s.loggedAt f.1 f.2).any (s.ownsAddress p h) then some (h.index, f.1) else none))

/-- A trick whose graph completed: OK, or under an older deck epoch (R90, R106). -/
def trickOk (st : Nat) : Bool := stCode st == 0 || st == St.DEAL_DECK_EPOCH_OLD

/-- Requests with rows in a trick, in row order. -/
def rowHands (rows : List TrickRow) : List Nat :=
  rows.foldl (fun l r => if r.kind = .pad ∨ l.contains r.hr then l else l ++ [r.hr]) []

/-- Roll back the requests of a trick that did not end (R172, R208). -/
def State.rollbackRows (p : Nat) (rows : List TrickRow) (s : State) : State :=
  s.overList (rowHands rows) (fun i t =>
    match t.handAt p i with
    | some h => if handLive h then (let r := t.kvRollback p h; r.2.putHand p r.1) else t
    | none => t)

/-- A resumption fails before the resumed request's first trick: the RESUME ends with RESUME_FAILED, and the request posts nothing (R175). -/
def State.failResume (p sl : Nat) (h : HandRecord) (s : State) : State :=
  let s := s.noteAck p h.parkBy.1 St.SRV_RESUME_FAILED h.parkBy.2
  let s := s.updSlot sl (fun x => { x with news := { x.news with ends := x.news.ends ++ [(h.index, St.SRV_RESUME_FAILED)] } })
  s.updHand p h.index (fun g => { g with phase := .ended false, dropImage := none })

/-- End a request that a member's failures name (R165, R171). -/
def State.endNamed (p sl : Nat) (e : Nat × Nat) (s : State) : State :=
  match s.handAt p e.1 with
  | none => s
  | some h =>
    if e.2 = St.SRV_RESUME_FAILED ∧ s.ackPending p h ∧ handLive h then s.failResume p sl h else s.endHand p e.1 e.2 0xF

/-- A resumed request's first trick has completed: its image goes, and a RESUME in a group has its ACK (R175). -/
def State.firstTrickDone (p i : Nat) (s : State) : State :=
  match s.handAt p i with
  | none => s
  | some h =>
    match h.dropImage with
    | none => s
    | some x =>
      let s := if s.ackPending p h then s.noteAck p h.parkBy.1 0x3000 h.parkBy.2 else s
      (s.updHand p i (fun g => { g with dropImage := none })).dropParked x

/-- Steps 1 to 3 of R164 for a trick: what each request keeps; none where the slot has failed. -/
def State.applyTrick (p sl : Nat) (f : TrickInFlight) (s : State) : Option (List Kept) × State :=
  let (st, fails) := f.graphEnd.getD (0, [])
  let bad := !trickOk st || f.reports.any (fun r => !trickOk r.2.1)
  let named := s.namedByFailures p sl fails ++ f.reports.flatMap (fun r => r.2.2)
  let s := s.overList named (fun e t => t.endNamed p sl e)
  let decodeRows := (f.rows.filter (fun r => r.kind == .decode)).length
  let s := s.updSlot sl (fun x => { x with lastDecode := decodeRows })
  let lost := fun (s : State) =>
    match s.countAbandoned sl f.num with
    | (true, s) => ((none : Option (List Kept)), (s.rollbackRows p f.rows).failSlot p sl St.SRV_SLOT_FAILED)
    | (false, s) => (some [], s.rollbackRows p f.rows)
  if bad then lost s
  else
    match s.readSamples sl f.num f.rows.zipIdx with
    | (none, s) => lost s
    | (some samples, s) =>
      let s := (s.setTrick sl f.num).updSlot sl (fun x => { x with abandonRun := 0 })
      let r := (rowHands f.rows).foldl (fun (acc : List Kept × State) i =>
        let q := acc.2.verifyHand p sl f.rows samples i
        (acc.1 ++ q.1.toList, q.2)) ([], s)
      (some r.1, r.2)

/-! ### Commands at a boundary (R170, R174, R175) -/

/-- Step 4 of R164: one CANCEL. -/
def State.doCancel (p sl : Nat) (c : SlotCommand) (s : State) : State :=
  match (s.heldOf p sl).find? (fun r => r.desc.hostTag == c.target) with
  | some r => (s.endHeld p r St.SRV_CANCELLED).noteAck p c.rq 0x3000 c.hostTag
  | none =>
    let hs := (s.partServing p).hrs.filter (fun h => h.desc.slot == sl && h.desc.hostTag == c.target)
    match hs.find? handLive, hs.find? (fun h => h.phase == .ended true) with
    | some h, _ =>
      if h.phase = .parking then s.noteAck p c.rq St.SRV_TOO_LATE c.hostTag
      else
        let s := if h.phase = .resuming then s.noteAck p h.parkBy.1 St.SRV_RESUME_FAILED h.parkBy.2 else s
        (s.endHand p h.index St.SRV_CANCELLED 0xF).noteAck p c.rq 0x3000 c.hostTag
    | none, some _ => s.noteAck p c.rq St.SRV_TOO_LATE c.hostTag
    | none, none => s.noteAck p c.rq St.SRV_UNKNOWN_REQUEST c.hostTag

/-- Committed positions that a request's kitty holds: the pending run, or the current run so far (R213, R244). -/
def HandRecord.kittyCount (h : HandRecord) : Nat :=
  if h.flushPending then h.runSize (h.position - 1) else h.position % h.runSize h.position

/-- Bytes of a parked image (R244). DESIGN CHOICE (log 89): 8 bytes for each page-table entry. -/
def State.parkBytesOf (s : State) (h : HandRecord) : Nat :=
  let sl := h.desc.slot
  flashPage + 512
    + (h.tables.map (fun t => 8 * t.entries.length + s.slotLayers sl * h.kittyCount * s.kittySlotBytes sl
        + (t.entries.map (fun e => match s.rowAt e.row with | some r => s.rowBytes r | none => 0)).sum)).sum

/-- Step 7 of R164: one PARK (R174, R244). -/
def State.doPark (p sl : Nat) (c : SlotCommand) (s : State) : State :=
  if (s.heldOf p sl).any (fun r => r.desc.hostTag == c.target) then s.noteAck p c.rq St.SRV_NOT_PARKABLE c.hostTag
  else
    match (s.handsOf p sl).find? (fun h => h.desc.hostTag == c.target) with
    | none => s.noteAck p c.rq St.SRV_UNKNOWN_REQUEST c.hostTag
    | some h =>
      if h.phase ≠ .prefill ∧ h.phase ≠ .decode then s.noteAck p c.rq St.SRV_NOT_PARKABLE c.hostTag
      else
        let n := s.parkBytesOf h
        let room := s.talonUp && s.parkRoom p n
          && (s.otherMembers p).all (fun j => decide (n ≤ (s.peerAt p j).parkFreeMiB * 0x100000))
        match (if room then s.place .prefixZone 0 (pagesFor n) else none) with
        | none => s.noteAck p c.rq St.SRV_PARK_NO_SPACE c.hostTag
        | some (frags, s) =>
          let (handle, s) := s.newName p
          let (h', s) := s.leaseHand { h with drafts := [], parkHandle := handle }
          let img : ParkedImage := {
            handle := handle, part := p, complete := false, lost := false, hand := h', imageTag := (s.slotServing sl).imageTag
            groupSize := s.groupSize p, member := s.groupMember p, dies := (s.partDies p).length, layers := s.slotLayers sl
            kvHeads := s.kvHeads sl, headDim := s.headDim sl, bytes := n, body := [], fragments := frags }
          let s := ({ s with talon := { s.talon with parked := s.talon.parked ++ [img] } }).showShare p
          let s := s.putHand p { h' with
            phase := .parking, parkBy := (c.rq, c.hostTag), awaiting := s.groupMember p :: s.otherMembers p, outcome := none }
          s.updSlot sl (fun x => { x with news := { x.news with parks := x.news.parks ++ [(h.index, handle)] } })

/-- A parking that every member has finished ends its request (R174). DESIGN CHOICE (log 176): where one failed, the ACK carries its status. -/
def State.finishParkings (p sl : Nat) (s : State) : State :=
  s.overList ((s.handsOf p sl).filter (fun h => h.phase == .parking && h.awaiting.isEmpty)) (fun h t =>
    let st := h.outcome.getD 0x3000
    if stCode st = 0 then (t.endHand p h.index St.SRV_PARKED 0xF).noteAck p h.parkBy.1 0x3000 h.parkBy.2
    else ((t.dropParked h.parkHandle).endHand p h.index st 0xF).noteAck p h.parkBy.1 st h.parkBy.2)

/-- This member holds the image of a handle, and the image fits the slot (R175). -/
def State.resumeFits (s : State) (p sl handle : Nat) : Bool :=
  match s.parkedAt handle with
  | some i => i.complete && i.part == p && i.imageTag == (s.slotServing sl).imageTag && i.groupSize == s.groupSize p
      && i.member == s.groupMember p && i.dies == (s.partDies p).length && i.layers == s.slotLayers sl
      && i.kvHeads == s.kvHeads sl && i.headDim == s.headDim sl
  | none => false

/-- Step 9 of R164: one RESUME (R175). A slot without a free kitty entry refuses it too (log 177). -/
def State.doResume (p sl : Nat) (c : SlotCommand) (s : State) : State :=
  match (if s.resumeFits p sl c.target then s.parkedAt c.target else none), s.freeRecord p, s.freeKitty p sl with
  | some img, some i, some k =>
    let d := { img.hand.desc with slot := sl, cls := c.cls, stop0 := c.stop0, stop1 := c.stop1 }
    let h := { s.newHand p i k d c.rq img.hand.submitTs with
      phase := .resuming, parkHandle := c.target, parkBy := (c.rq, c.hostTag), awaiting := [s.groupMember p]
      log2p := img.hand.log2p }
    (s.addHand p h).updSlot sl (fun x => { x with news := { x.news with
      starts := x.news.starts ++ [(i, (k, (h.log2p, (0, c.target))))] } })
  | _, _, _ => s.noteAck p c.rq St.SRV_RESUME_FAILED c.hostTag

/-- A request enters PREFILL or DECODE again (R175). In PREFILL the walker reads its prompt once more, for the inserts of R225. -/
def State.enterResumed (p : Nat) (h : HandRecord) (s : State) : State :=
  if h.promptDone < h.desc.promptLen then
    let r := s.walkTokens p h.desc
    r.2.putHand p { h with phase := .prefill, outcome := none, prompt := r.1 }
  else s.putHand p { h with phase := .decode, outcome := none }

/-- A resumption whose image has been read takes effect (R175), once a prompt in host memory can be read again (R319). -/
def State.finishResumes (p sl : Nat) (s : State) : State :=
  let due := (s.handsOf p sl).filter (fun h => h.phase == .resuming && h.awaiting.isEmpty)
  let waits := fun (h : HandRecord) => decide (h.promptDone < h.desc.promptLen) && s.walkWaits p h.desc
  let s := if due.any waits then s.updSlot sl (fun x => { x with event := true }) else s
  s.overList (due.filter (fun h => !waits h)) (fun h t =>
    if stCode (h.outcome.getD 0) = 0 then
      let t := t.enterResumed p h
      if t.ackPending p h then t else t.noteAck p h.parkBy.1 0x3000 h.parkBy.2
    else t.failResume p sl h)

/-! ### Commit (R197, R202, R225) -/

/-- The most recently admitted DECODE request of a slot. -/
def State.lastDecodeHand (s : State) (p sl : Nat) : Option HandRecord :=
  ((s.handsOf p sl).filter (fun h => h.phase == .decode)).foldl (fun best h =>
    match best with
    | none => some h
    | some b => if b.order < h.order then some h else some b) none

/-- Give a request the rows of its commit (R202): rows that the index releases first, then the rows of DECODE requests that end
with KV_EXHAUSTED, most recently admitted first; with none left the request itself ends. -/
def State.extendHand (p sl i : Nat) (full : Bool) : Nat → State → State
  | 0, s => s
  | fuel + 1, s =>
    match s.handAt p i with
    | none => s
    | some h =>
      if !handLive h then s
      else
        match s.kvExtend p full h with
        | some (h, s) => s.putHand p h
        | none =>
          let s := s.countExhaust p
          let s := s.demoteCheck p true
          match s.kvExtend p full h with
          | some (h, s) => s.putHand p h
          | none =>
            let v := ((s.lastDecodeHand p sl).map (fun g => g.index)).getD i
            ((s.endHand p v St.SRV_KV_EXHAUSTED 0xF).retireHand p v).extendHand p sl i full fuel

/-- Step 6 of R164 for one request: commit, and the inserts of a PREFILL request. -/
def State.commitHand (p sl : Nat) (k : Kept) (s : State) : State :=
  match s.handAt p k.hr with
  | none => s
  | some h =>
    if !handLive h then s
    else
      let r := s.kvSettle p k.count k.wasDecode h
      let s := (r.2.1.putHand p r.1).extendHand p sl k.hr r.2.2 ((s.handsOf p sl).length + 1)
      match s.handAt p k.hr with
      | none => s
      | some h =>
        let (h, s) := if k.wasDecode then (h, s) else s.insertNodes p (h.prompt.length / 16) h
        s.putHand p h

/-! ### Building a trick (R159 to R162) -/

/-- Input of a prompt position (R148, R160): a token, or the address of an embedding row; an unreadable source ends the request. -/
def State.promptInput (sl : Nat) (d : ReqDesc) (pos : Nat) (s : State) : Except Nat (Nat × Option Nat) × State :=
  match d.segs.find? (fun g => decide (g.pos ≤ pos ∧ pos < g.pos + g.count)) with
  | some g =>
    if g.embed then
      let n := s.rdF (Reg.SLOT_HIDDEN sl) Fld.SLOT_HIDDEN_HIDDEN * 2
      let a := g.addr + (pos - g.pos) * n
      -- the lead reads the rows that it sends (R149)
      if s.groupSize (s.slotOwner sl) ≤ 1 then (.ok (0, some a), s)
      else
        match s.globalRead 3 a n with
        | (some st, _, s) => (.error st, s)
        | (none, _, s) => (.ok (0, some a), s)
    else
      match s.globalRead 3 (g.addr + 4 * (pos - g.pos)) 4 with
      | (some st, _, s) => (.error st, s)
      | (none, b, s) => (.ok (ofLeBytes b, none), s)
  | none =>
    if d.hostSpace then (.ok (ofLeBytes (s.hostRead (d.promptAddr + 4 * pos) 4), none), s.hostReading)
    else
      match s.globalRead 3 (d.promptAddr + 4 * pos) 4 with
      | (some st, _, s) => (.error st, s)
      | (none, b, s) => (.ok (ofLeBytes b, none), s)

/-- Rows of a prefill chunk: n positions from one on; `final` where the prompt ends with them. -/
def State.chunkRows (sl : Nat) (h : HandRecord) (final : Bool) : Nat → Nat → State → Except Nat (List TrickRow) × State
  | 0, _, s => (.ok [], s)
  | n + 1, pos, s =>
    match s.promptInput sl h.desc pos with
    | (.error st, s) => (.error st, s)
    | (.ok (t, e), s) =>
      match s.chunkRows sl h final n (pos + 1) with
      | (.error st, s) => (.error st, s)
      | (.ok l, s) => (.ok (⟨h.index, .prefill, pos, t, h.desc.variant, e, final && n == 0⟩ :: l), s)

/-- A trick under construction. -/
structure Build where
  rows : List TrickRow
  /-- rows that chunks pad to their size -/
  pads : Nat
  budget : Nat
  deriving DecidableEq, Repr

/-- A DECODE request's decode row and draft rows (R161). -/
def State.addDecode (p sl : Nat) (h : HandRecord) (b : Build) (s : State) : Build × State :=
  let depth := s.rdF (Reg.SLOT_CFG sl) Fld.SLOT_CFG_SPEC_DEPTH
  let d := min depth (min h.drafts.length (min (h.kittyRoom - 1) (min (h.desc.maxNew - h.generated - 1)
    (min (s.maxPositions sl - h.position - 1) b.budget))))
  let drafts := (h.drafts.take d).zipIdx.map (fun e =>
    (⟨h.index, .draft, h.position + 1 + e.2, e.1, h.desc.variant, none, true⟩ : TrickRow))
  let s := s.putHand p { h with tentative := 1 + d, startPos := h.position, written := [] }
  (⟨b.rows ++ ⟨h.index, .decode, h.position, h.lastToken, h.desc.variant, none, true⟩ :: drafts, b.pads, b.budget - d⟩, s)

/-- A PREFILL request's chunk (R161); `b.budget` is the share that is left. -/
def State.addChunk (p sl : Nat) (h : HandRecord) (b : Build) (s : State) : Build × State :=
  if b.budget < 64 ∨ (h.desc.hostSpace ∧ !s.hostReadable 1 (p + 1)) then (b, s)
  else
    let r := h.desc.promptLen - h.promptDone
    let whole := pow2Ceil (max r 64)
    let most := min b.budget 2048
    let final := decide (whole ≤ most)
    let size := if final then whole else pow2Floor (min r most)
    let valid := if final then r else size
    match s.chunkRows sl h final valid h.promptDone with
    | (.error st, s) => (b, s.endHand p h.index st 0xF)
    | (.ok rows, s) =>
      match s.kvReserve p { h with startPos := h.position } valid with
      | none => (b, (s.countExhaust p).demoteCheck p true)
      | some (h, s) => (⟨b.rows ++ rows, b.pads + (size - valid), b.budget - size⟩, s.putHand p { h with tentative := valid, written := [] })

/-- Requests in admission order. -/
def byOrder (l : List HandRecord) : List HandRecord :=
  l.foldl (fun acc h => acc.takeWhile (fun x => decide (x.order < h.order)) ++ h :: acc.dropWhile (fun x => decide (x.order < h.order))) []

/-- All rows of the next trick (R161). -/
def State.gatherRows (p sl budget : Nat) (s : State) : Build × State :=
  let dec := byOrder ((s.handsOf p sl).filter (fun h => h.phase == .decode))
  let x := s.slotServing sl
  let short := decide (budget < dec.length)
  let after := x.rotateAfter.getD 0
  let rot := if x.rotateAfter.isSome then
      dec.filter (fun h => decide (after < h.order)) ++ dec.filter (fun h => decide (h.order ≤ after))
    else dec
  let chosen := rot.take budget
  let s := if short then s.putSlot sl { x with rotateAfter := chosen.getLast?.map (fun h => h.order) } else s
  let r := chosen.foldl (fun (acc : Build × State) h => acc.2.addDecode p sl h acc.1) ((⟨[], 0, budget - chosen.length⟩ : Build), s)
  let share := min r.1.budget (r.2.rdN (Reg.PREFILL_CAP sl))
  let pre := byOrder ((s.handsOf p sl).filter (fun h => h.phase == .prefill))
  let ordered := (List.range 8).flatMap (fun k => pre.filter (fun h => h.desc.cls == k))
  ordered.foldl (fun (acc : Build × State) h => acc.2.addChunk p sl h acc.1) (({ r.1 with budget := share } : Build), r.2)

/-- Write words 0 to 2 of every row of the bucket: the status with which the row table cannot be written (R131, R160). -/
def State.writeRows (base : Nat) : Nat → Nat → List TrickRow → State → Option Nat × State
  | 0, _, _, s => (none, s)
  | n + 1, i, rows, s =>
    let b := match rows with
      | r :: _ => rowWords r
      | [] => leBytes 24 0
    match s.hbmWrite 3 (base + 64 * i) b with
    | (some st, s) => (some st, s)
    | (none, s) => s.writeRows base n (i + 1) rows.tail

/-- The embedding rows of a trick in row order, as they were read when its rows were gathered (R149). -/
def State.embedRows (sl : Nat) (rows : List TrickRow) (s : State) : List Byte :=
  rows.flatMap (fun r => match r.embed with
    | some a => s.peek a (2 * s.rdF (Reg.SLOT_HIDDEN sl) Fld.SLOT_HIDDEN_HIDDEN)
    | none => [])

/-- Transfers that `sendData` cuts some bytes into (R330). -/
def transfersOf (n : Nat) : Nat := (n + stripeUnit - 1) / stripeUnit

/-- Send a plan's embedding rows to every follower (R149): the transfers that carry them, by member and TRANSFER_ID. -/
def State.sendRows (p : Nat) (t : TrickPlan) (embed : List Byte) (s : State) : List (Nat × Nat) × State :=
  (s.otherMembers p).foldl (fun (acc : List (Nat × Nat) × State) j =>
    let first := (acc.2.peerAt p j).transferId
    (acc.1 ++ (List.range (transfersOf embed.length)).map (fun i => (j, (first + i) % 2 ^ 16)),
     acc.2.sendData p j ⟨0, 3, false, false, 0, 0, 0, t.trick, 0, (t.rows.filter (fun r => r.embed.isSome)).length, 0, 0, 0, 0, embed, 0⟩)) ([], s)

/-- A trick that cannot be submitted counts as abandoned (R131, R172). No plan has named it, so its number stays free for the next. -/
def State.abandonBuild (p sl : Nat) (rows : List TrickRow) (s : State) : State :=
  match (s.rollbackRows p rows).countAbandoned sl (s.trickOf sl) with
  | (true, s) => s.failSlot p sl St.SRV_SLOT_FAILED
  | (false, s) => s.updSlot sl (fun x => { x with event := true })

/-- Every request of a slot can post its entries (R151). -/
def State.scqsOpen (s : State) (p sl : Nat) : Bool :=
  let rqs := (s.handsOf p sl).map (fun h => h.rq) ++ (s.heldOf p sl).map (fun r => r.rq)
  rqs.all (fun q =>
    let c := s.scqOf p q
    !(s.rdB (Reg.SCQ_CFG p c) Fld.SCQ_CFG_ENABLE && (s.scqFull p c || (s.partServing p).heldEntries.any (fun e => e.1 == c))))

/-- A trick that is ready to be planned and submitted. -/
structure ReadyTrick where
  num : Nat
  bucket : Nat
  rows : List TrickRow
  template : List Byte
  embed : List Byte
  deriving DecidableEq, Repr

/-- The slot may run a trick at this boundary (R151, R488). -/
def State.mayBuild (s : State) (p sl : Nat) : Bool :=
  s.partRuns p && s.slotReady sl && s.rdB (Reg.PART_SRV_CTRL p) Fld.PART_SRV_CTRL_ENABLE
    && (s.handsOf p sl).any (fun h => h.phase == .prefill || h.phase == .decode)

/-- Step 10 of R164: gather the rows of the next trick, copy its template and write its row table, if it has a row. `table` is the template table
as the boundary has read it; none where it could not be read. -/
def State.prepareTrick (p sl : Nat) (table : Option (List Byte)) (s : State) : Option ReadyTrick × State :=
  if !s.mayBuild p sl then (none, s)
  else
    match table with
    | none => (none, s.abandonBuild p sl [])
    | some table =>
      let bs := bucketsOf table
      let (b, s) := s.gatherRows p sl (s.effectiveBudget sl bs)
      if b.rows.isEmpty then (none, s)
      else
        match bs.find? (fun x => decide (b.rows.length + b.pads ≤ bucketRows x.1)) with
        | none => (none, s.rollbackRows p b.rows)
        | some (i, addr, bytes) =>
          let trick := s.trickOf sl + 1
          match s.globalRead 3 addr (min bytes 655424) with
          | (some _, _, s) => (none, s.abandonBuild p sl b.rows)
          | (none, template, s) =>
            match s.writeRows (s.rowTable sl trick) (bucketRows i) 0 b.rows with
            | (some _, s) => (none, s.abandonBuild p sl b.rows)
            | (none, s) =>
              (some ⟨trick, i, b.rows, template, if (s.otherMembers p).isEmpty then [] else s.embedRows sl b.rows⟩, s)

/-- Send a trick's embedding rows, then its plan, and submit it (R149, R162). -/
def State.launchTrick (p sl : Nat) (k : ReadyTrick) (s : State) : State :=
  let x := s.slotServing sl
  let plan : TrickPlan := ⟨k.num, sl, k.bucket, k.rows, x.news, k.embed.length⟩
  let (sent, s) := s.sendRows p plan k.embed
  let s := s.putSlot sl { x with
    news := .empty, inFlight := some ⟨k.num, k.bucket, k.rows, s.now, none, []⟩, toSubmit := some ⟨k.num, k.template, plan, sent⟩ }
  s.submitReady p

/-! ### The boundary -/

/-- Class and prefix registers of a partition: each of its slots commits them at its own boundary. -/
def sharedReg (p o : Nat) : Bool := inRange (0x302000 + 0x1000 * p) 0x1000 o || inRange (0x502000 + 0x1000 * p) 0x1000 o

/-- Held RS values of a slot's page, and for this slot those of its partition's classes and prefix index, commit at the slot's boundary (R10,
R406); the partition's other slots keep the words they have in force until their own. -/
def State.commitSlotRS (p sl : Nat) (s : State) : State :=
  let held := (s.heldRS.filter (fun e => sharedReg p e.1)).map (fun e => (e.1, s.rdN e.1))
  let others := (List.range 8).filter (fun k => k != sl && s.slotReady k && s.slotOwner k == p)
  let s := s.overList others (fun k t => t.updSlot k (fun x => { x with
    lag := held.foldl (fun l e => if (mapGet e.1 l).isSome then l else mapSet e.1 e.2 l) x.lag }))
  let s := if (s.slotServing sl).lag.isEmpty then s else s.updSlot sl (fun x => { x with lag := [] })
  s.commitRS (fun o => inRange (0x306000 + 0x400 * sl) 0x400 o || inRange (0x406000 + 0x400 * sl) 0x400 o || sharedReg p o)

/-- Hand records that cannot be read end their requests (R131, R173); `bad` gives the address of the word of each that fails. What to end, with the
status. -/
def State.badRecords (p : Nat) (bad : List (Nat × Nat)) (s : State) : List (Nat × Nat) × State :=
  bad.foldl (fun (acc : List (Nat × Nat) × State) e =>
    if (acc.2.handAt p e.1).isNone then acc
    else
      match acc.2.readReserve p (some e.2) with
      | (some st, s) => (acc.1 ++ [(e.1, st)], s)
      | (none, s) => (acc.1, s)) ([], s)

/-- The template table, which a boundary reads once if the slot has a request (R159). -/
def State.readTable (p sl : Nat) (s : State) : Option (List Byte) × State :=
  if (s.heldOf p sl).isEmpty && (s.running p sl).isEmpty then (none, s)
  else
    match s.globalRead 3 (s.templateBase sl) 176 with
    | (some _, _, s) => (none, s)
    | (none, b, s) => (some b, s)

/-- Prefix actions are decided at the boundary of a slot, or outside one (R222). -/
def State.decideAt (p : Nat) (sl : Option Nat) (s : State) : State := s.putServing p { s.partServing p with deciding := sl }

/-- A trick boundary on the lead (R164, R488): of the trick in flight, or without one. -/
def State.boundary (p sl : Nat) (badHands : List (Nat × Nat)) (s : State) : State :=
  let s := (s.commitSlotRS p sl).decideAt p (some sl)
  let f := (s.slotServing sl).inFlight
  let s := s.updSlot sl (fun x => { x with inFlight := none, event := false })
  let (bad, s) := s.badRecords p badHands
  let s := s.overList (bad ++ (s.slotServing sl).toEnd) (fun e t => t.endNamed p sl e)
  let s := s.updSlot sl (fun x => { x with toEnd := [] })
  let r := match f with
    | some t => s.applyTrick p sl t
    | none => (some [], s)
  let s := r.2
  if !s.slotReady sl then (s.flushOutbox p).decideAt p none
  else
    let kept := r.1.getD []
    let cmds := (s.slotServing sl).commands
    let s := s.updSlot sl (fun x => { x with commands := [] })
    let s := s.overList (cmds.filter (fun c => c.opcode == 2)) (fun c t => t.doCancel p sl c)
    let s := s.overList kept (fun k t => t.firstTrickDone p k.hr)
    let s := ((s.overList kept (fun k t => t.commitHand p sl k)).freeEnded p sl).freeRows sl
    let s := (s.dropLostNodes p).demoteCheck p false
    let s := s.overList (cmds.filter (fun c => c.opcode == 3)) (fun c t => t.doPark p sl c)
    let s := ((s.finishParkings p sl).finishResumes p sl).freeEnded p sl
    let s := (s.updateCap p sl).updateAverage sl f.isSome
    let (table, s) := s.readTable p sl
    let s := s.admitHeld p sl table
    let s := s.overList (cmds.filter (fun c => c.opcode == 4)) (fun c t => t.doResume p sl c)
    -- entries of this boundary fill their queues before the next trick may be built (R151)
    let (k, s) := if (s.flushOutbox p).scqsOpen p sl then s.prepareTrick p sl table else (none, s)
    let s := (((s.freeEnded p sl).showServing p).flushOutbox p).decideAt p none
    match k with
    | some k => s.launchTrick p sl k
    | none => s

/-- The reports of every other member of the group for the trick in flight have arrived (R164). -/
def State.trickDone (s : State) (p sl : Nat) : Bool :=
  match (s.slotServing sl).inFlight with
  | some f => f.graphEnd.isSome && (s.otherMembers p).all (fun j => f.reports.any (fun r => r.1 == j))
  | none => false

/-- A boundary is formed at once when a slot has no trick in flight (R488). -/
def State.idleBoundary (p sl : Nat) (s : State) : State :=
  if s.partWorks p && s.slotReady sl && s.slotLead sl && (s.slotServing sl).inFlight.isNone then s.boundary p sl []
  else s.updSlot sl (fun x => { x with event := true })


/-! ### Fetching (R146 to R153) -/

def State.fetchedAt (s : State) (p : Nat) : Option (Nat × List Byte) := mapGet p s.serving.fetched
def State.putFetched (p : Nat) (x : Option (Nat × List Byte)) (s : State) : State :=
  { s with serving := { s.serving with fetched := match x with
    | some e => mapSet p e s.serving.fetched
    | none => mapDel p s.serving.fetched } }

/-- The head descriptor of the first of some RQs that does not lose its turn (R153). -/
def State.fetchRequest (p : Nat) : List Nat → State → State
  | [], s => s
  | q :: rest, s =>
    let cfg := Reg.RQ_CFG p q
    let c := s.scqOf p q
    let full := s.rdB (Reg.SCQ_CFG p c) Fld.SCQ_CFG_ENABLE && s.scqFull p c
    if !s.rdB cfg Fld.RQ_CFG_ENABLE || s.rdN (Reg.RQ_HEAD p q) == s.rdN (Reg.RQ_TAIL p q) || full
        || !s.hostReadable (s.rdF cfg Fld.RQ_CFG_SPACE) (p + 1) then s.fetchRequest p rest
    else
      let log2 := s.rdF cfg Fld.RQ_CFG_SIZE_LOG2
      let head := s.rdN (Reg.RQ_HEAD p q)
      match s.ringRead (s.rdF cfg Fld.RQ_CFG_SPACE) (p + 1) (ringBase (s.rd64 (Reg.RQ_BASE_LO p q)) 64 log2 + 64 * head) 64 with
      | (none, s) => (s.stopRing (.rq p q)).fetchRequest p rest
      | (some b, s) =>
        if leAt b 0 1 = 1 ∧ 4096 ≤ (s.partServing p).held.length then s.fetchRequest p rest
        else
          let x := s.partServing p
          let s := (s.wrN (Reg.RQ_HEAD p q) ((head + 1) % 2 ^ log2)).putServing p { x with rqTurn := (q + 1) % 4 }
          if leAt b 0 1 = 0 ∨ 4 < leAt b 0 1 then s.postNow p q St.SRV_BAD_REQUEST 4 (leAt b 8 8)
          else s.putFetched p (some (q, b))

/-- REQUEST_FETCH (R153): one descriptor from the partition's RQs in round robin. -/
def execRequestFetch (p : Nat) (upsets : List Upset) (s : State) : Out :=
  let s := s.upset upsets
  if !(s.partRuns p && s.powerOn && s.rdB (Reg.PART_SRV_CTRL p) Fld.PART_SRV_CTRL_ENABLE) || (s.fetchedAt p).isSome then .next s
  else .next ((s.fetchRequest p ((List.range 4).map (fun i => ((s.partServing p).rqTurn + i) % 4))).showServing p)

/-- FP16 values that are at least 0. -/
def fp16NonNeg (v : Nat) : Bool := (!bitOf v 15 || v % 2 ^ 15 == 0) && decide (v % 2 ^ 15 ≤ 0x7C00)

/-- A request descriptor (R146). -/
def parseRequest (b : List Byte) : ReqDesc :=
  let w := fun i => leAt b (8 * i) 8
  { opcode := bitsAt (w 0) 0 8, slot := bitsAt (w 0) 8 3, cls := bitsAt (w 0) 12 3, hostSpace := bitOf (w 0) 15
    variant := bitsAt (w 0) 16 14, hostTag := w 1, promptAddr := bitsAt (w 2) 0 48, target := w 2
    promptLen := bitsAt (w 3) 0 24, maxNew := bitsAt (w 3) 32 24, temperature := bitsAt (w 4) 0 16, topK := bitsAt (w 4) 16 16
    topP := bitsAt (w 4) 32 16, deadlineMs := bitsAt (w 4) 48 16, seed := w 5, stop0 := bitsAt (w 6) 0 32
    stop1 := bitsAt (w 6) 32 32, mmAddr := bitsAt (w 7) 0 48, segs := [] }

/-- Entries of a segment list (R148). -/
def parseSegments (b : List Byte) (n : Nat) : List Segment :=
  (List.range n).map (fun i =>
    let w0 := leAt b (16 * i) 8
    let w1 := leAt b (16 * i + 8) 8
    ⟨bitsAt w0 0 48, bitOf w0 48, bitOf w0 49, bitsAt w1 0 24, bitsAt w1 24 24, bitsAt w1 48 16⟩)

def segmentsOverlap : List Segment → Bool
  | [] => false
  | g :: t => t.any (fun k => decide (g.pos < k.pos + k.count ∧ k.pos < g.pos + g.count)) || segmentsOverlap t

/-- The ranges of R146 for a SUBMIT to a slot, before its segments. DESIGN CHOICE (log 229): with an MM_COUNT of 0 no segment list is named, and
MM_ADDR is not looked at. -/
def State.requestOk (s : State) (p : Nat) (d : ReqDesc) (mmCount : Nat) : Bool :=
  let most := s.maxPositions d.slot
  d.promptAddr % 4 == 0 && decide (1 ≤ d.promptLen ∧ d.promptLen + 1 ≤ most) && decide (1 ≤ d.maxNew ∧ d.maxNew + d.promptLen ≤ most)
    && fp16NonNeg d.temperature && fp16NonNeg d.topP && decide (d.topP % 2 ^ 15 ≤ 0x3C00)
    && decide (mmCount ≤ 8)
    && (d.hostSpace || s.inTaskSpace p d.promptAddr (4 * d.promptLen))
    && (mmCount == 0 || (d.mmAddr % 16 == 0 && s.inTaskSpace p d.mmAddr (16 * mmCount)))

/-- The rules of R148 for the segments of a SUBMIT. -/
def State.segmentsOk (s : State) (p : Nat) (d : ReqDesc) (l : List Segment) : Bool :=
  let hidden := s.rdF (Reg.SLOT_HIDDEN d.slot) Fld.SLOT_HIDDEN_HIDDEN
  l.all (fun g => decide (1 ≤ g.count ∧ g.pos + g.count ≤ d.promptLen)
      && (g.wait || s.inTaskSpace p g.addr (if g.embed then g.count * hidden * 2 else g.count * 4)))
    && !segmentsOverlap l

/-- A live request of a slot carries a HOST_TAG (R147). -/
def State.tagLive (s : State) (p sl tag : Nat) : Bool :=
  (s.heldOf p sl).any (fun r => r.desc.hostTag == tag) || (s.handsOf p sl).any (fun h => h.desc.hostTag == tag)

/-- The slot belongs to a partition and is READY (R153). -/
def State.slotFor (s : State) (p sl : Nat) : Bool := s.slotReady sl && s.slotOwner sl == p
/-- The partition owns the slot and follows (R143). -/
def State.follows (s : State) (p sl : Nat) : Bool := s.slotOwned sl && s.slotOwner sl == p && !s.slotLead sl

/-- A SUBMIT is validated, and enters the admission queue or is rejected (R143, R146 to R148, R153, R178): the request that has entered. -/
def State.enqueue (p q : Nat) (b : List Byte) (s : State) : Option HeldReq × State :=
  let d := parseRequest b
  let mm := bitsAt (leAt b 56 8) 48 4
  let reject := fun (st : Nat) (s : State) =>
    let s := s.postNow p q st 4 d.hostTag
    (none, if s.slotFor p d.slot && s.slotLead d.slot then s.slotEvent d.slot else s)
  if s.follows p d.slot then reject St.SRV_NOT_LEAD s
  else if !s.slotFor p d.slot then reject St.SRV_SLOT_NOT_READY s
  else if !s.requestOk p d mm then reject St.SRV_BAD_REQUEST s
  else
    match (if mm = 0 then (none, [], s) else s.globalRead 3 d.mmAddr (16 * mm)) with
    | (some st, _, s) => reject st s
    | (none, segBytes, s) =>
      let segs := parseSegments segBytes mm
      if !s.segmentsOk p d segs then reject St.SRV_BAD_REQUEST s
      else if s.rdN (Reg.VARIANT_COUNT d.slot) ≤ d.variant then reject St.SRV_BAD_VARIANT s
      else if s.tagLive p d.slot d.hostTag then reject St.SRV_BAD_REQUEST s
      else
        let x := s.partServing p
        let r : HeldReq := ⟨{ d with segs := segs }, q, s.now⟩
        (some r, s.putServing p { x with held := x.held ++ [r] })

/-- A SUBMIT: a request that has entered the queue is looked up (R223). -/
def State.submit (p q : Nat) (b : List Byte) (s : State) : State :=
  match s.enqueue p q b with
  | (some r, s) => ((s.lookup p r.desc).slotEvent r.desc.slot).showServing p
  | (none, s) => s

/-- A HELD request ends outside a boundary with a status (R319). -/
def State.endHeldNow (p st : Nat) (r : HeldReq) (s : State) : State :=
  (((s.endHeld p r st).flushOutbox p).slotEvent r.desc.slot).showServing p

/-- A SUBMIT whose prompt in host memory could not be read for its lookup (R319): a request that has entered the queue ends. -/
def State.submitFailed (p st q : Nat) (b : List Byte) (s : State) : State :=
  match s.enqueue p q b with
  | (some r, s) => s.endHeldNow p st r
  | (none, s) => s

/-- The prompt of a SUBMIT that the walker is to look up lies in host memory that cannot be read now: the descriptor waits (R319). -/
def State.submitWaits (s : State) (p : Nat) : Bool :=
  match s.fetchedAt p with
  | some (_, b) => leAt b 0 1 == 1 && s.walkWaits p (parseRequest b)
  | none => false

/-- A CANCEL, PARK or RESUME waits for the next boundary of its slot, or is answered at once (R143, R153, R170, R174, R175). -/
def State.command (p q : Nat) (b : List Byte) (s : State) : State :=
  let d := parseRequest b
  if d.opcode = 4 then
    if s.follows p d.slot then s.postNow p q St.SRV_NOT_LEAD 4 d.hostTag
    else if !s.slotFor p d.slot then s.postNow p q St.SRV_SLOT_NOT_READY 4 d.hostTag
    else (s.updSlot d.slot (fun x => { x with
      commands := x.commands ++ [⟨4, d.target, d.hostTag, q, d.cls, d.stop0, d.stop1⟩] })).slotEvent d.slot
  else if !s.slotFor p d.slot || s.follows p d.slot then s.postNow p q St.SRV_UNKNOWN_REQUEST 3 d.hostTag
  else (s.updSlot d.slot (fun x => { x with
    commands := x.commands ++ [⟨d.opcode, d.target, d.hostTag, q, 0, 0, 0⟩] })).slotEvent d.slot

/-- Run a meaning on the descriptor last fetched, if it has an opcode. -/
def State.onFetched (p op : Nat) (f : Nat → List Byte → State → State) (s : State) : State :=
  match s.fetchedAt p with
  | some (q, b) => if leAt b 0 1 = op ∧ s.partWorks p then f q b (s.wake.putFetched p none) else s
  | none => s

def execSubmit (p : Nat) (upsets : List Upset) (s : State) : Out := 
  let s := s.upset upsets
  .next (if s.submitWaits p then s else s.onFetched p 1 (State.submit p))
def execCancel (p : Nat) (s : State) : Out := .next (s.onFetched p 2 (State.command p))
def execPark (p : Nat) (s : State) : Out := .next (s.onFetched p 3 (State.command p))
def execResume (p : Nat) (s : State) : Out := .next (s.onFetched p 4 (State.command p))

/-! ### Boundaries as events -/

/-- Take the oldest report of a slot's graph (R78). -/
def State.takeReport (sl : Nat) (s : State) : Option GraphReport × State :=
  let mine := fun (r : GraphReport) => r.source == .serving sl
  match s.dealer.reports.find? mine with
  | none => (none, s)
  | some r => (some r, { s with dealer := { s.dealer with reports := s.dealer.reports.eraseP mine } })

/-- TRICK_GRAPH_COMPLETE (R164): the completion of a trick's graph reaches the lead; with every follower's report it is the
boundary. `badHands` are hand records found unreadable, with the MEM code (R131, R173). -/
def execTrickGraphComplete (sl : Nat) (badHands : List (Nat × Nat)) (upsets : List Upset) (s : State) : Out :=
  let s := s.upset upsets
  let p := s.slotOwner sl
  if !(s.partWorks p && s.slotLead sl) then .next s
  else
    match s.takeReport sl with
    | (none, s) => .next s
    | (some r, s) =>
      match (s.slotServing sl).inFlight with
      | none => .next s
      | some f =>
        let s := s.updSlot sl (fun x => { x with inFlight := some { f with graphEnd := some (r.status, r.failed) } })
        .next (if s.trickDone p sl then s.boundary p sl badHands else s)

/-- IDLE_BOUNDARY (R488): a boundary without a trick, after an event of R488. -/
def execIdleBoundary (sl : Nat) (badHands : List (Nat × Nat)) (upsets : List Upset) (s : State) : Out :=
  let s := s.upset upsets
  let p := s.slotOwner sl
  let x := s.slotServing sl
  .next (if s.partWorks p && s.slotReady sl && s.slotLead sl && x.inFlight.isNone && x.event then s.boundary p sl badHands else s)

/-- HELD_DEADLINE_PASS (R488): the deadline of a HELD request of the slot has passed. -/
def execHeldDeadlinePass (sl : Nat) (s : State) : Out :=
  .next (if (s.heldOf (s.slotOwner sl) sl).any s.deadlinePassed then s.slotEvent sl else s)

/-- HOLD_MAX_PASS (R488): a HELD request of the slot has been held longer than its class's HOLD_MAX. -/
def execHoldMaxPass (sl : Nat) (s : State) : Out :=
  let p := s.slotOwner sl
  .next (if (s.heldOf p sl).any (fun r =>
      s.holdMaxMs p sl r.desc.cls != 0 && decide (r.fetchTs + s.holdMaxMs p sl r.desc.cls * 1000000 < s.now)) then s.slotEvent sl else s)

/-- GROUP_TIMEOUT (R166): a follower's report or a plan's delivery is missing for longer than GROUP_TIMEOUT_MS. -/
def execGroupTimeout (sl : Nat) (s : State) : Out :=
  let p := s.slotOwner sl
  match (s.slotServing sl).inFlight with
  | none => .next s
  | some f =>
    let missing := (s.otherMembers p).any (fun j => !f.reports.any (fun r => r.1 == j))
    let late := decide (f.submittedAt + s.rdF (Reg.SLOT_TIMEOUT sl) Fld.SLOT_TIMEOUT_GROUP_TIMEOUT_MS * 1000000 < s.now)
    .next (if s.partWorks p && s.slotLead sl && missing && late then s.loseSlot p sl else s)

/-! ### Followers (R165) -/

/-- FOLLOWER_TRICK_COMPLETE (R165, R171): a follower's graph is complete; it reports the trick to the lead. -/
def execFollowerTrickComplete (sl : Nat) (badHands : List (Nat × Nat)) (s : State) : Out :=
  let p := s.slotOwner sl
  if !(s.partWorks p && s.slotReady sl && !s.slotLead sl) then .next s
  else
    match s.takeReport sl with
    | (none, s) => .next s
    | (some r, s) =>
      match (s.slotServing sl).inFlight with
      | none => .next s
      | some f =>
        let (bad, s) := (s.commitSlotRS p sl).badRecords p badHands
        let x := s.slotServing sl
        let ends := x.toEnd ++ s.namedByFailures p sl r.failed ++ bad
        let st := if trickOk r.status then 0x3000 else r.status
        let s := s.sendControl p (s.groupLead p) 2 (reportBody f.num sl st ends x.parkReports)
        let s := s.setTrick sl f.num
        let s := if trickOk r.status then s else (s.count (Reg.ABANDONED sl)).post St.SRV_TRICK_ABANDONED
        .next (s.putSlot sl { x with
          inFlight := some { f with graphEnd := some (r.status, r.failed) }, toEnd := [], parkReports := [] })

/-! ### Parking and resumption (R174, R175, R244, R245) -/

/-- The kitty and the rows of a request, as its image holds them: the status of a failed read, the bytes. -/
def State.parkBody (p : Nat) (h : HandRecord) (s : State) : Option Nat × List Byte × State :=
  let sl := h.desc.slot
  let kit := (s.partDies p).flatMap (fun d => (List.range (s.slotLayers sl)).map (fun l => s.kittyAddr sl d h.kitty l 0))
  let n := h.kittyCount * s.kittySlotBytes sl
  let r := kit.foldl (fun (acc : Option Nat × List Byte × State) a =>
    match acc with
    | (some st, b, s) => (some st, b, s)
    | (none, b, s) => let q := s.hbmRead 3 a n; (q.1, b ++ q.2.1, q.2.2)) (none, [], s)
  (h.tables.flatMap (fun t => t.entries)).foldl (fun (acc : Option Nat × List Byte × State) e =>
    match acc with
    | (some st, b, s) => (some st, b, s)
    | (none, b, s) =>
      match s.rowAt e.row with
      | none => (none, b, s)
      | some row => let q := s.rowImage 3 row; (q.1, b ++ q.2.1, q.2.2)) r

/-- A member has finished its part of a parking (R174). -/
def State.memberParked (p i member st : Nat) (s : State) : State :=
  match s.handAt p i with
  | none => s
  | some h =>
    if h.phase ≠ .parking then s
    else
      let worst := if stCode st = 0 then h.outcome else some (h.outcome.getD st)
      let s := s.putHand p { h with awaiting := h.awaiting.filter (· != member), outcome := worst }
      if !(h.awaiting.filter (· != member)).isEmpty then s
      else if s.slotReady h.desc.slot then s.idleBoundary p h.desc.slot
      -- the slot has been unloaded meanwhile (R243)
      else (((s.finishParkings p h.desc.slot).freeEnded p h.desc.slot).showServing p).flushOutbox p

/-- PARK_WRITE_COMPLETE (R174, R244): this member's part of a parked request has been written, or its source could not be read. -/
def execParkWriteComplete (p hr : Nat) (upsets : List Upset) (s : State) : Out :=
  let s := s.upset upsets
  match s.handAt p hr with
  | none => .next s
  | some h =>
    if h.phase ≠ .parking ∨ !h.awaiting.contains (s.groupMember p) ∨ !s.talonUp ∨ !s.partWorks p ∨ (s.parkedAt h.parkHandle).isNone then .next s
    else
      let (st, s) : Nat × State := match s.useTalon.parkBody p h with
        | (some st, _, s) => (st, s.dropParked h.parkHandle)
        | (none, b, s) =>
          let done := fun (i : ParkedImage) => if i.handle = h.parkHandle then { i with complete := true, body := putBody [] 0 b } else i
          let n := (s.parkedAt h.parkHandle).map (fun i => pagesFor i.bytes)
          (0x3000, (({ s with talon := { s.talon with parked := s.talon.parked.map done } }).journalled).charge p (n.getD 0))
      let (h, s) := s.unleaseHand h
      let s := s.putHand p h
      if s.slotLead h.desc.slot then .next (s.memberParked p hr (s.groupMember p) st)
      else
        let s := s.putHand p { h with awaiting := [] }
        .next (s.updSlot h.desc.slot (fun x => { x with parkReports := x.parkReports ++ [(hr, st)] }))

/-- Rows for every entry of an image's page tables, private to the resumed request (R245). -/
def State.resumeRows (sl : Nat) : List (Nat × KvTable) → HandRecord → State → Option (HandRecord × State)
  | [], h, s => some (h, s)
  | (d, t) :: rest, h, s =>
    let r := t.entries.foldl (fun (acc : Option (HandRecord × State)) e =>
      match acc with
      | none => none
      | some (h, s) =>
        match s.allocRow d sl e.format e.log2p with
        | none => none
        | some (ref, s) =>
          match (s.addRef ref).appendEntry sl (h.table d) { e with row := ref, state := .committed } with
          | none => none
          | some (u, s) => some (h.putTable u, s)) (some (h, s))
    match r with
    | none => none
    | some (h, s) => State.resumeRows sl rest h s

/-- Fill a resumed request's kitty and rows from its image (R245). -/
def State.fillResumed (p : Nat) (img : ParkedImage) (h : HandRecord) (s : State) : State :=
  let sl := h.desc.slot
  let n := h.kittyCount * s.kittySlotBytes sl
  let kit := (s.partDies p).flatMap (fun d => (List.range (s.slotLayers sl)).map (fun l => s.kittyAddr sl d h.kitty l 0))
  let s := s.overList kit.zipIdx (fun e t => (t.hbmWrite 2 e.1 (getBody img.body (n * e.2) n)).2)
  let r := (h.tables.flatMap (fun t => t.entries)).foldl (fun (acc : Nat × State) e =>
    match acc.2.rowAt e.row with
    | none => acc
    | some row =>
      let k := acc.2.rowBytes row
      let s := acc.2.fillRow row (getBody img.body acc.1 k)
      let held := min (2 ^ e.log2p) (h.position - h.kittyCount - e.basePos)
      (acc.1 + k, s.updRow e.row (fun y => { y with fill := y.fill.map (fun _ => held) }))) (n * kit.length, s)
  r.2

/-- The record of a resumed request, from its image (R175). -/
def resumedHand (img : ParkedImage) (h : HandRecord) : HandRecord :=
  let o := img.hand
  { h with
    firstTs := o.firstTs, lastTs := o.lastTs, promptDone := o.promptDone, generated := o.generated, position := o.position
    startPos := o.position, lastToken := o.lastToken, tbtLast := o.tbtLast, tbtMax := o.tbtMax, tbtOver := o.tbtOver
    drafts := [], skipInterval := true, tentative := 0, dropImage := some img.handle, flushPending := o.flushPending }

/-! ### Demotion, promotion and prefix reports (R222, R228, R229) -/

def State.transferAt (s : State) (p extent : Nat) (demotion : Bool) : Option PfxTransfer :=
  s.talon.transfers.find? (fun x => x.part == p && x.extent == extent && x.demotion == demotion)

/-- DEMOTION_READ_COMPLETE (R228): the last byte of a demoted row group has been read. -/
def execDemotionReadComplete (p extent : Nat) (upsets : List Upset) (s : State) : Out :=
  let s := s.upset upsets
  match s.transferAt p extent true with
  | some x => .next (if s.talonUp && s.partWorks p then s.useTalon.demotionRead x else s)
  | none => .next s

/-- EXTENT_COMMIT (R228, R240): the last page program of a demoted extent has completed; it is durable and is charged. -/
def execExtentCommit (extent : Nat) (s : State) : Out :=
  match s.extentAt extent with
  | none => .next s
  | some e =>
    if e.committed || e.stale || !s.talonUp || (s.transferAt e.part extent true).isSome then .next s
    else
      let s := (s.useTalon.updExtent extent (fun x => { x with committed := true })).journalled
      .next (((s.charge e.part (pagesFor e.bytes)).showShare e.part).demoteCheck e.part false)

/-- PROMOTION_READ_COMPLETE (R229, R237): a promoted extent has been read into its new rows. -/
def execPromotionReadComplete (p extent : Nat) (cws : List Codeword) (s : State) : Out :=
  match s.transferAt p extent false with
  | none => .next s
  | some _ =>
    if !s.talonUp || !s.partWorks p then .next s
    else
      let s := s.ladder cws
      .next (match s.transferAt p extent false with
        | some x => s.promotionRead x
        | none => s)

/-- PREFIX_REPORT_SEND (R222, R338): once per second a follower reports its credit, its parking space and its LOST nodes. -/
def execPrefixReportSend (p : Nat) (s : State) : Out :=
  if !s.partWorks p || s.groupSize p ≤ 1 || s.groupMember p == s.groupLead p then .next s
  else
    let lost := ((s.nodesOf p).filter (fun e => e.2.state == .lostNode)).map (fun e => e.1)
    .next (s.sendControl p (s.groupLead p) 3
      (prefixReportBody (mapGetD 0 p s.talon.credit / 1048576) (s.parkFree p / 1048576) lost))

end Sys2Proof.Machine
end

