-- ==== Sys2Proof/Machine/Followers.lean ====
section
/-! DEFINITION. Machine/Followers.lean: control messages acted on (R333, R339, R346): the trick plan on a follower (R145, R165, R197,
R201, R222, R336), the reports on the lead (R164, R222, R337, R338), heartbeats, acknowledgements, fencing. -/
namespace Sys2Proof.Machine

/-- The oldest accepted message of a TYPE. -/
def State.takeInbox (p type : Nat) (s : State) : Option InboxEntry × State :=
  let mine := fun (e : InboxEntry) => e.part == p && e.type == type
  match s.ndx.inbox.find? mine with
  | some e => (some e, { s with ndx := { s.ndx with inbox := s.ndx.inbox.eraseP mine } })
  | none => (none, s)

/-! ### Heartbeats, acknowledgements, fencing (R333, R339, R345, R346) -/

/-- HEARTBEAT_SEND (R339): every HB_MS a heartbeat to every other member; held RS values of NDX commit (R406). -/
def execHeartbeatSend (p : Nat) (s : State) : Out :=
  let due := mapGetD 0 p s.ndx.heartbeatAt + s.rdF Reg.NDX_CFG Fld.NDX_CFG_HB_MS * 1000000
  if !s.ready || s.now < due then .next s
  else
    let s := ({ s with ndx := { s.ndx with heartbeatAt := mapSet p s.now s.ndx.heartbeatAt } }).commitRS (inRange 0x900000 0x100000)
    .next (if s.groupState p = 1 ∨ s.groupState p = 2 then s.overList (s.otherMembers p) (fun j t => t.sendControl p j 4 []) else s)

/-- HEARTBEAT_RECEIVE (R339): a heartbeat ends the silence of its sender. -/
def execHeartbeatReceive (p : Nat) (s : State) : Out :=
  match s.takeInbox p 4 with
  | (some e, s) => .next (s.putPeer p e.src { s.peerAt p e.src with lastHeard := s.now })
  | (none, s) => .next s

/-- FENCE_TIMEOUT (R339, R343, R346): silence of a member for FENCE_MS fences it, in a degraded group as in an active one, and
instances that need it fail; a relay that is fenced forwards no more (R331). -/
def execFenceTimeout (p j : Nat) (s : State) : Out :=
  let silent := (s.peerAt p j).lastHeard + s.rdF Reg.NDX_CFG Fld.NDX_CFG_FENCE_MS * 1000000
  if s.ready && decide (1 ≤ s.groupState p ∧ s.groupState p ≤ 3) && (s.otherMembers p).contains j && decide (silent ≤ s.now)
      && !bitOf (s.rdF (Reg.FENCE_MASK p) Fld.FENCE_MASK_MASK) j then
    let s := s.putBit (Reg.FENCE_MASK p) j true
    .next ((s.failCollectives p St.NDX_MEMBER_FENCED (fun c => s.needs c j)).evaluateGroup p)
  else .next s

/-- FENCED_RECEIVE (R346): the partition becomes ISOLATED for its group. -/
def execFencedReceive (p : Nat) (s : State) : Out :=
  match s.takeInbox p 5 with
  | (some _, s) => .next (if s.groupIsolated p || s.groupState p == 4 then s else s.leaveGroup p 3 St.NDX_FENCED)
  | (none, s) => .next s

/-- CONTROL_ACK_RECEIVE (R333): the acknowledged message is freed, and the next that waited is sent. -/
def execControlAckReceive (p : Nat) (s : State) : Out :=
  match s.takeInbox p 6 with
  | (some e, s) =>
    let x := s.peerAt p e.src
    let seq := leAt e.body 0 8
    .next ((s.putPeer p e.src { x with unacked := x.unacked.filter (fun m => m.seq != seq) }).fillWindow p e.src)
  | (none, s) => .next s

/-- Time between retransmissions of the oldest unacknowledged message, and how often it is retransmitted (R333). -/
def retryEvery : Nat := 1000000
def retryLimit : Nat := 4

/-- CONTROL_RETRANSMIT (R333): the oldest unacknowledged message goes out again, or is discarded after four retransmissions. -/
def execControlRetransmit (p j : Nat) (s : State) : Out :=
  let x := s.peerAt p j
  match x.unacked with
  | [] => .next s
  | m :: rest =>
    let due := match m.sentAt with
      | some t => decide (t + retryEvery ≤ s.now)
      | none => false
    if !s.ready || !due || s.groupIsolated p then .next s
    else if retryLimit ≤ m.retries then
      let s := (s.putPeer p j { x with unacked := rest }).count (Reg.GROUP_COUNTER p 4)
      .next ((s.post St.NDX_CTRL_LOST).fillWindow p j)
    else
      let s := s.putPeer p j { x with unacked := { m with retries := m.retries + 1, sentAt := some s.now } :: rest }
      .next ((s.post St.NDX_CTRL_RETRANSMIT).transmit p j m.type m.seq m.body)

/-! ### Reading a plan (R336) -/

def parseRow (b : List Byte) : TrickRow :=
  let w0 := leAt b 0 8
  let w1 := leAt b 8 8
  let kind : RowKind := match bitsAt w0 16 2 with
    | 0 => .pad
    | 1 => .decode
    | 2 => .draft
    | _ => .prefill
  ⟨bitsAt w0 0 16, kind, bitsAt w0 32 24, bitsAt w1 0 32, bitsAt w1 32 14, if bitOf w1 46 then some (bitsAt (leAt b 16 8) 0 48) else none,
    bitOf w1 47⟩

def parseActions : Nat → List Byte → List PrefixAction
  | 0, _ => []
  | n + 1, b =>
    let op := leAt b 0 1
    let node := leAt b 1 3
    let parent := leAt b 4 3
    let hr := leAt b 8 2
    let depth := leAt b 10 3 % 2 ^ 20
    match op with
    | 1 => .insert node parent hr depth ((List.range 16).map (fun i => leAt b (16 + 4 * i) 4)) :: parseActions n (b.drop 80)
    | 2 => .hit node hr depth :: parseActions n (b.drop 16)
    | 3 => .evict node depth :: parseActions n (b.drop 16)
    | 4 => .demote node (leAt b 16 8) depth :: parseActions n (b.drop 24)
    | 5 => .promote node depth :: parseActions n (b.drop 16)
    | 6 => .adopt node parent depth (leAt b 16 8) :: parseActions n (b.drop 24)
    | _ => .toFlash node depth :: parseActions n (b.drop 16)

/-- One message of a plan. -/
def parsePlan (b : List Byte) : TrickPlan :=
  let n := fun i => leAt b (8 + 2 * i) 2
  let at1 := 32 + 24 * n 0
  let at2 := at1 + 4 * n 1
  let at3 := at2 + 4 * n 2
  let at4 := at3 + 16 * n 3
  let at5 := at4 + 16 * n 4
  { trick := leAt b 0 6, slot := leAt b 6 1 % 8, bucket := leAt b 6 1 / 16
    rows := (List.range (n 0)).map (fun i => parseRow (b.drop (32 + 24 * i)))
    news := {
      verify := (List.range (n 1)).map (fun i => (leAt b (at1 + 4 * i) 2, leAt b (at1 + 4 * i + 2) 1 % 16, leAt b (at1 + 4 * i + 2) 1 / 16))
      ends := (List.range (n 2)).map (fun i => (leAt b (at2 + 4 * i) 2, leAt b (at2 + 4 * i + 2) 2))
      starts := (List.range (n 3)).map (fun i =>
        let o := at3 + 16 * i
        (leAt b o 2, leAt b (o + 2) 2, leAt b (o + 4) 1 % 16, leAt b (o + 5) 3, leAt b (o + 8) 8))
      parks := (List.range (n 4)).map (fun i => (leAt b (at4 + 16 * i) 2, leAt b (at4 + 16 * i + 8) 8))
      actions := parseActions (n 5) (b.drop at5) }
    embedBytes := leAt b 20 4 }

/-- Parts joined in order. -/
def joinPlans : List TrickPlan → TrickPlan → TrickPlan
  | [], t => t
  | u :: rest, t => joinPlans rest { t with
      rows := t.rows ++ u.rows
      news := ⟨t.news.verify ++ u.news.verify, t.news.ends ++ u.news.ends, t.news.starts ++ u.news.starts, t.news.parks ++ u.news.parks,
        t.news.actions ++ u.news.actions⟩ }

/-- The plan whose every part has arrived, if any: the oldest (R336). -/
def State.readyPlan (s : State) (p : Nat) : Option (TrickPlan × Nat) :=
  let msgs := s.ndx.inbox.filter (fun e => e.part == p && e.type == 1)
  match msgs.head? with
  | none => none
  | some m =>
    let trick := leAt m.body 0 6
    let sl := leAt m.body 6 1 % 8
    let parts := msgs.filter (fun e => leAt e.body 0 6 == trick && leAt e.body 6 1 % 8 == sl)
    let n := leAt m.body 7 1 / 16 + 1
    let ordered := (List.range n).filterMap (fun i => parts.find? (fun e => leAt e.body 7 1 % 16 == i))
    if ordered.length < n then none
    else match ordered with
      | [] => none
      | a :: rest => some (joinPlans (rest.map (fun e => parsePlan e.body)) (parsePlan a.body), n)

/-! ### A follower's index (R222 to R231) -/

def someNode (i : Nat) : Option Nat := if i = nullNode then none else some i

/-- Demotions of a plan, one per extent, with their nodes. -/
def demotionsOf (l : List PrefixAction) : List (Nat × List Nat) :=
  l.foldl (fun acc a => match a with
    | .demote node ext _ => if acc.any (fun e => e.1 == ext) then acc.map (fun e => if e.1 = ext then (e.1, e.2 ++ [node]) else e) else acc ++ [(ext, [node])]
    | _ => acc) []

/-- A follower lacks a node of a hit (R224): the request is named in its trick report. -/
def State.prefixMissing (p sl : Nat) (h : HandRecord) (s : State) : State :=
  ((s.putHand p { h with noPage := true }).updSlot sl (fun x => { x with
    toEnd := x.toEnd ++ [(h.index, St.PFX_FOLLOWER_PREFIX_LOST)] })).post St.PFX_FOLLOWER_PREFIX_LOST

/-- A follower's page table on a C-die takes the row of a node of a hit (R224), in place of the entries that begin where it begins or later; without a
page-table block the request has no page (R202). -/
def State.hitEntry (p d : Nat) (e : KvEntry) (h : HandRecord) (s : State) : HandRecord × State :=
  let t := h.table d
  if t.entries.any (fun x => x.row == e.row) then (h, s)
  else
    let gone := t.entries.filter (fun x => decide (e.basePos ≤ x.basePos))
    let s := s.overList gone (fun x u => u.dropRef x.row)
    let t := { t with entries := t.entries.filter (fun x => decide (x.basePos < e.basePos)) }
    match (s.addRef e.row).appendEntry h.desc.slot t e with
    | some (t, s) => (h.putTable t, s)
    | none =>
      ({ h.putTable t with noPage := true }, ((s.countExhaust p).updSlot h.desc.slot (fun x => { x with
        toEnd := x.toEnd ++ [(h.index, St.KVC_FOLLOWER_NO_PAGE)] })).post St.KVC_FOLLOWER_NO_PAGE)

/-- Apply one prefix action to the member's own index, rows and Talon (R222); `all` is the plan's list. -/
def State.applyAction (p sl : Nat) (all : List PrefixAction) (a : PrefixAction) (s : State) : State :=
  match a with
  | .insert node parent hr depth tokens =>
    let h := s.handAt p hr
    let rows := match h with
      | some h => if handLive h then h.tables.filterMap (fun t => (t.covering (16 * depth)).map (fun e => (t.die, e.row))) else []
      | none => []
    let good := rows.length == (s.partDies p).length
    let variant := match h with
      | some h => h.desc.variant
      | none => 0
    let s := if (s.nodeAt p node).isSome then s.evictSubtree p node else s
    let n : PfxNode := ⟨someNode parent, if good then .resident else .lostNode, sl, variant, depth, none, 0, s.poweredS % 2 ^ 32, false,
      if good then rows else [], 0, tokens⟩
    let s := (s.overList n.rows (fun r t => t.addRef r.2)).linkNode p node n
    s.updHand p hr (fun g => { g with path := g.path ++ [node] })
  | .hit node hr _ =>
    (match s.nodeAt p node, s.handAt p hr with
     | some n, some h =>
       let usable := n.state == .resident || n.state == .demoting
       if !usable then
         s.prefixMissing p sl h
       else
         let s := s.updNode p node (fun x => { x with lastUse := s.poweredS % 2 ^ 32, hits := min (x.hits + 1) 0xFFFF })
         let s := s.count (Reg.HIT_GRANULES p)
         let r := n.rows.foldl (fun (acc : HandRecord × State) r =>
           match acc.2.nodeEntry p r.1 n.depth node with
           | none => acc
           | some e => acc.2.hitEntry p r.1 e acc.1) (h, s)
         r.2.putHand p { r.1 with path := r.1.path ++ [node] }
     | _, some h => s.prefixMissing p sl h
     | _, none => s)
  | .evict node _ => s.evictNode p node
  | .demote _ ext _ =>
    if (s.extentAt ext).isSome then s
    else
      match (demotionsOf all).find? (fun e => e.1 == ext) with
      | none => s
      | some (_, nodes) =>
        let rows := ((nodes.head?.bind (s.nodeAt p)).map (fun n => n.rows)).getD []
        let s := if s.talonUp then s.startDemotion p (some ext) rows nodes else s
        if (s.extentAt ext).isSome then s else s.overList nodes (fun i t => t.markLost p i)
  | .promote node _ =>
    (match s.nodeAt p node with
     | some n =>
       if n.state ≠ .flash then s
       else
         let s := s.startPromotion p n.slot n.extent
         (match s.nodeAt p node with
          | some m => if m.state = .flash then s.markLost p node else s
          | none => s)
     | none => s)
  | .adopt node parent depth ext =>
    let own := (s.extentAt ext).filter (fun e => e.committed && e.part == p)
    let s := if (s.nodeAt p node).isSome then s.evictSubtree p node else s
    (match own with
     | some e => s.linkNode p node ⟨someNode parent, .flash, sl, e.variant, depth, none, 0, s.poweredS % 2 ^ 32, true, [], ext,
         granuleTokens e.tokens (depth - e.firstDepth)⟩
     | none => s.linkNode p node ⟨someNode parent, .lostNode, sl, 0, depth, none, 0, s.poweredS % 2 ^ 32, false, [], 0, []⟩)
  | .toFlash node _ =>
    (match s.nodeAt p node with
     | some n =>
       if n.flashValid then (s.putNode p node { n with state := .flash, rows := [] }).overList n.rows (fun r u => u.dropRef r.2)
       else s.markLost p node
     | none => s)

/-! ### The plan on a follower (R144, R145, R162, R165, R197, R201) -/

/-- The slot of a follower stops (R144, R162): its records are freed; the host hears from the lead. -/
def State.failFollower (p sl : Nat) (s : State) : State :=
  let s := s.overList (s.handsOf p sl) (fun h t => t.freeHand p h.index)
  let s := s.updSlot sl (fun x => { x with inFlight := none, event := false, toEnd := [], parkReports := [], waitingPlan := none })
  ((s.wrF (Reg.SLOT_CTRL sl) Fld.SLOT_CTRL_STATE 3).showServing p).post St.SRV_SLOT_FAILED

/-- The lead has abandoned the previous trick: it verifies no decode request of it, or plans a chunk again (R165, R172). -/
def State.wasAbandoned (s : State) (p : Nat) (f : TrickInFlight) (t : TrickPlan) : Bool :=
  let ended := fun i => t.news.ends.any (fun e => e.1 == i)
  (rowHands f.rows).any (fun i =>
    !ended i &&
    (if f.rows.any (fun r => r.hr == i && r.kind == .decode) then !t.news.verify.any (fun v => v.1 == i)
     else match s.handAt p i with
       | some h => t.rows.any (fun r => r.hr == i && decide (r.kind = .prefill ∧ r.position ≤ h.startPos))
       | none => false))

/-- A follower that lacks a row ends the request and names it in its report (R202). -/
def State.noPage (p sl i : Nat) (s : State) : State :=
  ((s.updHand p i (fun h => { h with noPage := true })).updSlot sl (fun x => { x with
    toEnd := x.toEnd ++ [(i, St.KVC_FOLLOWER_NO_PAGE)] })).post St.KVC_FOLLOWER_NO_PAGE

/-- Commit or roll back one request of the previous trick (R165, R197, R208). -/
def State.followerCommit (p sl : Nat) (f : TrickInFlight) (t : TrickPlan) (lost : Bool) (i : Nat) (s : State) : State :=
  match s.handAt p i with
  | none => s
  | some h =>
    if !handLive h then s
    else if lost then (let r := s.kvRollback p h; r.2.putHand p r.1)
    else
      let dec := f.rows.any (fun r => r.hr == i && r.kind == .decode)
      let n := if dec then ((t.news.verify.find? (fun v => v.1 == i)).map (fun v => v.2.1)).getD 0 else h.tentative
      let h := if dec then h else { h with promptDone := h.promptDone + n }
      let r := s.kvSettle p n dec h
      let s := match r.2.1.kvExtend p r.2.2 r.1 with
        | some (h, u) => u.putHand p h
        | none => ((r.2.1.putHand p r.1).countExhaust p).noPage p sl i
      match (s.handAt p i).bind (fun g => g.dropImage) with
      | some x => (s.updHand p i (fun g => { g with dropImage := none })).dropParked x
      | none => s

/-- A request of the plan's start list (R336): a new admission, or a resumption. -/
def State.followerStart (p sl : Nat) (e : Nat × (Nat × (Nat × (Nat × Nat)))) (s : State) : State :=
  let (i, kitty, log2p, hit, handle) := e
  let s := if (s.handAt p i).isSome then s.freeHand p i else s
  let d : ReqDesc := { opcode := 1, slot := sl, cls := 0, hostSpace := false, variant := 0, hostTag := 0, promptAddr := 0, target := 0
                       promptLen := hit, maxNew := 0, temperature := 0, topK := 0, topP := 0, deadlineMs := 0, seed := 0, stop0 := 0
                       stop1 := 0, mmAddr := 0, segs := [] }
  let h := { s.newHand p i kitty d 0 s.now with log2p := log2p, promptDone := hit, position := hit, startPos := hit }
  s.addHand p (if handle = 0 then h else { h with phase := .resuming, parkHandle := handle, awaiting := [s.groupMember p] })

/-- A parking that the plan starts (R174): the member writes its own part under the lead's handle. -/
def State.followerPark (p sl : Nat) (e : Nat × Nat) (s : State) : State :=
  match s.handAt p e.1 with
  | none => s
  | some h =>
    let n := s.parkBytesOf h
    match (if s.talonUp && s.parkRoom p n then s.place .prefixZone 0 (pagesFor n) else none) with
    | none => (s.postAt 0x6000 St.TLN_ZONE_FULL).updSlot sl (fun x => { x with parkReports := x.parkReports ++ [(e.1, St.TLN_ZONE_FULL)] })
    | some (frags, s) =>
      let (h', s) := s.leaseHand { h with drafts := [], parkHandle := e.2 }
      let img : ParkedImage := {
        handle := e.2, part := p, complete := false, lost := false, hand := h', imageTag := (s.slotServing sl).imageTag
        groupSize := s.groupSize p, member := s.groupMember p, dies := (s.partDies p).length, layers := s.slotLayers sl
        kvHeads := s.kvHeads sl, headDim := s.headDim sl, bytes := n, body := [], fragments := frags }
      (({ s with talon := { s.talon with parked := s.talon.parked ++ [img] } }).showShare p).putHand p
        { h' with phase := .parking, awaiting := [s.groupMember p], outcome := none }

/-- A request that the lead has ended: its references are released at the plan's arrival (R165, R197). -/
def State.followerEnd (p : Nat) (e : Nat × Nat) (s : State) : State :=
  match s.handAt p e.1 with
  | none => s
  | some h => (if h.parkHandle ≠ 0 ∧ h.phase = .parking ∧ e.2 ≠ St.SRV_PARKED then s.dropParked h.parkHandle else s).freeHand p e.1

/-- Rows of the trick for one request: TENTATIVE, START_POSITION and the rows it reserves (R196, R201). -/
def State.followerRows (p sl : Nat) (rows : List TrickRow) (i : Nat) (s : State) : State :=
  match s.handAt p i with
  | none => s
  | some h =>
    let mine := rows.filter (fun r => r.hr == i)
    let dec := mine.any (fun r => r.kind == .decode)
    let h := { h with
      desc := { h.desc with variant := (mine.head?.map (fun r => r.variant)).getD 0 }, phase := if dec then .decode else .prefill
      startPos := if h.noPage then ((mine.head?.map (fun r => r.position)).getD h.position) else h.position }
    if dec || h.noPage then s.putHand p { h with tentative := mine.length, written := [] }
    else
      match s.kvReserve p h mine.length with
      | some (h, s) => s.putHand p { h with tentative := mine.length, written := [] }
      | none => ((s.putHand p { h with tentative := mine.length, written := [] }).countExhaust p).noPage p sl i

/-- Embedding rows of a plan that have arrived (R149). -/
def State.embedsOf (s : State) (p trick : Nat) : List (Nat × List Byte) :=
  (s.ndx.embeds.filter (fun e => e.1 == p && e.2.1 == trick)).map (fun e => e.2.2)

/-- Write the embedding rows at the addresses of their rows. DESIGN CHOICE: the spec names no place for them on a follower. -/
def State.writeEmbeds (p sl trick : Nat) (rows : List TrickRow) (s : State) : State :=
  let l := s.embedsOf p trick
  let n := 2 * s.rdF (Reg.SLOT_HIDDEN sl) Fld.SLOT_HIDDEN_HIDDEN
  let whole := l.foldl (fun (m : List Host.Cell) e => cellsWrite 0 m e.1 e.2) []
  let s := (rows.filterMap (fun r => r.embed)).zipIdx.foldl (fun t e =>
    if t.inTaskSpace p e.1 n then (t.blockWrite e.1 (cellsRead 0 whole (n * e.2) n)).2 else t) s
  { s with ndx := { s.ndx with embeds := s.ndx.embeds.filter (fun e => !(e.1 == p && e.2.1 == trick)) } }

/-- A trick that this member cannot run is reported as failed (R165, R172). -/
def State.reportFailed (p sl trick st : Nat) (s : State) : State :=
  let x := s.slotServing sl
  let s := s.sendControl p (s.groupLead p) 2 (reportBody trick sl st x.toEnd x.parkReports)
  let s := (((s.setTrick sl trick).count (Reg.ABANDONED sl)).post St.SRV_TRICK_ABANDONED).freeRows sl
  s.putSlot sl { x with toEnd := [], parkReports := [] }

/-- Hand record indices that a plan names, in any of its lists (R144, R336). -/
def planHands (t : TrickPlan) : List Nat :=
  rowHands t.rows ++ t.news.verify.map (fun e => e.1) ++ t.news.ends.map (fun e => e.1) ++ t.news.starts.map (fun e => e.1)
    ++ t.news.parks.map (fun e => e.1)
    ++ t.news.actions.filterMap (fun a => match a with
      | .insert _ _ hr _ _ => some hr
      | .hit _ hr _ => some hr
      | _ => none)

/-- The trick of a plan: its rows, its row table and template, and its submission (R160, R162). -/
def State.runPlan (p : Nat) (t : TrickPlan) (s : State) : State :=
  let sl := t.slot
  let s := (s.overList (rowHands t.rows) (fun i u => u.followerRows p sl t.rows i)).showServing p
  match s.globalRead 3 (s.templateBase sl) 176 with
  | (some st, _, s) => s.reportFailed p sl t.trick st
  | (none, table, s) =>
    match (bucketsOf table).find? (fun x => x.1 == t.bucket) with
    | none => s.failFollower p sl
    | some (i, addr, bytes) =>
      match s.globalRead 3 addr (min bytes 655424) with
      | (some st, _, s) => s.reportFailed p sl t.trick st
      | (none, template, s) =>
        match s.writeRows (s.rowTable sl t.trick) (bucketRows i) 0 t.rows with
        | (some st, s) => s.reportFailed p sl t.trick st
        | (none, s) =>
          let s := s.writeEmbeds p sl t.trick t.rows
          let s := s.updSlot sl (fun x => { x with inFlight := some ⟨t.trick, i, t.rows, s.now, none, []⟩ })
          s.submitCopy p sl t.trick template

/-- A plan has rows of a request whose image this member has still to read (R175). -/
def State.imagesPending (s : State) (p : Nat) (t : TrickPlan) : Bool :=
  (rowHands t.rows).any (fun i => match s.handAt p i with
    | some h => h.phase == .resuming && !h.awaiting.isEmpty
    | none => false)

/-- Run a plan whose lists have been applied, once every image that its rows need has been read (R175). -/
def State.runWhenRead (p : Nat) (t : TrickPlan) (s : State) : State :=
  if s.imagesPending p t then s.updSlot t.slot (fun x => { x with waitingPlan := some t })
  else (s.updSlot t.slot (fun x => { x with waitingPlan := none })).runPlan p t

/-- Apply a whole plan: the previous trick's commit, ends, starts, parks, prefix actions, then the trick itself. -/
def State.applyPlan (p : Nat) (t : TrickPlan) (s : State) : State :=
  let sl := t.slot
  let f := (s.slotServing sl).inFlight
  if (planHands t).any (fun i => decide (s.handShare p ≤ i)) then s.failFollower p sl
  else
    let s := match f with
      | some f =>
        let lost := s.wasAbandoned p f t
        (s.overList (rowHands f.rows) (fun i u => u.followerCommit p sl f t lost i)).updSlot sl (fun x => { x with inFlight := none })
      | none => s
    let s := (s.freeRows sl).dropLostNodes p
    let s := s.overList t.news.ends (fun e u => u.followerEnd p e)
    let s := s.overList t.news.starts (fun e u => u.followerStart p sl e)
    let s := s.overList t.news.parks (fun e u => u.followerPark p sl e)
    let s := s.overList t.news.actions (fun a u => u.applyAction p sl t.news.actions a)
    (s.showServing p).runWhenRead p t

/-- TRICK_PLAN_RECEIVE (R145, R149, R336): every part of a plan and its embedding rows have arrived. -/
def execTrickPlanReceive (p : Nat) (upsets : List Upset) (s : State) : Out :=
  let s := s.upset upsets
  match s.readyPlan p with
  | none => .next s
  | some (t, _) =>
    let got := ((s.embedsOf p t.trick).map (fun e => e.2.length)).sum
    if got < t.embedBytes then .next s
    else
      let s := { s with ndx := { s.ndx with inbox := s.ndx.inbox.filter (fun e =>
        !(e.part == p && e.type == 1 && leAt e.body 0 6 == t.trick && leAt e.body 6 1 % 8 == t.slot)) } }
      let runs := s.partWorks p && s.slotReady t.slot && s.slotOwner t.slot == p && !s.slotLead t.slot
      .next (if runs && t.trick == s.trickOf t.slot + 1 && (s.slotServing t.slot).waitingPlan.isNone then s.applyPlan p t else s)

/-- A follower has read the image of a resumed request, or lacks it: it then names the request in its report, and its descriptors write nothing (R175). -/
def State.followerResumed (p : Nat) (h : HandRecord) (st : Nat) (s : State) : State :=
  let sl := h.desc.slot
  let s := if stCode st = 0 then
      s.updHand p h.index (fun g => { g with phase := if g.promptDone < g.desc.promptLen then .prefill else .decode })
    else
      (s.updHand p h.index (fun g => { g with noPage := true })).updSlot sl (fun x => { x with toEnd := x.toEnd ++ [(h.index, st)] })
  match (s.slotServing sl).waitingPlan with
  | some t => s.runWhenRead p t
  | none => s

/-- RESUME_READ_COMPLETE (R175, R237, R245): the image of a resumed request has been read into new rows and a new kitty entry. -/
def execResumeReadComplete (p hr : Nat) (cws : List Codeword) (s : State) : Out :=
  match s.handAt p hr with
  | none => .next s
  | some h =>
    if h.phase ≠ .resuming ∨ h.awaiting.isEmpty ∨ !s.partWorks p ∨ !s.talonUp then .next s
    else
      let s := s.ladder cws
      let img := if s.resumeFits p h.desc.slot h.parkHandle then (s.parkedAt h.parkHandle).filter (fun i => !i.lost) else none
      let done : HandRecord × Nat × State := match img with
        | none => (h, St.SRV_RESUME_FAILED, s)
        | some img =>
          let s := s.countReads img.fragments
          let g := resumedHand img h
          match State.resumeRows h.desc.slot ((s.partDies p).zip (img.hand.tables)) g s with
          | none => (h, St.SRV_RESUME_FAILED, s)
          | some (g, s) => (g, 0x3000, s.fillResumed p img g)
      let s := done.2.2.putHand p { done.1 with awaiting := [], outcome := some done.2.1 }
      .next (if s.slotLead h.desc.slot then s.idleBoundary p h.desc.slot else s.followerResumed p done.1 done.2.1)

/-! ### Reports on the lead (R164, R174, R222, R337, R338) -/

def pairsAt (b : List Byte) (off n : Nat) : List (Nat × Nat) :=
  (List.range n).map (fun i => (leAt b (off + 4 * i) 2, leAt b (off + 4 * i + 2) 2))

/-- TRICK_REPORT_RECEIVE (R164, R337): the last missing report makes the boundary. -/
def execTrickReportReceive (p : Nat) (badHands : List (Nat × Nat)) (upsets : List Upset) (s : State) : Out :=
  let s := s.upset upsets
  match s.takeInbox p 2 with
  | (none, s) => .next s
  | (some e, s) =>
    let sl := leAt e.body 6 1 % 8
    if !(s.partWorks p && s.slotReady sl && s.slotOwner sl == p && s.slotLead sl) then .next s
    else
      let n := leAt e.body 10 2
      let s := s.overList (pairsAt e.body (16 + 4 * n) (leAt e.body 12 2)) (fun x t => t.memberParked p x.1 e.src x.2)
      match (s.slotServing sl).inFlight with
      | none => .next s
      | some f =>
        if f.num ≠ leAt e.body 0 6 ∨ f.reports.any (fun r => r.1 == e.src) then .next s
        else
          let s := s.updSlot sl (fun x => { x with
            inFlight := some { f with reports := f.reports ++ [(e.src, (leAt e.body 8 2, pairsAt e.body 16 n))] } })
          .next (if s.trickDone p sl then s.boundary p sl badHands else s)

/-- PREFIX_REPORT_RECEIVE (R222, R226, R338): the follower's credit and space are noted, and its LOST nodes are evicted. -/
def execPrefixReportReceive (p : Nat) (s : State) : Out :=
  match s.takeInbox p 3 with
  | (none, s) => .next s
  | (some e, s) =>
    if !(s.partWorks p && s.groupMember p == s.groupLead p) then .next s
    else
      let s := s.putPeer p e.src { s.peerAt p e.src with
        creditMiB := toSigned 32 (leAt e.body 0 4), parkFreeMiB := leAt e.body 4 4 }
      .next (s.overList ((List.range (leAt e.body 8 2)).map (fun i => leAt e.body (16 + 4 * i) 3)) (fun i t =>
        if (t.nodeAt p i).isSome then t.evictSubtree p i else t))

end Sys2Proof.Machine
end

