-- ==== Sys2Proof/Machine/Collectives.lean ====
section
/-! DEFINITION. Machine/Collectives.lean: the collective descriptor (R340), instances, the exchange and the reduction (R341 to R343),
and data transfers that arrive (R335). -/
namespace Sys2Proof.Machine

def collCode : CollOp → Nat
  | .allReduce => 0
  | .allGather => 1
  | .reduceScatter => 2
  | .send => 3
  | .recv => 4

/-- Bytes of an element (R340): BF16, FP32, bytes. -/
def collBytes (fmt : Nat) : Nat := if fmt = 0 then 2 else if fmt = 1 then 4 else 1

/-- Bytes of this member's contribution. -/
def Collective.bytes (c : Collective) : Nat := c.count * collBytes c.fmt

/-- Elements of chunk j of SIZE (R341): first, and one past the last. -/
def chunkBounds (n size j : Nat) : Nat × Nat := (j * n / size, (j + 1) * n / size)

/-- A byte range of a chunk within the whole vector. -/
def Collective.chunk (c : Collective) (size j : Nat) : Nat × Nat :=
  let b := chunkBounds c.count size j
  (b.1 * collBytes c.fmt, (b.2 - b.1) * collBytes c.fmt)

/-- A C-die's address of a die-local task-space offset. -/
def dieAddr (d off : Nat) : Nat := d * hbmRegion + off

/-- The rules of R340 for a descriptor issued by a core: its task's rank-0 core, once per collective task, fields in range, source
and destination inside the task space of every C-die of the partition. -/
def State.collOk (s : State) (n p : Nat) (t : Task) (u : Nat) (op : CollOp) (d : CollDesc) : Bool :=
  let sized := op == .allReduce || op == .reduceScatter
  let pair := op == .send || op == .recv
  let bytes := d.count * collBytes d.fmt
  let src := if op = .recv then 0 else bytes
  let out := match op with
    | .allGather => bytes * s.groupSize p
    | .reduceScatter =>
      let b := chunkBounds d.count (s.groupSize p) (s.groupMember p)
      (b.2 - b.1) * collBytes d.fmt
    | .send => 0
    | _ => bytes
  t.desc.cls == .collective && t.cores.head? == some n && !s.ndx.issued.contains (u, t.desc.id) && !d.reserved
    && decide (d.fmt ≤ 2 ∧ 1 ≤ d.count ∧ d.count < 2 ^ 32) && !(sized && d.fmt == 2)
    && (!pair || (s.otherMembers p).contains d.peer)
    && (!d.steer || (op == .allReduce && d.fmt == 0 && d.slot < 8
          && s.rdF (Reg.SLOT_HIDDEN d.slot) Fld.SLOT_HIDDEN_HIDDEN != 0
          && d.count % s.rdF (Reg.SLOT_HIDDEN d.slot) Fld.SLOT_HIDDEN_HIDDEN == 0))
    && d.src % 64 == 0 && d.dst % 64 == 0
    && (s.partDies p).all (fun c => decide (d.src + src ≤ s.taskEnd c ∧ d.dst + out ≤ s.taskEnd c))

/-- Data held for an instance before it was issued becomes its own (R335). -/
def State.takeEarly (p trick coll : Nat) (s : State) : List DataTransfer × State :=
  let mine := fun (e : Nat × DataTransfer) => e.1 == p && e.2.trick == trick && e.2.collId == coll
  ((s.ndx.early.filter mine).map (fun e => e.2), { s with ndx := { s.ndx with early := s.ndx.early.filter (fun e => !mine e) } })

/-- A received transfer agrees with the member's own descriptor (R335, R343). -/
def agrees (c : Collective) (d : DataTransfer) : Bool :=
  let op := match c.op with
    | .recv => 3
    | o => collCode o
  d.op == op && d.fmt == c.fmt && d.count == c.count && d.steer == c.steer

/-- Give an instance data: a header that disagrees ends it with COLL_MISMATCH (R343). -/
def State.giveData (c : Collective) (d : DataTransfer) (s : State) : State :=
  if agrees c d then s.updCollective c.uid c.tid (fun x => { x with data := x.data ++ [d] })
  else s.failCollective c St.NDX_COLL_MISMATCH

def State.collAt (s : State) (uid tid : Nat) : Option Collective := s.ndx.collectives.find? (fun c => c.uid == uid && c.tid == tid)

/-- A core issues a collective descriptor in a stream queue (R340, R341, R343). -/
def State.issueCollective (n q : Nat) (op : CollOp) (d : CollDesc) (s : State) : State :=
  match (s.coreAt n).task with
  | none => s
  | some (u, tid) =>
    match s.taskAt u tid with
    | none => s
    | some (g, t) =>
      let p := g.part
      if !s.collOk n p t u op d then s.rejectDescriptor n
      else
        let s := { s with ndx := { s.ndx with issued := s.ndx.issued ++ [(u, tid)] } }
        let c : Collective := ⟨p, u, tid, n, q, g.trick, t.desc.collId, op, d.fmt, d.peer, d.steer, d.layer, d.slot, d.count, d.src, d.dst,
          s.now, false, false, t.abortForm, [], none, [], s.snoopers n q⟩
        let s := { s with ndx := { s.ndx with collectives := s.ndx.collectives ++ [c] } }
        let fenced := s.rdF (Reg.FENCE_MASK p) Fld.FENCE_MASK_MASK
        if !s.groupActive p then s.failCollective c St.NDX_GROUP_NOT_ACTIVE
        else if (List.range 16).any (fun j => bitOf fenced j && s.needs c j) then s.failCollective c St.NDX_MEMBER_FENCED
        else
          let (early, s) := s.takeEarly p c.trick c.collId
          early.foldl (fun t e => match t.collAt u tid with
            | some c => t.giveData c e
            | none => t) (s.placeNext p)

/-! ### The exchange -/

/-- Read this member's sources (R340): every C-die for a reduction, the lowest one otherwise; zeros in abort form (R343). -/
def State.readSources (c : Collective) : List Nat → State → Except Nat (List (List Byte)) × State
  | [], s => (.ok [], s)
  | d :: rest, s =>
    if c.abort then
      match s.readSources c rest with
      | (.ok l, s) => (.ok (List.replicate c.bytes 0 :: l), s)
      | (.error e, s) => (.error e, s)
    else
      match s.hbmRead 3 (dieAddr d c.src) c.bytes with
      | (some st, _, s) => (.error st, s)
      | (none, b, s) =>
        match s.readSources c rest with
        | (.ok l, s) => (.ok (b :: l), s)
        | (.error e, s) => (.error e, s)

/-- The header of a transfer of an instance (R335). -/
def Collective.transfer (c : Collective) (phase chunk : Nat) (abort : Bool) (b : List Byte) : DataTransfer :=
  ⟨0, if c.op = .send then 2 else 1, abort, c.steer, collCode c.op, c.fmt, phase, c.trick, c.collId, c.count, chunk, 0, c.layer, c.slot, b, 0⟩

/-- First phase of an instance (R341). DESIGN CHOICE: a member's partial contributions to a chunk travel one C-die after another,
each from OFFSET 0 of the chunk (R335), so that the reducing member can add them unrounded in the order of R342. -/
def State.sendFirst (c : Collective) (s : State) : State :=
  let p := c.part
  let size := s.groupSize p
  match c.op with
  | .recv => s
  | .send => s.sendData p c.peer (c.transfer 0 0 c.abort (c.own.headD []))
  | .allGather => s.overList (s.otherMembers p) (fun j t => t.sendData p j (c.transfer 0 0 c.abort (c.own.headD [])))
  | _ => s.overList (s.otherMembers p) (fun j t =>
      let r := c.chunk size j
      t.overList c.own (fun b u => u.sendData p j (c.transfer 0 j c.abort ((b.drop r.1).take r.2))))

/-- Pieces in order of OFFSET, without gaps from 0. -/
def joinPieces (l : List DataTransfer) : Nat → Nat → List Byte
  | 0, _ => []
  | fuel + 1, off =>
    match l.find? (fun d => d.offset == off && !d.bytes.isEmpty) with
    | some d => d.bytes ++ joinPieces l fuel (off + d.bytes.length)
    | none => []

/-- How many transfers of a list a member sent before one of them: TRANSFER_IDs count on modulo 2^16. -/
def sentBefore (l : List DataTransfer) (d : DataTransfer) : Nat :=
  (l.filter (fun e => e.id != d.id && decide ((d.id + 2 ^ 16 - e.id) % 2 ^ 16 < 2 ^ 15))).length

/-- Bytes received from a member in a phase; `copy` tells contributions apart that cover the same bytes, in the order in which
they were sent. -/
def Collective.received (c : Collective) (member phase copy : Nat) : List Byte :=
  let l := c.data.filter (fun d => d.src == member && d.phase == phase)
  let mine := l.filter (fun d => sentBefore (l.filter (fun e => e.offset == d.offset)) d == copy)
  joinPieces mine mine.length 0

/-- An element of a format as FP32 (R342), and back with one rounding. -/
def toF32 (fmt v : Nat) : Nat := if fmt = 0 then v * 2 ^ 16 else v
def ofF32 (fmt v : Nat) : Nat := if fmt = 0 then (roundArith .bf16 (f32 v)).bits else v

/-- Add contributions element by element in the order given, in FP32, and round once to the format (R342). -/
def reduceChunks (fmt n : Nat) (contribs : List (List Byte)) : List Byte :=
  let e := collBytes fmt
  (List.range n).flatMap (fun i =>
    let vs := contribs.map (fun b => toF32 fmt (leAt b (e * i) e))
    let sum := match vs with
      | [] => 0
      | v :: rest => rest.foldl f32Add v
    leBytes e (ofF32 fmt sum))

/-- A member's contributions to this member's chunk, one per C-die; none while bytes are missing. -/
def State.contributions (s : State) (c : Collective) (j : Nat) : Option (List (List Byte)) :=
  let r := c.chunk (s.groupSize c.part) (s.groupMember c.part)
  if j = s.groupMember c.part then some (c.own.map (fun b => (b.drop r.1).take r.2))
  else
    let parts := (List.range (s.partDies c.part).length).map (c.received j 0)
    if parts.all (fun b => b.length == r.2) then some parts else none

/-- A contribution to this member's chunk arrived in abort form, or its own is (R343). -/
def State.chunkAborted (_ : State) (c : Collective) : Bool := c.abort || c.data.any (fun d => d.phase == 0 && d.abort)

/-- Reduce this member's chunk once every contribution is there; an ALL_REDUCE then distributes it (R341, R343). -/
def State.tryReduce (c : Collective) (s : State) : State :=
  if c.reduced.isSome || !c.started || !(c.op == .allReduce || c.op == .reduceScatter) then s
  else
    let size := s.groupSize c.part
    let all := (List.range size).map (s.contributions c)
    if all.any (fun x => x.isNone) then s
    else
      let b := chunkBounds c.count size (s.groupMember c.part)
      let out := reduceChunks c.fmt (b.2 - b.1) (all.flatMap (fun x => x.getD []))
      let s := s.updCollective c.uid c.tid (fun x => { x with reduced := some out })
      if c.op = .allReduce then
        let flag := s.chunkAborted c
        s.overList (s.otherMembers c.part) (fun j t => t.sendData c.part j (c.transfer 1 (t.groupMember c.part) flag out))
      else s

/-- What an instance leaves at DST once everything has arrived: none while something is missing (R341). -/
def State.collResult (s : State) (c : Collective) : Option (List Byte) :=
  if !c.started then none
  else
    let size := s.groupSize c.part
    let me := s.groupMember c.part
    match c.op with
    | .send => some []
    | .recv => let b := c.received c.peer 0 0; if b.length = c.bytes then some b else none
    | .reduceScatter => c.reduced
    | .allGather =>
      let parts := (List.range size).map (fun j => if j = me then c.own.headD [] else c.received j 0 0)
      if parts.all (fun b => b.length == c.bytes) then some parts.flatten else none
    | .allReduce =>
      match c.reduced with
      | none => none
      | some own =>
        let parts := (List.range size).map (fun j => if j = me then own else c.received j 1 0)
        if parts.zipIdx.all (fun e => e.1.length == (c.chunk size e.2).2) then some parts.flatten else none

/-- COLLECTIVE_INSTANCE_START (R341): every member has issued the instance; it reads its sources and sends the first phase. -/
def State.startCollective (c : Collective) (s : State) : State :=
  if !c.placed || c.started || !s.groupActive c.part then s
  else
    let dies := match c.op with
      | .recv => []
      | .allReduce | .reduceScatter => s.partDies c.part
      | _ => (s.partDies c.part).take 1
    match s.readSources c dies with
    | (.error st, s) => s.failCollective c st
    | (.ok own, s) =>
      let c := { c with started := true, own := own }
      let s := (s.updCollective c.uid c.tid (fun _ => c)).sendFirst c
      s.tryReduce c

/-! ### Steering on the return path (R176, R177, R342) -/

/-- The vector add of a hidden row of a variant at a layer: none where the row is not steered (R176, R177). -/
def State.steerOf (sl layer variant : Nat) (s : State) : Except Nat (Option (Nat × Nat)) × State :=
  let rec_ := 4 + 4 * ((s.rdF (Reg.SLOT_GEOM sl) Fld.SLOT_GEOM_HEADS + 3) / 4)
  let entry := roundUp (s.slotLayers sl * rec_) 64
  let a := s.rd64 (Reg.VARIANT_BASE_LO sl) % 2 ^ 48 + variant * entry + layer * rec_
  match s.globalRead 3 a 4 with
  | (some st, _, s) => (.error st, s)
  | (none, b, s) => (.ok (if 4095 < leAt b 0 2 then none else some (leAt b 0 2, leAt b 2 2)), s)

/-- One row of HIDDEN BF16 elements through the adder path. -/
def State.steerRow (sl layer variant : Nat) (row : List Byte) (s : State) : Except Nat (List Byte) × State :=
  if variant = 0 then (.ok row, s)
  else
    match s.steerOf sl layer variant with
    | (.error st, s) => (.error st, s)
    | (.ok none, s) => (.ok row, s)
    | (.ok (some (i, scale)), s) =>
      match s.globalRead 3 (s.rd64 (Reg.CODEBOOK_BASE_LO sl) % 2 ^ 48 + i * row.length) row.length with
      | (some st, _, s) => (.error st, s)
      | (none, v, s) =>
        let k := decodeNum .fp16 scale
        (.ok ((List.range (row.length / 2)).flatMap (fun e =>
          let h := decodeNum .bf16 (leAt row (2 * e) 2)
          leBytes 2 (roundArith .bf16 (numAdd h (numMul k (decodeNum .bf16 (leAt v (2 * e) 2))))).bits)), s)

/-- Every row of a steered result, with the variants of the trick's row table. -/
def State.steerRows (c : Collective) (hidden : Nat) : Nat → Nat → List Byte → State → Except Nat (List Byte) × State
  | 0, _, _, s => (.ok [], s)
  | n + 1, i, b, s =>
    match s.globalRead 3 (s.rowTable c.slot c.trick + 64 * i + 8) 8 with
    | (some st, _, s) => (.error st, s)
    | (none, w, s) =>
      match s.steerRow c.slot c.layer (bitsAt (leAt w 0 8) 32 14) (b.take (2 * hidden)) with
      | (.error st, s) => (.error st, s)
      | (.ok r, s) =>
        match s.steerRows c hidden n (i + 1) (b.drop (2 * hidden)) with
        | (.error st, s) => (.error st, s)
        | (.ok t, s) => (.ok (r ++ t), s)

def State.steered (c : Collective) (b : List Byte) (s : State) : Except Nat (List Byte) × State :=
  if !c.steer then (.ok b, s)
  else
    let hidden := s.rdF (Reg.SLOT_HIDDEN c.slot) Fld.SLOT_HIDDEN_HIDDEN
    s.steerRows c hidden (b.length / (2 * hidden)) 0 b

/-- Write a result at DST on every C-die of the partition; the first failed write stops it. -/
def State.writeResult (c : Collective) (b : List Byte) : List Nat → State → Option Nat × State
  | [], s => (none, s)
  | d :: rest, s =>
    match s.hbmWrite 3 (dieAddr d c.dst) b with
    | (some st, s) => (some st, s)
    | (none, s) => s.writeResult c b rest

/-- COLLECTIVE_COMPLETE (R341 to R343): DST is written on every C-die, and the descriptor completes; where data came in abort
form, the task of a member that is not the aborting one ends COLL_ABORTED. -/
def State.completeCollective (c : Collective) (s : State) : State :=
  match s.collResult c with
  | none => s
  | some b =>
    match s.steered c b with
    | (.error st, s) => s.failCollective c st
    | (.ok b, s) =>
      match s.writeResult c b (if c.op = .send then [] else s.partDies c.part) with
      | (some st, s) => s.failCollective c st
      | (none, s) =>
        -- contexts that snoop the queue take the sources read and every C-die's copy of the result (R418)
        let s := s.snoop c.snoops (if c.abort then [] else c.own.flatten)
          (if c.op = .send then [] else (s.partDies c.part).flatMap (fun _ => b))
        if c.abort then
          (((s.dropCollective c).count (Reg.GROUP_COUNTER c.part 7)).bumpDone c.core c.queue).placeNext c.part
        else if c.data.any (fun d => d.abort) then s.failCollective c St.NDX_COLL_ABORTED
        else (((s.dropCollective c).count (Reg.GROUP_COUNTER c.part 6)).bumpDone c.core c.queue).placeNext c.part

/-! ### Commands -/

/-- Instance of a partition by TRICK and COLL_ID (R341). -/
def State.instanceOf (s : State) (p trick coll : Nat) : Option Collective :=
  s.ndx.collectives.find? (fun c => c.part == p && c.trick == trick && c.collId == coll)

def execCollectiveInstanceStart (p trick coll : Nat) (upsets : List Upset) (s : State) : Out :=
  let s := s.upset upsets
  match s.instanceOf p trick coll with
  | some c => .next (if s.partWorks p then s.startCollective c else s)
  | none => .next s

/-- COLLECTIVE_DATA_RECEIVE (R335, R343): the oldest received transfer reaches its instance, is held for one not yet issued, or is
dropped as late; embedding rows are kept for their plan. -/
def execCollectiveDataReceive (p : Nat) (s : State) : Out :=
  match if s.partWorks p then s.ndx.arrived.find? (fun e => e.1 == p) else none with
  | none => .next s
  | some (_, d) =>
    let taken := { s with ndx := { s.ndx with arrived := s.ndx.arrived.eraseP (fun e => e.1 == p) } }
    if d.kind = 3 then
      .next { taken with ndx := { taken.ndx with embeds := taken.ndx.embeds ++ [(p, (d.trick, (d.offset, d.bytes)))] } }
    else
      match s.instanceOf p d.trick d.collId with
      | some c =>
        let t := taken.giveData c d
        (match t.collAt c.uid c.tid with
         | some c => .next (t.tryReduce c)
         | none => .next t)
      | none =>
        if s.ndx.ended.contains (p, (d.trick, d.collId)) then
          .next { taken with ndx := { taken.ndx with lateDropped := taken.ndx.lateDropped + 1 } }
        else
          .next { taken with ndx := { taken.ndx with early := taken.ndx.early ++ [(p, d)] } }

/-- COLL_TIMEOUT (R343): an instance not complete within COLL_TIMEOUT_MS of its issue. -/
def execCollTimeout (p trick coll : Nat) (s : State) : Out :=
  match s.instanceOf p trick coll with
  | some c =>
    .next (if s.partWorks p ∧ c.issuedAt + s.rdF Reg.NDX_CFG Fld.NDX_CFG_COLL_TIMEOUT_MS * 1000000 ≤ s.now then s.failCollective c St.NDX_COLL_TIMEOUT else s)
  | none => .next s

end Sys2Proof.Machine
end

