-- ==== Sys2Proof/Machine/Edge.lean ====
section
/-! DEFINITION. Machine/Edge.lean: the edge engines (R260 to R265): ingest, convolution and transposed convolution with few
channels, the order of jobs, and how a job ends. -/
namespace Sys2Proof.Machine

/-! ### Descriptors (R261) -/

/-- The descriptor's words with a chained job's SRC_ADDR replaced (R264). -/
def chainWords (ws : List Nat) (dst : Nat) : List Nat := ws.zipIdx.map (fun e => if e.2 = 1 then dst else e.1)

/-- Format codes of R261. -/
def edgeFmt : Nat → Option NumFmt
  | 0 => some .uint8
  | 1 => some .int8
  | 2 => some .e4m3
  | 3 => some .bf16
  | 4 => some .fp32
  | _ => none

/-- Reserved bits that every edge job shares. -/
def edgeCommonOk (ws : List Nat) : Bool :=
  let w := fun i => ws.getD i 0
  bitsAt (w 0) 6 26 == 0 && w 1 / 2 ^ 48 == 0 && w 2 / 2 ^ 48 == 0 && w 8 / 2 ^ 48 == 0 && w 9 / 2 ^ 48 == 0
    && (List.range 5).all (fun i => w (10 + i) == 0) && w 15 / 2 ^ 17 == 0

/-- n rows of a pitch, the last of some bytes, lie in the task space of a partition. -/
def State.planeOk (s : State) (p a rows pitch bytes : Nat) : Bool := s.inTaskSpace p a ((rows - 1) * pitch + bytes)

/-- Read n-byte numbers at some addresses, in order; none of an address that is absent. The first that cannot be read ends the
job (R265). -/
def State.readMany (n : Nat) : List (Option Nat) → State → Except Nat (List (Option Nat)) × State
  | [], s => (.ok [], s)
  | none :: t, s =>
    (match s.readMany n t with
     | (.ok l, s) => (.ok (none :: l), s)
     | (.error e, s) => (.error e, s))
  | some a :: t, s =>
    match s.hbmRead 3 a n with
    | (some st, _, s) => (.error st, s)
    | (none, b, s) =>
      match s.readMany n t with
      | (.ok l, s) => (.ok (some (ofLeBytes b) :: l), s)
      | (.error e, s) => (.error e, s)

/-- Write rows one by one as they are computed; the job's earlier writes stand (R265). -/
def State.edgeRows (row : Nat → State → Except Nat (List (Nat × List Byte)) × State) : List Nat → State → Option Nat × State
  | [], s => (none, s)
  | y :: t, s =>
    match row y s with
    | (.error st, s) => (some st, s)
    | (.ok ws, s) =>
      let r := ws.foldl (fun (acc : Option Nat × State) w =>
        match acc with
        | (some st, s) => (some st, s)
        | (none, s) => s.hbmWrite 3 w.1 w.2) (none, s)
      match r with
      | (some st, s) => (some st, s)
      | (none, s) => s.edgeRows row t

/-! ### CONV and TCONV (R251, R254, R255, R263) -/

/-- Geometry and formats of a CONV or TCONV job. -/
structure ConvJob where
  trans : Bool
  src : Nat
  dst : Nat
  srcPitch : Nat
  dstPitch : Nat
  geo : TapDesc
  outC : Nat
  inFmt : NumFmt
  wFmt : NumFmt
  outFmt : NumFmt
  act : Nat
  outPadY : Nat
  outPadX : Nat
  weights : Nat
  scales : Nat
  deriving DecidableEq, Repr

def convJob (ws : List Nat) : Option ConvJob :=
  let w := fun i => ws.getD i 0
  match edgeFmt (bitsAt (w 7) 16 3), edgeFmt (bitsAt (w 7) 19 3), edgeFmt (bitsAt (w 7) 22 3) with
  | some i, some k, some o =>
    some { trans := bitsAt (w 0) 0 4 == 3, src := bitsAt (w 1) 0 48, dst := bitsAt (w 2) 0 48
           srcPitch := bitsAt (w 3) 0 32, dstPitch := bitsAt (w 3) 32 32, geo := tapDesc [0, 0, w 4, w 5, w 6, 0, 0, 0]
           outC := bitsAt (w 7) 0 16, inFmt := i, wFmt := k, outFmt := o, act := bitsAt (w 7) 25 3
           outPadY := bitsAt (w 7) 32 4, outPadX := bitsAt (w 7) 36 4
           weights := bitsAt (w 8) 0 48, scales := bitsAt (w 9) 0 48 }
  | _, _, _ => none

/-- Output size along one axis (R251, R254). -/
def convSize (trans : Bool) (inp k dil s lo hi outPad : Nat) : Int :=
  if trans then ((inp : Int) - 1) * s - lo - hi + (dil : Int) * ((k : Int) - 1) + outPad + 1
  else outSize inp k dil s lo hi

def ConvJob.outH (j : ConvJob) : Int := convSize j.trans j.geo.inH j.geo.kH j.geo.dilY j.geo.strideY j.geo.padTop j.geo.padBottom j.outPadY
def ConvJob.outW (j : ConvJob) : Int := convSize j.trans j.geo.inW j.geo.kW j.geo.dilX j.geo.strideX j.geo.padLeft j.geo.padRight j.outPadX

def fmtPairOk (i w : NumFmt) : Bool :=
  match i, w with
  | .int8, .int8 | .uint8, .int8 | .e4m3, .e4m3 | .bf16, .bf16 => true
  | _, _ => false

/-- The limits of R260 and the fields of R261. -/
def State.convOk (s : State) (p : Nat) (ws : List Nat) (j : ConvJob) : Bool :=
  let w7 := ws.getD 7 0
  let g := j.geo
  let c := g.chCount
  edgeCommonOk ws && bitsAt w7 28 4 == 0 && w7 / 2 ^ 40 == 0 && g.reservedZero
    && g.chBase == 0 && g.tapY == 0 && g.tapX == 0
    && decide (1 ≤ c ∧ c ≤ 256 ∧ 1 ≤ j.outC ∧ j.outC ≤ 256 ∧ (c ≤ 16 ∨ j.outC ≤ 16))
    && decide (1 ≤ g.kH ∧ g.kH ≤ 11 ∧ 1 ≤ g.kW ∧ g.kW ≤ 11)
    && decide (1 ≤ g.strideY ∧ g.strideY ≤ 8 ∧ 1 ≤ g.strideX ∧ g.strideX ≤ 8)
    && decide (1 ≤ g.dilY ∧ g.dilY ≤ 8 ∧ 1 ≤ g.dilX ∧ g.dilX ≤ 8)
    && decide (1 ≤ g.inH ∧ g.inH ≤ 16384 ∧ 1 ≤ g.inW ∧ g.inW ≤ 16384)
    && fmtPairOk j.inFmt j.wFmt && decide (j.act ≤ 4)
    && (if j.trans then decide (j.outPadY < g.strideY ∧ j.outPadX < g.strideX) else j.outPadY == 0 && j.outPadX == 0)
    && s.planeOk p j.src g.inH j.srcPitch (g.inW * c * NumFmt_bytes j.inFmt)
    && s.inTaskSpace p j.weights (g.kH * g.kW * c * j.outC * NumFmt_bytes j.wFmt)
    && (j.scales == 0 || s.inTaskSpace p j.scales (8 * j.outC))
    && (decide (j.outH < 1) || decide (j.outW < 1)
        || s.planeOk p j.dst j.outH.toNat j.dstPitch (j.outW.toNat * j.outC * NumFmt_bytes j.outFmt))

/-- Input positions of one output position along an axis: per tap that contributes, the tap and its input index; none is a
padded or absent position (R73, R255). -/
def axisTaps (trans : Bool) (o k dil s lo inp mode : Nat) : List (Nat × Option Nat) :=
  (List.range k).filterMap (fun t =>
    if trans then
      let u := o + lo
      let phi := u % s
      if (t * dil) % s ≠ phi then none
      else
        let c := ((t * dil : Nat) - (phi : Nat) : Int) / s
        let x : Int := ((u / s : Nat) : Int) - c
        some (t, if 0 ≤ x ∧ x < inp then some x.toNat else none)
    else some (t, padIndex mode ((o : Int) * s - lo + t * dil) inp))

/-- Accumulate products in passes of up to 32 (R263, R55, R57). -/
def accumulate (fmt : NumFmt) : Nat → List Exact → List Exact → Option Nat → Nat
  | 0, _, _, acc => acc.getD 0
  | fuel + 1, xs, ws, acc =>
    if xs.isEmpty then acc.getD 0
    else
      let sum := passSum fmt fmt (xs.take 32) (ws.take 32) [] []
      let v := (landColumn acc.isSome (isIntFmt fmt) (acc.getD 0) sum).1
      accumulate fmt fuel (xs.drop 32) (ws.drop 32) (some v)

/-- ACT of R261 on an FP32 encoding. -/
def edgeAct (act b : Nat) : Nat :=
  match act with
  | 1 => f32Max b 0
  | 2 => f32Min (f32Max b 0) 0x40C00000
  | 3 => (sfuResult .sigmoid b).bits
  | 4 => f32Mul b (sfuResult .sigmoid b).bits
  | _ => b

/-- One output row of a CONV or TCONV (R263). -/
def State.convRow (j : ConvJob) (weights : List Nat) (scales : List Nat) (y : Nat) (s : State) :
    Except Nat (List (Nat × List Byte)) × State :=
  let g := j.geo
  let ib := NumFmt_bytes j.inFmt
  let cin := g.chCount
  let rows := axisTaps j.trans y g.kH g.dilY g.strideY g.padTop g.inH g.padMode
  let cols := (List.range j.outW.toNat).map (fun x => axisTaps j.trans x g.kW g.dilX g.strideX g.padLeft g.inW g.padMode)
  let points := fun (cs : List (Nat × Option Nat)) => rows.flatMap (fun r => cs.map (fun c =>
    (r.1 * g.kW + c.1, match r.2, c.2 with
      | some iy, some ix => some (j.src + iy * j.srcPitch + ix * cin * ib)
      | _, _ => none)))
  let addrs := cols.flatMap (fun cs => (points cs).flatMap (fun q => (List.range cin).map (fun ch => q.2.map (· + ch * ib))))
  match s.readMany ib addrs with
  | (.error st, s) => (.error st, s)
  | (.ok vals, s) =>
    let pad : Nat := if !j.trans && g.padMode = 1 then g.padConst % 2 ^ (8 * ib) else 0
    let xs := vals.map (fun v => decodeNum j.inFmt (v.getD pad))
    let per := rows.length * cin
    let cell := fun (acc : List Exact × List Byte) (cs : List (Nat × Option Nat)) =>
      let n := per * cs.length
      let mine := acc.1.take n
      let taps := (points cs).map (fun q => q.1)
      let out := (List.range j.outC).flatMap (fun co =>
        let ws := taps.flatMap (fun t => (List.range cin).map (fun ch =>
          decodeNum j.wFmt (weights.getD ((t * cin + ch) * j.outC + co) 0)))
        let a := accumulate j.inFmt (n + 1) mine ws none
        let v := outputColumn (isIntFmt j.inFmt) a (scales[co]?) (scales[j.outC + co]?)
        let r := edgeAct j.act (f32Of v.1)
        leBytes (NumFmt_bytes j.outFmt) (convertNum j.outFmt .nearestEven true 0 (f32 r)).bits)
      (acc.1.drop n, acc.2 ++ out)
    (.ok [(j.dst + y * j.dstPitch, (cols.foldl cell (xs, [])).2)], s)

/-- What taking a job gives: a status that ends it, and whether its result is empty; or its output rows, with the numbers read for them. -/
abbrev EdgePlan := Except (Nat × Bool) (Nat × (List Nat × List Nat))

/-- Take up a CONV or TCONV job: its fields are checked, its weights and its scales are read. -/
def State.planConv (p : Nat) (ws : List Nat) (s : State) : EdgePlan × State :=
  match convJob ws with
  | none => (.error (St.VIS_BAD_JOB, false), s)
  | some j =>
    if !s.convOk p ws j then (.error (St.VIS_BAD_JOB, false), s)
    else if j.outH < 1 ∨ j.outW < 1 then (.error (St.VIS_EMPTY_OUTPUT, true), s)
    else
      let wb := NumFmt_bytes j.wFmt
      let n := j.geo.kH * j.geo.kW * j.geo.chCount * j.outC
      match s.hbmRead 3 j.weights (n * wb) with
      | (some st, _, s) => (.error (st, false), s)
      | (none, wbytes, s) =>
        let r := if j.scales = 0 then (none, [], s) else s.hbmRead 3 j.scales (8 * j.outC)
        match r with
        | (some st, _, s) => (.error (st, false), s)
        | (none, sb, s) => (.ok (j.outH.toNat, elements j.wFmt wbytes, elements .fp32 sb), s)

/-- Input rows from the top that an output row of a CONV or TCONV reads. -/
def ConvJob.rowsRead (j : ConvJob) (y : Nat) : Nat :=
  (axisTaps j.trans y j.geo.kH j.geo.dilY j.geo.strideY j.geo.padTop j.geo.inH j.geo.padMode).foldl
    (fun n t => match t.2 with | some i => max n (i + 1) | none => n) 0

/-! ### INGEST (R262) -/

structure IngestJob where
  src : Nat
  dst : Nat
  srcPitch : Nat
  dstPitch : Nat
  srcFmt : Nat
  matrix : Nat
  full : Bool
  nearest : Bool
  planar : Bool
  outCh : Nat
  outFmt : NumFmt
  frameW : Nat
  frameH : Nat
  cropX : Nat
  cropY : Nat
  cropW : Nat
  cropH : Nat
  dstX : Nat
  dstY : Nat
  dstW : Nat
  dstH : Nat
  outW : Nat
  outH : Nat
  pad : Nat
  chroma : Nat
  norm : Nat
  deriving DecidableEq, Repr

def ingestJob (ws : List Nat) : Option IngestJob :=
  let w := fun i => ws.getD i 0
  match edgeFmt (bitsAt (w 4) 10 3) with
  | none => none
  | some o =>
    some { src := bitsAt (w 1) 0 48, dst := bitsAt (w 2) 0 48, srcPitch := bitsAt (w 3) 0 32, dstPitch := bitsAt (w 3) 32 32
           srcFmt := bitsAt (w 4) 0 3, matrix := bitsAt (w 4) 3 2, full := bitOf (w 4) 5, nearest := bitOf (w 4) 6
           planar := bitOf (w 4) 7
           outCh := match bitsAt (w 4) 8 2 with | 0 => 3 | 1 => 4 | 2 => 16 | _ => 0
           outFmt := o, frameW := bitsAt (w 4) 16 16, frameH := bitsAt (w 4) 32 16
           cropX := bitsAt (w 5) 0 16, cropY := bitsAt (w 5) 16 16, cropW := bitsAt (w 5) 32 16, cropH := bitsAt (w 5) 48 16
           dstX := bitsAt (w 6) 0 16, dstY := bitsAt (w 6) 16 16, dstW := bitsAt (w 6) 32 16, dstH := bitsAt (w 6) 48 16
           outW := bitsAt (w 7) 0 16, outH := bitsAt (w 7) 16 16, pad := bitsAt (w 7) 32 24
           chroma := bitsAt (w 8) 0 48, norm := bitsAt (w 9) 0 48 }

/-- Bytes of a pixel of the luma or packed plane. -/
def ingestPixel (fmt : Nat) : Nat := match fmt with | 1 => 2 | 3 => 3 | 4 => 4 | _ => 1

/-- Bytes of an output row. -/
def IngestJob.rowBytes (j : IngestJob) : Nat := j.outW * (if j.planar then 1 else j.outCh) * NumFmt_bytes j.outFmt

/-- An output of no pixels. -/
def IngestJob.emptyOut (j : IngestJob) : Bool := j.outW == 0 || j.outH == 0
/-- A crop of no samples: the spec names no value for the pixels inside the destination rectangle (log 182). -/
def IngestJob.emptyCrop (j : IngestJob) : Bool := j.cropW == 0 || j.cropH == 0

/-- The fields of R261 and the limits of R260. The planes read are those of the frame, or of the crop where it runs beyond the frame; R262
gives every placement of the destination rectangle its pixels (log 182). -/
def State.ingestOk (s : State) (p : Nat) (ws : List Nat) (j : IngestJob) : Bool :=
  let w4 := ws.getD 4 0
  let yuv := decide (j.srcFmt ≤ 2)
  let w := max j.frameW (j.cropX + j.cropW)
  let h := max j.frameH (j.cropY + j.cropH)
  edgeCommonOk ws && bitsAt w4 13 3 == 0 && w4 / 2 ^ 48 == 0 && ws.getD 7 0 / 2 ^ 56 == 0
    && decide (j.srcFmt ≤ 4) && decide (j.matrix ≤ 2) && decide (j.outCh ≠ 0)
    && decide (j.outW ≤ 4096 ∧ j.outH ≤ 4096)
    && s.planeOk p j.src h j.srcPitch (w * ingestPixel j.srcFmt)
    && (!yuv || s.planeOk p j.chroma (if j.srcFmt = 2 then h else (h + 1) / 2) j.srcPitch
          ((w + 1) / 2 * 2 * ingestPixel j.srcFmt))
    && s.inTaskSpace p j.norm 24
    && (j.emptyOut || s.planeOk p j.dst (if j.planar then j.outCh * j.outH else j.outH) j.dstPitch j.rowBytes)

/-- A coordinate clamped to lo … hi. -/
def clampCoord (lo hi : Nat) (i : Int) : Nat := (max (lo : Int) (min i (hi : Int))).toNat

/-- Samples and weights along one axis (R262 step 2). -/
def axisSamples (nearest : Bool) (lo hi : Nat) (x : Rat) : List (Nat × Rat) :=
  let x0 := x.floor
  let f : Rat := x - x0
  if nearest then
    let up : Bool := if f = 1 / 2 then Config.roundsUp (x.num + 2 ^ 32).toNat x.den else decide ((1 : Rat) / 2 < f)
    [(clampCoord lo hi (if up then x0 + 1 else x0), 1)]
  else [(clampCoord lo hi x0, 1 - f), (clampCoord lo hi (x0 + 1), f)]

/-- Taps of a sample: address and weight. -/
def sampleTaps (base pitch step : Nat) (xs ys : List (Nat × Rat)) : List (Nat × Rat) :=
  ys.flatMap (fun y => xs.map (fun x => (base + y.1 * pitch + x.1 * step, x.2 * y.2)))

/-- Source position of an output column or row. -/
def sourceCoord (crop cropSize dstSize d : Nat) : Rat :=
  (crop : Rat) + ((d : Rat) + 1 / 2) * cropSize / dstSize - 1 / 2

/-- Taps of the three components of an output pixel inside the destination rectangle. -/
def IngestJob.taps (j : IngestJob) (dx dy : Nat) : List (List (Nat × Rat)) :=
  let sx := sourceCoord j.cropX j.cropW j.dstW dx
  let sy := sourceCoord j.cropY j.cropH j.dstH dy
  let b := ingestPixel j.srcFmt
  let xs := axisSamples j.nearest j.cropX (j.cropX + j.cropW - 1) sx
  let ys := axisSamples j.nearest j.cropY (j.cropY + j.cropH - 1) sy
  if 3 ≤ j.srcFmt then (List.range 3).map (fun c => sampleTaps (j.src + c) j.srcPitch b xs ys)
  else
    let cxs := axisSamples j.nearest (j.cropX / 2) ((j.cropX + j.cropW - 1) / 2) (sx / 2)
    let cys := if j.srcFmt = 2 then ys
      else axisSamples j.nearest (j.cropY / 2) ((j.cropY + j.cropH - 1) / 2) ((sy - 1 / 2) / 2)
    [sampleTaps j.src j.srcPitch b xs ys, sampleTaps j.chroma j.srcPitch (2 * b) cxs cys,
      sampleTaps (j.chroma + b) j.srcPitch (2 * b) cxs cys]

def clamp01 (x : Rat) : Rat := if x < 0 then 0 else if 1 < x then 1 else x

/-- R, G, B of a pixel from its sampled components (R262 steps 3 and 4). -/
def ingestRgb (j : IngestJob) (v : List Rat) : List Rat :=
  let c := fun i => v.getD i 0
  if 3 ≤ j.srcFmt then v.map (fun x => x / 255)
  else
    let n : Nat := if j.srcFmt = 1 then 10 else 8
    let k : Rat := (2 ^ (n - 8) : Nat)
    let y : Rat := if j.full then c 0 / ((2 ^ n - 1 : Nat) : Rat) else (c 0 - 16 * k) / (219 * k)
    let ch := fun (x : Rat) => if j.full then (x - ((2 ^ (n - 1) : Nat) : Rat)) / ((2 ^ n - 1 : Nat) : Rat) else (x - 128 * k) / (224 * k)
    let (kr, kb) : Rat × Rat := match j.matrix with
      | 0 => (299 / 1000, 114 / 1000)
      | 1 => (2126 / 10000, 722 / 10000)
      | _ => (2627 / 10000, 593 / 10000)
    let r := y + 2 * (1 - kr) * ch (c 2)
    let b := y + 2 * (1 - kb) * ch (c 1)
    let g := (y - kr * r - kb * b) / (1 - kr - kb)
    [clamp01 r, clamp01 g, clamp01 b]

def ratOf (neg : Bool) (m : Nat) (e : Int) : Rat :=
  let v : Rat := if 0 ≤ e then ((m * 2 ^ e.toNat : Nat) : Rat) else (m : Rat) / ((2 ^ (-e).toNat : Nat) : Rat)
  if neg then -v else v

/-- A number on a grid of 2^-40. -/
def gridNum (units : Int) : Exact := .fin (decide (units < 0)) units.natAbs (-40)

/-- (v - MEAN) × SCALE (R262 step 5), within 2^-10 of its exact value by an error that the spec leaves open; `k` numbers the
draw. -/
def normalise (v : Rat) (mean scale k : Nat) : Exact :=
  let err : Int := (Config.ingestError k % (2 ^ 31 - 1) : Nat) - (2 ^ 30 - 1)
  match f32 mean, f32 scale with
  | .fin a m e, .fin b n g => gridNum (((v - ratOf a m e) * ratOf b n g * 2 ^ 40).floor + err)
  | m, n => numMul (numAdd (gridNum (v * 2 ^ 40).floor) (numNeg m)) n

/-- One output row of an INGEST. -/
def State.ingestRow (j : IngestJob) (norm : List Nat) (y : Nat) (s : State) : Except Nat (List (Nat × List Byte)) × State :=
  let inside := fun x => decide (j.dstY ≤ y ∧ y < j.dstY + j.dstH ∧ j.dstX ≤ x ∧ x < j.dstX + j.dstW)
  let taps := (List.range j.outW).map (fun x => 
    if !inside x then [] else if j.emptyCrop then [[], [], []] else j.taps (x - j.dstX) (y - j.dstY))
  let b := if j.srcFmt = 1 then 2 else 1
  match s.readMany b (taps.flatMap (fun ts => ts.flatMap (fun l => l.map (fun t => some t.1)))) with
  | (.error st, s) => (.error st, s)
  | (.ok vals, s) =>
    let value := fun (v : Option Nat) => ((if j.srcFmt = 1 then v.getD 0 / 64 else v.getD 0 : Nat) : Rat)
    let comp := fun (acc : List (Option Nat) × List Rat) (l : List (Nat × Rat)) =>
      (acc.1.drop l.length, acc.2 ++ [((l.zip acc.1).map (fun q => q.1.2 * value q.2)).sum])
    let free := fun (x : Nat) => (List.range 3).map (fun c =>
      ((Config.emptyCrop (s.freeCtr + 3 * x + c) % 2 ^ (if j.srcFmt = 1 then 10 else 8) : Nat) : Rat))
    let pixel := fun (acc : List (Option Nat) × List (List Rat)) (ts : List (List (Nat × Rat))) =>
      if !ts.isEmpty && j.emptyCrop then (acc.1, acc.2 ++ [ingestRgb j (free acc.2.length)])
      else if ts.isEmpty then (acc.1, acc.2 ++ [(List.range 3).map (fun c => ((bitsAt j.pad (8 * c) 8 : Nat) : Rat) / 255)])
      else
        let r := ts.foldl comp (acc.1, [])
        (r.1, acc.2 ++ [ingestRgb j r.2])
    let px := (taps.foldl pixel (vals, [])).2
    let out := px.zipIdx.map (fun e => (List.range j.outCh).map (fun c =>
      leBytes (NumFmt_bytes j.outFmt)
        (if 3 ≤ c then 0
         else (convertNum j.outFmt .nearestEven true 0
          (normalise (e.1.getD c 0) (norm.getD c 0) (norm.getD (3 + c) 0) (s.freeCtr + 3 * e.2 + c))).bits)))
    let s := { s with freeCtr := s.freeCtr + 3 * px.length }
    let rows := if j.planar then
        (List.range j.outCh).map (fun c => (j.dst + (c * j.outH + y) * j.dstPitch, out.flatMap (fun l => l.getD c [])))
      else [(j.dst + y * j.dstPitch, out.flatMap (fun l => l.flatten))]
    (.ok rows, s)

/-- Take up an INGEST job: its fields are checked, its MEAN and SCALE values are read. -/
def State.planIngest (p : Nat) (ws : List Nat) (s : State) : EdgePlan × State :=
  match ingestJob ws with
  | none => (.error (St.VIS_BAD_JOB, false), s)
  | some j =>
    if !s.ingestOk p ws j then (.error (St.VIS_BAD_JOB, false), s)
    else if j.emptyOut then (.error (St.VIS_EMPTY_OUTPUT, true), s)
    else
      match s.hbmRead 3 j.norm 24 with
      | (some st, _, s) => (.error (st, false), s)
      | (none, nb, s) => (.ok (j.outH, elements .fp32 nb, []), s)

/-- Source rows from the top that an output row of an INGEST reads: a chroma row of a 4:2:0 frame stands for two luma rows. -/
def IngestJob.rowsRead (j : IngestJob) (y : Nat) : Nat :=
  if y < j.dstY ∨ j.dstY + j.dstH ≤ y ∨ j.dstW = 0 ∨ j.emptyCrop then 0
  else
    let sy := sourceCoord j.cropY j.cropH j.dstH (y - j.dstY)
    let last := fun (l : List (Nat × Rat)) => l.foldl (fun n t => max n (t.1 + 1)) 0
    let luma := last (axisSamples j.nearest j.cropY (j.cropY + j.cropH - 1) sy)
    if 2 ≤ j.srcFmt then luma
    else max luma (2 * last (axisSamples j.nearest (j.cropY / 2) ((j.cropY + j.cropH - 1) / 2) ((sy - 1 / 2) / 2)))

/-! ### The order of jobs and their end (R264, R265) -/

/-- The job at the head of an engine's ring. An entry that cannot be read stops the ring (R131). -/
def State.ringEdge (d p : Nat) (s : State) : Option QueuedJob × State :=
  let cfg := Reg.EQ_CFG d
  let head := s.rdN (Reg.EQ_HEAD d)
  if !s.partRuns p || !s.rdB cfg Fld.EQ_CFG_ENABLE || head == s.rdN (Reg.EQ_TAIL d) || !s.hostReadable (s.rdF cfg Fld.EQ_CFG_SPACE) (p + 1) then
    (none, s)
  else
    let a := ringBase (s.rd64 (Reg.EQ_BASE_LO d)) 128 (s.rdF cfg Fld.EQ_CFG_SIZE_LOG2) + 128 * head
    match s.ringRead (s.rdF cfg Fld.EQ_CFG_SPACE) (p + 1) a 128 with
    | (none, s) => (none, s.stopRing (.eq d))
    | (some b, s) => (some ⟨.ring head, wordsOf8 b⟩, s)

/-- The next job of a source. -/
def State.sourceEdge (d p : Nat) (src : JobSource) (s : State) : Option QueuedJob × State :=
  match src with
  | .ring _ => s.ringEdge d p
  | .pipe _ _ _ => ((s.edgeAt d).queue.find? (fun j => sameSource j.source src), s)

def isChained (j : QueuedJob) : Bool := bitOf (j.words.getD 0 0) 4

/-- The chained job that follows the one taken last, of its source: the two run together. -/
def State.chainedEdge (d p : Nat) (s : State) : Option QueuedJob × State :=
  match (s.edgeAt d).last.head? with
  | none => (none, s)
  | some e => let r := s.sourceEdge d p e.1; (r.1.filter isChained, r.2)

/-- The next job of an engine: a job chained to the one taken last; beside a job in progress no other; else its pipeline jobs first, then its ring. -/
def State.nextEdge (d p : Nat) (s : State) : Option QueuedJob × State :=
  match s.chainedEdge d p with
  | (some j, s) => (some j, s)
  | (none, s) =>
    let e := s.edgeAt d
    if e.running.isSome then (none, s)
    else match e.queue with
    | j :: _ => (some j, s)
    | [] => s.ringEdge d p

/-- The engine takes the job it was offered. -/
def State.takeEdge (d : Nat) (j : QueuedJob) (s : State) : State :=
  match j.source with
  | .ring i => s.wrN (Reg.EQ_HEAD d) ((i + 1) % 2 ^ s.rdF (Reg.EQ_CFG d) Fld.EQ_CFG_SIZE_LOG2)
  | .pipe _ _ _ => let e := s.edgeAt d; s.putEdge d { e with queue := e.queue.erase j }

/-- The engine has taken a job, which the next one of its source may follow (R264). -/
def EdgeEngine.follow (e : EdgeEngine) (src : JobSource) (dst : Nat) (empty : Bool) : EdgeEngine :=
  { e with last := (src, (dst, empty)) :: e.last.filter (fun x => !sameSource x.1 src) }

/-- A job joins those in progress, behind the ones it is chained to. -/
def EdgeEngine.run (e : EdgeEngine) (r : EdgeRun) : EdgeEngine :=
  match e.running with
  | none => { e with running := some r }
  | some _ => { e with chained := e.chained ++ [r] }

/-- The checks of CHAIN and WAIT_ROWS, then the job's own (R264): it joins those in progress, with its rows to write or with the status that ends
it. -/
def State.runEdge (d p : Nat) (j : QueuedJob) (s : State) : State :=
  let e := s.edgeAt d
  let w0 := j.words.getD 0 0
  let op := bitsAt w0 0 4
  let isRing := match j.source with | .ring _ => true | .pipe _ _ _ => false
  let prev := (e.last.find? (fun x => sameSource x.1 j.source)).map (fun x => x.2)
  let dst := bitsAt (j.words.getD 2 0) 0 48
  let join := fun (ws : List Nat) (r : EdgePlan × State) =>
    let e := r.2.edgeAt d
    match r.1 with
    | .error (st, empty) => r.2.putEdge d ((e.follow j.source dst empty).run ⟨j.source, ws, 0, 0, [], [], some st⟩)
    | .ok (rows, weights, scales) => r.2.putEdge d ((e.follow j.source dst false).run ⟨j.source, ws, rows, 0, weights, scales, none⟩)
  let go := fun (ws : List Nat) =>
    join ws (if op = 1 then s.planIngest p ws else if op = 2 ∨ op = 3 then s.planConv p ws else (.error (St.VIS_BAD_JOB, false), s))
  if bitOf w0 5 && (isRing || op != 1) then join j.words (.error (St.VIS_BAD_JOB, false), s)
  else if !bitOf w0 4 then go j.words
  else
    match prev with
    | none => join j.words (.error (St.VIS_BAD_JOB, false), s)
    | some (from_, empty) => if empty then join j.words (.error (St.VIS_EMPTY_OUTPUT, true), s) else go (chainWords j.words from_)

/-! ### Rows of the jobs in progress (R264) -/

/-- Input rows that are there for a job: of a chained one those that the job before it has written, of a WAIT_ROWS ingest the decoded ones; none where
every row is. A planar output is there when it is complete. -/
def State.inputRows (s : State) (prev : Option EdgeRun) (r : EdgeRun) : Option Nat :=
  match prev with
  | some q =>
    if q.status.isSome then none
    else if bitsAt (q.words.getD 0 0) 0 4 == 1 && bitOf (q.words.getD 4 0) 7 then some 0 else some q.row
  | none =>
    if !bitOf (r.words.getD 0 0) 5 then none
    else match r.source with
    | .ring _ => none
    | .pipe a b c => (match s.frameAt a b c with | some f => if f.done then none else some f.rows | none => none)

/-- Input rows that an output row of a job reads. -/
def EdgeRun.rowsRead (r : EdgeRun) (y : Nat) : Nat :=
  if bitsAt (r.words.getD 0 0) 0 4 = 1 then (match ingestJob r.words with | some j => j.rowsRead y | none => 0)
  else (match convJob r.words with | some j => j.rowsRead y | none => 0)

/-- Output rows of a job that may have been written, from the top. -/
def EdgeRun.rowsReady (r : EdgeRun) (avail : Option Nat) : Nat :=
  match avail with
  | none => r.rows
  | some n => ((List.range r.rows).takeWhile (fun y => decide (r.rowsRead y ≤ n))).length

/-- One output row of a job. -/
def State.edgeRow (r : EdgeRun) (y : Nat) (s : State) : Except Nat (List (Nat × List Byte)) × State :=
  if bitsAt (r.words.getD 0 0) 0 4 = 1 then
    (match ingestJob r.words with | some j => s.ingestRow j r.weights y | none => (.ok [], s))
  else (match convJob r.words with | some j => s.convRow j r.weights r.scales y | none => (.ok [], s))

/-- A job writes the rows that it can; it has run once it has written them all, or has failed (R265). -/
def State.advanceRun (prev : Option EdgeRun) (r : EdgeRun) (s : State) : EdgeRun × State :=
  if r.status.isSome then (r, s)
  else
    let n := max r.row (r.rowsReady (s.inputRows prev r))
    match s.edgeRows (State.edgeRow r) ((List.range n).drop r.row) with
    | (some st, s) => ({ r with status := some st }, s)
    | (none, s) => ({ r with row := n, status := if n = r.rows then some 0x7000 else none }, s)

/-- The jobs in progress of an engine go on, each behind the one it is chained to. -/
def State.progressEdge (d : Nat) (s : State) : State :=
  match (s.edgeAt d).running with
  | none => s
  | some r =>
    let x := s.advanceRun none r
    let y := (s.edgeAt d).chained.foldl (fun (acc : EdgeRun × List EdgeRun × State) q =>
      let z := acc.2.2.advanceRun (some acc.1) q
      (z.1, acc.2.1 ++ [z.1], z.2)) (x.1, [], x.2)
    y.2.2.putEdge d { y.2.2.edgeAt d with running := some x.1, chained := y.2.1 }

/-- Start the next job of an engine where its OP is the one asked for. -/
def State.startEdgeJob (d op : Nat) (s : State) : State :=
  match s.dieOwner d with
  | none => s
  | some p =>
    if !s.partWorks p || s.edgeFailed d then s
    else
      match (s.progressEdge d).nextEdge d p with
      | (none, s) => s
      | (some j, s) =>
        if bitsAt (j.words.getD 0 0) 0 4 ≠ op then s
        else if !s.engineUp (.edge d) then s.requestEngine (.edge d)
        else (((s.takeEdge d j).commitRS (inRange (0x701100 + 0x40 * d) 0x40)).runEdge d p j).progressEdge d

/-- A job ends (R265): a ring job's word 15 is written, STATUS first, then DONE; a pipeline learns of its job. -/
def State.endEdge (d p : Nat) (src : JobSource) (st : Nat) (s : State) : State :=
  let s := if stBlock st = 7 then s.post st else s
  let s := s.count (Reg.EDGE_JOBS d)
  let s := if st = St.VIS_EMPTY_OUTPUT then s.count (Reg.EDGE_EMPTY d) else s
  match src with
  | .ring i =>
    let cfg := Reg.EQ_CFG d
    let sp := s.rdF cfg Fld.EQ_CFG_SPACE
    let a := ringBase (s.rd64 (Reg.EQ_BASE_LO d)) 128 (s.rdF cfg Fld.EQ_CFG_SIZE_LOG2) + 128 * i + 120
    if !s.rdB cfg Fld.EQ_CFG_ENABLE then s else
    match s.ringWrite sp (p + 1) a (leBytes 8 (st % 2 ^ 16)) with
    | (false, s) => s.stopRing (.eq d)
    | (true, s) =>
      let s := (s.ringWrite sp (p + 1) a (leBytes 8 (st % 2 ^ 16 + 2 ^ 16))).2
      if s.rdB cfg Fld.EQ_CFG_IRQ_EN then s.msix (p + 1) (s.rdF cfg Fld.EQ_CFG_VECTOR) else s
  | .pipe a b c => s.jobDone a b c (if st = 0x7000 ∨ st = St.VIS_EMPTY_OUTPUT then none else some st)

/-- The job that has run leaves the engine, and the one chained to it takes its place. -/
def EdgeEngine.shift (e : EdgeEngine) (now : Nat) : EdgeEngine :=
  { e with running := e.chained.head?, chained := e.chained.drop 1, idleSince := now }

/-- EDGE_JOB_COMPLETE (R265): the jobs in progress go on, and the oldest ends if it has run. A job whose OP is invalid ends as soon as it is taken, and so does every job
of a failed engine. -/
def State.edgeComplete (d : Nat) (s : State) : State :=
  match s.dieOwner d with
  | none => s
  | some p =>
    if !s.partWorks p then s
    else
      let s := s.progressEdge d
      let e := s.edgeAt d
      match e.running with
      | some r =>
        (match r.status with
         | some st => (s.putEdge d (e.shift s.now)).endEdge d p r.source st
         | none => s)
      | none =>
        match s.nextEdge d p with
        | (none, s) => s
        | (some j, s) =>
          let op := bitsAt (j.words.getD 0 0) 0 4
          if s.edgeFailed d then (s.takeEdge d j).endEdge d p j.source St.VIS_EDGE_FAILED
          else if op = 0 ∨ 3 < op then
            let s := s.takeEdge d j
            let e := s.edgeAt d
            (s.putEdge d (e.follow j.source (bitsAt (j.words.getD 2 0) 0 48) false)).endEdge d p j.source St.VIS_BAD_JOB
          else s

/-- Every waiting job of an engine ends with a status (R279). -/
def State.endEdgeJobs (d p st : Nat) : Nat → State → State
  | 0, s => s
  | fuel + 1, s =>
    match s.nextEdge d p with
    | (none, s) => s
    | (some j, s) => ((s.takeEdge d j).endEdge d p j.source st).endEdgeJobs d p st fuel

/-- EDGE_ENGINE_FAIL (R279). -/
def State.edgeFail (d : Nat) (s : State) : State :=
  if 4 ≤ d ∨ s.edgeFailed d then s
  else
    let s := ((s.wrN (Reg.EDGE_STATE d) 1).putBit Reg.DECK_DIES (12 + d) false).post St.VIS_EDGE_FAILED
    let s := { s with power := { s.power with enginesUp := s.power.enginesUp.filter (fun x => x != Domain.edge d) } }
    match s.dieOwner d with
    | none => s
    | some p =>
      let e := s.edgeAt d
      let s := s.putEdge d { e with running := none, chained := [] }
      let s := s.overList (e.running.toList ++ e.chained) (fun r t => t.endEdge d p r.source St.VIS_EDGE_FAILED)
      s.endEdgeJobs d p St.VIS_EDGE_FAILED (1024 + e.queue.length)

/-! ### Commands -/

def execEdgeIngest (die : Nat) (upsets : List Upset) (s : State) : Out := .next ((s.upset upsets).startEdgeJob die 1)
def execEdgeConv (die : Nat) (upsets : List Upset) (s : State) : Out := .next ((s.upset upsets).startEdgeJob die 2)
def execEdgeTconv (die : Nat) (upsets : List Upset) (s : State) : Out := .next ((s.upset upsets).startEdgeJob die 3)
def execEdgeJobComplete (die : Nat) (upsets : List Upset) (s : State) : Out := .next ((s.upset upsets).edgeComplete die)
def execEdgeEngineFail (die : Nat) (s : State) : Out := .next (s.edgeFail die)

end Sys2Proof.Machine
end

