-- ==== Sys2Proof/Machine/FeatureMap.lean ====
section
/-! DEFINITION. Machine/FeatureMap.lean: feature-map compression (R256 to R259), result tags posted by tasks and by the host (R273,
R274), and the start of a pipeline's frame (R276, R278). -/
namespace Sys2Proof.Machine

/-! ### The codec descriptor (R259) -/

structure FmapDesc where
  src : Nat
  srcGlobal : Bool
  dst : Nat
  dstGlobal : Bool
  blocks : Nat
  fill : Bool
  rate : Nat
  fp8 : Bool
  reservedZero : Bool
  deriving DecidableEq, Repr

def fmapDesc (ws : List Nat) : FmapDesc :=
  let w := fun i => ws.getD i 0
  { src := bitsAt (w 0) 0 48, srcGlobal := bitOf (w 0) 48, dst := bitsAt (w 1) 0 48, dstGlobal := bitOf (w 1) 48
    blocks := bitsAt (w 2) 0 24, fill := bitOf (w 2) 24, rate := bitsAt (w 2) 25 2, fp8 := bitOf (w 2) 27
    reservedZero := w 0 / 2 ^ 49 == 0 && w 1 / 2 ^ 49 == 0 && w 2 / 2 ^ 28 == 0 && w 3 == 0 && w 4 == 0 && w 5 == 0 && w 6 == 0 && w 7 == 0 }

def FmapDesc.fmt (d : FmapDesc) : NumFmt := if d.fp8 then .e4m3 else .bf16
/-- Bytes of an uncompressed block and of a compressed one (R256). -/
def FmapDesc.plainBytes (d : FmapDesc) : Nat := if d.fp8 then 64 else 128
def FmapDesc.packedBytes (d : FmapDesc) : Nat := if d.fp8 || d.rate == 1 then 32 else 64
/-- Bits w of a mantissa; M is one less (R256). -/
def FmapDesc.width (d : FmapDesc) : Nat := if d.fp8 || d.rate == 1 then 3 else 7

def FmapDesc.ok (d : FmapDesc) : Bool :=
  d.reservedZero && decide (1 ≤ d.blocks) && decide (d.rate ≤ 1) && !(d.fp8 && d.rate == 1)
    && (if d.fill then d.src % 32 == 0 && d.dst % 64 == 0 else d.src % 64 == 0 && d.dst % 32 == 0)

/-! ### Blocks (R256 to R258) -/

def isFinite : Exact → Bool
  | .fin _ _ _ => true
  | _ => false

/-- Magnitude as a pair m × 2^e. -/
def magOf : Exact → Nat × Int
  | .fin _ m e => (m, e)
  | _ => (0, 0)

/-- e_j of a sub-block (R257 step 1). -/
def subExponent (mBits : Nat) (xs : List Exact) : Int :=
  let big := xs.foldl (fun (b : Exact) x => let (m, e) := magOf x; if numLt b (.fin false m e) then .fin false m e else b) (.fin false 0 0)
  let (m, e) := magOf big
  if m = 0 then -127
  else
    let l := magLog2 m e
    if roundAt .nearestEven 0 m e (l + 1 - mBits) ≤ 2 ^ mBits - 1 then l else l + 1

/-- Pack mantissas least significant bit first. -/
def packBits (w : Nat) : List Nat → Nat
  | [] => 0
  | x :: t => x % 2 ^ w + 2 ^ w * packBits w t

/-- Encode one block (R257): bytes and flags. -/
def encodeBlock (w bytes : Nat) (xs : List Exact) : List Byte × Nat :=
  let mBits := w - 1
  if !xs.all isFinite then (leBytes bytes 0xFF, flagInvalid)
  else if xs.all (fun x => (magOf x).1 == 0) then (leBytes bytes 0, 0)
  else
    let subs := (List.range 8).map (fun j => subExponent mBits ((xs.drop (8 * j)).take 8))
    let x0 := subs.foldl max (-127)
    let x := max (-126) (min 127 x0)
    let shifts := subs.map (fun e => min (x - e).toNat 15)
    let lim : Nat := 2 ^ mBits - 1
    let mant := xs.zipIdx.map (fun e =>
      let q : Int := x - (shifts.getD (e.2 / 8) 0 : Nat) + 1 - mBits
      let (m, ex) := magOf e.1
      let r := roundAt .nearestEven 0 m ex q
      let clips := decide (lim < r)
      let k := if clips then lim else r
      (if numNegative e.1 then ofSigned w (-(k : Int)) else k, clips))
    let head := (x + 127).toNat + packBits 4 shifts * 2 ^ 8
    (leBytes 8 head ++ leBytes (bytes - 8) (packBits w (mant.map (fun e => e.1))),
      if mant.any (fun e => e.2) then flagSat else 0)

/-- Decode one block (R258): encodings and flags. -/
def decodeBlock (fmt : NumFmt) (w : Nat) (b : List Byte) : List Nat × Nat :=
  let e := leAt b 0 1
  if e = 0 then (List.replicate 64 0, 0)
  else if e = 0xFF then (List.replicate 64 (canonicalNan fmt), 0)
  else
    let head := leAt b 1 4
    let body := ofLeBytes (b.drop 8)
    let rs := (List.range 64).map (fun i =>
      let m := toSigned w (bitsAt body (i * w) w)
      let q : Int := (e : Int) - 127 - (bitsAt head (4 * (i / 8)) 4 : Nat) + 1 - (w - 1 : Nat)
      convertNum fmt .nearestEven true 0 (.fin (decide (m < 0)) m.natAbs q))
    (rs.map (fun r => r.bits), rs.foldl (fun f r => f ||| r.flags) 0)

/-- All blocks of a spill or a fill: bytes and flags. -/
def FmapDesc.convert (d : FmapDesc) (b : List Byte) : List Byte × Nat :=
  let n := if d.fill then d.packedBytes else d.plainBytes
  let rs := (List.range d.blocks).map (fun i =>
    let blk := (b.drop (n * i)).take n
    if d.fill then let r := decodeBlock d.fmt d.width blk; (packElements d.fmt r.1, r.2)
    else encodeBlock d.width d.packedBytes ((elements d.fmt blk).map (decodeNum d.fmt)))
  (rs.flatMap (fun r => r.1), rs.foldl (fun f r => f ||| r.2) 0)

/-- FEATURE_MAP_SPILL and FEATURE_MAP_FILL (R259). -/
def State.featureMap (n q : Nat) (fill : Bool) (words : List Nat) (s : State) : State :=
  let d := fmapDesc words
  match s.corePart n with
  | none => s
  | some p =>
    if d.fill != fill then s
    else if !d.ok then s.rejectDescriptor n
    else
      let inLen := d.blocks * (if fill then d.packedBytes else d.plainBytes)
      let outLen := d.blocks * (if fill then d.plainBytes else d.packedBytes)
      match s.resolve n p d.srcGlobal d.src inLen, s.resolve n p d.dstGlobal d.dst outLen with
      | .error st, _ => s.refuseAccess n d.src st
      | _, .error st => s.refuseAccess n d.dst st
      | .ok a, .ok b =>
        let ctxs := s.snoopers n q
        match s.globalRead 3 a inLen with
        | (some st, _, s) => s.failSram n a st
        | (none, bytes, s) =>
          let r := d.convert bytes
          match s.globalWrite 3 b r.1 with
          | (some st, s) => s.failSram n b st
          | (none, s) => ((s.raise n r.2).snoop ctxs bytes r.1).bumpDone n q

/-! ### Result tags (R273, R274) -/

/-- Bytes of the data a post names: token identifiers, or rows of the smallest size. -/
def tagBytes (kind : Bool) (count : Nat) : Nat := count * (if kind then 128 else 4)

/-- TAG_POST_DESCRIPTOR (R274): it takes effect once every earlier descriptor of its queue has completed. -/
def State.tagPost (n q : Nat) (words : List Nat) (s : State) : State :=
  let w := fun i => words.getD i 0
  let kind := bitOf (w 0) 16
  let addr := bitsAt (w 1) 0 48
  let count := bitsAt (w 2) 0 24
  let status := bitsAt (w 2) 32 16
  let reserved := w 0 / 2 ^ 17 != 0 || w 1 / 2 ^ 48 != 0 || bitsAt (w 2) 24 8 != 0 || w 2 / 2 ^ 48 != 0
    || (List.range 5).any (fun i => w (3 + i) != 0)
  match s.corePart n with
  | none => s
  | some p =>
    if reserved || (status == 0 && !s.inTaskSpace p addr (tagBytes kind count)) then s.rejectDescriptor n
    else
      -- the post is the task's own write: it fails as the task's read would (R131)
      match s.putTag 3 p (bitsAt (w 0) 0 16) addr kind (if status = 0 then 1 else 2) count status with
      | (some st, s) => s.failOnCore n st
      | (none, s) => s.bumpDone n q

/-- A write of TAG_POST_CMD with OP 0b01 (R273). -/
def State.hostTagPresent (p tag : Nat) (s : State) : State :=
  let addr := s.rd64 (Reg.TAG_POST_ADDR_LO p) % 2 ^ 48
  let count := s.rdF (Reg.TAG_POST_COUNT p) Fld.TAG_POST_COUNT_COUNT
  let kind := s.rdB (Reg.TAG_POST_COUNT p) Fld.TAG_POST_COUNT_KIND
  if addr % 16 == 0 && s.inTaskSpace p addr (tagBytes kind count) then s.writeTag p tag addr kind 1 count 0
  else s.post St.VIS_TAG_POST_REFUSED

/-! ### The start of a frame (R276, R278) -/

/-- PIPELINE_FRAME_START: the oldest frame of a pipeline whose first row has landed starts its stages; one that arrived with DEPTH
frames in flight is skipped. -/
def State.frameStart (p pipe : Nat) (s : State) : State :=
  match s.vision.frames.find? (fun f => f.part == p && f.pipe == pipe && (f.phase == .arriving || f.phase == .skipped)
      && (decide (0 < f.rows) || f.done)) with
  | none => s
  | some f =>
    if f.phase = .skipped then
      let s := s.putFrames (s.vision.frames.erase f)
      ((s.post St.VIS_FRAME_SKIPPED).postTagFailed p (s.frameTag f) St.VIS_FRAME_SKIPPED).count (Reg.FRAMES_SKIPPED p pipe)
    else s.beginFrame f

/-! ### Commands -/

/-- A write of TAG_POST_CMD by a function that reaches the page (R273): OP 0b00 does nothing. -/
def State.hostTagPost (fn p tag op : Nat) (s : State) : State :=
  if !(s.hostReaches && s.mayReach fn p) then s
  else
    match op with
    | 1 => s.hostTagPresent p tag
    | 2 => (s.post St.VIS_HOST_FAILED).postTagFailed p tag St.VIS_HOST_FAILED
    | 3 => s.writeTag p tag 0 false 0 0 0
    | _ => s

def execTagPostPresent (fn p tag : Nat) (s : State) : Out := .next (s.hostTagPost fn p tag 1)
def execTagPostFailed (fn p tag : Nat) (s : State) : Out := .next (s.hostTagPost fn p tag 2)
def execTagReturnAbsent (fn p tag : Nat) (s : State) : Out := .next (s.hostTagPost fn p tag 3)
def execPipelineFrameStart (p pipe : Nat) (upsets : List Upset) (s : State) : Out :=
  let s := s.upset upsets
  .next (if s.partRuns p then s.frameStart p pipe else s)

end Sys2Proof.Machine
end

