-- ==== Sys2Proof/Machine/MediaDecode.lean ====
section
/-! DEFINITION. Machine/MediaDecode.lean: the commands of the media pipes (R286, R287), stream contexts (R290, R302, R309), and the
decoding of pictures into frame rings (R284, R288, R291 to R301). -/
namespace Sys2Proof.Machine

/-! ### Commands (R286, R287) -/

/-- Rate control fields of words 5 and 6, with 0 stored as the defaults (R286). -/
def rateCfg (w5 w6 : Nat) : RateCfg :=
  let k := bitsAt w6 48 10
  let h := bitsAt w6 58 6
  ⟨bitsAt w5 0 2, bitsAt w5 8 8, bitsAt w5 16 8, bitsAt w5 24 8, bitsAt w5 32 32, bitsAt w6 0 16, bitsAt w6 16 16, bitsAt w6 32 16,
    if k = 0 then 400 else k, if h = 0 then 10 else h⟩

def qpLimit (codec : Nat) : Nat := if codec = 3 then 255 else 51

/-- Ranges of the rate control fields that no codec decides. -/
def rateOk (w5 w6 : Nat) : Bool :=
  let k := bitsAt w6 48 10
  decide (bitsAt w5 0 2 ≤ 2) && bitsAt w5 2 6 == 0 && (k == 0 || decide (100 ≤ k ∧ k ≤ 1000))

def rateFits (codec : Nat) (r : RateCfg) : Bool :=
  decide (r.qpInit ≤ qpLimit codec ∧ r.qpMin ≤ qpLimit codec ∧ r.qpMax ≤ qpLimit codec)

/-- The context that an OPEN_DEC opens (R290). -/
def openedDec (x : MediaCmd) : DecCtx :=
  let w := x.word 2
  let codec := bitsAt w 0 4
  { codec := codec, maxRefs := bitsAt w 12 4, depth10 := bitOf w 16 && codec != 4, hostHold := bitOf w 17
    maxW := bitsAt w 32 16, maxH := bitsAt w 48 16, base := bitsAt (x.word 1) 0 48
    slots := List.replicate (bitsAt w 8 4 + 1) ⟨0, 0, false, 0⟩, next := 0, lastGood := none, unsupported := false, renewed := false
    unit := none, unitBytes := [], unitMem := none, params := [], cdfs := [], waiting := false }

/-- The context that an OPEN_ENC opens (R302). -/
def openedEnc (x : MediaCmd) : EncCtx :=
  let w := x.word 4
  { codec := bitsAt w 0 4, depth10 := bitOf w 4, width := bitsAt w 16 16, height := bitsAt w 32 16, sliceRows := bitsAt w 48 8
    refBase := bitsAt (x.word 1) 0 48, outBase := bitsAt (x.word 2) 0 48, outHost := bitOf (x.word 2) 63
    outSize := bitsAt (x.word 3) 0 32, rate := rateCfg (x.word 5) (x.word 6), sinceKey := none, lostSlice := false, carry := 0
    lastQp := none, maxqBits := none, lastBits := 0, outWrite := 0, outHead := 0, outUsed := 0, ready := none, coded := 0, cdf := [] }

/-- Bytes at REF_BASE (R302). -/
def EncCtx.refBytes (e : EncCtx) : Nat := 3 * (ceilDiv (2 * planePitch e.width e.depth10 * rows16 e.height) 65536 * 65536)

/-- The areas of an encode context lie in task space and apart (R302). -/
def State.encAreasOk (s : State) (p : Nat) (e : EncCtx) : Bool :=
  s.inTaskSpace p e.refBase e.refBytes
    && (e.outHost || (s.inTaskSpace p e.outBase e.outSize
        && (decide (e.outBase + e.outSize ≤ e.refBase) || decide (e.refBase + e.refBytes ≤ e.outBase))))

/-- The fields of a command (R286, R287): unknown OPs, ranges, reserved bits, addresses. -/
def State.commandOk (s : State) (p : Nat) (x : MediaCmd) : Bool :=
  let w := x.word
  let zero := fun (l : List Nat) => l.all (fun i => w i == 0)
  bitsAt (w 0) 14 18 == 0 &&
    (match x.op with
     | 1 =>
       let d := openedDec x
       let n := d.slots.length
       zero [3, 4, 5, 6, 7] && w 1 / 2 ^ 48 == 0 && w 1 % 65536 == 0 && bitsAt (w 2) 4 4 == 0 && bitsAt (w 2) 18 14 == 0
         && decide (1 ≤ d.codec ∧ d.codec ≤ 4 ∧ 3 ≤ n ∧ 1 ≤ d.maxRefs ∧ d.maxRefs + 2 ≤ n)
         && decide (16 ≤ d.maxW ∧ d.maxW ≤ 8192 ∧ 16 ≤ d.maxH ∧ d.maxH ≤ 8192)
         && s.inTaskSpace p d.base (n * d.slotBytes)
     | 2 =>
       let e := openedEnc x
       zero [7] && w 1 / 2 ^ 48 == 0 && w 1 % 65536 == 0 && bitsAt (w 2) 48 15 == 0 && w 3 / 2 ^ 32 == 0
         && decide (0x100000 ≤ e.outSize) && e.outSize % 4096 == 0
         && bitsAt (w 4) 5 11 == 0 && w 4 / 2 ^ 56 == 0
         && decide (1 ≤ e.codec ∧ e.codec ≤ 3) && !(e.codec == 1 && e.depth10)
         && decide (16 ≤ e.width ∧ e.width ≤ 4096 ∧ 16 ≤ e.height ∧ e.height ≤ 4096) && e.width % 2 == 0 && e.height % 2 == 0
         && rateOk (w 5) (w 6) && rateFits e.codec e.rate && s.encAreasOk p e
     | 3 => zero [1, 2, 3, 4, 5, 6, 7]
     | 4 =>
       zero [4, 5, 6, 7] && bitsAt (w 1) 48 15 == 0 && decide (1 ≤ w 2 ∧ w 2 ≤ 0x4000000)
         && (bitOf (w 1) 63 || s.inTaskSpace p (w 1 % 2 ^ 48) (w 2))
     | 5 =>
       zero [5, 6, 7] && w 3 / 2 ^ 33 == 0 && w 1 / 2 ^ 48 == 0 && w 2 / 2 ^ 48 == 0 && w 1 % 256 == 0 && w 2 % 256 == 0
         && s.inTaskSpace p (w 1) 1 && s.inTaskSpace p (w 2) 1
     | 6 => zero [2, 3, 4, 5, 6, 7] && w 1 / 2 ^ 16 == 0
     | 7 => zero [1, 2, 3, 4, 7] && rateOk (w 5) (w 6)
     | 8 => zero [2, 3, 4, 5, 6, 7] && w 1 / 2 ^ 32 == 0
     | _ => false)

/-- MEDIA_CMD_FETCH (R287): the head command goes to its context's queue, or is rejected. A command arriving powers the pipe up
and waits meanwhile (R282). -/
def State.mediaFetch (m : Nat) (s : State) : State :=
  match s.pipeOwner m with
  | none => s
  | some p =>
    let cfg := Reg.MSQ_CFG m
    let head := s.rdN (Reg.MSQ_HEAD m)
    let log2 := s.rdF cfg Fld.MSQ_CFG_SIZE_LOG2
    let sp := s.rdF cfg Fld.MSQ_CFG_SPACE
    if !s.pipeWorks m || !s.partRuns p || !s.rdB cfg Fld.MSQ_CFG_ENABLE || head == s.rdN (Reg.MSQ_TAIL m) || !s.hostReadable sp (p + 1) then s
    else if !s.engineUp (.pipe m) then (s.requestEngine (.pipe m)).wake
    else
      match s.ringRead sp (p + 1) (ringBase (s.rd64 (Reg.MSQ_BASE_LO m)) 64 log2 + 64 * head) 64 with
      | (none, s) => s.stopRing (.msq m)
      | (some b, s) =>
        let x : MediaCmd := ⟨wordsOf8 b, s.now⟩
        if 32 ≤ (s.mediaQueue m x.ctx).length then s
        else
          let s := s.wrN (Reg.MSQ_HEAD m) ((head + 1) % 2 ^ log2)
          if s.commandOk p x then s.putQueue m x.ctx (s.mediaQueue m x.ctx ++ [x])
          else s.endCommand m x St.MED_BAD_COMMAND

/-- Execute the head command of a context where its OP is the one asked for; a closing context executes none (R287, R309). -/
def State.onHead (m c op : Nat) (f : MediaCmd → State → State) (s : State) : State :=
  let closing := match s.mediaCtx m c with | some k => k.closing.isSome | none => false
  match s.mediaQueue m c with
  | x :: rest => if x.op ≠ op || closing || !s.pipeWorks m then s else f x (s.putQueue m c rest)
  | [] => s

/-- A context waits for a ring slot or for output space (R295, R308). -/
def State.ctxWaits (s : State) (m c : Nat) : Bool :=
  (match s.decCtx m c with | some d => d.waiting | none => false)
    || (match (s.mediaPipe m).enc with | some r => r.ctx == c && r.waiting.isSome | none => false)

/-- Execute the first command of an OP where it heads the queue, or where the context waits and only pictures stand ahead of it: RELEASE and
OUT_CONSUMED free what those wait for. -/
def State.onFreeing (m c op : Nat) (f : MediaCmd → State → State) (s : State) : State :=
  let q := s.mediaQueue m c
  let ahead := q.takeWhile (fun x => x.op != op)
  match q.drop ahead.length with
  | x :: rest => if (ahead.isEmpty || (s.ctxWaits m c && ahead.all (fun y => y.op == 4 || y.op == 5))) && s.pipeWorks m then f x (s.putQueue m c (ahead ++ rest)) else s
  | [] => s

/-- Open a context (R290, R302). -/
def State.openCtx (m c tag : Nat) (kind : CtxKind) (s : State) : State :=
  let x := s.mediaPipe m
  let s := s.updMedia m (fun y => { y with serials := x.serials + 1 })
  (s.putCtx m c ⟨x.serials, kind, none, none⟩).mediaAck m c 0x8000 tag

/-- OPEN_DEC and OPEN_ENC: refused to an open context, and while CTX_BASE is 0. -/
def State.openWith (m c : Nat) (kind : CtxKind) (x : MediaCmd) (s : State) : State :=
  if (s.mediaCtx m c).isSome then s.mediaAck m c St.MED_CTX_STATE x.tag
  else if s.rd64 (Reg.CTX_BASE_LO m) % 2 ^ 48 = 0 then s.mediaAck m c St.MED_BAD_COMMAND x.tag
  else s.openCtx m c x.tag kind

/-- DECODE: the access unit at the head of a decode context's queue becomes ready. -/
def State.readyDecode (m c : Nat) (s : State) : State :=
  match s.mediaQueue m c, s.mediaCtx m c with
  | x :: rest, k =>
    if x.op ≠ 4 || !s.pipeWorks m then s
    else
      (match k with
       | none => (s.putQueue m c rest).endCommand m x St.MED_CTX_STATE
       | some k =>
         if k.closing.isSome then s
         else
           match k.kind with
           | .enc _ => (s.putQueue m c rest).endCommand m x St.MED_CTX_STATE
           | .dec d => if d.unit.isSome then s else s.updDec m c (fun d => { d with unit := some x }))
  | [], _ => s

/-- Release the reference and last-good holds of every slot of a context. -/
def State.dropOwnHolds (m c : Nat) (s : State) : State :=
  match s.decCtx m c with
  | none => s
  | some d =>
    (s.overList (List.range d.slots.length) (fun i t => (t.unhold m c i 0).unhold m c i 1)).updDec m c (fun d => { d with lastGood := none })

/-- An open context starts to close (R309): the commands ahead of the CLOSE and an unstarted access unit end, a running picture
finishes. -/
def State.startClose (m c : Nat) (x : MediaCmd) (ahead rest : List MediaCmd) (k : MediaCtx) (s : State) : State :=
  let runs := match (s.mediaPipe m).dec with | some r => r.ctx == c | none => false
  let started := match k.kind with
    | .dec d => (match d.unit with | some u => if ahead.contains u || runs then [] else [u] | none => [])
    | .enc _ => []
  let s := s.putQueue m c rest
  let s := s.overList (started ++ ahead) (fun y t => t.endCommand m y St.MED_CTX_CLOSED)
  let kind := match k.kind with
    | .dec d => CtxKind.dec { d with unit := if runs then d.unit else none, waiting := false }
    | .enc e => CtxKind.enc { e with ready := none }
  let s := s.putCtx m c { k with closing := some x.tag, kind := kind }
  (if runs then s else s.dropOwnHolds m c).finishClose m c

/-- CLOSE (R309): queued and unstarted commands end, a running picture finishes, and the context closes once its holds are
gone. -/
def State.closeCtx (m c : Nat) (s : State) : State :=
  let q := s.mediaQueue m c
  let ahead := q.takeWhile (fun x => x.op != 3)
  match q.drop ahead.length, s.mediaCtx m c with
  | x :: rest, some k => if k.closing.isSome || !s.pipeWorks m then s else s.startClose m c x ahead rest k
  | x :: rest, none =>
    if ahead.isEmpty && s.pipeWorks m then (s.putQueue m c rest).mediaAck m c St.MED_CTX_STATE x.tag else s
  | [], _ => s

/-- RELEASE (R295). -/
def State.releaseSlots (m c : Nat) (x : MediaCmd) (s : State) : State :=
  match s.decCtx m c with
  | none => s.mediaAck m c St.MED_CTX_STATE x.tag
  | some d =>
    let mask := x.word 1
    if 2 ^ d.slots.length ≤ mask then s.mediaAck m c St.MED_BAD_COMMAND x.tag
    else
      let s := s.overList ((List.range d.slots.length).filter (bitOf mask)) (fun i t => t.unhold m c i 2)
      (s.mediaAck m c 0x8000 x.tag).finishClose m c

/-- RC_UPDATE (R286, R307): the carry is kept. -/
def State.updateRate (m c : Nat) (x : MediaCmd) (s : State) : State :=
  match s.encCtx m c with
  | none => s.mediaAck m c St.MED_CTX_STATE x.tag
  | some e =>
    let r := rateCfg (x.word 5) (x.word 6)
    if !rateFits e.codec r then s.mediaAck m c St.MED_BAD_COMMAND x.tag
    else (s.updEnc m c (fun e => { e with rate := r })).mediaAck m c 0x8000 x.tag

/-! ### Frames of pipelines (R276, R278, R295) -/

/-- Enabled pipelines of a partition that follow a context of a pipe. -/
def State.followers (s : State) (p m c : Nat) : List Nat :=
  (List.range 16).filter (fun k =>
    let r := Reg.PIPE_CFG_VIS p k
    s.rdB r Fld.PIPE_CFG_VIS_ENABLE && 8 * s.rdF r Fld.PIPE_CFG_VIS_SRC_X + s.rdF r Fld.PIPE_CFG_VIS_SRC_PIPE == m
      && s.rdF r Fld.PIPE_CFG_VIS_SRC_CTX == c)

/-- A picture arrives at one pipeline: it takes the lowest free frame slot and holds the ring slot, or is skipped. -/
def State.arriveFrame (p m c : Nat) (k : MediaCtx) (d : DecCtx) (i number w h : Nat) (pipe : Nat) (s : State) : State :=
  let s := s.commitRS (inRange (0x702100 + 0x1000 * p + 0x80 * pipe) 0x80)
  let used := (s.framesOf p pipe).map (fun f => f.slot)
  let depth := s.rdF (Reg.PIPE_CFG_VIS p pipe) Fld.PIPE_CFG_VIS_DEPTH + 1
  let slot := (List.range depth).find? (fun n => !used.contains n)
  let taken := decide (used.length < depth) && slot.isSome
  let f : Frame := {
    part := p, pipe := pipe, slot := slot.getD 0, phase := if taken then .arriving else .skipped, number := number
    media := m, ctx := c, serial := k.serial, ringSlot := i, firstTs := 0, rows := 0, done := false
    luma := d.lumaAt i, chroma := d.chromaAt i, map := d.mapAt i, pitch := d.pitch, mapPitch := d.mapPitch, width := w, height := h
    status := 0x8000, concealed := 0, stageIndex := 0, jobsLeft := 0, error := none }
  let s := (s.putFrames (s.vision.frames ++ [f])).showFrames p pipe
  if taken then s.setHolds m c i (s.holdsOf m c i + 2 ^ (16 + pipe)) else s

def frameOfRun (m : Nat) (r : DecRun) (f : Frame) : Bool :=
  f.media == m && f.ctx == r.ctx && f.ringSlot == r.slot && f.number == r.number && !f.done

/-- Decoded rows reach the frames of a picture (R264, R276). -/
def State.frameRows (m : Nat) (r : DecRun) (s : State) : State :=
  s.putFrames (s.vision.frames.map (fun f => if frameOfRun m r f then { f with rows := r.rows, firstTs := r.firstTs } else f))

/-- The picture has ended: its frames get its status, their records are rewritten, and stages that waited for the last row start. -/
def State.framesDone (m : Nat) (r : DecRun) (status : Nat) (s : State) : State :=
  let mine := s.vision.frames.filter (frameOfRun m r)
  let upd := fun (f : Frame) => { f with done := true, rows := r.rows, firstTs := r.firstTs, status := status, concealed := r.marked.length }
  let s := s.putFrames (s.vision.frames.map (fun f => if frameOfRun m r f then upd f else f))
  s.overList mine (fun f t =>
    match f.phase with
    | .arriving | .skipped => t
    | .waitingLast => (t.writeFrameRecord (upd f)).startStage f.part f.pipe f.slot
    | .stage => t.writeFrameRecord (upd f))

def keepFirst (a b : Option Nat) : Option Nat := match a with | some x => some x | none => b

/-- FMT of a picture in the ring (R283, R294). -/
def picFormat (i : PicInfo) : Nat := if i.chroma = .c422 then 2 else if i.tenBit then 1 else 0

/-- Word 0 of the slot status block of a picture (R294). -/
def picStatusWord (i : PicInfo) (state rows : Nat) : Nat :=
  state + picFormat i * 4 + rows % 2 ^ 16 * 2 ^ 16 + i.width % 2 ^ 16 * 2 ^ 32 + i.height % 2 ^ 16 * 2 ^ 48

/-! ### Starting a picture (R284, R288, R290, R291, R295, R299) -/

def DecCtx.freeSlot (d : DecCtx) : Option Nat :=
  (List.range d.slots.length).find? (fun i => match d.slots[i]? with | some x => x.holds == 0 && !x.decoding | none => false)

/-- Decode contexts whose access unit is ready. -/
def State.readyUnits (s : State) (m : Nat) : List (Nat × (DecCtx × MediaCmd)) :=
  (s.mediaPipe m).ctxs.filterMap (fun e =>
    match e.2.kind, e.2.closing with
    | .dec d, none => d.unit.map (fun u => (e.1, (d, u)))
    | _, _ => none)

/-- The oldest fetch wins, then the lower context. -/
def oldestOf {α : Type} (ts : α → Nat) (l : List (Nat × α)) : Option (Nat × α) :=
  l.foldl (fun best e => match best with | none => some e | some b => if ts e.2 < ts b.2 then some e else best) none

/-- Where a context's state lies (R291). -/
def State.ctxArea (s : State) (m c : Nat) : Nat := s.rd64 (Reg.CTX_BASE_LO m) % 2 ^ 48 + 0x40000 * c

/-- What a context's state holds (R291): parameter sets and sequence headers, CDF tables, rate control, each list behind its length. -/
def CtxKind.fields (k : CtxKind) : List Nat :=
  let counted := fun (l : List Nat) => l.length :: l
  let opt := fun (x : Option Nat) => match x with | some v => [1, v] | none => [0]
  match k with
  | .dec d =>
    d.params.length :: d.params.flatMap (fun p => [p.kind, p.id] ++ counted p.bytes)
      ++ d.cdfs.length :: d.cdfs.flatMap (fun e => e.1 :: counted e.2)
  | .enc e =>
    [e.carry, e.lastBits, e.coded] ++ opt (e.lastQp.map (fun q => q.1)) ++ opt (e.lastQp.map (fun q => q.2)) ++ opt e.maxqBits ++ opt e.sinceKey ++ counted e.cdf

/-- The outgoing context's state is saved (R291): what it holds, then whatever else the engine keeps in the area. -/
def State.saveCtx (m c : Nat) (saved : List Nat) (s : State) : State :=
  match s.mediaCtx m c with
  | none => s
  | some k =>
    let image := ((Config.ctxImage k.kind.fields ++ saved).take 0x40000).map (BitVec.ofNat 8)
    (s.blockWrite (s.ctxArea m c) image).2.putCtx m c { k with image := some image }

/-- What a context's kind holds after its state has been loaded from other bytes than were saved. -/
def CtxKind.restored (k : CtxKind) (bytes : List Nat) : CtxKind :=
  match k with
  | .dec d => .dec { d with
      params := (Config.imageParams bytes).map (fun e => ⟨e.1, e.2.1, false, true, e.2.2⟩), cdfs := Config.imageCdfs bytes }
  | .enc e => .enc { e with
      carry := Config.imageRate bytes 0, lastQp := some (Config.imageRate bytes 1, Config.imageRate bytes 2)
      maxqBits := some (Config.imageRate bytes 3), lastBits := Config.imageRate bytes 4, cdf := Config.imageCdf bytes }

/-- The incoming context's state is loaded (R291): the status of a word that cannot be read. -/
def State.loadCtx (m c : Nat) (s : State) : Option Nat × State :=
  match s.mediaCtx m c with
  | none => (none, s)
  | some k =>
    match k.image with
    | none => (none, s)
    | some image =>
      let r := s.hbmRead 2 (s.ctxArea m c) image.length
      if r.1.isNone && r.2.1 == image then (none, r.2.2)
      else (r.1, r.2.2.putCtx m c { k with kind := k.kind.restored (r.2.1.map (fun b => b.toNat)) })

/-- A switch of context (R291): the outgoing context's state is saved and the incoming one's loaded. -/
def State.switchCtx (m : Nat) (loaded : Option Nat) (c : Nat) (saved : List Nat) (s : State) : Option Nat × State :=
  match loaded with
  | none => s.loadCtx m c
  | some o => if o = c then (none, s) else ((s.mediaCount m 5).saveCtx m o saved).loadCtx m c

/-- The bytes of a range up to its first word that cannot be read (R300). -/
def State.readableBytes (s : State) (a n : Nat) : Nat :=
  match (wordsOf 32 a n).find? s.wordFails with
  | some w => min n (w * 32 - a)
  | none => n

/-- Read an access unit: the status of a word that cannot be read, at which the unit ends (R300); its bytes pass the path of R421. -/
def State.readUnit (m c : Nat) (u : MediaCmd) (s : State) : Option Nat × List Byte × State :=
  let a := u.word 1 % 2 ^ 48
  let n := bitsAt (u.word 2) 0 32
  if bitOf (u.word 1) 63 then
    let b := s.hostRead a n
    (none, b, s.hostReading.feedPath 4 (m * 64 + c) b)
  else
    let r := s.hbmRead 2 a n
    let b := if r.1.isSome then r.2.1.take (s.readableBytes a n) else r.2.1
    (r.1, b, r.2.2.feedPath 4 (m * 64 + c) b)

/-- The chroma layouts that a codec's streams have (R283). -/
def chromaOk (codec : Nat) (k : PicChroma) : Bool :=
  match k with
  | .c420 => true
  | .grey => codec == 3 || codec == 4
  | .c422 | .c444 => codec == 4

/-- The profiles of a codec's streams with their bit depths, and their highest level in tenths (R283). -/
def streamOk (codec : Nat) (i : PicInfo) : Bool :=
  let level := fun (most : Nat) => decide (i.stream.level ≤ most)
  i.stream.inForm && chromaOk codec i.chroma &&
    (match codec, i.stream.profile with
     | 1, .constrainedBaseline | 1, .main | 1, .high => level 52 && !i.tenBit
     | 2, .main => level 51 && !i.tenBit
     | 2, .main10 | 3, .main => level 51
     | 4, .jpegBaseline => !i.tenBit
     | _, _ => false)

/-- A picture fits R283, R284 and its context (R290). In a stream that has fallen outside them it must be a key picture behind a header within R283; a
JPEG image brings its own. -/
def DecCtx.fits (d : DecCtx) (i : PicInfo) : Bool :=
  decide (16 ≤ i.width ∧ i.width ≤ d.maxW ∧ 16 ≤ i.height ∧ i.height ≤ d.maxH ∧ i.width * i.height ≤ 9437184)
    && streamOk d.codec i && (!i.tenBit || d.depth10) && (!d.unsupported || (i.key && (d.renewed || d.codec == 4)))

def isRef (x : RingSlot) : Bool := bitOf x.holds 0

/-- The slot of a context that holds a picture as a reference. -/
def DecCtx.refSlot (d : DecCtx) (number : Nat) : Option Nat :=
  (List.range d.slots.length).find? (fun i => match d.slots[i]? with | some x => isRef x && x.number == number | none => false)

/-- Reference holds: the stream's unmarkings, then the oldest beyond MAX_REFS (R290, R295). -/
def State.trimRefs (m c : Nat) (s : State) : State :=
  match s.decCtx m c with
  | none => s
  | some d =>
    let refs := d.slots.filter isRef
    if refs.length ≤ d.maxRefs then s
    else
      match (refs.map (fun x => x.number)).min? with
      | some n => (match d.refSlot n with | some i => s.unhold m c i 0 | none => s)
      | none => s

/-- An entry for a part of an access unit that takes no ring slot. -/
def State.noPicture (m c : Nat) (u : MediaCmd) (st : Nat) (mem : Option Nat) (s : State) : State :=
  s.mediaEntry m c (mem.getD st) 1 u.tag (0x1F + (2 ^ 5 + 8 * boolNat mem.isSome) * 2 ^ 8) (u.word 3) s.now

def State.endUnit (m c : Nat) (last : Bool) (s : State) : State :=
  if last then s.updDec m c (fun d => { d with unit := none, unitBytes := [], unitMem := none }) else s

/-- Parameter sets and sequence headers of an access unit (R284, R297): a damaged one is discarded, and the previous one of its identifier stands. -/
def DecCtx.takeSets (d : DecCtx) (sets : List ParamSet) : DecCtx :=
  { d with renewed := d.renewed || sets.any (fun p => p.within && !p.damaged), params := sets.foldl (fun l p =>
      if p.damaged then l else l.filter (fun q => q.kind != p.kind || q.id != p.id) ++ [p]) d.params }

/-- A stream falls outside R283 or R284 (R284): its pictures wait for a header and a key picture. -/
def State.unsupport (m c : Nat) (s : State) : State :=
  (s.updDec m c (fun d => { d with unsupported := true, renewed := false })).mediaCount m 11

/-- Place the holds of a picture and write its status block (R294, R295). A word of the slot that cannot be written loses the picture as a reference
(R300). -/
def State.startPicture (m p c : Nat) (k : MediaCtx) (d : DecCtx) (u : MediaCmd) (i : Nat) (info : PicInfo) (last : Bool)
    (damaged : Bool) (mem : Option Nat) (s : State) : State :=
  let s := s.overList info.unmarks (fun n t =>
    match t.decCtx m c with
    | some d => (match d.refSlot n with | some j => t.unhold m c j 0 | none => t)
    | none => t)
  let refSlots := match s.decCtx m c with
    | some d => info.refs.map (fun n => n.bind d.refSlot)
    | none => []
  let missing := (refSlots.zipIdx.filter (fun e => e.1.isNone)).map (fun e => e.2)
  let number := d.next
  let s := s.updDec m c (fun d => { updSlotOf i (fun _ => ⟨number, 0, true, picFormat info⟩) d with next := number + 1, unsupported := false })
  let s := s.setHolds m c i (boolNat info.reference + boolNat d.hostHold * 4)
  let s := s.trimRefs m c
  let words := s.slotWords d i
    [(0, picStatusWord info 1 0), (1, d.pitch), (2, d.mapPitch * 2 ^ 32), (3, u.word 3), (4, 0), (5, 0), (6, number)]
  let map := words.2.hbmWrite 2 (d.mapAt i) (List.replicate (d.mapPitch * (rows16 d.maxH / 16)) 0)
  let bad := keepFirst words.1 map.1
  let s := if bad.isSome then map.2.unhold m c i 0 else map.2
  let s := s.overList (s.followers p m c) (fun q t => t.arriveFrame p m c k d i number info.width info.height q)
  let s := if missing.isEmpty then s else s.mediaCount m 2
  s.updMedia m (fun x => { x with dec := some {
    ctx := c, tag := u.tag, pts := u.word 3, slot := i, info := info, last := last, number := number, missing := missing
    refSlots := refSlots, ended := false, done := [], marked := [], resync := damaged, concealed := false, mem := keepFirst mem bad, rows := 0, firstTs := 0, cdf := [] } })

/-- Contexts whose access unit is ready but whose ring has no free slot wait for one (R295). -/
def State.noteSlotWaits (m : Nat) (units : List (Nat × (DecCtx × MediaCmd))) (s : State) : State :=
  s.overList units (fun e t =>
    if e.2.1.freeSlot.isNone && !e.2.1.waiting then (t.mediaCount m 4).updDec m e.1 (fun d => { d with waiting := true }) else t)

/-- The engine takes up a context (R291): its state is switched in, and at its first picture the access unit is read. -/
def State.takeUnit (m c : Nat) (u : MediaCmd) (loaded : Option Nat) (saved : List Nat) (s : State) : State :=
  let s := s.commitRS (inRange (Reg.PIPE_INFO m) 0x1000)
  let w := s.switchCtx m loaded c saved
  let s := (w.2.updMedia m (fun y => { y with decLoaded := some c })).updDec m c (fun d => { d with unitMem := keepFirst d.unitMem w.1 })
  let q := s.mediaQueue m c
  if q.head? = some u then
    let r := (s.putQueue m c (q.drop 1)).readUnit m c u
    r.2.2.updDec m c (fun d => { d with unitBytes := r.2.1, unitMem := keepFirst d.unitMem r.1 })
  else s

/-- The part of an access unit that the engine takes next: a picture that fits starts; what is no picture, or is one that the
engine does not support, takes no slot (R284, R288, R290). A unit that ends at a word that cannot be read ends its last part there (R300). -/
def State.startPart (m p c : Nat) (k : MediaCtx) (d : DecCtx) (u : MediaCmd) (i : Nat) (part : UnitPart) (last : Bool)
    (sets : List ParamSet) (s : State) : State :=
  let mem := match s.decCtx m c with | some x => if last then x.unitMem else none | none => none
  let damaged := sets.any (fun x => x.damaged)
  let s := (if damaged then s.mediaCount m 3 (sets.countP (fun x => x.damaged)) else s).updDec m c (fun x => x.takeSets sets)
  match part with
  | .noPicture => (s.noPicture m c u 0x8000 mem).endUnit m c true
  | .unsupported => ((s.unsupport m c).noPicture m c u St.MED_UNSUPPORTED mem).endUnit m c last
  | .picture info =>
    if ((s.decCtx m c).getD d).fits info then s.startPicture m p c k d u i info last damaged mem
    else ((s.unsupport m c).noPicture m c u St.MED_UNSUPPORTED mem).endUnit m c last

/-- PICTURE_DECODE_START (R291, R295): at a picture boundary the engine takes the next part of the oldest ready access unit. -/
def State.decodeStart (m : Nat) (part : UnitPart) (last : Bool) (sets : List ParamSet) (saved : List Nat) (s : State) : State :=
  match s.pipeOwner m with
  | none => s
  | some p =>
    let x := s.mediaPipe m
    if !s.pipeWorks m || s.pipeHot m || !s.engineUp (.pipe m) || x.dec.isSome || !x.held.isEmpty || s.mcqFull m then s
    else
      let units := s.readyUnits m
      let s := s.noteSlotWaits m units
      match oldestOf (fun e => e.2.fetchTs) (units.filter (fun e => e.2.1.freeSlot.isSome)) with
      | none => s
      | some (c, d, u) =>
        match s.mediaCtx m c, d.freeSlot with
        | some k, some i =>
          if bitOf (u.word 1) 63 && !s.hostReadable 1 (p + 1) then s
          else
            (s.takeUnit m c u x.decLoaded saved).startPart m p c k d u i part last sets
        | _, _ => s

/-! ### Decoding blocks (R293, R296 to R300) -/

def blockKey (bx ypos : Nat) : Nat := 1024 * ypos + bx

/-- Chroma rows of a 16×16 block as it is written. -/
def chromaRows (i : PicInfo) : Nat := if i.chroma = .c422 then 16 else 8

/-- Mid-grey (R283, R298). -/
def picGrey (i : PicInfo) : Nat := if i.tenBit then 512 else 128

/-- The mean of four samples, the spec rounding it no way where it is no whole number. -/
def meanOf4 (a b c d : Nat) : Nat := let n := a + b + c + d; n / 4 + (if n % 4 ≠ 0 ∧ Config.roundsUp n 4 then 1 else 0)

/-- Chroma samples as they are written (R283): 4:4:4 averaged over each 2×2 block into 4:2:0, none as mid-grey. -/
def picChroma (i : PicInfo) (l : List Nat) : List Nat :=
  match i.chroma with
  | .c420 | .c422 => l
  | .grey => List.replicate 128 (picGrey i)
  | .c444 =>
    (List.range 8).flatMap (fun y => (List.range 16).map (fun k =>
      let g := fun (dx dy : Nat) => l.getD (32 * (2 * y + dy) + 4 * (k / 2) + 2 * dx + k % 2) 0
      meanOf4 (g 0 0) (g 1 0) (g 0 1) (g 1 1)))

/-- Rows of a block within the picture: address and first sample of each, for luma or for chroma, with the bytes of a row. -/
def blockRows (d : DecCtx) (i : PicInfo) (slot bx ypos : Nat) (luma : Bool) : List (Nat × Nat) × Nat :=
  let b := sampleBytes i.tenBit
  let per := if luma then 16 else chromaRows i
  let height := if luma then i.height else ceilDiv (i.height * chromaRows i) 16
  let width := if luma then i.width else ceilDiv i.width 2 * 2
  let base := if luma then d.lumaAt slot else d.chromaAt slot
  let rows := (List.range per).filter (fun r => decide (per * ypos + r < height))
  (rows.map (fun r => (base + (per * ypos + r) * d.pitch + 16 * bx * b, 16 * r)), min 16 (width - 16 * bx) * b)

/-- Bytes of samples: 10-bit samples stand in bits [15:6] (R283). -/
def sampleList (tenBit : Bool) (l : List Nat) : List Byte :=
  if tenBit then l.flatMap (fun v => leBytes 2 (v % 1024 * 64)) else l.map (BitVec.ofNat 8)

/-- Write one plane of a block; the status of a word that cannot be written in part (R123, R300). -/
def State.putBlock (d : DecCtx) (i : PicInfo) (slot bx ypos : Nat) (luma : Bool) (samples : List Byte) (s : State) : Option Nat × State :=
  let (rows, n) := blockRows d i slot bx ypos luma
  let b := sampleBytes i.tenBit
  rows.foldl (fun (acc : Option Nat × State) r =>
    let w := acc.2.hbmWrite 2 r.1 (sliceBytes samples (r.2 * b) n)
    (match acc.1 with | some st => some st | none => w.1, w.2)) (none, s)

/-- Read one plane of a block of another slot, laid out as a full block. -/
def State.getBlock (d : DecCtx) (i : PicInfo) (slot bx ypos : Nat) (luma : Bool) (s : State) : Option Nat × List Byte × State :=
  let (rows, n) := blockRows d i slot bx ypos luma
  let b := sampleBytes i.tenBit
  rows.foldl (fun (acc : Option Nat × List Byte × State) r =>
    let w := acc.2.2.hbmRead 2 r.1 n
    (match acc.1 with | some st => some st | none => w.1, acc.2.1 ++ w.2.1 ++ List.replicate (16 * b - n) 0, w.2.2)) (none, [], s)

/-- The current slot cannot be read or written in full (R300): the picture counts as never received, and carries the status. -/
def State.loseCurrent (m st : Nat) (r : DecRun) (s : State) : DecRun × State :=
  ({ r with mem := keepFirst r.mem (some st) }, s.unhold m r.ctx r.slot 0)

/-- A write to the current slot has ended: one that could not be made loses the picture (R131, R300). -/
def State.wroteCurrent (m : Nat) (r : DecRun) (w : Option Nat × State) : DecRun × State :=
  match w.1 with
  | some st => w.2.loseCurrent m st r
  | none => (r, w.2)

/-- Mark a block in the map (R293). -/
def State.markBlock (m : Nat) (d : DecCtx) (slot bx ypos : Nat) (r : DecRun) (s : State) : DecRun × State :=
  let r := { r with marked := setInsert (blockKey bx ypos) r.marked }
  let byte := ((List.range 8).map (fun i => 2 ^ i * boolNat (r.marked.contains (blockKey (bx / 8 * 8 + i) ypos)))).sum
  let x := State.wroteCurrent m r (s.hbmWrite 2 (d.mapAt slot + ypos * d.mapPitch + bx / 8) [BitVec.ofNat 8 byte])
  (x.1, x.2.updMedia m (fun y => { y with dec := some x.1 }))

/-- A reference that cannot be read counts as never received (R300). -/
def State.loseRef (m : Nat) (ri n st : Nat) (r : DecRun) (s : State) : DecRun × State :=
  let s := if r.missing.isEmpty then s.mediaCount m 2 else s
  let s := match s.decCtx m r.ctx with
    | some d => (match d.refSlot n with | some j => s.unhold m r.ctx j 0 | none => s)
    | none => s
  ({ r with missing := r.missing ++ [ri], mem := keepFirst r.mem (some st) }, s)

/-- Read a block of a reference, both planes, and its map bit (R298): the status of a word that cannot be read, and whether it is marked. -/
def State.readRefBlock (d : DecCtx) (i : PicInfo) (slot bx ypos : Nat) (s : State) : Option Nat × Bool × State :=
  let y := s.getBlock d i slot bx ypos true
  let c := y.2.2.getBlock d i slot bx ypos false
  let k := c.2.2.hbmRead 2 (d.mapAt slot + ypos * d.mapPitch + bx / 8) 1
  (keepFirst (keepFirst y.1 c.1) k.1, bitOf (leAt k.2.1 0 1) (bx % 8), k.2.2)

/-- Is a block of a reference marked, or the reference missing (R298, R299)? A reference that cannot be read is lost (R300). -/
def State.readsMarked (m : Nat) (d : DecCtx) (r : DecRun) (q : Nat × (Nat × Nat)) (s : State) : Bool × DecRun × State :=
  if r.missing.contains q.1 then (true, r, s)
  else
    match r.info.refs[q.1]?, r.refSlots[q.1]? with
    | some (some n), some (some j) =>
      (match s.readRefBlock d r.info j q.2.1 q.2.2 with
       | (some st, _, s) => let x := s.loseRef m q.1 n st r; (true, x.1, x.2)
       | (none, mark, s) => (mark, r, s))
    | _, _ => (true, r, s)

/-- Is a neighbouring block marked that a block was predicted from (R298), or can it not be read (R300)? -/
def State.neighbourMarked (m : Nat) (d : DecCtx) (r : DecRun) (n : Nat × Nat) (s : State) : Bool × DecRun × State :=
  let y := s.getBlock d r.info r.slot n.1 n.2 true
  let c := y.2.2.getBlock d r.info r.slot n.1 n.2 false
  match keepFirst y.1 c.1 with
  | some st => let x := c.2.2.loseCurrent m st r; (true, x.1, x.2)
  | none => (r.marked.contains (blockKey n.1 n.2), r, c.2.2)

def DecRun.inPicture (r : DecRun) (bx ypos : Nat) : Bool :=
  decide (bx < ceilDiv r.info.width 16 ∧ ypos < ceilDiv r.info.height 16) && !r.done.contains (blockKey bx ypos)

/-- One plane of a block of the context's last correctly decoded picture, or mid-grey if there is none or it cannot be read (R298, R299). -/
def State.substituteBlock (d : DecCtx) (i : PicInfo) (bx ypos : Nat) (luma : Bool) (s : State) : Option Nat × List Byte × State :=
  let grey := sampleList i.tenBit (List.replicate (16 * (if luma then 16 else chromaRows i)) (picGrey i))
  match d.lastGood with
  | some j =>
    (match s.getBlock d i j bx ypos luma with
     | (some st, _, s) => (some st, grey, s)
     | (none, l, s) => (none, l, s))
  | none => (none, grey, s)

/-- Write a plane of the current block; a word that cannot be written in part loses the picture (R300). -/
def State.putCurrent (m : Nat) (d : DecCtx) (bx ypos : Nat) (luma : Bool) (bytes : List Byte) (r : DecRun) (s : State) : DecRun × State :=
  State.wroteCurrent m r (s.putBlock d r.info r.slot bx ypos luma bytes)

/-- A concealed block takes the co-located samples of the last correctly decoded picture, or mid-grey (R298). -/
def State.concealBlock (m : Nat) (d : DecCtx) (b : Nat × Nat) (r : DecRun) (s : State) : DecRun × State :=
  if !r.inPicture b.1 b.2 then (r, s)
  else
    let plane := fun (luma : Bool) (r : DecRun) (s : State) =>
      let x := s.substituteBlock d r.info b.1 b.2 luma
      State.putCurrent m d b.1 b.2 luma x.2.1 { r with mem := keepFirst r.mem x.1 } x.2.2
    let (r, s) := plane true r s
    let (r, s) := plane false r s
    State.markBlock m d r.slot b.1 b.2 { r with done := setInsert (blockKey b.1 b.2) r.done, concealed := true } s

/-- Samples of bytes as they stand in a plane. -/
def samplesOf (tenBit : Bool) (b : List Byte) : List Nat :=
  if tenBit then (List.range (b.length / 2)).map (fun i => leAt b (2 * i) 2 / 64) else b.map (fun x => x.toNat)

/-- The samples of one plane of a decoded block: those of the stream, and where its prediction reads missing references, what the substitute's
samples at the blocks read make of them (R299). -/
def State.blockSamples (d : DecCtx) (r : DecRun) (b : DecodedBlock) (luma : Bool) (s : State) : Option Nat × List Nat × State :=
  let coded := if luma then b.luma else picChroma r.info b.chroma
  let absent := b.inter.filter (fun q => r.missing.contains q.1)
  if absent.isEmpty then (none, coded, s)
  else
    let subs := absent.foldl (fun (acc : Option Nat × List Nat × State) q =>
      let x := acc.2.2.substituteBlock d r.info q.2.1 q.2.2 luma
      (keepFirst acc.1 x.1, acc.2.1 ++ samplesOf r.info.tenBit x.2.1, x.2.2)) (none, [], s)
    (subs.1, (List.range (16 * (if luma then 16 else chromaRows r.info))).map (Config.substituted d.codec coded subs.2.1), subs.2.2)

/-- A decoded block is written, and marked where its prediction used marked samples (R298, R299). -/
def State.decodeBlockAt (m : Nat) (d : DecCtx) (b : DecodedBlock) (r : DecRun) (s : State) : DecRun × State :=
  if !r.inPicture b.bx b.ypos then (r, s)
  else
    let look := b.inter.foldl (fun (acc : Bool × DecRun × State) q =>
      let x := State.readsMarked m d acc.2.1 q acc.2.2
      (acc.1 || x.1, x.2)) (false, r, s)
    let near := b.intra.foldl (fun (acc : Bool × DecRun × State) n =>
      let x := State.neighbourMarked m d acc.2.1 n acc.2.2
      (acc.1 || x.1, x.2)) look
    let plane := fun (luma : Bool) (x : DecRun × State) =>
      let w := x.2.blockSamples d x.1 b luma
      State.putCurrent m d b.bx b.ypos luma (sampleList x.1.info.tenBit w.2.1) { x.1 with mem := keepFirst x.1.mem w.1 } w.2.2
    let x := plane false (plane true near.2)
    let r := { x.1 with done := setInsert (blockKey b.bx b.ypos) x.1.done }
    if near.1 then State.markBlock m d r.slot b.bx b.ypos r x.2 else (r, x.2)

/-- LAG of R296. -/
def decodeLag (codec : Nat) : Nat := match codec with | 4 => 0 | 3 => 16 | _ => 8

/-- Every block of the 16-row bands down to a row has been decoded or concealed. -/
def DecRun.covered (r : DecRun) (rows : Nat) : Bool :=
  (List.range (ceilDiv (min rows r.info.height) 16)).all (fun y =>
    (List.range (ceilDiv r.info.width 16)).all (fun x => r.done.contains (blockKey x y)))

/-- Publish ROWS_DONE (R296). -/
def State.publishRows (m : Nat) (d : DecCtx) (rows : Nat) (r : DecRun) (s : State) : DecRun × State :=
  if rows ≤ r.rows then (r, s)
  else
    let first := r.rows == 0
    let r := { r with rows := rows, firstTs := if first then s.now else r.firstTs }
    let x := State.wroteCurrent m r (s.slotWords d r.slot ((0, picStatusWord r.info 1 rows) :: (if first then [(4, r.firstTs)] else [])))
    (x.1, (x.2.updMedia m (fun y => { y with dec := some x.1 })).frameRows m x.1)

/-- B of R296: what the codec fixes, else one of the sizes that the codec has. -/
def codingHeight (codec block : Nat) : Nat :=
  match codec with
  | 1 | 4 => 16
  | 3 => if block = 64 then 64 else 128
  | _ => if block = 16 ∨ block = 32 then block else 64

/-- Block rows complete from the top (R296). -/
def DecRun.completeRows (r : DecRun) (b : Nat) : Nat :=
  ((List.range (ceilDiv r.info.height b)).takeWhile (fun i => r.covered ((i + 1) * b))).length

/-- A start code at a byte of an access unit that begins a slice (R297). -/
def sliceStart (codec : Nat) (b : List Byte) (i : Nat) : Bool :=
  let kind := if codec = 1 then leAt b (i + 3) 1 % 32 else leAt b (i + 3) 1 / 2 % 64
  decide (i + 3 < b.length) && leAt b i 1 == 0 && leAt b (i + 1) 1 == 0 && leAt b (i + 2) 1 == 1
    && (if codec = 1 then kind == 1 || kind == 5 else decide (kind ≤ 9 ∨ (16 ≤ kind ∧ kind ≤ 21)))

/-- A restart marker at a byte of a JPEG image. -/
def restartMarker (b : List Byte) (i : Nat) : Bool := leAt b i 1 == 0xFF && leAt b (i + 1) 1 / 8 == 0xD0 / 8

/-- A number in groups of seven bits and the bytes it takes. -/
def readLeb (b : List Byte) : Nat → Nat → Nat × Nat
  | 0, _ => (0, 0)
  | fuel + 1, i =>
    let v := leAt b i 1
    if v < 128 then (v, 1) else let r := readLeb b fuel (i + 1); (v % 128 + 128 * r.1, r.2 + 1)

/-- Where the OBUs of a temporal unit begin, by their size fields. -/
def obuStarts (b : List Byte) : Nat → Nat → List Nat
  | 0, _ => []
  | fuel + 1, i =>
    if b.length ≤ i then []
    else
      let head := if bitOf (leAt b i 1) 2 then 2 else 1
      let size := readLeb b 8 (i + head)
      i :: (if bitOf (leAt b i 1) 1 then obuStarts b fuel (i + head + size.2 + size.1) else [])

/-- The access unit holds a resynchronisation point after the error (R297): the next start code that begins a slice; the next tile, or the next OBU; the
next restart marker. -/
def errorResumes (codec : Nat) (b : List Byte) (e : StreamError) : Bool :=
  let later := (List.range b.length).drop (e.byte + 1)
  match codec with
  | 3 => (e.tiles ++ obuStarts b b.length 0).any (fun i => decide (e.byte < i ∧ i < b.length))
  | 4 => later.any (restartMarker b)
  | _ => later.any (sliceStart codec b)

/-- An OBU's size field reaches beyond its temporal unit (R297). -/
def obuOverruns (codec : Nat) (b : List Byte) : Bool :=
  codec == 3 && (obuStarts b b.length 0).any (fun i =>
    let head := if bitOf (leAt b i 1) 2 then 2 else 1
    let size := readLeb b 8 (i + head)
    bitOf (leAt b i 1) 1 && decide (b.length < i + head + size.2 + size.1))

/-- Every block of a picture, in raster order. -/
def DecRun.allBlocks (r : DecRun) : List (Nat × Nat) :=
  (List.range (ceilDiv r.info.height 16)).flatMap (fun y => (List.range (ceilDiv r.info.width 16)).map (fun x => (x, y)))

/-- The blocks between an error and where parsing resumes (R297): H.264 and JPEG code them in raster order. -/
def errorBlocks (codec : Nat) (e : StreamError) (r : DecRun) : List (Nat × Nat) :=
  if codec = 1 ∨ codec = 4 then r.allBlocks.filter (fun b => decide (b.2 < e.resumes.2 ∨ (b.2 = e.resumes.2 ∧ b.1 < e.resumes.1)))
  else e.blocks

/-- A syntax error (R297): the blocks up to the resumption are concealed; where nothing resumes, no more of the picture is decoded. -/
def State.syntaxError (m : Nat) (d : DecCtx) (e : StreamError) (r : DecRun) (s : State) : DecRun × State :=
  if r.ended then (r, s)
  else
    let r := { r with resync := true, ended := !errorResumes d.codec d.unitBytes e }
    let s := s.mediaCount m 3
    if r.ended then (r, s) else (errorBlocks d.codec e r).foldl (fun (acc : DecRun × State) b => State.concealBlock m d b acc.1 acc.2) (r, s)

/-- Blocks of a row are concealed or decoded, and finished rows are published (R296 to R299). -/
def State.decodeRow (m : Nat) (row : BlockRow) (d : DecCtx) (r : DecRun) (s : State) : State :=
  let acc := row.blocks.foldl (fun (acc : DecRun × State) b => if acc.1.ended then acc else State.decodeBlockAt m d b acc.1 acc.2) (r, s)
  let acc := row.errors.foldl (fun (acc : DecRun × State) e => State.syntaxError m d e acc.1 acc.2) acc
  let r := if d.codec = 3 ∧ !row.cdf.isEmpty then { acc.1 with cdf := row.cdf } else acc.1
  let s := acc.2.updMedia m (fun x => { x with dec := some r })
  let b := codingHeight d.codec r.info.block
  (State.publishRows m d (min r.info.height ((r.completeRows b * b - decodeLag d.codec) / 16 * 16)) r s).2

/-- BLOCK_ROW_DECODED (R296 to R299). -/
def State.blockRow (m : Nat) (row : BlockRow) (s : State) : State :=
  match (s.mediaPipe m).dec with
  | none => s
  | some r =>
    match s.decCtx m r.ctx with
    | none => s
    | some d => if !s.pipeWorks m then s else s.decodeRow m row d r

/-- FLAGS of a PICTURE entry (R288). -/
def DecRun.flags (r : DecRun) : Nat :=
  boolNat r.concealed + 2 * boolNat (!r.missing.isEmpty) + 4 * boolNat r.resync + 8 * boolNat r.mem.isSome + 16 * boolNat r.info.key

/-- STATUS of a picture (R301). -/
def DecRun.status (r : DecRun) : Nat :=
  match r.mem with
  | some st => st
  | none => if !r.missing.isEmpty then St.MED_MISSING_REF else if r.concealed then St.MED_CONCEALED else 0x8000

/-- What the access unit left out is concealed (R297), and every row is published. An OBU that reaches beyond the unit is an error too. -/
def State.concealRest (m : Nat) (d : DecCtx) (r : DecRun) (s : State) : DecRun × State :=
  let left := r.allBlocks.filter (fun b => !r.done.contains (blockKey b.1 b.2))
  let bad := !left.isEmpty || (r.last && obuOverruns d.codec d.unitBytes)
  let s := if !bad || r.ended || (left.isEmpty && r.resync) then s else s.mediaCount m 3
  let r := { r with resync := r.resync || bad }
  let x := left.foldl (fun (acc : DecRun × State) b => State.concealBlock m d b acc.1 acc.2) (r, s)
  State.publishRows m d r.info.height x.1 x.2

/-- The status block of a picture that has ended (R294): its state last. Words that cannot be written lose the picture (R300), which the words after
them say. -/
def State.closeSlot (m : Nat) (d : DecCtx) (r : DecRun) (s : State) : DecRun × State :=
  let put := fun (w : DecRun → List (Nat × Nat)) (x : DecRun × State) => State.wroteCurrent m x.1 (x.2.slotWords d x.1.slot (w x.1))
  let x := put (fun _ => [(5, s.now)]) (r, s)
  let x := put (fun r => [(2, r.marked.length + d.mapPitch * 2 ^ 32)]) x
  put (fun r => [(1, d.pitch + r.status * 2 ^ 32 + r.flags * 2 ^ 48), (0, picStatusWord r.info 2 r.rows)]) x

/-- The last-good hold moves to a picture without a fault (R295, R298). -/
def State.moveLastGood (m : Nat) (d : DecCtx) (r : DecRun) (s : State) : State :=
  let good := r.status == 0x8000 && (r.flags == 0 || r.flags == 16) && r.marked.isEmpty
  if good then
    let s := match d.lastGood with | some j => if j = r.slot then s else s.unhold m r.ctx j 1 | none => s
    let s := s.updDec m r.ctx (fun d => { d with lastGood := some r.slot })
    let h := s.holdsOf m r.ctx r.slot
    s.setHolds m r.ctx r.slot (if bitOf h 1 then h else h + 2)
  else s.setHolds m r.ctx r.slot (s.holdsOf m r.ctx r.slot)

/-- The CDF tables that a picture held as a reference leaves (R291). -/
def DecCtx.keepCdf (d : DecCtx) (r : DecRun) : DecCtx :=
  { d with cdfs := (d.cdfs ++ (if d.codec = 3 then [(r.number, r.cdf)] else [])).filter (fun e => (d.refSlot e.1).isSome) }

/-- The picture ends (R288, R289, R295, R301): its status block, its holds, its counters, its entry and its frames. -/
def State.endPicture (m : Nat) (k : MediaCtx) (d : DecCtx) (r : DecRun) (s : State) : State :=
  let x := s.closeSlot m d r
  let r := x.1
  let st := r.status
  let s := x.2.updMedia m (fun x => { x with dec := none })
  let s := s.updDec m r.ctx (fun d => (updSlotOf r.slot (fun x => { x with decoding := false }) d).keepCdf r)
  let s := s.moveLastGood m d r
  let s := ((s.mediaCount m 0).mediaCount m 1 r.marked.length).ledgerAdd (0x7000 + m) 1 r.marked.length
  let s := s.mediaEntry m r.ctx st 1 r.tag (r.slot + r.flags * 2 ^ 8 + r.marked.length * 2 ^ 16) r.pts s.now
  let s := (s.endUnit m r.ctx (r.last || k.closing.isSome)).framesDone m r st
  let s := if k.closing.isSome then s.dropOwnHolds m r.ctx else s
  s.finishClose m r.ctx

/-- PICTURE_DECODE_COMPLETE (R289, R297, R301): what the access unit left out is concealed, and the picture ends. -/
def State.decodeComplete (m : Nat) (s : State) : State :=
  match (s.mediaPipe m).dec with
  | none => s
  | some r =>
    match s.mediaCtx m r.ctx, s.decCtx m r.ctx with
    | some k, some d =>
      if !s.pipeWorks m then s
      else
        let x := s.concealRest m d r
        x.2.endPicture m k d x.1
    | _, _ => s

/-! ### Commands -/

def execMediaCmdFetch (m : Nat) (upsets : List Upset) (s : State) : Out := .next ((s.upset upsets).mediaFetch m)
def execOpenDec (m c : Nat) (s : State) : Out := .next (s.onHead m c 1 (fun x s => s.openWith m c (.dec (openedDec x)) x))
def execOpenEnc (m c : Nat) (s : State) : Out := .next (s.onHead m c 2 (fun x s => s.openWith m c (.enc (openedEnc x)) x))
def execClose (m c : Nat) (s : State) : Out := .next (s.closeCtx m c)
def execDecode (m c : Nat) (s : State) : Out := .next (s.readyDecode m c)
def execRelease (m c : Nat) (s : State) : Out := .next (s.onFreeing m c 6 (State.releaseSlots m c))
def execRcUpdate (m c : Nat) (s : State) : Out := .next (s.onHead m c 7 (State.updateRate m c))
def execPictureDecodeStart (m : Nat) (unit : UnitFound) (last : Bool) (saved : List Nat) (upsets : List Upset) (s : State) : Out :=
  .next ((s.upset upsets).decodeStart m unit.part last unit.sets saved)
def execBlockRowDecoded (m : Nat) (row : BlockRow) (upsets : List Upset) (s : State) : Out := .next ((s.upset upsets).blockRow m row)
def execPictureDecodeComplete (m : Nat) (upsets : List Upset) (s : State) : Out := .next ((s.upset upsets).decodeComplete m)

end Sys2Proof.Machine
end

