-- ==== Sys2Proof/Machine/MediaStream.lean ====
section
/-! DEFINITION. Machine/MediaStream.lean: the form of an encoded stream: its units, headers and levels (R285, R303). Unit types, start codes and level limits are the codec standards', which the spec names. -/
namespace Sys2Proof.Machine

/-! ### Encoded streams: levels (R285) -/

/-- A level and what it admits: its code, luma samples of a picture, the squares of its longest width and height, luma samples a second, and 1,000 bits
a second. -/
structure LevelLimit where
  code : Nat
  picture : Nat
  widthSq : Nat
  heightSq : Nat
  rate : Nat
  kbps : Nat
  deriving DecidableEq, Repr

/-- A level of H.264 from its limits in macroblocks; the rate is that of the High profile. -/
def avcLevel (code mbps fs br : Nat) : LevelLimit := ⟨code, 256 * fs, 2048 * fs, 2048 * fs, 256 * mbps, br * 5 / 4⟩

/-- Level 1b has the code 9 in the High profile. -/
def avcLevels : List LevelLimit :=
  [avcLevel 10 1485 99 64, avcLevel 9 1485 99 128, avcLevel 11 3000 396 192, avcLevel 12 6000 396 384, avcLevel 13 11880 396 768, avcLevel 20 11880 396 2000,
   avcLevel 21 19800 792 4000, avcLevel 22 20250 1620 4000, avcLevel 30 40500 1620 10000, avcLevel 31 108000 3600 14000,
   avcLevel 32 216000 5120 20000, avcLevel 40 245760 8192 20000, avcLevel 41 245760 8192 50000, avcLevel 42 522240 8704 50000,
   avcLevel 50 589824 22080 135000, avcLevel 51 983040 36864 240000, avcLevel 52 2073600 36864 240000, avcLevel 60 4177920 139264 240000,
   avcLevel 61 8355840 139264 480000, avcLevel 62 16711680 139264 800000]

/-- A level of H.265, Main tier. -/
def hevcLevel (code ps sr br : Nat) : LevelLimit := ⟨code, ps, 8 * ps, 8 * ps, sr, br⟩

def hevcLevels : List LevelLimit :=
  [hevcLevel 30 36864 552960 128, hevcLevel 60 122880 3686400 1500, hevcLevel 63 245760 7372800 3000, hevcLevel 90 552960 16588800 6000,
   hevcLevel 93 983040 33177600 10000, hevcLevel 120 2228224 66846720 12000, hevcLevel 123 2228224 133693440 20000,
   hevcLevel 150 8912896 267386880 25000, hevcLevel 153 8912896 534773760 40000, hevcLevel 156 8912896 1069547520 60000,
   hevcLevel 180 35651584 1069547520 60000, hevcLevel 183 35651584 2139095040 120000, hevcLevel 186 35651584 4278190080 240000]

/-- Levels of AV1, Main tier. -/
def av1Levels : List LevelLimit :=
  [⟨0, 147456, 2048 ^ 2, 1152 ^ 2, 4423680, 1500⟩, ⟨1, 278784, 2816 ^ 2, 1584 ^ 2, 8363520, 3000⟩,
   ⟨4, 665856, 4352 ^ 2, 2448 ^ 2, 19975680, 6000⟩,
   ⟨5, 1065024, 5504 ^ 2, 3096 ^ 2, 31950720, 10000⟩, ⟨8, 2359296, 6144 ^ 2, 3456 ^ 2, 70778880, 12000⟩, ⟨9, 2359296, 6144 ^ 2, 3456 ^ 2, 141557760, 20000⟩,
   ⟨12, 8912896, 8192 ^ 2, 4352 ^ 2, 267386880, 30000⟩, ⟨13, 8912896, 8192 ^ 2, 4352 ^ 2, 534773760, 40000⟩, ⟨14, 8912896, 8192 ^ 2, 4352 ^ 2, 1069547520, 60000⟩,
   ⟨16, 35651584, 16384 ^ 2, 8704 ^ 2, 1069547520, 60000⟩, ⟨17, 35651584, 16384 ^ 2, 8704 ^ 2, 2139095040, 100000⟩, ⟨18, 35651584, 16384 ^ 2, 8704 ^ 2, 4278190080, 160000⟩]

/-- The lowest level that admits the picture size, the frame rate and BITRATE_KBPS; the highest where none does. -/
def EncCtx.level (e : EncCtx) (r : RateCfg) : Nat :=
  let unit := if e.codec = 1 then 16 else 1
  let w := ceilDiv e.width unit * unit
  let h := ceilDiv e.height unit * unit
  let table := match e.codec with | 1 => avcLevels | 2 => hevcLevels | _ => av1Levels
  let admits := fun (l : LevelLimit) =>
    decide (w * h ≤ l.picture ∧ w ^ 2 ≤ l.widthSq ∧ h ^ 2 ≤ l.heightSq ∧ w * h * r.fpsNum ≤ l.rate * r.fpsDen ∧ r.kbps ≤ l.kbps)
  match table.find? admits with
  | some l => l.code
  | none => (table.getLast?.map (fun l => l.code)).getD 0

/-- The profile in the codec's own number: High; Main or Main 10; Main. -/
def EncCtx.profile (e : EncCtx) : Nat := match e.codec with | 1 => 100 | 2 => if e.depth10 then 2 else 1 | _ => 0

/-- The tools of R285: CABAC, 8×8 transform and deblocking; CTB 64, deblocking and SAO; superblock 64, CDEF, no restoration, no superres. -/
def encodeTools (codec : Nat) : List Nat := match codec with | 1 => [1, 1, 1] | 2 => [64, 1, 1] | _ => [64, 1, 0, 0]

/-! ### Encoded streams: units (R285, R303) -/

/-- A size in groups of seven bits, least significant first. -/
def leb128 : Nat → Nat → List Nat
  | 0, _ => []
  | fuel + 1, n => if n < 128 then [n] else (n % 128 + 128) :: leb128 fuel (n / 128)

/-- One unit of a stream: a NAL unit behind a start code, or an OBU with its size. -/
def streamUnit (codec type : Nat) (long : Bool) (payload : List Byte) : List Byte :=
  let start : List Nat := (if long then [0] else []) ++ [0, 0, 1]
  let head : List Nat := match codec with
    | 1 => start ++ [(Config.refIdc type % 3 + 1) * 32 + type]
    | 2 => start ++ [2 * type, 1]
    | _ => [8 * type + 2] ++ leb128 5 payload.length
  head.map (BitVec.ofNat 8) ++ payload

/-- The quantiser of a row's coding; a skipped row codes none. -/
def RowCoding.quantiser : RowCoding → Nat
  | .coded q => q
  | .skipped _ => 0

/-- The unit type of a slice: an H.264 slice of a key picture or another; an independent H.265 slice segment; an AV1 tile group. -/
def sliceType (codec : Nat) (key : Bool) : Nat :=
  match codec with
  | 1 => if key then 5 else 1
  | 2 => if key then 19 + Config.idrKind % 2 else 1
  | _ => 4

/-- A header unit: its content is laid out by the codec's standard. -/
def EncCtx.headerUnit (e : EncCtx) (r : EncRun) (type : Nat) : List Byte :=
  streamUnit e.codec type true ((Config.streamHeader type
    ([e.profile, e.level r.rate, e.width, e.height, boolNat e.depth10, r.rate.fpsNum, r.rate.fpsDen, r.rate.kbps, boolNat r.key, e.coded,
        e.sliceRows, r.rows]
      ++ encodeTools e.codec ++ r.coding.map RowCoding.quantiser)).map (BitVec.ofNat 8))

/-- The header of a slice's own unit: its block rows, that it is independent, and its first quantiser; an AV1 tile group holds the tile rows that match
the slice. -/
def EncCtx.sliceHeader (e : EncCtx) (r : EncRun) (last : Nat) : List Byte :=
  (Config.sliceHeader (sliceType e.codec r.key)
    [r.sliceRow, last, 1, boolNat r.key, ((r.coding[r.sliceRow]?).map RowCoding.quantiser).getD 0]).map (BitVec.ofNat 8)

/-- The headers before a picture's first slice: SPS and PPS; VPS, SPS and PPS; a temporal delimiter, a sequence header and the frame header. Those that
carry parameters stand before key pictures only. -/
def EncCtx.headers (e : EncCtx) (r : EncRun) : List Byte :=
  let key := fun (l : List Nat) => if r.key then l.flatMap (e.headerUnit r) else []
  match e.codec with
  | 1 => key [7, 8]
  | 2 => key [32, 33, 34]
  | _ => streamUnit 3 2 true [] ++ key [1] ++ e.headerUnit r 3

/-- Last block row of the slice that starts at a row (R303). -/
def sliceEnd (e : EncCtx) (r : EncRun) : Nat :=
  (if e.sliceRows = 0 then r.rows else min r.rows (r.sliceRow + e.sliceRows)) - 1

/-- A slice as it stands in the output ring: the picture's headers before its first one, then its own unit. -/
def EncCtx.sliceBytes (e : EncCtx) (r : EncRun) (coded : List Byte) : List Byte :=
  let first := r.sliceRow == 0
  (if first then e.headers r else [])
    ++ streamUnit e.codec (sliceType e.codec r.key) ((first && !r.key) || Config.longStartCodes) (e.sliceHeader r (sliceEnd e r) ++ coded)

end Sys2Proof.Machine
end

