-- ==== Sys2Proof/Machine/MotionSearch.lean ====
section
/-! DEFINITION. Machine/MotionSearch.lean: the motion search of a P picture (R304): its planes, its costs, and its three levels. -/
namespace Sys2Proof

/-! ### Vectors -/

def Vector2.zero : Vector2 := ⟨0, 0⟩
def Vector2.add (a b : Vector2) : Vector2 := ⟨a.x + b.x, a.y + b.y⟩
def Vector2.sub (a b : Vector2) : Vector2 := ⟨a.x - b.x, a.y - b.y⟩
def Vector2.scale (k : Int) (a : Vector2) : Vector2 := ⟨k * a.x, k * a.y⟩

/-- A vector held within the codec's range. -/
def Vector2.clamp (codec : Nat) (v : Vector2) : Vector2 :=
  let hold := fun (axis : Nat) (i : Int) => max (-(Config.vectorRange codec axis : Int)) (min i (Config.vectorRange codec axis))
  ⟨hold 0 v.x, hold 1 v.y⟩

end Sys2Proof

namespace Sys2Proof.Machine

/-- Luma samples of a picture at one resolution, row by row. -/
structure Plane where
  width : Nat
  height : Nat
  rows : List (List Nat)
  deriving DecidableEq, Repr

/-- A coordinate held within a plane: positions outside read edge-replicated samples (R304). -/
def edgeCoord (size : Nat) (i : Int) : Nat := (max 0 (min i ((size : Int) - 1))).toNat

def Plane.sample (p : Plane) (x y : Int) : Nat := (p.rows.getD (edgeCoord p.height y) []).getD (edgeCoord p.width x) 0

/-- The samples of a w × h block. -/
def Plane.block (p : Plane) (x y : Int) (w h : Nat) : List (List Nat) :=
  (List.range h).map (fun (j : Nat) => (List.range w).map (fun (i : Nat) => p.sample (x + i) (y + j)))

/-- The copy at 1/2^l per axis: each sample stands for 2^l × 2^l. -/
def Plane.scaled (p : Plane) (l : Nat) : Plane :=
  let w := ceilDiv p.width (2 ^ l)
  let h := ceilDiv p.height (2 ^ l)
  if l = 0 then p else ⟨w, h, (List.range h).map (fun y => (List.range w).map (fun x =>
    Config.downscaled l (p.block ((x * 2 ^ l : Nat) : Int) ((y * 2 ^ l : Nat) : Int) (2 ^ l) (2 ^ l)).flatten))⟩

/-! ### Costs -/

def absDiff (a b : Nat) : Nat := a - b + (b - a)

/-- The sum of absolute differences of two blocks. -/
def sadOf (a b : List (List Nat)) : Nat := ((a.zip b).map (fun r => ((r.1.zip r.2).map (fun v => absDiff v.1 v.2)).sum)).sum

/-- The Hadamard transform of 2^k numbers. -/
def hadamard : Nat → List Int → List Int
  | 0, l => l
  | k + 1, l =>
    let a := l.take (2 ^ k)
    let b := l.drop (2 ^ k)
    hadamard k ((a.zip b).map (fun v => v.1 + v.2)) ++ hadamard k ((a.zip b).map (fun v => v.1 - v.2))

/-- Columns of a block of rows of n numbers. -/
def columnsOf (n : Nat) (rows : List (List Int)) : List (List Int) := (List.range n).map (fun i => rows.map (fun r => r.getD i 0))

/-- Sum of the magnitudes of the transformed differences of one 2^k × 2^k block. -/
def hadamardSum (k : Nat) (diff : List (List Int)) : Nat :=
  let t := (columnsOf (2 ^ k) (diff.map (hadamard k))).map (hadamard k)
  (t.map (fun r => (r.map Int.natAbs).sum)).sum

/-- Hadamard-transformed differences of two w × h blocks, in squares of 8 where the spec's choice of them fits, else of 4. -/
def satdOf (w h : Nat) (a b : List (List Nat)) : Nat :=
  let k := if w % 8 = 0 ∧ h % 8 = 0 ∧ Config.wideHadamard then 3 else 2
  let d := (a.zip b).map (fun r => (r.1.zip r.2).map (fun v => (v.1 : Int) - (v.2 : Int)))
  ((List.range (ceilDiv h (2 ^ k))).map (fun j => ((List.range (ceilDiv w (2 ^ k))).map (fun i =>
    hadamardSum k (((d.drop (j * 2 ^ k)).take (2 ^ k)).map (fun r => (r.drop (i * 2 ^ k)).take (2 ^ k))))).sum)).sum

/-- A position and its cost. -/
structure Scored where
  vec : Vector2
  cost : Nat
  deriving DecidableEq, Repr

/-- Cheaper first; the spec orders no tie. -/
def scoredBefore (a b : Scored) : Bool :=
  decide (a.cost < b.cost) || (a.cost == b.cost && Config.searchTie a.vec.x a.vec.y b.vec.x b.vec.y)

def scoredInsert (x : Scored) : List Scored → List Scored
  | [] => [x]
  | y :: t => if scoredBefore x y then x :: y :: t else y :: scoredInsert x t

/-- The n best positions under a cost. -/
def bestOf (n : Nat) (cost : Vector2 → Nat) (l : List Vector2) : List Vector2 :=
  (l.foldl (fun acc v => (scoredInsert ⟨v, cost v⟩ acc).take n) []).map (fun s => s.vec)

/-- The best of a position and others. -/
def bestOne (cost : Vector2 → Nat) (v : Vector2) (l : List Vector2) : Vector2 := ((bestOf 1 cost (v :: l)).head?).getD v

/-- Positions within r of a centre along both axes. -/
def aroundBy (r step : Nat) (c : Vector2) : List Vector2 :=
  (List.range (2 * r + 1)).flatMap (fun (j : Nat) => (List.range (2 * r + 1)).map (fun (i : Nat) =>
    c.add ⟨((i : Int) - r) * step, ((j : Int) - r) * step⟩))

/-- What a search works on: the codec, the weight of a bit in units of 2^-16, the source and the reference at levels 0, 1 and 2. -/
structure SearchCtx where
  codec : Nat
  lambda : Nat
  src : List Plane
  ref : List Plane
  deriving DecidableEq, Repr

def SearchCtx.srcAt (c : SearchCtx) (l : Nat) : Plane := c.src.getD l ⟨0, 0, []⟩
def SearchCtx.refAt (c : SearchCtx) (l : Nat) : Plane := c.ref.getD l ⟨0, 0, []⟩

/-- λ × motion-vector bits of a vector in quarter samples, against its prediction. -/
def SearchCtx.rate (c : SearchCtx) (pred v : Vector2) : Nat :=
  let d := (v.clamp c.codec).sub pred
  c.lambda * Config.vectorBits c.codec d.x d.y

/-- Cost of a whole position of a level, in that level's samples: absolute differences and the bits of the vector it stands for. -/
def SearchCtx.sadCost (c : SearchCtx) (l x y w h : Nat) (pred v : Vector2) : Nat :=
  2 ^ 16 * sadOf ((c.srcAt l).block x y w h) ((c.refAt l).block (x + v.x) (y + v.y) w h)
    + c.rate pred (v.scale (4 * 2 ^ l : Nat))

/-! ### The three levels -/

/-- Level 2: every position within 64 of a 64×64 area at 1/4 per axis; the four best. -/
def SearchCtx.level2 (c : SearchCtx) (x y : Nat) (pred : Vector2) : List Vector2 :=
  bestOf 4 (c.sadCost 2 (x / 4) (y / 4) 16 16 pred) (aroundBy 64 1 Vector2.zero)

/-- A coordinate in quarter samples as one in samples of level 1; the spec rounds it no way. -/
def halfScaled (i : Int) : Int := i / 8 + (if i % 8 ≠ 0 ∧ Config.roundsUp (i % 8).toNat 8 then 1 else 0)

/-- Level 1: positions within 4 of each kept one doubled, of the scaled prediction and of zero, for a 16×16 block, which is 32×32 of the picture: the
best one. -/
def SearchCtx.level1 (c : SearchCtx) (kept : List Vector2) (pred : Vector2) (x y : Nat) : Vector2 :=
  let from_ := kept.map (Vector2.scale 2) ++ [⟨halfScaled pred.x, halfScaled pred.y⟩, Vector2.zero]
  ((bestOf 1 (c.sadCost 1 (x / 2) (y / 2) 16 16 pred) (from_.flatMap (aroundBy 4 1))).head?).getD Vector2.zero

/-- Reference samples of a partition at a vector in quarter samples: as they stand where it is whole, else interpolated from the samples about
each position. -/
def SearchCtx.predicted (c : SearchCtx) (p : SearchPart) (v : Vector2) : List (List Nat) :=
  let r := c.refAt 0
  let x := p.x + v.x / 4
  let y := p.y + v.y / 4
  if v.x % 4 = 0 ∧ v.y % 4 = 0 then r.block x y p.w p.h
  else (List.range p.h).map (fun (j : Nat) => (List.range p.w).map (fun (i : Nat) =>
    Config.interpolated c.codec (v.x % 4).toNat (v.y % 4).toNat (r.block (x + i - 3) (y + j - 3) 8 8).flatten))

/-- Cost of a vector for a partition: transformed differences and its bits. -/
def SearchCtx.satdCost (c : SearchCtx) (p : SearchPart) (v : Vector2) : Nat :=
  let u := v.clamp c.codec
  2 ^ 16 * satdOf p.w p.h ((c.srcAt 0).block p.x p.y p.w p.h) (c.predicted p u) + c.rate p.pred u

/-- Level 0: whole positions within 2 of the best of level 1, then the 8 half-sample neighbours, then the 8 quarter-sample neighbours. -/
def SearchCtx.level0 (c : SearchCtx) (best : List Vector2) (p : SearchPart) : FoundVector :=
  let cost := c.satdCost p
  let whole := ((bestOf 1 cost ((best.map (Vector2.scale 8)).flatMap (aroundBy 2 4))).head?).getD Vector2.zero
  let half := bestOne cost whole (aroundBy 1 2 whole)
  ⟨p, (bestOne cost half (aroundBy 1 1 half)).clamp c.codec⟩

/-- The vectors of an area's partitions (R304). -/
def SearchCtx.area (c : SearchCtx) (y : Nat) (a : SearchArea) : List FoundVector :=
  let x := 64 * a.col
  let kept := c.level2 x y a.pred
  let quads := (List.range 4).map (fun q => (x + 32 * (q % 2), y + 32 * (q / 2)))
  let best := quads.map (fun q => (q, c.level1 kept a.pred q.1 q.2))
  a.parts.map (fun p =>
    c.level0 ((best.filter (fun b =>
      decide (p.x < b.1.1 + 32 ∧ b.1.1 < p.x + p.w ∧ p.y < b.1.2 + 32 ∧ b.1.2 < p.y + p.h))).map (fun b => b.2)) p)

/-! ### The planes of a picture -/

/-- Luma samples of bytes in memory: 10-bit samples stand in bits [15:6]. -/
def lumaSamples (depth10 : Bool) (w : Nat) (b : List Byte) : List Nat :=
  (List.range w).map (fun x => if depth10 then leAt b (2 * x) 2 / 64 else leAt b x 1)

/-- Read the rows of a plane: the status of the first that cannot be read. -/
def State.readPlane (a pitch w h : Nat) (depth10 : Bool) (s : State) : Option Nat × Plane × State :=
  let r := (List.range h).foldl (fun (acc : Option Nat × List (List Nat) × State) y =>
    match acc.2.2.hbmRead 2 (a + y * pitch) (w * sampleBytes depth10) with
    | (st, b, s) => (keepFirst acc.1 st, lumaSamples depth10 w b :: acc.2.1, s)) (none, [], s)
  (r.1, ⟨w, h, r.2.1.reverse⟩, r.2.2)

/-- Bytes of one of the three pictures at REF_BASE, with its copies (R302). -/
def EncCtx.pictureBytes (e : EncCtx) : Nat := e.refBytes / 3

/-- Where the plane of a level lies in the reference picture: the spec places neither the pictures nor their copies. -/
def EncCtx.refPlaneAt (e : EncCtx) (l : Nat) : Nat :=
  let pitch := planePitch e.width e.depth10
  let plane := ceilDiv pitch (2 ^ l) * ceilDiv (rows16 e.height) (2 ^ l)
  e.refBase + Config.refPicture e.coded % 3 * e.pictureBytes + Config.refPlane l % (e.pictureBytes - plane + 1)

/-- Read the reference at the three resolutions. -/
def State.readReference (e : EncCtx) (s : State) : Option Nat × List Plane × State :=
  (List.range 3).foldl (fun (acc : Option Nat × List Plane × State) l =>
    let n := 2 ^ l
    let r := acc.2.2.readPlane (e.refPlaneAt l) (ceilDiv (planePitch e.width e.depth10) n) (ceilDiv e.width n) (ceilDiv e.height n) e.depth10
    (keepFirst acc.1 r.1, acc.2.1 ++ [r.2.1], r.2.2)) (none, [], s)

/-- The 64×64 areas of a band (R304): where the mode decision asks nothing of one, it is one partition (log 237). -/
def bandAreas (width y : Nat) (areas : List SearchArea) : List SearchArea :=
  (List.range (ceilDiv width 64)).map (fun col =>
    (areas.find? (fun a => a.col == col)).getD ⟨col, Vector2.zero, [⟨64 * col, y, 64, 64, Vector2.zero⟩]⟩)

/-- Motion search of the 64-row band whose first row is y (R304): the status of a word that cannot be read, and the vectors found. -/
def State.searchBand (e : EncCtx) (r : EncRun) (q y : Nat) (areas : List SearchArea) (s : State) : Option Nat × List FoundVector × State :=
  let src := s.readPlane r.luma r.pitch e.width e.height e.depth10
  let ref := src.2.2.readReference e
  match keepFirst src.1 ref.1 with
  | some st => (some st, [], ref.2.2)
  | none =>
    let c : SearchCtx := ⟨e.codec, Config.lambda e.codec q, (List.range 3).map src.2.1.scaled, ref.2.1⟩
    (none, (bandAreas e.width y areas).flatMap (c.area y), ref.2.2)

end Sys2Proof.Machine
end

