-- ==== Sys2Proof/Machine/MediaEncode.lean ====
section
/-! DEFINITION. Machine/MediaEncode.lean: encoding (R303, R305 to R308): budgets, quantisers, exhaustion, slices and the output ring;
and the power-down and failure of a media pipe (R282, R309). -/
namespace Sys2Proof.Machine

/-- The planes of an ENCODE lie in the owner's task space. -/
def State.encodeSourceOk (s : State) (p : Nat) (e : EncCtx) (x : MediaCmd) : Bool :=
  let pitch := bitsAt (x.word 3) 0 32
  let bytes := e.width * sampleBytes e.depth10
  decide (bytes ≤ pitch) && s.inTaskSpace p (x.word 1) ((e.height - 1) * pitch + bytes)
    && s.inTaskSpace p (x.word 2) ((e.height / 2 - 1) * pitch + bytes)

/-- ENCODE: the picture at the head of an encode context's queue becomes ready. -/
def State.readyEncode (m c : Nat) (s : State) : State :=
  match s.mediaQueue m c, s.mediaCtx m c with
  | x :: rest, k =>
    if x.op ≠ 5 || !s.pipeWorks m then s
    else
      (match k with
       | none => (s.putQueue m c rest).endCommand m x St.MED_CTX_STATE
       | some k =>
         if k.closing.isSome then s
         else
           match k.kind with
           | .dec _ => (s.putQueue m c rest).endCommand m x St.MED_CTX_STATE
           | .enc e =>
             if !s.encodeSourceOk ((s.pipeOwner m).getD 0) e x then (s.putQueue m c rest).endCommand m x St.MED_BAD_COMMAND
             else if e.ready.isSome then s
             else s.updEnc m c (fun e => { e with ready := some x }))
  | [], _ => s

/-! ### Budgets (R305, R307) -/

/-- A quotient in whole bits: to the nearest where that is also the floor, as in the example of R307; else the spec leaves the
rounding open. -/
def openDiv (a b : Nat) : Nat := a / b + (if b ≤ 2 * (a % b) ∧ a % b ≠ 0 ∧ Config.roundsUp a b then 1 else 0)

/-- The base of a picture (R305). -/
def baseBits (r : RateCfg) (key : Bool) : Nat :=
  let num := if r.fpsNum = 0 then Config.rateAtZero r.kbps else r.kbps * 1000 * r.fpsDen
  let den := if r.fpsNum = 0 then 1 else r.fpsNum
  let (n, d) := if r.gop = 0 then (num, den) else (num * r.gop * 100, den * (100 * r.gop + r.keyPct - 100))
  if key then openDiv (n * r.keyPct) (d * 100) else openDiv n d

/-- Budget and base of a picture; none under a constant quantiser. -/
def budgetOf (r : RateCfg) (key : Bool) (carry : Nat) : Option (Nat × Nat) :=
  if r.mode = 0 then none
  else
    let b := baseBits r key
    some (max (b - carry) (b / 8), b)

/-- Luma rows of a block row (R303). -/
def blockRowHeight (codec : Nat) : Nat := if codec = 1 then 16 else 64
def EncCtx.blockRows (e : EncCtx) : Nat := ceilDiv e.height (blockRowHeight e.codec)

/-- Encode contexts whose picture is ready. -/
def State.readyPictures (s : State) (m : Nat) : List (Nat × (EncCtx × MediaCmd)) :=
  (s.mediaPipe m).ctxs.filterMap (fun e =>
    match e.2.kind, e.2.closing with
    | .enc x, none => x.ready.map (fun u => (e.1, (x, u)))
    | _, _ => none)

/-- The engine takes up a context's picture (R291, R305, R306): its state is switched in, and its key and its budget are decided. -/
def State.startEncode (m c : Nat) (e : EncCtx) (u : MediaCmd) (loaded : Option Nat) (saved : List Nat) (s : State) : State :=
  let s := s.commitRS (inRange (Reg.PIPE_INFO m) 0x1000)
  let w := s.switchCtx m loaded c saved
  let s := w.2.updMedia m (fun y => { y with encLoaded := some c })
  let e := (s.encCtx m c).getD e
  let q := s.mediaQueue m c
  let s := if q.head? = some u then s.putQueue m c (q.drop 1) else s
  let forced := bitOf (u.word 3) 32 || e.lostSlice
  let gopEnd := match e.sinceKey with | none => true | some n => e.rate.gop != 0 && decide (e.rate.gop ≤ n)
  let key := forced || gopEnd
  let s := s.updEnc m c (fun e => { e with ready := none })
  s.updMedia m (fun y => { y with enc := some {
    ctx := c, tag := u.tag, pts := u.word 4, luma := u.word 1, chroma := u.word 2, pitch := bitsAt (u.word 3) 0 32
    key := key, forced := key && forced, rate := e.rate, budget := budgetOf e.rate key e.carry, rows := e.blockRows, row := 0
    used := 0, mode := .normal, q := 0, target := (0, 1), qSum := 0, qCount := 0, maxqFrom := none, skipFrom := none
    sliceRow := 0, coding := [], vectors := [], waiting := none, tooLarge := false, mem := w.1 } })

/-- PICTURE_ENCODE_START (R291, R305). -/
def State.encodeStart (m : Nat) (saved : List Nat) (s : State) : State :=
  let x := s.mediaPipe m
  if !s.pipeWorks m || s.pipeHot m || !s.engineUp (.pipe m) || x.enc.isSome || !x.held.isEmpty || s.mcqFull m then s
  else
    match oldestOf (fun e => e.2.fetchTs) (s.readyPictures m) with
    | none => s
    | some (c, e, u) => s.startEncode m c e u x.encLoaded saved

/-! ### Block rows (R305, R306) -/

/-- The quantiser of a row from the previous row's bits against its target (R305). -/
def nextQp (r : RateCfg) (q bits : Nat) (target : Int × Nat) : Nat :=
  let l : Int := 100 * bits * target.2
  let above := fun (pct : Int) => decide (pct * target.1 < l)
  let below := fun (pct : Int) => decide (l < pct * target.1)
  let d : Int := if above 125 then 2 else if above 110 then 1 else if below 75 then -2 else if below 90 then -1 else 0
  (max (r.qpMin : Int) (min (r.qpMax : Int) (q + d))).toNat

/-- The quantiser of row 0: the previous picture's mean, or QP_INIT. -/
def firstQp (r : RateCfg) (last : Option (Nat × Nat)) : Nat :=
  let q := match last with
    | some (sum, n) => if n = 0 then r.qpInit else openDiv sum n
    | none => r.qpInit
  max r.qpMin (min r.qpMax q)

/-- The bits of the row just coded are counted (R306): they are those of the most recent row at the maximum quantiser, whatever led to it. -/
def State.rowCoded (m : Nat) (r : EncRun) (row : CodedRow) (s : State) : EncRun × State :=
  let s := s.updEnc m r.ctx (fun e => { e with
    lastBits := row.bits
    maxqBits := if r.mode ≠ .skip ∧ r.q = qpLimit e.codec then some row.bits else e.maxqBits
    cdf := if e.codec = 3 ∧ !row.cdf.isEmpty then row.cdf else e.cdf })
  ({ r with used := r.used + row.bits }, s)

/-- The check of R306 at the start of a row: its mode, and the rows from which the picture is so coded. -/
def checkRow (e : EncCtx) (r : EncRun) : EncRun :=
  let i := r.row
  if r.skipFrom.isSome then { r with mode := .skip }
  else
    match r.budget with
    | none => { r with mode := .normal }
    | some (b, _) =>
      if r.maxqFrom.isNone && decide (r.used < b) then { r with mode := .normal }
      else
        let e8 := match e.maxqBits with | some n => 8 * n | none => e.lastBits
        let proj : Int := 8 * (r.used : Int) + (r.rows - i : Nat) * e8 - 8 * b
        let r := { r with maxqFrom := some (r.maxqFrom.getD i) }
        if (8 * r.rate.hardPct * b : Int) < 100 * proj then { r with mode := .skip, skipFrom := some i } else { r with mode := .maxq }

/-- The source rows of a block row are read; the rest of the picture is skipped where they cannot be (R300). -/
def State.readSource (e : EncCtx) (r : EncRun) (s : State) : Option Nat × State :=
  let h := blockRowHeight e.codec
  let n := e.width * sampleBytes e.depth10
  let luma := ((List.range h).map (· + r.row * h)).filter (fun y => decide (y < e.height))
  let chroma := ((List.range (h / 2)).map (· + r.row * (h / 2))).filter (fun y => decide (y < e.height / 2))
  let addrs := luma.map (fun y => r.luma + y * r.pitch) ++ chroma.map (fun y => r.chroma + y * r.pitch)
  addrs.foldl (fun (acc : Option Nat × State) a =>
    match acc.1 with
    | some _ => acc
    | none => let w := acc.2.hbmRead 2 a n; (w.1, w.2.2)) (none, s)

/-- The mode of a skipped block (R306). -/
def skipMode (codec : Nat) (key : Bool) : SkipMode :=
  if key then .dcIntra else match codec with | 1 => .pSkip | 2 => .mergeZero | _ => .nearestMv

/-- The first luma row of the 64-row band that a block row begins, if it begins one. -/
def bandOf (codec i : Nat) : Option Nat := let y := i * blockRowHeight codec; if y % 64 = 0 then some y else none

/-- Motion search of the band that a row of a P picture begins (R304); where a word cannot be read, the rest of the picture is skipped (R300). -/
def State.searchRow (e : EncCtx) (r : EncRun) (q i : Nat) (areas : List SearchArea) (s : State) : EncRun × State :=
  match r.key, r.mode, bandOf e.codec i with
  | false, .normal, some y | false, .maxq, some y =>
    (match s.searchBand e r q y areas with
     | (some st, _, s) => ({ r with mem := keepFirst r.mem (some st), skipFrom := some (r.skipFrom.getD i), mode := RowMode.skip }, s)
     | (none, l, s) => ({ r with vectors := r.vectors ++ l }, s))
  | _, _, _ => (r, s)

/-- The quantiser of a row by its mode. -/
def EncRun.rowQp (r : EncRun) (codec normalQ : Nat) : Nat := match r.mode with | .normal => normalQ | .maxq => qpLimit codec | .skip => r.q

/-- A row gets its mode and its quantiser, its source is read, and its vectors are found (R300, R304 to R306). -/
def State.startRow (m : Nat) (e : EncCtx) (r : EncRun) (areas : List SearchArea) (s : State) : State :=
  let i := r.row
  let normalQ := if r.rate.mode = 0 then r.rate.qpInit
    else if i = 0 then firstQp r.rate e.lastQp else nextQp r.rate r.q e.lastBits r.target
  let r := checkRow e r
  let src := s.readSource e r
  let r := match src.1 with
    | some st => { r with mem := keepFirst r.mem (some st), skipFrom := some (r.skipFrom.getD i), mode := RowMode.skip }
    | none => r
  let x := src.2.searchRow e r (r.rowQp e.codec normalQ) i areas
  let r := x.1
  let q := r.rowQp e.codec normalQ
  let coded := match r.mode with | .skip => false | _ => true
  let b : Nat := match r.budget with | some x => x.1 | none => 0
  let r := { r with
    q := q, target := ((b : Int) - r.used, r.rows - i), row := i + 1
    coding := r.coding ++ [if coded then .coded q else .skipped (skipMode e.codec r.key)]
    qSum := if coded then r.qSum + q else r.qSum, qCount := if coded then r.qCount + 1 else r.qCount }
  x.2.updMedia m (fun x => { x with enc := some r })

/-- ENCODE_ROW_START (R304 to R306): `row` tells of the row before. -/
def State.encodeRow (m : Nat) (row : CodedRow) (s : State) : State :=
  match (s.mediaPipe m).enc with
  | none => s
  | some r =>
    if !s.pipeWorks m || decide (r.rows ≤ r.row) || r.waiting.isSome then s
    else
      let x := if r.row = 0 then (r, s) else s.rowCoded m r row
      match x.2.encCtx m r.ctx with
      | none => x.2
      | some e => x.2.startRow m e x.1 row.areas

/-! ### Slices and the output ring (R303, R308) -/

/-- Where a slice of n bytes would start, and the bytes of the ring it takes: none while the space does not hold it. -/
def EncCtx.place (e : EncCtx) (n : Nat) : Option (Nat × Nat) :=
  let w := ceilDiv e.outWrite 64 * 64
  let (start, need) := if w + n ≤ e.outSize then (w, w - e.outWrite + n) else (0, e.outSize - e.outWrite + n)
  if e.outUsed + need ≤ e.outSize then some (start, need) else none

/-- Write a slice and post its SLICE entry; it waits while there is no space. -/
def State.putSlice (m : Nat) (r : EncRun) (bytes : List Byte) (s : State) : State :=
  match s.encCtx m r.ctx with
  | none => s
  | some e =>
    let n := bytes.length
    let last := sliceEnd e r
    match e.place n with
    | none =>
      let s := if r.waiting.isSome then s else s.mediaCount m 10
      (s.updMedia m (fun x => { x with enc := some { r with waiting := some bytes } })).showCtx m r.ctx
    | some (start, need) =>
      let p := (s.pipeOwner m).getD 0
      let s := if e.outHost then s.hostWrite (p + 1) (e.outBase + start) bytes else (s.blockWrite (e.outBase + start) bytes).2
      let s := s.updMedia m (fun x => { x with enc := some { r with waiting := none, sliceRow := last + 1 } })
      let s := s.updEnc m r.ctx (fun e => { e with outWrite := (start + n) % e.outSize, outUsed := e.outUsed + need })
      s.mediaEntry m r.ctx 0x8000 2 r.tag (start + n * 2 ^ 32) r.pts
        (r.sliceRow % 2 ^ 16 + last % 2 ^ 16 * 2 ^ 16 + boolNat (last + 1 == r.rows) * 2 ^ 32 + boolNat r.key * 2 ^ 33)

/-- SLICE_WRITTEN (R308): the next slice has been coded; it is written as its unit of the stream, behind the picture's headers where it is the first
(R285, R303). One beyond the limit is not written. -/
def State.sliceWritten (m : Nat) (coded : List Byte) (s : State) : State :=
  match (s.mediaPipe m).enc with
  | none => s
  | some r =>
    match s.encCtx m r.ctx with
    | none => s
    | some e =>
      let last := sliceEnd e r
      let bytes := e.sliceBytes r coded
      if !s.pipeWorks m || r.waiting.isSome || decide (r.rows ≤ r.sliceRow) || decide (r.row ≤ last) then s
      else if min 0x400000 (e.outSize / 2) < bytes.length then
        s.updMedia m (fun x => { x with enc := some { r with
          tooLarge := true, sliceRow := last + 1
          skipFrom := if r.row < r.rows then some (r.skipFrom.getD r.row) else r.skipFrom } })
      else s.putSlice m r bytes

/-- OUT_CONSUMED (R308): the host has read up to OUT_HEAD; a waiting slice is written once there is space. -/
def State.outConsumed (m c : Nat) (x : MediaCmd) (s : State) : State :=
  match s.encCtx m c with
  | none => s.mediaAck m c St.MED_CTX_STATE x.tag
  | some e =>
    let h := x.word 1
    if e.outSize ≤ h then s.mediaAck m c St.MED_BAD_COMMAND x.tag
    else
      let freed := (h + e.outSize - e.outHead) % e.outSize
      let s := s.updEnc m c (fun e => { e with outHead := h, outUsed := e.outUsed - freed })
      let s := s.mediaAck m c 0x8000 x.tag
      match (s.mediaPipe m).enc with
      | some r =>
        (match r.waiting with
         | some b => if r.ctx = c then s.putSlice m r b else s
         | none => s)
      | none => s

/-! ### The end of a picture (R307) -/

/-- What the engine left in the reference area: offset and bytes, within its size. -/
def State.putRecon (e : EncCtx) (recon : List (Nat × List Nat)) (s : State) : State :=
  s.overList recon (fun w t =>
    if w.1 + w.2.length ≤ e.refBytes then (t.blockWrite (e.refBase + w.1) (w.2.map (BitVec.ofNat 8))).2 else t)

/-- STATUS of an ENCODED entry. -/
def EncRun.status (r : EncRun) (overshoot : Nat) : Nat :=
  match r.mem with
  | some st => st
  | none => if r.tooLarge then St.MED_SLICE_TOO_LARGE else if overshoot = 0 then 0x8000 else St.MED_RATE_OVERSHOOT

/-- The picture ends (R303, R305 to R307): the carry, the counters and the ENCODED entry. -/
def State.endEncode (m : Nat) (e : EncCtx) (r : EncRun) (s : State) : State :=
  let (b, base) := r.budget.getD (r.used, r.used)
  let overshoot := r.used - b
  let uncarried := if r.budget.isSome then e.carry - (base - b) else e.carry
  let carry := if r.rate.mode = 1 then overshoot + uncarried else if r.budget.isSome then uncarried else e.carry
  let st := r.status overshoot
  let reported := if r.budget.isSome then carry else 0
  let s := s.updMedia m (fun x => { x with enc := none })
  let s := s.updEnc m r.ctx (fun e => { e with
    coded := e.coded + 1, sinceKey := some (if r.key then 1 else (e.sinceKey.getD 0) + 1), lostSlice := r.tooLarge, carry := carry
    lastQp := if r.qCount = 0 then e.lastQp else some (r.qSum, r.qCount) })
  let s := s.mediaCount m 6
  let s := if r.maxqFrom.isSome then s.mediaCount m 7 else s
  let s := if r.skipFrom.isSome then s.mediaCount m 8 else s
  let s := if overshoot = 0 then s else s.mediaCount m 9
  let flags := boolNat r.maxqFrom.isSome + 2 * boolNat r.skipFrom.isSome + 4 * boolNat r.forced
  let s := s.mediaEntry m r.ctx st 3 r.tag (r.used % 2 ^ 32 + reported % 2 ^ 32 * 2 ^ 32) r.pts
    (flags + (r.maxqFrom.getD 0xFFFF) % 2 ^ 16 * 2 ^ 8 + (r.skipFrom.getD 0xFFFF) % 2 ^ 16 * 2 ^ 24)
  s.finishClose m r.ctx

/-- PICTURE_ENCODE_COMPLETE (R307): `row` tells of the last row. -/
def State.encodeComplete (m : Nat) (row : CodedRow) (recon : List (Nat × List Nat)) (s : State) : State :=
  match (s.mediaPipe m).enc with
  | none => s
  | some r =>
    match s.encCtx m r.ctx with
    | none => s
    | some e =>
      if !s.pipeWorks m || r.row ≠ r.rows || r.sliceRow ≠ r.rows || r.waiting.isSome then s
      else
        let x := s.rowCoded m r row
        (x.2.putRecon e recon).endEncode m e x.1

/-! ### Power and failure (R282, R309) -/

/-- PIPE_POWER_DOWN (R282): no open context for POWER_HOLD_MS. -/
def State.pipePowerDown (m : Nat) (s : State) : State :=
  let x := s.mediaPipe m
  if s.engineUp (.pipe m) && x.ctxs.isEmpty && x.queues.isEmpty && x.dec.isNone && x.enc.isNone
      && decide (x.idleSince + s.rdN (Reg.MED_PIPE_CFG m) % 2 ^ 16 * 1000000 ≤ s.now) then
    let s := { s with power := { s.power with enginesUp := s.power.enginesUp.filter (fun d => d != Domain.pipe m) } }
    s.wrF (Reg.PIPE_INFO m) Fld.PIPE_INFO_POWERED 0
  else s

/-- Every context of a pipe ends and its commands end with a status; the frames of its running pictures fail (R309). -/
def State.endPipe (m st : Nat) (s : State) : State :=
  let x := s.mediaPipe m
  let fake := fun (op c tag pts : Nat) => (⟨[op + c * 2 ^ 8 + tag * 2 ^ 32, 0, 0, pts, pts, 0, 0, 0], 0⟩ : MediaCmd)
  let running := (match x.dec with | some r => [fake 4 r.ctx r.tag r.pts] | none => [])
    ++ (match x.enc with | some r => [fake 5 r.ctx r.tag r.pts] | none => [])
  let units := x.ctxs.filterMap (fun e =>
    match e.2.kind with
    | .dec d =>
      let runs := match x.dec with | some r => r.ctx == e.1 | none => false
      d.unit.bind (fun u => if runs || (mapGetD [] e.1 x.queues).contains u then none else some u)
    | .enc _ => none)
  let closes := x.ctxs.filterMap (fun e => e.2.closing.map (fun t => fake 3 e.1 t 0))
  let s := s.putMedia m { x with ctxs := [], queues := [], dec := none, enc := none, decLoaded := none, encLoaded := none }
  let s := s.overList (running ++ units ++ x.queues.flatMap (fun e => e.2) ++ closes) (fun u t => t.endCommand m u st)
  let s := s.overList (s.vision.frames.filter (fun f => f.media == m && !f.done && f.phase != .skipped)) (fun f t => t.failFrame f st)
  let s := s.putFrames (s.vision.frames.map (fun f => if f.media == m then { f with done := true } else f))
  s.overList (List.range 64) (fun c t => t.showCtx m c)

/-- PIPE_FAIL (R309). -/
def State.pipeFail (m : Nat) (s : State) : State :=
  if !decide (m < s.fuses.pipeCount) || s.rdB (Reg.PIPE_INFO m) Fld.PIPE_INFO_FAILED then s
  else
    let s := ((s.endPipe m St.MED_PIPE_FAILED).ledgerAdd (0x7000 + m) 0).postAt (0x7000 + m) St.MED_PIPE_FAILED
    let s := { s with power := { s.power with enginesUp := s.power.enginesUp.filter (fun d => d != Domain.pipe m) } }
    ((s.wrF (Reg.PIPE_INFO m) Fld.PIPE_INFO_FAILED 1).wrF (Reg.PIPE_INFO m) Fld.PIPE_INFO_POWERED 0).putBit Reg.DECK_LINKS (16 + m) false

/-! ### Commands -/

def execEncode (m c : Nat) (s : State) : Out := .next (s.readyEncode m c)
def execOutConsumed (m c : Nat) (s : State) : Out := .next (s.onFreeing m c 8 (State.outConsumed m c))
def execPictureEncodeStart (m : Nat) (saved : List Nat) (s : State) : Out := .next (s.encodeStart m saved)
def execEncodeRowStart (m : Nat) (row : CodedRow) (upsets : List Upset) (s : State) : Out :=
  .next ((s.upset upsets).encodeRow m row)
def execSliceWritten (m : Nat) (bytes : List Nat) (s : State) : Out := .next (s.sliceWritten m (bytes.map (BitVec.ofNat 8)))
def execPictureEncodeComplete (m : Nat) (row : CodedRow) (recon : List (Nat × List Nat)) (s : State) : Out := .next (s.encodeComplete m row recon)
def execPipePowerDown (m : Nat) (s : State) : Out := .next (s.pipePowerDown m)
def execPipeFail (m : Nat) (s : State) : Out := .next (s.pipeFail m)

end Sys2Proof.Machine
end

