-- ==== Sys2Proof/Machine/HostMemory.lean ====
section
/-! DEFINITION. Machine/HostMemory.lean: the memory controllers' own events (R135, R139, R140) and the host's window onto HBM
(R124, R317). -/
namespace Sys2Proof.Machine

/-- REMAP_COMPLETE (R135): the page is copied and redirected, and the accesses it held are released. -/
def execRemapComplete (die page : Nat) (s : State) : Out :=
  match s.memory.remaps.find? (fun r => r.die == die && r.page == page) with
  | some r =>
    let s := s.finishRemap r
    .next (match s.dieOwner die with
      | some p => s.dropLostNodes p
      | none => s)
  | none => .next s

/-- A scrub read of a 256-byte unit (R129, R131 to R133, R137, R139): single-bit errors are corrected, lost words passed over, every uncorrectable
word is counted and its page retired, and one status word tells of the first of them. DESIGN CHOICE (log 223): a free page of the spare pool is
retired like any other, into another spare. -/
def State.scrubUnit (a : Nat) (s : State) : State :=
  let s := s.releaseHeld a 256
  let ws := wordsOf 32 a 256
  let dead := ws.filter (fun w => s.wordState w == .uncorrectable || s.wordState w == .channel)
  let weak := ws.filter (fun w => s.wordState w == .corrected)
  let r := (s.overList dead State.countDead).retireWords (dead.filter (fun w => s.wordState w == .uncorrectable))
  let t := match dead, r.1 with
    | [], _ => r.2
    | _, some w => r.2.memPartFatal (w * 32) (stHbmUncorrectable 4)
    | w :: _, none => r.2.postMem (0x4000 + s.stackIndex (w * 32)) (w * 32) St.MEM_SCRUB_UNCORRECTABLE
  t.overList weak (fun w t =>
    { t with memory := { t.memory with single := setErase w t.memory.single } }.countSat (Reg.STACK_COUNTER (t.stackIndex (w * 32)) 3) 0xFFFFFFFF)

/-- SCRUB_READ (R139): the controller of a die reads the next 256-byte unit. -/
def execScrubRead (die : Nat) (upsets : List Upset) (s : State) : Out :=
  let s := s.upset upsets
  let off := mapGetD 0 die s.memory.scrubAt
  let a := die * hbmRegion + off
  if 4 ≤ die ∨ s.rdF Reg.MEM_CFG Fld.MEM_CFG_SCRUB_PERIOD = 0 ∨ s.memory.selfRefresh.contains (s.stackIndex a)
      ∨ s.mgmt.excludedDies.contains die ∨ s.power.standby then .next s
  else
    let s := s.scrubUnit a
    let next := if s.fitted ≤ off + 256 then 0 else off + 256
    let s := { s with memory := { s.memory with scrubAt := mapSet die next s.memory.scrubAt } }
    if (List.range 4).find? (fun d => !s.mgmt.excludedDies.contains d) = some die then
      let s := s.wrF Reg.MEM_SCRUB Fld.MEM_SCRUB_PROGRESS (next * 65536 / s.fitted)
      .next (if next = 0 then s.wrF Reg.MEM_SCRUB Fld.MEM_SCRUB_PASSES ((s.rdF Reg.MEM_SCRUB Fld.MEM_SCRUB_PASSES + 1) % 2 ^ 16) else s)
    else .next s

/-- HBM_CHANNEL_FAILED (R140): found by an access to an address, or by the link check of the controller. -/
def execHbmChannelFailed (die pc : Nat) (addr : Option Nat) (s : State) : Out :=
  let n := if s.fuses.a8 then 64 else 32
  let key := die * 64 + pc
  if 4 ≤ die ∨ n ≤ pc ∨ s.memory.failedChannels.contains key then .next s
  else
    let a := addr.getD (die * hbmRegion + 256 * pc)
    let s := { s with memory := { s.memory with failedChannels := setInsert key s.memory.failedChannels } }
    let s := s.ledgerRecord (0x4000 + 2 * die + (if s.fuses.a8 then pc / 32 else 0)) St.MEM_HBM_CHANNEL_FAILED 4 0 true
    .next (s.memPartFatal a St.MEM_HBM_CHANNEL_FAILED)

/-- May a function read, or write, n bytes of global space through BAR4 (R124)? -/
def State.windowOk (s : State) (fn a n : Nat) (write : Bool) : Bool :=
  match regionOf a with
  | .hbm d off =>
    if fn = 0 then
      decide (off + n ≤ s.taskEnd d) || (!write && decide (s.reserveStart d ≤ off ∧ off + n ≤ s.fitted))
    else decide (off + n ≤ s.taskEnd d) && decide (s.dieOwner d = some (fn - 1)) && s.partExists (fn - 1)
  | _ => false

/-- Size of BAR4 (R124, R313). -/
def windowBytes : Nat := 64 * 2 ^ 30
/-- Global address of a BAR4 offset (R317). -/
def State.windowAddr (s : State) (fn off : Nat) : Nat := s.rdF (Reg.WIN_BASE fn) Fld.WIN_BASE_GIB * 2 ^ 30 + off

/-- A function exists (R312). -/
def State.fnExists (s : State) (fn : Nat) : Bool := fn == 0 || s.partExists (fn - 1)

/-- Completions without data (R131, R317): counted and sent. -/
def State.sendUr (fn : Nat) (s : State) : State := (s.count (Reg.PCI_COUNTER 3)).emit (.unsupported fn)
def State.sendCa (fn : Nat) (s : State) : State := (s.count (Reg.PCI_COUNTER 4)).emit (.completerAbort fn)

/-- BAR4_READ (R124, R131, R317): data, an Unsupported Request, or a Completer Abort for a word that cannot be delivered. -/
def execBar4Read (fn off n : Nat) (upsets : List Upset) (s : State) : Out :=
  let s := s.upset upsets
  let a := s.windowAddr fn off
  if !s.pcieUp then .next s
  else if !s.ready then .next (s.sendUr fn)
  else if !s.fnExists fn then .next (s.emit (.readData fn 0))
  else if windowBytes < off + n || !s.windowOk fn a n false then
    .next ((s.sendUr fn).postMem 0 a St.MEM_HOST_ACCESS_FAULT)
  else
    match s.hbmRead 3 a n with
    | (none, b, s) => .next (s.emit (.readData fn (ofLeBytes (s.showHands a b))))
    | (some _, _, s) => .next (s.sendCa fn)

/-- BAR4_WRITE (R123, R124, R317): written, or dropped and recorded; an Unsupported Request before the module is ready (R378). -/
def execBar4Write (fn off : Nat) (bytes : List Nat) (upsets : List Upset) (s : State) : Out :=
  let s := s.upset upsets
  let a := s.windowAddr fn off
  if !s.pcieUp then .next s
  else if !s.ready then .next (s.aerError.sendUr fn)
  else if !s.fnExists fn then .next s
  else if windowBytes < off + bytes.length || !s.windowOk fn a bytes.length true then .next (s.postMem 0 a St.MEM_HOST_ACCESS_FAULT)
  else
    let b := bytes.map (BitVec.ofNat 8)
    .next ((s.hbmWrite 3 a b).2.feedPath 1 fn b)

/-- A write of WIN_BASE (R317): PF0 writes any function's base in its own registers, a VF its own in its window (R314). -/
def State.winBase (fn target value : Nat) (s : State) : State :=
  if s.pcieUp && (s.ready || fn == 0) && s.fnExists fn && decide (target < 5) && (fn == 0 || fn == target) then
    s.writeReg false (Reg.WIN_BASE target) value
  else s

/-- WIN_BASE_WRITE. -/
def execWinBaseWrite (fn target value : Nat) (s : State) : Out := .next (s.winBase fn target value)

end Sys2Proof.Machine
end

