-- ==== Sys2Proof/Machine/Rings.lean ====
section
/-! DEFINITION. Machine/Rings.lean: what the host does to the module's rings: tail and head writes, by register or doorbell (R102, R107,
R315, R316), and the writes that start and stop a ring (R87). -/
namespace Sys2Proof.Machine

/-! ### Who reaches which ring -/

/-- A ring exists, with the partition that owns it; the Talon ring is PF0's own. -/
def State.ringOwner (s : State) (r : RingRef) : Option Nat :=
  match r with
  | .sq p q => if p < 4 ∧ q < 8 then some p else none
  | .cq p q => if p < 4 ∧ q < 8 then some p else none
  | .rq p q => if p < 4 ∧ q < 4 then some p else none
  | .scq p q => if p < 4 ∧ q < 4 then some p else none
  | .rkq p => if p < 4 then some p else none
  | .msq m => s.pipeOwner m
  | .mcq m => s.pipeOwner m
  | .eq d => s.dieOwner d
  | .tln => none

/-- The registers of a ring are there: the variant fits it. -/
def State.ringFitted (s : State) (r : RingRef) : Bool :=
  match r with
  | .sq p q => decide (p < 4 ∧ q < 8)
  | .cq p q => decide (p < 4 ∧ q < 8)
  | .rq p q => decide (p < 4 ∧ q < 4)
  | .scq p q => decide (p < 4 ∧ q < 4)
  | .rkq p => decide (p < 4)
  | .msq m => decide (m < s.fuses.pipeCount)
  | .mcq m => decide (m < s.fuses.pipeCount)
  | .eq d => decide (d < 4)
  | .tln => true

/-- A function reaches a ring's registers: PF0 in BAR0, a VF the mirrored pages of what its partition owns (R314). -/
def State.reachesRing (s : State) (fn : Nat) (r : RingRef) : Bool :=
  s.ringFitted r && (fn == 0 || (match s.ringOwner r with
    | some p => s.mayReach fn p
    | none => false))

/-- A doorbell of a partition's page rings a ring (R315, R316): one that the partition does not own is ignored. -/
def State.doorbellReaches (s : State) (fn page : Nat) (r : RingRef) : Bool :=
  match r with
  | .tln => fn == 0
  | _ => s.ringFitted r && s.ringOwner r == some page && s.mayReach fn page

/-! ### BAR2 (R313, R315, R316) -/

/-- Size of BAR2 of a function. -/
def bar2Bytes (fn : Nat) : Nat := if fn = 0 then 0x8000 else 0x1000

/-- The partition whose doorbell page a BAR2 offset lies in: PF0 has a page of each partition, VF(n+1) that of Pn (R313). -/
def bar2Page (fn off : Nat) : Option Nat :=
  if bar2Bytes fn ≤ off then none
  else if fn = 0 then (if off / 0x1000 < 4 then some (off / 0x1000) else none)
  else some (fn - 1)

/-- A column of doorbells, 8 bytes apart, from a base: the number of the one at an offset. -/
def doorbellIndex (base n off : Nat) : Option Nat := if base ≤ off ∧ off < base + 8 * n ∧ (off - base) % 8 = 0 then some ((off - base) / 8) else none

/-- The doorbell at an offset of a partition's page (R315). -/
def pageDoorbell (p off : Nat) : Option RingRef :=
  (doorbellIndex 0 8 off).map (RingRef.sq p)
    <|> (doorbellIndex 4 8 off).map (RingRef.cq p)
    <|> (doorbellIndex 0x100 4 off).map (RingRef.rq p)
    <|> (doorbellIndex 0x104 4 off).map (RingRef.scq p)
    <|> (doorbellIndex 0x200 16 off).map RingRef.msq
    <|> (doorbellIndex 0x204 16 off).map RingRef.mcq
    <|> (doorbellIndex 0x300 4 off).map RingRef.eq
    <|> (if off = 0x320 then some (RingRef.rkq p) else none)

/-- The doorbell at a BAR2 offset: none where the offset is reserved. -/
def bar2Ring (fn off : Nat) : Option RingRef :=
  if fn = 0 ∧ off = 0x4000 then some .tln else (bar2Page fn off).bind (fun p => pageDoorbell p (off % 0x1000))

/-- A doorbell write is one of a ring's doorbell, on a partition's page. -/
def namesRing (d : DoorbellWrite) (page : Nat) (r : RingRef) : Bool :=
  let off := d.offset / 4 * 4
  bar2Ring d.fn off == some r && (r == .tln || bar2Page d.fn off == some page)

/-- What a host's read returns: data, or an Unsupported Request. -/
inductive BarAnswer where
  | data (value : Nat)
  | unsupported
  deriving DecidableEq, Repr

/-- A read of BAR2: doorbells read 0 (R316), and so does every other offset. -/
def bar2Read (_fn _off : Nat) : BarAnswer := .data 0

/-- A write of a ring's tail or head has an effect: not before the module is ready (R378), and only where it reaches the ring. -/
def State.pointerReaches (s : State) (page : Nat) (r : RingRef) (d : DoorbellWrite) : Bool :=
  s.hostReaches && (if d.viaDoorbell then namesRing d page r && s.doorbellReaches d.fn page r else s.reachesRing d.fn r)

/-- A write of a ring's tail or head. -/
def State.ringWriteBy (page : Nat) (r : RingRef) (d : DoorbellWrite) (off log2 bad : Nat) (s : State) : State :=
  if s.pointerReaches page r d then s.ringPointer d off log2 bad else s

/-! ### Tails and heads -/

/-- Completions held for a CQ are written while it has room (R107). -/
def State.releaseCompletions (p q : Nat) (s : State) : State :=
  let d := s.partDealer p
  let mine := fun (c : GraphCompletion) => s.rdF (Reg.SQ_CFG p c.sq) Fld.SQ_CFG_CQ == q
  let s := s.putPartDealer p { d with heldCompletions := d.heldCompletions.filter (fun c => !mine c) }
  s.overList (d.heldCompletions.filter mine) (fun c t => t.postCompletion p c)

/-- Entries held for an SCQ are written while it has room (R107, R151), one message for them all. -/
def State.releaseEntries (p q : Nat) (s : State) : State :=
  let x := s.partServing p
  let s := s.putServing p { x with heldEntries := x.heldEntries.filter (fun e => e.1 != q) }
  let r := (x.heldEntries.filter (fun e => e.1 == q)).foldl (fun (acc : Bool × State) e =>
    let o := acc.2.postEntry p q e.2
    (acc.1 || o.1, o.2)) (false, s)
  if r.1 then r.2.scqIrq p q else r.2

/-- Entries held for an MCQ are written while it has room (R107, R289). -/
def State.releaseMedia (m p : Nat) : List (List Byte) → State → State
  | [], s => s
  | b :: t, s =>
    if s.mcqFull m || !s.rdB (Reg.MCQ_CFG m) Fld.MCQ_CFG_ENABLE then s
    else State.releaseMedia m p t ((s.updMedia m (fun x => { x with held := x.held.drop 1 })).mcqPut m p b)

/-- CQ_HEAD (R107): space is freed and held completions follow. -/
def State.cqHead (p q : Nat) (d : DoorbellWrite) (s : State) : State :=
  if s.pointerReaches p (.cq p q) d then
    (s.ringPointer d (Reg.CQ_HEAD p q) (s.rdF (Reg.CQ_CFG p q) Fld.CQ_CFG_SIZE_LOG2) St.DEAL_BAD_DOORBELL).releaseCompletions p q else s

/-- SCQ_HEAD (R151): space is freed, held entries follow, and the partition's slots, which built no trick while the ring was full, form a boundary
(DEDUCED, log 45). -/
def State.scqHead (p q : Nat) (d : DoorbellWrite) (s : State) : State :=
  if !s.pointerReaches p (.scq p q) d then s
  else
    let full := s.scqFull p q
    let s := (s.ringPointer d (Reg.SCQ_HEAD p q) (s.rdF (Reg.SCQ_CFG p q) Fld.SCQ_CFG_SIZE_LOG2) St.SRV_BAD_DOORBELL).releaseEntries p q
    if full && !s.scqFull p q then s.overList ((List.range 8).filter (fun sl => s.slotOwner sl == p)) (fun sl t => t.slotEvent sl) else s

/-- MCQ_HEAD (R289): space is freed and held entries follow. -/
def State.mcqHead (page m : Nat) (d : DoorbellWrite) (s : State) : State :=
  if !s.pointerReaches page (.mcq m) d then s
  else
    let s := s.ringPointer d (Reg.MCQ_HEAD m) (s.rdF (Reg.MCQ_CFG m) Fld.MCQ_CFG_SIZE_LOG2) St.MED_BAD_DOORBELL
    match s.pipeOwner m with
    | some p => s.releaseMedia m p (s.mediaPipe m).held
    | none => s

/-- A write of the tail or head that the host owns in a ring (R102, R316), by its register or from a doorbell page. Talon names no doorbell status, so
a value out of range is reported there as BAD_COMMAND. -/
def State.pointerWrite (page : Nat) (r : RingRef) (d : DoorbellWrite) (s : State) : State :=
  match r with
  | .sq p q => s.ringWriteBy p r d (Reg.SQ_TAIL p q) (s.rdF (Reg.SQ_CFG p q) Fld.SQ_CFG_SIZE_LOG2) St.DEAL_BAD_DOORBELL
  | .cq p q => s.cqHead p q d
  | .rq p q => s.ringWriteBy p r d (Reg.RQ_TAIL p q) (s.rdF (Reg.RQ_CFG p q) Fld.RQ_CFG_SIZE_LOG2) St.SRV_BAD_DOORBELL
  | .scq p q => s.scqHead p q d
  | .msq m => s.ringWriteBy page r d (Reg.MSQ_TAIL m) (s.rdF (Reg.MSQ_CFG m) Fld.MSQ_CFG_SIZE_LOG2) St.MED_BAD_DOORBELL
  | .mcq m => s.mcqHead page m d
  | .eq die => s.ringWriteBy page r d (Reg.EQ_TAIL die) (s.rdF (Reg.EQ_CFG die) Fld.EQ_CFG_SIZE_LOG2) St.VIS_BAD_DOORBELL
  | .rkq p => s.ringWriteBy p r d (Reg.RKQ_TAIL p) (s.rdF (Reg.RKQ_CFG p) Fld.RKQ_CFG_SIZE_LOG2) St.VIS_BAD_DOORBELL
  | .tln => s.ringWriteBy 0 r d Reg.TLN_CMD_TAIL (s.rdF Reg.TLN_CMD_CFG Fld.TLN_CMD_CFG_SIZE_LOG2) St.TLN_BAD_COMMAND

def execSqTailWrite (p q : Nat) (d : DoorbellWrite) (s : State) : Out := .next (s.pointerWrite p (.sq p q) d)
def execCqHeadWrite (p q : Nat) (d : DoorbellWrite) (s : State) : Out := .next (s.pointerWrite p (.cq p q) d)
def execRqTailWrite (p q : Nat) (d : DoorbellWrite) (s : State) : Out := .next (s.pointerWrite p (.rq p q) d)
def execScqHeadWrite (p q : Nat) (d : DoorbellWrite) (s : State) : Out := .next (s.pointerWrite p (.scq p q) d)
def execTlnCmdTailWrite (d : DoorbellWrite) (s : State) : Out := .next (s.pointerWrite 0 .tln d)
/-- By the register or a partition's doorbell page. -/
def execEqTailWrite (page die : Nat) (d : DoorbellWrite) (s : State) : Out := .next (s.pointerWrite page (.eq die) d)
def execRkqTailWrite (p : Nat) (d : DoorbellWrite) (s : State) : Out := .next (s.pointerWrite p (.rkq p) d)
def execMsqTailWrite (page m : Nat) (d : DoorbellWrite) (s : State) : Out := .next (s.pointerWrite page (.msq m) d)
def execMcqHeadWrite (page m : Nat) (d : DoorbellWrite) (s : State) : Out := .next (s.pointerWrite page (.mcq m) d)

/-! ### Starting and stopping -/

/-- The configuration register of a ring, which holds its ENABLE. -/
def ringCfg : RingRef → Nat
  | .sq p q => Reg.SQ_CFG p q
  | .cq p q => Reg.CQ_CFG p q
  | .rq p q => Reg.RQ_CFG p q
  | .scq p q => Reg.SCQ_CFG p q
  | .msq m => Reg.MSQ_CFG m
  | .mcq m => Reg.MCQ_CFG m
  | .eq d => Reg.EQ_CFG d
  | .rkq p => Reg.RKQ_CFG p
  | .tln => Reg.TLN_CMD_CFG

def ringEnable : RingRef → BitField
  | .sq _ _ => Fld.SQ_CFG_ENABLE
  | .cq _ _ => Fld.CQ_CFG_ENABLE
  | .rq _ _ => Fld.RQ_CFG_ENABLE
  | .scq _ _ => Fld.SCQ_CFG_ENABLE
  | .msq _ => Fld.MSQ_CFG_ENABLE
  | .mcq _ => Fld.MCQ_CFG_ENABLE
  | .eq _ => Fld.EQ_CFG_ENABLE
  | .rkq _ => Fld.RKQ_CFG_ENABLE
  | .tln => Fld.TLN_CMD_CFG_ENABLE

def State.ringRuns (s : State) (r : RingRef) : Bool := s.rdB (ringCfg r) (ringEnable r)

/-- A write of a ring's configuration register (R87, R102, R407). Its other fields are RL while the ring runs; with ENABLE 0 the ring stops and its
pointers are 0. -/
def State.enableWrite (r : RingRef) (value : Nat) (s : State) : State :=
  let s := s.writeReg (s.ringRuns r) (ringCfg r) value
  if s.ringRuns r then s else s.disableRing r

/-- RING_ENABLE_WRITE. -/
def execRingEnableWrite (fn : Nat) (r : RingRef) (value : Nat) (s : State) : Out :=
  .next (if s.hostReaches && s.reachesRing fn r then s.enableWrite r value else s)

end Sys2Proof.Machine
end

