-- ==== Sys2Proof/Machine/Talon.lean ====
section
/-! DEFINITION. Machine/Talon.lean: Talon's command ring and its commands (R242 to R248), the events of its flash (R236 to R240),
the quiescing of R246 and the mount of R247. -/
namespace Sys2Proof.Machine

/-! ### The command ring (R248) -/

/-- Words that a command may use; every other bit is reserved. -/
def talonWordsUsed : Nat → List Nat
  | 1 => [1, 3, 4, 5, 6, 7]
  | 2 => [1, 2, 3, 4]
  | 3 | 4 | 9 | 10 => [1]
  | 5 => [1, 4, 5, 6, 7]
  | 7 => [1, 2, 4]
  | 8 => [2, 4]
  | _ => []

/-- An address word: address in [47:0], space in [63]. -/
def addressWordOk (w : Nat) : Bool := bitsAt w 48 15 == 0

/-- Reserved bits of a command; the status and DONE of an earlier use are not examined. -/
def talonFormatOk (op : Nat) (w : List Nat) : Bool :=
  let g := fun i => w.getD i 0
  bitsAt (g 0) 10 2 == 0 && !bitOf (g 0) 15 && bitsAt (g 0) 33 31 == 0
    && [1, 2, 3, 4, 5, 6, 7].all (fun i => (talonWordsUsed op).contains i || g i == 0)
    && (!(op == 1 || op == 2 || op == 3 || op == 4 || op == 5) || decide (g 1 < 2 ^ 32))
    && (!(op == 2 || op == 7 || op == 8) || addressWordOk (g 2))
    && (op != 5 || [4, 5, 6, 7].all (fun i => decide (g i < 2 ^ 48)))

/-- The command at the head of the ring, if Talon can take it now; a command in HBM that cannot be read stops the ring (R131). -/
def State.talonHead (s : State) : Option (List Nat) × State :=
  let cfg := Reg.TLN_CMD_CFG
  let space := s.rdF cfg Fld.TLN_CMD_CFG_SPACE
  if !(s.ready && s.rdB cfg Fld.TLN_CMD_CFG_ENABLE && s.talonUp && s.talon.command.isNone)
      || s.rdN Reg.TLN_CMD_HEAD == s.rdN Reg.TLN_CMD_TAIL || !s.hostReadable space 0 then (none, s)
  else
    let log2 := s.rdF cfg Fld.TLN_CMD_CFG_SIZE_LOG2
    match s.ringRead space 0 (ringBase (s.rd64 Reg.TLN_CMD_BASE_LO) 64 log2 + 64 * s.rdN Reg.TLN_CMD_HEAD) 64 with
    | (none, s) => (none, s.disableRing .tln)
    | (some b, s) =>
      let w := (List.range 8).map (fun i => leAt b (8 * i) 8)
      let op := bitsAt (w.getD 0 0) 0 8
      if (op == 2 || op == 8) && bitOf (w.getD 2 0) 63 && !s.hostReadable 1 0 then (none, s) else (some w, s)

/-- The command under execution has its status. -/
def State.endTalon (st : Nat) (s : State) : State :=
  let s := if stBlock st = 6 then s.postAt 0x6000 st else s
  { s with talon := { s.talon with command := s.talon.command.map (fun c => { c with status := some st }) } }

def talonOk : Nat := 0x6000

/-- Take a command from the ring. -/
def State.takeTalon (w : List Nat) (s : State) : State :=
  let head := s.rdN Reg.TLN_CMD_HEAD
  let s := s.wrN Reg.TLN_CMD_HEAD ((head + 1) % 2 ^ s.rdF Reg.TLN_CMD_CFG Fld.TLN_CMD_CFG_SIZE_LOG2)
  { s with talon := { s.talon with
    command := some ⟨w, head, none, none⟩
    absorbed := (s.talon.absorbed.map (fun e => (e.1, e.2 - 1))).filter (fun e => e.2 != 0) } }

/-- A reset of the partition that the command at the head names has absorbed it (R400). -/
def State.commandAbsorbed (s : State) (w : List Nat) : Bool := mapGetD 0 (bitsAt (w.getD 0 0) 8 2) s.talon.absorbed != 0

/-- Talon commands that name a partition under reset end RESET_ABSORBED: the one under execution, and those that wait in the ring as they
come to its head (R400). -/
def State.absorbTalon (p : Nat) (s : State) : State :=
  let n := 2 ^ s.rdF Reg.TLN_CMD_CFG Fld.TLN_CMD_CFG_SIZE_LOG2
  let left := if s.rdB Reg.TLN_CMD_CFG Fld.TLN_CMD_CFG_ENABLE then (s.rdN Reg.TLN_CMD_TAIL + n - s.rdN Reg.TLN_CMD_HEAD) % n else 0
  let s := if left = 0 then s else { s with talon := { s.talon with absorbed := mapSet p left s.talon.absorbed } }
  if s.talon.command.any (fun c => bitsAt (c.words.getD 0 0) 8 2 == p) then s.endTalon St.RST_RESET_ABSORBED else s

/-- Execute the head command if it has an OP; its format is checked first. -/
def State.onTalon (op : Nat) (f : Nat → (Nat → Nat) → State → State) (s : State) : State :=
  match s.talonHead with
  | (none, s') => s'
  | (some w, s') =>
    if bitsAt (w.getD 0 0) 0 8 ≠ op then s
    else
      let s := s'.takeTalon w
      let p := bitsAt (w.getD 0 0) 8 2
      if s'.commandAbsorbed w then s.endTalon St.RST_RESET_ABSORBED
      else if !talonFormatOk op w || !s.partExists p then s.endTalon St.TLN_BAD_COMMAND
      else f p (fun i => w.getD i 0) s

/-- Bytes that a command reads: host memory, or fitted HBM of one C-die. -/
def State.talonSource (a n : Nat) (s : State) : Except Nat (List Byte) × State :=
  let g := bitsAt a 0 48
  if bitOf a 63 then (.ok (s.hostRead g n), s.hostReading)
  else
    match regionOf g with
    | .hbm _ off =>
      if s.fitted < off + n then (.error St.TLN_BAD_COMMAND, s)
      else
        match s.hbmRead 3 g n with
        | (some st, _, s) => (.error st, s)
        | (none, b, s) => (.ok b, s)
    | _ => (.error St.TLN_BAD_COMMAND, s)

/-! ### Weight images (R242, R243) -/

def imageBytes (i : WeightImage) : Nat := i.sections.sum

/-- IMAGE_CREATE: a new OPEN image with one to four sections. -/
def State.imageCreate (p : Nat) (w : Nat → Nat) (s : State) : State :=
  let secs := [w 4, w 5, w 6, w 7]
  if secs.sum = 0 ∨ secs.any (fun n => n % flashPage != 0 || decide (2 ^ 40 < n)) then s.endTalon St.TLN_BAD_COMMAND
  else if (s.imageAt (w 1)).isSome then s.endTalon St.TLN_IMAGE_STATE
  else if 64 ≤ s.talon.images.length ∨ s.zoneUsable .weights < (s.talon.images.map imageBytes).sum + secs.sum then
    s.endTalon St.TLN_ZONE_FULL
  else
    let i : WeightImage := ⟨w 1, w 3, p, secs, [], .open, [], []⟩
    ({ s with talon := { s.talon with images := s.talon.images ++ [i] } }).journalled.endTalon talonOk

/-- Take the pages lo to hi - 1 of an object out of its fragments: they are no longer valid (R234). -/
def dropPages (lo hi : Nat) (fs : List Fragment) : List Fragment :=
  fs.flatMap (fun f =>
    let a := min f.pages (lo - f.page)
    let b := min f.pages (hi - f.page)
    if b ≤ a then [f]
    else (if a = 0 then [] else [⟨f.band, f.first, a, f.page⟩]) ++
      (if b = f.pages then [] else [⟨f.band, f.first + b, f.pages - b, f.page + b⟩]))

/-- IMAGE_WRITE: bytes of an OPEN image; a later write to a range replaces the earlier one. -/
def State.imageWrite (p : Nat) (w : Nat → Nat) (s : State) : State :=
  let off := w 3
  let n := w 4
  match s.imageAt (w 1) with
  | none => s.endTalon St.TLN_IMAGE_STATE
  | some i =>
    if i.part ≠ p ∨ i.state ≠ .open then s.endTalon St.TLN_IMAGE_STATE
    else if off % flashPage ≠ 0 ∨ n % flashPage ≠ 0 ∨ n = 0 ∨ imageBytes i < off + n then s.endTalon St.TLN_BAD_COMMAND
    else
      match s.talonSource (w 2) n with
      | (.error st, s) => s.endTalon st
      | (.ok b, s) =>
        match s.useTalon.place .weights (off / flashPage) (n / flashPage) with
        | none => s.endTalon St.TLN_ZONE_FULL
        | some (frags, s) =>
          let units := (List.range (n / flashPage)).map (· + off / flashPage)
          let s := (s.chargeWeights (n / flashPage)).feedPath 2 0 b
          (s.updImage (w 1) (fun i => { i with
            written := units.foldl (fun l u => setInsert u l) i.written
            body := putBody i.body off b
            fragments := dropPages (off / flashPage) ((off + n) / flashPage) i.fragments ++ frags })).endTalon talonOk

/-- IMAGE_SEAL: succeeds only when every byte has been written. -/
def State.imageSeal (p : Nat) (w : Nat → Nat) (s : State) : State :=
  match s.imageAt (w 1) with
  | none => s.endTalon St.TLN_IMAGE_STATE
  | some i =>
    if i.part ≠ p ∨ i.state ≠ .open ∨ i.written.length ≠ imageBytes i / flashPage then s.endTalon St.TLN_IMAGE_STATE
    else (s.updImage (w 1) (fun i => { i with state := .sealed })).journalled.endTalon talonOk

def State.imageDelete (p : Nat) (w : Nat → Nat) (s : State) : State :=
  match s.imageAt (w 1) with
  | none => s.endTalon St.TLN_IMAGE_STATE
  | some i =>
    if i.part ≠ p then s.endTalon St.TLN_IMAGE_STATE
    else ({ s with talon := { s.talon with images := s.talon.images.filter (fun x : WeightImage => x.id != w 1) } }).journalled.endTalon talonOk

/-- The kitty area of a slot lies in its owner's task space and clear of the KV region, on every C-die (R193, R243). -/
def State.kittyOk (s : State) (p sl : Nat) : Bool :=
  (s.partDies p).all (fun d =>
    let a := s.kittyBase sl d
    let n := s.rdN (Reg.KITTY_ENTRIES sl) * s.kittyEntryBytes sl
    let kv := s.kvBase d
    let m := s.regionUnits d * 0x1000000
    s.taskSpaceDie a n == some d && (decide (a + n ≤ kv) || decide (kv + m ≤ a) || m == 0))

/-- Offset of each section in an image's bytes, with its length. -/
def sectionRanges : Nat → List Nat → List (Nat × Nat)
  | _, [] => []
  | off, n :: t => (off, n) :: sectionRanges (off + n) t

/-- SLOT_LOAD: checked, then the slot is LOADING until the last section has been copied. -/
def State.slotLoad (p : Nat) (w : Nat → Nat) (s : State) : State :=
  let sl := bitsAt (w 0) 12 3
  if !(s.slotOwned sl && s.slotOwner sl == p && s.slotState sl == 0) then s.endTalon St.TLN_SLOT_BUSY
  else
    match s.imageAt (w 1) with
    | none => s.endTalon St.TLN_IMAGE_STATE
    | some i =>
      if i.part ≠ p ∨ i.state = .open then s.endTalon St.TLN_IMAGE_STATE
      else if i.state = .damaged then s.endTalon St.TLN_IMAGE_READ_FAILED
      else if !(i.sections.zipIdx.all (fun e => e.1 == 0 || s.inTaskSpace p (w (4 + e.2)) e.1)) then s.endTalon St.TLN_BAD_COMMAND
      else if !s.kittyOk p sl then (s.post St.KVC_KITTY_AREA_INVALID).endTalon St.KVC_KITTY_AREA_INVALID
      else
        let s := s.wrF (Reg.SLOT_CTRL sl) Fld.SLOT_CTRL_STATE 1
        { s with talon := { s.talon with loads := mapSet sl i.id s.talon.loads } }

/-- The end of a slot's load: READY with its index rebuilt, or EMPTY with the status of the failure (R231, R243). -/
def State.endLoad (sl : Nat) (st : Nat) (s : State) : State :=
  let s := ({ s with talon := { s.talon with loads := mapDel sl s.talon.loads } })
  if stCode st = 0 then
    let s := s.wrF (Reg.SLOT_CTRL sl) Fld.SLOT_CTRL_STATE 2
    let s := s.wrN (Reg.PREFILL_CAP sl) (s.rdF (Reg.SLOT_CFG sl) Fld.SLOT_CFG_TOKEN_BUDGET)
    (s.rebuildIndex (s.slotOwner sl) sl).endTalon st
  else (s.wrF (Reg.SLOT_CTRL sl) Fld.SLOT_CTRL_STATE 0).endTalon st

/-- Pour the sections of an image into HBM at the addresses that SLOT_LOAD names (R243): the status of the first that fails as a write of HBM does. -/
def State.pourImage (words : List Nat) (i : WeightImage) (s : State) : Option Nat × State :=
  (sectionRanges 0 i.sections).zipIdx.foldl (fun (acc : Option Nat × State) e =>
    if acc.1.isSome ∨ e.1.2 = 0 then acc
    else
      let t := acc.2.hbmPour 3 (words.getD (4 + e.2) 0) e.1.2 e.1.1 i.body
      if t.1.isNone ∧ !(t.2.pathContexts 3 0).isEmpty then (none, t.2.feedPath 3 0 (getBody i.body e.1.1 e.1.2)) else t) (none, s)

/-- SLOT_LOAD_COMPLETE (R237, R243): the last section has been read. DESIGN CHOICE (log 230): the slot keeps the value of TRICK_TIME_AVG, which its
next trick, taken as its first (R157), sets. -/
def State.finishLoad (sl : Nat) (cws : List Codeword) (s : State) : State :=
  match mapGet sl s.talon.loads, s.talon.command with
  | some id, some c =>
    let s := s.ladder cws
    (match s.imageAt id with
     | none => s.endLoad sl St.TLN_IMAGE_READ_FAILED
     | some i =>
       let s := s.countReads i.fragments
       if i.state = .damaged then s.endLoad sl St.TLN_IMAGE_READ_FAILED
       else
         match s.pourImage c.words i with
         | (none, s) => (s.putSlot sl { SlotServing.empty with imageId := i.id, imageTag := i.tag }).endLoad sl talonOk
         | (some st, s) => s.endLoad sl st)
  | _, _ => s

/-- SLOT_UNLOAD: a READY slot with no HELD, PREFILL or DECODE request becomes EMPTY, and its nodes are evicted (R243). A request that is being
resumed counts as the PREFILL or DECODE request it becomes. -/
def State.slotUnload (p : Nat) (w : Nat → Nat) (s : State) : State :=
  let sl := bitsAt (w 0) 12 3
  if !(s.slotReady sl && s.slotOwner sl == p) || !(s.heldOf p sl).isEmpty || (s.handsOf p sl).any (fun h => h.phase != .parking) then
    s.endTalon St.TLN_SLOT_BUSY
  else
    let roots := ((s.nodesOf p).filter (fun e => e.2.slot == sl && e.2.parent.isNone)).map (fun e => e.1)
    let s := s.overList roots (fun i t => t.evictSubtree p i)
    ((s.wrF (Reg.SLOT_CTRL sl) Fld.SLOT_CTRL_STATE 0).putSlot sl .empty).endTalon talonOk

/-! ### Parked images (R244, R245) -/

/-- The header page of a parked image (R244): the fields in the order of R244. DESIGN CHOICE: the spec gives no offsets. -/
def parkHeader (i : ParkedImage) : List Byte :=
  let rows := fun (d : Nat) => ((i.hand.tables[d]?).map (fun t => t.entries.length)).getD 0
  let b := leBytes 8 (0xD8E2 + 1 * 2 ^ 16) ++ leBytes 8 i.handle ++ leBytes 8 i.hand.desc.hostTag ++ leBytes 8 i.imageTag
    ++ leBytes 8 (i.hand.desc.slot + i.hand.desc.variant * 2 ^ 8 + i.groupSize * 2 ^ 24 + i.member * 2 ^ 32 + i.dies * 2 ^ 40)
    ++ leBytes 8 (i.layers + i.kvHeads * 2 ^ 8 + i.headDim * 2 ^ 16 + i.hand.log2p * 2 ^ 32)
    ++ leBytes 8 (rows 0 + rows 1 * 2 ^ 16 + rows 2 * 2 ^ 32 + rows 3 * 2 ^ 48)
    ++ leBytes 8 (i.bytes - flashPage)
  let crc := crc32cTagged i.handle (b ++ leBytes 8 0)
  b ++ leBytes 8 crc ++ leBytes (flashPage - 72) 0

/-- An exported image: header, hand record, page tables, kitty and rows. -/
def exportBytes (i : ParkedImage) : List Byte :=
  let st := if i.hand.promptDone < i.hand.desc.promptLen then 1 else 2
  let head := parkHeader i ++ handBytes i.hand st
    ++ i.hand.tables.flatMap (fun t => t.entries.flatMap (fun e => leBytes 8 (e.basePos + e.log2p * 2 ^ 24 + e.format * 2 ^ 28)))
  head ++ getBody i.body 0 (i.bytes - head.length)

/-- PARK_EXPORT: a complete image is copied out; word 4 returns its bytes. -/
def State.parkExport (cws : List Codeword) (p : Nat) (w : Nat → Nat) (s : State) : State :=
  match s.parkedAt (w 1) with
  | none => s.endTalon St.TLN_BAD_COMMAND
  | some i =>
    if i.part ≠ p ∨ !i.complete then s.endTalon St.TLN_IMAGE_STATE
    else
      let s := { s with talon := { s.talon with command := s.talon.command.map (fun (c : TalonCommand) => { c with word4 := some i.bytes }) } }
      let a := bitsAt (w 2) 0 48
      if w 4 < i.bytes ∨ (!bitOf (w 2) 63 ∧ !(List.range 4).any (fun q => s.inTaskSpace q a i.bytes)) then s.endTalon St.TLN_BAD_COMMAND
      else
        let s := (s.ladder cws).countReads i.fragments
        if (s.parkedAt (w 1)).all (fun x => x.lost) then s.endTalon St.TLN_UNCORRECTABLE
        else if bitOf (w 2) 63 then (s.hostWrite 0 a (exportBytes i)).endTalon talonOk
        else
          match s.hbmWrite 3 a (exportBytes i) with
          | (some st, s) => s.endTalon st
          | (none, s) => s.endTalon talonOk

/-- The tables of an image, by their C-die in the partition, from the page-table part of its bytes. -/
def readTables (b : List Byte) : Nat → List (Nat × Nat) → List KvTable
  | _, [] => []
  | off, (d, n) :: t =>
    let entry := fun (i : Nat) =>
      let w := leAt b (off + 8 * i) 8
      ({ basePos := bitsAt w 0 24, log2p := bitsAt w 24 4, format := bitsAt w 28 2, state := .committed, row := 0 } : KvEntry)
    ({ die := d, blocks := [], entries := (List.range n).map entry } : KvTable) :: readTables b (off + 8 * n) t

/-- A hand record from its 512 bytes. -/
def readHand (b : List Byte) (segs : List Segment) (tables : List KvTable) : HandRecord :=
  let w := fun o => leAt b o 8
  let d : ReqDesc := {
    opcode := 4, slot := bitsAt (w 0) 3 3, cls := bitsAt (w 0) 6 3, hostSpace := bitOf (w 0x88) 63, variant := bitsAt (w 0) 9 14
    hostTag := w 8, promptAddr := bitsAt (w 0x88) 0 48, target := 0, promptLen := bitsAt (w 0x30) 0 24, maxNew := bitsAt (w 0x38) 32 24
    temperature := bitsAt (w 0x50) 0 16, topK := bitsAt (w 0x50) 16 16, topP := bitsAt (w 0x50) 32 16, deadlineMs := 0
    seed := w 0x58, stop0 := bitsAt (w 0x60) 0 32, stop1 := bitsAt (w 0x60) 32 32, mmAddr := bitsAt (w 0x90) 0 48, segs := segs }
  { index := 0, generation := bitsAt (w 0) 32 32, phase := if bitsAt (w 0) 0 3 = 1 then .prefill else .decode, desc := d, rq := 0, order := 0
    submitTs := w 0x10, admitTs := w 0x18, firstTs := w 0x20, lastTs := w 0x28, promptDone := bitsAt (w 0x30) 32 24
    generated := bitsAt (w 0x38) 0 24, position := bitsAt (w 0x40) 0 24, lastToken := bitsAt (w 0x40) 32 32
    tbtLast := bitsAt (w 0x48) 0 32, tbtMax := bitsAt (w 0x48) 32 32, tbtOver := bitsAt (w 0xA0) 0 32, drafts := []
    parkHandle := w 0x98, skipInterval := false, dropImage := none, parkBy := (0, 0), awaiting := [], outcome := none
    log2p := bitsAt (w 0x100) 0 4, kitty := 0, flushPending := bitOf (w 0x100) 32, flushed := [], copied := [], tentative := 0
    startPos := bitsAt (w 0x40) 0 24, reservedRows := 0, written := [], tables := tables, path := [], noPage := false
    leased := false, prompt := [] }

/-- The segments that the hand record of an imported image names (R148). -/
def State.importSegments (hand : List Byte) (s : State) : Except Nat (List Segment) × State :=
  let w := leAt hand 0x90 8
  let n := bitsAt w 48 4
  if n = 0 then (.ok [], s)
  else match s.globalRead 3 (bitsAt w 0 48) (16 * n) with
    | (some st, _, s) => (.error st, s)
    | (none, b, s) => (.ok (parseSegments b n), s)

/-- PARK_IMPORT: an image is written into the partition's parking space. -/
def State.parkImport (p : Nat) (w : Nat → Nat) (s : State) : State :=
  let n := w 4
  match (if n < flashPage + 512 then ((.error St.TLN_BAD_COMMAND : Except Nat (List Byte)), s) else s.talonSource (w 2) n) with
  | (.error st, s) => s.endTalon st
  | (.ok b, s) =>
    let s := s.feedPath 2 0 b
    let g := fun i => leAt b (8 * i) 8
    let handle := g 1
    let ok := bitsAt (g 0) 0 16 == 0xD8E2 && bitsAt (g 0) 16 8 == 1
      && crc32cTagged handle (b.take 64 ++ leBytes 8 0) == g 8 && g 7 + flashPage == n && (s.parkedAt handle).isNone
    if !ok then s.endTalon St.TLN_PARK_IMAGE_INVALID
    else if !s.parkRoom p n then s.endTalon St.TLN_ZONE_FULL
    else
      -- segments that cannot be read end the import as a parking source does (R131)
      match s.importSegments ((b.drop flashPage).take 512) with
      | (.error st, s) => s.endTalon st
      | (.ok segs, s) =>
      match s.useTalon.place .prefixZone 0 (pagesFor n) with
      | none => s.endTalon St.TLN_ZONE_FULL
      | some (frags, s) =>
        let dies := bitsAt (g 4) 40 8
        let counts := (List.range dies).map (fun d => (d, bitsAt (g 6) (16 * d) 16))
        let tables := readTables b (flashPage + 512) counts
        let hb := (b.drop flashPage).take 512
        let img : ParkedImage := {
          handle := handle, part := p, complete := true, lost := false, hand := readHand hb segs tables, imageTag := g 3
          groupSize := bitsAt (g 4) 24 8, member := bitsAt (g 4) 32 8, dies := dies, layers := bitsAt (g 5) 0 8
          kvHeads := bitsAt (g 5) 8 8, headDim := bitsAt (g 5) 16 16, bytes := n
          body := putBody [] 0 (b.drop (flashPage + 512 + 8 * ((counts.map (fun e => e.2)).sum))), fragments := frags }
        ((({ s with talon := { s.talon with parked := s.talon.parked ++ [img] } }).charge p (pagesFor n)).showShare p).endTalon talonOk

def State.parkDelete (p : Nat) (w : Nat → Nat) (s : State) : State :=
  match s.parkedAt (w 1) with
  | none => s.endTalon St.TLN_BAD_COMMAND
  | some i => if i.part ≠ p ∨ !i.complete then s.endTalon St.TLN_IMAGE_STATE else (s.dropParked (w 1)).endTalon talonOk

/-- PREFIX_DROP: frees the matching prefix extents of the partition and evicts their nodes. -/
def State.prefixDrop (p : Nat) (w : Nat → Nat) (s : State) : State :=
  let es := s.talon.extents.filter (fun e => e.part == p && e.kind == .prefixes && (w 1 == 0 || e.imageTag == w 1))
  let s := s.overList es (fun e t =>
    let nodes := ((t.nodesOf p).filter (fun x => x.2.extent == e.name)).map (fun x => x.1)
    (t.overList nodes (fun i u => u.evictSubtree p i)).dropExtent e.name)
  s.endTalon talonOk

/-! ### Quiescing and mounting (R246, R247) -/

/-- Work in progress ends: demotions and promotions are abandoned, parkings fail, loads fail; uncommitted extents are freed. -/
def State.stopTalonWork (s : State) : State :=
  let s := s.overList s.talon.transfers (fun x t =>
    if x.demotion then t.abandonTransfer x
    else
      let t := t.overList x.nodes (fun i u => u.updNode x.part i (fun n => { n with state := .flash }))
      (t.endTransfer x).overList x.rows (fun r u => u.unlease r.2))
  let s := s.overList (s.talon.extents.filter (fun e => !e.committed)) (fun e t =>
    let nodes := ((t.nodesOf e.part).filter (fun x => x.2.extent == e.name)).map (fun x => x.1)
    (t.overList nodes (fun i u => u.evictSubtree e.part i)).dropExtent e.name)
  let s := s.overList (s.talon.parked.filter (fun i => !i.complete)) (fun i t => t.dropParked i.handle)
  s.overList (s.talon.loads.map (fun e => e.1)) (fun sl t => t.endLoad sl St.TLN_IMAGE_READ_FAILED)

/-- Steps 2 to 6 of R246: a marker of a kind (1 CLEAN, 2 PULLED) is written for a reason, and Talon is quiesced. -/
def State.quiesceTalon (kind reason : Nat) (s : State) : State :=
  let s := ({ s with talon := { s.talon with abandoned := 0 } }).stopTalonWork
  let m : TalonMarker := ⟨kind, reason, s.talon.journal, s.poweredS, s.talon.abandoned⟩
  { s with
    talon := { s.talon with marker := some m, quiesced := true }
    ledger := { s.ledger with checkpoint := s.ledger.counters } }

/-- The status that a parking ends with when SHUTDOWN or a failed channel ends it: the spec names none. -/
def State.shutdownStatus (s : State) : Nat := 0x6380 + Config.parkEnded s.freeCtr % 128

/-- Parkings of this module that are in progress, by partition and hand record. -/
def State.parkingsHere (s : State) : List (Nat × Nat) :=
  (List.range 4).flatMap (fun q =>
    ((s.partServing q).hrs.filter (fun h => h.phase == .parking && h.awaiting.contains (s.groupMember q))).map (fun h => (q, h.index)))

/-- Parkings whose images Talon has given up end with a status (R174, R239, R246): a follower reports its own. -/
def State.endParkings (l : List (Nat × Nat)) (st : Nat) (s : State) : State :=
  s.overList l (fun e t =>
    match t.handAt e.1 e.2 with
    | none => t
    | some h =>
      let (h, t) := t.unleaseHand h
      let t := t.putHand e.1 h
      if t.followsGroup e.1 then
        (t.putHand e.1 { h with awaiting := [] }).updSlot h.desc.slot (fun x => { x with parkReports := x.parkReports ++ [(h.index, st)] })
      else t.memberParked e.1 e.2 (t.groupMember e.1) st)

/-- SHUTDOWN (R246). -/
def State.shutdownTalon (_p : Nat) (_w : Nat → Nat) (s : State) : State :=
  let st := s.shutdownStatus
  let parking := s.parkingsHere
  (((s.quiesceTalon 1 0).drawn.ledgerVolatile).endParkings parking st).endTalon talonOk

/-- Registers that take their values at the mount (R233, R236, R238). -/
def State.showMount (s : State) : State :=
  let lost := fun z => (s.talon.bands.filter (fun b => inZone z b.index && b.retired)).length
  let s := s.wrF Reg.TLN_ZONES Fld.TLN_ZONES_PFX_BANDS (1792 - lost .prefixZone)
  let s := s.wrF Reg.TLN_ZONES Fld.TLN_ZONES_WT_BANDS (3584 - lost .weights)
  s.showSpares.showErase

/-- The marker that the mount finds (R247): one of the two copies that can be read, of a valid kind. -/
def State.markerFound (s : State) (badMarkers : List Nat) : Option TalonMarker :=
  if badMarkers.contains 0 && badMarkers.contains 1 then none else s.talon.marker

/-- Mount (R247): the marker found decides the checks of the open bands; `lost` and `images` name extents, parked and weight images found
unreadable there, `cws` is what the retention sampling read. Blocks with the maker's mark are entered at the first mount (R238). -/
def State.mountTalon (lost images badMarkers factory : List Nat) (cws : List Codeword) (s : State) : State :=
  let failed := s.rdF Reg.TLN_STATE Fld.TLN_STATE_FAILED_TC
  let m := s.markerFound badMarkers
  let kind : Nat := (m.map (fun x => x.kind)).getD 0
  let first := !s.talon.mounted
  let isOpen := fun (fs : List Fragment) => kind != 1 && fs.any (fun f => some f.band == s.talon.openPrefix || some f.band == s.talon.openWeights)
  let s := { s with talon := { s.talon with
    quiesced := false, marker := none, transfers := [], loads := [], command := none, mounted := true } }
  let s := s.replayJournal
  let opens := [s.talon.openPrefix, s.talon.openWeights].filterMap id
  let s := if kind = 1 then s else s.countReads (opens.map (fun b => ⟨b, 0, (s.bandAt b).programmed, 0⟩))
  let s := s.overList (s.talon.extents.filter (fun e => !e.committed)) (fun e t => t.dropExtent e.name)
  let s := { s with talon := { s.talon with
    extents := s.talon.extents.filter (fun e : Extent => !(isOpen e.fragments && lost.contains e.name))
    parked := s.talon.parked.filter (fun i : ParkedImage => i.complete && !(isOpen i.fragments && lost.contains i.handle))
    images := s.talon.images.map (fun i : WeightImage => if isOpen i.fragments && images.contains i.id then { i with state := .damaged } else i) } }
  let s := s.wrF Reg.TLN_STATE Fld.TLN_STATE_MOUNT (if failed = 0 then 2 else 3)
  let s := s.wrF Reg.TLN_STATE Fld.TLN_STATE_MARKER kind
  let s := s.showMount
  let s := if first then s.overList factory (fun k t => t.factoryBlock (k / 8192 % 32) (k % 8192)) else s
  let s := s.overList (List.range 4) (fun p t => t.showShare p)
  let s := if kind = 2 then s.post St.TLN_PULLED_RECOVERED else if kind = 0 then s.post St.TLN_NO_MARKER_RECOVERED else s
  -- the first stripe of every written band is read (R236)
  let width := s.stripeDies.length
  let written := s.talon.bands.filter (fun b => b.programmed != 0 && !b.retired)
  (s.countReads (written.map (fun b => ⟨b.index, 0, min width b.programmed, 0⟩))).ladder cws

/-! ### Commands of the table -/

def execImageCreate (s : State) : Out := .next (s.onTalon 1 State.imageCreate)
def execImageWrite (upsets : List Upset) (s : State) : Out := .next ((s.upset upsets).onTalon 2 State.imageWrite)
def execImageSeal (s : State) : Out := .next (s.onTalon 3 State.imageSeal)
def execImageDelete (s : State) : Out := .next (s.onTalon 4 State.imageDelete)
def execSlotLoad (s : State) : Out := .next (s.onTalon 5 State.slotLoad)
def execSlotUnload (s : State) : Out := .next (s.onTalon 6 State.slotUnload)
def execParkExport (cws : List Codeword) (s : State) : Out := .next (s.onTalon 7 (State.parkExport cws))
def execParkImport (upsets : List Upset) (s : State) : Out := .next ((s.upset upsets).onTalon 8 State.parkImport)
def execParkDelete (s : State) : Out := .next (s.onTalon 9 State.parkDelete)
def execPrefixDrop (s : State) : Out := .next (s.onTalon 10 State.prefixDrop)
def execShutdown (s : State) : Out := .next (s.onTalon 11 State.shutdownTalon)

/-- SLOT_LOAD_COMPLETE (R243). -/
def execSlotLoadComplete (slot : Nat) (cws : List Codeword) (s : State) : Out :=
  .next (if s.talonUp && s.ready then s.finishLoad slot cws else s)

/-- The completion of the command under execution: word 4 where it returns one, the status, then DONE, then the message (R136,
R248). -/
def State.completeTalon (c : TalonCommand) (st : Nat) (s : State) : State :=
  let cfg := Reg.TLN_CMD_CFG
  let space := s.rdF cfg Fld.TLN_CMD_CFG_SPACE
  let a := ringBase (s.rd64 Reg.TLN_CMD_BASE_LO) 64 (s.rdF cfg Fld.TLN_CMD_CFG_SIZE_LOG2) + 64 * c.ringIndex
  let s := { s with talon := { s.talon with command := none } }
  let w0 := putBits (putBits (c.words.getD 0 0) 16 16 st) 32 1 1
  if !s.rdB cfg Fld.TLN_CMD_CFG_ENABLE then s else
  let s := match c.word4 with
    | some v => (s.ringWrite space 0 (a + 32) (leBytes 8 v)).2
    | none => s
  match s.ringWrite space 0 a (leBytes 8 w0) with
  | (false, s) => s.disableRing .tln
  | (true, s) => if s.rdB cfg Fld.TLN_CMD_CFG_IRQ_EN then s.msix 0 (s.rdF cfg Fld.TLN_CMD_CFG_VECTOR) else s

/-- TALON_CMD_COMPLETE (R248): also of a head command with an unknown OP, which completes with BAD_COMMAND. -/
def execTalonCmdComplete (upsets : List Upset) (s : State) : Out :=
  let s := s.upset upsets
  match s.talon.command with
  | some c =>
    (match c.status with
     | some st => .next (s.completeTalon c st)
     | none => .next s)
  | none =>
    match s.talonHead with
    | (none, s) => .next s
    | (some w, s') =>
      let op := bitsAt (w.getD 0 0) 0 8
      if 1 ≤ op ∧ op ≤ 11 then .next s
      else
        let st := if s'.commandAbsorbed w then St.RST_RESET_ABSORBED else St.TLN_BAD_COMMAND
        let s := (s'.takeTalon w).endTalon st
        match s.talon.command with
        | some c => .next (s.completeTalon c st)
        | none => .next s

/-- FLASH_PROGRAM_FAIL (R238): the program of a page of the band fails on a die. The page is written again from staging elsewhere, and the block
is retired. -/
def execFlashProgramFail (die : Nat) (x : PageMove) (s : State) : Out :=
  .next (if s.talonUp && decide (die < 32) && decide (x.band < 5397) then ((s.ladder x.cws).reprogram x.band x.page).retireBlock die x.band else s)

/-- FLASH_ERASE_FAIL (R238). -/
def execFlashEraseFail (die : Nat) (x : BandMove) (s : State) : Out :=
  .next (if s.talonUp && decide (die < 32) && decide (x.band < 5397) then (s.ladder x.cws).retireBlock die x.band else s)

/-- A channel fails (R239): every extent is abandoned and Talon remounts with bands of 30 blocks. -/
def State.failChannel (t : Nat) (s : State) : State :=
  let st := s.shutdownStatus
  let parking := s.parkingsHere
  let s := s.drawn.stopTalonWork
  let flash := (List.range 4).flatMap (fun p =>
    ((s.nodesOf p).filter (fun e => e.2.flashValid || e.2.state == .flash)).map (fun e => (p, e)))
  let s := s.overList flash (fun e u =>
    match u.nodeAt e.1 e.2.1 with
    | none => u
    | some n => if n.state = .flash then u.loseNodes e.1 [e.2.1] else u.putNode e.1 e.2.1 { n with extent := 0, flashValid := false })
  let bands := s.talon.bands.map (fun b : Band => { b with programmed := 0, programmedAt := [], refreshDue := false, reads := [] })
  let s := { s with talon := { s.talon with
    extents := [], images := [], parked := [], bands := bands, openPrefix := none, openWeights := none } }
  let s := s.journalled
  let s := s.overList (List.range 4) (fun p u => u.showShare p)
  let s := (s.wrF Reg.TLN_STATE Fld.TLN_STATE_MOUNT 3).wrF Reg.TLN_STATE Fld.TLN_STATE_FAILED_TC
    (s.rdF Reg.TLN_STATE Fld.TLN_STATE_FAILED_TC ||| 2 ^ t)
  let s := (s.putBit Reg.DECK_TALON t false).endParkings parking st
  (s.ledgerRecord 0x6000 St.TLN_CHANNEL_FAILED 4 0 true).postAt 0x6000 St.TLN_CHANNEL_FAILED

/-- TALON_CHANNEL_FAIL (R239). -/
def execTalonChannelFail (channel : Nat) (s : State) : Out :=
  .next (if s.talonUp && decide (channel < 16) && !bitOf (s.rdF Reg.TLN_STATE Fld.TLN_STATE_FAILED_TC) channel
    then s.failChannel channel else s)

def zoneOf (weights : Bool) : Zone := if weights then .weights else .prefixZone

/-- Bands of a zone that hold pages, in no open band. -/
def State.closedBands (s : State) (z : Zone) : List Band :=
  s.talon.bands.filter (fun b => inZone z b.index && b.programmed != 0 && !b.retired && s.openBand z != some b.index)

/-- GARBAGE_COLLECT (R236): the zone's free bands are too few. -/
def execGarbageCollect (x : ZoneMove) (s : State) : Out :=
  let z := zoneOf x.weights
  if !s.talonUp || decide ((if x.weights then 8 else 16) ≤ (s.freeBands z).length) then .next s
  else
    match leastBand (fun b => s.validPages b.index) (s.closedBands z) with
    | some b => .next ((s.ladder x.cws).relocateBand b.index)
    | none => .next s

/-- STATIC_WEAR_LEVEL (R236): the spread of erase counts in a zone is too wide. -/
def execStaticWearLevel (x : ZoneMove) (s : State) : Out :=
  let z := zoneOf x.weights
  let all := ((List.range (zoneCount z)).map (fun i => s.bandAt (zoneFirst z + i))).filter (fun b => !b.retired)
  let hi := all.foldl (fun m b => b.blockErases.foldl max m) 0
  let lo := all.foldl (fun m b => b.blockErases.foldl min m) hi
  if !s.talonUp || decide (hi - lo ≤ (if x.weights then 150 else 1500)) then .next s
  else
    match leastBand Band.wear (s.closedBands z), leastBand (fun b => 32 * hi - b.wear) (s.freeBands z) with
    | some b, some f =>
      let s := s.ladder x.cws
      let was := s.openBand z
      .next (((s.setOpen z (some f.index)).relocateBand b.index).setOpen z was)
    | _, _ => .next s

/-- RETENTION_AGE_REFRESH (R236): a band has aged, or a read of it needed too many corrections. -/
def execRetentionAgeRefresh (x : BandMove) (s : State) : Out :=
  let b := s.bandAt x.band
  let days := match bandZone x.band with
    | .weights => s.rdF Reg.TLN_CFG2 Fld.TLN_CFG2_WT_REFRESH_DAYS
    | _ => s.rdF Reg.TLN_CFG2 Fld.TLN_CFG2_PFX_REFRESH_DAYS
  let aged := b.programmedAt.any (fun e => decide (e.2 + days * 86400 ≤ s.poweredS))
  .next (if s.talonUp && b.programmed != 0 && !b.retired && (aged || b.refreshDue) then (s.ladder x.cws).relocateBand x.band else s)

/-- READ_DISTURB_RELOCATE (R236): a block of the band has been read 60,000 times (TLC) or 600,000 times (pseudo-SLC) since its erase. -/
def execReadDisturbRelocate (x : BandMove) (s : State) : Out :=
  let b := s.bandAt x.band
  let limit := if bandZone x.band = .weights then 60000 else 600000
  .next (if s.talonUp && b.programmed != 0 && !b.retired && b.reads.any (fun e => decide (limit ≤ e.2)) then
      (s.ladder x.cws).relocateBand x.band else s)

/-- Growth of a partition's credit in one second, in bytes (R240). -/
def State.creditGrowth (s : State) (p : Nat) : Nat :=
  let worn := ((s.talon.bands.filter (fun b => inZone .prefixZone b.index && !b.retired)).map Band.wear).sum / 32
  let remaining := (s.rdF Reg.TLN_ZONES Fld.TLN_ZONES_PFX_BANDS * 30000 - worn) * 0x10000000
  let left := max (s.rdF Reg.TLN_CFG Fld.TLN_CFG_SERVICE_DAYS * 86400 - s.poweredS) 31536000
  remaining * s.rdF (Reg.TLN_SHARE p) Fld.TLN_SHARE_SHARE_GIB / (left * 384)

/-- WEAR_CREDIT_TICK (R240, R406): one second of Talon's powered time. -/
def execWearCreditTick (s : State) : Out :=
  if !s.talonUp then .next s
  else
    let s := s.commitRS (inRange 0x601000 0x1000)
    let s := s.wr64 Reg.TLN_POWERED_S_LO (s.poweredS + 1)
    let s := { s with talon := { s.talon with secondsToday := s.talon.secondsToday + 1 } }
    .next (s.overList (List.range 4) (fun p t =>
      if t.rdF (Reg.TLN_SHARE p) Fld.TLN_SHARE_SHARE_GIB = 0 then t
      else
        let g := t.creditGrowth p
        let c := min (mapGetD 0 p t.talon.credit + (g : Int)) ((g * 3600 * t.rdF Reg.TLN_CFG Fld.TLN_CFG_BURST_HOURS : Nat) : Int)
        ({ t with talon := { t.talon with credit := mapSet p c t.talon.credit } }).wrN (Reg.TLN_CREDIT p) (ofSigned 32 (c / 1048576))))

end Sys2Proof.Machine
end

