-- ==== Sys2Proof/Machine/Pcie.lean ====
section
/-! DEFINITION. Machine/Pcie.lean: the PCIe endpoint's own events: training, loss, Function Level Resets, MSI-X, bus mastering, failed host reads
and poisoned writes (R311, R318 to R322). -/
namespace Sys2Proof.Machine

/-! ### The functions (R312) -/

/-- What a function presents in its configuration space. -/
structure PciIdentity where
  vendorId : Nat
  deviceId : Nat
  classCode : Nat
  /-- SR-IOV: TotalVFs and First VF Offset; none on a VF -/
  sriov : Option (Nat × Nat)
  msix : Bool
  aer : Bool
  maxPayload : Nat
  tagBits : Nat
  ats : Bool
  pri : Bool
  pasid : Bool
  deriving DecidableEq, Repr

/-- PF0 and VF1 to VF4; the class code of a VF is its PF's, as PCI Express has it. -/
def pciIdentity (f : Fuses) (fn : Nat) : PciIdentity :=
  { vendorId := f.vendorId, deviceId := if fn = 0 then 0xD808 else 0xD809, classCode := 0x120000
    sriov := if fn = 0 then some (4, 1) else none, msix := true, aer := true, maxPayload := 512, tagBits := 10
    ats := false, pri := false, pasid := false }

/-- Reads outstanding across all functions, and the largest read request. -/
def maxReadsOutstanding : Nat := 768
def maxReadRequest : Nat := 4096

/-- Sizes of BAR0, BAR2 and BAR4 of a function (R313). -/
def barSizes (fn : Nat) : Nat × Nat × Nat := if fn = 0 then (16 * 2 ^ 20, 0x8000, 64 * 2 ^ 30) else (2 ^ 20, 0x1000, 64 * 2 ^ 30)

/-! ### Function Level Resets (R321) -/

/-- Pending bits and table of a function return to their reset values (R318, R321); its Command register is cleared, as PCI Express
does at a Function Level Reset (PRESUMED). -/
def State.resetFunction (fn : Nat) (s : State) : State :=
  let s := { s with pcie := { s.pcie with
    msix := mapDrop (inRange (4096 * fn) 4096) s.pcie.msix
    pending := s.pcie.pending.filter (fun v => decide (v / 256 ≠ fn))
    busMaster := setErase fn s.pcie.busMaster } }
  s.wrN (Reg.WIN_BASE fn) 0

/-- Every queue and pipeline of a partition stops (R321, R401). -/
def State.stopQueues (p : Nat) (s : State) : State :=
  let s := (s.wrF (Reg.PART_CTRL p) Fld.PART_CTRL_ENABLE 0).wrF (Reg.PART_SRV_CTRL p) Fld.PART_SRV_CTRL_ENABLE 0
  let s := s.overList (List.range 8) (fun q t => (t.stopRing (.sq p q)).stopRing (.cq p q))
  let s := s.overList (List.range 4) (fun q t => (t.stopRing (.rq p q)).stopRing (.scq p q))
  let s := s.overList ((List.range 16).filter (fun m => s.pipeOwner m == some p)) (fun m t => (t.stopRing (.msq m)).stopRing (.mcq m))
  let s := s.overList (s.partDies p) (fun d t => t.stopRing (.eq d))
  let s := s.stopRing (.rkq p)
  s.overList (List.range 16) (fun i t => t.wrF (Reg.PIPE_CFG_VIS p i) Fld.PIPE_CFG_VIS_ENABLE 0)

/-- A Function Level Reset's effect. -/
def State.flr (fn : Nat) (s : State) : State :=
  let s := if fn = 0 then s.disableRing .tln else if s.partExists (fn - 1) then s.stopQueues (fn - 1) else s
  s.resetFunction fn

def State.flrDone (s : State) : State := (s.count (Reg.PCI_COUNTER 7)).post St.PCI_FLR_COMPLETED

/-- FLR_VF (R321). -/
def execFlrVf (vf : Nat) (s : State) : Out := .next (if 1 ≤ vf ∧ vf ≤ 4 ∧ s.pcieUp then (s.flr vf).flrDone else s)

/-- FLR_PF0 (R321): a running Talon command completes, and the VFs are untouched. -/
def execFlrPf0 (s : State) : Out := .next (if s.pcieUp then (s.flr 0).flrDone else s)

/-! ### The link (R311, R322) -/

/-- The lanes are powered: stage 2 has ended, and the module is neither in STANDBY nor held in reset (R352, R377). -/
def State.lanesPowered (s : State) : Bool :=
  s.side.powerGood && !s.side.resetAsserted && !s.power.standby && s.rdF (Reg.STAGE_STATUS 2) Fld.STAGE_STATUS_RESULT != 0

/-- Train to the highest common speed and the widest common width (R311). -/
def State.trainPcie (speed width : Nat) (s : State) : State :=
  let g := min speed (s.rdF Reg.PCI_CFG Fld.PCI_CFG_MAX_GEN)
  let w := if 16 ≤ width then 16 else if 8 ≤ width then 8 else if 4 ≤ width then 4 else 0
  if g < 3 ∨ w = 0 then (s.wrN Reg.PCI_LINK 0).post St.PCI_PCIE_LINK_DOWN
  else
    let s := s.wrN Reg.PCI_LINK (g + w * 16 + boolNat (g == 6) * 512)
    if g < 6 ∨ w < 16 then (s.ledgerAdd 0xA000 1).post St.PCI_PCIE_DEGRADED else s

/-- PCIE_LINK_UP (R311): the host's end offers a speed and a width. -/
def execPcieLinkUp (speed width : Nat) (s : State) : Out := .next (if s.lanesPowered && !s.pcieUp then s.trainPcie speed width else s)

/-- The link goes down: it acts as a Function Level Reset of every function (R318, R322). -/
def State.losePcie (s : State) : State :=
  if !s.pcieUp then s
  else
    let s := (s.wrN Reg.PCI_LINK 0).overList (List.range 5) (fun f t => (t.flr f).flrDone)
    (((s.count (Reg.PCI_COUNTER 6)).ledgerAdd 0xA000 0).post St.PCI_PCIE_LINK_DOWN)

/-- PCIE_LINK_LOSS (R322). -/
def execPcieLinkLoss (s : State) : Out := .next s.losePcie

/-! ### MSI-X and bus mastering (R318, R319) -/

/-- A vector whose message is due is sent, once, if nothing holds it back. -/
def State.releaseVector (fn v : Nat) (s : State) : State :=
  if s.pcie.pending.contains (256 * fn + v) && s.pcieUp && s.busMaster fn && !s.msixMasked fn v then
    ({ s with pcie := { s.pcie with pending := setErase (256 * fn + v) s.pcie.pending } }).emit (.msix fn v)
  else s

/-- MSIX_UNMASK (R318): the vector's mask bit is cleared. -/
def execMsixUnmask (fn v : Nat) (s : State) : Out :=
  if fn < 5 ∧ v < 256 ∧ s.pcieUp ∧ (fn = 0 ∨ s.ready ∧ s.fnExists fn) then
    let w := s.msixWord fn v 3
    let s := { s with pcie := { s.pcie with msix := mapSet (4096 * fn + 16 * v + 12) (w - w % 2) s.pcie.msix } }
    .next (s.releaseVector fn v)
  else .next s

/-- Writes to host memory that waited for a function (R319). -/
def State.releaseWrites (fn : Nat) (s : State) : State :=
  let mine := s.pcie.waiting.filter (fun w => w.fn == fn)
  { s with pcie := { s.pcie with
    waiting := s.pcie.waiting.filter (fun w => w.fn != fn)
    hostMem := mine.foldl (fun m w => cellsWrite 0 m w.addr w.bytes) s.pcie.hostMem } }

/-- BUS_MASTER_ENABLE_SET (R318, R319): waiting writes proceed, and one message per pending unmasked vector is sent. -/
def execBusMasterEnableSet (fn : Nat) (s : State) : Out :=
  if 5 ≤ fn ∨ !s.pcieUp then .next s
  else
    let s := { s with pcie := { s.pcie with busMaster := setInsert fn s.pcie.busMaster } }
    .next ((s.releaseWrites fn).overList (List.range 256) (fun v t => t.releaseVector fn v))

/-- BUS_MASTER_ENABLE_CLEAR (R319): from now on accesses to host memory wait. -/
def execBusMasterEnableClear (fn : Nat) (s : State) : Out :=
  .next { s with pcie := { s.pcie with busMaster := setErase fn s.pcie.busMaster } }

/-! ### Failed reads of host memory (R319) -/

/-- A ring whose next entry lies in host memory and can be read now. -/
def State.ringReads (s : State) (r : RingRef) : Bool :=
  let due := fun (cfg : Nat) (en : BitField) (space head tail fn : Nat) =>
    s.rdB cfg en && space == 1 && s.rdN head != s.rdN tail && s.hostReadable 1 fn
  match r with
  | .sq p q => due (Reg.SQ_CFG p q) Fld.SQ_CFG_ENABLE (s.rdF (Reg.SQ_CFG p q) Fld.SQ_CFG_SPACE) (Reg.SQ_HEAD p q) (Reg.SQ_TAIL p q) (p + 1)
  | .rq p q => due (Reg.RQ_CFG p q) Fld.RQ_CFG_ENABLE (s.rdF (Reg.RQ_CFG p q) Fld.RQ_CFG_SPACE) (Reg.RQ_HEAD p q) (Reg.RQ_TAIL p q) (p + 1)
  | .rkq p => due (Reg.RKQ_CFG p) Fld.RKQ_CFG_ENABLE (s.rdF (Reg.RKQ_CFG p) Fld.RKQ_CFG_SPACE) (Reg.RKQ_HEAD p) (Reg.RKQ_TAIL p) (p + 1)
  | .msq m => (match s.pipeOwner m with
    | some p => due (Reg.MSQ_CFG m) Fld.MSQ_CFG_ENABLE (s.rdF (Reg.MSQ_CFG m) Fld.MSQ_CFG_SPACE) (Reg.MSQ_HEAD m) (Reg.MSQ_TAIL m) (p + 1)
    | none => false)
  | .eq d => (match s.dieOwner d with
    | some p => due (Reg.EQ_CFG d) Fld.EQ_CFG_ENABLE (s.rdF (Reg.EQ_CFG d) Fld.EQ_CFG_SPACE) (Reg.EQ_HEAD d) (Reg.EQ_TAIL d) (p + 1)
    | none => false)
  | .tln => due Reg.TLN_CMD_CFG Fld.TLN_CMD_CFG_ENABLE (s.rdF Reg.TLN_CMD_CFG Fld.TLN_CMD_CFG_SPACE) Reg.TLN_CMD_HEAD Reg.TLN_CMD_TAIL 0
  | .cq _ _ => false
  | .scq _ _ => false
  | .mcq _ => false

/-- The read fails. A ring entry: the ring's ENABLE is cleared, reported at severity 0x2. Data that an entry or a command names: the
item ends with HOST_DMA_FAILED, as its block ends any failed item. -/
def State.failHostRead (r : HostRead) (s : State) : State :=
  let failed := fun (t : State) => t.hostReading.count (Reg.PCI_COUNTER 5)
  let st := St.PCI_HOST_DMA_FAILED
  if !s.ready then s
  else
    match r with
    | .ring g => if s.ringFitted g && s.ringReads g then ((failed s).post St.PCI_RING_FETCH_FAILED).disableRing g else s
    | .prompt p hr =>
      (match s.handAt p hr with
       | some h =>
         if h.phase = .prefill ∧ h.desc.hostSpace ∧ s.hostReadable 1 (p + 1) ∧ s.slotLead h.desc.slot then
           (((failed s).post st).updSlot h.desc.slot (fun x => { x with toEnd := x.toEnd ++ [(hr, st)] })).slotEvent h.desc.slot
         else s
       | none => s)
    | .lookup p =>
      (match s.fetchedAt p with
       | some (_, b) =>
         let d := parseRequest b
         if d.hostSpace && s.indexable p d != 0 && s.hostReadable 1 (p + 1) && leAt b 0 1 == 1 && s.partWorks p then
           ((failed s).post st).onFetched p 1 (fun q b t => t.submitFailed p st q b)
         else s
       | none => s)
    | .held p i =>
      (match (s.partServing p).held[i]? with
       | some r =>
         if r.desc.hostSpace && s.indexable p r.desc != 0 && s.hostReadable 1 (p + 1) && s.slotLead r.desc.slot && s.partWorks p then
           ((failed s).post st).endHeldNow p st r
         else s
       | none => s)
    | .bitstream m c =>
      (match s.pipeOwner m, s.decCtx m c, (s.mediaQueue m c).head? with
       | some p, some _, some u =>
         if s.pipeWorks m ∧ u.op = 4 ∧ bitOf (u.word 1) 63 ∧ s.hostReadable 1 (p + 1) then
           let s := ((failed s).post st).putQueue m c ((s.mediaQueue m c).drop 1)
           (s.noPicture m c u st none).endUnit m c true
         else s
       | _, _, _ => s)
    | .talon =>
      (match s.talonHead with
       | (some w, s) =>
         let op := bitsAt (w.getD 0 0) 0 8
         if (op = 2 ∨ op = 8) ∧ bitOf (w.getD 2 0) 63 then (((failed s).post st).takeTalon w).endTalon st else s
       | (none, s) => s)

/-- HOST_READ_ERROR (R319): Unsupported Request, Completer Abort or a poisoned completion. -/
def execHostReadError (r : HostRead) (s : State) : Out := .next (s.failHostRead r)

/-- HOST_READ_TIMEOUT (R319): no completion within CPL_TIMEOUT_MS. -/
def execHostReadTimeout (r : HostRead) (s : State) : Out := .next (s.failHostRead r)

/-- POISONED_WRITE_RX (R320): dropped, counted, reported. -/
def execPoisonedWriteRx (s : State) : Out :=
  .next (if s.pcieUp then ((s.count (Reg.PCI_COUNTER 2)).aerError).post St.PCI_POISONED_WRITE else s)

end Sys2Proof.Machine
end

