-- ==== Sys2Proof/Machine/ModuleReset.lean ====
section
/-! DEFINITION. Machine/ModuleReset.lean: what a module-level reset leaves (R398, R404), the power-off into STANDBY (R352), and the end at a trip
level (R371). -/
namespace Sys2Proof.Machine

/-- Registers, or parts of them, whose Reset is 'Persisted' or 'Kept': they survive a module-level reset. TLN_STATE's failed channels
are kept with Talon's own records (DEDUCED). -/
def keptRegs : List (Nat × Nat) :=
  [(Reg.HLT_ALERT, 0xFFFFFFFF), (Reg.UPD_STATE, 0x700), (Reg.MGT_BRINGUPS, 0xFFFFFFFF), (Reg.TLN_STATE, 0xFFFF0000),
   (Reg.TLN_POWERED_S_LO, 0xFFFFFFFF), (Reg.TLN_POWERED_S_HI, 0xFFFFFFFF), (Reg.TLN_EOL, 0xFFFFFFFF)]
  ++ (List.range 4).flatMap (fun p => [Reg.TLN_CREDIT p, Reg.TLN_USED p, Reg.TLN_PARK_USED p, Reg.TLN_CHARGED_30D p].map
      (fun r => (r, 0xFFFFFFFF)))
  ++ (List.range 64).map (fun i => (Reg.TLN_CHANNEL (i / 4) (i % 4), 0xFFFFFFFF))

/-- The register file of a module after reset. -/
def State.keptFile (s : State) : List (Nat × Word) :=
  keptRegs.foldl (fun m e =>
    let r := (resetWord s.fuses e.1).toNat
    let v := (r &&& (0xFFFFFFFF ^^^ e.2)) ||| (s.rdN e.1 &&& e.2)
    if v = r then m else mapSet e.1 (BitVec.ofNat 32 v) m) []

/-- A module-level reset (R398): everything returns to its reset value but the timebase, Talon and boot NOR contents, what the
always-on domain and the management cluster hold, and what lies outside the module. -/
def State.resetModule (s : State) : State :=
  { State.reset with
    pending := s.pending, fuses := s.fuses, now := s.now, freeCtr := s.freeCtr
    regs := s.keptFile
    pcie := { PcieState.ofReset with hostMem := s.pcie.hostMem, sent := s.pcie.sent }
    mgmt := { MgmtState.ofReset with timeLatch := s.mgmt.timeLatch }
    ledger := { s.ledger with
      counters := s.ledger.checkpoint, rate := [], retry := [], sweeping := none, codewords := [], partLatch := 0 }
    side := s.side
    talon := { s.talon with transfers := [], loads := [], command := none, quiesced := false, absorbed := [] }
    update := { s.update with activating := none, recovery := false } }

/-- Power good falls with the domains (R472). -/
def State.setPowerGood (b : Bool) (s : State) : State := { s with side := { s.side with powerGood := b } }

/-- STANDBY (R352): only the always-on domain and the management cluster are powered. With Talon down the ledger is volatile (R426). -/
def State.enterStandby (s : State) : State :=
  let s := (s.resetModule).setPowerGood false
  let s := s.wrF Reg.HLT_STATE Fld.HLT_STATE_LEDGER 1
  { s with power := { s.power with standby := true } }

/-- Steps 2 to 6 of R246, while Talon is up: the kind of marker, 1 for CLEAN and 2 for PULLED, and its reason, 0 for an orderly end, 1 for PRSNT_N,
2 for input power, 3 for a trip. The ledger can then no longer write to Talon (R426). -/
def State.talonDown (kind reason : Nat) (s : State) : State := if s.talonUp then (s.quiesceTalon kind reason).ledgerVolatile else s

/-- A trip level or a rail fault (R371): reported, Talon quiesces with a pulled marker, and the module enters STANDBY. -/
def State.trip (st counter : Nat) (s : State) : State :=
  let s := (s.ledgerAdd 0 counter).postFatal st
  let s := (s.setAlert 1).talonDown 2 3
  let s := s.enterStandby
  { s with mgmt := { s.mgmt with fatal := some st } }

/-! ### Loss of presence or of input power (R246, R469) -/

/-- Both rails are absent: what the always-on domain and the management cluster hold is lost (R19, R351, R434, R452). -/
def State.unpower (s : State) : State :=
  let s := s.enterStandby
  let s := (s.wrN Reg.HLT_ALERT 0).wrF Reg.HLT_STATE Fld.HLT_STATE_LEDGER 2
  let s := (s.wrF Reg.UPD_STATE Fld.UPD_STATE_MOTION 0).wrF Reg.UPD_STATE Fld.UPD_STATE_ON_BATTERY 0
  let s := s.wrF Reg.UPD_STATE Fld.UPD_STATE_OWNER_LOCK 1
  { s with
    now := 0
    mgmt := MgmtState.ofReset
    ledger := { s.ledger with unwritten := [], checkpointAt := 0, forecastAt := 0, driftAt := 0, holdupAt := 0 }
    side := { s.side with held := [], targetUp := false, dynamicAddr := none, endpointId := 0, powerGood := false, alertAsserted := false } }

/-- The sequence of R246 as one step: Talon quiesces with a pulled marker, and the module enters STANDBY. In STANDBY it writes nothing. -/
def State.pulled (reason : Nat) (s : State) : State := if s.power.standby || !s.mgmtRuns then s else (s.talonDown 2 reason).enterStandby

/-- What the rails that are left keep powered. -/
def State.afterLoss (s : State) : State := if s.mgmtRuns then s else s.unpower

/-- PRSNT_N reads high. -/
def State.losePresence (s : State) : State := let s := s.pulled 1; { s with side := { s.side with present := false } }

/-- The 48 V bus is lost, and its rail reads `reading`. -/
def State.loseInput (reading : Nat) (s : State) : State :=
  let s := s.pulled 2
  ({ s with side := { s.side with bus48 := false, volts48 := reading } }).afterLoss

end Sys2Proof.Machine
end

