-- ==== Sys2Proof/Machine/Reckoner.lean ====
section
/-! DEFINITION. Machine/Reckoner.lean: the reckoners (R266 to R272): box decode, suppression, the concealment rule, argmax maps, the
rotation among partitions, and how a job ends. -/
namespace Sys2Proof.Machine

/-! ### Descriptors (R266) -/

structure ReckHead where
  addr : Nat
  fmt : NumFmt
  gridH : Nat
  gridW : Nat
  stride : Nat
  anchorBase : Nat
  anchors : Nat
  deriving DecidableEq, Repr

structure ReckJob where
  op : Nat
  tag : Nat
  anchor : Bool
  obj : Bool
  classAware : Bool
  conceal : Nat
  dst : Nat
  mapAddr : Nat
  scoreMin : Nat
  iouMax : Nat
  maxOut : Nat
  classes : Nat
  concealPct : Nat
  deadlineUs : Nat
  frameW : Nat
  frameH : Nat
  ox : Int
  oy : Int
  sx : Nat
  sy : Nat
  anchorAddr : Nat
  heads : List ReckHead
  /-- MAP_PITCH of the map (R292) -/
  mapPitch : Nat
  deriving DecidableEq, Repr

def reckHead (w : Nat → Nat) (h : Nat) : ReckHead :=
  let a := w (8 + 2 * h)
  let b := w (9 + 2 * h)
  ⟨bitsAt a 0 48, (match bitsAt a 48 2 with | 0 => .bf16 | 1 => .e4m3 | _ => .fp32), bitsAt b 0 16, bitsAt b 16 16,
    bitsAt b 32 8, bitsAt b 40 8, bitsAt b 48 4⟩

def reckJob (ws : List Nat) : ReckJob :=
  let w := fun i => ws.getD i 0
  { op := bitsAt (w 0) 0 4, tag := bitsAt (w 0) 32 32, anchor := bitOf (w 0) 6, obj := bitOf (w 0) 7
    classAware := bitOf (w 0) 8, conceal := bitsAt (w 0) 9 2, dst := bitsAt (w 1) 0 48, mapAddr := bitsAt (w 2) 0 48
    scoreMin := bitsAt (w 3) 0 32, iouMax := bitsAt (w 3) 32 32, maxOut := bitsAt (w 4) 0 10, classes := bitsAt (w 4) 16 10
    concealPct := bitsAt (w 4) 32 7, deadlineUs := bitsAt (w 4) 48 16
    frameW := bitsAt (w 5) 0 16, frameH := bitsAt (w 5) 16 16, ox := toSigned 16 (bitsAt (w 5) 32 16)
    oy := toSigned 16 (bitsAt (w 5) 48 16), sx := bitsAt (w 6) 0 32, sy := bitsAt (w 6) 32 32, anchorAddr := bitsAt (w 7) 0 48
    heads := (List.range (bitsAt (w 0) 4 2 + 1)).map (reckHead w), mapPitch := ceilDiv (ceilDiv (bitsAt (w 5) 0 16) 16) 64 * 8 }

/-- Values of a cell and anchor (R266). -/
def ReckJob.values (j : ReckJob) : Nat := 4 + boolNat j.obj + j.classes
def ReckHead.bytes (h : ReckHead) (c : Nat) : Nat := h.gridH * h.gridW * h.anchors * c * NumFmt_bytes h.fmt
def ReckJob.argmaxBytes (j : ReckJob) : Nat := (j.heads.map (fun h => 2 * h.gridH * h.gridW)).sum
def ReckJob.maxBytes (j : ReckJob) : Nat := max j.argmaxBytes (if j.op = 1 then 32 * j.maxOut else 0)

/-- The pitch of the concealment map at an address (R269, R292): that of the ring slot that it lies in, of the job's frame or of an open decode context
of the partition. -/
def State.mapPitchAt (s : State) (p : Nat) (src : JobSource) (a : Nat) : Option Nat :=
  let frame : Option Frame := match src with | .pipe x y z => (s.frameAt x y z).filter (fun f => f.map == a) | .ring _ => none
  let slots := ((List.range 16).filter (fun m => s.pipeOwner m == some p)).flatMap (fun m =>
    (s.mediaPipe m).ctxs.filterMap (fun e =>
      match e.2.kind with
      | .dec d => if (List.range d.slots.length).any (fun i => d.mapAt i == a) then some d.mapPitch else none
      | .enc _ => none))
  match frame with
  | some f => some f.mapPitch
  | none => slots.head?

/-- A job with the pitch of its map; a map outside every such slot has the pitch of FRAME_W (log 101). -/
def State.jobOf (s : State) (p : Nat) (q : QueuedJob) : ReckJob :=
  let j := reckJob q.words
  { j with mapPitch := (s.mapPitchAt p q.source j.mapAddr).getD j.mapPitch }

/-- The fields and addresses of R266. -/
def State.reckOk (s : State) (p : Nat) (ws : List Nat) (j : ReckJob) : Bool :=
  let w := fun i => ws.getD i 0
  bitsAt (w 0) 11 21 == 0 && w 1 / 2 ^ 48 == 0 && w 2 / 2 ^ 48 == 0 && bitsAt (w 4) 10 6 == 0 && bitsAt (w 4) 26 6 == 0
    && bitsAt (w 4) 39 9 == 0 && w 7 / 2 ^ 48 == 0
    && decide (j.conceal ≤ 2) && j.dst % 64 == 0 && decide (1 ≤ j.maxOut ∧ j.maxOut ≤ 1000 ∧ 1 ≤ j.classes ∧ j.classes ≤ 1000)
    && decide (1 ≤ j.concealPct ∧ j.concealPct ≤ 100)
    && s.inTaskSpace p j.dst (64 + j.maxBytes)
    && (j.conceal == 0 || s.inTaskSpace p j.mapAddr (j.mapPitch * ceilDiv j.frameH 16))
    && j.heads.zipIdx.all (fun e =>
      let h := e.1
      let a := w (8 + 2 * e.2)
      let b := w (9 + 2 * e.2)
      a / 2 ^ 50 == 0 && bitsAt a 48 2 != 3 && b / 2 ^ 52 == 0
        && decide (1 ≤ h.gridH ∧ h.gridH ≤ 1024 ∧ 1 ≤ h.gridW ∧ h.gridW ≤ 1024 ∧ 1 ≤ h.stride ∧ 1 ≤ h.anchors ∧ h.anchors ≤ 9)
        && (j.anchor || h.anchors == 1)
        && (!j.anchor || s.inTaskSpace p (j.anchorAddr + 8 * h.anchorBase) (8 * h.anchors))
        && s.inTaskSpace p h.addr (h.bytes j.values))

/-! ### Decode (R267, R270) -/

/-- A candidate box. -/
structure Cand where
  index : Nat
  head : Nat
  cls : Nat
  score : Nat
  x0 : Nat
  y0 : Nat
  x1 : Nat
  y1 : Nat
  deriving DecidableEq, Repr

def groupsOf {α : Type} (n : Nat) : Nat → List α → List (List α)
  | 0, _ => []
  | k + 1, l => l.take n :: groupsOf n k (l.drop n)

/-- The index of the largest FP32 value; the lowest index wins a tie. -/
def largestOf (l : List Nat) : Nat :=
  (l.zipIdx.foldl (fun (best : Nat × Nat) e => if e.2 = 0 then (e.1, 0) else if f32Lt best.1 e.1 then (e.1, e.2) else best) (0, 0)).2

def sigmoidOf (b : Nat) : Nat := (sfuResult .sigmoid b).bits
def expOf (b : Nat) : Nat := (sfuResult .exp b).bits

/-- The score of a class logit (R267). -/
def ReckJob.score (j : ReckJob) (v : List Nat) (cls : Nat) : Nat :=
  let s := sigmoidOf (v.getD (4 + boolNat j.obj + cls) 0)
  if j.obj then f32Mul s (sigmoidOf (v.getD 4 0)) else s

/-- The box of a cell and anchor in detector pixels (R267). -/
def ReckJob.box (j : ReckJob) (h : ReckHead) (anchors : List Nat) (row col a : Nat) (v : List Nat) : Nat × Nat × Nat × Nat :=
  let st := f32OfNat h.stride
  let g := fun i => v.getD i 0
  let cell := fun n => f32Add (f32OfNat n) f32Half
  if j.anchor then
    let cx := f32Mul (f32Add (cell col) (g 0)) st
    let cy := f32Mul (f32Add (cell row) (g 1)) st
    let lim := fun b => f32Min (f32Max b 0xC1000000) 0x41000000
    let hw := f32Mul (f32Mul (anchors.getD (2 * a) 0) (expOf (lim (g 2)))) f32Half
    let hh := f32Mul (f32Mul (anchors.getD (2 * a + 1) 0) (expOf (lim (g 3)))) f32Half
    (f32Sub cx hw, f32Sub cy hh, f32Add cx hw, f32Add cy hh)
  else
    let cx := f32Mul (cell col) st
    let cy := f32Mul (cell row) st
    (f32Sub cx (f32Mul (g 0) st), f32Sub cy (f32Mul (g 1) st), f32Add cx (f32Mul (g 2) st), f32Add cy (f32Mul (g 3) st))

def boxArea (c : Cand) : Nat := f32Mul (f32Sub c.x1 c.x0) (f32Sub c.y1 c.y0)

/-- A box mapped to the frame and clipped (R267). -/
def ReckJob.place (j : ReckJob) (b : Nat × Nat × Nat × Nat) : Nat × Nat × Nat × Nat :=
  let mx := fun v => f32Min (f32Max (f32Mul (f32Sub v (f32OfInt j.ox)) j.sx) 0) (f32OfNat j.frameW)
  let my := fun v => f32Min (f32Max (f32Mul (f32Sub v (f32OfInt j.oy)) j.sy) 0) (f32OfNat j.frameH)
  (mx b.1, my b.2.1, mx b.2.2.1, my b.2.2.2)

/-- The candidates of one head in order: `first` is the index of its first cell and anchor. -/
def ReckJob.candidates (j : ReckJob) (k : Nat) (h : ReckHead) (anchors : List Nat) (first : Nat) (cells : List (List Nat)) : List Cand :=
  cells.zipIdx.filterMap (fun e =>
    let v := e.1
    let row := e.2 / h.anchors / h.gridW
    let col := e.2 / h.anchors % h.gridW
    let cls := largestOf (v.drop (4 + boolNat j.obj))
    let b := j.place (j.box h anchors row col (e.2 % h.anchors) v)
    let c : Cand := ⟨first + e.2, k, cls, j.score v cls, b.1, b.2.1, b.2.2.1, b.2.2.2⟩
    if f32Le j.scoreMin c.score && f32Lt c.x0 c.x1 && f32Lt c.y0 c.y1 && f32Lt 0 (boxArea c) then some c else none)

/-- The argmax map of one head (R270). -/
def ReckJob.argmax (j : ReckJob) (h : ReckHead) (cells : List (List Nat)) : List Byte :=
  (groupsOf h.anchors (h.gridH * h.gridW) cells).flatMap (fun as =>
    let scores := as.flatMap (fun v => (List.range j.classes).map (j.score v))
    let i := largestOf scores
    leBytes 2 (if f32Lt (scores.getD i 0) j.scoreMin then 0xFFFF else i % j.classes))

/-! ### Suppression and concealment (R268, R269) -/

def candBefore (a b : Cand) : Bool := f32Lt b.score a.score || (!f32Lt a.score b.score && decide (a.index < b.index))
def candInsert (x : Cand) : List Cand → List Cand
  | [] => [x]
  | y :: t => if candBefore x y then x :: y :: t else y :: candInsert x t

/-- Intersection ÷ (area A + area B - intersection). -/
def iou (a b : Cand) : Nat :=
  let w := f32Sub (f32Min a.x1 b.x1) (f32Max a.x0 b.x0)
  let h := f32Sub (f32Min a.y1 b.y1) (f32Max a.y0 b.y0)
  let i := if f32Lt 0 w && f32Lt 0 h then f32Mul w h else 0
  f32Div i (f32Sub (f32Add (boxArea a) (boxArea b)) i)

/-- Take candidates in order; keep one unless it overlaps a kept box too much; stop at MAX_OUT. -/
def suppress (j : ReckJob) (l : List Cand) : List Cand :=
  l.foldl (fun kept c =>
    if j.maxOut ≤ kept.length then kept
    else if kept.any (fun k => (!j.classAware || k.cls == c.cls) && f32Lt j.iouMax (iou k c)) then kept
    else kept ++ [c]) []

/-- Blocks from floor(lo ÷ 16) to ceil(hi ÷ 16) - 1. -/
def blockSpan (lo hi : Nat) : List Nat :=
  let a := wholePart (f32 lo) / 16
  let h := f32 hi
  let w := wholePart h
  let up := if numLt (.fin false w 0) h then w + 1 else w
  (List.range (ceilDiv up 16 - a)).map (· + a)

/-- The fraction of R269. -/
def ReckJob.fraction (j : ReckJob) (map : List Byte) (c : Cand) : Nat :=
  let blocks := (blockSpan c.y0 c.y1).flatMap (fun y => (blockSpan c.x0 c.x1).map (fun x => (x, y)))
  let hit := (blocks.filter (fun b => bitOf (map.getD (b.2 * j.mapPitch + b.1 / 8) 0).toNat (b.1 % 8))).length
  let n := blocks.length
  if n = 0 then 0
  else
    let r := 255 * hit % n
    255 * hit / n + (if n < 2 * r ∨ (n = 2 * r ∧ Config.roundsUp (255 * hit) n) then 1 else 0)

/-- A detection record (R271). -/
def recordOf (c : Cand) (frac : Nat) (flag : Bool) : List Byte :=
  leBytes 4 c.x0 ++ leBytes 4 c.y0 ++ leBytes 4 c.x1 ++ leBytes 4 c.y1 ++ leBytes 4 c.score
    ++ leBytes 4 (c.cls % 2 ^ 16 + boolNat flag * 2 ^ 16 + frac % 256 * 2 ^ 24)
    ++ leBytes 4 (c.index % 2 ^ 24 + c.head % 256 * 2 ^ 24) ++ leBytes 4 0

/-! ### A whole job -/

def ceilLog2 (n : Nat) : Nat := if 2 ^ Nat.log2 n = n then Nat.log2 n else Nat.log2 n + 1

/-- The predicted remainder of R272, in ns. -/
def predictedRest (n maxOut : Nat) : Nat := ceilDiv (n * ceilLog2 (max n 2)) 16 + ceilDiv (n * min n maxOut) 64 + 2000

/-- Read the heads in order: their cells and anchors. -/
def State.readHeads (j : ReckJob) : List ReckHead → State → Except Nat (List (ReckHead × List Nat × List (List Nat))) × State
  | [], s => (.ok [], s)
  | h :: t, s =>
    match s.hbmRead 3 h.addr (h.bytes j.values) with
    | (some st, _, s) => (.error st, s)
    | (none, b, s) =>
      let vals := (elements h.fmt b).map (fun x => f32Of (decodeNum h.fmt x))
      let cells := groupsOf j.values (h.gridH * h.gridW * h.anchors) vals
      let r := if j.anchor then s.hbmRead 3 (j.anchorAddr + 8 * h.anchorBase) (8 * h.anchors) else (none, [], s)
      match r with
      | (some st, _, s) => (.error st, s)
      | (none, ab, s) =>
        match State.readHeads j t s with
        | (.error st, s) => (.error st, s)
        | (.ok l, s) => (.ok ((h, elements .fp32 ab, cells) :: l), s)

/-- All candidates, in candidate order. -/
def allCandidates (j : ReckJob) : Nat → Nat → List (ReckHead × List Nat × List (List Nat)) → List Cand
  | _, _, [] => []
  | k, first, (h, an, cells) :: t => j.candidates k h an first cells ++ allCandidates j (k + 1) (first + cells.length) t

/-- What a DETECT or ARGMAX job will write (R267 to R271). -/
def State.runReck (p : Nat) (q : QueuedJob) (s : State) : ReckonRun × State :=
  let j := s.jobOf p q
  let run : ReckonRun := ⟨p, q.source, q.words, 0x7000, 0, 0, 0, 0, [], s.now⟩
  if !s.reckOk p q.words j then ({ run with status := St.VIS_BAD_JOB }, s)
  else
    match State.readHeads j j.heads s with
    | (.error st, s) => ({ run with status := st }, s)
    | (.ok hs, s) =>
      let maps := hs.flatMap (fun h => j.argmax h.1 h.2.2)
      if j.op = 2 then ({ run with output := maps }, s)
      else
        let cands := allCandidates j 0 0 hs
        let n := cands.length
        let run := { run with candidates := min n (2 ^ 24 - 1) }
        let decode := ceilDiv ((j.heads.map (fun h => h.bytes j.values)).sum) 64
        let overflow := decide (16384 < n)
        let missed := j.deadlineUs != 0 && decide (j.deadlineUs * 1000 < decode + predictedRest (min n 16384) j.maxOut)
        if overflow || missed then ({ run with flags := 1 + 2 * boolNat overflow + 4 * boolNat missed, output := maps }, s)
        else
          let kept := suppress j (cands.foldl (fun l c => candInsert c l) [])
          let r := if j.conceal = 0 then (none, [], s) else s.hbmRead 3 j.mapAddr (j.mapPitch * ceilDiv j.frameH 16)
          match r with
          | (some st, _, s) => ({ run with status := st }, s)
          | (none, map, s) =>
            let fr := kept.map (fun c => (c, if j.conceal = 0 then 0 else j.fraction map c))
            let left := fr.filter (fun e => !(j.conceal == 2 && decide (j.concealPct * 255 ≤ e.2 * 100)))
            ({ run with
                kept := kept.length, dropped := kept.length - left.length
                output := left.flatMap (fun e => recordOf e.1 e.2 (decide (0 < e.2))) }, s)

/-! ### Rotation (R272) -/

def Reckoner.idle : Reckoner := ⟨none, 0⟩
def State.reckAt (s : State) (r : Nat) : Reckoner := mapGetD .idle r s.vision.reckoners
def State.putReck (r : Nat) (x : Reckoner) (s : State) : State :=
  { s with vision := { s.vision with reckoners := mapSet r x s.vision.reckoners } }

/-- The oldest waiting job of a partition: those of its pipelines first (R276). -/
def State.nextReckOf (p : Nat) (s : State) : Option QueuedJob × State :=
  match s.vision.reckonQueue.find? (fun e => e.1 == p) with
  | some e => (some e.2, s)
  | none =>
    let cfg := Reg.RKQ_CFG p
    let head := s.rdN (Reg.RKQ_HEAD p)
    if !s.partRuns p || !s.rdB cfg Fld.RKQ_CFG_ENABLE || head == s.rdN (Reg.RKQ_TAIL p) || !s.hostReadable (s.rdF cfg Fld.RKQ_CFG_SPACE) (p + 1) then
      (none, s)
    else
      let a := ringBase (s.rd64 (Reg.RKQ_BASE_LO p)) 128 (s.rdF cfg Fld.RKQ_CFG_SIZE_LOG2) + 128 * head
      match s.ringRead (s.rdF cfg Fld.RKQ_CFG_SPACE) (p + 1) a 128 with
      | (none, s) => (none, s.stopRing (.rkq p))
      | (some b, s) => (some ⟨.ring head, wordsOf8 b⟩, s)

/-- The next partition in rotation that has a job waiting. -/
def State.nextReck : List Nat → State → Option (Nat × QueuedJob) × State
  | [], s => (none, s)
  | p :: t, s =>
    if !s.partWorks p then State.nextReck t s
    else
      match s.nextReckOf p with
      | (some j, s) => (some (p, j), s)
      | (none, s) => State.nextReck t s

def State.rotation (s : State) : List Nat := (List.range 4).map (fun i => (s.vision.served + 1 + i) % 4)

def State.takeReck (p : Nat) (j : QueuedJob) (s : State) : State :=
  match j.source with
  | .ring i => s.wrN (Reg.RKQ_HEAD p) ((i + 1) % 2 ^ s.rdF (Reg.RKQ_CFG p) Fld.RKQ_CFG_SIZE_LOG2)
  | .pipe _ _ _ => { s with vision := { s.vision with reckonQueue := s.vision.reckonQueue.eraseP (fun e => e.1 == p) } }

/-- A free reckoner takes the next job where its OP is the one asked for. -/
def State.startReckJob (r op : Nat) (s : State) : State :=
  if !s.reckonerOk r || (s.reckAt r).running.isSome then s
  else
    match State.nextReck s.rotation s with
    | (none, s) => s
    | (some (p, j), s) =>
      if bitsAt (j.words.getD 0 0) 0 4 ≠ op then s
      else if !s.engineUp (.reckoner r) then s.requestEngine (.reckoner r)
      else
        let s := s.takeReck p j
        let s := { s with vision := { s.vision with served := p } }
        let x := s.runReck p j
        x.2.putReck r { x.2.reckAt r with running := some x.1 }

/-! ### How a job ends (R271) -/

/-- Result words 0 to 4 and padding; DONE is set last. -/
def resultHeader (x : ReckonRun) (st flags now : Nat) (done : Bool) : List Byte :=
  let w0 := x.words.getD 0 0
  leBytes 8 (st % 2 ^ 16 + flags % 256 * 2 ^ 16 + w0 % 16 * 2 ^ 24 + boolNat done * 2 ^ 28 + bitsAt w0 32 32 * 2 ^ 32)
    ++ leBytes 8 (x.candidates % 2 ^ 24 + x.kept % 2 ^ 10 * 2 ^ 32 + x.dropped % 2 ^ 10 * 2 ^ 48)
    ++ leBytes 8 x.output.length ++ leBytes 8 x.fetchTs ++ leBytes 8 now ++ leBytes 24 0

/-- End a job of a reckoner: its output, its header with DONE last, its counters, its message. -/
def State.endReck (r : Nat) (x : ReckonRun) (s : State) : State :=
  let j := reckJob x.words
  let late := j.deadlineUs != 0 && decide (x.fetchTs + j.deadlineUs * 1000 < s.now)
  let flags := x.flags + (if late then 8 else 0)
  let fallback := bitOf x.flags 0
  let st := if x.status ≠ 0x7000 then x.status
    else if fallback then St.VIS_RECKONER_FALLBACK else if late then St.VIS_RESULT_LATE else 0x7000
  let s := if stBlock st = 7 then s.post st else s
  let out := if x.status = 0x7000 then x.output else []
  let x := { x with output := out }
  let write := fun (a : Nat) (b : List Byte) (s : State) =>
    if b.isEmpty || !s.inTaskSpace x.part a b.length then s else (s.blockWrite a b).2
  let s := write (j.dst + 64) out s
  let s := write j.dst (resultHeader x st flags s.now false) s
  let s := write j.dst (resultHeader x st flags s.now true) s
  let s := s.count (Reg.RK_JOBS r)
  let s := if fallback then s.count (Reg.RK_FALLBACKS r) else s
  let s := if late then s.count (Reg.RK_LATE r) else s
  let s := s.wrN (Reg.RK_CAND_MAX r) (max (s.rdN (Reg.RK_CAND_MAX r)) x.candidates)
  match x.source with
  | .ring _ =>
    let cfg := Reg.RKQ_CFG x.part
    if s.rdB cfg Fld.RKQ_CFG_ENABLE && s.rdB cfg Fld.RKQ_CFG_IRQ_EN then s.msix (x.part + 1) (s.rdF cfg Fld.RKQ_CFG_VECTOR) else s
  | .pipe a b c => s.jobDone a b c (if 3 ≤ stSeverity st ∨ stSeverity st = 2 then some st else none)

/-- RECKONER_JOB_COMPLETE: the running job ends, in a partition that works (R15); a job whose OP is invalid ends BAD_JOB as soon as it is taken. -/
def State.reckComplete (r : Nat) (s : State) : State :=
  if !s.reckonerOk r || !s.ready then s
  else
    let e := s.reckAt r
    match e.running with
    | some x => if s.partWorks x.part then (s.putReck r ⟨none, s.now⟩).endReck r x else s
    | none =>
      match State.nextReck s.rotation s with
      | (none, s) => s
      | (some (p, j), s) =>
        let op := bitsAt (j.words.getD 0 0) 0 4
        if op = 1 ∨ op = 2 then s
        else
          let s := s.takeReck p j
          let s := { s with vision := { s.vision with served := p } }
          s.endReck r ⟨p, j.source, j.words, St.VIS_BAD_JOB, 0, 0, 0, 0, [], s.now⟩

/-- Every waiting job ends with a status: no reckoner is left (R279). -/
def State.endReckJobs (r st : Nat) : Nat → State → State
  | 0, s => s
  | fuel + 1, s =>
    match State.nextReck s.rotation s with
    | (none, s) => s
    | (some (p, j), s) => ((s.takeReck p j).endReck r ⟨p, j.source, j.words, st, 0, 0, 0, 0, [], s.now⟩).endReckJobs r st fuel

/-- RECKONER_FAIL (R279): its job ends; where no other reckoner works, so do all that wait. -/
def State.reckFail (r : Nat) (s : State) : State :=
  if !s.reckonerOk r then s
  else
    let s := (s.wrF Reg.VIS_RECKONER (if r = 0 then Fld.VIS_RECKONER_RK0_OK else Fld.VIS_RECKONER_RK1_OK) 0).putBit Reg.DECK_DIES (16 + r) false
    let s := s.post St.VIS_RECKONER_FAILED
    let s := { s with power := { s.power with enginesUp := s.power.enginesUp.filter (fun x => x != Domain.reckoner r) } }
    let e := s.reckAt r
    let s := s.putReck r ⟨none, s.now⟩
    let s := match e.running with
      | some x => s.endReck r { x with status := St.VIS_RECKONER_FAILED, flags := 0, output := [] }
      | none => s
    if s.reckonerOk 0 || s.reckonerOk 1 then s
    else s.endReckJobs r St.VIS_RECKONER_FAILED (4096 + s.vision.reckonQueue.length)

/-! ### Commands -/

def execReckonerDetect (r : Nat) (upsets : List Upset) (s : State) : Out := .next ((s.upset upsets).startReckJob r 1)
def execReckonerArgmax (r : Nat) (upsets : List Upset) (s : State) : Out := .next ((s.upset upsets).startReckJob r 2)
def execReckonerJobComplete (r : Nat) (upsets : List Upset) (s : State) : Out := .next ((s.upset upsets).reckComplete r)
def execReckonerFail (r : Nat) (s : State) : Out := .next (s.reckFail r)

end Sys2Proof.Machine
end

