-- ==== Sys2Proof/Machine/SidebandOps.lean ====
section
/-! DEFINITION. Machine/SidebandOps.lean: how Hjeluno's own sideband messages are taken up and answered (R453, R454, R476, R477). -/
namespace Sys2Proof.Machine

/-- A message goes out over MCTP: a target that holds a dynamic address raises an in-band interrupt for the pending packets, with the mandatory data
byte 0xAE of DSP0233 (R474; PRESUMED), and the message is then read. -/
def State.emitPacket (x : Sent) (s : State) : State :=
  { s with pcie := { s.pcie with
      sent := x :: (match s.side.dynamicAddr with
        | some a => .inBandInterrupt a 0xAE :: s.pcie.sent
        | none => s.pcie.sent) } }

/-- The bytes of an answer: type, Vendor ID, FLAGS as a response with the request's INSTANCE, CODE, 0, the status word, and the body (R476). -/
def replyBytes (vendor : Nat) (m : SidebandMsg) (st : Nat) (body : List Byte) : List Byte :=
  [0x7E, BitVec.ofNat 8 (vendor / 256), BitVec.ofNat 8 vendor, BitVec.ofNat 8 (0x80 + m.instanceId % 32), BitVec.ofNat 8 m.code, 0]
    ++ leBytes 2 st ++ body

/-- A message is answered (R476). -/
def State.answer (m : SidebandMsg) (st : Nat) (body : List Byte) (s : State) : State :=
  s.emitPacket (.reply (replyBytes s.fuses.vendorId m st body))

/-- A status word answers a message; a refusal of its block is also produced there. -/
def State.refuse (m : SidebandMsg) (st : Nat) (s : State) : State := (s.post st).answer m st []

/-- Messages that are served during an activation: those of R453, and MODULE_RESET, which is accepted in every state (R402, R409). -/
def servedActivating : List Nat := [0x10, 0x14, 0x32, 0x33, 0x20]

/-- Bad messages at the head of the queue are answered in their turn (R477). -/
def State.answerBad (s : State) : State :=
  let first := s.side.held.takeWhile (fun (m : SidebandMsg) => m.bad)
  let s := { s with side := { s.side with held := s.side.held.dropWhile (fun (m : SidebandMsg) => m.bad) } }
  s.overList first (fun m t => t.refuse m St.MGT_BAD_SIDEBAND_MESSAGE)

/-- Serve the message at the head of the queue where its CODE is the one asked for (R477). During an activation others are answered
UPDATE_BUSY (R453). In recovery each message's own rule answers it (R409, R436, R454, R455, R459). Bad messages that come next are then
answered. -/
def State.serve (code : Nat) (f : SidebandMsg → State → State) (s : State) : State :=
  match s.side.held with
  | [] => s
  | m :: rest =>
    if m.code ≠ code ∨ !s.mgmtRuns then s
    else
      let s := { s with side := { s.side with held := rest } }
      let t := if s.update.activating.isSome && !servedActivating.contains code then s.refuse m St.UPD_UPDATE_BUSY else f m s
      if rest.head?.any (fun (x : SidebandMsg) => x.bad) then t.answerBad else t

end Sys2Proof.Machine
end

