-- ==== Sys2Proof/Machine/Power.lean ====
section
/-! DEFINITION. Machine/Power.lean: the power manager's events (R350 to R371) and the sideband power messages that need no bring-up
(R373). -/
namespace Sys2Proof.Machine

/-! ### Domains (R99, R350, R353) -/

/-- A domain is up: a store or a pool then reads zeros (R45). -/
def State.domainUp (d : Domain) (s : State) : State :=
  let s := { s with power := { s.power with waking := s.power.waking.filter (fun x => x != d) } }
  match d with
  | .core n =>
    let s := s.zeroStore n
    { s with power := { s.power with
      coresUp := setInsert n s.power.coresUp, idleSince := mapSet n s.now s.power.idleSince } }
  | .cluster c =>
    let s := s.zeroPool c
    { s with power := { s.power with
      clustersUp := setInsert c s.power.clustersUp, idleSince := mapSet (2048 + c) s.now s.power.idleSince } }
  | .edge e =>
    let s := s.putEdge e { s.edgeAt e with idleSince := s.now }
    { s with power := { s.power with enginesUp := s.power.enginesUp ++ [d] } }
  | .reckoner r =>
    let s := s.putReck r { s.reckAt r with idleSince := s.now }
    { s with power := { s.power with enginesUp := s.power.enginesUp ++ [d] } }
  | .pipe m =>
    let s := (s.updMedia m (fun x => { x with idleSince := s.now })).wrF (Reg.PIPE_INFO m) Fld.PIPE_INFO_POWERED 1
    { s with power := { s.power with enginesUp := s.power.enginesUp ++ [d] } }
  | .talonChannel _ => { s with power := { s.power with enginesUp := s.power.enginesUp ++ [d] } }

/-- DOMAIN_POWER_UP_COMPLETE (R99, R350). -/
def execDomainPowerUpComplete (d : Domain) (s : State) : Out :=
  .next (if s.power.waking.contains d then s.domainUp d else s)

/-- Wake times of R350 in ns. -/
def wakeTime : Domain → Nat
  | .core _ => 2000
  | .cluster _ | .edge _ | .reckoner _ => 10000
  | .pipe _ => 50000
  | .talonChannel _ => 100000

/-- Ten times its wake time has passed since a domain's power-up was requested (R350). -/
def State.wakeOver (s : State) (d : Domain) : Bool :=
  match s.power.wakeAt.find? (fun e => e.1 == d) with
  | some e => decide (e.2 + 10 * wakeTime d ≤ s.now)
  | none => true

/-- POWER_GOOD_TIMEOUT (R350): reported, and the resource counts as failed under its chapter. A core, or any core of a cluster, fails the
task that waits for it with CORE_FAULT (DEDUCED from R94). -/
def execPowerGoodTimeout (d : Domain) (s : State) : Out :=
  if !s.power.waking.contains d || !s.wakeOver d then .next s
  else
    let s := { s with power := { s.power with waking := s.power.waking.filter (fun x => x != d) } }
    let s := s.post St.PWR_POWER_UP_FAILED
    match d with
    | .core n => .next (s.failOnCore n St.DEAL_CORE_FAULT)
    | .cluster c => .next (s.overList ((List.range 16).map (· + 16 * c)) (fun n t => t.failOnCore n St.DEAL_CORE_FAULT))
    | .pipe m => .next (s.pipeFail m)
    | .edge e => .next (s.edgeFail e)
    | .reckoner r => .next (s.reckFail r)
    | .talonChannel t => .next (if s.talonUp then s.failChannel t else s)

/-- A core is reserved by a task that waits (R95). -/
def State.coreReserved (s : State) (n : Nat) : Bool :=
  s.dealer.graphs.any (fun g => g.tasks.any (fun t => t.reserved.contains n))

/-- A core is wanted: a task waits for it or has started on it, or it wakes (R99). -/
def State.coreWanted (s : State) (n : Nat) : Bool :=
  s.coreReserved n || (s.coreAt n).task.isSome || s.power.waking.contains (.core n)

/-- CORE_IDLE_TIMEOUT (R353). -/
def execCoreIdleTimeout (n : Nat) (s : State) : Out :=
  if !s.corePowered n || !s.sleepMode || (s.coreAt n).task.isSome || s.coreReserved n then .next s
  else
    match mapGet n s.power.idleSince with
    | none => .next { s with power := { s.power with idleSince := mapSet n s.now s.power.idleSince } }
    | some t =>
      if s.now < t + s.rdF Reg.PWR_IDLE Fld.PWR_IDLE_CORE_IDLE_US * 1000 then .next s
      else
        let s := s.coreDown n
        let c := coreCluster n
        let s := if (List.range 16).any (fun k => s.corePowered (16 * c + k)) then s
          else { s with power := { s.power with idleSince := mapSet (2048 + c) s.now s.power.idleSince } }
        .next s

/-- CLUSTER_IDLE_TIMEOUT (R353): once its 16 cores are down and none is wanted. -/
def execClusterIdleTimeout (c : Nat) (s : State) : Out :=
  if !s.clusterPowered c || !s.sleepMode || (List.range 16).any (fun k => s.corePowered (16 * c + k) || s.coreWanted (16 * c + k)) then
    .next s
  else
    match mapGet (2048 + c) s.power.idleSince with
    | none => .next { s with power := { s.power with idleSince := mapSet (2048 + c) s.now s.power.idleSince } }
    | some t =>
      if s.now < t + s.rdF Reg.PWR_IDLE Fld.PWR_IDLE_CLUSTER_IDLE_US * 1000 then .next s else .next (s.clusterDown c)

/-- HBM_IDLE_TIMEOUT (R353): stack 2d + s enters self-refresh, in both modes. -/
def execHbmIdleTimeout (i : Nat) (s : State) : Out :=
  let t := mapGetD 0 i s.memory.lastAccess
  if !s.powerOn || !s.fittedStacks.contains i || s.now < t + s.rdF Reg.PWR_IDLE2 Fld.PWR_IDLE2_HBM_IDLE_US * 1000 then .next s
  else .next ({ s with memory := { s.memory with selfRefresh := setInsert i s.memory.selfRefresh } })

/-- ENGINE_IDLE_TIMEOUT (R350): an edge engine or a reckoner after 100 µs. -/
def execEngineIdleTimeout (d : Domain) (s : State) : Out :=
  let idle := match d with
    | .edge e => (s.edgeAt e).running.isNone && (s.edgeAt e).queue.isEmpty && decide ((s.edgeAt e).idleSince + 100000 ≤ s.now)
    | .reckoner r => (s.reckAt r).running.isNone && decide ((s.reckAt r).idleSince + 100000 ≤ s.now)
    | _ => false
  .next (if idle then { s with power := { s.power with enginesUp := s.power.enginesUp.filter (fun x => x != d) } } else s)

/-- TALON_CHANNEL_IDLE_TIMEOUT (R350): no operation queued for 1 ms. -/
def execTalonChannelIdleTimeout (t : Nat) (s : State) : Out :=
  let quiet := s.talon.command.isNone && s.talon.transfers.isEmpty && s.talon.loads.isEmpty
    && decide (mapGetD 0 8192 s.power.idleSince + 1000000 ≤ s.now)
  .next (if quiet then
      { s with power := { s.power with enginesUp := s.power.enginesUp.filter (fun x => x != Domain.talonChannel t) } }
    else s)

/-- DORMANT_ENTRY (R354). -/
def execDormantEntry (s : State) : Out :=
  match s.power.restingSince with
  | none => .next s
  | some t =>
    if s.resting && s.rdF Reg.PWR_STATE Fld.PWR_STATE_STATE == 2
        && decide (t + s.rdF Reg.PWR_IDLE2 Fld.PWR_IDLE2_DORMANT_IDLE_MS * 1000000 ≤ s.now) then
      .next ((s.wrF Reg.PWR_STATE Fld.PWR_STATE_STATE 3).count (Reg.PWR_COUNTER 7))
    else .next s

/-- RC_TRIM (R351): once a second. -/
def execRcTrim (s : State) : Out :=
  .next (if s.mgmtRuns then { s with power := { s.power with trimmedAt := s.now / 1000000000 } } else s)

/-! ### Clocks (R361, R363, R370) -/

/-- Set every die's base clock to the smallest of its three limits; true where some die's falls. A step withdraws the die's boost
(R363, R364). -/
def State.slewClocks (s : State) : Bool × State :=
  (List.range 4).foldl (fun (acc : Bool × State) d =>
    let s := acc.2
    let off := Reg.PWR_DIE_CLK d
    let old := s.rdF off Fld.PWR_DIE_CLK_BASE_MHZ
    let new := min s.fuses.sustainedMhz (min (s.rdF Reg.PWR_STATE Fld.PWR_STATE_CAP_MHZ) (s.rdF off Fld.PWR_DIE_CLK_THERMAL_MHZ))
    if new = old then acc
    else (acc.1 || decide (new < old), (s.wrF off Fld.PWR_DIE_CLK_BASE_MHZ new).unboost (fun c => c / 24 == d))) (false, s)

/-- A controller step that lowered some base clock counts 1 (R363). -/
def State.stepClocks (s : State) : State :=
  let r := s.slewClocks
  if r.1 then r.2.count (Reg.PWR_COUNTER 4) else r.2

def State.floorMhz (s : State) : Nat := min (s.rdF Reg.PWR_CFG Fld.PWR_CFG_FLOOR_MHZ) s.fuses.sustainedMhz

/-- The power, in hundredths of a watt, that the cap controller compares with: P_clamp while CLAMP_N is asserted (R361, R365). -/
def State.controllerCap (s : State) : Nat := if s.clampInForce && s.side.clampAsserted then s.clampLevel else s.effCap * 100

/-- CAP_CONTROLLER_STEP (R361, R365): the input averaged over the last 50 µs is compared with the cap, or with
P_clamp while CLAMP_N is asserted. -/
def execCapControllerStep (s : State) : Out :=
  let l := s.power.input.take 5
  let mhz := s.rdF Reg.PWR_STATE Fld.PWR_STATE_CAP_MHZ
  if !s.power.started || s.now < s.power.capChangeAt + 50000 || l.isEmpty || decide (l.sum * 100 ≤ l.length * s.controllerCap) then .next s
  else .next (s.wrF Reg.PWR_STATE Fld.PWR_STATE_CAP_MHZ (min mhz (max s.floorMhz (mhz - 100)))).stepClocks

/-- THROTTLE in PWR_STATE (R370). -/
def State.showThrottle (s : State) : State :=
  s.wrF Reg.PWR_STATE Fld.PWR_STATE_THROTTLE
    (boolNat (!s.power.throttledDies.isEmpty || !s.power.throttledXdies.isEmpty || s.power.stageReduced))

/-- The onset of a throttle (R370). -/
def State.throttleOnset (s : State) : State := ((s.count (Reg.PWR_COUNTER 3)).post St.PWR_THERMAL_THROTTLE).showThrottle

/-- Sensors of the stacks of a C-die. -/
def State.stackSensors (s : State) (d : Nat) : List Nat := ((List.range 2).map (· + 2 * d)).filter s.fuses.stackFitted |>.map (· + 40)

def State.throttleAt (s : State) : Nat := s.rdF Reg.PWR_CFG2 Fld.PWR_CFG2_T_THROTTLE

/-- Some sensor of the die, or of its stacks, is at or above its throttle level (R370). -/
def State.dieHot (s : State) (d : Nat) : Bool :=
  (dieSensors d).any (fun n => decide ((16 * s.throttleAt : Int) ≤ s.sensor n))
    || (s.stackSensors d).any (fun n => decide ((16 * 95 : Int) ≤ s.sensor n))

/-- Every sensor of the die and of its stacks reads at least 5 °C below its throttle level (R363). -/
def State.dieCool (s : State) (d : Nat) : Bool :=
  (dieSensors d).all (fun n => decide (s.sensor n ≤ (16 * s.throttleAt : Int) - 80))
    && (s.stackSensors d).all (fun n => decide (s.sensor n ≤ (16 * 90 : Int)))

/-- THERMAL_THROTTLE_STEP (R370): every 50 µs while the die is hot, down to FLOOR_MHZ. -/
def execThermalThrottleStep (d : Nat) (s : State) : Out :=
  let off := Reg.PWR_DIE_CLK d
  let mhz := s.rdF off Fld.PWR_DIE_CLK_THERMAL_MHZ
  if 4 ≤ d ∨ !s.power.started ∨ !s.dieHot d ∨ mhz ≤ s.floorMhz then .next s
  else
    let s := s.wrF off Fld.PWR_DIE_CLK_THERMAL_MHZ (max s.floorMhz (mhz - 100))
    let onset := !s.power.throttledDies.contains d
    let s := { s with power := { s.power with
      throttledDies := setInsert d s.power.throttledDies, coolSince := mapDel d s.power.coolSince } }
    let s := s.stepClocks
    .next (if onset then (s.ledgerAdd (0x1000 + d) 8).throttleOnset else s)

/-- THERMAL_RISE_STEP (R363): after each 250 µs in which the die stays cool enough. -/
def execThermalRiseStep (d : Nat) (s : State) : Out :=
  let off := Reg.PWR_DIE_CLK d
  let mhz := s.rdF off Fld.PWR_DIE_CLK_THERMAL_MHZ
  match mapGet d s.power.coolSince with
  | none => .next s
  | some t =>
    if 4 ≤ d ∨ s.now < t + 250000 ∨ s.fuses.sustainedMhz ≤ mhz then .next s
    else
      let new := min s.fuses.sustainedMhz (mhz + 100)
      let s := s.wrF off Fld.PWR_DIE_CLK_THERMAL_MHZ new
      let s := { s with power := { s.power with
        coolSince := mapSet d s.now s.power.coolSince
        throttledDies := if new = s.fuses.sustainedMhz then setErase d s.power.throttledDies else s.power.throttledDies } }
      .next s.stepClocks.showThrottle

/-! ### Sensors (R369, R370, R371) -/

def State.sensorFitted (s : State) (n : Nat) : Bool :=
  decide (n < 53) && !(decide (36 ≤ n ∧ n < 40) && !s.fuses.x2) && !(decide (40 ≤ n ∧ n < 48) && !s.fuses.stackFitted (n - 40))

/-- Trip level of a sensor in °C, where it has one. -/
def tripLevel (n : Nat) : Option Nat :=
  if n < 40 then some 110 else if n < 48 then some 105 else if n = 48 then some 125 else none

/-- Part and counter of the ledger that keep a sensor's maximum (R427). -/
def maxCounter (n : Nat) : Option (Nat × Nat) :=
  if n < 32 then some (0x1000 + n / 8, 7)
  else if n < 40 then some (0xB000 + (n - 32) / 4, 1)
  else if n < 48 then some (0x4000 + (n - 40), 4)
  else if n = 48 then some (0x9000, 0)
  else if n = 49 then some (0x8000, 2)
  else if n = 52 then some (0, 5)
  else none

/-- A new reading is stored (R369). -/
def State.storeSensor (n : Nat) (v : Int) (s : State) : State :=
  let off := Reg.PWR_SENSOR n
  let top := toSigned 16 (s.rdF off Fld.PWR_SENSOR_MAX)
  let s := (s.wrF off Fld.PWR_SENSOR_VALUE (ofSigned 16 v)).wrF off Fld.PWR_SENSOR_MAX (ofSigned 16 (max top v))
  match maxCounter n with
  | some (p, i) => s.ledgerMax p i v.toNat
  | none =>
    -- the NAND area and the connector, whose readings the ledger records (R370) and R427 gives no counter
    { s with ledger := { s.ledger with boardMax := mapSet n (max v.toNat (mapGetD 0 n s.ledger.boardMax)) s.ledger.boardMax } }

/-- A die's cool time starts or stops (R363). -/
def State.trackCool (d : Nat) (s : State) : State :=
  let m := s.power.coolSince
  let next := if s.dieCool d then (if (mapGet d m).isSome then m else mapSet d s.now m) else mapDel d m
  { s with power := { s.power with coolSince := next } }

/-- A C-die sensor at T_BOOST withdraws boost from its die (R364). -/
def State.dieSensorActs (n : Nat) (v : Int) (s : State) : State :=
  let d := n / 8
  let s := if (16 * s.rdF Reg.PWR_CFG2 Fld.PWR_CFG2_T_BOOST : Int) ≤ v then s.unboost (fun c => c / 24 == d) else s
  s.trackCool d

/-- An X-die's pipes stop at 100 °C, and are released when every X-die sensor reads below 95 °C (R370). -/
def State.xdieSensorActs (n : Nat) (s : State) : State :=
  let x := (n - 32) / 4
  let mine := (List.range 4).map (· + 32 + 4 * x)
  let all := (List.range 8).map (· + 32)
  if !s.power.throttledXdies.contains x && mine.any (fun k => decide ((1600 : Int) ≤ s.sensor k)) then
    ({ s with power := { s.power with throttledXdies := setInsert x s.power.throttledXdies } }).throttleOnset
  else if !s.power.throttledXdies.isEmpty && all.all (fun k => decide (s.sensor k < (1520 : Int))) then
    ({ s with power := { s.power with throttledXdies := [] } }).showThrottle
  else s

def State.stackSensorActs (n : Nat) (v : Int) (s : State) : State :=
  let i := n - 40
  let hot := s.power.hotStacks.contains i
  let s := if (16 * 85 : Int) ≤ v then
      (if hot then s else ({ s with power := { s.power with hotStacks := setInsert i s.power.hotStacks } }).post St.PWR_HBM_HOT)
    else { s with power := { s.power with hotStacks := setErase i s.power.hotStacks } }
  s.trackCool (i / 2)

/-- Board sensors: the power stage's reduction is a cap change; the hold-up bank is reported (R370). -/
def State.boardSensorActs (n : Nat) (v : Int) (s : State) : State :=
  if n = 48 then
    let hot := decide ((16 * 110 : Int) ≤ v)
    if hot == s.power.stageReduced then s
    else
      let s := ({ s with power := { s.power with stageReduced := hot } }).capChange
      if hot then s.throttleOnset else s.showThrottle
  else if n = 49 then
    let hot := decide ((16 * 85 : Int) ≤ v)
    let was := s.power.holdupHot
    let s := { s with power := { s.power with holdupHot := hot } }
    if hot && !was then s.post St.PWR_HOLDUP_HOT else s
  else s

/-- The humidity alert, which the always-on domain raises in every state (R434). -/
def State.humidityActs (n : Nat) (v : Int) (s : State) : State :=
  if n = 52 && decide ((16 * s.rdF Reg.HLT_CFG2 Fld.HLT_CFG2_HUMID_WARN_PCT : Int) ≤ v) then s.setAlert 7 else s

/-- SENSOR_SAMPLE (R369, R370, R371): a reading in 1/16 °C, or 1/16 % RH. A trip level ends operation in every state but STANDBY; the other
actions are the power manager's. -/
def execSensorSample (n : Nat) (v : Int) (s : State) : Out :=
  if !s.sensorFitted n || !s.mgmtRuns then .next s
  else
    let s := (s.storeSensor n v).humidityActs n v
    if s.power.standby then .next s
    else
      match tripLevel n with
      | some t =>
        if (16 * t : Int) ≤ v then .next (s.trip St.PWR_THERMAL_TRIP 2)
        else if !s.power.started then .next s
        else if n < 32 then .next (s.dieSensorActs n v)
        else if n < 40 then .next (s.xdieSensorActs n)
        else if n < 48 then .next (s.stackSensorActs n v)
        else .next (s.boardSensorActs n v)
      | none => .next (if s.power.started then s.boardSensorActs n v else s)

/-- RAIL_FAULT (R371). -/
def execRailFault (s : State) : Out :=
  .next (if s.power.standby || !s.side.powerGood then s else (s.ledgerAdd 0x9000 2).trip St.PWR_RAIL_FAULT 3)

/-! ### The clamp (R365) -/

def State.duty (s : State) : Nat := s.rdF Reg.PWR_STATE Fld.PWR_STATE_DUTY + 1
def State.setDuty (f : Nat) (s : State) : State := s.wrF Reg.PWR_STATE Fld.PWR_STATE_DUTY (f - 1)

/-- f of step 2: floor(16 × (P_clamp − P_f) ÷ (P_now − P_f)), held between 1 and 16; 16 where P_now does not exceed P_f. -/
def State.clampFraction (s : State) : Nat :=
  let fixed : Int := s.rdN Reg.PWR_FIXED
  let now : Int := s.power.input.headD 0 * 250000
  let cl : Int := s.clampLevel * 2500
  if now ≤ fixed then 16 else max 1 (min 16 ((16 * (cl - fixed)) / (now - fixed)).toNat)

/-- No ballast task that has not started stays asked for. -/
def State.dropBallastRequests (s : State) : State :=
  { s with dealer := { s.dealer with graphs := s.dealer.graphs.filter (fun g =>
    !(isBallast g && g.tasks.all (fun t => phaseReady t.phase))) } }

/-- Step 2 of R365. -/
def State.applyClamp (s : State) : State :=
  let s := (s.setDuty s.clampFraction).wrF Reg.PWR_STATE Fld.PWR_STATE_CLAMP 1
  let s := { s with power := { s.power with clampReleased := false, clampRising := false, winClean := false } }
  let s := (s.recomputeBudgets.unboost (fun _ => true)).dropBallastRequests
  (s.count (Reg.PWR_COUNTER 2)).post St.PWR_CLAMP_APPLIED

/-- CLAMP_N_ASSERT (R365): a confirmed falling edge. Before the power manager starts it waits for that start. -/
def execClampNAssert (s : State) : Out :=
  if s.side.clampAsserted then .next s
  else
    let s := { s with side := { s.side with clampAsserted := true } }
    .next (if s.power.started && !s.power.standby then s.applyClamp else s)

/-- CLAMP_N_RELEASE (R365): gating and the clamp budget stay in force until the next window boundary. -/
def execClampNRelease (s : State) : Out :=
  let s := { s with side := { s.side with clampAsserted := false } }
  .next (if s.clampInForce then { s with power := { s.power with clampReleased := true } } else s)

/-- Every 10 µs (R365): step 3 while CLAMP_N is asserted, step 5 while gating rises back. -/
def State.clampStep (watts : Nat) (s : State) : State :=
  if !s.clampInForce then s
  else if s.power.clampRising then
    let s := if watts ≤ s.effCap then s.setDuty (min 16 (s.duty + 1)) else s
    if s.duty = 16 then
      ({ s.wrF Reg.PWR_STATE Fld.PWR_STATE_CLAMP 0 with power := { s.power with clampRising := false } }).post St.PWR_CLAMP_RELEASED
    else s
  else if s.side.clampAsserted then
    if s.clampLevel < watts * 100 then s.setDuty (max 1 (s.duty - 1))
    else if watts * 10000 < s.clampLevel * 95 then s.setDuty (min 16 (s.duty + 1))
    else s
  else s

/-! ### The ante (R366 to R368) -/

/-- The effective ante (R366): it applies in ante mode only, and is 0 during a clamp. -/
def State.effAnte (s : State) : Nat :=
  if s.sleepMode || s.clampInForce then 0 else min (s.rdF Reg.PWR_ANTE Fld.PWR_ANTE_ANTE_W) s.effCap

/-- A cluster with 16 unfolded, free and unreserved cores in a partition whose dealer is enabled (R366, R424). -/
def State.clusterFree (s : State) (c : Nat) : Bool :=
  (List.range 16).all (fun k =>
    let n := 16 * c + k
    s.coreWorking n && (s.coreAt n).task.isNone && !s.coreReserved n)
  && (match s.dieOwner (c / 24) with
      | some p => s.partWorks p && s.dealerOn p
      | none => false)
  && !s.dealer.graphs.any (fun g => g.source == .ballast c || g.source == .sweep c)

/-- A task of the module's own on one whole cluster: of class background, in no submission (R366, R424). -/
def State.ownTask (src : GraphSource) (c energy : Nat) (s : State) : State :=
  match s.dieOwner (c / 24) with
  | none => s
  | some p =>
    let d : TaskDesc := {
      id := 0, cls := .background, resident := true, depCount := 0, succs := []
      placements := [⟨2 ^ (c / 24), 2 ^ (c % 24), 0xFFFF, 0⟩], energy := energy, duration := 0, rmode := 0, satEn := 0, seed := 0
      bodyTag := 0, collId := 0, preambleAt := 0, args := [] }
    let t : Task := {
      desc := d, phase := .ready, count := 0, abortForm := false, readyAt := s.now, heldSince := none, agedAt := none, reserved := [], placement := 0
      cores := [], charged := 0, startTs := 0, runTs := 0, limit := 0, endTs := 0, status := 0, flags := 0, stallMax := 0 }
    let g : Graph := ⟨s.dealer.nextUid, p, src, 0, 0, 0, false, none, false, [t]⟩
    { s.wake with dealer := { s.dealer with graphs := s.dealer.graphs ++ [g], nextUid := s.dealer.nextUid + 1 } }

/-- The ballast request of a measurement (R366): earlier requests that have not started are replaced. -/
def State.requestBallast (watts : Nat) (s : State) : State :=
  let held := s.dealer.graphs.any (fun g => isBallast g && g.tasks.any (fun t => phaseReady t.phase && t.heldSince.isSome))
  let s := { s with power := { s.power with ballastHeld := s.power.ballastHeld || held } }
  let s := s.dropBallastRequests
  let n := (s.effAnte - watts) / 8 - s.power.ballastStarted
  let free := (List.range 96).filter s.clusterFree
  let s := s.overList (free.take n) (fun c t => t.ownTask (.ballast c) c 64000)
  { s with power := { s.power with ballastStarted := 0 } }

/-- When a ballast task began to run: at its start, or when the last of its cores was up (R99, R367). -/
def State.ballastSince (s : State) (t : Task) : Nat :=
  (t.cores.map (fun n => mapGetD 0 n s.power.idleSince)).foldl max t.startTs

/-- BALLAST_TASK_END (R367): 8 µs after its start the task's cores are free again. -/
def execBallastTaskEnd (c : Nat) (s : State) : Out :=
  match s.dealer.graphs.find? (fun g => g.source == .ballast c) with
  | none => .next s
  | some g =>
    match g.tasks.head? with
    | none => .next s
    | some t =>
      if t.phase ≠ .loading ∨ !t.cores.all s.corePowered ∨ s.now < s.ballastSince t + 8000 then .next s
      else .next ((s.overList t.cores (fun n u => u.freeCore n)).dropGraph g.uid)

/-! ### Measurements and windows (R100, R358 to R363, R368) -/

def State.setCapLag (b : Bool) (s : State) : State :=
  (s.wrF Reg.PWR_STATE Fld.PWR_STATE_CAP_LAG (boolNat b)).wrF Reg.DEAL_STATE Fld.DEAL_STATE_CAP_LAG (boolNat b)

/-- CAP_LAG at a measurement (R362): the last 25 measurements average above the cap, at least 2 ms after the last cap change. -/
def State.evalCapLag (s : State) : State :=
  let sum := s.power.input.sum
  if s.capLag || s.power.input.length < 25 || decide (sum ≤ 25 * s.effCap) || decide (s.now < s.power.capChangeAt + 2000000) then s
  else
    let s := (s.wrN Reg.PWR_CAP_OVER ((sum - 25 * s.effCap) * 10)).setCapLag true
    let s := { s with power := { s.power with lagBelow := 0, winClean := false } }
    ((s.count (Reg.PWR_COUNTER 1)).ledgerAdd 0x9000 1).post St.PWR_CAP_LAG

/-- MEASUREMENT_TICK (R358, R362, R365, R366): the input power of the last 10 µs. Before the power manager starts, and in STANDBY, it is only read
(R479). -/
def execMeasurementTick (watts : Nat) (s : State) : Out :=
  if !s.power.started then
    .next (if s.mgmtRuns then { s with power := { s.power with input := watts :: s.power.input.take 24 } } else s)
  else
    let s := match s.power.anteNext with
      | some v => { s.wr Reg.PWR_ANTE (BitVec.ofNat 32 v) with power := { s.power with anteNext := none } }
      | none => s
    let w := s.power
    let s := { s with power := { w with
      input := watts :: w.input.take 24, winSum := w.winSum + watts, winCount := w.winCount + 1, winPeak := max w.winPeak watts
      winClean := w.winClean && !s.capLag && !s.clampInForce } }
    let s := if s.power.windowDone then s else s.wrN Reg.PWR_FIXED (min 0xFFFFFFFF (watts * 250000))
    .next ((s.evalCapLag.clampStep watts).requestBallast watts)

/-- The window that ends: CAP_LAG, its energies and its end (R362). -/
def State.lagWindow (sum n : Nat) (s : State) : State :=
  if !s.capLag then s
  else if n * s.effCap < sum then
    let excess := (sum - n * s.effCap) * 10
    let s := (s.wrN Reg.PWR_CAP_OVER excess).countSat Reg.PWR_OVER_TOTAL 0xFFFFFFFF (excess / 1000)
    { s with power := { s.power with lagBelow := 0 } }
  else if s.power.lagBelow = 0 then { s with power := { s.power with lagBelow := 1 } }
  else { s.setCapLag false with power := { s.power with lagBelow := 0 } }

/-- ANTE_SHORT (R368). -/
def State.anteWindow (sum n : Nat) (s : State) : State :=
  let below := decide (sum * 100 < n * s.effAnte * 95)
  let spent := s.power.ballastHeld || !(List.range 96).any s.clusterFree
  if below && spent && !s.rdB Reg.PWR_STATE Fld.PWR_STATE_ANTE_SHORT then
    (s.wrF Reg.PWR_STATE Fld.PWR_STATE_ANTE_SHORT 1).post St.PWR_ANTE_SHORT
  else if below then s
  else s.wrF Reg.PWR_STATE Fld.PWR_STATE_ANTE_SHORT 0

/-- Step 5 of R100: the debt of each partition from its charges and its measured task energy. -/
def State.closeWindow (energies : List Nat) (s : State) : State :=
  s.overList (List.range 4) (fun p t =>
    let charged := t.rdN (Reg.WINDOW_CHARGED p)
    let debt := (charged + t.rdN (Reg.WINDOW_DEBT p) - t.rdN (Reg.WINDOW_BUDGET p)) + (energies.getD p 0 - charged)
    (t.wrN (Reg.WINDOW_DEBT p) (min 0xFFFFFFFF debt)).wrN (Reg.WINDOW_CHARGED p) 0)

/-- A C-die's idle baseline in a window, in nJ: leakage and HBM refresh, which the power manager computes from the die's temperatures,
its voltage (that of its clock) and its powered domains by no formula that the spec gives (R358). -/
def State.idleBaseline (s : State) (d : Nat) : Nat :=
  Config.idleBaseline d ((dieSensors d ++ s.stackSensors d).map s.sensor) (s.rdF (Reg.PWR_DIE_CLK d) Fld.PWR_DIE_CLK_BASE_MHZ)
    (s.power.coresUp.filter (fun n => coreDie n == d)) (s.power.clustersUp.filter (fun c => c / 24 == d))

/-- A partition's measured task energy: the rail energy of its C-dies less their idle baseline, and never less than 0 (R358). -/
def State.taskEnergy (s : State) (rails : List Nat) (p : Nat) : Nat :=
  ((s.partDies p).map (fun d => rails.getD d 0)).sum - ((s.partDies p).map s.idleBaseline).sum

/-- WINDOW_BOUNDARY (R100, R358, R360, R362, R363, R365, R368, R406): the window just completed is closed with the partitions' measured
task energies, from the rail energies of the four C-dies in nJ, and the budgets of the next are set. -/
def execWindowBoundary (rails : List Nat) (s : State) : Out :=
  if !s.power.started then .next s
  else
    let energies := (List.range 4).map (s.taskEnergy rails)
    let w := s.power
    let n := max 1 w.winCount
    let s := (s.wrF Reg.PWR_MEAS Fld.PWR_MEAS_WINDOW_W (min 4095 (w.winSum / n))).wrF Reg.PWR_MEAS Fld.PWR_MEAS_PEAK_W (min 4095 w.winPeak)
    let s := s.wrN Reg.PWR_FIXED (min 0xFFFFFFFF (w.winSum * 250000 / n - energies.sum))
    let s := (s.closeWindow energies).lagWindow w.winSum n
    let s := s.anteWindow w.winSum n
    let old := s.maxWait
    let s := (s.commitRS (fun o => inRange 0x100000 0x100000 o || inRange 0x200000 0x100000 o || inRange 0xE00000 0x100000 o)).waitChanged old
    let s := match s.power.sharesNext with
      | some v => s.wrN Reg.PWR_SHARE v
      | none => s
    let mhz := s.rdF Reg.PWR_STATE Fld.PWR_STATE_CAP_MHZ
    let rise := w.winClean && decide (w.winSum * 100 ≤ n * s.effCap * 97)
    let s := if rise then s.wrF Reg.PWR_STATE Fld.PWR_STATE_CAP_MHZ (min s.fuses.sustainedMhz (mhz + 100)) else s
    let s := s.stepClocks
    let rising := s.clampInForce && (s.power.clampRising || (s.power.clampReleased && !s.side.clampAsserted))
    let s := { s with power := { s.power with
      winSum := 0, winCount := 0, winPeak := 0, winClean := !s.capLag && !s.clampInForce, windowDone := true, lastWindow := (w.winSum, n)
      ballastHeld := false
      sharesNext := none, clampReleased := false, clampRising := rising } }
    .next s.recomputeBudgets

/-- A write of PWR_CAP (R359): PF0 writes PWR_CAP; a write of HOST_CAP_W acts as a cap change. -/
def State.hostCap (value : Nat) (s : State) : State :=
  if s.hostReaches then (s.writeReg false Reg.PWR_CAP value).capChange else s

/-- HOST_CAP_WRITE. -/
def execHostCapWrite (value : Nat) (s : State) : Out := .next (s.hostCap value)

/-- The power manager starts at stage 1 (R360, R362, R365): the start counts as a cap change for CAP_LAG, and a clamp that is asserted takes
effect. -/
def State.startPower (s : State) : State :=
  let s := { s with power := { s.power with started := true, capChangeAt := s.now } }
  if s.side.clampAsserted then s.applyClamp else s

/-! ### Sideband power messages (R373) -/

def okPower : Nat := 0x1000

/-- SET_CAP: a cap below 250 W is stored as 250 W, one above MAX_W as MAX_W (R359, R372). -/
def execSetCap (s : State) : Out :=
  .next (s.serve 0x01 (fun m s =>
    let v := clampTo 250 s.fuses.maxW (leAt m.body 0 2)
    let old := s.effCap
    let s := (s.wrF Reg.PWR_CAP Fld.PWR_CAP_RACK_CAP_W v).capChange
    s.answer m (if s.effCap = old then okPower else St.PWR_CAP_CHANGED) []))

/-- SET_ANTE: takes effect at the next 10 µs tick. -/
def execSetAnte (s : State) : Out :=
  .next (s.serve 0x02 (fun m s =>
    let w := leAt m.body 0 2
    let mode := leAt m.body 2 1
    if s.fuses.maxW < w ∨ 1 < mode then s.refuse m St.PWR_BAD_POWER_MESSAGE
    else ({ s with power := { s.power with anteNext := some (w + mode * 4096) } }).answer m okPower []))

/-- SET_SHARES: takes effect at the next window boundary. -/
def execSetShares (s : State) : Out :=
  .next (s.serve 0x03 (fun m s =>
    if 100 < ((List.range 4).map (fun p => leAt m.body p 1)).sum then s.refuse m St.PWR_BAD_POWER_MESSAGE
    else ({ s with power := { s.power with sharesNext := some (leAt m.body 0 4) } }).answer m okPower []))

/-- SET_CLAMP_LEVEL: at once if a clamp is in force, recomputing f as in step 2 of R365. -/
def execSetClampLevel (s : State) : Out :=
  .next (s.serve 0x04 (fun m s =>
    let v := leAt m.body 0 1
    if v < 20 ∨ 100 < v then s.refuse m St.PWR_BAD_POWER_MESSAGE
    else
      let s := s.wrF Reg.PWR_CAP_EFF Fld.PWR_CAP_EFF_CLAMP_PCT v
      (if s.clampInForce then (s.setDuty s.clampFraction).recomputeBudgets else s).answer m okPower []))

/-- STANDBY (R373, R468): Talon shuts down with a CLEAN marker, and the module enters STANDBY. -/
def execStandby (s : State) : Out :=
  .next (s.serve 0x05 (fun m s => (if s.power.standby then s else (s.talonDown 1 0).enterStandby).answer m okPower []))

/-- POWER_REPORT. -/
def execPowerReport (s : State) : Out :=
  .next (s.serve 0x07 (fun m s =>
    s.answer m okPower (leBytes 2 (s.rdF Reg.PWR_MEAS Fld.PWR_MEAS_WINDOW_W) ++ leBytes 2 s.effCap ++ leBytes 2 s.effAnte
      ++ leBytes 2 (s.rdF Reg.PWR_STATE Fld.PWR_STATE_CAP_MHZ) ++ leBytes 2 (s.rdN Reg.PWR_STATE % 256)
      ++ leBytes 4 (s.rdN Reg.PWR_OVER_TOTAL))))

end Sys2Proof.Machine
end

