-- ==== Sys2Proof/Machine/Health.lean ====
section
/-! DEFINITION. Machine/Health.lean: known-answer sweeps (R423 to R425), the health ledger (R426 to R429), ageing monitors and forecasts
(R430 to R433), alerts and the health messages (R434 to R436). -/
namespace Sys2Proof.Machine

/-! ### Known-answer sweeps (R424, R425) -/

def isSweep (g : Graph) : Bool := match g.source with | .sweep _ => true | _ => false

/-- A cluster that a run-time sweep may test: 16 working cores, in a running partition (R424). -/
def State.sweepable (s : State) (c : Nat) : Bool :=
  s.clusterWorking c && (List.range 16).all (fun k => s.coreWorking (16 * c + k))
  && (match s.dieOwner (c / 24) with
      | some p => s.partRuns p && s.dealerOn p
      | none => false)

/-- The cluster that is swept next: one that is due again, else the one least recently swept. -/
def State.nextSweep (s : State) : Option Nat :=
  match s.ledger.retry.find? (fun e => s.sweepable e.1) with
  | some e => some e.1
  | none =>
    ((List.range 96).filter s.sweepable).foldl (fun best c =>
      match best with
      | none => some c
      | some b => if mapGetD 0 c s.ledger.swept < mapGetD 0 b s.ledger.swept then some c else best) none

/-- SWEEP_DUE (R424): a background task of 240,000 nJ on one whole cluster. -/
def execSweepDue (s : State) : Out :=
  if !s.ready || s.isDormant || s.rdF Reg.HLT_CFG Fld.HLT_CFG_SWEEP_PERIOD_H = 0 || s.dealer.graphs.any isSweep then .next s
  else
    match s.nextSweep with
    | none => .next s
    | some c => .next (({ s with ledger := { s.ledger with sweeping := some c } }).ownTask (.sweep c) c 240000)

/-- A check-value unit fails its test (R422): its contexts can no longer be attached. -/
def State.failUnit (u : Nat) (s : State) : State :=
  if s.fuses.checkUnitCount ≤ u then s
  else
    let s := s.putBit (Reg.CVU_FAILED (u / 32)) (u % 32) true
    let s := if u < 96 then s.ledgerPut (0x3000 + u) 3 1 else s
    let s := { s with cvOwner := s.cvOwner.filter (fun e => e.1 / 8 != u) }
    let s := s.overList (List.range 8) (fun x t => t.wrF (Reg.CV_CTRL u x) Fld.CV_CTRL_STATE 3)
    s.postAt (if u < 96 then 0x3000 + u else 0) St.CVU_CVU_FAILED

/-- A core differed in one sweep only. -/
def State.katTransient (n : Nat) (s : State) : State :=
  let s := (s.ledgerAdd (0x1000 + coreDie n) 3).ledgerAdd (0x2000 + n) 0
  (s.count (Reg.HLT_COUNTER 1)).postAt (0x2000 + n) St.HLT_KAT_TRANSIENT

/-- A core or a cluster is folded by sweep (R425, R434). -/
def State.katFold (die : Nat) (part : Nat) (s : State) : State :=
  let s := (s.ledgerAdd (0x1000 + die) 4).count (Reg.HLT_COUNTER 2)
  (s.postAt part St.HLT_KAT_FOLD).setAlert 2

/-- A cluster is due again, with the cores (0 to 15) that differed. -/
def State.sweepAgain (c : Nat) (differ : List Nat) (s : State) : State :=
  { s with ledger := { s.ledger with retry := (s.ledger.retry.filter (fun e => e.1 != c)) ++ [(c, differ)] } }

/-- The outcome of a sweep (R425). A core that differs in a second sweep only makes its cluster due again. -/
def State.judgeSweep (c : Nat) (differ : List Nat) (s : State) : State :=
  let s := { s with ledger := { s.ledger with swept := mapSet c s.now s.ledger.swept, sweeping := none } }
  let prev := s.ledger.retry.find? (fun e => e.1 == c)
  let s := { s with ledger := { s.ledger with retry := s.ledger.retry.filter (fun e => e.1 != c) } }
  let s := if differ.isEmpty then s.count (Reg.HLT_COUNTER 0) else s
  match prev with
  | none => if differ.isEmpty then s else s.sweepAgain c differ
  | some (_, first) =>
    let both := first.filter differ.contains
    let s := s.overList (first.filter (fun k => !differ.contains k)) (fun k t => t.katTransient (16 * c + k))
    let fresh := differ.filter (fun k => !first.contains k)
    if both.length = 16 then (s.foldCluster c 0xB).katFold (c / 24) (0x3000 + c)
    else
      let s := s.overList both (fun k t => (t.foldCore (16 * c + k) 0xB).katFold (c / 24) (0x2000 + 16 * c + k))
      if fresh.isEmpty then s else s.sweepAgain c fresh

/-- SWEEP_COMPLETE (R422, R425): the running sweep of a cluster ends, in a partition that works (R15). -/
def execSweepComplete (c : Nat) (r : SweepResult) (s : State) : Out :=
  match s.dealer.graphs.find? (fun g => g.source == .sweep c) with
  | none => .next s
  | some g =>
    match g.tasks.head? with
    | none => .next s
    | some t =>
      if t.phase ≠ .loading ∨ !t.cores.all s.corePowered ∨ !s.partWorks g.part then .next s
      else
        let s := (s.overList t.cores (fun n u => u.freeCore n)).dropGraph g.uid
        let s := if r.unitBad && !bitOf (s.rdN (Reg.CVU_FAILED (c / 32))) (c % 32) then s.failUnit c else s
        .next (s.judgeSweep c (((List.range 16).filter r.differ.contains)))

/-! ### The ledger -/

/-- LEDGER_CHECKPOINT (R426): once per powered hour. -/
def execLedgerCheckpoint (s : State) : Out :=
  if !s.mgmtRuns || !s.hoursSince s.ledger.checkpointAt 1 then .next s
  else
    let s := ({ s with ledger := { s.ledger with checkpointAt := s.now } }).ledgerAdd 0 0
    .next (if s.rdF Reg.HLT_STATE Fld.HLT_STATE_LEDGER = 0 then { s with ledger := { s.ledger with checkpoint := s.ledger.counters } } else s)

/-- The 32 bytes of a history record (R429). -/
def recordWords (r : LedgerRecord) : List Byte :=
  leBytes 8 r.poweredS ++ leBytes 8 (r.part + r.status * 2 ^ 16 + r.kind * 2 ^ 32 + r.seq % 2 ^ 24 * 2 ^ 40)
    ++ leBytes 8 r.value ++ leBytes 8 (r.boot % 2 ^ 32)

/-- A record that is held; in STANDBY only those of management memory can be read (R436). -/
def State.recordAt (s : State) (seq : Nat) : Option LedgerRecord :=
  ((if s.power.standby then [] else s.ledger.history) ++ s.ledger.unwritten).find? (fun r => r.seq == seq)

/-- HLT_HIST_FIRST: the oldest sequence number held. -/
def State.firstRecord (s : State) : Nat :=
  match s.ledger.history ++ s.ledger.unwritten with
  | [] => s.ledger.nextSeq
  | r :: t => t.foldl (fun m x => min m x.seq) r.seq

/-- The counter that HLT_PART_SEL selects (R427). -/
def State.partValue (s : State) : Nat :=
  s.ledgerGet (s.rdF Reg.HLT_PART_SEL Fld.HLT_PART_SEL_PART) (s.rdF Reg.HLT_PART_SEL Fld.HLT_PART_SEL_COUNTER)

/-- A read of the low word of HLT_PART_VALUE latches the high word (R427). -/
def State.latchPart (s : State) : State := { s with ledger := { s.ledger with partLatch := s.partValue / 2 ^ 32 } }

/-- A read of MGT_TIME_LO latches the high word (R19). -/
def State.latchTime (s : State) : State := { s with mgmt := { s.mgmt with timeLatch := s.now / 2 ^ 32 % 2 ^ 32 } }

/-- HLT_PART_VALUE_READ (R427): PF0 reads the low word. -/
def execHltPartValueRead (s : State) : Out :=
  .next (if s.pcieUp then s.latchPart.emit (.readData 0 (s.partValue % 2 ^ 32)) else s)

/-- MGT_TIME_READ (R19): PF0 reads MGT_TIME_LO. -/
def execMgtTimeRead (s : State) : Out :=
  .next (if s.pcieUp then s.latchTime.emit (.readData 0 (s.now % 2 ^ 32)) else s)

/-! ### Ageing monitors (R430, R431) -/

/-- (f − f0) ÷ f0 in ppm at a site, by the number of its sensor: the measured frequency is corrected from the site's temperature, in 1/16 °C, to 60 °C
by the fused coefficient, taken in ppm of f0 per °C (DESIGN CHOICE: the spec gives no unit). -/
def State.siteDrift (s : State) (frequencies : List Nat) (site : Nat) : Rat :=
  let f0 : Rat := Config.oscillator site
  let degrees : Rat := toSigned 16 (s.rdF (Reg.PWR_SENSOR site) Fld.PWR_SENSOR_VALUE)
  ((frequencies.getD site 0 : Rat) - f0) / f0 * 1000000 - (Config.oscillatorSlope site : Rat) * (degrees / 16 - 60)

/-- A part's drift: the mean over its sites, rounded down to a whole ppm (DESIGN CHOICE: the spec gives no rounding). -/
def State.partDrift (s : State) (frequencies : List Nat) (sites : List Nat) : Int :=
  ((sites.map (s.siteDrift frequencies)).sum / (sites.length : Rat)).floor

/-- The oscillators are measured: eight of each C-die, four of each X-die. -/
def State.measureDrift (frequencies : List Nat) (s : State) : State :=
  let sites := fun first n => (List.range n).map (first + ·)
  let s := { s with ledger := { s.ledger with driftAt := s.now } }
  let s := s.overList (List.range 4) (fun d t => if t.mgmt.excludedDies.contains d then t
    else t.ledgerPut (0x1000 + d) 0 (ofSigned 64 (t.partDrift frequencies (sites (8 * d) 8))))
  let s := s.overList (List.range (if s.fuses.x2 then 2 else 1)) (fun x t =>
    t.ledgerPut (0xB000 + x) 0 (ofSigned 64 (t.partDrift frequencies (sites (32 + 4 * x) 4))))
  s.count (Reg.HLT_COUNTER 7)

/-- RO_MEASURE (R430): every 24 powered hours. -/
def execRoMeasure (frequencies : List Nat) (s : State) : Out :=
  .next (if s.power.standby || !s.power.started || !s.hoursSince s.ledger.driftAt 24 then s else s.measureDrift frequencies)

/-- HOLDUP_LOW, and its copy in UPD_STATE (R431). -/
def State.setHoldupLow (low : Nat) (s : State) : State :=
  (s.wrF Reg.HLT_STATE Fld.HLT_STATE_HOLDUP_LOW low).wrF Reg.UPD_STATE Fld.UPD_STATE_HOLDUP_LOW low

/-- The usable energy of the hold-up bank has been measured (R431). -/
def State.measureHoldup (mj : Nat) (s : State) : State :=
  let s := { s with ledger := { s.ledger with holdupAt := s.now } }
  let s := (s.ledgerPut 0x8000 0 mj).ledgerAdd 0x8000 1
  let s := s.count (Reg.HLT_COUNTER 6)
  if s.rdF Reg.HLT_CFG2 Fld.HLT_CFG2_HOLDUP_MIN_MJ ≤ mj then s.setHoldupLow 0
  else if s.rdB Reg.HLT_STATE Fld.HLT_STATE_HOLDUP_LOW then s
  else ((s.setHoldupLow 1).postAt 0x8000 St.HLT_HOLDUP_LOW).setAlert 5

/-- HOLDUP_MEASURE (R431): every 24 powered hours. -/
def execHoldupMeasure (mj : Nat) (s : State) : Out :=
  .next (if !s.side.bus48 || s.power.standby || s.rdB Reg.HLT_STATE Fld.HLT_STATE_HOLDUP_LOW || !s.hoursSince s.ledger.holdupAt 24 then s
    else s.measureHoldup mj)

/-! ### Talon's forecasts (R241) -/

structure TalonDays where
  prefixWear : Nat
  weightsWear : Nat
  spares : Nat
  retryPpm : Nat
  deriving DecidableEq, Repr

/-- An amount left over what the last powered days took: rounded down, at most 0xFFFF; 0xFFFF where they took nothing. -/
def daysLeft (left taken days : Nat) : Nat := if taken = 0 then 0xFFFF else min 0xFFFF (left * days / taken)

def State.zoneWear (s : State) (z : Zone) : Nat := ((s.talon.bands.filter (fun b => inZone z b.index && !b.retired)).map Band.wear).sum / 32

/-- The four forecasts of R241 over the last 30 powered days, or as many as there have been. -/
def State.talonDays (s : State) : TalonDays :=
  let n := max 1 (min 30 (s.poweredS / 86400))
  let t := s.talon
  let pfx := ((t.charged.map (fun e => (e.2.take 30).sum))).sum
  let left := (s.rdF Reg.TLN_ZONES Fld.TLN_ZONES_PFX_BANDS * 30000 - s.zoneWear .prefixZone) * 0x10000000
  let leftW := (s.rdF Reg.TLN_ZONES Fld.TLN_ZONES_WT_BANDS * 3000 - s.zoneWear .weights) * 0x30000000
  let reads := ((t.readDays.take 30).map (fun e => e.1)).sum
  let late := ((t.readDays.take 30).map (fun e => e.2)).sum
  { prefixWear := daysLeft left pfx n
    weightsWear := daysLeft leftW (t.weightsCharged.take 30).sum n
    spares := daysLeft (s.rdF Reg.TLN_ZONES Fld.TLN_ZONES_MIN_SPARES - 8) (t.grown.take 30).sum n
    retryPpm := if reads = 0 then 0 else min 16383 (late * 1000000 / reads) }

/-- EOL_DAYS and its limiter: the smallest of the three day counts, the first on a tie. -/
def eolOf (d : TalonDays) : Nat × Nat :=
  let e := min d.prefixWear (min d.weightsWear d.spares)
  (e, if d.prefixWear = e then 0 else if d.weightsWear = e then 1 else 2)

/-- A new powered day begins in Talon's daily records. -/
def State.talonNewDay (s : State) : State :=
  let t := s.talon
  { s with talon := { t with
    charged := t.charged.map (fun e => (e.1, (0 :: e.2).take 30)), weightsCharged := (0 :: t.weightsCharged).take 30
    grown := (0 :: t.grown).take 30, readDays := ((0, 0) :: t.readDays).take 30, secondsToday := 0 } }

/-- EOL_DAYS, LIMITER and RETRY_PPM are shown and kept in the ledger; the wear alert (R241, R434). The ledger's other Talon counters follow their
registers. -/
def State.showTalonDays (d : TalonDays) (s : State) : State :=
  let (eol, lim) := eolOf d
  let s := (s.wrF Reg.TLN_EOL Fld.TLN_EOL_EOL_DAYS eol).wrF Reg.TLN_EOL Fld.TLN_EOL_LIMITER lim
  let s := s.wrF Reg.TLN_EOL Fld.TLN_EOL_RETRY_PPM d.retryPpm
  let s := (s.ledgerPut 0x6000 0 eol).ledgerPut 0x6000 4 d.retryPpm
  if eol < s.rdF Reg.TLN_CFG2 Fld.TLN_CFG2_EOL_WARN_DAYS then (s.postAt 0x6000 St.HLT_WEAR_ALERT).setAlert 3 else s

/-! ### The ledger's forecasts (R432, R433) -/

/-- The least-squares line through daily values, newest first: its slope per day as numerator and denominator. -/
def slopeOf (l : List Int) : Int × Nat :=
  let n := l.length
  let pts := l.zipIdx.map (fun e => (-(e.2 : Int), e.1))
  let sx := (pts.map (fun p => p.1)).sum
  let sy := (pts.map (fun p => p.2)).sum
  let sxy := (pts.map (fun p => p.1 * p.2)).sum
  let sxx := (pts.map (fun p => p.1 * p.1)).sum
  ((n : Int) * sxy - sx * sy, ((n : Int) * sxx - sx * sx).toNat)

/-- The value has reached its threshold: from above for a falling metric, else from below. -/
def hasReached (falling : Bool) (v t : Int) : Bool := if falling then decide (v ≤ t) else decide (t ≤ v)

/-- DAYS of R432, from daily values, newest first. -/
def forecastDays (falling : Bool) (vals : List Int) (t : Int) : Nat :=
  let v := vals.headD 0
  let (num, den) := slopeOf vals
  if hasReached falling v t then 0
  else if vals.length < 7 ∨ (falling = true ∧ 0 ≤ num) ∨ (falling = false ∧ num ≤ 0) then 0xFFFF
  else min 0xFFFE ((t - v).natAbs * den / num.natAbs)

/-- Part, metric, whether it falls towards its threshold, and the threshold of forecast entries 0 to 50 (R432). -/
def State.forecastSpec (s : State) (i : Nat) : Nat × Nat × Bool × Int :=
  let ro : Int := -(s.rdF Reg.HLT_LIMITS Fld.HLT_LIMITS_RO_LIMIT_PPM : Int)
  if i < 4 then (0x1000 + i, 1, true, ro)
  else if i < 8 then (0x1000 + (i - 4), 2, true, 0)
  else if i < 10 then (0xB000 + (i - 8), 1, true, ro)
  else if i < 18 then (0x4000 + (i - 10), 3, false, s.rdF Reg.HLT_LIMITS2 Fld.HLT_LIMITS2_CE_DAY_LIMIT)
  else if i < 34 then (0x5000 + (i - 18), 4, false, s.rdF Reg.HLT_LIMITS Fld.HLT_LIMITS_FEC_LIMIT_PPM)
  else if i < 50 then (0x5000 + (i - 34), 5, false, s.rdF Reg.HLT_LIMITS2 Fld.HLT_LIMITS2_RETRAIN_DAY_LIMIT)
  else (0x8000, 6, true, s.rdF Reg.HLT_CFG2 Fld.HLT_CFG2_HOLDUP_MIN_MJ)

/-- The part of an entry is fitted and not excluded (R432). -/
def State.forecastFits (s : State) (i : Nat) : Bool :=
  if i < 8 then !s.mgmt.excludedDies.contains (i % 4)
  else if i < 10 then i == 8 || s.fuses.x2
  else if i < 18 then s.fuses.stackFitted (i - 10) && !s.mgmt.excludedDies.contains ((i - 10) / 2)
  else if i < 50 then decide ((i - 18) % 16 < s.fuses.linkCount)
  else decide (i < 55)

/-- What a counter gained since the last daily computation. -/
def State.dayGain (s : State) (part idx : Nat) : Nat := s.ledgerGet part idx - mapGetD 0 (16 * part + idx) s.ledger.dayBase

/-- Today's value of an entry (R432). -/
def State.dayValue (s : State) (i : Nat) : Int :=
  let part := (s.forecastSpec i).1
  if i < 4 ∨ (8 ≤ i ∧ i < 10) then toSigned 64 (s.ledgerGet part 0)
  else if i < 8 then ((64 - s.sparesTaken (i - 4) : Nat) : Int)
  else if i < 18 then ((s.dayGain part 0 + s.dayGain part 1 : Nat) : Int)
  else if i < 34 then
    let n := mapGetD 0 (i - 18) s.ledger.codewords
    ((if n = 0 then 0 else s.dayGain part 0 * 1000000 / n : Nat) : Int)
  else if i < 50 then (s.dayGain part 2 : Int)
  else (s.ledgerGet part 0 : Int)

/-- Write a forecast entry (R433). -/
def State.putForecast (i part metric days : Nat) (value threshold : Nat) (reached : Bool) (s : State) : State :=
  let flags := boolNat (decide (days < s.rdF Reg.HLT_CFG Fld.HLT_CFG_PRED_WARN_DAYS)) + 2 * boolNat reached
  let s := (s.wrN (Reg.HLT_FORECAST i 0) (part + metric * 2 ^ 16 + flags * 2 ^ 24)).wrN (Reg.HLT_FORECAST i 1) days
  (s.wrN (Reg.HLT_FORECAST i 2) value).wrN (Reg.HLT_FORECAST i 3) threshold

/-- Entry i, 0 to 50, forms its daily value and its forecast. -/
def State.forecastEntry (i : Nat) (s : State) : State :=
  if !s.forecastFits i then s.overList (List.range 4) (fun w t => t.wrN (Reg.HLT_FORECAST i w) 0)
  else
    let (part, metric, falling, t) := s.forecastSpec i
    let v := s.dayValue i
    let vals := (v :: mapGetD [] i s.ledger.daily).take 30
    let s := { s with ledger := { s.ledger with daily := mapSet i vals s.ledger.daily } }
    let s := if metric = 3 then s.ledgerPut part 3 v.toNat else if metric = 4 then s.ledgerPut part 6 v.toNat else s
    s.putForecast i part metric (forecastDays falling vals t) (ofSigned 32 v) (ofSigned 32 t) (hasReached falling v t)

/-- Talon's entries, 51 to 54: their values and thresholds are those that R241 forecasts from, erases against the zone's rating and the fewest spares
against 8. The trend has no threshold: its word is free. -/
def State.talonEntries (d : TalonDays) (s : State) : State :=
  let put := fun i metric days (falling : Bool) (v t : Nat) (u : State) =>
    u.putForecast i 0x6000 metric days v t (hasReached falling v t)
  let s := put 51 7 d.prefixWear false (s.rdF Reg.TLN_ERASE Fld.TLN_ERASE_PFX_AVG) 30000 s
  let s := put 52 8 d.weightsWear false (s.rdF Reg.TLN_ERASE Fld.TLN_ERASE_WT_AVG) 3000 s
  let s := put 53 9 d.spares true (s.rdF Reg.TLN_ZONES Fld.TLN_ZONES_MIN_SPARES) 8 s
  (s.putForecast 54 0x6000 0xA 0xFFFF d.retryPpm (Config.trendThreshold s.freeCtr) false).drawn

def State.entryDays (s : State) (i : Nat) : Nat := s.rdN (Reg.HLT_FORECAST i 1) % 2 ^ 16

/-- HLT_WORST: the smallest DAYS, the lowest entry on a tie (R433). -/
def State.showWorst (s : State) : State :=
  let all := (List.range 55).filter s.forecastFits
  let best := all.foldl (fun b i => if s.entryDays i < s.entryDays b then i else b) (all.headD 0)
  s.wrN Reg.HLT_WORST (s.entryDays best + best * 2 ^ 16)

/-- FORECAST_ALERT (R433, R434). -/
def State.forecastAlert (s : State) : State :=
  if (List.range 55).any (fun i => s.forecastFits i && bitsAt (s.rdN (Reg.HLT_FORECAST i 0)) 24 2 != 0) then
    (s.post St.HLT_FORECAST_ALERT).setAlert 4
  else s

/-- 1,440 powered minutes have passed: by Talon's clock while it keeps one, else by the management cluster's (R241, R432). -/
def State.dayOver (s : State) : Bool :=
  if s.talonUp then decide (86400 ≤ s.talon.secondsToday) else s.hoursSince s.ledger.forecastAt 24

/-- DAILY_FORECAST (R241, R406, R428, R432). -/
def execDailyForecast (s : State) : Out :=
  if !s.mgmtRuns || !s.dayOver then .next s
  else
    let s := { s with ledger := { s.ledger with forecastAt := s.now } }
    let s := s.commitRS (inRange 0xC00000 0x100000)
    let d := s.talonDays
    let s := s.showTalonDays d
    let s := (s.overList (List.range 51) (fun i t => t.forecastEntry i)).talonEntries d
    let s := s.showWorst.forecastAlert
    let s := s.overList (List.range 12) (fun k t => t.ledgerRecord (k * 0x1000) 0 6 (t.ledgerGet (k * 0x1000) 0) false)
    let s := { s with ledger := { s.ledger with dayBase := s.ledger.counters, codewords := [] } }
    .next s.talonNewDay

/-! ### Alerts and the health messages (R434 to R436) -/

/-- Acknowledge alert bits. -/
def State.ackAlerts (mask : Nat) (s : State) : State :=
  (s.wrN Reg.HLT_ALERT (s.rdN Reg.HLT_ALERT &&& (0x1FF - mask % 0x200))).driveAlert

/-- HLT_ALERT_ACK (R434): PF0 writes HLT_ALERT. -/
def execHltAlertAck (value : Nat) (s : State) : Out := .next (if s.pcieUp then s.ackAlerts value else s)

def okHealth : Nat := 0xC000

/-- HEALTH_SUMMARY. -/
def execHealthSummary (s : State) : Out :=
  .next (s.serve 0x20 (fun m s =>
    let e := s.rdF Reg.HLT_WORST Fld.HLT_WORST_ENTRY
    let w := s.rdN (Reg.HLT_FORECAST e 0)
    s.answer m okHealth (leBytes 2 (s.rdN Reg.HLT_ALERT) ++ leBytes 2 (s.rdF Reg.HLT_WORST Fld.HLT_WORST_DAYS)
      ++ leBytes 2 (bitsAt w 0 16) ++ leBytes 2 (bitsAt w 16 8) ++ leBytes 2 (s.rdF Reg.TLN_EOL Fld.TLN_EOL_EOL_DAYS))))

/-- HEALTH_ACK. -/
def execHealthAck (s : State) : Out :=
  .next (s.serve 0x21 (fun m s => (s.ackAlerts (leAt m.body 0 2)).answer m okHealth []))

/-- LEDGER_READ. -/
def execLedgerRead (s : State) : Out :=
  .next (s.serve 0x22 (fun m s =>
    match s.recordAt (leAt m.body 0 4) with
    | some r => s.answer m okHealth (recordWords r)
    | none => s.refuse m St.HLT_LEDGER_UNAVAILABLE))

/-- FORECAST_READ: an entry above 54 does not exist. -/
def execForecastRead (s : State) : Out :=
  .next (s.serve 0x23 (fun m s =>
    let e := leAt m.body 0 1
    if e < 55 then s.answer m okHealth ((List.range 4).flatMap (fun w => leBytes 4 (s.rdN (Reg.HLT_FORECAST e w))))
    else s.refuse m St.MGT_BAD_SIDEBAND_MESSAGE))

end Sys2Proof.Machine
end

