-- ==== Sys2Proof/Machine/ConfigStore.lean ====
section
/-! DEFINITION. Machine/ConfigStore.lean: the records of the configuration store and the configuration image (R379 to R384, R408), the
partition map (R30, R31), topology records (R328, R329) and the layout of the KV cache (R186). -/
namespace Sys2Proof.Machine

/-! ### The partition map (R30, R31, R384) -/

def mapPart (map d : Nat) : Nat := bitsAt map (2 * d) 2
def mapDies (map p : Nat) : List Nat := (List.range 4).filter (fun d => mapPart map d == p)
def mapParts (map : Nat) : List Nat := (List.range 4).filter (fun p => !(mapDies map p).isEmpty)

/-- DESIGN CHOICE (log 168): bits [31:8] are 0, for which the spec names no outcome. By R30, no partition pairs two dies without a common edge,
and partitions are numbered from P0 in ascending order of their lowest C-die. -/
def mapOk (map : Nat) : Bool :=
  map < 256
    && (List.range 4).all (fun p => mapDies map p != [0, 3] && mapDies map p != [1, 2])
    && (mapParts map).all (fun p => (List.range p).all (fun q =>
      !(mapDies map q).isEmpty && decide ((mapDies map q).headD 0 < (mapDies map p).headD 0)))

/-! ### Records (R380 to R383) -/

def storeLimit : Nat := 0x1000000
def valueLimit : Nat := 1048576
def noOffset : Nat := 0xFFFFFFFF

/-- The store reads ones beyond what is written. -/
def storeAt (b : List Byte) (off n : Nat) : List Byte := (List.range n).map (fun i => b.getD (off + i) 0xFF)
def storeWord (b : List Byte) (off : Nat) : Nat := ofLeBytes (storeAt b off 4)

/-- The 32-bit words of a value. -/
def wordsOfBytes (b : List Byte) : List Nat := (List.range (b.length / 4)).map (fun i => leAt b (4 * i) 4)

/-- Entries of a block record: offset from the block's base, mask, value. -/
def blockEntries (b : List Byte) : List (Nat × Nat × Nat) :=
  (List.range (b.length / 12)).map (fun i => (leAt b (12 * i) 4, leAt b (12 * i + 4) 4, leAt b (12 * i + 8) 4))

/-- Bits of a register that lie in fields whose Reset is cfg. -/
def cfgMask (fu : Fuses) (off : Nat) : Nat :=
  match regAt fu off with
  | none => 0
  | some (r, _, _) => r.fields.foldl (fun m f => if f.isCfg then putFieldOf f (2 ^ fieldWidth f - 1) m else m) 0

/-- An entry of a block record keeps R383. -/
def entryOk (fu : Fuses) (blk : Nat) (e : Nat × Nat × Nat) : Bool :=
  let m := cfgMask fu (blk * 0x100000 + e.1)
  e.1 % 4 == 0 && decide (0x1000 ≤ e.1 ∧ e.1 < 0x100000) && m != 0 && (e.2.1 &&& m) == e.2.1

/-- The image: register offset to mask and value (R384). -/
abbrev ConfigImage := List (Nat × (Nat × Nat))

/-- A later entry for the same bits replaces an earlier one. -/
def imagePut (off mask value : Nat) (img : ConfigImage) : ConfigImage :=
  let (m, v) := mapGetD (0, 0) off img
  mapSet off (m ||| mask, (v &&& (0xFFFFFFFF ^^^ mask)) ||| (value &&& mask)) img

def imageEntries (blk : Nat) (es : List (Nat × Nat × Nat)) (img : ConfigImage) : ConfigImage :=
  es.foldl (fun g e => imagePut (blk * 0x100000 + e.1) e.2.1 e.2.2 g) img

/-- A topology record's LENGTH fits its LINKS (R328). -/
def topologyLength (b : List Byte) : Bool :=
  b.length % 4 == 0 && decide (20 ≤ b.length) && decide (bitsAt (leAt b 4 4) 16 5 ≤ 16)
    && b.length == 4 * (5 + bitsAt (leAt b 4 4) 16 5)

/-- What has been read of the store. -/
structure StoreRead where
  records : Nat
  generation : Nat
  /-- STORE_BYTES of the header -/
  bytes : Nat
  image : ConfigImage
  map : Option Nat
  topology : List (Nat × List Nat)
  /-- offset of the partition map record, and of the last KV record -/
  mapAt : Nat
  kvAt : Nat
  /-- halting status word and offset of the failing record -/
  failed : Option (Nat × Nat)
  deriving DecidableEq, Repr

def StoreRead.empty : StoreRead := ⟨0, 0, 0, [], none, [], noOffset, noOffset, none⟩

/-- One record after its CRC has matched (R381 to R384): what it adds, or the status word that halts stage 2; END ends the reading. -/
def takeRecord (fu : Fuses) (off next type : Nat) (v : List Byte) (x : StoreRead) : Bool × StoreRead :=
  let n := x.records + 1
  let bad := fun (st : Nat) => (true, { x with records := n, failed := some (st, off) })
  let invalid := bad St.MGT_CONFIG_RECORD_INVALID
  let unread := bad St.MGT_CONFIG_READ_FAILED
  let w := wordsOfBytes v
  let go := fun (y : StoreRead) => (false, { y with records := n })
  if n = 1 ∧ type ≠ 1 then unread
  else if type = 1 then
    if n ≠ 1 ∨ v.length ≠ 24 then invalid
    else
      let serial := w.getD 4 0 + w.getD 5 0 * 2 ^ 32
      if w.getD 0 0 ≠ 0x43384C44 ∨ w.getD 1 0 ≠ 1 ∨ (serial ≠ 0 ∧ serial ≠ fu.serial) then unread
      else go { x with bytes := w.getD 2 0, generation := w.getD 3 0 }
  else if type = 2 then
    if v.length ≠ 4 then invalid
    else if w.getD 0 0 ≠ n ∨ next ≠ x.bytes then unread
    else (true, { x with records := n })
  else if type = 0x10 then
    if x.map.isSome ∨ v.length ≠ 4 then invalid else go { x with map := some (w.getD 0 0), mapAt := off }
  else if type = 0x11 then
    let p := w.getD 0 0 % 4
    if !topologyLength v || (mapGet p x.topology).isSome then invalid
    else go { x with topology := mapSet p w x.topology }
  else if 0x100 ≤ type ∧ type < 0x110 then
    let es := blockEntries v
    if v.length % 12 ≠ 0 ∨ !es.all (entryOk fu (type - 0x100)) then invalid
    else go { x with image := imageEntries (type - 0x100) es x.image, kvAt := if type = 0x104 then off else x.kvAt }
  else if 2 ^ 31 ≤ type then go x
  else invalid

/-- Read records from an offset until END (R380). `badReads` names offsets whose every read fails its CRC. -/
def readStore (fu : Fuses) (b : List Byte) (badReads : List Nat) : Nat → Nat → StoreRead → StoreRead
  | 0, off, x => { x with failed := some (St.MGT_CONFIG_READ_FAILED, off) }
  | fuel + 1, off, x =>
    let fail := fun (st o : Nat) => { x with failed := some (st, o) }
    if storeLimit < off + 8 then fail St.MGT_CONFIG_READ_FAILED noOffset
    else
      let type := storeWord b off
      let len := storeWord b (off + 4)
      let pad := (4 - len % 4) % 4
      let next := off + 8 + len + pad + 4
      if valueLimit < len then fail St.MGT_CONFIG_RECORD_INVALID off
      else if storeLimit < next then fail St.MGT_CONFIG_READ_FAILED noOffset
      else if badReads.contains off || crc32cTagged off (storeAt b off (8 + len + pad)) != storeWord b (next - 4) then
        fail St.MGT_CONFIG_CRC off
      else if !(storeAt b (off + 8 + len) pad).all (fun y => y == 0) then fail St.MGT_CONFIG_RECORD_INVALID off
      else
        match takeRecord fu off next type (storeAt b (off + 8) len) x with
        | (true, x) => x
        | (false, x) => readStore fu b badReads fuel next x

/-- Stage 2 reads the store from offset 0. -/
def configStore (fu : Fuses) (b : List Byte) (badReads : List Nat) : StoreRead :=
  readStore fu b badReads (b.length / 12 + 2) 0 .empty

/-! ### Applying the image (R384, R408, R486) -/

/-- A register's word with its cfg fields taken from the image, each default where no record sets the field. -/
def cfgWord (fu : Fuses) (off cur mask value : Nat) : Nat :=
  match regAt fu off with
  | none => cur
  | some (r, i, _) => r.fields.foldl (fun w f =>
      if !f.isCfg then w
      else
        let m := fieldOf f mask
        let dflt := resetGet fu i f.reset
        let raw := (dflt &&& (2 ^ fieldWidth f - 1 - m)) ||| (fieldOf f value &&& m)
        putFieldOf f (storeValue fu w f.rule raw % 2 ^ fieldWidth f) w) cur

/-- SCORE_SCALE where no record sets it: 1 / sqrt(HEAD_DIM) in FP32, by the HEAD_DIM that the same image holds (R214, R216). -/
def scaleOfHead (code : Nat) : Nat := if code = 0 then 0x3E000000 else if code = 2 then 0x3D800000 else 0x3DB504F3

/-- What the image says of a slot page of KVC besides its fields: a KV_FORMAT of 0b11 is reported (R217), and an unset SCORE_SCALE follows
HEAD_DIM. -/
def State.applyKvPage (sl : Nat) (s : State) : State :=
  let (fm, fv) := mapGetD (0, 0) (Reg.KV_FMT sl) s.mgmt.configImage
  let s := if bitsAt (fm &&& fv) 0 2 = 3 then s.post St.KVC_FORMAT_STORED_DEFAULT else s
  if (mapGetD (0, 0) (Reg.SCORE_SCALE sl) s.mgmt.configImage).1 ≠ 0 then s
  else s.wrN (Reg.SCORE_SCALE sl) (scaleOfHead (s.rdF (Reg.KV_GEOM sl) Fld.KV_GEOM_HEAD_DIM))

/-- The image is applied to the registers that a test selects. -/
def State.applyImage (sel : Nat → Bool) (s : State) : State :=
  let s := s.overList (s.mgmt.configImage.filter (fun e => sel e.1)) (fun e t => t.wrN e.1 (cfgWord t.fuses e.1 (t.rdN e.1) e.2.1 e.2.2))
  s.overList ((List.range 8).filter (fun sl => sel (Reg.SCORE_SCALE sl))) (fun sl t => t.applyKvPage sl)

/-- The budget share of a partition: its record's, else equal shares of 100 among the partitions present, the remainder to P0 (R373). -/
def State.cfgShare (s : State) (p : Nat) : Nat :=
  let (m, v) := mapGetD (0, 0) Reg.PWR_SHARE s.mgmt.configImage
  let n := (mapParts s.mgmt.partMap).length
  let dflt := if !(mapParts s.mgmt.partMap).contains p then 0 else 100 / n + (if p = 0 then 100 % n else 0)
  (dflt &&& (0xFF - bitsAt m (8 * p) 8)) ||| (bitsAt v (8 * p) 8 &&& bitsAt m (8 * p) 8)

def State.applyShare (p : Nat) (s : State) : State := s.wrF Reg.PWR_SHARE ⟨8 * p + 7, 8 * p⟩ (s.cfgShare p)

/-! ### Shares of hand records and of the prefix zone (R32) -/

def handShareIn (w p : Nat) : Nat := bitsAt w (8 * p) 5
def prefixShareIn (w : Nat) : Nat := bitsAt w 0 9

/-- Shares in force beside a partition's own: those of the other partitions of the map. -/
def State.otherShares (s : State) (p : Nat) (share : State → Nat → Nat) : Nat :=
  (((mapParts s.mgmt.partMap).filter (fun q => q != p)).map (share s)).sum

def State.handShareOf (s : State) (p : Nat) : Nat := handShareIn (s.rdN Reg.SRV_HR_SHARE) p
def State.prefixShareOf (s : State) (p : Nat) : Nat := prefixShareIn (s.rdN (Reg.TLN_SHARE p))

/-- A partition takes its share of hand records and of the prefix zone, each cut to what the shares in force leave of 65,536 records and of
384 GiB (log 180). -/
def State.takeShares (p hand pfx park : Nat) (s : State) : State :=
  let s := s.wrF Reg.SRV_HR_SHARE ⟨8 * p + 4, 8 * p⟩ (min hand (16 - s.otherShares p State.handShareOf))
  let g := min pfx (384 - s.otherShares p State.prefixShareOf)
  let s := s.wrF (Reg.TLN_SHARE p) Fld.TLN_SHARE_SHARE_GIB g
  s.wrF (Reg.TLN_SHARE p) Fld.TLN_SHARE_PARK_GIB (min park g)

/-- Partitions give up their shares, then take those that the function gives, in ascending order. -/
def State.dealShares (ps : List Nat) (hand pfx : Nat → Nat) (s : State) : State :=
  let park := fun (p : Nat) => s.rdF (Reg.TLN_SHARE p) Fld.TLN_SHARE_PARK_GIB
  let s := s.overList ps (fun p t => t.takeShares p 0 0 0)
  s.overList ps (fun p t => t.takeShares p (hand p) (pfx p) (park p))

/-- PART_STATE shows the map (R29). -/
def State.showMap (s : State) : State :=
  s.overList (List.range 4) (fun p t =>
    t.wrF (Reg.PART_STATE p) Fld.PART_STATE_DIES ((mapDies t.mgmt.partMap p).foldl (fun a d => a + 2 ^ d) 0))

/-! ### The KV record (R186) -/

/-- The areas of a C-die are aligned, lie where R186 puts them, and do not overlap. A die without a KV region has none. -/
def State.kvLayoutOk (s : State) (d : Nat) : Bool :=
  let size := s.rdF (Reg.KV_SIZE d) Fld.KV_SIZE_UNITS_16M * 0x1000000
  let kv := s.rd64 (Reg.KV_BASE_LO d)
  let sc := s.rd64 (Reg.SCALE_BASE_LO d)
  let de := s.rd64 (Reg.DESC_BASE_LO d)
  size == 0
    || (kv % 0x1000000 == 0 && sc % 0x100000 == 0 && de % 4096 == 0
      && s.taskSpaceDie kv size == some d && s.taskSpaceDie sc (size / 16) == some d && s.inReserve d de (size / 256)
      && decide (kv + size ≤ sc ∨ sc + size / 16 ≤ kv))

/-! ### Topology (R328, R329) -/

def topoSize (w : List Nat) : Nat := bitsAt (w.getD 1 0) 0 5
def topoMember (w : List Nat) : Nat := bitsAt (w.getD 1 0) 8 4
def topoLead (w : List Nat) : Nat := bitsAt (w.getD 1 0) 12 4
def topoVia (w : List Nat) (j : Nat) : Nat := bitsAt (w.getD (3 + j / 8) 0) (4 * (j % 8)) 4
def topoEntries (w : List Nat) : List Nat := (w.drop 5).take (bitsAt (w.getD 1 0) 16 5)
def entryLink (e : Nat) : Nat := bitsAt e 0 4
def entryPeer (e : Nat) : Nat := bitsAt e 4 4

/-- The cases of R329; `others` are the links that other records name. -/
def topologyOk (fu : Fuses) (others : List Nat) (w : List Nat) : Bool :=
  let size := topoSize w
  let me := topoMember w
  let es := topoEntries w
  let links := es.map entryLink
  decide (me < size) && decide (topoLead w < size) && decide (size ≤ 16)
    && links.Nodup && links.all (fun l => decide (l < fu.linkCount) && !others.contains l)
    && es.all (fun e => entryPeer e != me && bitsAt e 12 2 != 0 && !bitOf e 15)
    && topoVia w me == me && (List.range 16).all (fun j => decide (j < size) || topoVia w j == 0)
    && (List.range size).all (fun j =>
      let v := topoVia w j
      j == me
        || (if v = me then es.any (fun e => entryPeer e == j)
            else v != j && decide (v < size) && topoVia w v == me))
    && bitsAt (w.getD 0 0) 2 14 == 0 && bitsAt (w.getD 1 0) 5 3 == 0 && bitsAt (w.getD 1 0) 21 11 == 0

/-- Links that the topology records of other partitions name. -/
def State.otherLinks (s : State) (p : Nat) : List Nat :=
  (s.mgmt.topology.filter (fun e => e.1 != p && (mapParts s.mgmt.partMap).contains e.1)).flatMap (fun e => (topoEntries e.2).map entryLink)

/-- One link of a partition's record: owned, powered up and waiting for its peer (R325, R328). -/
def State.loadLink (p e : Nat) (s : State) : State :=
  let l := entryLink e
  let s := (s.wrF (Reg.LINK_STATE l) Fld.LINK_STATE_OWNED 1).wrF (Reg.LINK_STATE l) Fld.LINK_STATE_OWNER p
  let s := (s.wrF (Reg.LINK_PEER l) Fld.LINK_PEER_PEER (entryPeer e)).wrF (Reg.LINK_PEER l) Fld.LINK_PEER_PEER_LINK (bitsAt e 8 4)
  let s := (s.wrF (Reg.LINK_PEER l) Fld.LINK_PEER_MAX_RATE (bitsAt e 12 2)).wrF (Reg.LINK_PEER l) Fld.LINK_PEER_REQUIRED (bitsAt e 14 1)
  (s.wrF (Reg.LINK_STATE l) Fld.LINK_STATE_STATE 1).putLink l { s.linkRun l with since := s.now, tries := 0 }

/-- A partition takes its group and its links from its topology record; without one it is a group of its own. -/
def State.loadTopology (p : Nat) (s : State) : State :=
  match mapGet p s.mgmt.topology with
  | none =>
    let s := s.overList (List.range 21) (fun i t => t.wrN (Reg.TOPO_COPY p i) 0)
    ((s.wrN (Reg.GROUP_STATE p) (1 * 256)).wrN (Reg.GROUP_ID p) 0).wrN (Reg.GROUP_EPOCH p) 0
  | some w =>
    let s := s.overList (List.range 21) (fun i t => t.wrN (Reg.TOPO_COPY p i) (if i < 5 then w.getD i 0 else w.getD i 0 % 2 ^ 16))
    let s := s.wrN (Reg.GROUP_STATE p) (topoMember w * 16 + topoSize w * 256 + topoLead w * 65536)
    let s := (s.wrN (Reg.GROUP_ID p) (bitsAt (w.getD 0 0) 16 16)).wrN (Reg.GROUP_EPOCH p) (w.getD 2 0)
    if topologyOk s.fuses (s.otherLinks p) w then s.overList (topoEntries w) (fun e t => t.loadLink p e)
    else (s.wrF (Reg.GROUP_STATE p) Fld.GROUP_STATE_STATE 4).postPartFatal p St.NDX_TOPOLOGY_INVALID

end Sys2Proof.Machine
end

