-- ==== Sys2Proof/Machine/DeckMap.lean ====
section
/-! DEFINITION. Machine/DeckMap.lean: the deck map as bring-up makes it: folds and exclusions of stages 0 to 7 (R385 to R387, R392, R395), the
shoe (R388 to R391), the sweeps of stage 7 (R422, R423), and the start of a partition (R218, R387, R401). -/
namespace Sys2Proof.Machine

/-! ### Folds and exclusions of bring-up -/

/-- A core is folded during bring-up: with causes 0x2 to 0x4 as a permanent record (R395, R428). -/
def State.bootFoldCore (n cause : Nat) (s : State) : State :=
  if !s.coreWorking n then s
  else
    let s := s.markCore n cause
    if 2 ≤ cause ∧ cause ≤ 4 then (s.ledgerAdd (0x1000 + coreDie n) 5).ledgerRecord (0x2000 + n) 0 3 cause true else s

/-- A cluster is folded during bring-up, and its cores with cause 0x8 (R386). -/
def State.bootFoldCluster (c cause : Nat) (s : State) : State :=
  if !s.clusterWorking c then s
  else
    let s := s.overList ((List.range 16).map (· + 16 * c)) (fun n t => t.bootFoldCore n 8)
    let s := s.markCluster c cause
    if cause = 2 then (s.ledgerAdd (0x1000 + c / 24) 6).ledgerRecord (0x3000 + c) 0 3 cause true else s

/-- Bits of the deck map that belong to a C-die: itself, its stacks, its edge engine (R392). -/
def dieDeckBits (d : Nat) : List Nat := [d, 4 + 2 * d, 5 + 2 * d, 12 + d]

/-- A C-die is excluded (R387). -/
def State.excludeDie (d : Nat) (s : State) : State :=
  if s.mgmt.excludedDies.contains d then s
  else
    let s := s.overList ((List.range 384).map (· + 384 * d)) (fun n t => t.bootFoldCore n 9)
    let s := s.overList ((List.range 24).map (· + 24 * d)) (fun c t => t.bootFoldCluster c 9)
    let s := { s with mgmt := { s.mgmt with excludedDies := setInsert d s.mgmt.excludedDies } }
    let s := s.overList (dieDeckBits d) (fun i t => t.putBit Reg.DECK_DIES i false)
    (s.ledgerRecord (0x1000 + d) St.MGT_DIE_EXCLUDED 4 0 true).postAt (0x1000 + d) St.MGT_DIE_EXCLUDED

def bitsOf (l : List Nat) : Nat := l.foldl (fun a i => a + 2 ^ i) 0

/-- Stage 0: everything fitted works but the fused folds; links are not up yet (R392). -/
def State.freshDeck (s : State) : State :=
  let s := { s with ledger := { s.ledger with
    counters := mapDrop (fun k => k % 16 == 1 && inRange 0x20000 (16 * 1536) k) s.ledger.counters } }
  let s := s.overList (List.range 48) (fun i t => t.wrN (Reg.CORE_MAP i) 0xFFFFFFFF)
  let s := s.overList (List.range 3) (fun i t => t.wrN (Reg.CLUSTER_MAP i) 0xFFFFFFFF)
  let s := s.wrN Reg.DECK_DIES
    (15 + bitsOf ((List.range 8).filter s.fuses.stackFitted) * 16 + 15 * 4096 + (2 ^ s.fuses.reckonerCount - 1) * 65536)
  let s := s.wrN Reg.DECK_LINKS ((2 ^ s.fuses.pipeCount - 1) * 65536)
  let s := s.wrN Reg.DECK_TALON (0xFFFF - s.rdF Reg.TLN_STATE Fld.TLN_STATE_FAILED_TC)
  s.overList s.fuses.foldedCores (fun n t => t.bootFoldCore n 1)

/-- Working cores of a C-die. -/
def State.workingCores (s : State) (d : Nat) : Nat := ((List.range 384).filter (fun k => s.coreWorking (384 * d + k))).length

/-! ### Stage 4: routes of an X1 module (R25) -/

/-- C-dies on the primary and the alternate route of C-die 1 or 3. -/
def transitRoutes (d : Nat) : List Nat × List Nat := if d = 1 then ([0], [3, 2]) else ([2], [1, 0])

/-- On X1 a die whose primary route is broken takes its alternate; with both broken it reaches no X-die and is excluded (DEDUCED, log 256). -/
def State.chooseRoute (bad : List Nat) (d : Nat) (s : State) : State :=
  let (primary, other) := transitRoutes d
  if s.fuses.x2 || bad.contains d || !primary.any bad.contains then s
  else if other.any bad.contains then s.excludeDie d
  else (s.putBit Reg.DECK_TALON (if d = 1 then 16 else 17) true).postAt (0x1000 + d) St.MGT_ROUTE_ALTERNATE

/-- Edges of R22 in table order: a C-die or an X-die (4 + x) at either end. -/
def dieEdges : List (Nat × Nat) := [(0, 1), (2, 3), (0, 2), (1, 3), (4, 0), (4, 2), (5, 1), (5, 3)]

/-! ### Stage 5: retirements (R137, R138, R385, R386) -/

def State.takeSpare (d n : Nat) (s : State) : State :=
  { s with memory := { s.memory with sparesTaken := mapSet d (max (n + 1) (s.sparesTaken d)) s.memory.sparesTaken } }

/-- An entry goes into the retirement list without a new record in the ledger. -/
def State.restoreEntry (e : RetireEntry) (s : State) : State :=
  let h := s.ledger
  let c := s.rdN (Reg.HLT_COUNTER 4)
  let s := s.enterRetirement e
  { s.wrN (Reg.HLT_COUNTER 4) c with ledger := { h with counters := s.ledger.counters } }

/-- A recorded retirement is re-applied (R138): false where its list is full. DESIGN CHOICE (log 175): an unmapping re-applied sets EXHAUSTED and
reports nothing. -/
def State.reapplyRetirement (value : Nat) (s : State) : Bool × State :=
  let d := bitsAt value 32 2
  let page := bitsAt value 0 16
  let spare := bitsAt value 16 6
  let unmapped := bitOf value 29
  if s.listFull d page unmapped then (false, s)
  else
    let s := if unmapped then s.wrF (Reg.MEM_LAYOUT d) Fld.MEM_LAYOUT_EXHAUSTED 1 else s.takeSpare d spare
    (true, s.restoreEntry ⟨d, page, if unmapped then none else some spare, true, bitOf value 30⟩)

/-- A page that fails the memory test is retired at once (R386): false where its list is full. -/
def State.bootRetire (d page : Nat) (s : State) : Bool × State :=
  let n := s.sparesTaken d
  if s.pageUnmapped d page then (true, s)
  else if n < 64 then
    if s.listFull d page false then (false, s)
    else (true, (s.takeSpare d n).enterRetirement ⟨d, page, some n, true, false⟩)
  else if s.listFull d page true then (false, s)
  else (true, s.unmapPage d page false true)

/-- Where a retirement cannot be made, its die is excluded. -/
def orExclude (d : Nat) (r : Bool × State) : State := if r.1 then r.2 else r.2.excludeDie d

/-- Permanent records of a kind, in the order they were made. -/
def State.permanents (s : State) (kind : Nat) : List LedgerRecord := s.ledger.history.filter (fun r => r.permanent && r.kind == kind)

/-- Recorded folds are re-applied with cause 0x5, or, retested, only where they fail again (R385, R395). -/
def State.recordedFolds (retest : Bool) (cores clusters : List Nat) (s : State) : State :=
  s.overList (s.permanents 3) (fun r t =>
    let i := r.part % 4096
    if r.part / 4096 = 2 then if retest && !cores.contains i then t else t.bootFoldCore i 5
    else if r.part / 4096 = 3 then if retest && !clusters.contains i then t else t.bootFoldCluster i 5
    else t)

/-- C-dies with a recorded pseudo-channel failure (R140). -/
def State.channelDies (s : State) : List Nat :=
  (s.permanents 4).filterMap (fun r => if r.part / 4096 = 4 then some (r.part % 4096 / 2) else none)

/-- At the end of the memory test every word holds zero with valid check bits (R385). -/
def State.zeroMemory (s : State) : State :=
  { s with memory := { s.memory with
    mem := [], single := [], double := [], lost := [], sramSingle := [], sramDouble := [], pageCe := [], sramUe := [] } }

/-! ### Stage 7: the shoe (R388 to R391) -/

/-- The packet SEQ of an image (R388): a 32-byte header and 4,096 bytes of the image, zeros beyond its end. -/
def shoePacket (image : List Byte) (count seq : Nat) : List Byte :=
  let payload := (List.range 4096).map (fun i => image.getD (4096 * seq + i) 0)
  let head := leBytes 2 0x5E0E ++ leBytes 1 seq ++ leBytes 1 count ++ leBytes 4 image.length ++ leBytes 4 (imageCrc image)
  let tail := List.replicate 16 (0 : Byte) ++ payload
  head ++ leBytes 4 (crc32cTagged seq (head ++ leBytes 4 0 ++ tail)) ++ tail

/-- Packets of an image, 1 to 32 (R388). -/
def shoeCount (bytes : Nat) : Nat := max 1 (min 32 ((bytes + 4095) / 4096))

/-- One target of the shoe: what happens on its way, its firmware store with the received-packet bitmap and the fields of the last good header,
and the packets it reports missing. -/
structure ShoeTarget where
  env : ShoeCore
  received : List Nat
  store : List Byte
  count : Nat
  imageBytes : Nat
  imageCrc : Nat
  missing : List Nat
  deriving DecidableEq, Repr

/-- A core takes a packet whose CRC matches, and drops any other (R389). -/
def ShoeTarget.take (b : List Byte) (t : ShoeTarget) : ShoeTarget :=
  let seq := leAt b 2 1
  if b.length ≠ 4128 ∨ 32 ≤ seq ∨ crc32cTagged seq (b.take 12 ++ leBytes 4 0 ++ b.drop 16) ≠ leAt b 12 4 then t
  else
    let old := t.store ++ List.replicate (4096 * seq - t.store.length) 0
    { t with
      received := setInsert seq t.received
      store := old.take (4096 * seq) ++ b.drop 32 ++ old.drop (4096 * (seq + 1))
      count := leAt b 3 1, imageBytes := leAt b 4 4, imageCrc := leAt b 8 4 }

/-- The bitmap is full. -/
def ShoeTarget.full (t : ShoeTarget) : Bool := t.count != 0 && (List.range t.count).all t.received.contains
/-- The whole-image CRC matches IMAGE_CRC. -/
def ShoeTarget.whole (t : ShoeTarget) : Bool := crc32cTagged t.imageBytes (t.store.take t.imageBytes) == t.imageCrc

/-- Delivery k brings packets of an image to a core, and it reports what it misses (R389), unless the report is lost: all missing (R390). -/
def ShoeTarget.deliver (image : List Byte) (n k : Nat) (packets : List Nat) (report : Bool) (t : ShoeTarget) : ShoeTarget :=
  let altered := t.env.altered.getD k []
  let t := packets.foldl (fun t q => t.take ((mapGet q altered).getD (shoePacket image n q))) t
  if !report then t
  else
    let t := if t.full && !t.whole then { t with received := [] } else t
    { t with missing := if t.env.silent.contains k then List.range n else (List.range n).filter (fun q => !t.received.contains q) }

/-- Up to four rounds: the union of the missing packets goes to every target, and those with missing packets report. Answers the
number of rounds. -/
def shoeRounds (image : List Byte) (n : Nat) : Nat → Nat → List ShoeTarget → Nat × List ShoeTarget
  | 0, k, l => (k, l)
  | f + 1, k, l =>
    let u := (List.range n).filter (fun q => l.any (fun t => t.missing.contains q))
    if u.isEmpty then (k, l)
    else shoeRounds image n f (k + 1) (l.map (fun t => t.deliver image n (k + 1) u (!t.missing.isEmpty)))

/-- Up to two unicasts to a core that still misses packets. Answers how many were made. -/
def shoeUnicasts (image : List Byte) (n : Nat) : Nat → Nat → ShoeTarget → Nat × ShoeTarget
  | 0, _, t => (0, t)
  | f + 1, k, t =>
    if t.missing.isEmpty then (0, t)
    else
      let r := shoeUnicasts image n f (k + 1) (t.deliver image n k t.missing true)
      (r.1 + 1, r.2)

structure ShoeResult where
  packets : Nat
  rounds : Nat
  unicasts : Nat
  /-- the targets that met a difficulty, as ACTIVATE finds them -/
  targets : List ShoeTarget
  deriving DecidableEq, Repr

/-- Cores that still miss packets, or that ACTIVATE does not start (R390, R391). -/
def ShoeResult.failed (r : ShoeResult) : List Nat :=
  (r.targets.filter (fun t => !t.missing.isEmpty || !t.full || !t.whole)).map (fun t => t.env.core)

/-- The shoe over the cores that meet a difficulty; every other target receives and reports the whole image in the pass. -/
def runShoe (image : List Byte) (envs : List ShoeCore) : ShoeResult :=
  let n := shoeCount image.length
  let l := envs.map (fun e => (ShoeTarget.mk e [] [] 0 0 0 []).deliver image n 0 (List.range n) true)
  let (rounds, l) := shoeRounds image n 4 0 l
  let u := l.map (fun t => shoeUnicasts image n 2 (rounds + 1) t)
  ⟨n, rounds, (u.map (fun r => r.1)).sum, u.map (fun r => r.2)⟩

/-- Every working core has started its image (R389, R391): the cores of the shoe's trouble the one that their store holds. -/
def State.startFirmware (r : ShoeResult) (image : List Byte) (s : State) : State :=
  let full := ShoeTarget.mk ⟨0, [], []⟩ [] image r.packets image.length (imageCrc image) []
  { s with cores := ((List.range 1536).filter s.coreWorking).map (fun n =>
    let t := (r.targets.find? (fun t => t.env.core == n)).getD full
    (n, { s.coreAt n with
      fwReceived := 2 ^ t.count - 1, fwBytes := t.store.take t.imageBytes, fwCount := t.count, fwImageBytes := t.imageBytes
      fwImageCrc := t.imageCrc, fwStarted := true })) }

/-! ### Stage 7: sweeps and check-value units (R422, R423) -/

/-- A core that differs in both sweeps is folded with cause 0x4. -/
def State.katBoot (n : Nat) (s : State) : State :=
  if !s.coreWorking n then s else ((s.bootFoldCore n 4).ledgerAdd (0x1000 + coreDie n) 4).setAlert 2

/-! ### The prefix index's areas (R218) -/

/-- n bytes from a and m bytes from b share none. -/
def apart (a n b m : Nat) : Bool := n == 0 || m == 0 || decide (a + n ≤ b ∨ b + m ≤ a)

/-- The areas of a partition's index keep R218. -/
def State.indexAreasOk (s : State) (p : Nat) : Bool :=
  let lim := s.nodeLimit p
  let d := (s.partDies p).headD 0
  let node := s.rd64 (Reg.NODE_BASE_LO p)
  let bucket := s.rd64 (Reg.BUCKET_BASE_LO p)
  let kitties := ((List.range 8).filter (fun sl => s.slotOwned sl && s.slotOwner sl == p)).map (fun sl =>
    (s.kittyBase sl d, s.rdN (Reg.KITTY_ENTRIES sl) * s.kittyEntryBytes sl))
  let free := fun a n => s.taskSpaceDie a n == some d && a % 4096 == 0
    && apart a n (s.rd64 (Reg.KV_BASE_LO d)) (s.rdF (Reg.KV_SIZE d) Fld.KV_SIZE_UNITS_16M * 0x1000000)
    && kitties.all (fun k => apart a n k.1 k.2)
  (List.range 9).any (fun i => lim == 2 ^ (16 + i))
    && decide (((List.range 4).map s.nodeLimit).sum ≤ 16777216)
    && free node (lim * 128) && free bucket (lim * 4) && apart node (lim * 128) bucket (lim * 4)

/-- At the start of a partition an index whose areas break R218 is disabled. -/
def State.checkIndex (p : Nat) (s : State) : State :=
  let off := s.nodeLimit p != 0 && !s.indexAreasOk p
  let s := { s with pfx := { s.pfx with
    disabled := if off then setInsert p s.pfx.disabled else setErase p s.pfx.disabled } }
  if off then s.post St.PFX_PFX_AREA_INVALID
  else if s.indexOn p then
    -- every chain is empty (R220)
    s.engineWrite (s.rd64 (Reg.BUCKET_BASE_LO p)) (List.replicate (s.nodeLimit p) (leBytes 4 nullNode)).flatten
  else s

/-! ### The start of a partition (R387, R401) -/

/-- SLOT_CTRL LEAD follows the topology record (R142). -/
def State.showLeads (p : Nat) (s : State) : State :=
  let lead := boolNat (s.groupMember p == s.groupLead p)
  s.overList ((List.range 8).filter (fun sl => s.slotOwned sl && s.slotOwner sl == p)) (fun sl t =>
    t.wrF (Reg.SLOT_CTRL sl) Fld.SLOT_CTRL_LEAD lead)

/-- Registers that show a partition's free storage and records as they stand after a reset. -/
def State.showFree (p : Nat) (s : State) : State :=
  (s.overList (s.partDies p) (fun d t => t.putStock d (t.stockOf d))).showServing p

/-- A partition that contains an excluded C-die is not started; one whose group is degraded or invalid stays stopped (R15, R329, R331);
another runs. -/
def State.startPartition (p : Nat) (s : State) : State :=
  if (s.partDies p).any s.mgmt.excludedDies.contains then
    (s.wrF (Reg.PART_STATE p) Fld.PART_STATE_STATE 5).post St.RST_PARTITION_NOT_STARTED
  else
    let s := s.checkIndex p
    if 2 ≤ s.groupState p then s.wrF (Reg.PART_STATE p) Fld.PART_STATE_STATE 4
    else
      let s := s.overList (s.otherMembers p) (fun j t => t.putPeer p j { t.peerAt p j with lastHeard := t.now })
      ((s.wrF (Reg.PART_STATE p) Fld.PART_STATE_STATE 1).setRunning p true).post St.RST_RESET_DONE

end Sys2Proof.Machine
end

