-- ==== Sys2Proof/Machine/BringUp.lean ====
section
/-! DEFINITION. Machine/BringUp.lean: bring-up, stages 0 to 8 (R375 to R378, R384 to R395), and the wait for peers at stage 6 (R325). -/
namespace Sys2Proof.Machine

/-! ### Stages (R376, R377) -/

def msNs : Nat := 1000000

def State.advance (ms : Nat) (s : State) : State := s.passTime (ms * msNs)

def State.stageBegin (k : Nat) (s : State) : State :=
  let s := s.wrF Reg.MGT_STATE Fld.MGT_STATE_STAGE k
  { s with mgmt := { s.mgmt with stageStart := s.now, stageStatus := 0 } }

/-- The report of a stage; `words` are its words 4 to 15 by number. -/
def State.stageReport (k result : Nat) (words : List (Nat × Nat)) (s : State) : State :=
  let s := (s.wrF (Reg.STAGE_STATUS k) Fld.STAGE_STATUS_STATUS s.mgmt.stageStatus).wrF (Reg.STAGE_STATUS k) Fld.STAGE_STATUS_RESULT result
  let s := (s.wrN (Reg.STAGE_DURATION k) ((s.now - s.mgmt.stageStart) / msNs)).wr64 (Reg.STAGE_START_LO k) s.mgmt.stageStart
  s.overList words (fun w t => t.wrN (Reg.STAGE_WORD k (w.1 - 4)) w.2)

def State.stagePass (k : Nat) (words : List (Nat × Nat)) (s : State) : State :=
  s.stageReport k (if 2 ≤ stSeverity s.mgmt.stageStatus then 2 else 1) words

/-- The history record of a bring-up (R428, R429): written once the history is loaded at stage 3, or when bring-up ends before. -/
def State.bringUpRecord (s : State) : State := s.ledgerRecord 0 0 7 0 false

/-- A bring-up that ends in a stage before the history has been loaded is recorded then. -/
def State.recordEarly (k : Nat) (s : State) : State := if k ≤ 3 then s.bringUpRecord else s

/-- A halt: HALTED, with the status word (R377). -/
def State.stageHalt (k st : Nat) (words : List (Nat × Nat)) (s : State) : State := ((s.recordEarly k).postFatal st).stageReport k 3 words

/-- Bring-up has ended: it has halted, or a loss has taken the module to STANDBY. -/
def State.bringUpOver (s : State) : Bool := s.mgmt.fatal.isSome || s.power.standby

/-- A loss ends bring-up in stage k (R469): the stage's work does not count, and a mount writes nothing. -/
def State.lossInStage (k : Nat) (l : StageLoss) (s : State) : State :=
  let s := s.recordEarly k
  if l.input then s.loseInput l.reading else s.losePresence

/-- The loss, if it falls in stage k. -/
def lossIn (k : Nat) (l : Option StageLoss) : Option StageLoss := l.filter (fun (x : StageLoss) => x.stage == k)

/-- What the work of a stage leaves: its report's words, and the status word that halts it, if any. -/
abbrev StageWork := State → State × (List (Nat × Nat) × Option Nat)

/-- Run a stage that takes `ms` against its bound, unless bring-up is over or a loss ends it here. -/
def State.runStage (k ms bound : Nat) (loss : Option StageLoss) (work : StageWork) (s : State) : State :=
  if s.bringUpOver then s
  else
    let s := s.stageBegin k
    match lossIn k loss with
    | some l => (s.advance (min ms bound)).lossInStage k l
    | none =>
    if bound < ms then (s.advance bound).stageHalt k St.MGT_STAGE_TIMEOUT []
    else
      match work (s.advance ms) with
      | (s, (words, none)) => s.stagePass k words
      | (s, (words, some st)) => s.stageHalt k st words

/-- A part read from the NOR after stage 1 fails its recheck: DIGEST_MISMATCH, module-fatal (R444). -/
def digestFatal : Nat := 0xD539

def withPart (bad : Bool) (work : StageWork) : StageWork := fun s => if bad then (s, ([], some digestFatal)) else work s

/-! ### The work of the stages -/

/-- Stage 0: fuses and the hold-up bank (R431). -/
def stage0 (b : Boot) : StageWork := fun s =>
  let s := s.freshDeck.measureHoldup b.holdup
  (s, ([(4, s.fuses.variantCode + boolNat s.fuses.gradeL * 4 + min 0x7FF s.fuses.foldedCores.length * 65536)], none))

/-- Stage 1: the resident loader (R454), then the power manager (R360). -/
def stage1 (b : Boot) : StageWork := fun s =>
  let s := { s with update := { s.update with stage1At := s.mgmt.stageStart, recovery := false } }
  match s.loadBoot.selectSlot b.damaged with
  | (false, s) => (({ s with update := { s.update with recovery := true } }).showUpdate, ([], some St.UPD_NO_BOOTABLE_SLOT))
  | (true, s) =>
    let words := [(4, s.rdF Reg.UPD_STATE Fld.UPD_STATE_BOOTED + 2 * s.rdF Reg.UPD_STATE Fld.UPD_STATE_FELL_BACK),
      (5, s.update.bootedVersion)]
    (s.showUpdate.startPower, (words, none))

/-- Stage 2: the store is read, and its image applied to every cfg field (R379 to R384, R408); the endpoint trains whatever the outcome
(R377). -/
def stage2 (b : Boot) : StageWork := fun s =>
  let x := configStore s.fuses b.store b.badReads
  let s := { s with
    mgmt := { s.mgmt with configImage := x.image, partMap := x.map.getD 0, topology := x.topology }
    update := { s.update with configDigest := shake256 (b.store.take x.bytes) 64 } }
  let failing := match x.failed with
    | some f => some f
    | none => if !mapOk s.mgmt.partMap then some (St.MGT_PARTITION_MAP_INVALID, x.mapAt) else none
  let words := fun off => [(4, x.bytes), (5, x.generation), (6, x.records % 65536 + (mapParts s.mgmt.partMap).length * 65536), (7, off)]
  match failing with
  | some (st, off) =>
    ((s.applyImage (inRange 0xA00000 0x100000)).trainPcie b.host.1 b.host.2, (words off, some st))
  | none =>
    let s := (s.resetRegs Reg.PWR_CAP 16).applyImage (fun _ => true)
    let s := ((s.wrN Reg.MGT_CFG_GEN x.generation).wrN Reg.MGT_CFG_BYTES x.bytes).showMap
    let s := s.overList (List.range 4) (fun p t => t.applyShare p)
    let s := s.dealShares (mapParts s.mgmt.partMap) s.handShareOf s.prefixShareOf
    let s := s.wrF Reg.PWR_CAP_EFF Fld.PWR_CAP_EFF_EFF_CAP_W s.capNow
    let s := s.recomputeBudgets.trainPcie b.host.1 b.host.2
    if (List.range 4).all s.kvLayoutOk then (s, (words noOffset, none)) else (s, (words x.kvAt, some St.MGT_KV_RECORD_INVALID))

/-- Stage 3: Talon mounts, and the ledger's history is loaded (R247, R426, R428). -/
def stage3 (b : Boot) : StageWork := fun s =>
  if b.metadataLost || systemLost b.codewords then
    ((s.wrF Reg.TLN_STATE Fld.TLN_STATE_MOUNT 4).ledgerVolatile, ([(4, 4)], some St.TLN_METADATA_LOST))
  else
    let pulled := ((s.markerFound b.badMarkers).map (fun m => m.kind)) == some 2
    let s := s.mountTalon b.lostExtents b.lostImages b.badMarkers b.factoryBad b.codewords
    let s := s.count Reg.MGT_BRINGUPS
    let s := s.ledgerAdd 0 1
    let s := if pulled then s.ledgerAdd 0 4 else s
    let s := s.wrF Reg.HLT_STATE Fld.HLT_STATE_LEDGER 0
    let s := { s with ledger := { s.ledger with
      history := s.ledger.unwritten.foldl putHistory s.ledger.history, unwritten := [] } }
    let s := s.bringUpRecord
    let folds := (s.permanents 3).length
    (s, ([(4, s.rdF Reg.TLN_STATE Fld.TLN_STATE_MOUNT + s.rdF Reg.TLN_STATE Fld.TLN_STATE_MARKER * 16),
      (5, min 65535 (s.permanents 2).length + min 65535 folds * 65536)], none))

/-- Some C-die is left. -/
def State.someDie (s : State) : Option Nat := if s.mgmt.excludedDies.length = 4 then some St.MGT_NO_WORKING_DIE else none

/-- Stage 4: fabrics, edges, routes, HBM interfaces (R22, R25, R387, R430). -/
def stage4 (b : Boot) : StageWork := fun s =>
  let bad := (List.range 4).filter b.badFabrics.contains
  let s := { s with mgmt := { s.mgmt with fabricDown := bad } }
  let s := s.overList bad (fun d t => t.excludeDie d)
  let s := s.overList [1, 3] (fun d t => t.chooseRoute bad d)
  let dead := (List.range 8).filter (fun i => s.fuses.stackFitted i && b.badStacks.contains i)
  let s := s.overList dead (fun i t => t.excludeDie (i / 2))
  let s := s.measureDrift b.frequencies
  let edges := (List.range 8).filter (fun i =>
    let e := dieEdges.getD i (0, 0)
    !b.badEdges.contains i && !bad.contains e.1 && !bad.contains e.2 && (e.1 != 5 || s.fuses.x2))
  let trained := (List.range 8).filter (fun i =>
    s.fuses.stackFitted i && !b.badStacks.contains i && !s.mgmt.excludedDies.contains (i / 2))
  (s, ([(4, (15 - bitsOf bad) + bitsOf edges * 16 + bitsOf trained * 65536)], s.someDie))

/-- Stage 5: the memory test (R385, R386). -/
def stage5 (b : Boot) : StageWork := fun s =>
  let retest := s.rdB Reg.RST_CFG Fld.RST_CFG_FOLD_POLICY
  let s := s.overList (s.permanents 2) (fun r t =>
    if t.mgmt.excludedDies.contains (bitsAt r.value 32 2) then t else orExclude (bitsAt r.value 32 2) (t.reapplyRetirement r.value))
  let s := s.recordedFolds retest b.refoldCores b.refoldClusters
  let recorded := if retest then s.channelDies.filter (fun d => (b.refailChannels.map (· / 64)).contains d) else s.channelDies
  let s := s.overList (recorded ++ b.badChannels.map (· / 64)) (fun d t => if d < 4 then t.excludeDie d else t)
  let s := s.overList b.badPages (fun x t =>
    let d := x / 65536
    if 4 ≤ d ∨ t.fitted ≤ x % 65536 * pageSize ∨ t.mgmt.excludedDies.contains d then t else orExclude d (t.bootRetire d (x % 65536)))
  let cores := b.badCores.filter s.coreWorking
  let s := s.overList cores (fun n t => t.bootFoldCore n 2)
  let clusters := b.badClusters.filter s.clusterWorking
  let s := (s.overList clusters (fun c t => t.bootFoldCluster c 2)).zeroMemory
  let s := s.overList (List.range 4) (fun d t => t.ledgerPut (0x1000 + d) 10 (64 - t.sparesTaken d))
  let made := fun d => min 255 (s.entriesOf d).length * 2 ^ (8 * d)
  let left := fun d => (64 - s.sparesTaken d) * 2 ^ (8 * d)
  (s, ([(4, s.rdF Reg.RST_CFG Fld.RST_CFG_MEMTEST_DEPTH + bitsOf s.mgmt.excludedDies * 16),
    (5, ((List.range 4).map made).sum), (6, ((List.range 4).map left).sum),
    (7, cores.length % 65536 + clusters.length * 65536)], s.someDie))

/-- Bound of stage 5 by depth in ms, with 10 µs per retirement. -/
def State.memtestBound (s : State) (pages : Nat) : Nat :=
  let d := s.rdF Reg.RST_CFG Fld.RST_CFG_MEMTEST_DEPTH
  (if d = 0 then 15000 else if d = 2 then 420000 else 240000) + ((s.permanents 2).length + pages) / 100

/-- Links in a state. -/
def State.linksIn (s : State) (st : List Nat) : List Nat := (List.range 16).filter (fun l => st.contains (s.linkState l))

def State.existingParts (s : State) : List Nat := (List.range 4).filter s.partExists

/-- Every partition takes its group and its links (R325, R328, R345). -/
def State.loadGroups (s : State) : State := s.overList s.existingParts (fun p t => (t.loadTopology p).showLeads p)

/-- The end of stage 6: group states are set (R331), and the stage reports. -/
def stage6End : StageWork := fun s =>
  let s := s.overList s.existingParts (fun p t => t.evaluateGroup p)
  let narrow := (s.linksIn [3]).filter (fun l =>
    s.rdF (Reg.LINK_STATE l) Fld.LINK_STATE_WIDTH < 3 || s.rdF (Reg.LINK_STATE l) Fld.LINK_STATE_RATE < s.rdF (Reg.LINK_PEER l) Fld.LINK_PEER_MAX_RATE)
  let groups := fun st => bitsOf (s.existingParts.filter (fun p => s.groupState p == st))
  (s, ([(4, bitsOf (s.linksIn [1, 2, 3, 4, 5]) + bitsOf (s.linksIn [3]) * 65536), (5, bitsOf narrow + bitsOf (s.linksIn [5]) * 65536),
    (6, bitsAt (s.rdN Reg.DECK_TALON) 16 2 + groups 2 * 16 + groups 4 * 256 + s.rdF Reg.PCI_LINK Fld.PCI_LINK_SPEED * 65536
      + s.rdF Reg.PCI_LINK Fld.PCI_LINK_WIDTH * 2 ^ 20)], none))

/-- Stage 7: the shoe, the known-answer sweeps, the deck map's epoch (R390, R391, R394, R395, R422, R423). -/
def stage7 (l : LateBoot) : StageWork := withPart l.badPart fun s =>
  let image := s.bootedImage
  let r := runShoe image (l.shoe.filter (fun e => s.coreWorking e.core))
  let folded := (List.range 1536).filter (fun n => s.coreWorking n && (r.failed.contains n || l.noStart.contains n))
  let s := (s.overList folded (fun n t => t.bootFoldCore n 3)).startFirmware r image
  let kats := (l.kat.filter l.katAgain.contains).filter s.coreWorking
  let s := s.overList kats (fun n t => t.katBoot n)
  let s := s.overList l.badUnits (fun u t => t.failUnit u)
  let epoch := (s.permanents 5).foldl (fun m e => max m e.value) 0 + 1
  let s := ((s.wrN Reg.DECK_EPOCH epoch).wrN Reg.DEAL_DECK_EPOCH epoch).ledgerRecord 0 0 5 epoch true
  let live := (List.range 4).filter (fun d => !s.mgmt.excludedDies.contains d)
  let total := ((List.range 4).map s.workingCores).sum
  let s := if total < 1440 ∨ live.any (fun d => decide (s.workingCores d < 352)) then s.post St.MGT_CORES_BELOW_GUARANTEE else s
  let clusters := ((List.range 96).filter s.clusterWorking).length
  (s, ([(4, r.packets + r.rounds * 256 + min 255 r.unicasts * 65536), (5, folded.length + kats.length * 65536),
    (6, total + clusters * 65536), (7, epoch)], none))

/-- Stage 8: partitions start, and the module is ready (R376, R387, R352). -/
def stage8 : StageWork := fun s =>
  let s := s.wrF Reg.MGT_STATE Fld.MGT_STATE_STATE 1
  let s := (s.overList s.existingParts (fun p t => (t.startPartition p).showFree p)).recomputeBudgets
  let s := (s.wrF Reg.PWR_STATE Fld.PWR_STATE_STATE 2).post St.MGT_MODULE_READY
  let parts := fun st => bitsOf (s.existingParts.filter (fun p => s.partState p == st))
  (s, ([(4, parts 1 + parts 5 * 16)], none))

/-- Stages 7 and 8. -/
def State.lateStages (l : LateBoot) (s : State) : State := (s.runStage 7 l.ms7 6000 l.loss (stage7 l)).runStage 8 l.ms8 1000 l.loss stage8

/-- Bound of stage 6 in ms. -/
def State.peerBound (s : State) : Nat := s.rdF Reg.NDX_CFG2 Fld.NDX_CFG2_PEER_WAIT_S * 1000 + 1500

/-- Stage 6: assigned links wait for their peers; without any, the stage ends at once. -/
def State.stage6Begin (b : Boot) (s : State) : State :=
  if s.bringUpOver then s
  else
    let s := (s.stageBegin 6).loadGroups
    match lossIn 6 b.late.loss with
    | some l => (s.advance (min (b.ms.getD 6 0) s.peerBound)).lossInStage 6 l
    | none =>
    if b.badPart = some 6 then s.stageHalt 6 digestFatal []
    else if s.peerBound < b.ms.getD 6 0 then (s.advance s.peerBound).stageHalt 6 St.MGT_STAGE_TIMEOUT []
    else
      let s := s.advance (b.ms.getD 6 0)
      if (s.linksIn [1, 2]).isEmpty then
        let r := stage6End s
        (r.1.stagePass 6 r.2.1).lateStages b.late
      else { s with mgmt := { s.mgmt with waitingPeers := true } }

/-- Stage 0 begins (R352, R467, R472): the module leaves STANDBY, SLOT_ID is sampled, the rails come into regulation and PWR_GOOD rises, whether or
not the hold-up bank charges in time; the ledger is loading. -/
def State.leaveStandby (s : State) : State :=
  let s := (s.wrF Reg.HLT_STATE Fld.HLT_STATE_LEDGER 2).setPowerGood true
  { s with
    power := { s.power with standby := false }
    mgmt := { s.mgmt with fatal := none }
    side := { s.side with slotId := s.side.slotIdLine } }

/-- The stages of bring-up, from stage 0. -/
def State.runStages (b : Boot) (s : State) : State :=
  let ms := fun k => b.ms.getD k 0
  let bad := fun k => decide (b.badPart = some k)
  let loss := b.late.loss
  let s := (s.leaveStandby.runStage 0 (ms 0) 1000 loss (stage0 b)).runStage 1 (ms 1) 3000 loss (stage1 b)
  let s := s.runStage 2 (ms 2) 2000 loss (fun t => if bad 2 then (t.trainPcie b.host.1 b.host.2, ([], some digestFatal)) else stage2 b t)
  -- the endpoint trains even where stage 2 has run out of time (R377)
  let s := if 2000 < ms 2 ∧ s.power.standby = false ∧ s.rdF Reg.MGT_STATE Fld.MGT_STATE_STAGE = 2 then s.trainPcie b.host.1 b.host.2 else s
  let s := s.runStage 3 (ms 3) 22000 loss (withPart (bad 3) (stage3 b))
  let s := s.runStage 4 (ms 4) 6000 loss (withPart (bad 4) (stage4 b))
  let s := s.runStage 5 (ms 5) (s.memtestBound b.badPages.length) loss (stage5 b)
  s.stage6Begin b

/-- Bring-up (R375), in a module that has just been reset, or that a trip has left in STANDBY (R352, R371). With PRSNT_N absent it is a loss at once
(R469): the module stays in STANDBY, and writes nothing. -/
def State.bringUp (b : Boot) (s : State) : State := if s.side.present then s.runStages b else s

/-- The 48 V bus is present and RESET_N is released: bring-up can begin (R375). -/
def State.canStart (s : State) : Bool := s.side.bus48 && !s.side.resetAsserted

/-- A module-level reset's last part (R404): every domain powers down, and bring-up begins, at once or at the release of RESET_N. -/
def State.restart (b : Boot) (s : State) : State :=
  let s := s.enterStandby
  if s.canStart then s.bringUp b else s

/-! ### The wait for peers (R325, R376) -/

/-- Stage 6 ends once every assigned link is up or down. -/
def State.peersSettled (l : LateBoot) (s : State) : State :=
  if !s.mgmt.waitingPeers || !(s.linksIn [1, 2]).isEmpty then s
  else
    let s := { s with mgmt := { s.mgmt with waitingPeers := false } }
    let r := stage6End s
    (r.1.stagePass 6 r.2.1).lateStages l

end Sys2Proof.Machine
end

