-- ==== Sys2Proof/Machine/Resets.lean ====
section
/-! DEFINITION. Machine/Resets.lean: resets of every scope, drain and absorb, staged records, folds on command, RESET_N, and the links that a
partition reset or stage 6 waits for (R396 to R409, R325, R373, R456). -/
namespace Sys2Proof.Machine

/-! ### Outcomes -/

def okReset : Nat := 0xF000

/-- RST_CMD_STATUS shows the outcome of the latest command, and whether a reset is in progress. -/
def State.resetStatus (st : Nat) (s : State) : State :=
  (s.wrF Reg.RST_CMD_STATUS Fld.RST_CMD_STATUS_STATUS st).wrF Reg.RST_CMD_STATUS Fld.RST_CMD_STATUS_BUSY (boolNat (!s.mgmt.jobs.isEmpty))

/-- A refusal changes nothing else (R402). -/
def State.refuseReset (st : Nat) (s : State) : Nat × State := (st, (s.post st).resetStatus st)

/-- RS fields of the block commit at the start of a reset of any scope. -/
def State.beginReset (s : State) : State := s.commitReset.resetStatus okReset

def State.dropJob (j : ResetJob) (s : State) : State := { s with mgmt := { s.mgmt with jobs := s.mgmt.jobs.erase j } }
def State.addJob (j : ResetJob) (s : State) : State := { s with mgmt := { s.mgmt with jobs := s.mgmt.jobs ++ [j] } }


/-! ### Core and cluster scope (R398 to R400) -/

def jobCores (j : ResetJob) : List Nat :=
  match j.scope with
  | .core => [j.target]
  | .cluster => (List.range 16).map (· + 16 * j.target)
  | _ => []

/-- C-dies that a reset in progress holds. -/
def jobDies (j : ResetJob) : List Nat :=
  match j.scope with
  | .partition => j.dies
  | .module => List.range 4
  | _ => []

/-- A cluster's domain is power-cycled (R398): of its cores the firmware stores alone are kept, and its pool and its check-value unit are as after
power-up. -/
def State.cycleCluster (c : Nat) (s : State) : State :=
  let s := s.overList ((List.range 16).map (· + 16 * c)) (fun n t => (t.resetCore n).zeroStore n)
  let s := (s.zeroPool c).resetCheckUnit c
  { s with memory := { s.memory with poolCollisions := mapDel c s.memory.poolCollisions } }

/-- The work of core or cluster scope after drain (R398, R399). A core that absorb has just reset with its task (R94) has had its reset. -/
def State.smallReset (j : ResetJob) (absorbed : Bool) (s : State) : State :=
  let s := match j.scope with
    | .cluster => (((s.count (Reg.RST_COUNTER 1)).cycleCluster j.target).overList (jobCores j) (fun n t => t.checkFirmware n)).post St.RST_RESET_DONE
    | _ => if absorbed then s else s.resetCores (jobCores j)
  (s.dropJob j).resetStatus St.RST_RESET_DONE

/-- Absorb at these scopes: running tasks fail (R400). -/
def State.absorbCores (cores : List Nat) (s : State) : State :=
  s.overList cores (fun n t =>
    match (t.coreAt n).task with
    | some (u, i) => (t.failTask u i St.RST_RESET_ABSORBED).post St.RST_RESET_ABSORBED
    | none => t)

/-! ### Drain at partition scope (R399) -/

/-- Everything that drain waits for has finished and has posted its results. -/
def State.partDrained (s : State) (p : Nat) : Bool :=
  let d := s.partDealer p
  let v := s.partServing p
  let pipes := (List.range 16).filter (fun m => s.pipeOwner m == some p)
  (s.dealer.graphs.all (fun g => g.part != p || (match g.source with | .sweep _ => true | .ballast _ => true | _ => false)))
    && s.dealer.reports.all (fun r => r.part != p)
    && d.fetched.isNone && d.heldCompletions.isEmpty && v.heldEntries.isEmpty
    && v.hrs.all (fun h => h.phase != .parking && h.phase != .resuming)
    && (List.range 8).all (fun sl => !(s.slotOwned sl && s.slotOwner sl == p)
      || ((s.slotServing sl).inFlight.isNone && (mapGet sl s.talon.loads).isNone))
    && pipes.all (fun m => (s.mediaPipe m).dec.isNone && (s.mediaPipe m).enc.isNone && (s.mediaPipe m).held.isEmpty)
    && (s.partDies p).all (fun i => (s.edgeAt i).running.isNone)
    && s.vision.reckoners.all (fun e => e.2.running.all (fun r => r.part != p))
    && s.vision.frames.all (fun f => f.part != p || f.phase != .stage)
    && s.talon.transfers.all (fun x => x.part != p)

/-- A job's scope has drained. -/
def State.drained (s : State) (j : ResetJob) : Bool :=
  match j.scope with
  | .core | .cluster => (jobCores j).all (fun n => (s.coreAt n).task.isNone)
  | .partition => (List.range 4).all (fun p => !bitOf j.target p || s.partState p != 2 || s.partDrained p)
  | .module => (List.range 4).all (fun p => s.partState p != 2 || s.partDrained p)

/-! ### Staged records (R403) -/

/-- The pages of a partition. -/
def inPartPages (blk p off : Nat) : Bool := [2, 3, 5, 7, 9].contains blk && inRange (0x2000 + 0x1000 * p) 0x1000 off
/-- The slot pages of SRV and KVC. -/
def inSlotPages (blk off : Nat) : Bool := (blk == 3 || blk == 4) && inRange 0x6000 0x2000 off
/-- The KVC die registers. -/
def inDieRegs (blk off : Nat) : Bool := blk == 4 && inRange 0x1000 0x100 off
/-- The share and owner fields: SRV_HR_SHARE, PWR_SHARE, TLN_SHARE, SLOT_CTRL, PIPE_INFO. -/
def isShareOrOwner (blk off : Nat) : Bool :=
  ([Reg.SRV_HR_SHARE, Reg.PWR_SHARE] ++ (List.range 4).map Reg.TLN_SHARE ++ (List.range 8).map Reg.SLOT_CTRL
    ++ (List.range 16).map Reg.PIPE_INFO).contains (blk * 0x100000 + off)

/-- The entries of a staged block record all lie in one place of those that R403 lists. -/
def stagedAllowed (blk : Nat) (offs : List Nat) : Bool :=
  (List.range 4).any (fun p => offs.all (inPartPages blk p)) || offs.all (inSlotPages blk) || offs.all (inDieRegs blk)
    || offs.all (isShareOrOwner blk)

/-- The items of a record in the format of R380 with the tag 0; none where it is not one that R403 allows. -/
def stagedItems (fu : Fuses) (b : List Byte) : Option (List StagedItem) :=
  let type := leAt b 0 4
  let len := leAt b 4 4
  let pad := (4 - len % 4) % 4
  let v := sliceBytes b 8 len
  if b.length < 12 ∨ valueLimit < len ∨ b.length ≠ 12 + len + pad then none
  else if crc32cTagged 0 (b.take (8 + len + pad)) ≠ leAt b (8 + len + pad) 4 then none
  else if !((b.drop (8 + len)).take pad).all (fun y => y == 0) then none
  else if type = 0x10 then (if len = 4 then some [.map (leAt v 0 4)] else none)
  else if type = 0x11 then (if topologyLength v then some [.topology (wordsOfBytes v)] else none)
  else if 0x100 ≤ type ∧ type < 0x110 ∧ len % 12 = 0 ∧ 0 < len then
    let blk := type - 0x100
    let es := blockEntries v
    if stagedAllowed blk (es.map (fun e => e.1)) && es.all (entryOk fu blk) then
      some (es.map (fun e => .entry (blk * 0x100000 + e.1) e.2.1 e.2.2))
    else none
  else none

def State.stagedBytes (s : State) : Nat := (s.mgmt.staged.map (fun r => r.bytes)).sum

def State.putStaged (l : List StagedRecord) (s : State) : State :=
  let s := { s with mgmt := { s.mgmt with staged := l, stagedSeq := s.mgmt.stagedSeq + 1 } }
  (s.wrF Reg.RST_STAGED Fld.RST_STAGED_BYTES s.stagedBytes).wrF Reg.RST_STAGED Fld.RST_STAGED_RECORDS (min 255 l.length)

/-- Staged items, in staging order, of the records that a reset accepted at a point of the staging buffer's life applies: those staged by then
(log 234). -/
def State.stagedItemsOf (s : State) (upTo : Nat) : List StagedItem :=
  (s.mgmt.staged.filter (fun r => decide (r.seq < upTo))).flatMap (fun r => r.items)

/-- The partition map that the staged records leave (R402). -/
def State.stagedMap (s : State) (upTo : Nat) : Nat :=
  (s.stagedItemsOf upTo).foldl (fun m i => match i with | .map v => v | _ => m) s.mgmt.partMap

/-- The configuration image with every such entry merged. -/
def State.stagedImage (s : State) (upTo : Nat) : ConfigImage :=
  (s.stagedItemsOf upTo).foldl (fun g i => match i with | .entry off m v => imagePut off m v g | _ => g) s.mgmt.configImage

/-- A register as an image leaves it. -/
def imageWord (fu : Fuses) (img : ConfigImage) (off : Nat) : Nat :=
  let e := mapGetD (0, 0) off img
  cfgWord fu off (resetWord fu off).toNat e.1 e.2

/-- Partitions of a new map whose C-dies all lie in a set. -/
def freshParts (new : Nat) (dies : List Nat) : List Nat := (mapParts new).filter (fun p => (mapDies new p).all dies.contains)

/-- Partitions that a reset of `ps` reaches, under the old and the new numbering (R403). -/
def reachedParts (ps : List Nat) (new : Nat) (dies : List Nat) : List Nat := ps ++ (freshParts new dies).filter (fun p => !ps.contains p)

/-- Shares of the partitions of the new map once the reset partitions have taken those of the image: the others keep those in force. -/
def sharesAfter (ps : List Nat) (new : Nat) (image inForce : Nat → Nat) : Nat :=
  ((mapParts new).map (fun p => if ps.contains p then image p else inForce p)).sum

/-- Staged entries for the reset partitions break a limit of R32: hand records beyond 65,536, or prefix shares beyond 384 GiB. -/
def State.sharesBroken (s : State) (ps : List Nat) (new : Nat) : Bool :=
  let now := s.mgmt.stagedSeq
  let word := imageWord s.fuses (s.stagedImage now)
  let touched := fun (offs : List Nat) => (s.stagedItemsOf now).any (fun i => match i with | .entry off _ _ => offs.contains off | _ => false)
  (touched [Reg.SRV_HR_SHARE] && decide (16 < sharesAfter ps new (handShareIn (word Reg.SRV_HR_SHARE)) s.handShareOf))
    || (touched (ps.map Reg.TLN_SHARE) && decide (384 < sharesAfter ps new (fun p => prefixShareIn (word (Reg.TLN_SHARE p))) s.prefixShareOf))

/-- Owner of a slot or a media pipe that an image gives: the fields OWNED and OWNER of its register. -/
def imageOwner (fu : Fuses) (img : ConfigImage) (off : Nat) (owned owner : BitField) : Option Nat :=
  let w := BitVec.ofNat 32 (imageWord fu img off)
  if getField owned w = 1 then some (getField owner w) else none

def slotOwnerIn (fu : Fuses) (img : ConfigImage) (sl : Nat) : Option Nat :=
  imageOwner fu img (Reg.SLOT_CTRL sl) Fld.SLOT_CTRL_OWNED Fld.SLOT_CTRL_OWNER
def pipeOwnerIn (fu : Fuses) (img : ConfigImage) (m : Nat) : Option Nat :=
  imageOwner fu img (Reg.PIPE_INFO m) Fld.PIPE_INFO_OWNED Fld.PIPE_INFO_OWNER

/-- A slot, or a pipe, of a partition that keeps running: no reset of others takes it (R34). -/
def State.slotHeld (s : State) (ps : List Nat) (sl : Nat) : Bool := s.slotOwned sl && s.partExists (s.slotOwner sl) && !ps.contains (s.slotOwner sl)
def State.pipeHeld (s : State) (ps : List Nat) (m : Nat) : Bool := (s.pipeOwner m).any (fun q => s.partExists q && !ps.contains q)

/-- Slots and pipes of a set of partitions, as they are owned now or as an image will have them, but those that others hold. -/
def State.slotsOf (s : State) (img : ConfigImage) (ps : List Nat) : List Nat :=
  (List.range 8).filter (fun sl =>
    ((s.slotOwned sl && ps.contains (s.slotOwner sl)) || (slotOwnerIn s.fuses img sl).any ps.contains) && !s.slotHeld ps sl)
def State.pipesOf (s : State) (img : ConfigImage) (ps : List Nat) : List Nat :=
  (List.range 16).filter (fun m =>
    ((s.pipeOwner m).any ps.contains || (pipeOwnerIn s.fuses img m).any ps.contains) && !s.pipeHeld ps m)

/-- The image would give a reset partition a slot or a pipe of a partition that keeps running: shares move only out of what the reset
partitions free (R34; log 181). -/
def State.takesHeld (s : State) (img : ConfigImage) (ps : List Nat) : Bool :=
  (List.range 8).any (fun sl => s.slotHeld ps sl && (slotOwnerIn s.fuses img sl).any ps.contains)
    || (List.range 16).any (fun m => s.pipeHeld ps m && (pipeOwnerIn s.fuses img m).any ps.contains)

/-- A staged item concerns the reset partitions, under the old or the new numbering (R403). -/
def concerns (dies slots pipes ps : List Nat) : StagedItem → Bool
  | .map _ => true
  | .topology w => ps.contains (w.getD 0 0 % 4)
  | .entry off _ _ =>
    let blk := off / 0x100000
    let o := off % 0x100000
    if blk = 1 then true
    else if blk = 4 ∧ o < 0x2000 then dies.contains ((o - 0x1000) / 0x40)
    else if blk = 6 then ps.contains ((o - 0x1100) / 0x20)
    else if blk = 8 then pipes.contains ((o - 0x2000) / 0x1000)
    else if o < 0x2000 then true
    else if 0x6000 ≤ o then slots.contains ((o - 0x6000) / 0x400)
    else ps.contains ((o - 0x2000) / 0x1000)

def State.applyStaged (i : StagedItem) (s : State) : State :=
  match i with
  | .map v => { s with mgmt := { s.mgmt with partMap := v } }
  | .topology w => { s with mgmt := { s.mgmt with topology := mapSet (w.getD 0 0 % 4) w s.mgmt.topology } }
  | .entry off m v => { s with mgmt := { s.mgmt with configImage := imagePut off m v s.mgmt.configImage } }

/-- Concerned items are merged and leave the buffer; the others wait. -/
def State.takeStaged (upTo : Nat) (sel : StagedItem → Bool) (s : State) : State :=
  let s := s.overList ((s.stagedItemsOf upTo).filter sel) (fun i t => t.applyStaged i)
  s.putStaged ((s.mgmt.staged.map (fun r =>
    if r.seq < upTo then { r with items := r.items.filter (fun i => !sel i) } else r)).filter (fun r => !r.items.isEmpty))

/-! ### Partition scope (R400, R401) -/

/-- The partition's dealer, serving engine, prefix index and Talon work end without entries (R108, R173, R230, R400). -/
def State.endServing (p : Nat) (s : State) : State :=
  let owned := s.cvOwner.filterMap (fun e => if s.dealer.graphs.any (fun g => g.uid == e.2.1 && g.part == p) then some e.2 else none)
  let s := s.overList owned (fun e t => t.detachTask e.1 e.2)
  let uids := (s.dealer.graphs.filter (fun g => g.part == p)).map (fun g => g.uid)
  let slots := (List.range 8).filter (fun sl => s.slotOwned sl && s.slotOwner sl == p)
  let dies := s.partDies p
  let s := s.overList (slots.filter (fun sl => (mapGet sl s.talon.loads).isSome)) (fun sl t => t.endLoad sl St.RST_RESET_ABSORBED)
  let s := s.absorbTalon p
  let s := s.overList (s.talon.parked.filter (fun i => i.part == p && !i.complete)) (fun i t => t.dropParked i.handle)
  { s with
    dealer := { s.dealer with
      parts := mapDel p s.dealer.parts
      graphs := s.dealer.graphs.filter (fun g => g.part != p)
      reports := s.dealer.reports.filter (fun r => r.part != p) }
    serving := { s.serving with
      parts := mapDel p s.serving.parts
      slots := mapDrop slots.contains s.serving.slots
      fetched := mapDel p s.serving.fetched
      stock := mapDrop dies.contains s.serving.stock
      rows := s.serving.rows.filter (fun r => !dies.contains (refDie r.ref)) }
    pfx := { s.pfx with
      nodes := mapDrop (fun k => k / 2 ^ 24 == p) s.pfx.nodes
      buckets := mapDrop (fun k => k / 2 ^ 24 == p) s.pfx.buckets
      disabled := setErase p s.pfx.disabled
      demoting := setErase p s.pfx.demoting }
    talon := { s.talon with
      transfers := s.talon.transfers.filter (fun x => x.part != p)
      extents := s.talon.extents.map (fun e => if e.part = p ∧ !e.committed then { e with stale := true } else e) }
    ndx := { s.ndx with issued := s.ndx.issued.filter (fun e => !uids.contains e.1) } }

/-- Edge jobs, reckoner jobs, pipeline frames and media contexts end, and nothing more is written for them (R279, R309). -/
def State.endVision (p : Nat) (s : State) : State :=
  let pipes := (List.range 16).filter (fun m => s.pipeOwner m == some p)
  let s := s.overList (s.partDies p) (fun d t => t.putEdge d { EdgeEngine.idle with idleSince := t.now })
  let s := { s with vision := { s.vision with
    reckoners := s.vision.reckoners.map (fun (e : Nat × Reckoner) =>
      if e.2.running.any (fun (r : ReckonRun) => r.part == p) then (e.1, { e.2 with running := none, idleSince := s.now }) else e)
    reckonQueue := s.vision.reckonQueue.filter (fun e => e.1 != p)
    frames := s.vision.frames.filter (fun f => f.part != p)
    submits := s.vision.submits.filter (fun x => x.part != p) } }
  s.overList pipes (fun m t => t.putMedia m { MediaPipe.empty with idleSince := t.now })

/-- The partition's links stop sending, and what its group had under way is gone (R401 step 2). -/
def State.endGroup (p : Nat) (s : State) : State :=
  let x := s.ndx
  let mine := fun (k : Nat) => k / 16 == p
  { s with ndx := { x with
    peers := mapDrop mine x.peers
    links := mapDrop (fun l => s.linkOwner l == some p) x.links
    outbox := x.outbox.filter (fun e => e.1 != p)
    inbox := x.inbox.filter (fun e => e.part != p)
    opens := x.opens.filter (fun e => e.part != p)
    arrived := x.arrived.filter (fun e => e.1 != p)
    collectives := x.collectives.filter (fun c => c.part != p)
    early := x.early.filter (fun e => e.1 != p)
    ended := x.ended.filter (fun e => e.1 != p)
    embeds := x.embeds.filter (fun e => e.1 != p)
    heartbeatAt := mapDel p x.heartbeatAt
    routes := x.routes.filter (fun r => r.part != p) } }

/-- Step 2 for one partition: it stops, its queues stop, and the remaining work is absorbed. -/
def State.absorbPart (p : Nat) (s : State) : State :=
  let s := (s.wrF (Reg.PART_STATE p) Fld.PART_STATE_STATE 3).setRunning p false
  (((s.stopQueues p).endServing p).endVision p).endGroup p

/-- Steps 3 and 4 for one C-die: remaps finish, HBM is zeroed, and the core and cluster domains are power-cycled. -/
def State.cycleDie (d : Nat) (s : State) : State :=
  let s := s.overList (s.memory.remaps.filter (fun r => r.die == d)) (fun r t => t.finishRemap r)
  let s := s.zeroDie d
  let s := s.overList ((List.range 384).map (· + 384 * d)) (fun n t => t.coreDown n)
  let s := s.overList ((List.range 24).map (· + 24 * d)) (fun c t => (t.clusterDown c))
  let s := if s.ledger.sweeping.any (fun c => c / 24 == d) then { s with ledger := { s.ledger with sweeping := none } } else s
  s.unboost (fun c => c / 24 == d)

/-- A range of registers returns to its reset words, and then takes the configuration image (R401, R406, R408). -/
def State.reloadRegs (lo n : Nat) (s : State) : State := (s.resetRegs lo n).applyImage (inRange lo n)

/-- Registers of a partition's own pages, its budget share and its parking space. -/
def State.reloadPart (p : Nat) (s : State) : State :=
  let s := s.overList [0x202000, 0x302000, 0x502000, 0x702000, 0x902000] (fun b t => t.reloadRegs (b + 0x1000 * p) 0x1000)
  (s.applyImage (fun o => o == Reg.TLN_SHARE p)).applyShare p

/-- Shares of the reset partitions, by the image. -/
def State.reloadShares (ps : List Nat) (s : State) : State :=
  let word := imageWord s.fuses s.mgmt.configImage
  let s := s.dealShares ps (handShareIn (word Reg.SRV_HR_SHARE)) (fun p => prefixShareIn (word (Reg.TLN_SHARE p)))
  s.overList ps (fun p t => t.showShare p)

def State.reloadSlot (sl : Nat) (s : State) : State := (s.reloadRegs (0x306000 + 0x400 * sl) 0x400).reloadRegs (0x406000 + 0x400 * sl) 0x400

/-- A C-die's KV registers and edge engine; a failed engine stays failed. -/
def State.reloadDie (d : Nat) (s : State) : State :=
  let failed := s.rdN (Reg.EDGE_STATE d)
  let s := (s.reloadRegs (0x401000 + 0x40 * d) 0x40).reloadRegs (0x701100 + 0x40 * d) 0x40
  s.wrN (Reg.EDGE_STATE d) failed

/-- A media pipe's page; whether it has failed and whether it is powered stay. -/
def State.reloadPipe (m : Nat) (s : State) : State :=
  let failed := s.rdF (Reg.PIPE_INFO m) Fld.PIPE_INFO_FAILED
  let up := s.rdF (Reg.PIPE_INFO m) Fld.PIPE_INFO_POWERED
  let s := s.reloadRegs (0x802000 + 0x1000 * m) 0x1000
  (s.wrF (Reg.PIPE_INFO m) Fld.PIPE_INFO_FAILED failed).wrF (Reg.PIPE_INFO m) Fld.PIPE_INFO_POWERED up

/-- Step 6: pending folds of a set of C-dies take effect (R397). -/
def State.takeFolds (dies : List Nat) (s : State) : State :=
  let mine := fun (f : PendingFold) => dies.contains (if f.isCluster then f.target / 24 else f.target / 384)
  let l := s.mgmt.pendingFolds.filter mine
  let s := { s with mgmt := { s.mgmt with pendingFolds := s.mgmt.pendingFolds.filter (fun f => !mine f) } }
  s.overList l (fun f t => if f.isCluster then t.foldCluster f.target f.cause else t.foldCore f.target f.cause)

/-- Links of the reset partitions are no longer theirs until a topology record assigns them again; their counters stay. -/
def State.freeLinks (ps : List Nat) (s : State) : State :=
  s.overList ((List.range 16).filter (fun l => (s.linkOwner l).any ps.contains)) (fun l t =>
    (t.wr (Reg.LINK_STATE l) (resetWord t.fuses (Reg.LINK_STATE l))).wr (Reg.LINK_PEER l) (resetWord t.fuses (Reg.LINK_PEER l)))

/-- Links that no record assigns are powered down (R325). -/
def State.dropLinks (s : State) : State :=
  s.overList ((List.range 16).filter (fun l => s.linkState l == 0)) (fun l t => t.putBit Reg.DECK_LINKS l false)

/-- Steps 2 to 6 (R401), for the partitions of the mask, with the records staged up to a point; answers the partitions that go on to step 7. -/
def State.partitionSteps (mask : List Nat) (dies : List Nat) (upTo : Nat) (s : State) : List Nat × State :=
  let s := s.overList mask (fun p t => t.absorbPart p)
  let s := s.overList dies (fun d t => t.cycleDie d)
  let old := s.mgmt.partMap
  let new := s.stagedMap upTo
  let fresh := freshParts new dies
  let ps := reachedParts mask new dies
  let img := s.stagedImage upTo
  let slots := s.slotsOf img ps
  let pipes := s.pipesOf img ps
  let near := (List.range 4).filter (fun d => ps.contains (mapPart old d) || ps.contains (mapPart new d))
  let s := (s.freeLinks mask).takeStaged upTo (concerns near slots pipes ps)
  let gone := mask.filter (fun p => !(mapParts new).contains p)
  let s := { s with mgmt := { s.mgmt with topology := mapDrop gone.contains s.mgmt.topology } }
  let s := s.overList ps (fun p t => (t.wrF (Reg.PART_STATE p) Fld.PART_STATE_STATE 0).reloadPart p)
  let s := s.reloadShares ps
  let s := s.overList dies (fun d t => t.reloadDie d)
  let s := (s.overList slots (fun sl t => t.reloadSlot sl)).overList pipes (fun m t => t.reloadPipe m)
  let s := s.showMap.takeFolds dies
  let go := fresh.filter (fun p => !(mapDies new p).any s.mgmt.excludedDies.contains)
  let s := s.overList (fresh.filter (fun p => !go.contains p)) (fun p t => t.startPartition p)
  let s := s.overList go (fun p t => ((t.loadTopology p).wrF (Reg.PART_STATE p) Fld.PART_STATE_STATE 3).showLeads p)
  (go, (s.overList fresh (fun p t => t.showFree p)).dropLinks)

/-- Step 8, once no link of the partitions waits or trains: each takes its group's state and starts; folds ordered meanwhile follow. -/
def State.partitionEnd (j : ResetJob) (s : State) : State :=
  let s := s.overList j.starting (fun p t => (t.evaluateGroup p).startPartition p)
  let s := ((s.takeFolds j.dies).dropJob j).recomputeBudgets
  let none := (List.range 4).filter (fun p => s.partState p == 5 && (s.partDies p).all j.dies.contains)
  s.resetStatus (if none.isEmpty then St.RST_RESET_DONE else St.RST_PARTITION_NOT_STARTED)

/-- Links of some partitions that wait for their peer or train. -/
def State.training (s : State) (ps : List Nat) : Bool :=
  (List.range 16).any (fun l => (s.linkState l == 1 || s.linkState l == 2) && (s.linkOwner l).any ps.contains)

/-- Partition resets whose links have settled end. -/
def State.settleJobs (s : State) : State :=
  if !s.ready then s
  else s.overList (s.mgmt.jobs.filter (fun j => j.scope == .partition && !j.draining && !s.training j.starting)) (fun j t => t.partitionEnd j)

/-- A partition reset proceeds after drain or absorb. -/
def State.partitionReset (j : ResetJob) (s : State) : State :=
  let s := (s.dropJob j).addJob { j with draining := false }
  let r := s.partitionSteps ((List.range 4).filter (bitOf j.target)) j.dies j.upTo
  let s := (r.2.dropJob { j with draining := false }).addJob { j with draining := false, starting := r.1 }
  s.settleJobs

/-! ### Module scope (R404, R456) -/

/-- A bring-up that ends in a halt during showdown is followed by another, from a reset with absorb (R456). -/
def State.showdownRetry : List Boot → State → State
  | [], s => s
  | b :: more, s =>
    if s.mgmt.fatal.isSome && s.inShowdown && s.canStart then
      State.showdownRetry more ((((s.talonDown 1 0).enterStandby).bringUp b))
    else s

/-- Every domain powers down, and bring-up begins, now or at the release of RESET_N. -/
def State.restartAll (b : Boot) (more : List Boot) (s : State) : State := (s.restart b).showdownRetry more

/-- A module-level reset after drain or with absorb: Talon is shut down with a CLEAN marker. -/
def State.moduleReset (b : Boot) (more : List Boot) (s : State) : State := (s.talonDown 1 0).restartAll b more

/-- A module-level reset is never refused, and ends every reset in progress (R402), an activation's drain among them. -/
def State.requestModule (absorb : Bool) (b : Boot) (more : List Boot) (s : State) : State :=
  let s := match s.update.activating with
    | some m => ({ s with update := { s.update with activating := none } }).refuse m St.UPD_ACTIVATION_CANCELLED
    | none => s
  let s := { s with mgmt := { s.mgmt with jobs := [], pendingFolds := [] } }
  let s := s.beginReset
  let live := (List.range 4).filter (fun p => s.partState p == 1 || s.partState p == 2)
  if absorb || !s.ready then s.moduleReset b more
  else
    let s := s.overList live (fun p t => t.wrF (Reg.PART_STATE p) Fld.PART_STATE_STATE 2)
    let j : ResetJob := ⟨.module, 0, true, s.now, [], [], 0⟩
    if s.drained j then s.moduleReset b more else (s.addJob j).resetStatus okReset

/-! ### Requests (R402) -/

/-- A reset in progress overlaps these cores or C-dies. -/
def State.overlaps (s : State) (cores dies : List Nat) : Bool :=
  s.mgmt.jobs.any (fun j =>
    (jobDies j).any (fun d => dies.contains d || cores.any (fun n => coreDie n == d))
      || (jobCores j).any (fun n => cores.contains n || dies.contains (coreDie n)))

/-- A reset at core or cluster scope. -/
def State.requestSmall (cluster absorb : Bool) (target : Nat) (s : State) : Nat × State :=
  let j : ResetJob := ⟨if cluster then .cluster else .core, target, true, s.now, [], [], 0⟩
  if !s.ready then s.refuseReset St.RST_RESET_BUSY
  else if (if cluster then 96 else 1536) ≤ target then s.refuseReset St.RST_BAD_RESET_COMMAND
  else if s.overlaps (jobCores j) [] then s.refuseReset St.RST_RESET_BUSY
  else
    let s := (s.beginReset.addJob j).resetStatus okReset
    if s.drained j then (okReset, s.smallReset j false)
    else (okReset, if absorb then (s.absorbCores (jobCores j)).smallReset j true else s)

/-- A fold on command, with cause 0xA (R396, R397). -/
def State.requestFold (cluster : Bool) (target : Nat) (s : State) : Nat × State :=
  if !s.ready then s.refuseReset St.RST_RESET_BUSY
  else if (if cluster then 96 else 1536) ≤ target then s.refuseReset St.RST_BAD_RESET_COMMAND
  else (okReset, (if cluster then s.foldCluster target 0xA else s.foldCore target 0xA).resetStatus okReset)

/-- A partition reset of the partitions of a mask. -/
def State.requestPartition (mask : Nat) (absorb : Bool) (s : State) : Nat × State :=
  let ps := s.existingParts.filter (bitOf mask)
  let dies := ps.flatMap s.partDies
  let old := s.mgmt.partMap
  let new := s.stagedMap s.mgmt.stagedSeq
  if !s.ready then s.refuseReset St.RST_RESET_BUSY
  else if ps.isEmpty ∨ 16 ≤ mask then s.refuseReset St.RST_BAD_RESET_COMMAND
  else if s.overlaps [] dies then s.refuseReset St.RST_RESET_BUSY
  else if s.existingParts.any (fun q => !ps.contains q && mapDies new q != mapDies old q) then s.refuseReset St.RST_RESET_SCOPE_INVALID
  else if !mapOk new || s.sharesBroken (reachedParts ps new dies) new || s.takesHeld (s.stagedImage s.mgmt.stagedSeq) (reachedParts ps new dies) then s.refuseReset St.RST_STAGED_RECORD_INVALID
  else
    let j : ResetJob := ⟨.partition, bitsOf ps, true, s.now, dies, [], s.mgmt.stagedSeq⟩
    let s := s.beginReset
    let s := s.overList ps (fun p t => (t.countF (Reg.PART_STATE p) Fld.PART_STATE_RESETS).count (Reg.RST_COUNTER 2))
    let s := s.overList ps (fun p t => if t.partState p = 1 then t.wrF (Reg.PART_STATE p) Fld.PART_STATE_STATE 2 else t)
    let s := (s.addJob j).resetStatus okReset
    (okReset, if absorb || s.drained j then s.partitionReset j else s)

/-! ### Drain's end (R399) -/

/-- The reset proceeds. -/
def State.proceed (j : ResetJob) (absorbed : Bool) (b : Boot) (more : List Boot) (s : State) : State :=
  match j.scope with
  | .core | .cluster => s.smallReset j absorbed
  | .partition => s.partitionReset j
  | .module => s.moduleReset b more

/-- A reset that may proceed: the drain of an activation is followed by R453 instead. -/
def State.mayProceed (s : State) (j : ResetJob) : Bool :=
  j.draining && (if j.scope = .module then s.update.activating.isNone else s.ready)

/-- DRAIN_COMPLETE: of the reset in the given place of those in progress. -/
def execDrainComplete (job : Nat) (fw : List Upset) (boot : Boot) (more : List Boot) (s : State) : Out :=
  let s := s.upset fw
  match s.mgmt.jobs[job]? with
  | none => .next s
  | some j => .next (if s.mayProceed j && s.drained j then s.proceed j false boot more else s)

/-- DRAIN_TIMEOUT: absorb applies to what remains. -/
def execDrainTimeout (job : Nat) (fw : List Upset) (boot : Boot) (more : List Boot) (s : State) : Out :=
  let s := s.upset fw
  match s.mgmt.jobs[job]? with
  | none => .next s
  | some j =>
    if !s.mayProceed j || s.drained j || decide (s.now < j.started + s.rdF Reg.RST_CFG Fld.RST_CFG_DRAIN_TIMEOUT_MS * msNs) then .next s
    else
      let s := (s.post St.RST_DRAIN_TIMED_OUT).count (Reg.RST_COUNTER 3)
      .next ((s.absorbCores (jobCores j)).proceed j true boot more)

/-! ### RST_CMD -/

/-- What the bring-up finds that follows a module-level reset ordered by a plain write of RST_CMD, and those after it (R456): free values, since
such a write has no operand for them. The row of the module-level reset has (log 43). -/
opaque Config.nextBoot : Nat → Boot
opaque Config.laterBoots : Nat → List Boot

/-- RST_CMD as one word (R398). -/
def State.resetCommand (v : Nat) (s : State) : State :=
  let absorb := bitOf v 2
  let target := bitsAt v 16 11
  if !s.pcieUp then s
  else
    match v % 4, bitOf v 3 with
    | 0, false => (s.requestSmall false absorb target).2
    | 0, true => (s.requestFold false target).2
    | 1, false => (s.requestSmall true absorb target).2
    | 1, true => (s.requestFold true target).2
    | 2, _ => (s.requestPartition target absorb).2
    | _, _ =>
      let n := s.freeCtr
      { s with freeCtr := n + 1 }.requestModule absorb (Config.nextBoot n) (Config.laterBoots n)

def execRstCoreReset (absorb : Bool) (target : Nat) (fw : List Upset) (s : State) : Out :=
  let s := s.upset fw
  .next (if s.pcieUp then (s.requestSmall false absorb target).2 else s)
def execRstClusterReset (absorb : Bool) (target : Nat) (fw : List Upset) (s : State) : Out :=
  let s := s.upset fw
  .next (if s.pcieUp then (s.requestSmall true absorb target).2 else s)
/-- The mask lies in bits [3:0] of TARGET. -/
def execRstPartitionReset (absorb : Bool) (target : Nat) (s : State) : Out := .next (if s.pcieUp then (s.requestPartition target absorb).2 else s)
def execRstModuleReset (absorb : Bool) (boot : Boot) (more : List Boot) (s : State) : Out :=
  .next (if s.pcieUp then s.requestModule absorb boot more else s)
def execRstCoreFold (target : Nat) (s : State) : Out := .next (if s.pcieUp then (s.requestFold false target).2 else s)
def execRstClusterFold (target : Nat) (s : State) : Out := .next (if s.pcieUp then (s.requestFold true target).2 else s)

/-! ### Sideband messages (R409) -/

/-- An outcome answers the message; a refusal has been posted. -/
def answerWith (m : SidebandMsg) (r : Nat × State) : State := r.2.answer m r.1 []

/-- GET_STAGE: MGT_STATE, then the STATUS of the nine reports, in every state. -/
def execGetStage (s : State) : Out :=
  .next (s.serve 0x10 (fun m s =>
    s.answer m 0x0000 (leBytes 4 (s.rdN Reg.MGT_STATE)
      ++ (List.range 9).flatMap (fun k => leBytes 2 (s.rdF (Reg.STAGE_STATUS k) Fld.STAGE_STATUS_STATUS)))))

/-- STAGE_RECORD: a record that R403 does not allow, or that does not fit the buffer, is refused. -/
def execStageRecord (s : State) : Out :=
  .next (s.serve 0x11 (fun m s =>
    if !s.ready then s.refuse m St.RST_RESET_BUSY
    else
      match stagedItems s.fuses m.body with
      | none => s.refuse m St.RST_STAGED_RECORD_INVALID
      | some items =>
        if 65536 < s.stagedBytes + m.body.length then s.refuse m St.RST_STAGED_RECORD_INVALID
        else (s.putStaged (s.mgmt.staged ++ [⟨m.body.length, s.mgmt.stagedSeq, items⟩])).answer m okReset []))

def execClearStaged (s : State) : Out :=
  .next (s.serve 0x12 (fun m s => if !s.ready then s.refuse m St.RST_RESET_BUSY else (s.putStaged []).answer m okReset []))

def execPartitionReset (s : State) : Out :=
  .next (s.serve 0x13 (fun m s => let v := leAt m.body 0 1; answerWith m (s.requestPartition (v % 16) (bitOf v 4))))

/-- MODULE_RESET is answered before the reset begins. -/
def execModuleReset (boot : Boot) (more : List Boot) (s : State) : Out :=
  .next (s.serve 0x14 (fun m s => (s.answer m okReset []).requestModule (bitOf (leAt m.body 0 1) 0) boot more))

def execFold (s : State) : Out :=
  .next (s.serve 0x15 (fun m s => let v := leAt m.body 0 2; answerWith m (s.requestFold (bitOf v 0) (bitsAt v 4 12))))

/-- RESUME_POWER (R373, R470): leaves STANDBY where bring-up is allowed; refused where it is not. -/
def execResumePower (boot : Boot) (more : List Boot) (s : State) : Out :=
  .next (s.serve 0x06 (fun m s =>
    if !s.power.standby then s.answer m okPower []
    else if !s.canStart then s.refuse m St.PWR_BAD_POWER_MESSAGE
    else ((s.answer m okPower []).bringUp boot).showdownRetry more))

/-! ### RESET_N (R398, R467) -/

/-- RESET_N_ASSERT: a module-level reset with absorb; the module stays down, and its PCIe link with it. -/
def execResetNAssert (s : State) : Out :=
  if s.side.resetAsserted || !s.mgmtRuns then .next { s with side := { s.side with resetAsserted := true } }
  else
    let s := (s.talonDown 1 0).enterStandby
    let s := s.wrF Reg.MGT_STATE Fld.MGT_STATE_STATE 3
    .next { s with side := { s.side with resetAsserted := true } }

/-- RESET_N_RELEASE: bring-up begins at stage 0 where the 48 V bus and presence are there (R467). -/
def execResetNRelease (boot : Boot) (more : List Boot) (s : State) : Out :=
  if !s.side.resetAsserted then .next s
  else
    let s := { s with side := { s.side with resetAsserted := false } }
    let s := if s.mgmtRuns then s.wrF Reg.MGT_STATE Fld.MGT_STATE_STATE 0 else s
    .next (if s.canStart && s.side.present then (s.bringUp boot).showdownRetry more else s)

/-! ### Links that wait for their peers (R325) -/

/-- What follows once a waiting link has settled: stage 6, or the reset of its partition, may end. -/
def State.linkSettled (late : LateBoot) (more : List Boot) (s : State) : State :=
  ((s.peersSettled late).showdownRetry more).settleJobs

/-- PEER_TRAINING_SIGNAL: the link makes up to three training attempts. -/
def execPeerTrainingSignal (link : Nat) (attempts : List Attempt) (late : LateBoot) (more : List Boot) (s : State) : Out :=
  .next (if link < 16 ∧ (s.linkState link = 1 ∨ s.linkState link = 2) then
      ((s.trainLink link attempts).linkSettled late more)
    else s)

/-- PEER_WAIT_TIMEOUT: a link that no peer has signalled within PEER_WAIT_S goes down with NO_PEER. -/
def execPeerWaitTimeout (link : Nat) (late : LateBoot) (more : List Boot) (s : State) : Out :=
  let waited := (s.linkRun link).since + s.rdF Reg.NDX_CFG2 Fld.NDX_CFG2_PEER_WAIT_S * 1000000000 ≤ s.now
  .next (if link < 16 ∧ s.linkState link = 1 ∧ waited then (s.linkDown link 1).linkSettled late more else s)

/-- STAGE_TIMEOUT (R377, R456): stage 6 exceeds its bound while links wait or train. The other stages are measured as they run. -/
def execStageTimeout (more : List Boot) (s : State) : Out :=
  .next (if !s.mgmt.waitingPeers then s
    else (({ s with mgmt := { s.mgmt with waitingPeers := false } }).stageHalt 6 St.MGT_STAGE_TIMEOUT []).showdownRetry more)

end Sys2Proof.Machine
end

