-- ==== Sys2Proof/Machine/Update.lean ====
section
/-! DEFINITION. Machine/Update.lean: delivery of a meld in pieces, activation, showdown, identity and attestation (R445 to R460). -/
namespace Sys2Proof.Machine

def okUpdate : Nat := 0xD000

/-! ### Delivery in pieces (R445 to R450) -/

/-- Pieces, UPDATE_BEGIN and UPDATE_ABANDON are accepted in READY, in STANDBY and in recovery (R449). -/
def State.updateOpen (s : State) : Bool := (s.ready || s.power.standby || s.update.recovery) && s.update.activating.isNone

def State.condition (s : State) (f : BitField) : Bool := s.rdB Reg.UPD_STATE f

/-- A new staging record comes into force (R448). -/
def State.writeStaging (meld pieces : Nat) (received erased : List Nat) (s : State) : State :=
  let seq := (s.update.staging.map (fun r => r.seq)).getD 0
  s.putStaging ⟨seq + 1, meld, pieces, received, erased⟩

/-- UPDATE_BEGIN: a meld starts, or resumes, in the slot that is not CONFIRMED. -/
def State.updateBegin (m : SidebandMsg) (s : State) : State :=
  let meld := leAt m.body 0 4
  let pieces := leAt m.body 4 2
  let r := s.update.boot
  let k := 1 - (slotIn r slotConfirmed).getD 0
  if !s.updateOpen then s.refuse m St.UPD_UPDATE_BUSY
  else if s.inShowdown then s.refuse m St.UPD_SLOT_BUSY
  else if slotStateOf r k = slotStaging ∧ slotMeldOf r k = meld then (s.post St.UPD_STAGING_RESUMED).answer m St.UPD_STAGING_RESUMED []
  else if s.condition Fld.UPD_STATE_OWNER_LOCK then s.refuse m St.UPD_REFUSED_OWNER_LOCK
  else
    -- a meld that was staging is abandoned (R445)
    let s := if slotStateOf r k = slotStaging then s.writeBoot (setSlotMeld k 0 0 (setSlotState k slotEmpty r)) else s
    let s := s.writeBoot (setSlotMeld k meld 0 (setSlotState k slotStaging r))
    let s := { s with update := { s.update with factory := setErase k s.update.factory } }
    ((s.writeStaging meld pieces [] []).showUpdate).answer m okUpdate []

def execUpdateBegin (s : State) : Out := .next (s.serve 0x30 State.updateBegin)

/-- UPDATE_ABANDON: the staging slot becomes EMPTY. -/
def execUpdateAbandon (s : State) : Out :=
  .next (s.serve 0x36 (fun m s =>
    if !s.updateOpen then s.refuse m St.UPD_UPDATE_BUSY
    else
      match slotIn s.update.boot slotStaging with
      | none => s.answer m okUpdate []
      | some k => ((s.writeBoot (setSlotMeld k 0 0 (setSlotState k slotEmpty s.update.boot))).showUpdate).answer m okUpdate []))

/-- Pieces that a slot has room for (R439, R442). -/
def slotPieces : Nat := 7680

/-- The fields of a piece's header and its length keep R446, for a meld of a number of pieces. A piece past the slot's end does not (DESIGN CHOICE: no
rule bounds UPDATE_BEGIN's PIECES). -/
def pieceOk (b : List Byte) (pieces : Nat) : Bool :=
  let seq := leAt b 6 2
  let len := leAt b 8 2
  leAt b 0 2 == 0xD8A5 && leAt b 10 2 == pieces && decide (seq < pieces) && decide (seq < slotPieces) && leAt b 16 16 == 0
    && (len == 4096 || (seq + 1 == pieces && decide (1 ≤ len ∧ len ≤ 4096))) && b.length == 32 + len

/-- The CRC covers header and payload with its own field read as 0, and SEQ as the tag (R415, R446). -/
def pieceCrcOk (b : List Byte) : Bool :=
  crc32cTagged (leAt b 6 2) (b.take 12 ++ [0, 0, 0, 0] ++ b.drop 16) == leAt b 12 4

/-- The full bitmap sends the slot to verification, which leaves it STAGED or REJECTED (R450). -/
def State.verifyStaging (k : Nat) (s : State) : State :=
  match s.verifySlot k false with
  | none => s.writeBoot (setSlotMeld k (slotMeldOf s.update.boot k) (s.manifestAt k).imageVersion (setSlotState k slotStaged s.update.boot))
  | some st => (s.writeBoot (setSlotState k slotRejected s.update.boot)).post st

/-- One valid piece is programmed (R447): `fails` compares fail. Answers whether its bit was set. -/
def State.programPiece (k : Nat) (b : List Byte) (fails : Nat) (st : StagingRecord) (s : State) : Bool × State :=
  let seq := leAt b 6 2
  let sector := seq / 16
  let base := slotBase k
  let erase := fun (t : State) => t.norErase (base + 65536 * sector) 65536
  let program := fun (t : State) => t.norWrite (base + 4096 * seq) (b.drop 32)
  let mark := fun (r : StagingRecord) (got : List Nat) => State.putStaging { r with received := got, erased := setInsert sector r.erased }
  let s := if st.erased.contains sector then s else erase s
  if fails = 0 then
    (true, mark st (setInsert seq st.received) (program s))
  else
    let kept := st.received.filter (fun i => i / 16 != sector)
    let s := s.writeStaging st.meld st.pieces kept (setErase sector st.erased)
    let s := erase s
    let r := s.update.staging.getD st
    if fails = 1 then
      (true, mark r (setInsert seq kept) (program s))
    else (false, mark r kept s)

/-- UPDATE_PIECE (R447, R449). -/
def State.updatePiece (fails : Nat) (m : SidebandMsg) (s : State) : State :=
  let b := m.body
  let k := (slotIn s.update.boot slotStaging).getD 0
  if !s.updateOpen then s.refuse m St.UPD_UPDATE_BUSY
  else if !pieceCrcOk b then (s.count (Reg.UPD_COUNTER 1)).refuse m St.UPD_PIECE_CRC
  else
    match slotIn s.update.boot slotStaging, s.update.staging with
    | some _, some st =>
      if leAt b 2 4 ≠ st.meld then s.refuse m St.UPD_NOT_STAGING
      else if !pieceOk b st.pieces then s.refuse m St.UPD_PIECE_INVALID
      else if st.received.contains (leAt b 6 2) then
        ((s.count (Reg.UPD_COUNTER 2)).post St.UPD_PIECE_DUPLICATE).answer m St.UPD_PIECE_DUPLICATE []
      else
        match s.programPiece k b fails st with
        | (false, s) => s.showUpdate.refuse m St.UPD_PIECE_INVALID
        | (true, s) =>
          let s := (s.count (Reg.UPD_COUNTER 0)).answer m okUpdate []
          let full := (s.update.staging.map (fun r => r.received.length)).getD 0 == st.pieces
          (if full then s.verifyStaging k else s).showUpdate
    | _, _ => s.refuse m St.UPD_NOT_STAGING

def execUpdatePiece (fails : Nat) (s : State) : Out := .next (s.serve 0x31 (State.updatePiece fails))

/-- UPDATE_STATUS (R460) reads the staging record in force (R448). The spec gives no widths for the first fields; they are 8, 32, 16 and 16 bits (DESIGN CHOICE). -/
def execUpdateStatus (s : State) : Out :=
  .next (s.serve 0x32 (fun m s =>
    let first := leAt m.body 0 2
    let st := s.update.staging
    let got := (st.map (fun r => r.received)).getD []
    let bits := (List.range 256).foldl (fun a i => if got.contains (first + i) then a + 2 ^ i else a) 0
    if first % 256 ≠ 0 then s.refuse m St.MGT_BAD_SIDEBAND_MESSAGE
    else s.answer m okUpdate (leBytes 1 s.engineState ++ leBytes 4 ((st.map (fun r => r.meld)).getD 0)
      ++ leBytes 2 ((st.map (fun r => r.pieces)).getD 0) ++ leBytes 2 got.length ++ leBytes 32 bits)))

/-! ### Activation (R452, R453) -/

/-- SET_CONDITIONS: held in the always-on domain. -/
def execSetConditions (s : State) : Out :=
  .next (s.serve 0x33 (fun m s =>
    let v := leAt m.body 0 1
    let s := s.wrF Reg.UPD_STATE Fld.UPD_STATE_MOTION (bitsAt v 0 1)
    let s := s.wrF Reg.UPD_STATE Fld.UPD_STATE_ON_BATTERY (bitsAt v 1 1)
    (s.wrF Reg.UPD_STATE Fld.UPD_STATE_OWNER_LOCK (bitsAt v 2 1)).answer m okUpdate []))

/-- The first three conditions of R453: the status that refuses or cancels. -/
def State.activationBar (s : State) : Option Nat :=
  if s.condition Fld.UPD_STATE_OWNER_LOCK then some St.UPD_REFUSED_OWNER_LOCK
  else if s.condition Fld.UPD_STATE_MOTION then some St.UPD_REFUSED_MOTION
  else if s.condition Fld.UPD_STATE_ON_BATTERY || s.rdB Reg.HLT_STATE Fld.HLT_STATE_HOLDUP_LOW then some St.UPD_REFUSED_POWER
  else none

/-- The activation ends without a reset: ACTIVATE is answered now. -/
def State.endActivation (st : Nat) (s : State) : State :=
  let m := s.update.activating
  let s := { s with update := { s.update with activating := none } }
  let s := { s with mgmt := { s.mgmt with jobs := s.mgmt.jobs.filter (fun (j : ResetJob) => j.scope != ResetScope.module) } }
  let s := (s.wrF Reg.RST_CMD_STATUS Fld.RST_CMD_STATUS_BUSY (boolNat (!s.mgmt.jobs.isEmpty))).showUpdate
  match m with
  | some m => s.refuse m st
  | none => s

/-- Steps 5 and 6: the trial is recorded, ACTIVATE is answered, and the module resets. -/
def State.startTrial (boot : Boot) (more : List Boot) (s : State) : State :=
  match slotIn s.update.boot slotStaged with
  | none => s.endActivation St.UPD_STAGING_INCOMPLETE
  | some k =>
    let s := s.writeBoot { setSlotState k slotTrial s.update.boot with trialMeld := slotMeldOf s.update.boot k, attempts := 0 }
    let s := match s.update.activating with
      | some m => s.answer m okUpdate []
      | none => s
    ({ s with update := { s.update with activating := none } }).moduleReset boot more

/-- Step 4: the conditions are checked again. -/
def State.recheck (boot : Boot) (more : List Boot) (s : State) : State :=
  match s.activationBar with
  | some _ => s.endActivation St.UPD_ACTIVATION_CANCELLED
  | none => s.startTrial boot more

/-- ACTIVATE (R453). -/
def State.activate (boot : Boot) (more : List Boot) (m : SidebandMsg) (s : State) : State :=
  let refused := fun st => (s.count (Reg.UPD_COUNTER 4)).refuse m st
  let recovery := s.update.recovery
  match s.activationBar with
  | some st => refused st
  | none =>
    if s.engineState ≠ 0 then refused St.UPD_UPDATE_BUSY
    else
      match slotIn s.update.boot slotStaged with
      | none => refused St.UPD_STAGING_INCOMPLETE
      | some k =>
        let s := s.count (Reg.UPD_COUNTER 3)
        match s.verifySlot k false with
        | some st => ((s.writeBoot (setSlotState k slotRejected s.update.boot)).showUpdate).refuse m st
        | none =>
          let s := ({ s with update := { s.update with activating := some m } }).showUpdate
          if recovery then s.startTrial boot more
          else if bitOf (leAt m.body 0 1) 0 || !s.ready then s.recheck boot more
          else
            let j : ResetJob := ⟨.module, 0, true, s.now, [], [], 0⟩
            let live := (List.range 4).filter (fun p => s.partState p == 1)
            let s := s.overList live (fun p t => t.wrF (Reg.PART_STATE p) Fld.PART_STATE_STATE 2)
            let s := (s.addJob j).wrF Reg.RST_CMD_STATUS Fld.RST_CMD_STATUS_BUSY 1
            if s.drained j then s.recheck boot more else s

def execActivate (boot : Boot) (more : List Boot) (s : State) : Out := .next (s.serve 0x34 (State.activate boot more))

/-- ACTIVATION_DRAIN_COMPLETE: drain has ended, or has lasted DRAIN_TIMEOUT_MS, after which absorb applies (R399). -/
def execActivationDrainComplete (boot : Boot) (more : List Boot) (s : State) : Out :=
  match s.update.activating, s.mgmt.jobs.find? (fun (j : ResetJob) => j.scope == ResetScope.module) with
  | some _, some j =>
    if s.drained j then .next (s.recheck boot more)
    else if s.now < j.started + s.rdF Reg.RST_CFG Fld.RST_CFG_DRAIN_TIMEOUT_MS * msNs then .next s
    else .next (((s.post St.RST_DRAIN_TIMED_OUT).count (Reg.RST_COUNTER 3)).recheck boot more)
  | _, _ => .next s

/-! ### Showdown (R455, R456) -/

/-- When the running attempt's deadline passes. -/
def State.showdownDue (s : State) : Nat := s.update.stage1At + s.rdF Reg.UPD_CFG Fld.UPD_CFG_SHOWDOWN_MIN * 60000000000

/-- A confirmation that names the trial's meld, in READY and before the deadline, passes: fuses burn first, then the record is written. -/
def State.confirm (meld : Nat) (s : State) : Option State :=
  match slotIn s.update.boot slotTrial with
  | none => none
  | some t =>
    if !s.ready || s.update.boot.trialMeld ≠ meld || decide (s.showdownDue ≤ s.now) then none
    else
      let below := if s.isFactory t then 0 else (s.manifestAt t).revokeBelow
      let s := { s with fuses := { s.fuses with
        floor := max s.fuses.floor (s.slotSecurity t), revoked := s.fuses.revoked ||| (2 ^ below - 1) } }
      let former := if slotStateOf s.update.boot (1 - t) = slotConfirmed then slotPrevious else slotStateOf s.update.boot (1 - t)
      let r := setSlotState t slotConfirmed (setSlotState (1 - t) former s.update.boot)
      some (((s.writeBoot { r with trialMeld := 0, attempts := 0 }).post St.UPD_SHOWDOWN_PASSED).showUpdate)

def execShowdownConfirm (s : State) : Out :=
  .next (s.serve 0x35 (fun m s =>
    match s.confirm (leAt m.body 0 4) with
    | some t => t.answer m okUpdate []
    | none => s.refuse m St.UPD_CONFIRM_MISMATCH))

/-- A host write of UPD_CONFIRM. -/
def State.hostConfirm (value : Nat) (s : State) : State :=
  match (if s.rdB Reg.UPD_CFG Fld.UPD_CFG_HOST_CONFIRM then s.confirm value else none) with
  | some t => t
  | none => s.post St.UPD_CONFIRM_MISMATCH

def execUpdConfirmWrite (value : Nat) (s : State) : Out := .next (if s.pcieUp then s.hostConfirm value else s)

/-- SHOWDOWN_DEADLINE (R456): the deadline has passed and the module resets with drain; after a halt or a severity 0x5 event in showdown it
resets with absorb. -/
def execShowdownDeadline (boot : Boot) (more : List Boot) (s : State) : Out :=
  .next (if !s.inShowdown || !s.mgmtRuns then s
    else if s.mgmt.fatal.isSome then s.requestModule true boot more
    else if s.power.standby || decide (s.now < s.showdownDue) || s.mgmt.jobs.any (fun (j : ResetJob) => j.scope == ResetScope.module) then s
    else s.requestModule false boot more)

/-! ### Identity and attestation (R457 to R459) -/

/-- VARIANT and GRADE as the certificate and the report give them. -/
def State.identityCode (s : State) : Nat := s.fuses.variantCode + boolNat s.fuses.gradeL * 4

/-- The certificate in the NOR (R458): the fields the spec gives, IDENTITY_KEY as the public key of the fused secret (R457), and the bytes that
manufacture wrote. -/
def State.certificate (s : State) : List Byte :=
  let own := fun i n => (List.range n).map (fun j => BitVec.ofNat 8 (Config.certificateByte (i + j)))
  leBytes 2 0xD8A6 ++ leBytes 2 1 ++ leBytes 8 s.fuses.serial ++ leBytes 1 s.identityCode ++ own 13 1 ++ leBytes 2 0
    ++ ed448Public s.fuses.identity ++ leBytes 7 0 ++ own 80 114

/-- A byte of the boot NOR (R439): the loader's copies, the boot control and staging sectors, the certificate, the reserved space, and the slots. -/
def State.norByte (s : State) (off : Nat) : Byte :=
  let factory := BitVec.ofNat 8 (Config.norFactoryByte off)
  if off < 0x200000 then factory
  else if inRange 0x230000 0x10000 off then s.certificate.getD (off - 0x230000) 0xFF
  else if off < 0x250000 then cellsGet 0xFF s.controlCells off
  else if off < 0x400000 then 0xFF
  else if s.update.factory.contains (if off < 0x2200000 then 0 else 1) then factory
  else cellsGet 0xFF s.update.nor off

/-- GET_IDENTITY reads the certificate from the NOR (R458). -/
def execGetIdentity (s : State) : Out := .next (s.serve 0x38 (fun m s => s.answer m okUpdate s.certificate))

/-- Bytes 0 to 207 of a report. -/
def State.reportFields (s : State) (nonce : List Byte) : List Byte :=
  let slot := s.rdF Reg.UPD_STATE Fld.UPD_STATE_BOOTED + boolNat s.inShowdown * 2 + s.rdF Reg.UPD_STATE Fld.UPD_STATE_FELL_BACK * 4
  leBytes 2 0xD8A7 ++ leBytes 2 1 ++ nonce ++ leBytes 8 s.fuses.serial ++ leBytes 1 s.identityCode ++ leBytes 1 slot ++ leBytes 2 0
    ++ leBytes 4 s.update.bootedVersion ++ leBytes 4 s.update.bootedMeld ++ leBytes 4 s.fuses.floor ++ leBytes 4 (s.rdN Reg.DECK_EPOCH)
    ++ leBytes 8 s.now ++ leBytes 4 (s.rdN Reg.MGT_BRINGUPS) ++ leBytes 4 0 ++ s.update.manifestDigest ++ s.update.configDigest

/-- ATTEST (R459): the key engine signs the report that it has filled with the identity key; refused before stage 2 has completed, and in
recovery. -/
def execAttest (s : State) : Out :=
  .next (s.serve 0x37 (fun m s =>
    let result := s.rdF (Reg.STAGE_STATUS 2) Fld.STAGE_STATUS_RESULT
    if result = 0 ∨ result = 3 ∨ s.update.recovery then s.refuse m St.UPD_UPDATE_BUSY
    else
      let b := s.reportFields m.body
      (s.count (Reg.UPD_COUNTER 6)).answer m okUpdate (b ++ ed448Sign s.fuses.identity b)))

end Sys2Proof.Machine
end

