-- ==== Sys2Proof/Machine/Registers.lean ====
section
/-! DEFINITION. Machine/Registers.lean: a host's access to a register: where it lands (R35, R37, R313, R314, R378), when a register counts as
running (R407), what a read returns (R10, R406), and the write of a register that has no command of its own. -/
namespace Sys2Proof.Machine

/-! ### Where an access lands -/

/-- Word of a function's MSI-X table that an offset names, as a byte offset into the table (R314, R318). -/
def msixAt (fn off : Nat) : Option Nat :=
  let base := if fn = 0 then 0xA80000 else 0x60000
  if base ≤ off ∧ off < base + 0x1000 then some (off - base) else none

/-- The BAR0 offset of PF0 that a function's access reaches (R314); none for a reserved offset, or a page of a resource that the partition
does not own. -/
def State.barOffset (s : State) (fn off : Nat) : Option Nat :=
  let p := fn - 1
  let rel := fun (base : Nat) => off - base
  let lies := fun (base n : Nat) => base ≤ off && decide (off < base + n)
  if fn = 0 then (if off < 0x1000000 then some off else none)
  else if lies 0 0x1000 then some (0x202000 + 0x1000 * p + off)
  else if lies 0x10000 0x1000 then some (0x302000 + 0x1000 * p + rel 0x10000)
  else if lies 0x12000 0x2000 then
    (let sl := rel 0x12000 / 0x400
     if s.slotOwned sl && s.slotOwner sl == p then some (0x306000 + rel 0x12000) else none)
  else if lies 0x20000 0x10000 then
    (if s.pipeOwner (rel 0x20000 / 0x1000) = some p then some (0x802000 + rel 0x20000) else none)
  else if lies 0x40000 0x1000 then some (0x702000 + 0x1000 * p + rel 0x40000)
  else if lies 0x41000 0x100 then
    (if s.dieOwner (rel 0x41000 / 0x40) = some p then some (0x701100 + rel 0x41000) else none)
  else if lies 0x50000 4 then some (Reg.WIN_BASE fn)
  else none

/-- Blocks that answer before the module is ready (R378): MGT, PCI, HLT, UPD and RST. -/
def State.blockOpen (s : State) (off : Nat) : Bool := s.ready || [0x0, 0xA, 0xC, 0xD, 0xF].contains (off / 0x100000)

/-- A function is there (R312), and its BARs answer (R378). -/
def State.fnAnswers (s : State) (fn : Nat) : Bool := fn == 0 || (decide (fn < 5) && s.ready && s.partExists (fn - 1))

/-! ### Registers that other commands write -/

def allRings : List RingRef :=
  (List.range 4).flatMap (fun p => (List.range 8).flatMap (fun q => [.sq p q, .cq p q]))
    ++ (List.range 4).flatMap (fun p => (List.range 4).flatMap (fun q => [.rq p q, .scq p q]))
    ++ (List.range 16).flatMap (fun m => [.msq m, .mcq m])
    ++ (List.range 4).flatMap (fun i => [.eq i, .rkq i]) ++ [.tln]

/-- The low word of a ring's base. -/
def ringBaseReg : RingRef → Nat
  | .sq p q => Reg.SQ_BASE_LO p q
  | .cq p q => Reg.CQ_BASE_LO p q
  | .rq p q => Reg.RQ_BASE_LO p q
  | .scq p q => Reg.SCQ_BASE_LO p q
  | .msq m => Reg.MSQ_BASE_LO m
  | .mcq m => Reg.MCQ_BASE_LO m
  | .eq d => Reg.EQ_BASE_LO d
  | .rkq p => Reg.RKQ_BASE_LO p
  | .tln => Reg.TLN_CMD_BASE_LO

/-- The tail or head that the host writes. -/
def ringPointerReg : RingRef → Nat
  | .sq p q => Reg.SQ_TAIL p q
  | .cq p q => Reg.CQ_HEAD p q
  | .rq p q => Reg.RQ_TAIL p q
  | .scq p q => Reg.SCQ_HEAD p q
  | .msq m => Reg.MSQ_TAIL m
  | .mcq m => Reg.MCQ_HEAD m
  | .eq d => Reg.EQ_TAIL d
  | .rkq p => Reg.RKQ_TAIL p
  | .tln => Reg.TLN_CMD_TAIL

/-- Registers whose write is a command of its own: ring pointers, HOST_CAP_W, ABORT_SEQ, TAG_POST_CMD, WIN_BASE, RST_CMD, HLT_ALERT and
UPD_CONFIRM. -/
def writtenElsewhere (off : Nat) : Bool :=
  allRings.any (fun r => ringPointerReg r == off)
    || [Reg.PWR_CAP, Reg.RST_CMD, Reg.HLT_ALERT, Reg.UPD_CONFIRM].contains off
    || (List.range 4).any (fun p => off == Reg.ABORT_SEQ p || off == Reg.TAG_POST_CMD p)
    || (List.range 5).any (fun f => off == Reg.WIN_BASE f)

/-! ### When a register counts as running (R407) -/

/-- Offset within a page of n bytes from a base, and the page's number. -/
def pageOf (base n count off : Nat) : Option (Nat × Nat) :=
  if base ≤ off ∧ off < base + n * count then some ((off - base) / n, (off - base) % n) else none

/-- A slot page counts as running while the slot's STATE is LOADING or READY. -/
def State.slotRuns (s : State) (sl : Nat) : Bool := s.slotState sl == 1 || s.slotState sl == 2

/-- The block of a register counts as running for its RL fields. -/
def State.registerRuns (s : State) (off : Nat) : Bool :=
  (match allRings.find? (fun r => off == ringBaseReg r || off == ringBaseReg r + 4) with
   | some r => s.ringRuns r
   | none => false)
    || (match pageOf 0x306000 0x400 8 off with
        | some (sl, _) => s.slotRuns sl
        | none => false)
    || (match pageOf 0x406000 0x400 8 off with
        | some (sl, _) => s.slotRuns sl
        | none => false)
    || (match pageOf 0x702000 0x1000 4 off with
        | some (p, o) =>
          (match pageOf 0x100 0x80 16 o with
           | some (i, _) => s.rdB (Reg.PIPE_CFG_VIS p i) Fld.PIPE_CFG_VIS_ENABLE
           | none => false)
        | none => false)
    || (match pageOf 0x802000 0x1000 16 off with
        | some (m, o) =>
          (o == 8 || o == 12)
            && decide (s.rdF (Reg.PIPE_INFO m) Fld.PIPE_INFO_DEC_OPEN + s.rdF (Reg.PIPE_INFO m) Fld.PIPE_INFO_ENC_OPEN ≠ 0)
        | none => false)
    || (match pageOf 0xB10000 0x40 1024 off with
        | some (k, _) => s.cvState (k / 8) (k % 8) == 1
        | none => false)

/-! ### Writes -/

/-- A word of an MSI-X table. Bits 1:0 of the address and bits 31:1 of Vector Control are reserved; a vector whose mask is cleared sends what
is pending (R318). -/
def State.writeMsix (fn i v : Nat) (s : State) : State :=
  let w := i / 4 % 4
  let v := if w = 0 then v - v % 4 else if w = 3 then v % 2 else v
  let s := { s with pcie := { s.pcie with msix := mapSet (4096 * fn + i) v s.pcie.msix } }
  s.releaseVector fn (i / 16)

/-- What else a write of an offset does: a cleared VALID clears LAST_STATUS (R38), a KV_FORMAT of 0b11 is reported (R217), and RESULT follows
the RUNNING of a check-value context (R416). -/
def State.afterWrite (off v : Nat) (s : State) : State :=
  let s := if off % 0x100000 = 4 ∧ !bitOf (s.rdN off) 16 then s.wrF off ⟨15, 0⟩ 0 else s
  let s := if (List.range 8).any (fun sl => off == Reg.KV_FMT sl) && v % 4 == 3 then s.post St.KVC_FORMAT_STORED_DEFAULT else s
  match pageOf 0xB10000 0x40 1024 off with
  | some (k, _) => if k / 8 < s.fuses.checkUnitCount then s.showResult (k / 8) (k % 8) else s
  | none => s

/-- A 32-bit write that reaches a register with a command of its own, as a half of a 64-bit access may (R36): its command's effect. RST_CMD at module
scope takes the next bring-up with it and is left to its own commands (log 43). -/
def State.writeOwn (fn off v : Nat) (s : State) : State :=
  match allRings.find? (fun r => ringPointerReg r == off) with
  | some r => s.pointerWrite ((s.ringOwner r).getD 0) r ⟨fn, false, off, 4, v⟩
  | none =>
    if off = Reg.PWR_CAP then s.hostCap v
    else if off = Reg.HLT_ALERT then s.ackAlerts v
    else if off = Reg.UPD_CONFIRM then s.hostConfirm v
    else if off = Reg.RST_CMD then s.resetCommand v
    else
      match (List.range 4).find? (fun p => off == Reg.ABORT_SEQ p), (List.range 4).find? (fun p => off == Reg.TAG_POST_CMD p),
          (List.range 5).find? (fun f => off == Reg.WIN_BASE f) with
      | some p, _, _ => s.abortSeq fn p v
      | _, some p, _ => s.hostTagPost fn p (v % 2 ^ 16) (v / 2 ^ 16 % 4)
      | _, _, some f => s.winBase fn f v
      | _, _, _ => s

/-- One aligned 32-bit write at a BAR0 offset. -/
def State.writeOffset (fn off v : Nat) (s : State) : State :=
  if writtenElsewhere off then s.writeOwn fn off v
  else
    match allRings.find? (fun r => ringCfg r == off) with
    | some r => if s.ringFitted r then s.enableWrite r v else s
    | none =>
      match pageOf 0xB10000 0x40 1024 off with
      | some (k, 0) =>
        if !cvContextFits s (k / 8) (k % 8) then s
        else if bitOf v 31 then s.hostAttach (k / 8) (k % 8) v else s.hostDetach (k / 8) (k % 8) v
      | _ => (s.writeReg (s.registerRuns off) off v).afterWrite off v

/-- One aligned 32-bit write of a function. -/
def State.writeBar (fn off v : Nat) (s : State) : State :=
  if !s.fnAnswers fn then s
  else
    match msixAt fn off with
    | some i => s.writeMsix fn i v
    | none =>
      match s.barOffset fn off with
      | some o => if s.blockOpen o then s.writeOffset fn o v else s
      | none => s

/-- REGISTER_WRITE (R10, R36): an access that is not of 32 or 64 bits and aligned to its width changes nothing; one of 64 bits is two of 32,
low word first. -/
def execRegisterWrite (fn off bytes value : Nat) (s : State) : Out :=
  if !s.pcieUp || decide (5 ≤ fn) then .next s
  else if (bytes ≠ 4 ∧ bytes ≠ 8) ∨ off % bytes ≠ 0 then .next (s.aerError.emit (.unsupported fn))
  else
    let s := s.writeBar fn off (value % 2 ^ 32)
    .next (if bytes = 8 then s.writeBar fn (off + 4) (value / 2 ^ 32 % 2 ^ 32) else s)

/-! ### Reads -/

/-- Tasks of a class that are READY or RESERVED (R91), and the graphs and tasks that a partition holds (R89). -/
def State.readyCount (s : State) (p c : Nat) : Nat :=
  ((s.heldGraphs p).map (fun g => (g.tasks.filter (fun (t : Task) => classCode t.desc.cls == c && (t.phase == .ready || t.phase == .reserved))).length)).sum

/-- A word of the history record that HLT_HIST_SEL selects (R429); 0 where none is held. -/
def State.historyWord (s : State) (i : Nat) : Nat :=
  match s.recordAt (s.rdN Reg.HLT_HIST_SEL) with
  | some r => leAt (recordWords r) (4 * i) 4
  | none => 0

/-- The list entry that MEM_RETIRE_SEL selects (R137). -/
def State.retireSelected (s : State) : Nat :=
  match (s.entriesOf (s.rdF Reg.MEM_RETIRE_SEL Fld.MEM_RETIRE_SEL_DIE))[s.rdF Reg.MEM_RETIRE_SEL Fld.MEM_RETIRE_SEL_INDEX]? with
  | some e => retireWord e
  | none => 0

/-- UPD_SHOWDOWN as it reads now: REMAINING_MIN runs with the timebase (R455). -/
def State.showdownWord (s : State) : Nat :=
  (s.wrF Reg.UPD_SHOWDOWN Fld.UPD_SHOWDOWN_REMAINING_MIN (min 0xFFFF s.remainingMin)).rdN Reg.UPD_SHOWDOWN

/-- What a read of a BAR0 offset returns: registers that show other state are computed from it, every other as stored (R10, R406). -/
def State.readOffset (s : State) (off : Nat) : Nat :=
  if off = Reg.MGT_TIME_LO then s.now % 2 ^ 32
  else if off = Reg.MGT_TIME_HI then s.mgmt.timeLatch
  else if off = Reg.HLT_PART_VALUE_LO then s.partValue % 2 ^ 32
  else if off = Reg.HLT_PART_VALUE_HI then s.ledger.partLatch
  else if off = Reg.HLT_HIST_FIRST then s.firstRecord % 2 ^ 32
  else if off = Reg.HLT_HIST_NEXT then s.ledger.nextSeq % 2 ^ 32
  else if off = Reg.MEM_RETIRE_ENTRY then s.retireSelected
  else if off = Reg.UPD_SHOWDOWN then s.showdownWord
  else
    match (List.range 8).find? (fun i => off == Reg.HLT_HIST_DATA i) with
    | some i => s.historyWord i
    | none =>
      match (List.range 4).find? (fun p => off == Reg.IN_FLIGHT p) with
      | some p => (s.heldGraphs p).length + s.heldTasks p * 2 ^ 8
      | none =>
        match pageOf 0x202000 0x1000 4 off with
        | some (p, o) => if 0x40 ≤ o ∧ o < 0x54 ∧ o % 4 = 0 then s.readyCount p ((o - 0x40) / 4) else s.readStored off
        | none => s.readStored off

/-- One aligned 32-bit read of a function (R37, R312, R314, R318, R378). -/
def State.readBar (s : State) (fn off : Nat) : Nat :=
  if !s.fnAnswers fn then 0
  else
    match msixAt fn off with
    | some i => s.msixWord fn (i / 16) (i / 4 % 4)
    | none =>
      let pba := if fn = 0 then 0xA81000 else 0x61000
      if pba ≤ off ∧ off < pba + 32 then
        (List.range 32).foldl (fun a b => a + boolNat (s.pcie.pending.contains (256 * fn + 8 * (off - pba) + b)) * 2 ^ b) 0
      else
        match s.barOffset fn off with
        | some o => if s.blockOpen o then s.readOffset o else 0
        | none => 0

/-- What reading a register leaves behind: the low words of the timebase (R19) and of HLT_PART_VALUE (R427) latch their high words. -/
def State.latchRead (s : State) (fn off : Nat) : State :=
  if fn ≠ 0 then s
  else if off = Reg.MGT_TIME_LO then s.latchTime
  else if off = Reg.HLT_PART_VALUE_LO then s.latchPart
  else s

/-- A host's read of BAR0 (R36): 32 or 64 bits, aligned to its width, the latter as two reads, low word first; any other is an Unsupported Request. -/
def State.bar0Read (s : State) (fn off bytes : Nat) : BarAnswer :=
  if (bytes ≠ 4 ∧ bytes ≠ 8) ∨ off % bytes ≠ 0 then .unsupported
  else
    let lo := s.readBar fn off
    if bytes = 4 then .data lo else .data (lo + 2 ^ 32 * (s.latchRead fn off).readBar fn (off + 4))

end Sys2Proof.Machine
end

