-- ==== Sys2Proof/Machine/Sideband.lean ====
section
/-! DEFINITION. Machine/Sideband.lean: the rails, the discrete lines, the I3C target, MCTP control and PLDM, and the arrival of Hjeluno's own
messages (R246, R465 to R479). -/
namespace Sys2Proof.Machine

/-! ### Rails and presence (R246, R351, R465 to R469) -/

/-- The always-on domain starts: SLOT_ID is sampled, and the I3C target comes up (R467, R472, R474). -/
def State.startAlwaysOn (s : State) : State :=
  { s with side := { s.side with slotId := s.side.slotIdLine, targetUp := true } }

/-- PRESENCE_LOSS: PRSNT_N reads high. -/
def execPresenceLoss (s : State) : Out :=
  .next (if !s.side.present then s else s.losePresence)

/-- PRESENCE_RETURN: read at the next release of RESET_N. -/
def execPresenceReturn (s : State) : Out := .next { s with side := { s.side with present := true } }

/-- INPUT_POWER_LOSS: the 48 V bus is lost; the rails' readings are in units of 10 mV. -/
def execInputPowerLoss (reading : Nat) (s : State) : Out :=
  .next (if !s.side.bus48 then s else s.loseInput reading)

/-- INPUT_POWER_APPLIED. -/
def execInputPowerApplied (reading : Nat) (s : State) : Out :=
  let t := if s.mgmtRuns then s else s.startAlwaysOn
  .next { t with side := { t.side with bus48 := true, volts48 := reading } }

/-- AUX_POWER_APPLIED. -/
def execAuxPowerApplied (reading : Nat) (s : State) : Out :=
  let t := if s.mgmtRuns then s else s.startAlwaysOn
  .next { t with side := { t.side with aux12 := true, volts12 := reading } }

/-- AUX_POWER_LOSS: while 48 V is present it changes nothing else (R465). -/
def execAuxPowerLoss (reading : Nat) (s : State) : Out :=
  .next (if !s.side.aux12 then s
    else ({ s with side := { s.side with aux12 := false, volts12 := reading } }).afterLoss)

/-- LATCH_LOCKED_CHANGE: reported only (R473). -/
def execLatchLockedChange (locked : Bool) (s : State) : Out := .next { s with side := { s.side with latchLocked := locked } }

/-! ### Arrival of Hjeluno messages (R475 to R477) -/

/-- Body lengths that a CODE allows, lowest and highest; none where the CODE is unknown. -/
def bodyRange : Nat → Option (Nat × Nat)
  | 0x01 => some (2, 2)
  | 0x02 => some (3, 3)
  | 0x03 => some (4, 4)
  | 0x04 => some (1, 1)
  | 0x05 | 0x06 | 0x07 | 0x10 | 0x12 | 0x20 | 0x36 | 0x38 => some (0, 0)
  | 0x11 => some (12, 65600)
  | 0x13 | 0x14 | 0x23 | 0x33 | 0x34 => some (1, 1)
  | 0x15 | 0x21 | 0x32 => some (2, 2)
  | 0x22 | 0x35 => some (4, 4)
  | 0x30 => some (6, 6)
  | 0x31 => some (33, 4128)
  | 0x37 => some (32, 32)
  | _ => none

/-- Reserved bits of a request's body. -/
def reservedBits : Nat → Nat
  | 0x13 => 0xE0
  | 0x14 => 0xFE
  | 0x15 => 0x000E
  | 0x33 => 0xF8
  | 0x34 => 0xFE
  | _ => 0

/-- The header and the body keep R476 and R477. -/
def messageOk (b : List Byte) : Bool :=
  let body := b.drop 6
  let code := leAt b 4 1
  decide (6 ≤ b.length) && bitsAt (leAt b 3 1) 5 2 == 0 && leAt b 5 1 == 0
    && (match bodyRange code with
      | none => false
      | some (lo, hi) => decide (lo ≤ body.length ∧ body.length ≤ hi))
    && (leAt body 0 2 &&& reservedBits code) == 0

/-- SIDEBAND_MESSAGE_RECEIVE: the assembled message. Another type, an integrity check, another vendor, a response and more than 65,600 bytes
are dropped; a tenth message is answered SIDEBAND_BUSY. A bad message takes its place in the order, and is answered at once only where none is
before it. -/
def execSidebandMessageReceive (bytes : List Nat) (s : State) : Out :=
  let b := bytes.map (BitVec.ofNat 8)
  let vendor := leAt b 1 1 * 256 + leAt b 2 1
  let m : SidebandMsg := ⟨leAt b 3 1 % 32, leAt b 4 1, b.drop 6, !messageOk b⟩
  .next (if !s.mgmtRuns || !s.side.targetUp || decide (65600 < b.length) || leAt b 0 1 != 0x7E || vendor != s.fuses.vendorId % 65536
      || bitOf (leAt b 3 1) 7 || decide (b.length < 5) then s
    else if 9 ≤ s.side.held.length then s.refuse m St.MGT_SIDEBAND_BUSY
    else if m.bad && s.side.held.isEmpty then s.refuse m St.MGT_BAD_SIDEBAND_MESSAGE
    else
      let s := if m.code = 0x07 || m.bad then s else s.wake
      { s with side := { s.side with held := s.side.held ++ [m] } })

/-! ### The I3C target (R474) -/

/-- SETDASA: answered at the static address 0x50 + SLOT_ID, while the target holds no dynamic address. -/
def execSetdasa (static addr : Nat) (s : State) : Out :=
  .next (if s.mgmtRuns && s.side.targetUp && static == 0x50 + s.side.slotId && s.side.dynamicAddr.isNone then
      { s with side := { s.side with dynamicAddr := some (addr % 128) } }
    else s)

/-- ENTDAA: a target without a dynamic address takes one. -/
def execEntdaa (addr : Nat) (s : State) : Out :=
  .next (if s.mgmtRuns && s.side.targetUp && s.side.dynamicAddr.isNone then
      { s with side := { s.side with dynamicAddr := some (addr % 128) } }
    else s)

/-! ### MCTP control (R475)

Command codes, completion codes and the order of the fields are DSP0236's (PRESUMED). An answer is the command code, the completion code,
and the data. -/

def State.mctpControl (cmd : Nat) (body : List Nat) (s : State) : State :=
  if s.mgmtRuns && s.side.targetUp then s.emitPacket (.mctp (cmd :: body)) else s

def invalidData : Nat := 2

/-- SET_ENDPOINT_ID: operation 0 sets and 1 forces an identifier; the module has no static one to reset to. -/
def execSetEndpointId (op eid : Nat) (s : State) : Out :=
  .next (if !s.mgmtRuns || !s.side.targetUp then s
    else if 2 ≤ op ∨ eid = 0 ∨ 0xFF ≤ eid then s.mctpControl 1 [invalidData]
    else ({ s with side := { s.side with endpointId := eid } }).mctpControl 1 [0, 0, eid, 0])

def execGetEndpointId (s : State) : Out := .next (s.mctpControl 2 [0, s.side.endpointId, 0, 0])

/-- GET_MCTP_VERSION_SUPPORT: of the base specification (0xFF) and the message types accepted. -/
def execGetMctpVersionSupport (type : Nat) (s : State) : Out :=
  .next (if [0xFF, 0x00, 0x01, 0x7E].contains type then
      s.mctpControl 4 ([0, 1] ++ (leBytes 4 (Config.mctpVersion type)).reverse.map (fun x => x.toNat))
    else s.mctpControl 4 [0x80])

/-- GET_MESSAGE_TYPE_SUPPORT: the types beside MCTP control. -/
def execGetMessageTypeSupport (s : State) : Out := .next (s.mctpControl 5 [0, 2, 0x01, 0x7E])

/-- GET_VENDOR_MESSAGE_SUPPORT: selector 0 is the only one: PCI format, the Vendor ID, command set version 0x0001. -/
def execGetVendorMessageSupport (selector : Nat) (s : State) : Out :=
  .next (if selector = 0 then
      s.mctpControl 6 [0, 0xFF, 0, s.fuses.vendorId / 256 % 256, s.fuses.vendorId % 256, 0, 1]
    else s.mctpControl 6 [invalidData])

/-! ### PLDM (R479)

Command codes, completion codes and the order of the fields are DSP0240's and DSP0248's (PRESUMED). An answer is the command code, the
completion code, and the data. -/

def State.pldm (cmd : Nat) (body : List Nat) (s : State) : State :=
  if s.mgmtRuns && s.side.targetUp then s.emitPacket (.pldm (cmd :: body)) else s

def nats (b : List Byte) : List Nat := b.map (fun x => x.toNat)
def le (n v : Nat) : List Nat := nats (leBytes n v)

/-- GET_TID: no terminus identifier is ever assigned. -/
def execGetTid (s : State) : Out := .next (s.pldm 2 [0, 0])

def pldmTypes : List Nat := [0, 2]
def pldmCommandsOf (type : Nat) : List Nat := if type = 0 then [0x02, 0x03, 0x04, 0x05] else [0x11, 0x21, 0x50, 0x51]

/-- A bitmap of n bytes. -/
def bitmapBytes (n : Nat) (l : List Nat) : List Nat := le n (l.foldl (fun a i => a + 2 ^ i) 0)

/-- CRC-32 of a version word, which closes the transfer. -/
def versionCrc (v : Nat) : Nat := crcResult (crcAlg 1) (crcFeed (crcAlg 1) (crcAlg 1).init (leBytes 4 v))

/-- GET_PLDM_VERSION: one version per type, in one part. -/
def execGetPldmVersion (opFlag type : Nat) (s : State) : Out :=
  .next (if !pldmTypes.contains type then s.pldm 3 [0x83]
    else if opFlag ≠ 1 then s.pldm 3 [0x81]
    else
      let v := Config.pldmVersion type
      s.pldm 3 ([0] ++ le 4 0 ++ [5] ++ le 4 v ++ le 4 (versionCrc v)))

def execGetPldmTypes (s : State) : Out := .next (s.pldm 4 ([0] ++ bitmapBytes 8 pldmTypes))

def execGetPldmCommands (type version : Nat) (s : State) : Out :=
  .next (if !pldmTypes.contains type then s.pldm 5 [0x83]
    else if version ≠ Config.pldmVersion type % 2 ^ 32 then s.pldm 5 [0x84]
    else s.pldm 5 ([0] ++ bitmapBytes 32 (pldmCommandsOf type)))

/-- A numeric sensor's size code and reading: 0 is 8 bits, 2 is 16 bits, 3 is 16 bits two's complement. -/
def State.numericSensor (s : State) (id : Nat) : Option (Nat × List Nat) :=
  if 0x100 ≤ id ∧ id < 0x135 then
    if s.sensorFitted (id - 0x100) then some (3, le 2 (s.rdF (Reg.PWR_SENSOR (id - 0x100)) Fld.PWR_SENSOR_VALUE)) else none
  else if id = 0x200 then some (2, le 2 (s.power.input.headD 0))
  else if id = 0x201 then some (2, le 2 s.side.volts48)
  else if id = 0x202 then some (2, le 2 s.side.volts12)
  else if id = 0x203 then some (2, le 2 (s.ledgerGet 0x8000 0))
  else if id = 0x303 then some (0, le 1 s.side.slotId)
  else none

/-- A state sensor's state. Power states are numbered from 1 in the order of R479, lines read 1 for high or absent and 2 for low or present
(DESIGN CHOICE, log 257). The loss sequence is one step here, so that it is never seen under way. -/
def State.stateSensor (s : State) (id : Nat) : Option Nat :=
  if id = 0x300 then some (if s.power.standby then 1 else s.rdF Reg.PWR_STATE Fld.PWR_STATE_STATE + 1)
  else if id = 0x301 then some (if s.side.latchLocked then 1 else 2)
  else if id = 0x302 then some (if s.side.present then 2 else 1)
  else none

/-- GET_SENSOR_READING: enabled, without events; the spec gives no thresholds, so that the three states are free. -/
def execGetSensorReading (id : Nat) (s : State) : Out :=
  .next (match s.numericSensor id with
    | none => s.pldm 0x11 [0x80]
    | some (size, reading) =>
      let st := (List.range 3).map (fun i => Config.sensorState id i s.freeCtr % 256)
      (s.pldm 0x11 ([0, size, 0, 0] ++ st ++ reading)).drawn)

/-- GET_STATE_SENSOR_READINGS: one sensor, enabled; its previous and event states are free. -/
def execGetStateSensorReadings (id : Nat) (s : State) : Out :=
  .next (match s.stateSensor id with
    | none => s.pldm 0x21 [0x80]
    | some v =>
      let st := (List.range 2).map (fun i => Config.sensorState id i s.freeCtr % 256)
      (s.pldm 0x21 ([0, 1, 0, v] ++ st)).drawn)

/-- Sensors in the repository, in the order of their records: those of parts that the variant does not fit are absent. -/
def State.pdrSensors (s : State) : List Nat :=
  ((List.range 53).map (· + 0x100)).filter (fun id => (s.numericSensor id).isSome)
    ++ [0x200, 0x201, 0x202, 0x203, 0x300, 0x301, 0x302, 0x303]

/-- A numeric sensor's base unit and unit modifier, by DSP0248's codes (PRESUMED): °C, % RH, W, V in units of 10 mV, mJ, and a number. -/
def pdrUnit (id : Nat) : Nat × Nat :=
  if id < 0x134 then (2, 0) else if id = 0x134 then (65, 0) else if id = 0x200 then (7, 0)
  else if id = 0x201 ∨ id = 0x202 then (5, 0xFE) else if id = 0x203 then (8, 0xFD) else (0, 0)

/-- A numeric sensor's size code. -/
def pdrSize (id : Nat) : Nat := if id < 0x135 then 3 else if id = 0x303 then 0 else 2

/-- FP32 1/16 for the sensors of R369, else 1. -/
def pdrResolution (id : Nat) : Nat := if id < 0x135 then 0x3D800000 else 0x3F800000

/-- States that a state sensor can take: 1 to 5 of the power state, 1 and 2 of a line. -/
def pdrStates (id : Nat) : Nat := if id = 0x300 then 0x3E else 0x06

/-- Record h, counted from 1, in DSP0248's layout (PRESUMED): common header, terminus, sensor, and of what R479 gives the units, the resolution and the
states; every other byte is free. -/
def pdrRecord (h id : Nat) : List Nat :=
  let open_ := fun first n => (List.range n).map (fun i => Config.pdrByte id (first + i) % 256)
  let state := inRange 0x300 3 id
  let own := if state then open_ 0 8 ++ [1] ++ open_ 8 2 ++ [1, pdrStates id]
    else open_ 0 8 ++ [(pdrUnit id).1, (pdrUnit id).2] ++ List.replicate 7 0 ++ [1, pdrSize id] ++ le 4 (pdrResolution id) ++ le 4 0
      ++ open_ 8 (Config.pdrBytes id % 256)
  le 4 h ++ [1, if state then 4 else 2] ++ le 2 0 ++ le 2 (4 + own.length) ++ le 2 0 ++ le 2 id ++ own

/-- GET_PDR: `part` is the data transfer handle, the offset at which a further part starts; 0 names the first record and the first part. -/
def execGetPdr (handle part count : Nat) (s : State) : Out :=
  let l := s.pdrSensors
  let h := if handle = 0 then 1 else handle
  .next (match l[h - 1]? with
    | none => s.pldm 0x51 [0x82]
    | some id =>
      let r := pdrRecord h id
      let data := (r.drop part).take count
      let more := decide (part + count < r.length)
      let flag := if part = 0 then (if more then 0 else 5) else if more then 1 else 4
      let crc := if flag = 4 then [crcResult ⟨8, 0x07, 0, false, 0⟩ (crcFeed ⟨8, 0x07, 0, false, 0⟩ 0 (r.map (BitVec.ofNat 8)))] else []
      s.pldm 0x51 ([0] ++ le 4 (if h < l.length then h + 1 else 0) ++ le 4 (if more then part + count else 0) ++ [flag]
        ++ le 2 data.length ++ data ++ crc))

/-- GET_PDR_REPOSITORY_INFO: available; update times, record count, sizes, no transfer timeout. -/
def execGetPdrRepositoryInfo (s : State) : Out :=
  let l := s.pdrSensors
  let sizes := (List.range l.length).map (fun i => (pdrRecord (i + 1) (l.getD i 0)).length)
  .next (s.pldm 0x50 ([0, 0] ++ (List.range 26).map (fun i => Config.pdrTime i % 256) ++ le 4 l.length ++ le 4 sizes.sum
    ++ le 4 (sizes.foldl max 0) ++ [0]))

end Sys2Proof.Machine
end

