-- ==== Sys2Proof/Machine/KvDesc.lean ====
section
/-! DEFINITION. Machine/KvDesc.lean: the KV write and gather descriptors (R194 to R199, R206, R210 to R213). -/
namespace Sys2Proof.Machine

/-! ### Checks shared by both descriptors -/

/-- Fields of the head of a KV descriptor, and the record it names. -/
structure KvTarget where
  part : Nat
  die : Nat
  trick : Nat
  layer : Nat
  slot : Nat
  hand : HandRecord
  deriving DecidableEq, Repr

/-- The task's partition, C-die and trick, and the hand record of words 0 and 1 (R196, R212): none where the descriptor breaks
a rule that both share. -/
def State.kvTarget (s : State) (n : Nat) (w0 : Nat) : Option KvTarget :=
  match (s.coreAt n).task with
  | none => none
  | some (uid, _) =>
    match s.graphAt uid with
    | none => none
    | some g =>
      let hr := bitsAt w0 0 16
      let layer := bitsAt w0 16 8
      let sl := bitsAt w0 24 3
      match s.handAt g.part hr with
      | none => none
      | some h =>
        if decide (hr < s.handShare g.part) && decide (layer < s.slotLayers sl) && h.desc.slot == sl && s.slotOwned sl
            && s.slotOwner sl == g.part && h.phase != .resuming then
          some ⟨g.part, coreDie n, g.trick, layer, sl, h⟩
        else none

/-- What reading a page table found (R131, R217). -/
inductive TableCheck where
  /-- sound: the tag of each entry, in table order -/
  | sound (tags : List Nat)
  /-- a block of the table could not be read: the task fails -/
  | unreadable (st : Nat)
  | corrupt
  /-- a page descriptor could not be read: the partition has stopped -/
  | stopped
  deriving DecidableEq, Repr

/-- Page references name allocated pages of a C-die, by the descriptors in the reserve (R189); none where a descriptor cannot be read. -/
def State.pagesLive (d : Nat) : List Nat → State → Option Bool × State
  | [], s => (some true, s)
  | r :: t, s =>
    if 2 ^ 27 ≤ r ∨ refDie r ≠ d then (some false, s)
    else
      match s.hbmRead 4 (s.descAddr d (refOff r)) 16 with
      | (some _, _, s) => (none, s)
      | (none, b, s) => if leAt b 0 1 % 4 = 1 then s.pagesLive d t else (some false, s)

/-- Read the request's page table on a C-die from memory and check it (R131, R192, R217). -/
def State.checkTable (k : KvTarget) (s : State) : TableCheck × State :=
  let t := k.hand.table k.die
  let per := s.entriesPerBlock k.slot
  let size := s.entrySize k.slot
  let r := t.blocks.foldl (fun (acc : Option Nat × List Byte × State) o =>
    match acc with
    | (some st, b, s) => (some st, b, s)
    | (none, b, s) =>
      let r := s.hbmRead 3 (s.blockAddr k.die o) 4096
      (r.1, b ++ (r.2.1.drop 64).take (per * size), r.2.2)) (none, [], s)
  match r with
  | (some st, _, s) => (.unreadable st, s)
  | (none, b, s) =>
    let words := (List.range t.entries.length).map (fun i =>
      (leAt (b.drop (size * i)) 0 8, leAt (b.drop (size * i)) (16 + 4 * k.layer) 4))
    let chained := (words.foldl (fun (acc : Bool × Nat) w =>
      (acc.1 && bitsAt w.1 0 24 == acc.2, acc.2 + 2 ^ bitsAt w.1 24 4)) (true, 0)).1
    if !chained then (.corrupt, s)
    else
      match s.pagesLive k.die (words.map (fun w => w.2)) with
      | (none, s) => (.stopped, s)
      | (some false, s) => (.corrupt, s)
      | (some true, s) => (.sound (words.map (fun w => bitsAt w.1 28 2)), s)

/-- Go on with a sound table, and its tags; else the task or the partition ends (R217). -/
def State.withTable (n : Nat) (k : KvTarget) (go : List Nat → State → State) (s : State) : State :=
  match s.checkTable k with
  | (.sound tags, s) => go tags s
  | (.unreadable st, s) => s.failOnCore n st
  | (.corrupt, s) => s.postPartFatal k.part St.KVC_PAGE_TABLE_CORRUPT
  | (.stopped, s) => s

/-! ### Writing -/

/-- Copy the positions below a run into the row of a pending copy, for one layer slice (R206). -/
def State.copyBelow (k : KvTarget) (e : KvEntry) (runBase : Nat) (m : KvTraffic) (s : State) : Option Nat × KvTraffic × State :=
  match s.rowAt e.row with
  | none => (none, m, s)
  | some dst =>
    match dst.source.bind s.rowAt with
    | none => (none, m, s)
    | some src =>
      let s := (s.trickLease src.ref k.trick).lease src.ref
      let r := (List.range (runBase - e.basePos)).foldl (fun (acc : Option Nat × KvTraffic × State) i =>
        match acc with
        | (some st, m, s) => (some st, m, s)
        | (none, m, s) => s.copyPosition src dst k.layer i m) (none, m, s)
      let s := r.2.2.unlease src.ref
      if r.1.isSome then (r.1, r.2.1, s)
      else (none, r.2.1, s.updRow dst.ref (fun x => { x with fill := x.fill.set k.layer (runBase - e.basePos) }))

/-- A layer slice of a pending copy-on-write is done: its copy and the run that follows it have been written (R206, R208). -/
def State.noteCopied (k : KvTarget) (e : KvEntry) (s : State) : State :=
  if e.state = .copyPending then
    s.updHand k.part k.hand.index (fun h => { h with copied := setInsert (256 * k.die + k.layer) h.copied })
  else s

/-- Write positions of one layer slice into their page, the copy of a pending copy-on-write first: the status of a failure. -/
def State.writeRun (k : KvTarget) (first : Nat) (slots : List (List Byte)) (m : KvTraffic) (s : State) : Option Nat × KvTraffic × State :=
  match (k.hand.table k.die).covering first with
  | none => (none, m, s)
  | some e =>
    let slice := 256 * k.die + k.layer
    let c := if e.state = .copyPending ∧ !k.hand.copied.contains slice then s.copyBelow k e first m else (none, m, s)
    match c with
    | (some st, m, s) => (some st, m, s)
    | (none, m, s) =>
      match s.rowAt e.row with
      | none => (none, m, s)
      | some r =>
        let s := s.trickLease r.ref k.trick
        let w := slots.zipIdx.foldl (fun (acc : Option Nat × KvTraffic × State) x =>
          match acc with
          | (some st, m, s) => (some st, m, s)
          | (none, m, s) => s.writePosition r k.layer (first + x.2 - e.basePos) x.1 m) (none, m, s)
        match w with
        | (some st, m, s) => (some st, m, s)
        | (none, m, s) =>
          (none, m, (s.updRow r.ref (fun x =>
            { x with fill := x.fill.set k.layer (max (x.fill.getD k.layer 0) (first + slots.length - e.basePos)) })).noteCopied k e)

/-- Read kitty slots of one layer slice. -/
def State.readKitty (k : KvTarget) : List Nat → State → Option Nat × List (List Byte) × State
  | [], s => (none, [], s)
  | j :: t, s =>
    match s.hbmRead 3 (s.kittyAddr k.slot k.die k.hand.kitty k.layer j) (s.kittySlotBytes k.slot) with
    | (some st, _, s) => (some st, [], s)
    | (none, b, s) => let r := s.readKitty k t; (r.1, b :: r.2.1, r.2.2)

/-- First position of the run pending flush. -/
def HandRecord.pendingBase (h : HandRecord) : Nat := h.startPos - h.runSize (h.startPos - 1)

/-- Flush of the pending run for one layer slice (R198, R199). -/
def State.flushSlice (k : KvTarget) (s : State) : Option Nat × KvTraffic × State :=
  let slice := 256 * k.die + k.layer
  if !k.hand.flushPending || k.hand.flushed.contains slice then (none, .none, s)
  else
    let base := k.hand.pendingBase
    match s.readKitty k (List.range (k.hand.startPos - base)) with
    | (some st, _, s) => (some st, .none, s)
    | (none, slots, s) =>
      match s.writeRun k base slots (KvTraffic.none.add 0 slots.flatten []) with
      | (some st, m, s) => (some st, m, s)
      | (none, m, s) =>
        (none, m, s.updHand k.part k.hand.index (fun h => { h with flushed := setInsert slice h.flushed }))

def chunksOf (n : Nat) : Nat → List Byte → List (List Byte)
  | 0, _ => []
  | c + 1, l => l.take n :: chunksOf n c (l.drop n)

/-- Write kitty slots of one layer slice, from a slot on. -/
def State.writeKitty (k : KvTarget) (j : Nat) : List (List Byte) → State → Option Nat × State
  | [], s => (none, s)
  | b :: t, s =>
    match s.hbmWrite 3 (s.kittyAddr k.slot k.die k.hand.kitty k.layer j) b with
    | (some st, s) => (some st, s)
    | (none, s) => s.writeKitty k (j + 1) t

/-- Record that a layer slice wrote positions of the current trick (R210). -/
def State.noteWritten (k : KvTarget) (first count : Nat) (s : State) : State :=
  s.updHand k.part k.hand.index (fun h => { h with written := h.written ++ [(256 * k.die + k.layer, (first, count))] })

/-- Positions that an APPEND may write (R194, R196): of the current trick, within one run, and no run that a prefill chunk completes. -/
def appendFits (h : HandRecord) (first count : Nat) : Bool :=
  let f := h.runSize first
  let stop := h.startPos + h.tentative
  let inTrick := decide (h.startPos ≤ first ∧ first + count ≤ stop)
  let inRun := decide (first % f + count ≤ f)
  let chunkRun := h.phase == .prefill && decide (first / f * f + f ≤ stop)
  inTrick && inRun && !chunkRun

/-- APPEND (R196, R198): a pending run is flushed first, then the positions go into the kitty. -/
def State.kvAppend (n q : Nat) (k : KvTarget) (first count src : Nat) (s : State) : State :=
  let h := k.hand
  let f := h.runSize first
  if !appendFits h first count then s.rejectDescriptor n
  else if h.noPage then s.bumpDone n q
  else
    s.withTable n k (fun _ s =>
      match s.flushSlice k with
      | (some st, m, s) => (s.raise n m.flags).failOnCore n st
      | (none, m, s) =>
        let len := count * s.kittySlotBytes k.slot
        (s.raise n m.flags).useStore n src len (fun b s =>
          match s.writeKitty k (first % f) (chunksOf (s.kittySlotBytes k.slot) count b) with
          | (some st, s) => s.failOnCore n st
          | (none, s) => ((s.snoop (s.snoopers n q) (m.read ++ b) (m.wrote ++ b)).noteWritten k first count).bumpDone n q))

/-- The run that a DIRECT may write (R194, R196): a whole run of a prefill chunk, into a row that no other table shares. A row that an earlier
commit has appended as committed (R197 step 5) serves the chunk as one it reserved (log 81); on a follower without the row the request's
descriptors write nothing (R202). -/
def State.directFits (s : State) (k : KvTarget) (first count : Nat) : Bool :=
  let h := k.hand
  let f := h.runSize first
  let whole := first % f == 0 && count == f
  let inTrick := decide (h.startPos ≤ first ∧ first + count ≤ h.startPos + h.tentative)
  let rowOk := h.noPage || (match (h.table k.die).covering first with
    | some e => e.state != .committed || (match s.rowAt e.row with | some r => decide (r.refcount ≤ 1) | none => false)
    | none => false)
  h.phase == .prefill && whole && inTrick && rowOk

/-- DIRECT (R194, R196): one whole run of the chunk goes straight into its page. -/
def State.kvDirect (n q : Nat) (k : KvTarget) (first count src : Nat) (s : State) : State :=
  let h := k.hand
  if !s.directFits k first count then s.rejectDescriptor n
  else if h.noPage then s.bumpDone n q
  else
    s.withTable n k (fun _ s =>
      let size := s.kittySlotBytes k.slot
      s.useStore n src (count * size) (fun b s =>
        match s.writeRun k first (chunksOf size count b) .none with
        | (some st, m, s) => (s.raise n m.flags).failOnCore n st
        | (none, m, s) =>
          (((s.raise n m.flags).snoop (s.snoopers n q) (m.read ++ b) m.wrote).noteWritten k first count).bumpDone n q))

/-- Words of a KV write descriptor that keep its format (R196). -/
def kvWriteOk (op : Nat) (words : List Nat) : Bool :=
  let w := fun i => words.getD i 0
  let reserved := bitsAt (w 0) 27 5 + bitsAt (w 0) 34 30 + bitsAt (w 1) 24 8 + bitsAt (w 1) 39 25 + bitsAt (w 2) 18 46
    + w 3 + w 4 + w 5 + w 6 + w 7
  let count := bitsAt (w 1) 32 7
  reserved == 0 && bitsAt (w 0) 32 2 == op && decide (1 ≤ count ∧ count ≤ 64) && bitsAt (w 2) 0 18 % 64 == 0

/-- A KV write descriptor, whose OP must be the command's (R196). -/
def State.kvWrite (n q op : Nat) (words : List Nat) (s : State) : State :=
  let w := fun i => words.getD i 0
  let count := bitsAt (w 1) 32 7
  let src := bitsAt (w 2) 0 18
  match s.kvTarget n (w 0) with
  | none => s.rejectDescriptor n
  | some k =>
    if !kvWriteOk op words then s.rejectDescriptor n
    else if op = 0 then s.kvAppend n q k (bitsAt (w 1) 0 24) count src
    else s.kvDirect n q k (bitsAt (w 1) 0 24) count src

/-! ### Gathering -/

/-- Visibility of key j to query i, both written (R210). -/
def keyVisible (window bidir i j : Nat) : Bool :=
  (decide (j ≤ i) || (decide (i < bidir) && decide (j < bidir))) && (window == 0 || decide (i < j + window))

/-- Some query of a range sees key j. -/
def seenByAny (window bidir first count j : Nat) : Bool := (List.range count).any (fun n => keyVisible window bidir (first + n) j)

/-- Position j has been written for a layer slice: committed, or written in the current trick (R210). -/
def positionWritten (h : HandRecord) (slice j : Nat) : Bool :=
  decide (j < h.startPos) || h.written.any (fun e => e.1 == slice && decide (e.2.1 ≤ j ∧ j < e.2.1 + e.2.2))

/-- Where the gather takes a position from (R213). -/
inductive KvSource where
  | page (row : KvRow) (i : Nat)
  /-- the kitty, converted as the flush will convert it -/
  | pendingRun (fmt j : Nat)
  | kitty (j : Nat)
  deriving DecidableEq, Repr

/-- Positions of the run the request now writes stand in the kitty; those of runs that a prefill chunk completes go straight into
pages (R194). A shared row's FILL may cover positions of another sequence beyond the hit (R200), which are not this request's. -/
def inCurrentRun (h : HandRecord) (j : Nat) : Bool :=
  let f := h.runSize j
  if h.phase = .prefill then decide (h.startPos ≤ j ∧ h.startPos + h.tentative < j / f * f + f)
  else decide (h.startPos / h.runSize h.startPos * h.runSize h.startPos ≤ j)

def State.kvSource (s : State) (k : KvTarget) (j : Nat) : Option KvSource :=
  let h := k.hand
  let slice := 256 * k.die + k.layer
  if inCurrentRun h j then some (.kitty (j % h.runSize j))
  else
    match (h.table k.die).covering j with
    | none => none
    | some e =>
      match s.rowAt e.row with
      | none => none
      | some r =>
        if h.flushPending && !h.flushed.contains slice && decide (h.pendingBase ≤ j) then
          some (.pendingRun r.format (j - h.pendingBase))
        else
          let holds := fun (r : KvRow) => decide (j - e.basePos < r.fill.getD k.layer 0)
          if holds r then some (.page r (j - e.basePos))
          else
            -- a pending copy: positions not yet copied are those of the source row (R206)
            match r.source.bind s.rowAt with
            | some src => if holds src then some (.page src (j - e.basePos)) else none
            | none => none

/-- One head vector as stored: tag, elements, scales (R184), and the flags of its conversion where the kitty holds it. -/
structure KvVector where
  fmt : Nat
  elems : List Byte
  scales : List Byte
  flags : Nat
  deriving DecidableEq, Repr

/-- Read the key or value of one head at a position. -/
def State.readVector (k : KvTarget) (head : Nat) (value : Bool) (src : KvSource) (s : State) : Option Nat × KvVector × State :=
  let hd := s.headDim k.slot
  let fromKitty := fun (j : Nat) (s : State) =>
    s.hbmRead 3 (s.kittyAddr k.slot k.die k.hand.kitty k.layer j + head * hd * 4 + (if value then 2 * hd else 0)) (2 * hd)
  match src with
  | .kitty j => let r := fromKitty j s; (r.1, ⟨2, r.2.1, [], 0⟩, r.2.2)
  | .pendingRun fmt j =>
    let r := fromKitty j s
    let (es, sc, fl) := toPageFormat fmt ((List.range hd).map (fun n => leAt r.2.1 (2 * n) 2))
    (r.1, ⟨fmt, es, sc, fl⟩, r.2.2)
  | .page row i =>
    let s := s.trickLease row.ref k.trick
    let (ea, sa) := s.vectorAddr row k.layer value head i
    match s.hbmRead 3 ea (fmtBytes row.format hd) with
    | (some st, _, s) => (some st, ⟨row.format, [], [], 0⟩, s)
    | (none, es, s) =>
      if row.format ≠ 1 then (none, ⟨row.format, es, [], 0⟩, s)
      else
        match s.hbmRead 3 sa (hd / 32) with
        | (some st, _, s) => (some st, ⟨1, [], [], 0⟩, s)
        | (none, sc, s) => (none, ⟨1, es, sc, 0⟩, s)

/-- Exact values of a stored vector. -/
def vectorValues (v : KvVector) : List Exact :=
  if v.fmt = 2 then (List.range (v.elems.length / 2)).map (fun n => decodeNum .bf16 (leAt v.elems (2 * n) 2))
  else if v.fmt = 1 then
    (nibbles v.elems).zipIdx.map (fun e =>
      numMul (decodeNum .fp4 e.1) (scaleNum ((v.scales.getD (e.2 / 32) 0).toNat)))
  else v.elems.map (fun b => decodeNum .e4m3 b.toNat)

/-- Delivery of one vector in BF16 or E4M3 (R213): bytes and flags. -/
def deliver (e4m3 : Bool) (v : KvVector) : List Byte × Nat :=
  if e4m3 then
    if v.fmt = 0 then (v.elems, 0)
    else (vectorValues v).foldl (fun acc x =>
      let r := convertNum .e4m3 .nearestEven true 0 x
      (acc.1 ++ [BitVec.ofNat 8 r.bits], acc.2 ||| r.flags)) ([], 0)
  else if v.fmt = 2 then (v.elems, 0)
  else (vectorValues v).foldl (fun acc x =>
    let r := roundArith .bf16 x
    (acc.1 ++ leBytes 2 r.bits, acc.2 ||| r.flags)) ([], 0)

/-- What a gather asks for (R212). -/
structure GatherDesc where
  head : Nat
  qFirst : Nat
  qCount : Nat
  blockFirst : Nat
  blockEnd : Nat
  e4m3 : Bool
  passMx : Bool
  dst : Nat
  limit : Nat
  deriving DecidableEq, Repr

/-- Read all vectors of a block: per position, valid, its key and its value. -/
def State.readBlock (k : KvTarget) (head : Nat) : List (Nat × Bool) → State →
    Option Nat × List (Option (KvVector × KvVector)) × State
  | [], s => (none, [], s)
  | (_, false) :: t, s => let r := s.readBlock k head t; (r.1, none :: r.2.1, r.2.2)
  | (j, true) :: t, s =>
    match s.kvSource k j with
    | none => let r := s.readBlock k head t; (r.1, none :: r.2.1, r.2.2)
    | some src =>
      match s.readVector k head false src with
      | (some st, _, s) => (some st, [], s)
      | (none, kv, s) =>
        match s.readVector k head true src with
        | (some st, _, s) => (some st, [], s)
        | (none, vv, s) => let r := s.readBlock k head t; (r.1, some (kv, vv) :: r.2.1, r.2.2)

def padTo (k : Nat) (b : List Byte) : List Byte := b ++ List.replicate (roundUp b.length k - b.length) 0

/-- The bytes of a delivered block (R211, R212): header and body; the flags. -/
def blockOut (hd : Nat) (g : GatherDesc) (base : Nat) (vs : List (Option (KvVector × KvVector))) : List Byte × Nat :=
  let mx := g.passMx && g.e4m3 && vs.any (fun v => match v with | some (a, _) => a.fmt == 1 | none => false)
  let valid := (vs.zipIdx.map (fun v => if v.1.isSome then 2 ^ v.2 else 0)).sum
  let tag := if mx then 1 else if g.e4m3 then 0 else 2
  let header := leBytes 64 (base + valid * 2 ^ 32 + tag * 2 ^ 48)
  let staged := vs.foldl (fun fl v => match v with | some (a, b) => fl ||| a.flags ||| b.flags | none => fl) 0
  if mx then
    let plane := fun (n : Nat) (f : KvVector × KvVector → List Byte) =>
      padTo 64 (vs.flatMap (fun v => match v with | some x => f x | none => List.replicate n 0))
    (header ++ plane (hd / 2) (fun x => x.1.elems) ++ plane (hd / 32) (fun x => x.1.scales)
      ++ plane (hd / 2) (fun x => x.2.elems) ++ plane (hd / 32) (fun x => x.2.scales), staged)
  else
    let n := if g.e4m3 then hd else 2 * hd
    let side := fun (f : KvVector × KvVector → KvVector) => vs.foldl (fun (acc : List Byte × Nat) v =>
      match v with
      | some x => let d := deliver g.e4m3 (f x); (acc.1 ++ d.1, acc.2 ||| d.2)
      | none => (acc.1 ++ List.replicate n 0, acc.2)) ([], 0)
    let ks := side (fun x => x.1)
    let vv := side (fun x => x.2)
    (header ++ ks.1 ++ vv.1, staged ||| ks.2 ||| vv.2)

/-- The end record (R212). -/
def endRecord (blocks next : Nat) : List Byte := leBytes 64 (blocks + next * 2 ^ 32)

/-- What a gather has gathered so far. -/
structure GatherAcc where
  out : List Byte
  read : List Byte
  blocks : Nat
  flags : Nat
  deriving DecidableEq, Repr

/-- The page from which a gather would take a position carries the tag 0b11 in the table (R184, R217). -/
def State.tagInvalid (s : State) (k : KvTarget) (tags : List Nat) (j : Nat) : Bool :=
  match s.kvSource k j with
  | some (.page _ _) => ((k.hand.table k.die).entries.zip tags).any (fun e => decide (e.1.basePos ≤ j ∧ j < entryEnd e.1) && e.2 == 3)
  | _ => false

/-- Gather blocks in ascending position until the end or DST_LIMIT (R211, R212): a failing status, or the output. -/
def State.gatherBlocks (k : KvTarget) (g : GatherDesc) (tags : List Nat) (window bidir : Nat) : List Nat → GatherAcc → State →
    Except Nat GatherAcc × State
  | [], a, s => (.ok { a with out := a.out ++ endRecord a.blocks 0xFFFFF }, s)
  | b :: t, a, s =>
    let slice := 256 * k.die + k.layer
    let js := (List.range 16).map (fun i =>
      (16 * b + i, positionWritten k.hand slice (16 * b + i) && seenByAny window bidir g.qFirst g.qCount (16 * b + i)))
    if !js.any (fun x => x.2) then s.gatherBlocks k g tags window bidir t a
    else if js.any (fun x => x.2 && s.tagInvalid k tags x.1) then (.error St.KVC_FORMAT_TAG_INVALID, s)
    else
      match s.readBlock k g.head js with
      | (some st, _, s') => (.error st, s')
      | (none, vs, s') =>
        let (bytes, fl) := blockOut (s.headDim k.slot) g (16 * b) vs
        if g.limit < a.out.length + bytes.length + 64 then (.ok { a with out := a.out ++ endRecord a.blocks b }, s)
        else s'.gatherBlocks k g tags window bidir t
          ⟨a.out ++ bytes, a.read ++ vs.flatMap (fun v => match v with
            | some x => x.1.elems ++ x.1.scales ++ x.2.elems ++ x.2.scales
            | none => []), a.blocks + 1, a.flags ||| fl⟩

/-- The fields of a gather descriptor (R212). -/
def gatherDesc (words : List Nat) : GatherDesc :=
  let w := fun i => words.getD i 0
  ⟨bitsAt (w 0) 32 3, bitsAt (w 1) 0 24, bitsAt (w 1) 32 12, bitsAt (w 2) 0 20, bitsAt (w 2) 20 20,
    bitOf (w 3) 0, bitOf (w 3) 1, bitsAt (w 4) 0 18, bitsAt (w 4) 32 19⟩

/-- A gather descriptor that keeps the format and the ranges of R212. -/
def State.gatherOk (s : State) (sl : Nat) (words : List Nat) : Bool :=
  let w := fun i => words.getD i 0
  let reserved := bitsAt (w 0) 27 5 + bitsAt (w 0) 35 29 + bitsAt (w 1) 24 8 + bitsAt (w 1) 44 20 + bitsAt (w 2) 40 24
    + bitsAt (w 3) 2 62 + bitsAt (w 4) 18 14 + bitsAt (w 4) 51 13 + w 5 + w 6 + w 7
  let g := gatherDesc words
  reserved == 0 && decide (g.head < s.kvHeads sl) && decide (1 ≤ g.qCount ∧ g.qCount ≤ 2048) && g.dst % 64 == 0
    && decide (128 ≤ g.limit ∧ g.limit ≤ 262144)

/-- One past the last block of 16 positions that a layer slice has written (R211). -/
def writtenBlocks (k : KvTarget) : Nat :=
  ((k.hand.written.foldl (fun m e => if e.1 = 256 * k.die + k.layer then max m (e.2.1 + e.2.2) else m) k.hand.startPos) + 15) / 16

/-- KV_GATHER (R210 to R213). -/
def State.kvGather (n q : Nat) (words : List Nat) (s : State) : State :=
  let g := gatherDesc words
  match s.kvTarget n (words.getD 0 0) with
  | none => s.rejectDescriptor n
  | some k =>
    if !s.gatherOk k.slot words then s.rejectDescriptor n
    else
      s.withTable n k (fun tags s =>
        let stop := if g.blockEnd = 0xFFFFF then writtenBlocks k else min g.blockEnd (writtenBlocks k)
        let blocks := (List.range (stop - g.blockFirst)).map (· + g.blockFirst)
        let window := s.rdF (Reg.KV_WINDOW k.slot) Fld.KV_WINDOW_WINDOW
        let bidir := s.rdF (Reg.KV_BIDIR k.slot) Fld.KV_BIDIR_BIDIR_LEN
        match s.gatherBlocks k g tags window bidir blocks ⟨[], [], 0, 0⟩ with
        | (.error st, s) => s.failOnCore n st
        | (.ok a, s) =>
          let s := (s.raise n a.flags).putStore n g.dst a.out
          if (s.coreAt n).task.isNone then s else (s.snoop (s.snoopers n q) a.read a.out).bumpDone n q)

end Sys2Proof.Machine
end

