-- ==== Sys2Proof/Machine/Streams.lean ====
section
/-! DEFINITION. Machine/Streams.lean: the four stream queues of a core (R70): a descriptor starts when the previous one of its queue has
completed, whatever its type, and until then it is held. -/
namespace Sys2Proof.Machine

/-- A check-value descriptor (R419). -/
def State.cvRun (n q : Nat) (op : CvOp) (d : CvDesc) (s : State) : State :=
  match op with
  | .attach => s.cvAttach n q d
  | .detach => s.cvDetach n q d
  | .save => s.cvSave n q d
  | .restore => s.cvRestore n q d
  | .feed => s.cvFeed n q d

/-- A descriptor starts. -/
def State.startItem (n q : Nat) (i : StreamItem) (s : State) : State :=
  match i with
  | .move d => s.streamMove n q d
  | .tap words => s.tapWalk n q words
  | .cv op d => s.cvRun n q op d
  | .fmap fill words => s.featureMap n q fill words
  | .tag words => s.tagPost n q words
  | .kvWrite op words => s.kvWrite n q op words
  | .kvGather words => s.kvGather n q words
  | .coll op d => s.issueCollective n q op d

/-- The oldest descriptor held in a queue. -/
def CoreState.nextItem (q : Nat) (c : CoreState) : Option StreamItem := (c.issued.find? (fun e => e.1 == q)).map (fun e => e.2)

/-- Held descriptors of a queue start one after another, as long as the one before has completed (R70). -/
def State.runHeld (n q : Nat) : Nat → State → State
  | 0, s => s
  | fuel + 1, s =>
    match (s.coreAt n).nextItem q with
    | none => s
    | some i =>
      if s.queueFree n q && s.coreRuns n then
        ((s.updCore n (fun c => { c with issued := c.issued.eraseP (fun e => e.1 == q) })).startItem n q i).runHeld n q fuel
      else s

/-- The descriptors that a completion in a queue lets start. -/
def State.runQueue (n q : Nat) (s : State) : State := s.runHeld n q (s.coreAt n).issued.length

/-- A core issues a descriptor in one of its queues (R70). -/
def State.issue (n q : Nat) (i : StreamItem) (s : State) : State :=
  if s.queueFree n q && ((s.coreAt n).nextItem q).isNone then s.startItem n q i
  else s.updCore n (fun c => { c with issued := c.issued ++ [(q, i)] })

/-- A bundle that issues a descriptor. -/
def onQueue (n q : Nat) (i : StreamItem) (s : State) : Out := onBody n (fun s => s.issue n q i) s
/-- A bundle that issues a descriptor whose accesses may wait, collide and meet upsets. -/
def onQueueWaiting (n q : Nat) (i : StreamItem) (w : Waits) (us : List Upset) (s : State) : Out :=
  onBodyWaiting n w (fun s => s.issue n q i) (s.upset us)

/-! ### Commands -/

def execStreamMove (core queue : Nat) (d : StreamDesc) (w : Waits) (us : List Upset) (s : State) : Out := onQueueWaiting core queue (.move d) w us s
/-- Started moves complete also after the body has halted (R47). -/
def execStreamMoveComplete (core queue : Nat) (x : StreamAccess) (s : State) : Out :=
  let s := s.upset x.upsets
  .next (if s.coreRuns core then ((s.waited core x.waits).streamComplete core queue).runQueue core queue else s)
def execTapWalker (core queue : Nat) (words : List Nat) (x : StreamAccess) (s : State) : Out :=
  onQueueWaiting core queue (.tap words) x.waits x.upsets s
def execCvAttach (core queue : Nat) (d : CvDesc) (s : State) : Out := onQueue core queue (.cv .attach d) s
def execCvDetach (core queue : Nat) (d : CvDesc) (s : State) : Out := onQueue core queue (.cv .detach d) s
def execCvSave (core queue : Nat) (d : CvDesc) (x : StreamAccess) (s : State) : Out := onQueueWaiting core queue (.cv .save d) x.waits x.upsets s
def execCvRestore (core queue : Nat) (d : CvDesc) (x : StreamAccess) (s : State) : Out := onQueueWaiting core queue (.cv .restore d) x.waits x.upsets s
def execCvFeed (core queue : Nat) (d : CvDesc) (x : StreamAccess) (s : State) : Out := onQueueWaiting core queue (.cv .feed d) x.waits x.upsets s
def execFeatureMapSpill (core queue : Nat) (words : List Nat) (x : StreamAccess) (s : State) : Out :=
  onQueueWaiting core queue (.fmap false words) x.waits x.upsets s
def execFeatureMapFill (core queue : Nat) (words : List Nat) (x : StreamAccess) (s : State) : Out :=
  onQueueWaiting core queue (.fmap true words) x.waits x.upsets s
def execTagPostDescriptor (core queue : Nat) (words : List Nat) (s : State) : Out := onQueue core queue (.tag words) s
def execKvAppend (core queue : Nat) (words : List Nat) (x : StreamAccess) (s : State) : Out :=
  onQueueWaiting core queue (.kvWrite 0 words) x.waits x.upsets s
def execKvDirect (core queue : Nat) (words : List Nat) (x : StreamAccess) (s : State) : Out :=
  onQueueWaiting core queue (.kvWrite 1 words) x.waits x.upsets s
def execKvGather (core queue : Nat) (words : List Nat) (x : StreamAccess) (s : State) : Out :=
  onQueueWaiting core queue (.kvGather words) x.waits x.upsets s
def execAllReduce (core queue : Nat) (d : CollDesc) (s : State) : Out := onQueue core queue (.coll .allReduce d) s
def execAllGather (core queue : Nat) (d : CollDesc) (s : State) : Out := onQueue core queue (.coll .allGather d) s
def execReduceScatter (core queue : Nat) (d : CollDesc) (s : State) : Out := onQueue core queue (.coll .reduceScatter d) s
def execCollSend (core queue : Nat) (d : CollDesc) (s : State) : Out := onQueue core queue (.coll .send d) s
def execCollRecv (core queue : Nat) (d : CollDesc) (s : State) : Out := onQueue core queue (.coll .recv d) s
def execCollectiveComplete (p trick coll : Nat) (upsets : List Upset) (s : State) : Out :=
  let s := s.upset upsets
  match s.instanceOf p trick coll with
  | some c => .next (if s.partWorks p then (s.completeCollective c).runQueue c.core c.queue else s)
  | none => .next s

end Sys2Proof.Machine
end

