-- ==== Sys2Proof/Machine/Dispatch.lean ====
section
/-! DEFINITION. Machine/Dispatch.lean: the meaning of every command, one arm for each. -/
namespace Sys2Proof.Machine

def exec (i : Instr) (s : State) : Host.Outcome State Fault Refusal :=
  match i with
  | .registerWrite fn off bytes value => Sys2Proof.Machine.execRegisterWrite fn off bytes value s
  | .arrayOp x op => Sys2Proof.Machine.execArrayOp x op s
  | .arrayResultLand x => Sys2Proof.Machine.execArrayResultLand x s
  | .weightTileLoad x tile => Sys2Proof.Machine.execWeightTileLoad x tile s
  | .arraySwap x => Sys2Proof.Machine.execArraySwap x s
  | .outputStage x op => Sys2Proof.Machine.execOutputStage x op s
  | .vectorArithmetic core fmt op a b c dst => Sys2Proof.Machine.execVectorArithmetic core fmt op a b c dst s
  | .vectorConvert core src dst a d => Sys2Proof.Machine.execVectorConvert core src dst a d s
  | .mxfp4BlockConvert x bf16 a block elemsAt scaleAt => Sys2Proof.Machine.execMxfp4BlockConvert x bf16 a block elemsAt scaleAt s
  | .vectorCompare core bf16 pred a b dst => Sys2Proof.Machine.execVectorCompare core bf16 pred a b dst s
  | .vectorSelect core half cond a b dst => Sys2Proof.Machine.execVectorSelect core half cond a b dst s
  | .vectorReduce core fmt op a dst => Sys2Proof.Machine.execVectorReduce core fmt op a dst s
  | .vectorPermute core half idx a dst => Sys2Proof.Machine.execVectorPermute core half idx a dst s
  | .vectorLoadStore core load reg off w => Sys2Proof.Machine.execVectorLoadStore core load reg off w s
  | .sfuOp core fn bf16 a group dst => Sys2Proof.Machine.execSfuOp core fn bf16 a group dst s
  | .sfuResult core => Sys2Proof.Machine.execSfuResult core s
  | .controlWait core op w => Sys2Proof.Machine.execControlWait core op w s
  | .halt core => Sys2Proof.Machine.execHalt core s
  | .streamMove core queue desc w upsets => Sys2Proof.Machine.execStreamMove core queue desc w upsets s
  | .streamMoveComplete core queue x => Sys2Proof.Machine.execStreamMoveComplete core queue x s
  | .tapWalker core queue words x => Sys2Proof.Machine.execTapWalker core queue words x s
  | .coreFault core fw => Sys2Proof.Machine.execCoreFault core fw s
  | .sqTailWrite p q d => Sys2Proof.Machine.execSqTailWrite p q d s
  | .cqHeadWrite p q d => Sys2Proof.Machine.execCqHeadWrite p q d s
  | .ringEnableWrite fn r value => Sys2Proof.Machine.execRingEnableWrite fn r value s
  | .submissionFetch p upsets => Sys2Proof.Machine.execSubmissionFetch p upsets s
  | .graphAccept p copyBad upsets => Sys2Proof.Machine.execGraphAccept p copyBad upsets s
  | .dealerDecision p => Sys2Proof.Machine.execDealerDecision p s
  | .domainPowerUpComplete d => Sys2Proof.Machine.execDomainPowerUpComplete d s
  | .powerGoodTimeout d => Sys2Proof.Machine.execPowerGoodTimeout d s
  | .taskLoadComplete uid tid upsets => Sys2Proof.Machine.execTaskLoadComplete uid tid upsets s
  | .taskDone uid tid => Sys2Proof.Machine.execTaskDone uid tid s
  | .taskTimeout uid tid fw => Sys2Proof.Machine.execTaskTimeout uid tid fw s
  | .abortSeq fn p seq => Sys2Proof.Machine.execAbortSeq fn p seq s
  | .windowBoundary rails => Sys2Proof.Machine.execWindowBoundary rails s
  | .remapComplete die page => Sys2Proof.Machine.execRemapComplete die page s
  | .scrubRead die upsets => Sys2Proof.Machine.execScrubRead die upsets s
  | .hbmChannelFailed die pc addr => Sys2Proof.Machine.execHbmChannelFailed die pc addr s
  | .bar4Read fn off n upsets => Sys2Proof.Machine.execBar4Read fn off n upsets s
  | .bar4Write fn off bytes upsets => Sys2Proof.Machine.execBar4Write fn off bytes upsets s
  | .winBaseWrite fn target value => Sys2Proof.Machine.execWinBaseWrite fn target value s
  | .requestFetch p upsets => Sys2Proof.Machine.execRequestFetch p upsets s
  | .rqTailWrite p q d => Sys2Proof.Machine.execRqTailWrite p q d s
  | .scqHeadWrite p q d => Sys2Proof.Machine.execScqHeadWrite p q d s
  | .submit p upsets => Sys2Proof.Machine.execSubmit p upsets s
  | .cancel p => Sys2Proof.Machine.execCancel p s
  | .park p => Sys2Proof.Machine.execPark p s
  | .resume p => Sys2Proof.Machine.execResume p s
  | .trickGraphComplete slot badHands upsets => Sys2Proof.Machine.execTrickGraphComplete slot badHands upsets s
  | .idleBoundary slot badHands upsets => Sys2Proof.Machine.execIdleBoundary slot badHands upsets s
  | .heldDeadlinePass slot => Sys2Proof.Machine.execHeldDeadlinePass slot s
  | .holdMaxPass slot => Sys2Proof.Machine.execHoldMaxPass slot s
  | .groupTimeout slot => Sys2Proof.Machine.execGroupTimeout slot s
  | .followerTrickComplete slot badHands => Sys2Proof.Machine.execFollowerTrickComplete slot badHands s
  | .parkWriteComplete p hr upsets => Sys2Proof.Machine.execParkWriteComplete p hr upsets s
  | .resumeReadComplete p hr cws => Sys2Proof.Machine.execResumeReadComplete p hr cws s
  | .kvAppend core queue words x => Sys2Proof.Machine.execKvAppend core queue words x s
  | .kvDirect core queue words x => Sys2Proof.Machine.execKvDirect core queue words x s
  | .kvGather core queue words x => Sys2Proof.Machine.execKvGather core queue words x s
  | .demotionReadComplete p extent upsets => Sys2Proof.Machine.execDemotionReadComplete p extent upsets s
  | .extentCommit extent => Sys2Proof.Machine.execExtentCommit extent s
  | .promotionReadComplete p extent cws => Sys2Proof.Machine.execPromotionReadComplete p extent cws s
  | .prefixReportSend p => Sys2Proof.Machine.execPrefixReportSend p s
  | .tlnCmdTailWrite d => Sys2Proof.Machine.execTlnCmdTailWrite d s
  | .imageWrite upsets => Sys2Proof.Machine.execImageWrite upsets s
  | .slotLoadComplete slot cws => Sys2Proof.Machine.execSlotLoadComplete slot cws s
  | .parkExport cws => Sys2Proof.Machine.execParkExport cws s
  | .parkImport upsets => Sys2Proof.Machine.execParkImport upsets s
  | .talonCmdComplete upsets => Sys2Proof.Machine.execTalonCmdComplete upsets s
  | .flashProgramFail die x => Sys2Proof.Machine.execFlashProgramFail die x s
  | .flashEraseFail die x => Sys2Proof.Machine.execFlashEraseFail die x s
  | .talonChannelFail channel => Sys2Proof.Machine.execTalonChannelFail channel s
  | .garbageCollect x => Sys2Proof.Machine.execGarbageCollect x s
  | .staticWearLevel x => Sys2Proof.Machine.execStaticWearLevel x s
  | .retentionAgeRefresh x => Sys2Proof.Machine.execRetentionAgeRefresh x s
  | .readDisturbRelocate x => Sys2Proof.Machine.execReadDisturbRelocate x s
  | .edgeIngest die upsets => Sys2Proof.Machine.execEdgeIngest die upsets s
  | .edgeConv die upsets => Sys2Proof.Machine.execEdgeConv die upsets s
  | .edgeTconv die upsets => Sys2Proof.Machine.execEdgeTconv die upsets s
  | .eqTailWrite page die d => Sys2Proof.Machine.execEqTailWrite page die d s
  | .edgeJobComplete die upsets => Sys2Proof.Machine.execEdgeJobComplete die upsets s
  | .reckonerDetect r upsets => Sys2Proof.Machine.execReckonerDetect r upsets s
  | .reckonerArgmax r upsets => Sys2Proof.Machine.execReckonerArgmax r upsets s
  | .rkqTailWrite p d => Sys2Proof.Machine.execRkqTailWrite p d s
  | .reckonerJobComplete r upsets => Sys2Proof.Machine.execReckonerJobComplete r upsets s
  | .featureMapSpill core queue words x => Sys2Proof.Machine.execFeatureMapSpill core queue words x s
  | .featureMapFill core queue words x => Sys2Proof.Machine.execFeatureMapFill core queue words x s
  | .tagPostDescriptor core queue words => Sys2Proof.Machine.execTagPostDescriptor core queue words s
  | .tagPostPresent fn p tag => Sys2Proof.Machine.execTagPostPresent fn p tag s
  | .tagPostFailed fn p tag => Sys2Proof.Machine.execTagPostFailed fn p tag s
  | .tagReturnAbsent fn p tag => Sys2Proof.Machine.execTagReturnAbsent fn p tag s
  | .pipelineFrameStart p pipe upsets => Sys2Proof.Machine.execPipelineFrameStart p pipe upsets s
  | .edgeEngineFail die => Sys2Proof.Machine.execEdgeEngineFail die s
  | .reckonerFail r => Sys2Proof.Machine.execReckonerFail r s
  | .msqTailWrite page m d => Sys2Proof.Machine.execMsqTailWrite page m d s
  | .mcqHeadWrite page m d => Sys2Proof.Machine.execMcqHeadWrite page m d s
  | .mediaCmdFetch m upsets => Sys2Proof.Machine.execMediaCmdFetch m upsets s
  | .openDec m c => Sys2Proof.Machine.execOpenDec m c s
  | .openEnc m c => Sys2Proof.Machine.execOpenEnc m c s
  | .close m c => Sys2Proof.Machine.execClose m c s
  | .decode m c => Sys2Proof.Machine.execDecode m c s
  | .encode m c => Sys2Proof.Machine.execEncode m c s
  | .release m c => Sys2Proof.Machine.execRelease m c s
  | .rcUpdate m c => Sys2Proof.Machine.execRcUpdate m c s
  | .outConsumed m c => Sys2Proof.Machine.execOutConsumed m c s
  | .pictureDecodeStart m unit last saved upsets => Sys2Proof.Machine.execPictureDecodeStart m unit last saved upsets s
  | .blockRowDecoded m row upsets => Sys2Proof.Machine.execBlockRowDecoded m row upsets s
  | .pictureDecodeComplete m upsets => Sys2Proof.Machine.execPictureDecodeComplete m upsets s
  | .pictureEncodeStart m saved => Sys2Proof.Machine.execPictureEncodeStart m saved s
  | .encodeRowStart m row upsets => Sys2Proof.Machine.execEncodeRowStart m row upsets s
  | .sliceWritten m bytes => Sys2Proof.Machine.execSliceWritten m bytes s
  | .pictureEncodeComplete m row recon => Sys2Proof.Machine.execPictureEncodeComplete m row recon s
  | .pipePowerDown m => Sys2Proof.Machine.execPipePowerDown m s
  | .pipeFail m => Sys2Proof.Machine.execPipeFail m s
  | .pcieLinkUp speed width => Sys2Proof.Machine.execPcieLinkUp speed width s
  | .flrVf vf => Sys2Proof.Machine.execFlrVf vf s
  | .msixUnmask fn v => Sys2Proof.Machine.execMsixUnmask fn v s
  | .busMasterEnableSet fn => Sys2Proof.Machine.execBusMasterEnableSet fn s
  | .hostReadError r => Sys2Proof.Machine.execHostReadError r s
  | .hostReadTimeout r => Sys2Proof.Machine.execHostReadTimeout r s
  | .peerWaitTimeout link late more => Sys2Proof.Machine.execPeerWaitTimeout link late more s
  | .linkRetrain link r => Sys2Proof.Machine.execLinkRetrain link r s
  | .flitReceive link lseq fec f => Sys2Proof.Machine.execFlitReceive link lseq fec f s
  | .linkNakReceive link seq => Sys2Proof.Machine.execLinkNakReceive link seq s
  | .linkAckReceive link seq => Sys2Proof.Machine.execLinkAckReceive link seq s
  | .trickPlanReceive p upsets => Sys2Proof.Machine.execTrickPlanReceive p upsets s
  | .trickReportReceive p badHands upsets => Sys2Proof.Machine.execTrickReportReceive p badHands upsets s
  | .prefixReportReceive p => Sys2Proof.Machine.execPrefixReportReceive p s
  | .heartbeatReceive p => Sys2Proof.Machine.execHeartbeatReceive p s
  | .fencedReceive p => Sys2Proof.Machine.execFencedReceive p s
  | .controlAckReceive p => Sys2Proof.Machine.execControlAckReceive p s
  | .controlRetransmit p j => Sys2Proof.Machine.execControlRetransmit p j s
  | .heartbeatSend p => Sys2Proof.Machine.execHeartbeatSend p s
  | .fenceTimeout p j => Sys2Proof.Machine.execFenceTimeout p j s
  | .allReduce core queue d => Sys2Proof.Machine.execAllReduce core queue d s
  | .allGather core queue d => Sys2Proof.Machine.execAllGather core queue d s
  | .reduceScatter core queue d => Sys2Proof.Machine.execReduceScatter core queue d s
  | .collSend core queue d => Sys2Proof.Machine.execCollSend core queue d s
  | .collRecv core queue d => Sys2Proof.Machine.execCollRecv core queue d s
  | .collectiveInstanceStart p trick coll upsets => Sys2Proof.Machine.execCollectiveInstanceStart p trick coll upsets s
  | .collectiveDataReceive p => Sys2Proof.Machine.execCollectiveDataReceive p s
  | .collectiveComplete p trick coll upsets => Sys2Proof.Machine.execCollectiveComplete p trick coll upsets s
  | .collTimeout p trick coll => Sys2Proof.Machine.execCollTimeout p trick coll s
  | .measurementTick watts => Sys2Proof.Machine.execMeasurementTick watts s
  | .ballastTaskEnd c => Sys2Proof.Machine.execBallastTaskEnd c s
  | .sensorSample n v => Sys2Proof.Machine.execSensorSample n v s
  | .thermalThrottleStep d => Sys2Proof.Machine.execThermalThrottleStep d s
  | .thermalRiseStep d => Sys2Proof.Machine.execThermalRiseStep d s
  | .coreIdleTimeout n => Sys2Proof.Machine.execCoreIdleTimeout n s
  | .clusterIdleTimeout c => Sys2Proof.Machine.execClusterIdleTimeout c s
  | .hbmIdleTimeout face => Sys2Proof.Machine.execHbmIdleTimeout face s
  | .engineIdleTimeout d => Sys2Proof.Machine.execEngineIdleTimeout d s
  | .talonChannelIdleTimeout t => Sys2Proof.Machine.execTalonChannelIdleTimeout t s
  | .hostCapWrite value => Sys2Proof.Machine.execHostCapWrite value s
  | .resumePower boot more => Sys2Proof.Machine.execResumePower boot more s
  | .resetNRelease boot more => Sys2Proof.Machine.execResetNRelease boot more s
  | .stageTimeout more => Sys2Proof.Machine.execStageTimeout more s
  | .moduleReset boot more => Sys2Proof.Machine.execModuleReset boot more s
  | .rstCoreReset absorb target fw => Sys2Proof.Machine.execRstCoreReset absorb target fw s
  | .rstClusterReset absorb target fw => Sys2Proof.Machine.execRstClusterReset absorb target fw s
  | .rstPartitionReset absorb target => Sys2Proof.Machine.execRstPartitionReset absorb target s
  | .rstModuleReset absorb boot more => Sys2Proof.Machine.execRstModuleReset absorb boot more s
  | .rstCoreFold target => Sys2Proof.Machine.execRstCoreFold target s
  | .rstClusterFold target => Sys2Proof.Machine.execRstClusterFold target s
  | .drainComplete job fw boot more => Sys2Proof.Machine.execDrainComplete job fw boot more s
  | .drainTimeout job fw boot more => Sys2Proof.Machine.execDrainTimeout job fw boot more s
  | .cvAttach core queue d => Sys2Proof.Machine.execCvAttach core queue d s
  | .cvDetach core queue d => Sys2Proof.Machine.execCvDetach core queue d s
  | .cvSave core queue d x => Sys2Proof.Machine.execCvSave core queue d x s
  | .cvRestore core queue d x => Sys2Proof.Machine.execCvRestore core queue d x s
  | .cvFeed core queue d x => Sys2Proof.Machine.execCvFeed core queue d x s
  | .hostCvAttach u x value => Sys2Proof.Machine.execHostCvAttach u x value s
  | .hostCvDetach u x value => Sys2Proof.Machine.execHostCvDetach u x value s
  | .sweepComplete c r => Sys2Proof.Machine.execSweepComplete c r s
  | .roMeasure frequencies => Sys2Proof.Machine.execRoMeasure frequencies s
  | .holdupMeasure mj => Sys2Proof.Machine.execHoldupMeasure mj s
  | .hltAlertAck value => Sys2Proof.Machine.execHltAlertAck value s
  | .updatePiece fails => Sys2Proof.Machine.execUpdatePiece fails s
  | .activate boot more => Sys2Proof.Machine.execActivate boot more s
  | .activationDrainComplete boot more => Sys2Proof.Machine.execActivationDrainComplete boot more s
  | .updConfirmWrite value => Sys2Proof.Machine.execUpdConfirmWrite value s
  | .showdownDeadline boot more => Sys2Proof.Machine.execShowdownDeadline boot more s
  | .inputPowerLoss reading => Sys2Proof.Machine.execInputPowerLoss reading s
  | .inputPowerApplied reading => Sys2Proof.Machine.execInputPowerApplied reading s
  | .auxPowerApplied reading => Sys2Proof.Machine.execAuxPowerApplied reading s
  | .latchLockedChange locked => Sys2Proof.Machine.execLatchLockedChange locked s
  | .sidebandMessageReceive bytes => Sys2Proof.Machine.execSidebandMessageReceive bytes s
  | .setdasa static addr => Sys2Proof.Machine.execSetdasa static addr s
  | .entdaa addr => Sys2Proof.Machine.execEntdaa addr s
  | .setEndpointId op eid => Sys2Proof.Machine.execSetEndpointId op eid s
  | .getMctpVersionSupport type => Sys2Proof.Machine.execGetMctpVersionSupport type s
  | .getVendorMessageSupport selector => Sys2Proof.Machine.execGetVendorMessageSupport selector s
  | .getPldmVersion opFlag type => Sys2Proof.Machine.execGetPldmVersion opFlag type s
  | .getPldmCommands type version => Sys2Proof.Machine.execGetPldmCommands type version s
  | .getSensorReading id => Sys2Proof.Machine.execGetSensorReading id s
  | .getStateSensorReadings id => Sys2Proof.Machine.execGetStateSensorReadings id s
  | .getPdr handle part count => Sys2Proof.Machine.execGetPdr handle part count s
  | .transitDieFabricFailure die => Sys2Proof.Machine.execTransitDieFabricFailure die s
  | .auxPowerLoss reading => Sys2Proof.Machine.execAuxPowerLoss reading s
  | .peerTrainingSignal link attempts late more => Sys2Proof.Machine.execPeerTrainingSignal link attempts late more s
  | .busMasterEnableClear fn => Sys2Proof.Machine.execBusMasterEnableClear fn s
  | .linkDomainFailure link => Sys2Proof.Machine.execLinkDomainFailure link s
  | .imageCreate => Sys2Proof.Machine.execImageCreate s
  | .imageSeal => Sys2Proof.Machine.execImageSeal s
  | .imageDelete => Sys2Proof.Machine.execImageDelete s
  | .slotLoad => Sys2Proof.Machine.execSlotLoad s
  | .slotUnload => Sys2Proof.Machine.execSlotUnload s
  | .parkDelete => Sys2Proof.Machine.execParkDelete s
  | .prefixDrop => Sys2Proof.Machine.execPrefixDrop s
  | .shutdown => Sys2Proof.Machine.execShutdown s
  | .wearCreditTick => Sys2Proof.Machine.execWearCreditTick s
  | .pcieLinkLoss => Sys2Proof.Machine.execPcieLinkLoss s
  | .flrPf0 => Sys2Proof.Machine.execFlrPf0 s
  | .poisonedWriteRx => Sys2Proof.Machine.execPoisonedWriteRx s
  | .capControllerStep => Sys2Proof.Machine.execCapControllerStep s
  | .railFault => Sys2Proof.Machine.execRailFault s
  | .clampNAssert => Sys2Proof.Machine.execClampNAssert s
  | .clampNRelease => Sys2Proof.Machine.execClampNRelease s
  | .dormantEntry => Sys2Proof.Machine.execDormantEntry s
  | .rcTrim => Sys2Proof.Machine.execRcTrim s
  | .setCap => Sys2Proof.Machine.execSetCap s
  | .setAnte => Sys2Proof.Machine.execSetAnte s
  | .setShares => Sys2Proof.Machine.execSetShares s
  | .setClampLevel => Sys2Proof.Machine.execSetClampLevel s
  | .standby => Sys2Proof.Machine.execStandby s
  | .powerReport => Sys2Proof.Machine.execPowerReport s
  | .resetNAssert => Sys2Proof.Machine.execResetNAssert s
  | .getStage => Sys2Proof.Machine.execGetStage s
  | .stageRecord => Sys2Proof.Machine.execStageRecord s
  | .clearStaged => Sys2Proof.Machine.execClearStaged s
  | .partitionReset => Sys2Proof.Machine.execPartitionReset s
  | .fold => Sys2Proof.Machine.execFold s
  | .sweepDue => Sys2Proof.Machine.execSweepDue s
  | .ledgerCheckpoint => Sys2Proof.Machine.execLedgerCheckpoint s
  | .dailyForecast => Sys2Proof.Machine.execDailyForecast s
  | .healthSummary => Sys2Proof.Machine.execHealthSummary s
  | .healthAck => Sys2Proof.Machine.execHealthAck s
  | .ledgerRead => Sys2Proof.Machine.execLedgerRead s
  | .forecastRead => Sys2Proof.Machine.execForecastRead s
  | .hltPartValueRead => Sys2Proof.Machine.execHltPartValueRead s
  | .mgtTimeRead => Sys2Proof.Machine.execMgtTimeRead s
  | .updateBegin => Sys2Proof.Machine.execUpdateBegin s
  | .updateStatus => Sys2Proof.Machine.execUpdateStatus s
  | .setConditions => Sys2Proof.Machine.execSetConditions s
  | .showdownConfirm => Sys2Proof.Machine.execShowdownConfirm s
  | .updateAbandon => Sys2Proof.Machine.execUpdateAbandon s
  | .attest => Sys2Proof.Machine.execAttest s
  | .getIdentity => Sys2Proof.Machine.execGetIdentity s
  | .presenceLoss => Sys2Proof.Machine.execPresenceLoss s
  | .getEndpointId => Sys2Proof.Machine.execGetEndpointId s
  | .getMessageTypeSupport => Sys2Proof.Machine.execGetMessageTypeSupport s
  | .getTid => Sys2Proof.Machine.execGetTid s
  | .getPldmTypes => Sys2Proof.Machine.execGetPldmTypes s
  | .getPdrRepositoryInfo => Sys2Proof.Machine.execGetPdrRepositoryInfo s
  | .presenceReturn => Sys2Proof.Machine.execPresenceReturn s

end Sys2Proof.Machine
end

