-- ==== Sys2Proof/Machine/Step.lean ====
section
/-! DEFINITION. Machine/Step.lean: one step: the command at the front of the queue, or with none waiting one tick of the timebase (R19). -/
namespace Sys2Proof.Machine

/-- One nanosecond of the timebase passes (DESIGN CHOICE): nothing else happens with an empty queue, for what falls due is a command of its
own, which asks whether its time has come. -/
def State.tick (s : State) : State := s.passTime 1

def step (s : State) : Host.Outcome State Fault Refusal :=
  match s.pending with
  | [] => .next s.tick
  | c :: rest => exec c { s with pending := rest }

/-- The command that a word spells, put at the front of the queue; none is spelled by a word. -/
def State.withFetchWord (s : State) (nbits w : Nat) : State :=
  match decodeTableWord nbits w with
  | some c => { s with pending := c :: s.pending }
  | none => s

end Sys2Proof.Machine
end

