-- ==== Sys2Proof/WellFormed.lean ====
section
/-! DEFINITION. WellFormed.lean: the ranges of the operands of commands. A command outside them names something that no module has. -/
namespace Sys2Proof

/-- Cores 0 to 1,535 and clusters 0 to 95, 24 clusters of 16 cores a C-die. -/
def coreNo (n : Nat) : Bool := decide (n < 1536)
def clusterNo (n : Nat) : Bool := decide (n < 96)
def dieNo (n : Nat) : Bool := decide (n < 4)
/-- P0 to P3 (R31). -/
def partNo (n : Nat) : Bool := decide (n < 4)
/-- PF0 and VF1 to VF4 (R312). -/
def fnNo (n : Nat) : Bool := decide (n < 5)
def vfNo (n : Nat) : Bool := decide (1 ≤ n ∧ n ≤ 4)
/-- Vector registers (R63), stream queues (R70). -/
def vregNo (n : Nat) : Bool := decide (n < 32)
def streamQueueNo (n : Nat) : Bool := decide (n < 4)
/-- Offsets of the core store (R40). -/
def storeOffset (n : Nat) : Bool := decide (n < 262144)
/-- SQs and CQs (R102), RQs and SCQs (R151). -/
def ringNo (n : Nat) : Bool := decide (n < 8)
def requestRingNo (n : Nat) : Bool := decide (n < 4)
/-- Task identifiers (R81). -/
def taskNo (n : Nat) : Bool := decide (n < 4096)
def slotNo (n : Nat) : Bool := decide (n < 8)
/-- Media pipes x.MPm as 8x + m, and their contexts (R281). -/
def mediaPipeNo (n : Nat) : Bool := decide (n < 16)
def mediaCtxNo (n : Nat) : Bool := decide (n < 64)
/-- Pipelines of a partition (R276), tags (R273), reckoners. -/
def pipelineNo (n : Nat) : Bool := decide (n < 16)
def tagNo (n : Nat) : Bool := decide (n < 65536)
def reckonerNo (n : Nat) : Bool := decide (n < 2)
/-- Links NL0 to NL15, members of a group (R328). -/
def linkNo (n : Nat) : Bool := decide (n < 16)
def memberNo (n : Nat) : Bool := decide (n < 16)
/-- Check-value units and their contexts (R417). -/
def unitNo (n : Nat) : Bool := decide (n < 128)
def unitCtxNo (n : Nat) : Bool := decide (n < 8)
/-- MSI-X vectors (R318), sensors (R369). -/
def vectorNo (n : Nat) : Bool := decide (n < 256)
def sensorNo (n : Nat) : Bool := decide (n < 53)
def byteOk (n : Nat) : Bool := decide (n < 256)
def wordOk (n : Nat) : Bool := decide (n < 2 ^ 32)
def bytesOk (l : List Nat) : Bool := l.all byteOk
/-- 64-bit words of a descriptor. -/
def wordsOk (l : List Nat) : Bool := l.all (fun n => decide (n < 2 ^ 64))
/-- Upsets strike words of global space (R118). -/
def upsetsOk (l : List Upset) : Bool := l.all (fun u => decide (u.addr < 2 ^ 48))
/-- Collisions happen in stores of cores and pools of clusters (R46). -/
def waitsOk (w : Waits) : Bool := w.storeCollisions.all (fun e => coreNo e.1) && w.poolCollisions.all (fun e => clusterNo e.1)
/-- BAR4 is a window of 64 GiB (R313). -/
def windowOffset (n : Nat) : Bool := decide (n < 2 ^ 36)
def doorbellOk (d : DoorbellWrite) : Bool := fnNo d.fn && wordOk d.value
def domainOk : Domain → Bool
  | .core n => coreNo n
  | .cluster n => clusterNo n
  | .pipe n => mediaPipeNo n
  | .edge n => dieNo n
  | .reckoner n => reckonerNo n
  | .talonChannel n => decide (n < 16)
def ringOk : RingRef → Bool
  | .sq p q => partNo p && ringNo q
  | .cq p q => partNo p && ringNo q
  | .rq p q => partNo p && requestRingNo q
  | .scq p q => partNo p && requestRingNo q
  | .msq m => mediaPipeNo m
  | .mcq m => mediaPipeNo m
  | .eq d => dieNo d
  | .rkq p => partNo p
  | .tln => true
/-- Failed firmware checks, each with its core. -/
def firmwareOk (l : List (Nat × Nat)) : Bool := l.all (fun e => coreNo e.1)

/-- Every operand of a command lies in its range. -/
def Instr.wellFormed : Instr → Bool
  | .registerWrite fn _ _ value => fnNo fn && wordOk value
  | .arrayOp x _ => coreNo x.core && waitsOk x.waits
  | .arrayResultLand x => coreNo x.core && waitsOk x.waits
  | .weightTileLoad x _ => coreNo x.core && waitsOk x.waits
  | .arraySwap x => coreNo x.core
  | .outputStage x _ => coreNo x.core && waitsOk x.waits
  | .vectorArithmetic core _ _ a b c dst => coreNo core && vregNo a && vregNo b && vregNo c && vregNo dst
  | .vectorConvert core _ _ a d => coreNo core && vregNo a && vregNo d
  | .mxfp4BlockConvert x _ a _ elemsAt scaleAt => coreNo x.core && waitsOk x.waits && vregNo a && storeOffset elemsAt && storeOffset scaleAt
  | .vectorCompare core _ _ a b dst => coreNo core && vregNo a && vregNo b && vregNo dst
  | .vectorSelect core _ cond a b dst => coreNo core && vregNo cond && vregNo a && vregNo b && vregNo dst
  | .vectorReduce core _ _ a dst => coreNo core && vregNo a && vregNo dst
  | .vectorPermute core _ idx a dst => coreNo core && vregNo idx && vregNo a && vregNo dst
  | .vectorLoadStore core _ reg off w => coreNo core && vregNo reg && storeOffset off && waitsOk w
  | .sfuOp core _ _ a _ dst => coreNo core && vregNo a && vregNo dst
  | .sfuResult core => coreNo core
  | .controlWait core _ w => coreNo core && waitsOk w
  | .halt core => coreNo core
  | .streamMove core queue _ w upsets => coreNo core && streamQueueNo queue && waitsOk w && upsetsOk upsets
  | .streamMoveComplete core queue x => coreNo core && streamQueueNo queue && waitsOk x.waits && upsetsOk x.upsets
  | .tapWalker core queue words x => coreNo core && streamQueueNo queue && wordsOk words && waitsOk x.waits && upsetsOk x.upsets
  | .coreFault core fw => coreNo core && upsetsOk fw
  | .sqTailWrite p q d => partNo p && ringNo q && doorbellOk d
  | .cqHeadWrite p q d => partNo p && ringNo q && doorbellOk d
  | .ringEnableWrite fn r value => fnNo fn && ringOk r && wordOk value
  | .submissionFetch p upsets => partNo p && upsetsOk upsets
  | .graphAccept p _ upsets => partNo p && upsetsOk upsets
  | .dealerDecision p => partNo p
  | .domainPowerUpComplete d => domainOk d
  | .powerGoodTimeout d => domainOk d
  | .taskLoadComplete _ tid upsets => taskNo tid && upsetsOk upsets
  | .taskDone _ tid => taskNo tid
  | .taskTimeout _ tid fw => taskNo tid && upsetsOk fw
  | .abortSeq fn p seq => fnNo fn && partNo p && wordOk seq
  | .windowBoundary _ => true
  | .remapComplete die _ => dieNo die
  | .scrubRead die upsets => dieNo die && upsetsOk upsets
  | .hbmChannelFailed die _ _ => dieNo die
  | .bar4Read fn off _ upsets => fnNo fn && windowOffset off && upsetsOk upsets
  | .bar4Write fn off bytes upsets => fnNo fn && windowOffset off && bytesOk bytes && upsetsOk upsets
  | .winBaseWrite fn _ value => fnNo fn && wordOk value
  | .requestFetch p upsets => partNo p && upsetsOk upsets
  | .rqTailWrite p q d => partNo p && requestRingNo q && doorbellOk d
  | .scqHeadWrite p q d => partNo p && requestRingNo q && doorbellOk d
  | .submit p upsets => partNo p && upsetsOk upsets
  | .cancel p => partNo p
  | .park p => partNo p
  | .resume p => partNo p
  | .trickGraphComplete slot _ upsets => slotNo slot && upsetsOk upsets
  | .idleBoundary slot _ upsets => slotNo slot && upsetsOk upsets
  | .heldDeadlinePass slot => slotNo slot
  | .holdMaxPass slot => slotNo slot
  | .groupTimeout slot => slotNo slot
  | .followerTrickComplete slot _ => slotNo slot
  | .parkWriteComplete p _ upsets => partNo p && upsetsOk upsets
  | .resumeReadComplete p _ _ => partNo p
  | .kvAppend core queue words x => coreNo core && streamQueueNo queue && wordsOk words && waitsOk x.waits && upsetsOk x.upsets
  | .kvDirect core queue words x => coreNo core && streamQueueNo queue && wordsOk words && waitsOk x.waits && upsetsOk x.upsets
  | .kvGather core queue words x => coreNo core && streamQueueNo queue && wordsOk words && waitsOk x.waits && upsetsOk x.upsets
  | .demotionReadComplete p _ upsets => partNo p && upsetsOk upsets
  | .extentCommit _ => true
  | .promotionReadComplete p _ _ => partNo p
  | .prefixReportSend p => partNo p
  | .tlnCmdTailWrite d => doorbellOk d
  | .imageWrite upsets => upsetsOk upsets
  | .slotLoadComplete slot _ => slotNo slot
  | .parkExport _ => true
  | .parkImport upsets => upsetsOk upsets
  | .talonCmdComplete upsets => upsetsOk upsets
  | .flashProgramFail _ _ => true
  | .flashEraseFail _ _ => true
  | .talonChannelFail _ => true
  | .garbageCollect _ => true
  | .staticWearLevel _ => true
  | .retentionAgeRefresh _ => true
  | .readDisturbRelocate _ => true
  | .edgeIngest die upsets => dieNo die && upsetsOk upsets
  | .edgeConv die upsets => dieNo die && upsetsOk upsets
  | .edgeTconv die upsets => dieNo die && upsetsOk upsets
  | .eqTailWrite page die d => partNo page && dieNo die && doorbellOk d
  | .edgeJobComplete die upsets => dieNo die && upsetsOk upsets
  | .reckonerDetect r upsets => reckonerNo r && upsetsOk upsets
  | .reckonerArgmax r upsets => reckonerNo r && upsetsOk upsets
  | .rkqTailWrite p d => partNo p && doorbellOk d
  | .reckonerJobComplete r upsets => reckonerNo r && upsetsOk upsets
  | .featureMapSpill core queue words x => coreNo core && streamQueueNo queue && wordsOk words && waitsOk x.waits && upsetsOk x.upsets
  | .featureMapFill core queue words x => coreNo core && streamQueueNo queue && wordsOk words && waitsOk x.waits && upsetsOk x.upsets
  | .tagPostDescriptor core queue words => coreNo core && streamQueueNo queue && wordsOk words
  | .tagPostPresent fn p tag => fnNo fn && partNo p && tagNo tag
  | .tagPostFailed fn p tag => fnNo fn && partNo p && tagNo tag
  | .tagReturnAbsent fn p tag => fnNo fn && partNo p && tagNo tag
  | .pipelineFrameStart p pipe upsets => partNo p && pipelineNo pipe && upsetsOk upsets
  | .edgeEngineFail die => dieNo die
  | .reckonerFail r => reckonerNo r
  | .msqTailWrite page m d => partNo page && mediaPipeNo m && doorbellOk d
  | .mcqHeadWrite page m d => partNo page && mediaPipeNo m && doorbellOk d
  | .mediaCmdFetch m upsets => mediaPipeNo m && upsetsOk upsets
  | .openDec m c => mediaPipeNo m && mediaCtxNo c
  | .openEnc m c => mediaPipeNo m && mediaCtxNo c
  | .close m c => mediaPipeNo m && mediaCtxNo c
  | .decode m c => mediaPipeNo m && mediaCtxNo c
  | .encode m c => mediaPipeNo m && mediaCtxNo c
  | .release m c => mediaPipeNo m && mediaCtxNo c
  | .rcUpdate m c => mediaPipeNo m && mediaCtxNo c
  | .outConsumed m c => mediaPipeNo m && mediaCtxNo c
  | .pictureDecodeStart m _ _ _ upsets => mediaPipeNo m && upsetsOk upsets
  | .blockRowDecoded m _ upsets => mediaPipeNo m && upsetsOk upsets
  | .pictureDecodeComplete m upsets => mediaPipeNo m && upsetsOk upsets
  | .pictureEncodeStart m _ => mediaPipeNo m
  | .encodeRowStart m _ upsets => mediaPipeNo m && upsetsOk upsets
  | .sliceWritten m bytes => mediaPipeNo m && bytesOk bytes
  | .pictureEncodeComplete m _ _ => mediaPipeNo m
  | .pipePowerDown m => mediaPipeNo m
  | .pipeFail m => mediaPipeNo m
  | .pcieLinkUp _ _ => true
  | .flrVf vf => vfNo vf
  | .msixUnmask fn v => fnNo fn && vectorNo v
  | .busMasterEnableSet fn => fnNo fn
  | .hostReadError _ => true
  | .hostReadTimeout _ => true
  | .peerWaitTimeout link _ _ => linkNo link
  | .linkRetrain link _ => linkNo link
  | .flitReceive link _ _ _ => linkNo link
  | .linkNakReceive link seq => linkNo link && wordOk seq
  | .linkAckReceive link seq => linkNo link && wordOk seq
  | .trickPlanReceive p upsets => partNo p && upsetsOk upsets
  | .trickReportReceive p _ upsets => partNo p && upsetsOk upsets
  | .prefixReportReceive p => partNo p
  | .heartbeatReceive p => partNo p
  | .fencedReceive p => partNo p
  | .controlAckReceive p => partNo p
  | .controlRetransmit p j => partNo p && memberNo j
  | .heartbeatSend p => partNo p
  | .fenceTimeout p j => partNo p && memberNo j
  | .allReduce core queue _ => coreNo core && streamQueueNo queue
  | .allGather core queue _ => coreNo core && streamQueueNo queue
  | .reduceScatter core queue _ => coreNo core && streamQueueNo queue
  | .collSend core queue _ => coreNo core && streamQueueNo queue
  | .collRecv core queue _ => coreNo core && streamQueueNo queue
  | .collectiveInstanceStart p _ _ upsets => partNo p && upsetsOk upsets
  | .collectiveDataReceive p => partNo p
  | .collectiveComplete p _ _ upsets => partNo p && upsetsOk upsets
  | .collTimeout p _ _ => partNo p
  | .measurementTick _ => true
  | .ballastTaskEnd c => clusterNo c
  | .sensorSample n _ => sensorNo n
  | .thermalThrottleStep _ => true
  | .thermalRiseStep _ => true
  | .coreIdleTimeout n => coreNo n
  | .clusterIdleTimeout c => clusterNo c
  | .hbmIdleTimeout _ => true
  | .engineIdleTimeout d => domainOk d
  | .talonChannelIdleTimeout _ => true
  | .hostCapWrite value => wordOk value
  | .resumePower _ _ => true
  | .resetNRelease _ _ => true
  | .stageTimeout _ => true
  | .moduleReset _ _ => true
  | .rstCoreReset _ _ fw => upsetsOk fw
  | .rstClusterReset _ _ fw => upsetsOk fw
  | .rstPartitionReset _ _ => true
  | .rstModuleReset _ _ _ => true
  | .rstCoreFold _ => true
  | .rstClusterFold _ => true
  | .drainComplete _ fw _ _ => upsetsOk fw
  | .drainTimeout _ fw _ _ => upsetsOk fw
  | .cvAttach core queue d => coreNo core && streamQueueNo queue && unitCtxNo d.ctx
  | .cvDetach core queue d => coreNo core && streamQueueNo queue && unitCtxNo d.ctx
  | .cvSave core queue d x => coreNo core && streamQueueNo queue && unitCtxNo d.ctx && waitsOk x.waits && upsetsOk x.upsets
  | .cvRestore core queue d x => coreNo core && streamQueueNo queue && unitCtxNo d.ctx && waitsOk x.waits && upsetsOk x.upsets
  | .cvFeed core queue d x => coreNo core && streamQueueNo queue && unitCtxNo d.ctx && waitsOk x.waits && upsetsOk x.upsets
  | .hostCvAttach u x value => unitNo u && unitCtxNo x && wordOk value
  | .hostCvDetach u x value => unitNo u && unitCtxNo x && wordOk value
  | .sweepComplete c _ => clusterNo c
  | .roMeasure _ => true
  | .holdupMeasure _ => true
  | .hltAlertAck value => wordOk value
  | .updatePiece _ => true
  | .activate _ _ => true
  | .activationDrainComplete _ _ => true
  | .updConfirmWrite value => wordOk value
  | .showdownDeadline _ _ => true
  | .inputPowerLoss _ => true
  | .inputPowerApplied _ => true
  | .auxPowerApplied _ => true
  | .latchLockedChange _ => true
  | .sidebandMessageReceive bytes => bytesOk bytes
  | .setdasa _ _ => true
  | .entdaa _ => true
  | .setEndpointId _ eid => byteOk eid
  | .getMctpVersionSupport type => byteOk type
  | .getVendorMessageSupport selector => byteOk selector
  | .getPldmVersion opFlag type => byteOk opFlag && byteOk type
  | .getPldmCommands type _ => byteOk type
  | .getSensorReading _ => true
  | .getStateSensorReadings _ => true
  | .getPdr _ _ _ => true
  | .transitDieFabricFailure die => dieNo die
  | .auxPowerLoss _ => true
  | .peerTrainingSignal link _ _ _ => linkNo link
  | .busMasterEnableClear fn => fnNo fn
  | .linkDomainFailure link => linkNo link
  | .imageCreate => true
  | .imageSeal => true
  | .imageDelete => true
  | .slotLoad => true
  | .slotUnload => true
  | .parkDelete => true
  | .prefixDrop => true
  | .shutdown => true
  | .wearCreditTick => true
  | .pcieLinkLoss => true
  | .flrPf0 => true
  | .poisonedWriteRx => true
  | .capControllerStep => true
  | .railFault => true
  | .clampNAssert => true
  | .clampNRelease => true
  | .dormantEntry => true
  | .rcTrim => true
  | .setCap => true
  | .setAnte => true
  | .setShares => true
  | .setClampLevel => true
  | .standby => true
  | .powerReport => true
  | .resetNAssert => true
  | .getStage => true
  | .stageRecord => true
  | .clearStaged => true
  | .partitionReset => true
  | .fold => true
  | .sweepDue => true
  | .ledgerCheckpoint => true
  | .dailyForecast => true
  | .healthSummary => true
  | .healthAck => true
  | .ledgerRead => true
  | .forecastRead => true
  | .hltPartValueRead => true
  | .mgtTimeRead => true
  | .updateBegin => true
  | .updateStatus => true
  | .setConditions => true
  | .showdownConfirm => true
  | .updateAbandon => true
  | .attest => true
  | .getIdentity => true
  | .presenceLoss => true
  | .getEndpointId => true
  | .getMessageTypeSupport => true
  | .getTid => true
  | .getPldmTypes => true
  | .getPdrRepositoryInfo => true
  | .presenceReturn => true

end Sys2Proof
end

