-- ==== Sys2Proof/Safety.lean ====
section
/-! DEFINITION. Safety.lean: the terms that the claims about the machine use: the canonical form of its memories, the states that every step
keeps, the conditions under which an access or a message does its work, and the parts of the state that each command may touch. -/
namespace Sys2Proof.Machine

/-- The byte memories are in canonical form: global memory and host memory, whose unlisted bytes read 0, and the two parts of the NOR, whose
unlisted bytes read 0xFF. -/
def Memory.wf (s : State) : Bool :=
  cellsWf 0 s.memory.mem && cellsWf 0 s.pcie.hostMem && cellsWf 0xFF s.update.nor && cellsWf 0xFF s.update.control

/-- Every waiting command has operands in range. -/
def State.queueWf (s : State) : Bool := s.pending.all Instr.wellFormed

/-- What every step keeps. -/
def State.safe (s : State) : Bool := Memory.wf s && s.queueWf

/-- A core may read bytes of its own store: they lie inside it, and no word of them has an upset (R43, R130). -/
def State.storeReadable (s : State) (core off len : Nat) : Bool :=
  decide (off + len ≤ storeSize) &&
    (wordsOf 8 (storeAddr core off) len).all (fun w => !s.memory.sramSingle.contains w && !s.memory.sramDouble.contains w)

/-- A core may write bytes of its own store: no word that it writes in part has a double-bit upset (R130). -/
def State.storeWritable (s : State) (core off len : Nat) : Bool :=
  decide (off + len ≤ storeSize) &&
    (wordsOf 8 (storeAddr core off) len).all (fun w =>
      wholeWord 8 (storeAddr core off) len w || !s.memory.sramDouble.contains w)

/-- The bytes that an operand of a core's store holds. -/
def State.storeBytes (s : State) (core off len : Nat) : List Byte := s.peek (storeAddr core off) len

/-- The core's store after a write. -/
def State.storePut (core off : Nat) (bytes : List Byte) (s : State) : State := (s.sramWrite (storeAddr core off) bytes).2

/-- A core runs a body, and a descriptor that it issues in a queue starts at once: none is before it there (R70). -/
def State.startsWith (s : State) (core queue : Nat) : Bool :=
  s.bodyRuns core && s.queueFree core queue && ((s.coreAt core).nextItem queue).isNone

/-- The same of a descriptor whose bundle has waited. -/
def State.startsNow (s : State) (core queue : Nat) (w : Waits) : Bool :=
  s.bodyRuns core && (s.waited core w).queueFree core queue && (((s.waited core w).coreAt core).nextItem queue).isNone

/-- The sideband message at the front of the queue is this one, its CODE is served now, and no bad message comes next, which would be answered in the
same step (R453, R477). -/
def State.serves (s : State) (code : Nat) (m : SidebandMsg) (rest : List SidebandMsg) : Bool :=
  decide (s.side.held = m :: rest) && decide (m.code = code) && s.mgmtRuns
    && (s.update.activating.isNone || servedActivating.contains code) && !rest.head?.any (fun (x : SidebandMsg) => x.bad)

/-- The state with that message taken. -/
def State.taking (rest : List SidebandMsg) (s : State) : State := { s with side := { s.side with held := rest } }

/-! ### What a command may touch -/

/-- The parts of a state that a frame speaks of: its fields, with the bytes of global memory (`mem`) and of host memory (`hostMem`) apart from the
rest of their fields (`memory`, `pcie`). The queue of waiting commands is no part: no command touches it. -/
inductive Part where
  | regs | heldRS | pcie | hostMem | mgmt | ledger | side | cores | memory | mem | power | dealer | cvOwner | serving | pfx | talon | ndx
  | vision | media | update | fuses | now | freeCtr
  deriving DecidableEq, Repr

/-- A part is as it was. Memory is said byte by byte. -/
def State.keeps (s t : State) : Part → Prop
  | .regs => t.regs = s.regs
  | .heldRS => t.heldRS = s.heldRS
  | .pcie => { t.pcie with hostMem := s.pcie.hostMem } = s.pcie
  | .hostMem => ∀ a, cellsGet 0 t.pcie.hostMem a = cellsGet 0 s.pcie.hostMem a
  | .mgmt => t.mgmt = s.mgmt
  | .ledger => t.ledger = s.ledger
  | .side => t.side = s.side
  | .cores => t.cores = s.cores
  | .memory => { t.memory with mem := s.memory.mem } = s.memory
  | .mem => ∀ a, cellsGet 0 t.memory.mem a = cellsGet 0 s.memory.mem a
  | .power => t.power = s.power
  | .dealer => t.dealer = s.dealer
  | .cvOwner => t.cvOwner = s.cvOwner
  | .serving => t.serving = s.serving
  | .pfx => t.pfx = s.pfx
  | .talon => t.talon = s.talon
  | .ndx => t.ndx = s.ndx
  | .vision => t.vision = s.vision
  | .media => t.media = s.media
  | .update => t.update = s.update
  | .fuses => t.fuses = s.fuses
  | .now => t.now = s.now
  | .freeCtr => t.freeCtr = s.freeCtr

/-- The parts that are the module's own work and its memories, and not its registers, its reports, its power or the model's count of open
values. -/
def Part.engine : Part → Bool
  | .regs | .heldRS | .pcie | .mgmt | .ledger | .side | .memory | .power | .freeCtr => false
  | _ => true

/-- What a status word, a counter, a message or an alert is written to (R31 to R36). -/
def Part.reports : List Part := [.regs, .pcie, .mgmt, .ledger, .side]

def Part.every : List Part :=
  reports ++ [.heldRS, .hostMem, .cores, .memory, .mem, .power, .dealer, .cvOwner, .serving, .pfx, .talon, .ndx, .vision, .media, .update, .fuses,
    .now, .freeCtr]

/-- The parts that a command may change, on any operands and in any state. -/
def touches : Instr → List Part
  | .arraySwap .. | .vectorCompare .. | .vectorSelect .. | .vectorReduce .. | .vectorPermute .. | .sfuOp .. | .sfuResult .. | .halt .. =>
    [.cores]
  | .heldDeadlinePass .. | .holdMaxPass .. => [.serving]
  | .heartbeatReceive .. => [.ndx]
  | .hbmIdleTimeout .. => [.memory]
  | .engineIdleTimeout .. | .talonChannelIdleTimeout .. | .rcTrim .. => [.power]
  | .inputPowerApplied .. | .auxPowerApplied .. | .latchLockedChange .. | .setdasa .. | .entdaa .. | .presenceReturn .. => [.side]
  | .msixUnmask .. | .getMctpVersionSupport .. | .getVendorMessageSupport .. | .getPldmVersion .. | .getPldmCommands .. | .getPdr ..
  | .busMasterEnableClear .. | .getEndpointId .. | .getMessageTypeSupport .. | .getTid .. | .getPldmTypes .. | .getPdrRepositoryInfo .. =>
    [.pcie]
  | .dormantEntry .. => [.regs]
  | .ledgerCheckpoint .. => [.ledger]
  | .pipePowerDown .. | .thermalRiseStep .. | .capControllerStep .. => [.regs, .power]
  | .busMasterEnableSet .. => [.pcie, .hostMem]
  | .roMeasure .. => [.regs, .ledger]
  | .hltAlertAck .. => [.regs, .side]
  | .setEndpointId .. => [.pcie, .side]
  | .getSensorReading .. | .getStateSensorReadings .. => [.pcie, .freeCtr]
  | .clampNRelease .. => [.side, .power]
  | .hltPartValueRead .. => [.pcie, .ledger]
  | .mgtTimeRead .. => [.pcie, .mgmt]
  | .prefixReportSend .. | .controlAckReceive .. => [.pcie, .ndx, .freeCtr]
  | .linkNakReceive .. => [.regs, .pcie, .ndx]
  | .ballastTaskEnd .. => [.cores, .power, .dealer]
  | .wearCreditTick .. => [.regs, .heldRS, .talon]
  | .coreIdleTimeout .. => [.cores, .memory, .mem, .power]
  | .sweepDue .. => [.regs, .ledger, .power, .dealer]
  | .heartbeatSend .. => [.regs, .heldRS, .pcie, .ndx, .freeCtr]
  | .pcieLinkUp .. | .holdupMeasure .. | .transitDieFabricFailure .. | .poisonedWriteRx .. | .setClampLevel .. | .powerReport ..
  | .getStage .. | .stageRecord .. | .clearStaged .. | .healthSummary .. | .healthAck .. | .ledgerRead .. | .forecastRead ..
  | .updateStatus .. | .setConditions .. | .attest .. | .getIdentity .. => Part.reports
  | .domainPowerUpComplete .. => [.regs, .memory, .mem, .power, .vision, .media]
  | .hbmChannelFailed .. => Part.reports ++ [.memory]
  | .winBaseWrite .. | .hostCvAttach .. => Part.reports ++ [.heldRS]
  | .clusterIdleTimeout .. => [.regs, .heldRS, .memory, .mem, .power, .cvOwner]
  | .thermalThrottleStep .. | .sidebandMessageReceive .. | .setCap .. | .setAnte .. | .setShares .. => Part.reports ++ [.power]
  | .updatePiece .. | .updateBegin .. | .updateAbandon .. => Part.reports ++ [.update]
  | .scrubRead .. | .bar4Read .. => Part.reports ++ [.cores, .memory]
  | .linkAckReceive .. => [.regs, .pcie, .power, .dealer, .serving, .ndx, .freeCtr]
  | .controlRetransmit .. => Part.reports ++ [.ndx, .freeCtr]
  | .hostCapWrite .. => Part.reports ++ [.heldRS, .power]
  | .hostCvDetach .. => Part.reports ++ [.heldRS, .cvOwner]
  | .updConfirmWrite .. | .showdownConfirm .. => Part.reports ++ [.update, .fuses]
  | .measurementTick .. | .clampNAssert .. => Part.reports ++ [.power, .dealer]
  | .windowBoundary .. => Part.reports ++ [.heldRS, .power, .dealer]
  | .bar4Write .. => Part.reports ++ [.cores, .memory, .mem]
  | .tagPostPresent .. | .tagPostFailed .. | .tagReturnAbsent .. => Part.reports ++ [.memory, .mem, .serving]
  | .encodeRowStart .. => Part.reports ++ [.cores, .memory, .media]
  | .dailyForecast .. => Part.reports ++ [.heldRS, .talon, .freeCtr]
  | .pictureEncodeStart .. => Part.reports ++ [.heldRS, .memory, .mem, .media]
  | .blockRowDecoded .. => Part.reports ++ [.cores, .memory, .mem, .vision, .media]
  | .flitReceive .. => Part.reports ++ [.power, .dealer, .serving, .ndx, .freeCtr]
  | .flrVf .. | .pcieLinkLoss .. | .flrPf0 .. => Part.reports ++ [.dealer, .serving, .talon, .vision, .media]
  | .ringEnableWrite .. => Part.reports ++ [.heldRS, .dealer, .serving, .talon, .vision, .media]
  | .remapComplete .. => Part.reports ++ [.memory, .mem, .serving, .pfx, .talon, .freeCtr]
  | .followerTrickComplete .. => Part.reports ++ [.heldRS, .memory, .dealer, .serving, .ndx, .freeCtr]
  | .extentCommit .. | .promotionReadComplete .. | .slotLoadComplete .. | .flashProgramFail .. | .flashEraseFail .. | .garbageCollect ..
  | .staticWearLevel .. | .retentionAgeRefresh .. | .readDisturbRelocate .. =>
    Part.reports ++ [.memory, .mem, .power, .serving, .pfx, .talon, .freeCtr]
  | .groupTimeout .. | .openDec .. | .openEnc .. | .close .. | .decode .. | .encode .. | .release .. | .rcUpdate .. | .outConsumed ..
  | .sliceWritten .. | .pictureEncodeComplete .. => Part.reports ++ [.hostMem, .memory, .mem, .dealer, .serving, .vision, .media]
  | .prefixReportReceive .. => Part.reports ++ [.memory, .mem, .serving, .pfx, .talon, .ndx, .freeCtr]
  | .imageCreate .. | .imageSeal .. | .imageDelete .. | .slotLoad .. =>
    Part.reports ++ [.heldRS, .memory, .dealer, .serving, .talon, .vision, .media]
  | .sqTailWrite .. | .cqHeadWrite .. | .abortSeq .. | .rqTailWrite .. | .scqHeadWrite .. | .cancel .. | .park .. | .resume ..
  | .tlnCmdTailWrite .. | .eqTailWrite .. | .rkqTailWrite .. | .msqTailWrite .. | .mcqHeadWrite .. | .pipeFail .. =>
    Part.reports ++ [.hostMem, .memory, .mem, .power, .dealer, .serving, .vision, .media]
  | .demotionReadComplete .. => Part.reports ++ [.cores, .memory, .mem, .power, .serving, .pfx, .talon, .freeCtr]
  | .reckonerDetect .. | .reckonerArgmax .. => Part.reports ++ [.heldRS, .cores, .memory, .power, .dealer, .serving, .vision, .media]
  | .pipelineFrameStart .. => Part.reports ++ [.hostMem, .cores, .memory, .mem, .power, .serving, .vision, .media]
  | .fencedReceive .. => Part.reports ++ [.hostMem, .memory, .mem, .dealer, .serving, .ndx, .vision, .media]
  | .parkDelete .. => Part.reports ++ [.heldRS, .memory, .dealer, .serving, .talon, .vision, .media, .freeCtr]
  | .submissionFetch .. | .requestFetch .. | .pictureDecodeStart .. =>
    Part.reports ++ [.heldRS, .hostMem, .cores, .memory, .mem, .dealer, .serving, .vision, .media]
  | .imageWrite .. | .parkImport .. => Part.reports ++ [.heldRS, .cores, .memory, .power, .dealer, .serving, .talon, .vision, .media]
  | .edgeEngineFail .. | .reckonerFail .. => Part.reports ++ [.heldRS, .hostMem, .memory, .mem, .power, .dealer, .serving, .vision, .media]
  | .graphAccept .. | .pictureDecodeComplete .. =>
    Part.reports ++ [.hostMem, .cores, .memory, .mem, .power, .dealer, .serving, .vision, .media]
  | .talonCmdComplete .. => Part.reports ++ [.heldRS, .hostMem, .cores, .memory, .mem, .dealer, .serving, .talon, .vision, .media]
  | .edgeIngest .. | .edgeConv .. | .edgeTconv .. =>
    Part.reports ++ [.heldRS, .cores, .memory, .mem, .power, .dealer, .serving, .vision, .media, .freeCtr]
  | .reckonerJobComplete .. | .mediaCmdFetch .. =>
    Part.reports ++ [.heldRS, .hostMem, .cores, .memory, .mem, .power, .dealer, .serving, .vision, .media]
  | .hostReadError .. | .hostReadTimeout .. =>
    Part.reports ++ [.heldRS, .hostMem, .memory, .mem, .power, .dealer, .serving, .talon, .vision, .media]
  | .trickPlanReceive .. => Part.reports ++ [.cores, .memory, .mem, .power, .dealer, .serving, .pfx, .talon, .ndx, .freeCtr]
  | .slotUnload .. | .prefixDrop .. => Part.reports ++ [.heldRS, .memory, .mem, .dealer, .serving, .pfx, .talon, .vision, .media, .freeCtr]
  | .edgeJobComplete .. => Part.reports ++ [.heldRS, .hostMem, .cores, .memory, .mem, .power, .dealer, .serving, .vision, .media, .freeCtr]
  | .arrayOp .. | .arrayResultLand .. | .weightTileLoad .. | .outputStage .. | .vectorArithmetic .. | .vectorConvert ..
  | .mxfp4BlockConvert .. | .vectorLoadStore .. | .controlWait .. | .streamMove .. | .streamMoveComplete .. | .tapWalker .. | .coreFault ..
  | .dealerDecision .. | .taskLoadComplete .. | .taskDone .. | .taskTimeout .. | .kvAppend .. | .kvDirect .. | .kvGather ..
  | .featureMapSpill .. | .featureMapFill .. | .tagPostDescriptor .. | .fenceTimeout .. | .allReduce .. | .allGather .. | .reduceScatter ..
  | .collSend .. | .collRecv .. | .collectiveComplete .. | .collTimeout .. | .rstCoreReset .. | .rstClusterReset .. | .rstCoreFold ..
  | .rstClusterFold .. | .cvAttach .. | .cvDetach .. | .cvSave .. | .cvRestore .. | .cvFeed .. | .sweepComplete .. | .fold .. =>
    Part.reports ++ [.heldRS, .hostMem, .cores, .memory, .mem, .power, .dealer, .cvOwner, .serving, .ndx, .vision, .media]
  | .submit .. => Part.reports ++ [.heldRS, .hostMem, .cores, .memory, .mem, .power, .dealer, .serving, .pfx, .talon, .vision, .media]
  | .parkExport .. => Part.reports ++ [.heldRS, .hostMem, .memory, .mem, .power, .dealer, .serving, .pfx, .talon, .vision, .media, .freeCtr]
  | .resumeReadComplete .. | .talonChannelFail .. | .shutdown .. =>
    Part.reports ++ [.heldRS, .hostMem, .memory, .mem, .power, .dealer, .serving, .pfx, .talon, .ndx, .vision, .media, .freeCtr]
  | .linkRetrain .. | .collectiveInstanceStart .. | .collectiveDataReceive .. | .linkDomainFailure .. =>
    Part.reports ++ [.heldRS, .hostMem, .cores, .memory, .mem, .power, .dealer, .cvOwner, .serving, .ndx, .vision, .media, .freeCtr]
  | .trickGraphComplete .. | .idleBoundary .. | .parkWriteComplete .. | .trickReportReceive .. =>
    Part.reports ++ [.heldRS, .hostMem, .cores, .memory, .mem, .power, .dealer, .serving, .pfx, .talon, .ndx, .vision, .media, .freeCtr]
  | .powerGoodTimeout .. | .rstPartitionReset .. | .partitionReset .. =>
    Part.reports ++ [.heldRS, .hostMem, .cores, .memory, .mem, .power, .dealer, .cvOwner, .serving, .pfx, .talon, .ndx, .vision, .media, .freeCtr]
  | .registerWrite .. | .peerWaitTimeout .. | .sensorSample .. | .resumePower .. | .resetNRelease .. | .stageTimeout .. | .moduleReset ..
  | .rstModuleReset .. | .drainComplete .. | .drainTimeout .. | .activate .. | .activationDrainComplete .. | .showdownDeadline ..
  | .inputPowerLoss .. | .auxPowerLoss .. | .peerTrainingSignal .. | .railFault .. | .standby .. | .resetNAssert .. | .presenceLoss .. =>
    Part.every

/-- The engines and memories that a command may change. -/
def engines (c : Instr) : List Part := (touches c).filter Part.engine

/-- Every part that the command may not change is as it was. -/
def framed (c : Instr) (s t : State) : Prop := ∀ p, p ∉ touches c → s.keeps t p

/-- The command of a core that writes its own registers and queues only, and the core. -/
def coreOnly : Instr → Option Nat
  | .arraySwap x => some x.core
  | .vectorCompare core .. | .vectorSelect core .. | .vectorReduce core .. | .vectorPermute core .. | .sfuOp core ..
  | .sfuResult core | .halt core => some core
  | _ => none

/-- Every byte of global memory outside n bytes from a reads as it did. -/
def State.keepsOutside (s t : State) (a n : Nat) : Prop :=
  ∀ k, k < a ∨ a + n ≤ k → cellsGet 0 t.memory.mem k = cellsGet 0 s.memory.mem k

/-- Every byte of global memory outside some ranges, each an address and a length, reads as it did. -/
def State.keepsOutsideAll (s t : State) (l : List (Nat × Nat)) : Prop :=
  ∀ k, (∀ e ∈ l, k < e.1 ∨ e.1 + e.2 ≤ k) → cellsGet 0 t.memory.mem k = cellsGet 0 s.memory.mem k

/-- Where an APPEND stores its kitty slots, one after another (R196). -/
def State.kittyStores (k : KvTarget) (j : Nat) : List (List Byte) → State → List (Nat × Nat)
  | [], _ => []
  | b :: t, s =>
    let a := s.kittyAddr k.slot k.die k.hand.kitty k.layer j
    (a, b.length) :: State.kittyStores k (j + 1) t (s.hbmWrite 3 a b).2

/-- An encoding that is no NaN, or the canonical NaN of its format (R52). -/
def nanCanonical (f : NumFmt) (b : Nat) : Prop := decodeNum f b = .nan → b = canonicalNan f

end Sys2Proof.Machine
end

