-- ==== Sys2Proof/Certificates/Slice0/Obligations.lean ====
section
/-! DEFINITION. Certificates/Slice0/Obligations.lean: the statements for the provers. -/
open Sys2Proof Sys2Proof.Machine


/-! ### Cores -/

/-- R42, R46, R47, R53, R54, R58, R60: the array's commands on a core that runs a body. An activation row puts one row of column sums on its way; a tile
goes to the shadow buffer; a swap exchanges the buffers; sums that land and an output stage write the core's store. Each has first waited. -/
def Obligations.ArrayCommandsComplete : Prop := ∀ (s : State) (core : Nat) (w : Waits), let t := s.waited core w;
  (∀ (op : ArrayOp) (k cols : Nat), s.bodyRuns core = true → arrayShape op.actFmt op.wFmt = some (k, cols) →
    t.storeReadable core op.acts (if op.actFmt = .fp4 then 32 else k * NumFmt_bytes op.actFmt) = true →
    t.storeReadable core op.actScales (if op.actFmt = .fp4 then 2 else 0) = true →
    ∃ sums, sums.length = cols ∧
      exec (.arrayOp ⟨core, w⟩ op) s =
        .next (t.updCore core (fun c => { c with landing := c.landing ++
          [⟨op.acc, op.add, isIntFmt op.wFmt, sums, c.cycles + (if op.wFmt = .bf16 ∨ op.wFmt = .fp16 then 48 else 40) * cycleUnit⟩] }))) ∧
  (∀ (row : Nat) (l : Landing), s.coreRuns core = true → landingRow row (t.coreAt core).landing = some l →
    t.storeReadable core l.acc (if l.add = true then 4 * l.sums.length else 0) = true → t.storeWritable core l.acc (4 * l.sums.length) = true →
    ∃ bytes fl, bytes.length = 4 * l.sums.length ∧
      exec (.arrayResultLand ⟨core, w, row⟩) s =
        .next (((t.updCore core (fun c => { c with landing := c.landing.eraseIdx row })).raise core fl).storePut core l.acc bytes)) ∧
  (∀ (x : TileLoad) (k cols : Nat), s.bodyRuns core = true → arrayShape x.actFmt x.wFmt = some (k, cols) →
    t.storeReadable core x.elems (tileBytes x.actFmt x.wFmt).1 = true → t.storeReadable core x.scales (tileBytes x.actFmt x.wFmt).2 = true →
    exec (.weightTileLoad ⟨core, w⟩ x) s = .next (t.updCore core (fun c => { c with
      shadow := ⟨t.storeBytes core x.elems (tileBytes x.actFmt x.wFmt).1, t.storeBytes core x.scales (tileBytes x.actFmt x.wFmt).2⟩ }))) ∧
  (∀ stalls, s.bodyRuns core = true →
    exec (.arraySwap ⟨core, stalls⟩) s =
      .next ((s.stalled core stalls).updCore core (fun c => { c with active := c.shadow, shadow := c.active }))) ∧
  (∀ (op : OutputOp), s.bodyRuns core = true → op.fmt ≠ .fp4 → op.fmt ≠ .int32 →
    t.storeReadable core op.acc (4 * op.cols) = true →
    (∀ a, op.scale = some a → t.storeReadable core a (4 * op.cols) = true) →
    (∀ a, op.bias = some a → t.storeReadable core a (4 * op.cols) = true) →
    t.storeWritable core op.dst (op.cols * NumFmt_bytes op.fmt) = true →
    ∃ bits fl lfsr, bits.length = op.cols ∧
      exec (.outputStage ⟨core, w⟩ op) s = .next ((t.updCore core (fun c => { c with lfsr := lfsr, flags := c.flags ||| fl })).storePut core op.dst
        (packElements op.fmt bits)))

/-- R63 to R65, R487: a vector command on a core that runs a body writes its destination register, and raises flags, and changes nothing else. -/
def Obligations.VectorCommandsComplete : Prop := ∀ (s : State) (core : Nat), s.bodyRuns core = true →
  (∀ op a b c dst, (intLane op 0 0).isSome = true →
    exec (.vectorArithmetic core .int32 op a b c dst) s = .next (s.putVreg core dst (ofLanes 32
      ((lanes 32 64 (s.vreg core a)).zipWith (fun x y => (intLane op x y).getD 0) (lanes 32 64 (s.vreg core b)))))) ∧
  (∀ f op a b c dst, f ≠ LaneFmt.int32 → (floatLane op .nan .nan .nan).isSome = true →
    ∃ fl v, exec (.vectorArithmetic core f op a b c dst) s = .next ((s.raise core fl).putVreg core dst v)) ∧
  (∀ src dst a d, src ≠ NumFmt.fp4 → dst ≠ NumFmt.fp4 →
    ∃ fl lfsr v inputs, let t := s.updCore core (fun c => { c with lfsr := lfsr, flags := c.flags ||| fl })
      exec (.vectorConvert core src dst a d) s =
        .next (if NumFmt_bytes src ≤ NumFmt_bytes dst then t.putVreg core d v
          else t.putLow core d (8 * NumFmt_bytes dst * (2048 / (8 * NumFmt_bytes src))) v inputs)) ∧
  (∀ bf a block elemsAt scaleAt w, let t := s.waited core w
    block < (if bf = true then 4 else 2) → t.storeWritable core elemsAt 16 = true → t.storeWritable core scaleAt 1 = true →
    ∃ fl lfsr es sc, es.length = 16 ∧
      exec (.mxfp4BlockConvert ⟨core, w⟩ bf a block elemsAt scaleAt) s =
        .next (((t.updCore core (fun c => { c with lfsr := lfsr, flags := c.flags ||| fl })).storePut core elemsAt es).storePut core scaleAt
          [sc])) ∧
  (∀ bf p a b dst, ∃ fl v, exec (.vectorCompare core bf p a b dst) s = .next ((s.raise core fl).putVreg core dst v)) ∧
  (∀ half cond a b dst, exec (.vectorSelect core half cond a b dst) s =
    .next (let w := if half then 16 else 32
      s.putVreg core dst (ofLanes w ((List.range (2048 / w)).map (fun i =>
        if (lanes w (2048 / w) (s.vreg core cond)).getD i 0 ≠ 0 then (lanes w (2048 / w) (s.vreg core a)).getD i 0
        else (lanes w (2048 / w) (s.vreg core b)).getD i 0))))) ∧
  (∀ f op a dst, exec (.vectorReduce core f op a dst) s =
    .next ((s.raise core (reduceLanes f op (s.vreg core a)).flags).putLow core dst (laneBits f) (reduceLanes f op (s.vreg core a)).bits
      [1, laneBits f, s.vreg core a])) ∧
  (∀ half idx a dst, ∃ v, exec (.vectorPermute core half idx a dst) s = .next (s.putVreg core dst v)) ∧
  (∀ r off w, (s.waited core w).storeReadable core off 256 = true →
    exec (.vectorLoadStore core true r off w) s =
      .next ((s.waited core w).putVreg core r (ofLeBytes ((s.waited core w).storeBytes core off 256)))) ∧
  (∀ r off w, (s.waited core w).storeWritable core off 256 = true →
    exec (.vectorLoadStore core false r off w) s =
      .next ((s.waited core w).storePut core off (leBytes 256 ((s.waited core w).vreg core r))))

/-- R44, R47, R48, R66, R68, R70, R94: the special-function unit, the control unit, HALT and a core fault. A wait is taken up, and stalls the core until its
count is reached; one whose count is reached costs no cycle. -/
def Obligations.ControlCommandsComplete : Prop := ∀ (s : State) (core : Nat),
  (∀ fn bf a g dst, s.bodyRuns core = true →
    ∃ results fl, exec (.sfuOp core fn bf a g dst) s =
      .next (s.updCore core (fun c => { c with sfu := c.sfu ++ [⟨dst, 16 * g, bf, results, fl⟩] }))) ∧
  (∀ b rest, s.coreRuns core = true → (s.coreAt core).sfu = b :: rest →
    ∃ v, exec (.sfuResult core) s =
      .next ((s.updCore core (fun c => { c with sfu := rest, flags := c.flags ||| b.flags })).putVreg core b.dst v)) ∧
  (∀ q k w, s.bodyRuns core = true → exec (.controlWait core (.wait q k) w) s =
    .next ((if k ≤ mapGetD 0 q (s.coreAt core).done then s else s.waited core w).updCore core (fun c => { c with waiting := some (q, k) }))) ∧
  (∀ off v w, s.bodyRuns core = true → off < 0x1000 →
    exec (.controlWait core (.writePage off v) w) s = .next ((s.waited core w).writePage core off v)) ∧
  (∀ off dst w, let t := s.waited core w
    s.bodyRuns core = true → off < 0x1000 → t.storeWritable core dst 4 = true →
    exec (.controlWait core (.readPage off dst) w) s = .next (t.storePut core dst (leBytes 4 (t.pageReg core off)))) ∧
  (s.bodyRuns core = true → exec (.halt core) s = .next (s.updCore core (fun c => { c with halted := true }))) ∧
  (∀ fw u t, (s.upset fw).bodyRuns core = true → ((s.upset fw).coreAt core).task = some (u, t) →
    exec (.coreFault core fw) s = .next ((s.upset fw).failTask u t St.DEAL_CORE_FAULT))

/-- R70 to R75, R259, R274: descriptors of the stream engine. A move within the cluster is performed and one that reaches global space is
started; the started one is performed at its completion, and what its queue holds follows; a walker and a feature-map descriptor read, write and
complete; a descriptor issued behind another of its queue is held. -/
def Obligations.StreamCommandsComplete : Prop := ∀ (s : State) (core queue : Nat) (us : List Upset) (w : Waits),
  let t := (s.upset us).waited core w;
  (∀ (d : StreamDesc) (p : Nat) (pairs : List (Nat × Nat)), (s.upset us).startsNow core queue w = true →
    d.dims.length ≤ 5 → d.elemBytes ≠ 0 → (d.dims.any (fun x => x.count == 0)) = false →
    t.corePart core = some p → t.resolveAll core p d = .ok pairs →
    exec (.streamMove core queue d w us) s =
      .next (if d.srcGlobal || d.dstGlobal then
          t.updCore core (fun c => { c with queues := c.queues ++ [(queue, ⟨d, t.snoopers core queue⟩)] })
        else t.performMove core queue d pairs (t.snoopers core queue))) ∧
  (∀ (d : StreamDesc), (s.upset us).bodyRuns core = true → (t.queueFree core queue = false ∨ (t.coreAt core).nextItem queue ≠ none) →
    exec (.streamMove core queue d w us) s = .next (t.updCore core (fun c => { c with issued := c.issued ++ [(queue, .move d)] }))) ∧
  (∀ (job : StreamJob) (p : Nat) (pairs : List (Nat × Nat)), (s.upset us).coreRuns core = true →
    (t.coreAt core).queues.find? (fun e => e.1 == queue) = some (queue, job) →
    t.corePart core = some p → t.resolveAll core p job.desc = .ok pairs →
    exec (.streamMoveComplete core queue ⟨w, us⟩) s =
      .next (((t.updCore core (fun c => { c with queues := c.queues.filter (fun e => e.1 != queue) })).performMove core queue
        job.desc pairs job.snoops).runQueue core queue)) ∧
  (∀ (words : List Nat) (p : Nat) (rd wrt : List Byte), (s.upset us).startsNow core queue w = true → t.corePart core = some p →
    tapValid (tapDesc words) = true → 1 ≤ tapOutH (tapDesc words) → 1 ≤ tapOutW (tapDesc words) →
    (t.walk core p (tapDesc words) (tapCells (tapDesc words)) [] []).1 = .ok (rd, wrt) →
    exec (.tapWalker core queue words ⟨w, us⟩) s =
      .next (((t.walk core p (tapDesc words) (tapCells (tapDesc words)) [] []).2.snoop (t.snoopers core queue) rd wrt).bumpDone core queue)) ∧
  (∀ (fill : Bool) (words : List Nat) (p a b : Nat), let d := fmapDesc words
    let inLen := d.blocks * (if fill then d.packedBytes else d.plainBytes)
    let outLen := d.blocks * (if fill then d.plainBytes else d.packedBytes)
    let r := t.globalRead 3 a inLen
    let x := r.2.2.globalWrite 3 b (d.convert r.2.1).1
    (s.upset us).startsNow core queue w = true → t.corePart core = some p → d.ok = true → d.fill = fill →
    t.resolve core p d.srcGlobal d.src inLen = .ok a → t.resolve core p d.dstGlobal d.dst outLen = .ok b →
    r.1 = none → x.1 = none →
    exec (if fill then .featureMapFill core queue words ⟨w, us⟩ else .featureMapSpill core queue words ⟨w, us⟩) s =
      .next (((x.2.raise core (d.convert r.2.1).2).snoop (t.snoopers core queue) r.2.1 (d.convert r.2.1).1).bumpDone core queue)) ∧
  (∀ (words : List Nat) (p : Nat), s.startsWith core queue = true → s.corePart core = some p →
    words.getD 0 0 < 2 ^ 17 → words.getD 1 0 < 2 ^ 48 → words.getD 2 0 < 2 ^ 48 → bitsAt (words.getD 2 0) 24 8 = 0 →
    (∀ i < 5, words.getD (3 + i) 0 = 0) →
    (bitsAt (words.getD 2 0) 32 16 = 0 → s.inTaskSpace p (bitsAt (words.getD 1 0) 0 48)
      (tagBytes (bitOf (words.getD 0 0) 16) (bitsAt (words.getD 2 0) 0 24)) = true) →
    let r := s.putTag 3 p (bitsAt (words.getD 0 0) 0 16) (bitsAt (words.getD 1 0) 0 48) (bitOf (words.getD 0 0) 16)
      (if bitsAt (words.getD 2 0) 32 16 = 0 then 1 else 2) (bitsAt (words.getD 2 0) 0 24) (bitsAt (words.getD 2 0) 32 16)
    r.1 = none → exec (.tagPostDescriptor core queue words) s = .next (r.2.bumpDone core queue))

/-- R196 to R199, R210 to R213: the KV descriptors of a body whose fields keep their format and whose accesses succeed. An APPEND flushes a pending run and
writes the kitty, a DIRECT writes a whole run into its page, a GATHER writes its blocks into the core's store; each then completes. A write
for a request without a page does nothing but complete. -/
def Obligations.KvCommandsComplete : Prop := ∀ (s : State) (core queue : Nat) (words : List Nat) (us : List Upset) (k : KvTarget)
    (tags : List Nat) (wt : Waits),
  let t := (s.upset us).waited core wt;
  let first := bitsAt (words.getD 1 0) 0 24;
  let count := bitsAt (words.getD 1 0) 32 7;
  let src := bitsAt (words.getD 2 0) 0 18;
  let run := k.hand.runSize first;
  let c := t.checkTable k;
  (s.upset us).startsNow core queue wt = true → t.kvTarget core (words.getD 0 0) = some k →
  (kvWriteOk 0 words = true → appendFits k.hand first count = true → k.hand.noPage = true →
    exec (.kvAppend core queue words ⟨wt, us⟩) s = .next (t.bumpDone core queue)) ∧
  (let f := c.2.flushSlice k;
    let u := f.2.2.raise core f.2.1.flags;
    let size := f.2.2.kittySlotBytes k.slot;
    let b := u.storeBytes core src (count * size);
    let w := u.writeKitty k (first % run) (chunksOf (u.kittySlotBytes k.slot) count b);
    kvWriteOk 0 words = true → appendFits k.hand first count = true → k.hand.noPage = false → c.1 = .sound tags → f.1 = none →
    u.storeReadable core src (count * size) = true → w.1 = none →
    exec (.kvAppend core queue words ⟨wt, us⟩) s =
      .next (((w.2.snoop (w.2.snoopers core queue) (f.2.1.read ++ b) (f.2.1.wrote ++ b)).noteWritten k first count).bumpDone core queue)) ∧
  (kvWriteOk 1 words = true → t.directFits k first count = true → k.hand.noPage = true →
    exec (.kvDirect core queue words ⟨wt, us⟩) s = .next (t.bumpDone core queue)) ∧
  (let size := c.2.kittySlotBytes k.slot;
    let b := c.2.storeBytes core src (count * size);
    let w := c.2.writeRun k first (chunksOf size count b) .none;
    kvWriteOk 1 words = true → t.directFits k first count = true → k.hand.noPage = false → c.1 = .sound tags →
    c.2.storeReadable core src (count * size) = true → w.1 = none →
    exec (.kvDirect core queue words ⟨wt, us⟩) s =
      .next ((((w.2.2.raise core w.2.1.flags).snoop ((w.2.2.raise core w.2.1.flags).snoopers core queue) (w.2.1.read ++ b)
        w.2.1.wrote).noteWritten k first count).bumpDone core queue)) ∧
  (∀ a : GatherAcc,
    let g := gatherDesc words;
    let stop := if g.blockEnd = 0xFFFFF then writtenBlocks k else min g.blockEnd (writtenBlocks k);
    let r := c.2.gatherBlocks k g tags (c.2.rdF (Reg.KV_WINDOW k.slot) Fld.KV_WINDOW_WINDOW) (c.2.rdF (Reg.KV_BIDIR k.slot) Fld.KV_BIDIR_BIDIR_LEN)
      ((List.range (stop - g.blockFirst)).map (· + g.blockFirst)) ⟨[], [], 0, 0⟩;
    let u := (r.2.raise core a.flags).storePut core g.dst a.out;
    t.gatherOk k.slot words = true → c.1 = .sound tags → r.1 = .ok a →
    (r.2.raise core a.flags).storeWritable core g.dst a.out.length = true → (u.coreAt core).task.isSome = true →
    exec (.kvGather core queue words ⟨wt, us⟩) s = .next ((u.snoop (u.snoopers core queue) a.read a.out).bumpDone core queue))

/-- R415, R416, R418 to R421: check-value descriptors of a body, and the host's attach and detach. A free context is attached, restored or fed; a
record is saved; a context that its task owns is detached. -/
def Obligations.CheckValueCommandsComplete : Prop := ∀ (s : State) (core queue : Nat) (d : CvDesc) (task : Nat × Nat) (us : List Upset)
    (wt : Waits),
  let u := coreCluster core;
  let ctrl := Reg.CV_CTRL u d.ctx;
  (s.startsWith core queue = true → (s.coreAt core).task = some task → cvDescOk d = true →
    (s.cvFree u d.ctx task = true → d.core < 16 → d.queue < 4 →
      let a := (((s.loadContext u d).wrF ctrl Fld.CV_CTRL_SRC 1).wrF ctrl Fld.CV_CTRL_INDEX (4 * d.core + d.queue)).wrF ctrl
        Fld.CV_CTRL_SIDE (boolNat d.writeSide);
      let b := ((a.wrF ctrl Fld.CV_CTRL_STATE 1).wrF ctrl Fld.CV_CTRL_OWNER 1).wrF ctrl Fld.CV_CTRL_ATTACH 1;
      exec (.cvAttach core queue d) s =
        .next ((({ b with cvOwner := mapSet (8 * u + d.ctx) task b.cvOwner }).startContext u d.ctx d.keep).bumpDone core queue)) ∧
    (s.cvState u d.ctx = 1 → s.cvOwnedBy u d.ctx = some task →
      exec (.cvDetach core queue d) s = .next ((s.detachContext u d.ctx).bumpDone core queue))) ∧
  (let t := (s.upset us).waited core wt;
    (s.upset us).startsNow core queue wt = true → (t.coreAt core).task = some task → cvDescOk d = true →
    (let w := t.globalWrite 3 (storeAddr core d.offset) (t.cvRecord u d.ctx);
      recordPlaceOk d = true → w.1 = none → exec (.cvSave core queue d ⟨wt, us⟩) s = .next (w.2.bumpDone core queue)) ∧
    (let r := t.globalRead 3 (storeAddr core d.offset) 32;
      recordPlaceOk d = true → t.cvFree u d.ctx task = true → r.1 = none →
      ∃ alg tagLen, exec (.cvRestore core queue d ⟨wt, us⟩) s =
        .next ((((((r.2.2.wr64 (Reg.CV_RUNNING_LO u d.ctx) (leAt r.2.1 0 8)).wr64 (Reg.CV_BYTES_LO u d.ctx) (leAt r.2.1 8 8)).wrF ctrl
          Fld.CV_CTRL_ALG alg).wrF ctrl Fld.CV_CTRL_TAG_LEN tagLen).wrF ctrl Fld.CV_CTRL_STATE 2 |>.showResult u d.ctx).bumpDone core queue)) ∧
    (let r := t.globalRead 3 (storeAddr core d.offset) d.length;
      t.cvFree u d.ctx task = true → 1 ≤ d.length → d.offset + d.length ≤ storeSize → r.1 = none →
      exec (.cvFeed core queue d ⟨wt, us⟩) s =
        .next (((((r.2.2.loadContext u d).startContext u d.ctx d.keep).feedContext u d.ctx r.2.1).wrF ctrl Fld.CV_CTRL_STATE 2).bumpDone
          core queue))) ∧
  (∀ v x value, let c := Reg.CV_CTRL v x
    let w := s.writeCtrl v x value;
    s.hostReaches = true → cvContextFits s v x = true → (s.cvOwnedBy v x).isNone = true →
    (s.cvState v x ≠ 1 → s.cvState v x ≠ 3 → w.pathOk v (w.rdF c Fld.CV_CTRL_SRC) (w.rdF c Fld.CV_CTRL_INDEX) = true →
      w.cvState v x ≠ 3 →
      let a := (w.wrF c Fld.CV_CTRL_STATE 1).wrF c Fld.CV_CTRL_ATTACH 1;
      exec (.hostCvAttach v x value) s = .next (a.startContext v x (a.rdB c Fld.CV_CTRL_KEEP))) ∧
    (s.cvState v x = 1 → exec (.hostCvDetach v x value) s = .next (w.detachContext v x)))

/-- R335, R340 to R343: a collective descriptor that keeps the rules of R340 becomes an instance; a placed instance reads its sources and sends its first phase;
received data reaches its instance; an instance with its result writes it and completes; one that waits too long fails. -/
def Obligations.CollectiveCommandsComplete : Prop := ∀ (s : State) (us : List Upset),
  (∀ (core queue u tid : Nat) (g : Graph) (x : Task) (d : CollDesc) (op : CollOp), s.startsWith core queue = true →
    (s.coreAt core).task = some (u, tid) → s.taskAt u tid = some (g, x) → s.collOk core g.part x u op d = true →
    s.groupActive g.part = true → s.rdF (Reg.FENCE_MASK g.part) Fld.FENCE_MASK_MASK = 0 →
    (s.ndx.early.any (fun e => e.1 == g.part && e.2.trick == g.trick && e.2.collId == x.desc.collId)) = false →
    let c : Collective := ⟨g.part, u, tid, core, queue, g.trick, x.desc.collId, op, d.fmt, d.peer, d.steer, d.layer, d.slot, d.count, d.src, d.dst,
      s.now, false, false, x.abortForm, [], none, [], s.snoopers core queue⟩;
    exec (match op with
        | .allReduce => .allReduce core queue d
        | .allGather => .allGather core queue d
        | .reduceScatter => .reduceScatter core queue d
        | .send => .collSend core queue d
        | .recv => .collRecv core queue d) s =
      .next (({ s with ndx := { s.ndx with
        issued := s.ndx.issued ++ [(u, tid)], collectives := s.ndx.collectives ++ [c], early := s.ndx.early } }).placeNext g.part)) ∧
  (∀ (p trick coll : Nat) (c : Collective) (own : List (List Byte)), let t := s.upset us
    let dies := match c.op with
      | .recv => []
      | .allReduce | .reduceScatter => t.partDies c.part
      | _ => (t.partDies c.part).take 1;
    let r := t.readSources c dies;
    t.instanceOf p trick coll = some c → t.partWorks p = true → c.placed = true → c.started = false → t.groupActive c.part = true →
    r.1 = .ok own →
    let c' := { c with started := true, own := own };
    exec (.collectiveInstanceStart p trick coll us) s =
      .next (((r.2.updCollective c.uid c.tid (fun _ => c')).sendFirst c').tryReduce c')) ∧
  (∀ (p : Nat) (d : DataTransfer) (c : Collective), s.partWorks p = true →
    s.ndx.arrived.find? (fun e => e.1 == p) = some (p, d) → d.kind ≠ 3 →
    s.instanceOf p d.trick d.collId = some c → agrees c d = true →
    let t := ({ s with ndx := { s.ndx with arrived := s.ndx.arrived.eraseP (fun e => e.1 == p) } }).updCollective c.uid c.tid
      (fun x => { x with data := x.data ++ [d] });
    exec (.collectiveDataReceive p) s = .next ((t.collAt c.uid c.tid).elim t (fun c => t.tryReduce c))) ∧
  (∀ (p trick coll : Nat) (c : Collective) (b out : List Byte), let t := s.upset us
    let q := t.steered c b;
    let w := q.2.writeResult c out (if c.op = .send then [] else q.2.partDies c.part);
    t.instanceOf p trick coll = some c → t.partWorks p = true → t.collResult c = some b → q.1 = .ok out → w.1 = none →
    c.abort = false → (c.data.any (fun d => d.abort)) = false →
    exec (.collectiveComplete p trick coll us) s =
      .next (((((w.2.dropCollective c).count (Reg.GROUP_COUNTER c.part 6)).bumpDone c.core c.queue).placeNext c.part).runQueue c.core
        c.queue)) ∧
  (∀ (p trick coll : Nat) (c : Collective), s.instanceOf p trick coll = some c → s.partWorks p = true →
    c.issuedAt + s.rdF Reg.NDX_CFG Fld.NDX_CFG_COLL_TIMEOUT_MS * 1000000 ≤ s.now →
    exec (.collTimeout p trick coll) s = .next (s.failCollective c St.NDX_COLL_TIMEOUT))

/-! ### The dealer -/

/-- R79, R86 to R91, R103, R104: a fetch takes the serving queue's entry first, else the entry at the head of the SQ whose turn it is; a graph whose entry and packet
pass every check is accepted with its tasks, and its queue's expected sequence number advances. -/
def Obligations.SubmissionCommandsComplete : Prop := ∀ (s : State) (p : Nat) (us : List Upset),
  let t := s.upset us;
  let d := t.partDealer p;
  (t.partRuns p = true → t.dealerOn p = true → d.fetched = none →
    (∀ e rest, d.servingQueue = e :: rest → t.roomFor p (packetCount e.copy) = true →
      exec (.submissionFetch p us) s = .next (t.putPartDealer p { d with fetched := some e, fetchedBad := none, servingQueue := rest })) ∧
    (∀ q b, d.servingQueue = [] → q = d.turn % 8 → t.sqWaiting p q = true →
      let cfg := Reg.SQ_CFG p q;
      let log2 := t.rdF cfg Fld.SQ_CFG_SIZE_LOG2;
      let head := t.rdN (Reg.SQ_HEAD p q);
      let r := t.ringRead (t.rdF cfg Fld.SQ_CFG_SPACE) (p + 1) (ringBase (t.rd64 (Reg.SQ_BASE_LO p q)) 32 log2 + 32 * head) 32;
      let e := parseEntry (.sq q) b;
      let k := r.2.packetTasks p e;
      r.1 = some b → (r.2.submitsOf p q) = [] → (e.fence && r.2.queueBusy p q) = false → k.2.2.roomFor p k.1 = true →
      exec (.submissionFetch p us) s =
        .next (((k.2.2.wrN (Reg.SQ_HEAD p q) ((head + 1) % 2 ^ log2)).putPartDealer p
          { k.2.2.partDealer p with fetched := some e, fetchedBad := k.2.1, turn := (q + 1) % 8 }).flushSubmits p q))) ∧
  (∀ e copyBad ts, d.fetched = some e → d.fetchedBad = none → t.partWorks p = true →
    let u := (t.putPartDealer p { d with fetched := none, fetchedBad := none }).dropSubmit p e;
    let r := u.readPacket p e copyBad;
    u.packetPlaceOk p e = true → u.recordsOk p e 1 = true → r.1 = none →
    r.2.2.recordsOk p e (packetCount r.2.1) = true → e.seq = r.2.2.expectOf p e.source →
    bitsAt (leAt r.2.1 0 8) 32 32 = r.2.2.expectOf p e.source → r.2.2.checkPacket p e r.2.1 = .ok ts →
    let v := r.2.2.advanceExpect p e.source;
    ∃ g : Graph, g.part = p ∧ g.source = e.source ∧ g.seq = e.seq ∧ g.uid = v.dealer.nextUid ∧ g.tag = leAt r.2.1 32 8 ∧
      g.tasks = ts.map (newTask v.now) ∧
      exec (.graphAccept p copyBad us) s =
        .next { v.wake with dealer := { v.dealer with graphs := v.dealer.graphs ++ [g], nextUid := v.dealer.nextUid + 1 } })

/-- R84, R85, R92, R95 to R101, R109, R112, R116: a decision with one ready task whose cores are free and whose energy is admitted starts it; a loaded task runs; a task whose
cores have halted and drained ends and releases its successors; one that runs too long fails; a held graph is aborted. -/
def Obligations.TaskCommandsComplete : Prop := ∀ (s : State),
  (∀ (p : Nat) (cls : TaskClass) (x : Ranked) (g : Graph) (t : Task) (pl : Placement) (i : Nat) (l : List (Placement × Nat)),
    s.partWorks p = true → s.dealerOn p = true → s.rankedOf p cls = [x] →
    (∀ c, c ≠ cls → s.rankedOf p c = [] ∧ (s.startTask p g t i).rankedOf p c = []) →
    s.taskAt x.graph.uid x.task.desc.id = some (g, t) → phaseReady t.phase = true →
    (t.desc.cls == .prefill && s.trumpWaiting p g.trick) = false → (t.desc.cls == .collective && !s.groupLinkUp p) = false →
    (t.desc.placements.zipIdx).filter (fun e => (placementCores e.1).all s.coreWorking) = (pl, i) :: l →
    ((placementCores pl).all (fun n => (s.coreAt n).task.isNone && !s.coreResetting n)) = true →
    s.energyAdmits p g t false = true →
    exec (.dealerDecision p) s = .next (s.startTask p g t i)) ∧
  (∀ (uid tid : Nat) (g : Graph) (t : Task) (pl : Placement) (us : List Upset), let u := s.upset us
    u.taskAt uid tid = some (g, t) → t.phase = .loading → u.partWorks g.part = true → Graph_counted g = true →
    (t.cores.all (fun n => u.corePowered n && u.clusterPowered (coreCluster n))) = true → t.desc.placements[t.placement]? = some pl →
    let r := State.loadCores g t pl.bodyTable t.cores.zipIdx u;
    r.1 = none →
    exec (.taskLoadComplete uid tid us) s =
      .next (r.2.updGraph uid (Graph_upd tid (Task.begin r.2.now (r.2.timeoutLimit t))))) ∧
  (∀ (uid tid : Nat) (g h : Graph) (t t' : Task), s.taskAt uid tid = some (g, t) → t.phase = .running → s.partWorks g.part = true →
    t.abortForm = false →
    (t.cores.all (fun n => (s.coreAt n).drained)) = true →
    (s.ndx.collectives.any (fun c => c.uid == uid && c.tid == tid)) = false →
    let a := ((s.overList t.cores (fun n u => u.freeCore n)).endBoost (uid, tid)).detachTask uid tid;
    let flags := t.cores.foldl (fun f n => f ||| (s.coreAt n).flags) 0;
    let stall := t.cores.foldl (fun f n => max f (s.coreAt n).stalls) 0;
    let empty := t.cores.any (fun n => (s.coreAt n).emptySeen);
    let b := a.updGraph uid (fun g => releaseSuccs a.now t.desc.succs (Graph_upd tid (fun t =>
      { t with phase := .done, status := if empty then St.VIS_EMPTY_OUTPUT else 0x2000, endTs := a.now, flags := flags, stallMax := stall }) g));
    b.taskAt uid tid = some (h, t') →
    exec (.taskDone uid tid) s = .next ((b.writeRecord h t').finishGraph uid)) ∧
  (∀ (uid tid n : Nat) (g : Graph) (t : Task) (fw : List Upset), let u := s.upset fw
    u.taskAt uid tid = some (g, t) → t.phase = .running → u.partWorks g.part = true →
    n ∈ t.cores → (u.coreAt n).drained = false → t.limit * cycleUnit ≤ (u.coreAt n).cycles →
    exec (.taskTimeout uid tid fw) s = .next (u.failTask uid tid St.DEAL_TASK_TIMEOUT)) ∧
  (∀ (fn p seq : Nat) (g : Graph), s.hostReaches = true → s.mayReach fn p = true → s.partWorks p = true →
    (s.heldGraphs p).find? (fun g => sourceQueue g.source == some (s.rdF (Reg.PART_CTRL p) Fld.PART_CTRL_ABORT_SQ) && g.seq == seq % 2 ^ 32) =
      some g →
    exec (.abortSeq fn p seq) s = .next (s.abortGraph g.uid))

/-! ### Memory, the host's window and the host's registers -/

/-- R123, R124, R135, R139, R140, R315, R317: a finished remap; one scrub of a 256-byte unit; a failed pseudo-channel; host reads, writes and window bases. -/
def Obligations.MemoryCommandsComplete : Prop := ∀ (s : State),
  (∀ (die page : Nat) (r : RemapJob), s.memory.remaps.find? (fun r => r.die == die && r.page == page) = some r →
    exec (.remapComplete die page) s = .next (match (s.finishRemap r).dieOwner die with
      | some p => (s.finishRemap r).dropLostNodes p
      | none => s.finishRemap r)) ∧
  (∀ (die : Nat) (us : List Upset), let t := s.upset us
    let off := mapGetD 0 die t.memory.scrubAt;
    let a := die * hbmRegion + off;
    die < 4 → t.rdF Reg.MEM_CFG Fld.MEM_CFG_SCRUB_PERIOD ≠ 0 → t.memory.selfRefresh.contains (t.stackIndex a) = false →
    t.mgmt.excludedDies.contains die = false → t.power.standby = false →
    let u := t.scrubUnit a;
    let next := if u.fitted ≤ off + 256 then 0 else off + 256;
    let v := { u with memory := { u.memory with scrubAt := mapSet die next u.memory.scrubAt } };
    ((List.range 4).find? (fun d => !v.mgmt.excludedDies.contains d) ≠ some die → exec (.scrubRead die us) s = .next v) ∧
    ((List.range 4).find? (fun d => !v.mgmt.excludedDies.contains d) = some die → next ≠ 0 →
      exec (.scrubRead die us) s = .next (v.wrF Reg.MEM_SCRUB Fld.MEM_SCRUB_PROGRESS (next * 65536 / v.fitted)))) ∧
  (∀ (die pc : Nat) (a : Nat), die < 4 → pc < (if s.fuses.a8 then 64 else 32) → s.memory.failedChannels.contains (die * 64 + pc) = false →
    exec (.hbmChannelFailed die pc (some a)) s =
      .next ((({ s with memory := { s.memory with failedChannels := setInsert (die * 64 + pc) s.memory.failedChannels } }).ledgerRecord
        (0x4000 + 2 * die + (if s.fuses.a8 then pc / 32 else 0)) St.MEM_HBM_CHANNEL_FAILED 4 0 true).memPartFatal a St.MEM_HBM_CHANNEL_FAILED)) ∧
  (∀ (fn off n : Nat) (us : List Upset), let t := s.upset us
    let a := t.windowAddr fn off;
    let r := t.hbmRead 3 a n;
    t.pcieUp = true → t.ready = true → t.fnExists fn = true → off + n ≤ windowBytes → t.windowOk fn a n false = true → r.1 = none →
    exec (.bar4Read fn off n us) s = .next (r.2.2.emit (.readData fn (ofLeBytes (r.2.2.showHands a r.2.1))))) ∧
  (∀ (fn off : Nat) (bytes : List Nat) (us : List Upset), let t := s.upset us
    let a := t.windowAddr fn off;
    let b := bytes.map (BitVec.ofNat 8);
    t.pcieUp = true → t.ready = true → t.fnExists fn = true → off + bytes.length ≤ windowBytes → t.windowOk fn a bytes.length true = true →
    exec (.bar4Write fn off bytes us) s = .next ((t.hbmWrite 3 a b).2.feedPath 1 fn b)) ∧
  (∀ fn target value : Nat, s.pcieUp = true → (s.ready = true ∨ fn = 0) → s.fnExists fn = true → target < 5 → (fn = 0 ∨ fn = target) →
    exec (.winBaseWrite fn target value) s = .next (s.writeReg false (Reg.WIN_BASE target) value))

/-- R102, R151, R248, R315, R316: a write of a ring's tail or head that reaches the ring and lies within it, by the register, is stored; a doorbell does so too and leaves
DORMANT. A head write then releases the entries that its queue holds back. A doorbell write at an offset that is no doorbell's changes nothing,
and BAR2 reads 0. -/
def Obligations.RingWritesComplete : Prop := ∀ (s : State) (d : DoorbellWrite), s.hostReaches = true → (d.viaDoorbell = true → alignedDoorbell d = true) →
  let w := fun (off : Nat) => (if d.viaDoorbell then s.wake else s).wrN off d.value;
  let reaches := fun (page : Nat) (r : RingRef) => if d.viaDoorbell then namesRing d page r && s.doorbellReaches d.fn page r else s.reachesRing d.fn r;
  (∀ p q, reaches p (.sq p q) = true → d.value < 2 ^ s.rdF (Reg.SQ_CFG p q) Fld.SQ_CFG_SIZE_LOG2 →
    exec (.sqTailWrite p q d) s = .next (w (Reg.SQ_TAIL p q))) ∧
  (∀ p q, reaches p (.rq p q) = true → d.value < 2 ^ s.rdF (Reg.RQ_CFG p q) Fld.RQ_CFG_SIZE_LOG2 →
    exec (.rqTailWrite p q d) s = .next (w (Reg.RQ_TAIL p q))) ∧
  (reaches 0 .tln = true → d.value < 2 ^ s.rdF Reg.TLN_CMD_CFG Fld.TLN_CMD_CFG_SIZE_LOG2 →
    exec (.tlnCmdTailWrite d) s = .next (w Reg.TLN_CMD_TAIL)) ∧
  (∀ page die, reaches page (.eq die) = true → d.value < 2 ^ s.rdF (Reg.EQ_CFG die) Fld.EQ_CFG_SIZE_LOG2 →
    exec (.eqTailWrite page die d) s = .next (w (Reg.EQ_TAIL die))) ∧
  (∀ p, reaches p (.rkq p) = true → d.value < 2 ^ s.rdF (Reg.RKQ_CFG p) Fld.RKQ_CFG_SIZE_LOG2 →
    exec (.rkqTailWrite p d) s = .next (w (Reg.RKQ_TAIL p))) ∧
  (∀ page m, reaches page (.msq m) = true → d.value < 2 ^ s.rdF (Reg.MSQ_CFG m) Fld.MSQ_CFG_SIZE_LOG2 →
    exec (.msqTailWrite page m d) s = .next (w (Reg.MSQ_TAIL m))) ∧
  (∀ p q, reaches p (.cq p q) = true → d.value < 2 ^ s.rdF (Reg.CQ_CFG p q) Fld.CQ_CFG_SIZE_LOG2 →
    exec (.cqHeadWrite p q d) s = .next ((w (Reg.CQ_HEAD p q)).releaseCompletions p q)) ∧
  (∀ p q, p < 4 → reaches p (.scq p q) = true → d.value < 2 ^ s.rdF (Reg.SCQ_CFG p q) Fld.SCQ_CFG_SIZE_LOG2 → s.scqFull p q = false →
    exec (.scqHeadWrite p q d) s = .next ((w (Reg.SCQ_HEAD p q)).releaseEntries p q)) ∧
  (∀ page m p, reaches page (.mcq m) = true → d.value < 2 ^ s.rdF (Reg.MCQ_CFG m) Fld.MCQ_CFG_SIZE_LOG2 →
    (w (Reg.MCQ_HEAD m)).pipeOwner m = some p →
    exec (.mcqHeadWrite page m d) s =
      .next ((w (Reg.MCQ_HEAD m)).releaseMedia m p ((w (Reg.MCQ_HEAD m)).mediaPipe m).held)) ∧
  (d.viaDoorbell = true → bar2Ring d.fn (d.offset / 4 * 4) = none → ∀ p q,
    exec (.sqTailWrite p q d) s = .next s ∧ exec (.cqHeadWrite p q d) s = .next s ∧ exec (.rqTailWrite p q d) s = .next s ∧
    exec (.scqHeadWrite p q d) s = .next s ∧ exec (.tlnCmdTailWrite d) s = .next s ∧ exec (.eqTailWrite p q d) s = .next s ∧
    exec (.rkqTailWrite p d) s = .next s ∧ exec (.msqTailWrite p q d) s = .next s ∧ exec (.mcqHeadWrite p q d) s = .next s) ∧
  (∀ fn off, bar2Read fn off = .data 0)

/-- R9 to R12, R87, R407: a register write of one or two aligned words, and a write of a ring's CFG register that stops or starts the ring. An access
of another width, or not aligned to its width, completes as an Unsupported Request and changes no register but the count of uncorrectable
errors (R36). A read of BAR0 keeps the same widths: a 64-bit one is two reads of 32 bits, the low word's first. -/
def Obligations.RegisterWritesComplete : Prop := ∀ (s : State) (fn : Nat),
  (∀ off bytes value, s.pcieUp = true → fn < 5 → (bytes ≠ 4 ∧ bytes ≠ 8) ∨ off % bytes ≠ 0 →
    ∃ t, exec (.registerWrite fn off bytes value) s = .next t ∧ t.pcie.sent = .unsupported fn :: s.pcie.sent ∧
      (∀ k, k ≠ Reg.PCI_COUNTER 1 → t.rd k = s.rd k) ∧ t.heldRS = s.heldRS ∧ t.memory = s.memory ∧ t.pcie.hostMem = s.pcie.hostMem ∧
      t.pcie.msix = s.pcie.msix) ∧
  (∀ off value, s.pcieUp = true → fn < 5 → off % 4 = 0 →
    exec (.registerWrite fn off 4 value) s = .next (s.writeBar fn off (value % 2 ^ 32))) ∧
  (∀ off value, s.pcieUp = true → fn < 5 → off % 8 = 0 →
    exec (.registerWrite fn off 8 value) s =
      .next ((s.writeBar fn off (value % 2 ^ 32)).writeBar fn (off + 4) (value / 2 ^ 32 % 2 ^ 32))) ∧
  (∀ r value, s.hostReaches = true → s.reachesRing fn r = true →
    let t := s.writeReg (s.ringRuns r) (ringCfg r) value;
    exec (.ringEnableWrite fn r value) s = .next (if t.ringRuns r then t else t.disableRing r)) ∧
  (∀ off bytes, (bytes ≠ 4 ∧ bytes ≠ 8) ∨ off % bytes ≠ 0 → s.bar0Read fn off bytes = .unsupported) ∧
  (∀ off, off % 4 = 0 → s.bar0Read fn off 4 = .data (s.readBar fn off)) ∧
  (∀ off, off % 8 = 0 → s.bar0Read fn off 8 = .data (s.readBar fn off + 2 ^ 32 * (s.latchRead fn off).readBar fn (off + 4)))


/-! ### Serving -/

/-- R143, R146 to R153, R170, R174, R175: a request descriptor is fetched from the RQ whose turn it is; a SUBMIT that passes its checks is HELD and looked up; a CANCEL,
PARK or RESUME for a slot of this member waits for the slot's next boundary. -/
def Obligations.RequestCommandsComplete : Prop := ∀ (s : State) (p : Nat) (us : List Upset),
  (∀ (q : Nat) (b : List Byte), let t := s.upset us
    let cfg := Reg.RQ_CFG p q;
    let head := t.rdN (Reg.RQ_HEAD p q);
    let log2 := t.rdF cfg Fld.RQ_CFG_SIZE_LOG2;
    let r := t.ringRead (t.rdF cfg Fld.RQ_CFG_SPACE) (p + 1) (ringBase (t.rd64 (Reg.RQ_BASE_LO p q)) 64 log2 + 64 * head) 64;
    t.partRuns p = true → t.powerOn = true → t.rdB (Reg.PART_SRV_CTRL p) Fld.PART_SRV_CTRL_ENABLE = true → t.fetchedAt p = none →
    q = (t.partServing p).rqTurn % 4 → t.rdB cfg Fld.RQ_CFG_ENABLE = true → head ≠ t.rdN (Reg.RQ_TAIL p q) →
    (t.rdB (Reg.SCQ_CFG p (t.scqOf p q)) Fld.SCQ_CFG_ENABLE && t.scqFull p (t.scqOf p q)) = false →
    t.hostReadable (t.rdF cfg Fld.RQ_CFG_SPACE) (p + 1) = true → r.1 = some b → 1 ≤ leAt b 0 1 → leAt b 0 1 ≤ 4 →
    (leAt b 0 1 = 1 → (r.2.partServing p).held.length < 4096) →
    exec (.requestFetch p us) s =
      .next ((((r.2.wrN (Reg.RQ_HEAD p q) ((head + 1) % 2 ^ log2)).putServing p { r.2.partServing p with rqTurn := (q + 1) % 4 }).putFetched p
        (some (q, b))).showServing p)) ∧
  (∀ (q : Nat) (b : List Byte), let t := s.upset us
    let d := parseRequest b;
    let mm := bitsAt (leAt b 56 8) 48 4;
    let u := t.wake.putFetched p none;
    let r := if mm = 0 then (none, [], u) else u.globalRead 3 d.mmAddr (16 * mm);
    let segs := parseSegments r.2.1 mm;
    t.submitWaits p = false → t.fetchedAt p = some (q, b) → leAt b 0 1 = 1 → t.partWorks p = true → u.follows p d.slot = false → u.slotFor p d.slot = true →
    u.requestOk p d mm = true → r.1 = none → r.2.2.segmentsOk p d segs = true → d.variant < r.2.2.rdN (Reg.VARIANT_COUNT d.slot) →
    r.2.2.tagLive p d.slot d.hostTag = false →
    let x := r.2.2.partServing p;
    let d' := { d with segs := segs };
    exec (.submit p us) s =
      .next ((((r.2.2.putServing p { x with held := x.held ++ [⟨d', q, r.2.2.now⟩] }).lookup p d').slotEvent d.slot).showServing p)) ∧
  (∀ (q op : Nat) (b : List Byte), let d := parseRequest b
    let u := s.wake.putFetched p none;
    s.fetchedAt p = some (q, b) → leAt b 0 1 = op → d.opcode = op → s.partWorks p = true → u.follows p d.slot = false → u.slotFor p d.slot = true →
    (op = 2 ∨ op = 3 →
      exec (if op = 2 then .cancel p else .park p) s =
        .next ((u.updSlot d.slot (fun x => { x with commands := x.commands ++ [⟨op, d.target, d.hostTag, q, 0, 0, 0⟩] })).slotEvent d.slot)) ∧
    (op = 4 → exec (.resume p) s =
      .next ((u.updSlot d.slot (fun x => { x with
        commands := x.commands ++ [⟨4, d.target, d.hostTag, q, d.cls, d.stop0, d.stop1⟩] })).slotEvent d.slot)))

/-- R161 to R168, R173, R325, R488: events that form a boundary. The completion of a trick's graph on the lead forms one once every follower has reported; a slot with an event and no trick
forms one; deadlines and holding times give the slot an event; a member that never reports loses the slot its group. -/
def Obligations.BoundaryCommandsComplete : Prop := ∀ (s : State) (sl : Nat) (bad : List (Nat × Nat)) (us : List Upset),
  let p := s.slotOwner sl;
  (∀ (r : GraphReport) (f : TrickInFlight), let t := s.upset us
    let q := t.slotOwner sl;
    let u := t.takeReport sl;
    t.partWorks q = true → t.slotLead sl = true → u.1 = some r → (u.2.slotServing sl).inFlight = some f →
    let v := u.2.updSlot sl (fun x => { x with inFlight := some { f with graphEnd := some (r.status, r.failed) } });
    (v.trickDone q sl = true → exec (.trickGraphComplete sl bad us) s = .next (v.boundary q sl bad)) ∧
    (v.trickDone q sl = false → exec (.trickGraphComplete sl bad us) s = .next v)) ∧
  (let t := s.upset us;
    t.partWorks (t.slotOwner sl) = true → t.slotReady sl = true → t.slotLead sl = true → (t.slotServing sl).inFlight = none →
    (t.slotServing sl).event = true → exec (.idleBoundary sl bad us) s = .next (t.boundary (t.slotOwner sl) sl bad)) ∧
  ((s.heldOf p sl).any s.deadlinePassed = true → exec (.heldDeadlinePass sl) s = .next (s.slotEvent sl)) ∧
  (∀ r, r ∈ s.heldOf p sl → s.holdMaxMs p sl r.desc.cls ≠ 0 → r.fetchTs + s.holdMaxMs p sl r.desc.cls * 1000000 < s.now →
    exec (.holdMaxPass sl) s = .next (s.slotEvent sl)) ∧
  (∀ (f : TrickInFlight) (j : Nat), (s.slotServing sl).inFlight = some f → s.partWorks p = true → s.slotLead sl = true → j ∈ s.otherMembers p →
    (f.reports.any (fun r => r.1 == j)) = false →
    f.submittedAt + s.rdF (Reg.SLOT_TIMEOUT sl) Fld.SLOT_TIMEOUT_GROUP_TIMEOUT_MS * 1000000 < s.now →
    exec (.groupTimeout sl) s = .next (s.loseSlot p sl)) ∧
  (∀ (r : GraphReport) (f : TrickInFlight), let u := s.takeReport sl
    s.partWorks p = true → s.slotReady sl = true → s.slotLead sl = false → u.1 = some r → (u.2.slotServing sl).inFlight = some f →
    trickOk r.status = true →
    let v := u.2.commitSlotRS p sl;
    let x := v.slotServing sl;
    let ends := x.toEnd ++ v.namedByFailures p sl r.failed;
    exec (.followerTrickComplete sl []) s =
      .next (((v.sendControl p (v.groupLead p) 2 (reportBody f.num sl 0x3000 ends x.parkReports)).setTrick sl f.num).putSlot sl
        { x with inFlight := some { f with graphEnd := some (r.status, r.failed) }, toEnd := [], parkReports := [] }))

/-- R174, R175, R228 to R230, R333: parking, resumption, demotion and promotion end when their reads and writes have ended; a follower reports its prefix index. -/
def Obligations.ServingTransfersComplete : Prop := ∀ (s : State) (p : Nat) (us : List Upset) (cws : List Codeword),
  (∀ (i : Nat) (h : HandRecord), let t := s.upset us
    let b := t.useTalon.parkBody p h;
    t.handAt p i = some h → h.phase = .parking → h.awaiting.contains (t.groupMember p) = true → t.talonUp = true → t.partWorks p = true →
    (t.parkedAt h.parkHandle).isSome = true → b.1 = none →
    let v := (({ b.2.2 with talon := { b.2.2.talon with parked := b.2.2.talon.parked.map (fun (i : ParkedImage) =>
      if i.handle = h.parkHandle then { i with complete := true, body := putBody [] 0 b.2.1 } else i) } } : State).journalled).charge p
        (((b.2.2.parkedAt h.parkHandle).map (fun i => pagesFor i.bytes)).getD 0);
    let g := (v.unleaseHand h).1;
    let u := (v.unleaseHand h).2.putHand p g;
    exec (.parkWriteComplete p i us) s = .next (if u.slotLead g.desc.slot then u.memberParked p i (u.groupMember p) 0x3000
      else (u.putHand p { g with awaiting := [] }).updSlot g.desc.slot (fun x => { x with parkReports := x.parkReports ++ [(i, 0x3000)] }))) ∧
  (∀ (i : Nat) (h g : HandRecord) (img : ParkedImage) (t : State), let l := s.ladder cws
    let m := l.countReads img.fragments;
    s.handAt p i = some h → h.phase = .resuming → h.awaiting ≠ [] → s.partWorks p = true → s.talonUp = true →
    l.resumeFits p h.desc.slot h.parkHandle = true → l.parkedAt h.parkHandle = some img → img.lost = false →
    State.resumeRows h.desc.slot ((m.partDies p).zip (img.hand.tables)) (resumedHand img h) m = some (g, t) →
    let u := (t.fillResumed p img g).putHand p { g with awaiting := [], outcome := some 0x3000 };
    u.slotLead h.desc.slot = true →
    exec (.resumeReadComplete p i cws) s = .next (u.idleBoundary p h.desc.slot)) ∧
  (∀ (e : Nat) (x : PfxTransfer), let t := s.upset us
    t.transferAt p e true = some x → t.talonUp = true → t.partWorks p = true →
    exec (.demotionReadComplete p e us) s = .next (t.useTalon.demotionRead x)) ∧
  (∀ (e : Nat) (x : Extent), s.extentAt e = some x → x.committed = false → x.stale = false → s.talonUp = true → s.transferAt x.part e true = none →
    exec (.extentCommit e) s =
      .next (((((s.useTalon.updExtent e (fun y => { y with committed := true })).journalled).charge x.part (pagesFor x.bytes)).showShare x.part).demoteCheck x.part false)) ∧
  (∀ (e : Nat) (x y : PfxTransfer), s.transferAt p e false = some x → s.talonUp = true → s.partWorks p = true →
    (s.ladder cws).transferAt p e false = some y →
    exec (.promotionReadComplete p e cws) s = .next ((s.ladder cws).promotionRead y)) ∧
  (s.partWorks p = true → 1 < s.groupSize p → s.groupMember p ≠ s.groupLead p →
    exec (.prefixReportSend p) s = .next (s.sendControl p (s.groupLead p) 3 (prefixReportBody (mapGetD 0 p s.talon.credit / 1048576)
      (s.parkFree p / 1048576) (((s.nodesOf p).filter (fun e => e.2.state == .lostNode)).map (fun e => e.1)))))

/-- R325, R333, R334, R336 to R339: heartbeats, fencing, acknowledgments and retransmissions of a group's members. -/
def Obligations.GroupControlComplete : Prop := ∀ (s : State) (p : Nat),
  (s.ready = true → mapGetD 0 p s.ndx.heartbeatAt + s.rdF Reg.NDX_CFG Fld.NDX_CFG_HB_MS * 1000000 ≤ s.now →
    let t := ({ s with ndx := { s.ndx with heartbeatAt := mapSet p s.now s.ndx.heartbeatAt } }).commitRS (inRange 0x900000 0x100000);
    (t.groupState p = 1 ∨ t.groupState p = 2 → exec (.heartbeatSend p) s = .next (t.overList (t.otherMembers p) (fun j t => t.sendControl p j 4 []))) ∧
    (t.groupState p ≠ 1 → t.groupState p ≠ 2 → exec (.heartbeatSend p) s = .next t)) ∧
  (∀ e, let r := s.takeInbox p 4
    r.1 = some e → exec (.heartbeatReceive p) s = .next (r.2.putPeer p e.src { r.2.peerAt p e.src with lastHeard := r.2.now })) ∧
  (∀ j, s.ready = true → 1 ≤ s.groupState p → s.groupState p ≤ 3 → j ∈ s.otherMembers p → bitOf (s.rdF (Reg.FENCE_MASK p) Fld.FENCE_MASK_MASK) j = false →
    (s.peerAt p j).lastHeard + s.rdF Reg.NDX_CFG Fld.NDX_CFG_FENCE_MS * 1000000 ≤ s.now →
    let t := s.putBit (Reg.FENCE_MASK p) j true;
    exec (.fenceTimeout p j) s = .next ((t.failCollectives p St.NDX_MEMBER_FENCED (fun c => t.needs c j)).evaluateGroup p)) ∧
  (∀ e, let r := s.takeInbox p 5
    r.1 = some e → r.2.groupIsolated p = false → r.2.groupState p ≠ 4 →
    exec (.fencedReceive p) s = .next (r.2.leaveGroup p 3 St.NDX_FENCED)) ∧
  (∀ e, let r := s.takeInbox p 6
    r.1 = some e →
    let x := r.2.peerAt p e.src;
    exec (.controlAckReceive p) s =
      .next ((r.2.putPeer p e.src { x with unacked := x.unacked.filter (fun m => m.seq != leAt e.body 0 8) }).fillWindow p e.src)) ∧
  (∀ j m rest t, let x := s.peerAt p j
    x.unacked = m :: rest → m.sentAt = some t → t + retryEvery ≤ s.now → s.ready = true → s.groupIsolated p = false →
    (m.retries < retryLimit →
      exec (.controlRetransmit p j) s =
        .next (((s.putPeer p j { x with unacked := { m with retries := m.retries + 1, sentAt := some s.now } :: rest }).post
          St.NDX_CTRL_RETRANSMIT).transmit p j m.type m.seq m.body)) ∧
    (retryLimit ≤ m.retries →
      exec (.controlRetransmit p j) s =
        .next ((((s.putPeer p j { x with unacked := rest }).count (Reg.GROUP_COUNTER p 4)).post St.NDX_CTRL_LOST).fillWindow p j)))

/-- R158, R168, R228 to R233, R335: a plan whose embeddings have arrived is applied by the follower that waits for it; a lead takes a follower's report of its trick and
of its prefix index. -/
def Obligations.GroupPlansComplete : Prop := ∀ (s : State) (p : Nat) (us : List Upset),
  (∀ (t : TrickPlan) (l : Nat), let u := s.upset us
    u.readyPlan p = some (t, l) → t.embedBytes ≤ ((u.embedsOf p t.trick).map (fun e => e.2.length)).sum →
    let v := { u with ndx := { u.ndx with inbox := u.ndx.inbox.filter (fun e =>
      !(e.part == p && e.type == 1 && leAt e.body 0 6 == t.trick && leAt e.body 6 1 % 8 == t.slot)) } };
    v.partWorks p = true → v.slotReady t.slot = true → v.slotOwner t.slot = p → v.slotLead t.slot = false → t.trick = v.trickOf t.slot + 1 →
    (v.slotServing t.slot).waitingPlan = none →
    exec (.trickPlanReceive p us) s = .next (v.applyPlan p t)) ∧
  (∀ (e : InboxEntry) (f : TrickInFlight) (bad : List (Nat × Nat)), let r := (s.upset us).takeInbox p 2
    let sl := leAt e.body 6 1 % 8;
    let n := leAt e.body 10 2;
    let v := r.2.overList (pairsAt e.body (16 + 4 * n) (leAt e.body 12 2)) (fun x t => t.memberParked p x.1 e.src x.2);
    r.1 = some e → r.2.partWorks p = true → r.2.slotReady sl = true → r.2.slotOwner sl = p → r.2.slotLead sl = true →
    (v.slotServing sl).inFlight = some f → f.num = leAt e.body 0 6 → (f.reports.any (fun r => r.1 == e.src)) = false →
    let w := v.updSlot sl (fun x => { x with
      inFlight := some { f with reports := f.reports ++ [(e.src, (leAt e.body 8 2, pairsAt e.body 16 n))] } });
    exec (.trickReportReceive p bad us) s = .next (if w.trickDone p sl then w.boundary p sl bad else w)) ∧
  (∀ e, let r := s.takeInbox p 3
    r.1 = some e → r.2.partWorks p = true → r.2.groupMember p = r.2.groupLead p →
    let t := r.2.putPeer p e.src { r.2.peerAt p e.src with creditMiB := toSigned 32 (leAt e.body 0 4), parkFreeMiB := leAt e.body 4 4 };
    exec (.prefixReportReceive p) s =
      .next (t.overList ((List.range (leAt e.body 8 2)).map (fun i => leAt e.body (16 + 4 * i) 3)) (fun i t =>
        if (t.nodeAt p i).isSome then t.evictSubtree p i else t)))

/-! ### Talon -/

/-- R242 to R248: the command at the head of Talon's ring, when its format holds and its partition exists. Each clause is one OP under the conditions that R243 to R246 give it;
`u` is the state with the command taken, `g` its words. -/
def Obligations.TalonCommandsComplete : Prop := ∀ (s t : State) (w : List Nat) (us : List Upset) (cws : List Codeword),
  let op := bitsAt (w.getD 0 0) 0 8;
  let p := bitsAt (w.getD 0 0) 8 2;
  let g := fun i => w.getD i 0;
  let u := t.takeTalon w;
  talonFormatOk op w = true → u.partExists p = true → t.commandAbsorbed w = false →
  (s.talonHead = (some w, t) →
    (op = 1 → (g 4 + g 5 + g 6 + g 7) ≠ 0 → ([g 4, g 5, g 6, g 7].all (fun n => n % flashPage == 0 && decide (n ≤ 2 ^ 40))) = true →
      u.imageAt (g 1) = none → u.talon.images.length < 64 →
      (u.talon.images.map imageBytes).sum + (g 4 + g 5 + g 6 + g 7) ≤ u.zoneUsable .weights →
      exec .imageCreate s = .next (({ u with talon := { u.talon with
        images := u.talon.images ++ [(⟨g 1, g 3, p, [g 4, g 5, g 6, g 7], [], .open, [], []⟩ : WeightImage)] } }).journalled.endTalon talonOk)) ∧
    (∀ i, op = 3 → u.imageAt (g 1) = some i → i.part = p → i.state = .open → i.written.length = imageBytes i / flashPage →
      exec .imageSeal s = .next ((u.updImage (g 1) (fun i => { i with state := .sealed })).journalled.endTalon talonOk)) ∧
    (∀ i, op = 4 → u.imageAt (g 1) = some i → i.part = p →
      exec .imageDelete s = .next (({ u with talon := { u.talon with images := u.talon.images.filter (fun x => x.id != g 1) } }).journalled.endTalon
        talonOk)) ∧
    (∀ i, let sl := bitsAt (g 0) 12 3
      op = 5 → u.slotOwned sl = true → u.slotOwner sl = p → u.slotState sl = 0 → u.imageAt (g 1) = some i → i.part = p → i.state = .sealed →
      (i.sections.zipIdx.all (fun e => e.1 == 0 || u.inTaskSpace p (g (4 + e.2)) e.1)) = true → u.kittyOk p sl = true →
      let v := u.wrF (Reg.SLOT_CTRL sl) Fld.SLOT_CTRL_STATE 1;
      exec .slotLoad s = .next { v with talon := { v.talon with loads := mapSet sl i.id v.talon.loads } }) ∧
    (let sl := bitsAt (g 0) 12 3;
      let roots := ((u.nodesOf p).filter (fun e => e.2.slot == sl && e.2.parent.isNone)).map (fun e => e.1);
      op = 6 → u.slotReady sl = true → u.slotOwner sl = p → u.heldOf p sl = [] → ((u.handsOf p sl).any (fun h => h.phase != .parking)) = false →
      exec .slotUnload s =
        .next ((((u.overList roots (fun i t => t.evictSubtree p i)).wrF (Reg.SLOT_CTRL sl) Fld.SLOT_CTRL_STATE 0).putSlot sl
          .empty).endTalon talonOk)) ∧
    (∀ i x, let c : State := { u with talon := { u.talon with command := u.talon.command.map (fun (c : TalonCommand) => { c with word4 := some i.bytes }) } }
      let r := (c.ladder cws).countReads i.fragments;
      let a := bitsAt (g 2) 0 48;
      op = 7 → u.parkedAt (g 1) = some i → i.part = p → i.complete = true → i.bytes ≤ g 4 → r.parkedAt (g 1) = some x → x.lost = false →
      (bitOf (g 2) 63 = true → exec (.parkExport cws) s = .next ((r.hostWrite 0 a (exportBytes i)).endTalon talonOk)) ∧
      (bitOf (g 2) 63 = false → ((List.range 4).any (fun q => c.inTaskSpace q a i.bytes)) = true → (r.hbmWrite 3 a (exportBytes i)).1 = none →
        exec (.parkExport cws) s = .next ((r.hbmWrite 3 a (exportBytes i)).2.endTalon talonOk))) ∧
    (∀ i, op = 9 → u.parkedAt (g 1) = some i → i.part = p → i.complete = true →
      exec .parkDelete s = .next ((u.dropParked (g 1)).endTalon talonOk)) ∧
    (op = 10 → ∃ es, es = u.talon.extents.filter (fun e => e.part == p && e.kind == .prefixes && (g 1 == 0 || e.imageTag == g 1)) ∧
      exec .prefixDrop s = .next ((u.overList es (fun e t =>
        (t.overList (((t.nodesOf p).filter (fun x => x.2.extent == e.name)).map (fun x => x.1)) (fun i u => u.evictSubtree p i)).dropExtent
          e.name)).endTalon talonOk)) ∧
    (op = 11 → exec .shutdown s = .next (u.shutdownTalon p g))) ∧
  ((s.upset us).talonHead = (some w, t) →
    (∀ i b frags v, let r := u.talonSource (g 2) (g 4)
      let units := (List.range (g 4 / flashPage)).map (· + g 3 / flashPage);
      op = 2 → u.imageAt (g 1) = some i → i.part = p → i.state = .open → g 3 % flashPage = 0 → g 4 % flashPage = 0 → g 4 ≠ 0 →
      g 3 + g 4 ≤ imageBytes i → r.1 = .ok b → r.2.useTalon.place .weights (g 3 / flashPage) (g 4 / flashPage) = some (frags, v) →
      exec (.imageWrite us) s =
        .next ((((v.chargeWeights (g 4 / flashPage)).feedPath 2 0 b).updImage (g 1) (fun j => { j with
          written := units.foldl (fun l u => setInsert u l) j.written, body := putBody j.body (g 3) b
          fragments := dropPages (g 3 / flashPage) ((g 3 + g 4) / flashPage) j.fragments ++ frags })).endTalon talonOk)) ∧
    (∀ b frags v, let r := u.talonSource (g 2) (g 4)
      let q := r.2.feedPath 2 0 b;
      let handle := leAt b 8 8;
      op = 8 → flashPage + 512 ≤ g 4 → r.1 = .ok b → bitsAt (leAt b 0 8) 0 16 = 0xD8E2 → bitsAt (leAt b 0 8) 16 8 = 1 →
      crc32cTagged handle (b.take 64 ++ leBytes 8 0) = leAt b 64 8 → leAt b 56 8 + flashPage = g 4 → q.parkedAt handle = none →
      q.parkRoom p (g 4) = true → let m := q.importSegments ((b.drop flashPage).take 512);
      (∃ segs, m.1 = .ok segs) → m.2.useTalon.place .prefixZone 0 (pagesFor (g 4)) = some (frags, v) →
      ∃ img : ParkedImage, img.handle = handle ∧ img.part = p ∧ img.complete = true ∧ img.bytes = g 4 ∧ img.fragments = frags ∧
        exec (.parkImport us) s =
          .next (((({ v with talon := { v.talon with parked := v.talon.parked ++ [img] } }).charge p (pagesFor (g 4))).showShare p).endTalon
            talonOk)))

/-- R236 to R240, R243, R248: completions and failures of Talon's own work. A load whose image can be read pours its sections and makes its slot READY; a command's
status, and then its message, is written; a failed program is written again and retires its block, as a failed erase does (R238); a failed channel is
taken out (R239), and one second of wear credit is earned up to its cap (R240). Garbage collection relocates the closed band with the fewest valid
pages while free bands are short, static wear levelling moves the least worn closed band onto the most worn free one, and aged and disturbed
bands are rewritten (R236); each then accounts for the codewords that it read (R237). -/
def Obligations.TalonEventsComplete : Prop := ∀ (s : State),
  (∀ slot cws id c i, s.talonUp = true → s.ready = true → mapGet slot s.talon.loads = some id → s.talon.command = some c →
    (s.ladder cws).imageAt id = some i → i.state ≠ .damaged →
    let q := ((s.ladder cws).countReads i.fragments).pourImage c.words i;
    q.1 = none →
    exec (.slotLoadComplete slot cws) s =
      .next ((q.2.putSlot slot { SlotServing.empty with imageId := i.id, imageTag := i.tag }).endLoad slot talonOk)) ∧
  (∀ us c st, let t := s.upset us
    let u : State := { t with talon := { t.talon with command := none } };
    let cfg := Reg.TLN_CMD_CFG;
    let a := ringBase (t.rd64 Reg.TLN_CMD_BASE_LO) 64 (t.rdF cfg Fld.TLN_CMD_CFG_SIZE_LOG2) + 64 * c.ringIndex;
    let v := match c.word4 with
      | some x => (u.ringWrite (t.rdF cfg Fld.TLN_CMD_CFG_SPACE) 0 (a + 32) (leBytes 8 x)).2
      | none => u;
    let w := v.ringWrite (t.rdF cfg Fld.TLN_CMD_CFG_SPACE) 0 a (leBytes 8 (putBits (putBits (c.words.getD 0 0) 16 16 st) 32 1 1));
    t.talon.command = some c → c.status = some st → t.rdB cfg Fld.TLN_CMD_CFG_ENABLE = true → w.1 = true →
    exec (.talonCmdComplete us) s =
      .next (if w.2.rdB cfg Fld.TLN_CMD_CFG_IRQ_EN then w.2.msix 0 (w.2.rdF cfg Fld.TLN_CMD_CFG_VECTOR) else w.2)) ∧
  (∀ die band page cws, s.talonUp = true → die < 32 → band < 5397 →
    exec (.flashProgramFail die ⟨band, page, cws⟩) s = .next (((s.ladder cws).reprogram band page).retireBlock die band)) ∧
  (∀ die band cws, s.talonUp = true → die < 32 → band < 5397 →
    exec (.flashEraseFail die ⟨band, cws⟩) s = .next ((s.ladder cws).retireBlock die band)) ∧
  (∀ channel, s.talonUp = true → channel < 16 → bitOf (s.rdF Reg.TLN_STATE Fld.TLN_STATE_FAILED_TC) channel = false →
    exec (.talonChannelFail channel) s = .next (s.failChannel channel)) ∧
  (s.talonUp = true →
    let a := s.commitRS (inRange 0x601000 0x1000);
    let b := a.wr64 Reg.TLN_POWERED_S_LO (a.poweredS + 1);
    let c := { b with talon := { b.talon with secondsToday := b.talon.secondsToday + 1 } };
    exec .wearCreditTick s = .next (c.overList (List.range 4) (fun p t =>
      let g := t.creditGrowth p;
      let credit := min (mapGetD 0 p t.talon.credit + (g : Int)) ((g * 3600 * t.rdF Reg.TLN_CFG Fld.TLN_CFG_BURST_HOURS : Nat) : Int);
      if t.rdF (Reg.TLN_SHARE p) Fld.TLN_SHARE_SHARE_GIB = 0 then t
      else ({ t with talon := { t.talon with credit := mapSet p credit t.talon.credit } } : State).wrN (Reg.TLN_CREDIT p)
        (ofSigned 32 (credit / 1048576))))) ∧
  (s.talonUp = true →
  (∀ weights b cws, (s.freeBands (zoneOf weights)).length < (if weights then 8 else 16) →
    leastBand (fun b => s.validPages b.index) (s.closedBands (zoneOf weights)) = some b →
    exec (.garbageCollect ⟨weights, cws⟩) s = .next ((s.ladder cws).relocateBand b.index)) ∧
  (∀ weights b f cws, let z := zoneOf weights
    let all := ((List.range (zoneCount z)).map (fun i => s.bandAt (zoneFirst z + i))).filter (fun b => !b.retired);
    let hi := all.foldl (fun m b => b.blockErases.foldl max m) 0;
    let lo := all.foldl (fun m b => b.blockErases.foldl min m) hi;
    (if weights then 150 else 1500) < hi - lo → leastBand Band.wear (s.closedBands z) = some b →
    leastBand (fun b => 32 * hi - b.wear) (s.freeBands z) = some f →
    let t := s.ladder cws
    exec (.staticWearLevel ⟨weights, cws⟩) s = .next (((t.setOpen z (some f.index)).relocateBand b.index).setOpen z (t.openBand z))) ∧
  (∀ band cws, let b := s.bandAt band
    b.programmed ≠ 0 → b.retired = false →
    (b.refreshDue = true ∨ (∃ e ∈ b.programmedAt, e.2 + (match bandZone band with
        | .weights => s.rdF Reg.TLN_CFG2 Fld.TLN_CFG2_WT_REFRESH_DAYS
        | _ => s.rdF Reg.TLN_CFG2 Fld.TLN_CFG2_PFX_REFRESH_DAYS) * 86400 ≤ s.poweredS) →
      exec (.retentionAgeRefresh ⟨band, cws⟩) s = .next ((s.ladder cws).relocateBand band)) ∧
    ((b.reads.any (fun e => decide ((if bandZone band = .weights then 60000 else 600000) ≤ e.2))) = true →
      exec (.readDisturbRelocate ⟨band, cws⟩) s = .next ((s.ladder cws).relocateBand band))))

/-! ### Vision and media -/

/-- R251 to R255, R260 to R265, R279: an edge engine with power takes the next job of its OP, which joins those in progress, and their rows go on; the oldest job that has run ends with its status; a failed engine is taken out. -/
def Obligations.EdgeCommandsComplete : Prop := ∀ (s : State) (d p op : Nat) (us : List Upset) (j : QueuedJob) (u : State),
  let t := s.upset us;
  (t.dieOwner d = some p → t.partWorks p = true → t.edgeFailed d = false → (t.progressEdge d).nextEdge d p = (some j, u) →
    bitsAt (j.words.getD 0 0) 0 4 = op → u.engineUp (.edge d) = true →
    let out := (((u.takeEdge d j).commitRS (inRange (0x701100 + 0x40 * d) 0x40)).runEdge d p j).progressEdge d;
    (op = 1 → exec (.edgeIngest d us) s = .next out) ∧ (op = 2 → exec (.edgeConv d us) s = .next out) ∧
    (op = 3 → exec (.edgeTconv d us) s = .next out)) ∧
  (∀ r st, let v := t.progressEdge d
    t.dieOwner d = some p → t.partWorks p = true → (v.edgeAt d).running = some r → r.status = some st →
    exec (.edgeJobComplete d us) s =
      .next ((v.putEdge d { v.edgeAt d with
        running := (v.edgeAt d).chained.head?, chained := (v.edgeAt d).chained.drop 1, idleSince := v.now }).endEdge d p r.source st)) ∧
  (∀ r, d < 4 → s.edgeFailed d = false →
    let a := ((s.wrN (Reg.EDGE_STATE d) 1).putBit Reg.DECK_DIES (12 + d) false).post St.VIS_EDGE_FAILED;
    let b := { a with power := { a.power with enginesUp := a.power.enginesUp.filter (fun x => x != Domain.edge d) } };
    b.dieOwner d = some p → (b.edgeAt d).running = some r → (b.edgeAt d).chained = [] →
    exec (.edgeEngineFail d) s =
      .next (((b.putEdge d { b.edgeAt d with running := none, chained := [] }).endEdge d p r.source St.VIS_EDGE_FAILED).endEdgeJobs d p St.VIS_EDGE_FAILED
        (1024 + (b.edgeAt d).queue.length)))

/-- R268 to R271, R279: a reckoner with power takes the next partition's job of its OP and computes it; the running job ends and writes its result; a failed reckoner is
taken out. -/
def Obligations.ReckonerCommandsComplete : Prop := ∀ (s : State) (r op p : Nat) (us : List Upset) (j : QueuedJob) (u : State),
  let t := s.upset us;
  (t.reckonerOk r = true → (t.reckAt r).running = none → State.nextReck t.rotation t = (some (p, j), u) → bitsAt (j.words.getD 0 0) 0 4 = op →
    u.engineUp (.reckoner r) = true →
    let v := u.takeReck p j;
    let x := ({ v with vision := { v.vision with served := p } } : State).runReck p j;
    let out := x.2.putReck r { x.2.reckAt r with running := some x.1 };
    (op = 1 → exec (.reckonerDetect r us) s = .next out) ∧ (op = 2 → exec (.reckonerArgmax r us) s = .next out)) ∧
  (∀ x, t.reckonerOk r = true → t.ready = true → t.partWorks x.part = true → (t.reckAt r).running = some x →
    exec (.reckonerJobComplete r us) s = .next ((t.putReck r ⟨none, t.now⟩).endReck r x)) ∧
  (s.reckonerOk r = true →
    let a := ((s.wrF Reg.VIS_RECKONER (if r = 0 then Fld.VIS_RECKONER_RK0_OK else Fld.VIS_RECKONER_RK1_OK) 0).putBit Reg.DECK_DIES (16 + r)
      false).post St.VIS_RECKONER_FAILED;
    let b := ({ a with power := { a.power with enginesUp := a.power.enginesUp.filter (fun x => x != Domain.reckoner r) } }).putReck r ⟨none, a.now⟩;
    (a.reckAt r).running = none → (b.reckonerOk 0 || b.reckonerOk 1) = true → exec (.reckonerFail r) s = .next b)

/-- R273, R274, R276, R278: the host posts, fails and withdraws tags; a pipeline's frame starts its stages, and a frame that arrived with DEPTH frames in flight is skipped. -/
def Obligations.TagCommandsComplete : Prop := ∀ (s : State) (fn p tag pipe : Nat) (us : List Upset),
  (s.hostReaches = true → s.mayReach fn p = true →
    let addr := s.rd64 (Reg.TAG_POST_ADDR_LO p) % 2 ^ 48;
    let count := s.rdF (Reg.TAG_POST_COUNT p) Fld.TAG_POST_COUNT_COUNT;
    let kind := s.rdB (Reg.TAG_POST_COUNT p) Fld.TAG_POST_COUNT_KIND;
    (addr % 16 = 0 → s.inTaskSpace p addr (tagBytes kind count) = true →
      exec (.tagPostPresent fn p tag) s = .next (s.writeTag p tag addr kind 1 count 0)) ∧
    exec (.tagPostFailed fn p tag) s = .next ((s.post St.VIS_HOST_FAILED).postTagFailed p tag St.VIS_HOST_FAILED) ∧
    exec (.tagReturnAbsent fn p tag) s = .next (s.writeTag p tag 0 false 0 0 0)) ∧
  (∀ f, let t := s.upset us
    t.partRuns p = true →
    t.vision.frames.find? (fun f => f.part == p && f.pipe == pipe && (f.phase == .arriving || f.phase == .skipped)
      && (decide (0 < f.rows) || f.done)) = some f →
    (f.phase ≠ .skipped → exec (.pipelineFrameStart p pipe us) s = .next (t.beginFrame f)) ∧
    (f.phase = .skipped →
      let u := t.putFrames (t.vision.frames.erase f);
      exec (.pipelineFrameStart p pipe us) s =
        .next (((u.post St.VIS_FRAME_SKIPPED).postTagFailed p (u.frameTag f) St.VIS_FRAME_SKIPPED).count (Reg.FRAMES_SKIPPED p pipe))))

/-- R286, R287, R290, R295, R302, R307 to R309: the media commands. The head command of a ring goes to its context's queue; the head of that queue opens a context, makes an access unit or a
picture ready, changes the rate or starts a close; RELEASE and OUT_CONSUMED free slots and output. -/
def Obligations.MediaCommandsComplete : Prop := ∀ (s : State) (m c : Nat) (x : MediaCmd) (rest : List MediaCmd),
  (∀ (p : Nat) (us : List Upset) (b : List Byte), let t := s.upset us
    let cfg := Reg.MSQ_CFG m;
    let head := t.rdN (Reg.MSQ_HEAD m);
    let log2 := t.rdF cfg Fld.MSQ_CFG_SIZE_LOG2;
    let r := t.ringRead (t.rdF cfg Fld.MSQ_CFG_SPACE) (p + 1) (ringBase (t.rd64 (Reg.MSQ_BASE_LO m)) 64 log2 + 64 * head) 64;
    let y : MediaCmd := ⟨wordsOf8 b, r.2.now⟩;
    let v := r.2.wrN (Reg.MSQ_HEAD m) ((head + 1) % 2 ^ log2);
    t.pipeOwner m = some p → t.pipeWorks m = true → t.partRuns p = true → t.rdB cfg Fld.MSQ_CFG_ENABLE = true →
    head ≠ t.rdN (Reg.MSQ_TAIL m) → t.hostReadable (t.rdF cfg Fld.MSQ_CFG_SPACE) (p + 1) = true → t.engineUp (.pipe m) = true →
    r.1 = some b → (r.2.mediaQueue m y.ctx).length < 32 → v.commandOk p y = true →
    exec (.mediaCmdFetch m us) s = .next (v.putQueue m y.ctx (v.mediaQueue m y.ctx ++ [y]))) ∧
  (s.pipeWorks m = true → s.mediaQueue m c = x :: rest →
    let t := s.putQueue m c rest;
    (s.mediaCtx m c = none → t.mediaCtx m c = none → t.rd64 (Reg.CTX_BASE_LO m) % 2 ^ 48 ≠ 0 →
      (x.op = 1 → exec (.openDec m c) s = .next (t.openCtx m c x.tag (.dec (openedDec x)))) ∧
      (x.op = 2 → exec (.openEnc m c) s = .next (t.openCtx m c x.tag (.enc (openedEnc x))))) ∧
    (∀ k, s.mediaCtx m c = some k → k.closing = none →
      (x.op = 3 → exec (.close m c) s = .next (s.startClose m c x [] rest k)) ∧
      (∀ d, x.op = 4 → k.kind = .dec d → d.unit = none →
        exec (.decode m c) s = .next (s.updDec m c (fun d => { d with unit := some x }))) ∧
      (∀ e, x.op = 5 → k.kind = .enc e → e.ready = none → s.encodeSourceOk ((s.pipeOwner m).getD 0) e x = true →
        exec (.encode m c) s = .next (s.updEnc m c (fun e => { e with ready := some x }))) ∧
      (∀ e, x.op = 7 → t.encCtx m c = some e → rateFits e.codec (rateCfg (x.word 5) (x.word 6)) = true →
        exec (.rcUpdate m c) s =
          .next ((t.updEnc m c (fun e => { e with rate := rateCfg (x.word 5) (x.word 6) })).mediaAck m c 0x8000 x.tag))) ∧
    (∀ d, x.op = 6 → t.decCtx m c = some d → x.word 1 < 2 ^ d.slots.length →
      exec (.release m c) s = .next (((t.overList ((List.range d.slots.length).filter (bitOf (x.word 1))) (fun i t => t.unhold m c i 2)).mediaAck
        m c 0x8000 x.tag).finishClose m c)) ∧
    (∀ e, x.op = 8 → t.encCtx m c = some e → x.word 1 < e.outSize →
      let u := (t.updEnc m c (fun z => { z with
        outHead := x.word 1, outUsed := z.outUsed - (x.word 1 + e.outSize - e.outHead) % e.outSize })).mediaAck m c 0x8000 x.tag;
      (u.mediaPipe m).enc = none → exec (.outConsumed m c) s = .next u))

/-- R282, R291, R295 to R309: pictures of a media pipe. A ready unit or picture is taken at a picture boundary; rows and slices are decoded, coded and written; a picture ends with its entry; a
pipe without contexts loses power; a failed pipe ends its contexts. -/
def Obligations.PictureCommandsComplete : Prop := ∀ (s : State) (m : Nat) (us : List Upset) (saved : List Nat),
  let t := s.upset us;
  (∀ (p c i : Nat) (part : UnitPart) (last : Bool) (sets : List ParamSet) (d : DecCtx) (u : MediaCmd) (k : MediaCtx),
    let v := t.noteSlotWaits m (t.readyUnits m);
    t.pipeOwner m = some p → t.pipeWorks m = true → t.pipeHot m = false → t.engineUp (.pipe m) = true → (t.mediaPipe m).dec = none →
    (t.mediaPipe m).held = [] → t.mcqFull m = false →
    oldestOf (fun e => e.2.fetchTs) ((t.readyUnits m).filter (fun e => e.2.1.freeSlot.isSome)) = some (c, d, u) →
    v.mediaCtx m c = some k → d.freeSlot = some i → (bitOf (u.word 1) 63 = true → v.hostReadable 1 (p + 1) = true) →
    exec (.pictureDecodeStart m ⟨part, sets⟩ last saved us) s =
      .next ((v.takeUnit m c u (t.mediaPipe m).decLoaded saved).startPart m p c k d u i part last sets)) ∧
  (∀ (row : BlockRow) (r : DecRun) (d : DecCtx), (t.mediaPipe m).dec = some r → t.decCtx m r.ctx = some d → t.pipeWorks m = true →
    exec (.blockRowDecoded m row us) s = .next (t.decodeRow m row d r)) ∧
  (∀ (r : DecRun) (d : DecCtx) (k : MediaCtx), (t.mediaPipe m).dec = some r → t.mediaCtx m r.ctx = some k → t.decCtx m r.ctx = some d →
    t.pipeWorks m = true →
    exec (.pictureDecodeComplete m us) s = .next ((t.concealRest m d r).2.endPicture m k d (t.concealRest m d r).1)) ∧
  (∀ (c : Nat) (e : EncCtx) (u : MediaCmd), s.pipeWorks m = true → s.pipeHot m = false → s.engineUp (.pipe m) = true →
    (s.mediaPipe m).enc = none → (s.mediaPipe m).held = [] → s.mcqFull m = false →
    oldestOf (fun e => e.2.fetchTs) (s.readyPictures m) = some (c, e, u) →
    exec (.pictureEncodeStart m saved) s = .next (s.startEncode m c e u (s.mediaPipe m).encLoaded saved)) ∧
  (∀ (row : CodedRow) (r : EncRun) (e : EncCtx), (t.mediaPipe m).enc = some r → t.pipeWorks m = true → r.row < r.rows → r.waiting = none →
    let x := if r.row = 0 then (r, t) else t.rowCoded m r row;
    x.2.encCtx m r.ctx = some e → exec (.encodeRowStart m row us) s = .next (x.2.startRow m e x.1 row.areas)) ∧
  (∀ (bytes : List Nat) (r : EncRun) (e : EncCtx), let b := e.sliceBytes r (bytes.map (BitVec.ofNat 8))
    (s.mediaPipe m).enc = some r → s.encCtx m r.ctx = some e → s.pipeWorks m = true →
    r.waiting = none → r.sliceRow < r.rows → sliceEnd e r < r.row → b.length ≤ min 0x400000 (e.outSize / 2) →
    exec (.sliceWritten m bytes) s = .next (s.putSlice m r b)) ∧
  (∀ (row : CodedRow) (recon : List (Nat × List Nat)) (r : EncRun) (e : EncCtx), (s.mediaPipe m).enc = some r → s.encCtx m r.ctx = some e →
    s.pipeWorks m = true → r.row = r.rows → r.sliceRow = r.rows → r.waiting = none →
    exec (.pictureEncodeComplete m row recon) s =
      .next (((s.rowCoded m r row).2.putRecon e recon).endEncode m e (s.rowCoded m r row).1)) ∧
  (s.engineUp (.pipe m) = true → (s.mediaPipe m).ctxs = [] → (s.mediaPipe m).queues = [] → (s.mediaPipe m).dec = none →
    (s.mediaPipe m).enc = none → (s.mediaPipe m).idleSince + s.rdN (Reg.MED_PIPE_CFG m) % 2 ^ 16 * 1000000 ≤ s.now →
    exec (.pipePowerDown m) s =
      .next (({ s with power := { s.power with enginesUp := s.power.enginesUp.filter (fun d => d != Domain.pipe m) } }).wrF (Reg.PIPE_INFO m)
        Fld.PIPE_INFO_POWERED 0)) ∧
  (m < s.fuses.pipeCount → s.rdB (Reg.PIPE_INFO m) Fld.PIPE_INFO_FAILED = false →
    let a := ((s.endPipe m St.MED_PIPE_FAILED).ledgerAdd (0x7000 + m) 0).postAt (0x7000 + m) St.MED_PIPE_FAILED;
    let b := { a with power := { a.power with enginesUp := a.power.enginesUp.filter (fun d => d != Domain.pipe m) } };
    exec (.pipeFail m) s =
      .next (((b.wrF (Reg.PIPE_INFO m) Fld.PIPE_INFO_FAILED 1).wrF (Reg.PIPE_INFO m) Fld.PIPE_INFO_POWERED 0).putBit Reg.DECK_LINKS (16 + m)
        false))

/-! ### Links and the host's link -/

/-- R32, R327 to R330, R345, R346: a working link retrains or goes down; a received flit in order is acknowledged and delivered; acknowledgments free and replay flits. -/
def Obligations.LinkCommandsComplete : Prop := ∀ (s : State) (link : Nat), link < 16 →
  (∀ lockLost, s.linkState link = 3 → s.mustRetrain link lockLost = true →
    let rate := s.rdF (Reg.LINK_STATE link) Fld.LINK_STATE_RATE;
    let width := s.rdF (Reg.LINK_STATE link) Fld.LINK_STATE_WIDTH;
    let lanes := s.rdF (Reg.LINK_STATE link) Fld.LINK_STATE_LANES;
    let t := (((s.count (Reg.LINK_RETRAINS link)).ledgerAdd (0x5000 + link) 2).wrF (Reg.LINK_STATE link) Fld.LINK_STATE_STATE 4).moveFlits link;
    exec (.linkRetrain link ⟨lockLost, .begins⟩) s = .next t ∧
    exec (.linkRetrain link ⟨lockLost, .held⟩) s = .next (t.linkTrained link rate width lanes false) ∧
    (∀ as n r w l, firstResult rate width (3 - (t.linkRun link).tries) as = (n, some (r, w, l)) →
      exec (.linkRetrain link ⟨lockLost, (.attempts as)⟩) s =
        .next (((t.count (Reg.LINK_ATTEMPTS link) n).ledgerAdd (0x5000 + link) 3 n).linkTrained link r w l (decide (w < width ∨ r < rate))))) ∧
  ((s.linkOwner link).isSome = true → 1 ≤ s.linkState link → s.linkState link ≤ 4 →
    exec (.linkDomainFailure link) s = .next (s.linkDown link 4)) ∧
  (∀ p lseq f, s.linkUp link = true → s.linkOwner link = some p → lseq = (s.linkRun link).rxSeq → 1 ≤ f.type → f.type ≤ 3 → s.mustWait p f = false →
    let t := { s with ledger := { s.ledger with codewords := mapSet link (mapGetD 0 link s.ledger.codewords + 1) s.ledger.codewords } };
    let u := (t.putLink link { s.linkRun link with rxSeq := ((s.linkRun link).rxSeq + 1) % 2 ^ 16 }).linkReply 4 link p lseq;
    exec (.flitReceive link lseq .clean f) s = .next ((if f.type = 1 then u else u.feedPath 5 link f.payload).checkFlit p link f)) ∧
  (∀ seq, s.linkUp link = true →
    exec (.linkNakReceive link seq) s = .next (s.replayFrom link seq) ∧
    exec (.linkAckReceive link seq) s = .next (match (s.linkAcked link seq).linkOwner link with
      | some p => (s.linkAcked link seq).submitReady p
      | none => s.linkAcked link seq))

/-- R311 to R313, R318 to R320, R322 to R324: the host's link trains and is lost, a function is reset, vectors are unmasked, bus mastering is switched, reads fail and a poisoned write arrives. -/
def Obligations.PcieCommandsComplete : Prop := ∀ (s : State),
  (∀ vf, 1 ≤ vf → vf ≤ 4 → s.pcieUp = true → exec (.flrVf vf) s = .next (s.flr vf).flrDone) ∧
  (s.pcieUp = true → exec .flrPf0 s = .next (s.flr 0).flrDone) ∧
  (∀ speed width, s.lanesPowered = true → s.pcieUp = false → exec (.pcieLinkUp speed width) s = .next (s.trainPcie speed width)) ∧
  (exec .pcieLinkLoss s = .next s.losePcie) ∧
  (∀ fn v, fn < 5 → v < 256 → s.pcieUp = true → (fn = 0 ∨ s.ready = true ∧ s.fnExists fn = true) →
    let w := s.msixWord fn v 3;
    exec (.msixUnmask fn v) s =
      .next (({ s with pcie := { s.pcie with msix := mapSet (4096 * fn + 16 * v + 12) (w - w % 2) s.pcie.msix } }).releaseVector fn v)) ∧
  (∀ fn, fn < 5 → s.pcieUp = true →
    exec (.busMasterEnableSet fn) s =
      .next ((({ s with pcie := { s.pcie with busMaster := setInsert fn s.pcie.busMaster } }).releaseWrites fn).overList (List.range 256)
        (fun v t => t.releaseVector fn v))) ∧
  (∀ fn, exec (.busMasterEnableClear fn) s = .next { s with pcie := { s.pcie with busMaster := setErase fn s.pcie.busMaster } }) ∧
  (∀ r, exec (.hostReadError r) s = .next (s.failHostRead r) ∧ exec (.hostReadTimeout r) s = .next (s.failHostRead r)) ∧
  (s.pcieUp = true → exec .poisonedWriteRx s = .next (((s.count (Reg.PCI_COUNTER 2)).aerError).post St.PCI_POISONED_WRITE)) ∧
  (∀ die, s.fuses.x2 = false → s.ready = true → bitOf (s.rdN Reg.DECK_TALON) 16 = true → bitOf (s.rdN Reg.DECK_DIES) 1 = true → (die = 2 ∨ die = 3) →
    exec (.transitDieFabricFailure die) s = .next (s.postFatal St.MGT_TRANSIT_FAILED))

/-! ### Power -/

/-- R350 to R356, R363: domains power up, time out, fall idle and lose power; the module rests; the trim clock is set. -/
def Obligations.DomainCommandsComplete : Prop := ∀ (s : State),
  (∀ d, s.power.waking.contains d = true → exec (.domainPowerUpComplete d) s = .next (s.domainUp d)) ∧
  (∀ d, s.power.waking.contains d = true → s.wakeOver d = true →
    let t := ({ s with power := { s.power with waking := s.power.waking.filter (fun x => x != d) } }).post St.PWR_POWER_UP_FAILED;
    exec (.powerGoodTimeout d) s = .next (match d with
      | .core n => t.failOnCore n St.DEAL_CORE_FAULT
      | .cluster c => t.overList ((List.range 16).map (· + 16 * c)) (fun n t => t.failOnCore n St.DEAL_CORE_FAULT)
      | .pipe m => t.pipeFail m
      | .edge e => t.edgeFail e
      | .reckoner r => t.reckFail r
      | .talonChannel c => if t.talonUp then t.failChannel c else t)) ∧
  (∀ n since, s.corePowered n = true → s.sleepMode = true → (s.coreAt n).task = none → s.coreReserved n = false →
    mapGet n s.power.idleSince = some since → since + s.rdF Reg.PWR_IDLE Fld.PWR_IDLE_CORE_IDLE_US * 1000 ≤ s.now →
    ((List.range 16).any (fun k => (s.coreDown n).corePowered (16 * coreCluster n + k))) = true →
    exec (.coreIdleTimeout n) s = .next (s.coreDown n)) ∧
  (∀ c since, s.clusterPowered c = true → s.sleepMode = true →
    ((List.range 16).any (fun k => s.corePowered (16 * c + k) || s.coreWanted (16 * c + k))) = false →
    mapGet (2048 + c) s.power.idleSince = some since → since + s.rdF Reg.PWR_IDLE Fld.PWR_IDLE_CLUSTER_IDLE_US * 1000 ≤ s.now →
    exec (.clusterIdleTimeout c) s = .next (s.clusterDown c)) ∧
  (∀ i, s.powerOn = true → s.fittedStacks.contains i = true →
    mapGetD 0 i s.memory.lastAccess + s.rdF Reg.PWR_IDLE2 Fld.PWR_IDLE2_HBM_IDLE_US * 1000 ≤ s.now →
    exec (.hbmIdleTimeout i) s = .next { s with memory := { s.memory with selfRefresh := setInsert i s.memory.selfRefresh } }) ∧
  (∀ e, (s.edgeAt e).running = none → (s.edgeAt e).queue = [] → (s.edgeAt e).idleSince + 100000 ≤ s.now →
    exec (.engineIdleTimeout (.edge e)) s =
      .next { s with power := { s.power with enginesUp := s.power.enginesUp.filter (fun x => x != Domain.edge e) } }) ∧
  (∀ r, (s.reckAt r).running = none → (s.reckAt r).idleSince + 100000 ≤ s.now →
    exec (.engineIdleTimeout (.reckoner r)) s =
      .next { s with power := { s.power with enginesUp := s.power.enginesUp.filter (fun x => x != Domain.reckoner r) } }) ∧
  (∀ t, s.talon.command = none → s.talon.transfers = [] → s.talon.loads = [] → mapGetD 0 8192 s.power.idleSince + 1000000 ≤ s.now →
    exec (.talonChannelIdleTimeout t) s =
      .next { s with power := { s.power with enginesUp := s.power.enginesUp.filter (fun x => x != Domain.talonChannel t) } }) ∧
  (∀ since, s.power.restingSince = some since → s.resting = true → s.rdF Reg.PWR_STATE Fld.PWR_STATE_STATE = 2 →
    since + s.rdF Reg.PWR_IDLE2 Fld.PWR_IDLE2_DORMANT_IDLE_MS * 1000000 ≤ s.now →
    exec .dormantEntry s = .next ((s.wrF Reg.PWR_STATE Fld.PWR_STATE_STATE 3).count (Reg.PWR_COUNTER 7))) ∧
  (s.mgmtRuns = true → exec .rcTrim s = .next { s with power := { s.power with trimmedAt := s.now / 1000000000 } })

/-- R357 to R371: the cap controller and the thermal controllers step the clocks; a rail or a temperature trips the module; CLAMP_N is driven; a measurement and a window are taken; the host's cap is
written. -/
def Obligations.PowerControlComplete : Prop := ∀ (s : State),
  (let mhz := s.rdF Reg.PWR_STATE Fld.PWR_STATE_CAP_MHZ;
    s.power.started = true → s.power.capChangeAt + 50000 ≤ s.now →
    (s.power.input.take 5).length * s.controllerCap < (s.power.input.take 5).sum * 100 →
    exec .capControllerStep s = .next (s.wrF Reg.PWR_STATE Fld.PWR_STATE_CAP_MHZ (min mhz (max s.floorMhz (mhz - 100)))).stepClocks) ∧
  (∀ d, let off := Reg.PWR_DIE_CLK d
    let mhz := s.rdF off Fld.PWR_DIE_CLK_THERMAL_MHZ;
    let t := s.wrF off Fld.PWR_DIE_CLK_THERMAL_MHZ (max s.floorMhz (mhz - 100));
    d < 4 → s.power.started = true → s.dieHot d = true → s.floorMhz < mhz → s.power.throttledDies.contains d = true →
    exec (.thermalThrottleStep d) s = .next ({ t with power := { t.power with
      throttledDies := setInsert d t.power.throttledDies, coolSince := mapDel d t.power.coolSince } }).stepClocks) ∧
  (∀ d since, let off := Reg.PWR_DIE_CLK d
    let mhz := s.rdF off Fld.PWR_DIE_CLK_THERMAL_MHZ;
    let new := min s.fuses.sustainedMhz (mhz + 100);
    let t := s.wrF off Fld.PWR_DIE_CLK_THERMAL_MHZ new;
    d < 4 → mapGet d s.power.coolSince = some since → since + 250000 ≤ s.now → mhz < s.fuses.sustainedMhz →
    exec (.thermalRiseStep d) s = .next ({ t with power := { t.power with
      coolSince := mapSet d t.now t.power.coolSince
      throttledDies := if new = t.fuses.sustainedMhz then setErase d t.power.throttledDies else t.power.throttledDies } }).stepClocks.showThrottle) ∧
  (∀ n v t, s.sensorFitted n = true → s.mgmtRuns = true → (s.storeSensor n v).power.standby = false →
    tripLevel n = some t →
    ((16 * t : Int) ≤ v → exec (.sensorSample n v) s = .next ((s.storeSensor n v).trip St.PWR_THERMAL_TRIP 2)) ∧
    (v < 16 * t → n < 32 → (s.storeSensor n v).power.started = true →
      exec (.sensorSample n v) s = .next ((s.storeSensor n v).dieSensorActs n v))) ∧
  (s.power.standby = false → s.side.powerGood = true → exec .railFault s = .next ((s.ledgerAdd 0x9000 2).trip St.PWR_RAIL_FAULT 3)) ∧
  (s.side.clampAsserted = false → s.power.started = true → s.power.standby = false →
    exec .clampNAssert s = .next ({ s with side := { s.side with clampAsserted := true } }).applyClamp) ∧
  (let t := { s with side := { s.side with clampAsserted := false } };
    (t.clampInForce = true → exec .clampNRelease s = .next { t with power := { t.power with clampReleased := true } }) ∧
    (t.clampInForce = false → exec .clampNRelease s = .next t)) ∧
  (∀ c g t l, s.dealer.graphs.find? (fun g => g.source == .ballast c) = some g → g.tasks = t :: l → t.phase = .loading →
    (t.cores.all s.corePowered) = true → s.ballastSince t + 8000 ≤ s.now →
    exec (.ballastTaskEnd c) s = .next ((s.overList t.cores (fun n u => u.freeCore n)).dropGraph g.uid)) ∧
  (∀ watts, let t := { s with power := { s.power with
      input := watts :: s.power.input.take 24, winSum := s.power.winSum + watts, winCount := s.power.winCount + 1
      winPeak := max s.power.winPeak watts, winClean := s.power.winClean && !s.capLag && !s.clampInForce } }
    s.power.started = true → s.power.anteNext = none → s.power.windowDone = true →
    exec (.measurementTick watts) s = .next ((t.evalCapLag.clampStep watts).requestBallast watts)) ∧
  (∀ energies, s.power.started = true →
    ∃ t : State, exec (.windowBoundary energies) s = .next t.recomputeBudgets ∧ t.power.winSum = 0 ∧ t.power.winCount = 0 ∧ t.power.winPeak = 0 ∧
      t.power.windowDone = true ∧ t.power.sharesNext = none ∧ t.power.ballastHeld = false) ∧
  (∀ value, s.hostReaches = true →
    exec (.hostCapWrite value) s = .next (s.writeReg false Reg.PWR_CAP value).capChange)

/-! ### Sideband messages, health, update and resets -/

/-- R369 to R373, R377, R401 to R403, R411, R430, R435, R476, R477: the power, health, reset and configuration messages at the front of the sideband
queue, when their fields are in range. Each is served by its rule and answered. -/
def Obligations.MessagesComplete : Prop := ∀ (s : State) (m : SidebandMsg) (rest : List SidebandMsg) (code : Nat),
  let t := s.taking rest;
  s.serves code m rest = true →
  (code = 0x01 →
    let v := clampTo 250 t.fuses.maxW (leAt m.body 0 2);
    let u := (t.wrF Reg.PWR_CAP Fld.PWR_CAP_RACK_CAP_W v).capChange;
    exec .setCap s = .next (u.answer m (if u.effCap = t.effCap then okPower else St.PWR_CAP_CHANGED) [])) ∧
  (code = 0x02 → leAt m.body 0 2 ≤ t.fuses.maxW → leAt m.body 2 1 ≤ 1 →
    exec .setAnte s =
      .next (({ t with power := { t.power with anteNext := some (leAt m.body 0 2 + leAt m.body 2 1 * 4096) } }).answer m okPower [])) ∧
  (code = 0x03 → ((List.range 4).map (fun p => leAt m.body p 1)).sum ≤ 100 →
    exec .setShares s = .next (({ t with power := { t.power with sharesNext := some (leAt m.body 0 4) } }).answer m okPower [])) ∧
  (code = 0x04 → 20 ≤ leAt m.body 0 1 → leAt m.body 0 1 ≤ 100 →
    let u := t.wrF Reg.PWR_CAP_EFF Fld.PWR_CAP_EFF_CLAMP_PCT (leAt m.body 0 1);
    exec .setClampLevel s =
      .next ((if u.clampInForce then (u.setDuty u.clampFraction).recomputeBudgets else u).answer m okPower [])) ∧
  (code = 0x05 → exec .standby s = .next ((if t.power.standby then t else (t.talonDown 1 0).enterStandby).answer m okPower [])) ∧
  (∀ boot, code = 0x06 → t.power.standby = true → t.canStart = true →
    exec (.resumePower boot []) s = .next (((t.answer m okPower []).bringUp boot).showdownRetry [])) ∧
  (code = 0x07 → exec .powerReport s = .next (t.answer m okPower (leBytes 2 (t.rdF Reg.PWR_MEAS Fld.PWR_MEAS_WINDOW_W) ++ leBytes 2 t.effCap
    ++ leBytes 2 t.effAnte ++ leBytes 2 (t.rdF Reg.PWR_STATE Fld.PWR_STATE_CAP_MHZ) ++ leBytes 2 (t.rdN Reg.PWR_STATE % 256)
    ++ leBytes 4 (t.rdN Reg.PWR_OVER_TOTAL)))) ∧
  (code = 0x20 →
    let w := t.rdN (Reg.HLT_FORECAST (t.rdF Reg.HLT_WORST Fld.HLT_WORST_ENTRY) 0);
    exec .healthSummary s = .next (t.answer m okHealth (leBytes 2 (t.rdN Reg.HLT_ALERT) ++ leBytes 2 (t.rdF Reg.HLT_WORST Fld.HLT_WORST_DAYS)
      ++ leBytes 2 (bitsAt w 0 16) ++ leBytes 2 (bitsAt w 16 8) ++ leBytes 2 (t.rdF Reg.TLN_EOL Fld.TLN_EOL_EOL_DAYS)))) ∧
  (code = 0x21 → exec .healthAck s = .next ((t.ackAlerts (leAt m.body 0 2)).answer m okHealth [])) ∧
  (∀ r, code = 0x22 → t.recordAt (leAt m.body 0 4) = some r → exec .ledgerRead s = .next (t.answer m okHealth (recordWords r))) ∧
  (code = 0x23 → leAt m.body 0 1 < 55 → exec .forecastRead s =
    .next (t.answer m okHealth ((List.range 4).flatMap (fun w => leBytes 4 (t.rdN (Reg.HLT_FORECAST (leAt m.body 0 1) w)))))) ∧
  (code = 0x10 → exec .getStage s = .next (t.answer m 0 (leBytes 4 (t.rdN Reg.MGT_STATE)
    ++ (List.range 9).flatMap (fun k => leBytes 2 (t.rdF (Reg.STAGE_STATUS k) Fld.STAGE_STATUS_STATUS))))) ∧
  (∀ items, code = 0x11 → t.ready = true → stagedItems t.fuses m.body = some items → t.stagedBytes + m.body.length ≤ 65536 →
    exec .stageRecord s = .next ((t.putStaged (t.mgmt.staged ++ [⟨m.body.length, t.mgmt.stagedSeq, items⟩])).answer m okReset [])) ∧
  (code = 0x12 → t.ready = true → exec .clearStaged s = .next ((t.putStaged []).answer m okReset [])) ∧
  (code = 0x13 → exec .partitionReset s =
    .next (answerWith m (t.requestPartition (leAt m.body 0 1 % 16) (bitOf (leAt m.body 0 1) 4)))) ∧
  (∀ boot more, code = 0x14 → exec (.moduleReset boot more) s =
    .next ((t.answer m okReset []).requestModule (bitOf (leAt m.body 0 1) 0) boot more)) ∧
  (code = 0x15 → exec .fold s = .next (answerWith m (t.requestFold (bitOf (leAt m.body 0 2) 0) (bitsAt (leAt m.body 0 2) 4 12))))

/-- R19, R423 to R435: sweeps, the ledger's checkpoints, the latched reads, the daily measurements and forecast, and the acknowledgment of alerts. -/
def Obligations.HealthCommandsComplete : Prop := ∀ (s : State),
  (∀ c, s.ready = true → s.isDormant = false → s.rdF Reg.HLT_CFG Fld.HLT_CFG_SWEEP_PERIOD_H ≠ 0 → (s.dealer.graphs.any isSweep) = false → s.nextSweep = some c →
    exec .sweepDue s = .next (({ s with ledger := { s.ledger with sweeping := some c } }).ownTask (.sweep c) c 240000)) ∧
  (∀ c differ unitBad g t l, s.dealer.graphs.find? (fun g => g.source == .sweep c) = some g → g.tasks = t :: l → t.phase = .loading →
    (t.cores.all s.corePowered) = true → s.partWorks g.part = true →
    let u := (s.overList t.cores (fun n u => u.freeCore n)).dropGraph g.uid;
    let v := if unitBad && !bitOf (u.rdN (Reg.CVU_FAILED (c / 32))) (c % 32) then u.failUnit c else u;
    exec (.sweepComplete c ⟨differ, unitBad⟩) s = .next (v.judgeSweep c ((List.range 16).filter differ.contains))) ∧
  (s.mgmtRuns = true → s.hoursSince s.ledger.checkpointAt 1 = true →
    let t := ({ s with ledger := { s.ledger with checkpointAt := s.now } }).ledgerAdd 0 0;
    exec .ledgerCheckpoint s =
      .next (if t.rdF Reg.HLT_STATE Fld.HLT_STATE_LEDGER = 0 then { t with ledger := { t.ledger with checkpoint := t.ledger.counters } } else t)) ∧
  (s.pcieUp = true → exec .hltPartValueRead s =
    .next (({ s with ledger := { s.ledger with partLatch := s.partValue / 2 ^ 32 } }).emit (.readData 0 (s.partValue % 2 ^ 32)))) ∧
  (s.pcieUp = true → exec .mgtTimeRead s =
    .next (({ s with mgmt := { s.mgmt with timeLatch := s.now / 2 ^ 32 % 2 ^ 32 } }).emit (.readData 0 (s.now % 2 ^ 32)))) ∧
  (∀ frequencies, s.power.standby = false → s.power.started = true → s.hoursSince s.ledger.driftAt 24 = true →
    exec (.roMeasure frequencies) s = .next (s.measureDrift frequencies)) ∧
  (∀ mj, s.side.bus48 = true → s.power.standby = false → s.rdB Reg.HLT_STATE Fld.HLT_STATE_HOLDUP_LOW = false →
    s.hoursSince s.ledger.holdupAt 24 = true → exec (.holdupMeasure mj) s = .next (s.measureHoldup mj)) ∧
  (∀ value, s.pcieUp = true → exec (.hltAlertAck value) s = .next (s.ackAlerts value)) ∧
  (s.mgmtRuns = true → s.dayOver = true →
    let t := ({ s with ledger := { s.ledger with forecastAt := s.now } }).commitRS (inRange 0xC00000 0x100000);
    let d := t.talonDays;
    let u := (((t.showTalonDays d).overList (List.range 51) (fun i t => t.forecastEntry i)).talonEntries d).showWorst.forecastAlert;
    let v := u.overList (List.range 12) (fun k t => t.ledgerRecord (k * 0x1000) 0 6 (t.ledgerGet (k * 0x1000) 0) false);
    exec .dailyForecast s = .next ({ v with ledger := { v.ledger with dayBase := v.ledger.counters, codewords := [] } }).talonNewDay)

/-- R441 to R453, R457 to R459, R476, R477: the update messages at the front of the sideband queue. -/
def Obligations.UpdateMessagesComplete : Prop := ∀ (s : State) (m : SidebandMsg) (rest : List SidebandMsg) (code : Nat),
  let t := s.taking rest;
  s.serves code m rest = true →
  (code = 0x30 → exec .updateBegin s = .next (t.updateBegin m)) ∧
  (∀ fails, code = 0x31 → exec (.updatePiece fails) s = .next (t.updatePiece fails m)) ∧
  (code = 0x32 → leAt m.body 0 2 % 256 = 0 →
    let st := t.update.staging;
    let got := (st.map (fun r => r.received)).getD [];
    ∃ bits, (∀ i < 256, bitOf bits i = got.contains (leAt m.body 0 2 + i)) ∧
      exec .updateStatus s = .next (t.answer m okUpdate (leBytes 1 t.engineState ++ leBytes 4 ((st.map (fun r => r.meld)).getD 0)
        ++ leBytes 2 ((st.map (fun r => r.pieces)).getD 0) ++ leBytes 2 got.length ++ leBytes 32 bits))) ∧
  (code = 0x33 →
    let v := leAt m.body 0 1;
    exec .setConditions s = .next ((((t.wrF Reg.UPD_STATE Fld.UPD_STATE_MOTION (bitsAt v 0 1)).wrF Reg.UPD_STATE Fld.UPD_STATE_ON_BATTERY
      (bitsAt v 1 1)).wrF Reg.UPD_STATE Fld.UPD_STATE_OWNER_LOCK (bitsAt v 2 1)).answer m okUpdate [])) ∧
  (∀ boot more, code = 0x34 → exec (.activate boot more) s = .next (t.activate boot more m)) ∧
  (∀ u, code = 0x35 → t.confirm (leAt m.body 0 4) = some u → exec .showdownConfirm s = .next (u.answer m okUpdate [])) ∧
  (∀ k, code = 0x36 → t.updateOpen = true → slotIn t.update.boot slotStaging = some k →
    exec .updateAbandon s =
      .next (((t.writeBoot (setSlotMeld k 0 0 (setSlotState k slotEmpty t.update.boot))).showUpdate).answer m okUpdate [])) ∧
  (code = 0x37 → t.rdF (Reg.STAGE_STATUS 2) Fld.STAGE_STATUS_RESULT ≠ 0 → t.rdF (Reg.STAGE_STATUS 2) Fld.STAGE_STATUS_RESULT ≠ 3 → t.update.recovery = false →
    let sign := ed448Sign t.fuses.identity (t.reportFields m.body);
    sign.length = 114 ∧ exec .attest s = .next ((t.count (Reg.UPD_COUNTER 6)).answer m okUpdate (t.reportFields m.body ++ sign))) ∧
  (code = 0x38 → exec .getIdentity s = .next (t.answer m okUpdate t.certificate))

/-- R447 to R452: the drain of an activation, a showdown's deadline and the host's confirmation. -/
def Obligations.ActivationEventsComplete : Prop := ∀ (s : State) (boot : Boot) (more : List Boot),
  (∀ a j, s.update.activating = some a → s.mgmt.jobs.find? (fun j => j.scope == .module) = some j → s.drained j = true →
    exec (.activationDrainComplete boot more) s = .next (s.recheck boot more)) ∧
  (s.inShowdown = true → s.mgmtRuns = true → s.mgmt.fatal = none → s.power.standby = false → s.showdownDue ≤ s.now →
    (s.mgmt.jobs.any (fun j => j.scope == .module)) = false →
    exec (.showdownDeadline boot more) s = .next (s.requestModule false boot more)) ∧
  (∀ value, s.pcieUp = true → exec (.updConfirmWrite value) s = .next (s.hostConfirm value))

/-- R397 to R407, R411: resets and folds that RST_CMD asks for, and the ends of their drains. -/
def Obligations.ResetCommandsComplete : Prop := ∀ (s : State) (fw : List Upset) (boot : Boot) (more : List Boot), let u := s.upset fw;
  (∀ job j, u.mgmt.jobs[job]? = some j → u.mayProceed j = true →
    (u.drained j = true → exec (.drainComplete job fw boot more) s = .next (u.proceed j false boot more)) ∧
    (u.drained j = false → j.started + u.rdF Reg.RST_CFG Fld.RST_CFG_DRAIN_TIMEOUT_MS * msNs ≤ u.now →
      exec (.drainTimeout job fw boot more) s =
        .next ((((u.post St.RST_DRAIN_TIMED_OUT).count (Reg.RST_COUNTER 3)).absorbCores (jobCores j)).proceed j true boot more))) ∧
  (u.pcieUp = true → ∀ absorb target,
    exec (.rstCoreReset absorb target fw) s = .next (u.requestSmall false absorb target).2 ∧
    exec (.rstClusterReset absorb target fw) s = .next (u.requestSmall true absorb target).2) ∧
  (s.pcieUp = true → ∀ absorb target,
    exec (.rstPartitionReset absorb target) s = .next (s.requestPartition target absorb).2 ∧
    exec (.rstModuleReset absorb boot more) s = .next (s.requestModule absorb boot more) ∧
    exec (.rstCoreFold target) s = .next (s.requestFold false target).2 ∧
    exec (.rstClusterFold target) s = .next (s.requestFold true target).2)

/-- R350, R377, R379 to R384, R391, R403, R470 to R475: the side lines and rails, the peers' training and its waits. -/
def Obligations.LineEventsComplete : Prop := ∀ (s : State),
  (s.side.resetAsserted = false → s.mgmtRuns = true →
    let t := ((s.talonDown 1 0).enterStandby).wrF Reg.MGT_STATE Fld.MGT_STATE_STATE 3;
    exec .resetNAssert s = .next { t with side := { t.side with resetAsserted := true } }) ∧
  (∀ boot, s.side.resetAsserted = true → s.mgmtRuns = true →
    let t := ({ s with side := { s.side with resetAsserted := false } }).wrF Reg.MGT_STATE Fld.MGT_STATE_STATE 0;
    t.canStart = true → t.side.present = true →
    exec (.resetNRelease boot []) s = .next ((t.bringUp boot).showdownRetry [])) ∧
  (∀ link attempts late more, link < 16 → (s.linkState link = 1 ∨ s.linkState link = 2) →
    exec (.peerTrainingSignal link attempts late more) s = .next ((s.trainLink link attempts).linkSettled late more)) ∧
  (∀ link late more, link < 16 → s.linkState link = 1 →
    (s.linkRun link).since + s.rdF Reg.NDX_CFG2 Fld.NDX_CFG2_PEER_WAIT_S * 1000000000 ≤ s.now →
    exec (.peerWaitTimeout link late more) s = .next ((s.linkDown link 1).linkSettled late more)) ∧
  (∀ more, s.mgmt.waitingPeers = true →
    exec (.stageTimeout more) s =
      .next ((({ s with mgmt := { s.mgmt with waitingPeers := false } }).stageHalt 6 St.MGT_STAGE_TIMEOUT []).showdownRetry more)) ∧
  (s.side.present = true → exec .presenceLoss s = .next { s.pulled 1 with side := { (s.pulled 1).side with present := false } }) ∧
  (exec .presenceReturn s = .next { s with side := { s.side with present := true } }) ∧
  (∀ reading, s.side.bus48 = true →
    exec (.inputPowerLoss reading) s =
      .next ({ s.pulled 2 with side := { (s.pulled 2).side with bus48 := false, volts48 := reading } }).afterLoss) ∧
  (∀ reading, let t := if s.mgmtRuns then s else s.startAlwaysOn
    exec (.inputPowerApplied reading) s = .next { t with side := { t.side with bus48 := true, volts48 := reading } } ∧
    exec (.auxPowerApplied reading) s = .next { t with side := { t.side with aux12 := true, volts12 := reading } }) ∧
  (∀ reading, s.side.aux12 = true →
    exec (.auxPowerLoss reading) s = .next ({ s with side := { s.side with aux12 := false, volts12 := reading } }).afterLoss) ∧
  (∀ locked, exec (.latchLockedChange locked) s = .next { s with side := { s.side with latchLocked := locked } })

/-- R473, R476 to R479: a vendor message for this module is held, at most nine of them; addresses are assigned; the standard requests of MCTP and PLDM are answered. -/
def Obligations.SidebandBusComplete : Prop := ∀ (s : State), s.mgmtRuns = true → s.side.targetUp = true →
  (∀ bytes, let b := bytes.map (BitVec.ofNat 8)
    let m : SidebandMsg := ⟨leAt b 3 1 % 32, leAt b 4 1, b.drop 6, false⟩;
    5 ≤ b.length → b.length ≤ 65600 → leAt b 0 1 = 0x7E → leAt b 1 1 * 256 + leAt b 2 1 = s.fuses.vendorId % 65536 →
    bitOf (leAt b 3 1) 7 = false → s.side.held.length < 9 → messageOk b = true →
    let t := if m.code = 0x07 then s else s.wake;
    exec (.sidebandMessageReceive bytes) s = .next { t with side := { t.side with held := t.side.held ++ [m] } }) ∧
  (∀ addr, s.side.dynamicAddr = none →
    exec (.setdasa (0x50 + s.side.slotId) addr) s = .next { s with side := { s.side with dynamicAddr := some (addr % 128) } } ∧
    exec (.entdaa addr) s = .next { s with side := { s.side with dynamicAddr := some (addr % 128) } }) ∧
  (∀ op eid, op < 2 → 0 < eid → eid < 0xFF →
    exec (.setEndpointId op eid) s = .next (({ s with side := { s.side with endpointId := eid } }).mctpControl 1 [0, 0, eid, 0])) ∧
  (exec .getEndpointId s = .next (s.mctpControl 2 [0, s.side.endpointId, 0, 0])) ∧
  (∀ type, type = 0xFF ∨ type = 0 ∨ type = 1 ∨ type = 0x7E →
    exec (.getMctpVersionSupport type) s =
      .next (s.mctpControl 4 ([0, 1] ++ (leBytes 4 (Config.mctpVersion type)).reverse.map (fun x => x.toNat)))) ∧
  (exec .getMessageTypeSupport s = .next (s.mctpControl 5 [0, 2, 0x01, 0x7E])) ∧
  (exec (.getVendorMessageSupport 0) s =
    .next (s.mctpControl 6 [0, 0xFF, 0, s.fuses.vendorId / 256 % 256, s.fuses.vendorId % 256, 0, 1])) ∧
  (exec .getTid s = .next (s.pldm 2 [0, 0])) ∧
  (∀ type, type ∈ pldmTypes →
    exec (.getPldmVersion 1 type) s =
      .next (s.pldm 3 ([0] ++ le 4 0 ++ [5] ++ le 4 (Config.pldmVersion type) ++ le 4 (versionCrc (Config.pldmVersion type)))) ∧
    exec (.getPldmCommands type (Config.pldmVersion type % 2 ^ 32)) s = .next (s.pldm 5 ([0] ++ bitmapBytes 32 (pldmCommandsOf type)))) ∧
  (exec .getPldmTypes s = .next (s.pldm 4 ([0] ++ bitmapBytes 8 pldmTypes))) ∧
  (∀ id size reading, s.numericSensor id = some (size, reading) →
    ∃ st, st.length = 3 ∧ exec (.getSensorReading id) s = .next ((s.pldm 0x11 ([0, size, 0, 0] ++ st ++ reading)).drawn)) ∧
  (∀ id v, s.stateSensor id = some v →
    ∃ st, st.length = 2 ∧ exec (.getStateSensorReadings id) s = .next ((s.pldm 0x21 ([0, 1, 0, v] ++ st)).drawn)) ∧
  (∀ h part count id, 1 ≤ h → s.pdrSensors[h - 1]? = some id →
    ∃ body, exec (.getPdr h part count) s = .next (s.pldm 0x51 ([0] ++ body))) ∧
  (∃ body, exec .getPdrRepositoryInfo s = .next (s.pldm 0x50 ([0, 0] ++ body)))

/-! ### The whole machine -/

/-- A step with a command waiting is the effect of the command at the front, on the state with the rest of the queue; with no command waiting one
nanosecond passes: the cores count their cycles, the module the time for which it has rested, and nothing else happens. The queue and the tick are the model's choice (log entries 6 and 7; the spec has neither). -/
def Obligations.StepRunsFront : Prop := ∀ (s : State) (c : Instr) (rest : List Instr),
  (s.pending = c :: rest → step s = exec c { s with pending := rest }) ∧
  (s.pending = [] → step s = .next s.tick ∧ s.tick.now = s.now + 1 ∧
    { s.tick with now := s.now, power := s.power, cores := s.cores } = s ∧
    s.tick.power = { s.power with restingSince := s.tick.power.restingSince } ∧
    ∀ n, s.tick.coreAt n = { s.coreAt n with cycles := (s.tick.coreAt n).cycles })

/-- R1, R19, R410, R485: the state right after reset. The timebase is 0, no register has left its reset word, no byte of memory is written, nothing
is held or pending, and the module is neither ready nor halted. The fuses and the state of the lines are the model's choice (log entries 2
and 3). -/
def Obligations.ResetLeavesResetWords : Prop :=
  State.reset.pending = [] ∧ State.reset.now = 0 ∧ State.reset.heldRS = [] ∧ State.reset.memory.mem = [] ∧ State.reset.pcie.hostMem = [] ∧
  (∀ off, State.reset.rd off = resetWord fusesOfReset off) ∧ State.reset.ready = false ∧ State.reset.rdF Reg.MGT_STATE Fld.MGT_STATE_STATE = 0 ∧
  State.reset.rdN Reg.HLT_ALERT = 0 ∧ State.reset.pcie.pending = [] ∧ State.reset.update.nor = []

/-- No command stops the machine: each answers a next state, whatever the state and the operands. -/
def Obligations.EveryCommandAnswers : Prop := ∀ (c : Instr) (s : State), ∃ t, exec c s = .next t

/-- The memories have their canonical form and the queue is empty after reset. -/
def Obligations.ResetIsSafe : Prop := State.reset.safe = true

/-- A command leaves the queue of waiting commands as it finds it, so a step takes exactly the front of the queue. -/
def Obligations.StepTakesOneCommand : Prop := ∀ (s t : State), step s = .next t → t.pending = s.pending.tail

/-- Every step keeps the canonical form of global memory, of host memory and of the NOR, and a queue of commands whose operands are in range. -/
def Obligations.StepKeepsSafe : Prop := ∀ (s t : State), s.safe = true → step s = .next t → t.safe = true

/-- R19: the timebase never runs back. Only the two commands that take a power rail away can restart it at 0. -/
def Obligations.TimeNeverRunsBack : Prop := ∀ (s t : State) (c : Instr), exec c s = .next t →
  s.now ≤ t.now ∨ (t.now = 0 ∧ ∃ mv, c = .inputPowerLoss mv ∨ c = .auxPowerLoss mv)

/-- R8, R118: a run of bytes written to a memory in canonical form reads back whole, and every address outside the run reads as before; the
memory keeps its canonical form. -/
def Obligations.MemoryReadsBack : Prop := ∀ (dflt : Byte) (m : List Host.Cell) (a : Nat) (bytes : List Byte), cellsWf dflt m = true →
  cellsRead dflt (cellsWrite dflt m a bytes) a bytes.length = bytes ∧
  (∀ k, k < a ∨ a + bytes.length ≤ k → cellsGet dflt (cellsWrite dflt m a bytes) k = cellsGet dflt m k) ∧
  cellsWf dflt (cellsWrite dflt m a bytes) = true

/-! ### Rules of the spec, one by one -/

/-- R10, R11: a write of a register is applied field by field. Over any list of fields that lie inside 32 bits and do not overlap: an RO or WO
field of the word keeps its value, an RW field takes the stored form of the value's field, an RL field takes it while the block is stopped and
keeps its own value while the block runs, a W1C field loses the bits written as 1, and an RS field is held beside the word. The write is
rejected exactly where an RL field would change while the block runs, and the other fields take effect all the same. -/
def Obligations.WriteIsFieldByField : Prop := ∀ (fu : Fuses) (running : Bool) (v w mask held : Nat) (fs : List FieldSpec),
  (∀ f ∈ fs, f.lo ≤ f.hi ∧ f.hi < 32) → fs.Pairwise (fun f g => f.hi < g.lo ∨ g.hi < f.lo) →
  let r := fs.foldl (writeField fu running v) ⟨w, mask, held, false, 0⟩;
  (∀ f ∈ fs, ∃ part, let nv := storeValue fu part f.rule (fieldOf f v) % 2 ^ fieldWidth f;
    fieldOf f r.stored = nv ∧
    fieldOf f r.word = (match f.access with
      | .ro => fieldOf f w
      | .wo => fieldOf f w
      | .rs => fieldOf f w
      | .rw => nv
      | .rl => if running then fieldOf f w else nv
      | .w1c => fieldOf f w &&& (2 ^ fieldWidth f - 1 - fieldOf f v)) ∧
    (f.access = .rs → fieldOf f r.mask = 2 ^ fieldWidth f - 1 ∧ fieldOf f r.held = nv) ∧
    (f.access ≠ .rs → fieldOf f r.mask = fieldOf f mask ∧ fieldOf f r.held = fieldOf f held)) ∧
  (r.rejected = true ↔ running = true ∧ ∃ f ∈ fs, f.access = .rl ∧ fieldOf f r.stored ≠ fieldOf f w)

/-- R407: while a block runs, a write that would change an RL field is reported as 0xb001, where b is the block, and leaves the register's RL
fields; one that carries their present values is not reported. The report is the status word's whole effect (its capture by R39). -/
def Obligations.RejectedWriteIsReported : Prop := ∀ (s : State) (off v : Nat) (r : RegSpec) (i j : Nat), regAt s.fuses off = some (r, i, j) →
  let held := mapGetD (0, 0) off s.heldRS;
  let res := r.fields.foldl (writeField s.fuses true v) ⟨s.rdN off, held.1, held.2, false, 0⟩;
  let stored := s.wrN off res.word;
  let t := if res.mask = 0 then stored else { stored with heldRS := mapSet off (res.mask, res.held) stored.heldRS };
  (res.rejected = true → s.writeReg true off v = t.post (off / 0x100000 * 0x1000 + 1)) ∧
  (res.rejected = false → s.writeReg true off v = t) ∧
  ((∀ f ∈ r.fields, f.lo ≤ f.hi ∧ f.hi < 32) → r.fields.Pairwise (fun f g => f.hi < g.lo ∨ g.hi < f.lo) →
    (res.rejected = true ↔ ∃ f ∈ r.fields, f.access = .rl ∧ fieldOf f res.stored ≠ fieldOf f (s.rdN off)) ∧
    (∀ f ∈ r.fields, f.access = .rl → fieldOf f res.word = fieldOf f (s.rdN off)))

/-- R406: a held value waits until its register's commit point, where it takes effect and is held no longer; until then a read of its field
returns it, a register that the commit point does not cover keeps its held value, and a reset whose scope covers the register discards it. -/
def Obligations.HeldValuesCommit : Prop := ∀ (s : State) (p : Nat → Bool) (off mask value : Nat), mapGet off s.heldRS = some (mask, value) →
  (s.heldRS.map Prod.fst).Nodup → mask < 2 ^ 32 → value &&& mask = value →
  (p off = true → (s.commitRS p).rdN off = (s.rdN off &&& (0xFFFFFFFF ^^^ mask)) ||| value ∧ mapGet off (s.commitRS p).heldRS = none) ∧
  (p off = false → (s.commitRS p).rdN off = s.rdN off ∧ mapGet off (s.commitRS p).heldRS = some (mask, value)) ∧
  (∀ r i j, regAt s.fuses off = some (r, i, j) → (∀ f ∈ r.fields, f.lo ≤ f.hi ∧ f.hi < 32) →
    r.fields.Pairwise (fun f g => f.hi < g.lo ∨ g.hi < f.lo) → ∀ f ∈ r.fields, f.access = .rs →
    fieldOf f (s.readStored off) = (if fieldOf f mask = 0 then fieldOf f (s.rdN off) else fieldOf f value)) ∧
  (∀ lo n, lo ≤ off → off < lo + n → mapGet off (s.resetRegs lo n).heldRS = none)

/-- R378: until the module is ready, the blocks other than MGT, RST, PCI, HLT and UPD read 0 and ignore writes, BAR4 accesses complete as
Unsupported Request, the BARs of the VFs read 0, and doorbells are ignored. -/
def Obligations.NothingAnswersBeforeReady : Prop := ∀ s : State, s.ready = false →
  (∀ off, s.blockOpen off = false → s.readBar 0 off = 0 ∧
    (∀ value, off % 4 = 0 → exec (.registerWrite 0 off 4 value) s = .next s) ∧
    (∀ value, off % 8 = 0 → exec (.registerWrite 0 off 8 value) s = .next s)) ∧
  (∀ fn off n, s.pcieUp = true → exec (.bar4Read fn off n []) s = .next (s.sendUr fn)) ∧
  (∀ fn off bytes, s.pcieUp = true → exec (.bar4Write fn off bytes []) s = .next (s.aerError.sendUr fn)) ∧
  (∀ fn off, fn ≠ 0 → s.readBar fn off = 0) ∧
  (∀ fn off value, fn ≠ 0 → off % 4 = 0 → exec (.registerWrite fn off 4 value) s = .next s) ∧
  (∀ (d : DoorbellWrite) (p q : Nat), d.viaDoorbell = true →
    exec (.sqTailWrite p q d) s = .next s ∧ exec (.cqHeadWrite p q d) s = .next s ∧ exec (.rqTailWrite p q d) s = .next s ∧
    exec (.scqHeadWrite p q d) s = .next s ∧ exec (.tlnCmdTailWrite d) s = .next s ∧ exec (.eqTailWrite p q d) s = .next s ∧
    exec (.rkqTailWrite p d) s = .next s ∧ exec (.msqTailWrite p q d) s = .next s ∧ exec (.mcqHeadWrite p q d) s = .next s)

/-- R124, R126: a VF's BAR4 write changes no byte of memory outside the task spaces of the C-dies that its partition owns. -/
def Obligations.WindowWritesStayInPartition : Prop := ∀ (s t : State) (fn off : Nat) (bytes : List Nat) (us : List Upset) (k : Nat),
  1 ≤ fn → exec (.bar4Write fn off bytes us) s = .next t → cellsGet 0 t.memory.mem k ≠ cellsGet 0 s.memory.mem k →
  ∃ d o, regionOf k = .hbm d o ∧ (s.upset us).dieOwner d = some (fn - 1) ∧ o < (s.upset us).taskEnd d

/-- R44: a stream descriptor's operand at a local address outside the ranges of R43, or in the store of a folded core, is not accessed, and a
move of one element from it fails its task with ADDRESS_FAULT. -/
def Obligations.LocalAddressFaults : Prop := ∀ (s : State) (core p a len : Nat),
  ((0x40000 ≤ a ∧ a < 0x100000) ∨ (0x300000 ≤ a ∧ a < 0x400000) ∨ 0x800000 ≤ a ∨
    (0x400000 ≤ a ∧ a < 0x800000 ∧ core < 1536 ∧ s.coreWorking (16 * coreCluster core + (a - 0x400000) / 0x40000) = false)) →
  s.resolve core p false a len = .error St.DEAL_ADDRESS_FAULT ∧
  (∀ (queue dst elemBytes : Nat) (w : Waits) (toGlobal : Bool),
    let d : StreamDesc := ⟨false, a, toGlobal, dst, elemBytes, []⟩;
    s.startsNow core queue w = true → elemBytes = len → len ≠ 0 → (s.waited core w).corePart core = some p →
    (∀ n, (s.waited core w).coreWorking n = s.coreWorking n) →
    exec (.streamMove core queue d w []) s = .next ((s.waited core w).failOnCore core St.DEAL_ADDRESS_FAULT))

/-- R52: every NaN that an operation produces in a floating-point format is the canonical NaN of the format: of the two roundings, the lanes of the
vector unit's arithmetic, conversions and reductions, the special functions, the sums of the array, those that land over canonical ones, and
the output stage. -/
def Obligations.NansAreCanonical : Prop := ∀ f : NumFmt, f ∈ [NumFmt.fp32, .bf16, .fp16, .e4m3, .e5m2] →
  canonicalNan f = (match f with | .fp32 => 0x7FC00000 | .bf16 => 0x7FC0 | .fp16 => 0x7E00 | .e4m3 => 0x7F | _ => 0x7E) ∧
  (∀ mode satEn draw x, decodeNum f (convertNum f mode satEn draw x).bits = .nan → (convertNum f mode satEn draw x).bits = canonicalNan f) ∧
  (∀ x, decodeNum f (roundArith f x).bits = .nan → (roundArith f x).bits = canonicalNan f) ∧
  (∀ (s t : State) (core : Nat),
    (∀ lf op a b c dst, f = (if lf = LaneFmt.bf16 then .bf16 else .fp32) → lf ≠ .int32 → (floatLane op .nan .nan .nan).isSome = true →
      s.bodyRuns core = true → exec (.vectorArithmetic core lf op a b c dst) s = .next t →
      ∀ i < lanesOf lf, nanCanonical f (bitsAt (t.vreg core dst) (laneBits lf * i) (laneBits lf))) ∧
    (∀ src a d, src ≠ .fp4 → s.bodyRuns core = true → exec (.vectorConvert core src f a d) s = .next t →
      ∀ i < 2048 / max (8 * NumFmt_bytes src) (8 * NumFmt_bytes f),
        nanCanonical f (bitsAt (t.vreg core d) (8 * NumFmt_bytes f * i) (8 * NumFmt_bytes f))) ∧
    (∀ lf op a dst, f = (if lf = LaneFmt.bf16 then .bf16 else .fp32) → lf ≠ .int32 → s.bodyRuns core = true →
      exec (.vectorReduce core lf op a dst) s = .next t → nanCanonical f (bitsAt (t.vreg core dst) 0 (laneBits lf))) ∧
    (∀ fn bf a g dst, f = (if bf then .bf16 else .fp32) → s.bodyRuns core = true → exec (.sfuOp core fn bf a g dst) s = .next t →
      ∃ b, (t.coreAt core).sfu = (s.coreAt core).sfu ++ [b] ∧ ∀ r ∈ b.results, nanCanonical f r) ∧
    (∀ w op, f = .fp32 → s.bodyRuns core = true → isIntFmt op.actFmt = false → (arrayShape op.actFmt op.wFmt).isSome = true →
      let u := s.waited core w;
      (∀ n k, arrayShape op.actFmt op.wFmt = some (k, n) →
        u.storeReadable core op.acts (if op.actFmt = .fp4 then 32 else k * NumFmt_bytes op.actFmt) = true) →
      u.storeReadable core op.actScales (if op.actFmt = .fp4 then 2 else 0) = true →
      exec (.arrayOp ⟨core, w⟩ op) s = .next t →
      ∃ l, (t.coreAt core).landing = (u.coreAt core).landing ++ [l] ∧ ∀ x ∈ l.sums, nanCanonical .fp32 x.1.toNat) ∧
    (∀ add old x, f = .fp32 → nanCanonical .fp32 x.1.toNat → nanCanonical .fp32 (landColumn add false old x).1) ∧
    (∀ w (op : OutputOp), let u := s.waited core w
      f = op.fmt → s.bodyRuns core = true → u.storeReadable core op.acc (4 * op.cols) = true →
      (∀ a, op.scale = some a → u.storeReadable core a (4 * op.cols) = true) →
      (∀ a, op.bias = some a → u.storeReadable core a (4 * op.cols) = true) →
      u.storeWritable core op.dst (op.cols * NumFmt_bytes op.fmt) = true →
      ∃ bits fl lfsr, (∀ b ∈ bits, nanCanonical f b) ∧
        exec (.outputStage ⟨core, w⟩ op) s = .next ((u.updCore core (fun c => { c with lfsr := lfsr, flags := c.flags ||| fl })).storePut core op.dst
          (packElements op.fmt bits))))

/-- R57: an INT32 accumulator that would leave its range is clamped to the bound, and SAT is set; the next sums are added to the clamped value. -/
def Obligations.AccumulatorsClamp : Prop := ∀ (add : Bool) (old : Nat) (sum : Int × Nat), old < 2 ^ 32 →
  let r := landColumn add true old sum;
  let exact := (if add then toSigned 32 old else 0) + sum.1;
  toSigned 32 r.1 = (if exact < -2 ^ 31 then -2 ^ 31 else if 2 ^ 31 - 1 < exact then 2 ^ 31 - 1 else exact) ∧ r.1 < 2 ^ 32 ∧
  (r.2 &&& flagSat ≠ 0 ↔ exact < -2 ^ 31 ∨ 2 ^ 31 - 1 < exact)

/-- R416: RESULT is RUNNING XOR the final value in the low WIDTH bits, every higher bit 0. A context that holds another one's RUNNING and BYTES,
with the same algorithm, and is fed the rest of the payload, ends with the registers of an uninterrupted computation. -/
def Obligations.FeedingResumes : Prop := ∀ (s t : State) (u x u' x' : Nat) (a b : List Byte), u < 128 → x < 8 → u' < 128 → x' < 8 →
  let alg := fun (v : State) (i j : Nat) => v.rdF (Reg.CV_CTRL i j) Fld.CV_CTRL_ALG;
  let whole := s.feedContext u x (a ++ b);
  let saved := s.feedContext u x a;
  alg t u' x' = alg s u x → t.rd64 (Reg.CV_RUNNING_LO u' x') = saved.rd64 (Reg.CV_RUNNING_LO u x) →
  t.rd64 (Reg.CV_BYTES_LO u' x') = saved.rd64 (Reg.CV_BYTES_LO u x) →
  let rest := t.feedContext u' x' b;
  whole.rd64 (Reg.CV_RESULT_LO u x) =
    (whole.rd64 (Reg.CV_RUNNING_LO u x) ^^^ (crcAlg (alg s u x)).xorOut) % 2 ^ (crcAlg (alg s u x)).width ∧
  rest.rd64 (Reg.CV_RUNNING_LO u' x') = whole.rd64 (Reg.CV_RUNNING_LO u x) ∧
  rest.rd64 (Reg.CV_BYTES_LO u' x') = whole.rd64 (Reg.CV_BYTES_LO u x) ∧
  rest.rd64 (Reg.CV_RESULT_LO u' x') = whole.rd64 (Reg.CV_RESULT_LO u x)

/-- R318: a message that falls due for a masked vector sets its pending bit and sends nothing, however many fall due; unmasking it then, with
Bus Master Enable at 1, sends one message and clears the bit, and changes no register and no memory. -/
def Obligations.MaskedVectorSendsOnce : Prop := ∀ (s : State) (fn v n : Nat), s.pcieUp = true → fn < 5 → v < 256 → s.msixMasked fn v = true →
  let t := (List.range (n + 1)).foldl (fun u _ => u.msix fn v) s;
  t.pcie.sent = s.pcie.sent ∧ t.pcie.pending.contains (256 * fn + v) = true ∧
  ((fn = 0 ∨ s.ready = true ∧ s.fnExists fn = true) → s.busMaster fn = true → ∃ u, exec (.msixUnmask fn v) t = .next u ∧
    u.pcie.sent = .msix fn v :: s.pcie.sent ∧ u.pcie.pending.contains (256 * fn + v) = false ∧ u.regs = s.regs ∧ u.memory = s.memory)

/-- R39: OK is neither counted nor captured. Any other status word that finds VALID 0 is captured, and OVERFLOW stays as it is; one that finds VALID 1 sets OVERFLOW and takes the place of the word held only if its
severity is equal or higher; each is counted. -/
def Obligations.StatusWordsAreCaptured : Prop := ∀ (s : State) (st : Nat), st < 2 ^ 16 →
  (∀ part, stCode st = 0 → s.postAt part st = s) ∧ (stCode st ≠ 0 →
  let b := 0x100000 * stBlock st;
  let w := s.rdN (b + 4);
  let t := s.capture st;
  t.rdN (b + 8) = min 0xFFFFFFFF (s.rdN (b + 8) + 1) ∧
  (bitOf w 16 = false → bitsAt (t.rdN (b + 4)) 0 16 = st ∧ bitOf (t.rdN (b + 4)) 16 = true ∧ bitOf (t.rdN (b + 4)) 17 = bitOf w 17) ∧
  (bitOf w 16 = true → bitOf (t.rdN (b + 4)) 16 = true ∧ bitOf (t.rdN (b + 4)) 17 = true ∧
    bitsAt (t.rdN (b + 4)) 0 16 = (if stSeverity (bitsAt w 0 16) ≤ stSeverity st then st else bitsAt w 0 16)) ∧
  (∀ k, k ≠ b + 4 → k ≠ b + 8 → t.rd k = s.rd k))

/-- R318, R321, R322: the loss of a link that is up resets every function: five Function Level Resets and one loss are counted, the link is down,
no function masters the bus, and the MSI-X tables and pending bits are as at reset. Ndoyx, memory and the cores are unaffected. Where the link is
down already nothing happens. -/
def Obligations.LinkLossResetsFunctions : Prop := ∀ s : State,
  (s.pcieUp = false → exec .pcieLinkLoss s = .next s) ∧
  (s.pcieUp = true → ∃ t, exec .pcieLinkLoss s = .next t ∧ t.pcieUp = false ∧
    t.rdN (Reg.PCI_COUNTER 6) = (s.rdN (Reg.PCI_COUNTER 6) + 1) % 2 ^ 32 ∧ t.rdN (Reg.PCI_COUNTER 7) = (s.rdN (Reg.PCI_COUNTER 7) + 5) % 2 ^ 32 ∧ t.pcie.busMaster.all (fun f => decide (5 ≤ f)) = true ∧
    t.pcie.pending.all (fun v => decide (5 ≤ v / 256)) = true ∧ t.pcie.msix.all (fun e => decide (5 * 4096 ≤ e.1)) = true ∧
    t.ndx = s.ndx ∧ t.memory = s.memory ∧ t.cores = s.cores)

/-! ### Frames -/

/-- What the commands that reach no engine leave: global memory and host memory byte by byte, every core, task, check-value context, trick,
prefix, flash, link, vision and media state, the boot record, the fuses and the timebase, and whatever else `touches` does not name. They
are the window bases, the thermal and cap steps, the idle timeouts of HBM, engines and channels, the requests of MCTP and PLDM, most sideband
messages, a channel's failure, the latched reads and the other commands to which `touches` gives no engine. -/
def Obligations.RegisterCommandsFrame : Prop := ∀ (s t : State) (c : Instr), engines c = [] → exec c s = .next t → framed c s t

/-- R47, R54, R63 to R66, R487: a swap, a compare, a select, a reduction, a permutation, a special-function command or its result, or HALT
changes its own core only. Every other core, every byte of memory, every register of BAR0 and every other part of the state (but the model's
own count of open values) is as before. -/
def Obligations.CoreOnlyCommandsFrame : Prop := ∀ (s t : State) (c : Instr) (core : Nat), coreOnly c = some core → exec c s = .next t →
  (∀ n, n ≠ core → t.coreAt n = s.coreAt n) ∧ (∀ p, p ≠ .cores → p ≠ .freeCtr → s.keeps t p)

/-- What the commands of few engines leave: a command that reaches one to five of the engines and memories (flash upkeep and events, control
messages, deadlines, tags, update pieces, function resets, a scrub, host accesses through BAR4 and the others that `touches` gives)
changes no part of the state that `touches` does not name. -/
def Obligations.EngineCommandsFrame : Prop := ∀ (s t : State) (c : Instr), 0 < (engines c).length → (engines c).length ≤ 5 →
  exec c s = .next t → framed c s t

/-- What the remaining commands leave. A command of a running body or of the dealer can fail its task and so reach the completion queues and
the serving engine, but no prefix, no flash, no boot record, no fuse and not the timebase; a reset of a partition reaches no boot record, no
fuse and not the timebase. -/
def Obligations.WorkCommandsFrame : Prop := ∀ (s t : State) (c : Instr), 5 < (engines c).length → exec c s = .next t → framed c s t

/-- R47, R54, R58, R63, R65, R68, R70, R73, R123, R196, R199, R212, R244, R255, R259, R271, R273, R293, R419: a command that stores to global memory
changes the bytes that it stores to and no others: landed sums, an output stage, a converted block and its scale, a vector store, a page read by
the control unit, a stream move at its start or its completion, a tap walk, a feature map, a tag, an APPEND's kitty slots, a gather, a saved
context, a host's write through BAR4 and an exported image. A vector load, the control unit's other operations and a move that only starts store
nothing. The accesses succeed, except that a host's write, a host's tag post and an export store to their own bytes or to none. The last clauses
say the same of one write of the units that many commands run: a vector of a KV page, a row of an edge job, a block of a decoded picture and its
map bit, a reckoner's result, and the sections of a loaded image. -/
def Obligations.StoresChangeTheirBytesOnly : Prop := ∀ (s t : State) (core : Nat),
  (∀ row l w, landingRow row (s.coreAt core).landing = some l →
    (l.add = true → s.storeReadable core l.acc (4 * l.sums.length) = true) → s.storeWritable core l.acc (4 * l.sums.length) = true →
    exec (.arrayResultLand ⟨core, w, row⟩) s = .next t → s.keepsOutside t (storeAddr core l.acc) (4 * l.sums.length)) ∧
  (∀ (op : OutputOp) (w : Waits), s.bodyRuns core = true → op.fmt ≠ .fp4 → op.fmt ≠ .int32 → s.storeReadable core op.acc (4 * op.cols) = true →
    (∀ a, op.scale = some a → s.storeReadable core a (4 * op.cols) = true) →
    (∀ a, op.bias = some a → s.storeReadable core a (4 * op.cols) = true) →
    s.storeWritable core op.dst (op.cols * NumFmt_bytes op.fmt) = true → exec (.outputStage ⟨core, w⟩ op) s = .next t →
    s.keepsOutside t (storeAddr core op.dst) (op.cols * NumFmt_bytes op.fmt)) ∧
  (∀ bf a block elemsAt scaleAt w, s.bodyRuns core = true → block < (if bf = true then 4 else 2) → s.storeWritable core elemsAt 16 = true →
    s.storeWritable core scaleAt 1 = true → exec (.mxfp4BlockConvert ⟨core, w⟩ bf a block elemsAt scaleAt) s = .next t →
    ∀ k, (k < storeAddr core elemsAt ∨ storeAddr core elemsAt + 16 ≤ k) → k ≠ storeAddr core scaleAt →
      cellsGet 0 t.memory.mem k = cellsGet 0 s.memory.mem k) ∧
  (∀ r off w, s.bodyRuns core = true → (s.waited core w).storeWritable core off 256 = true →
    exec (.vectorLoadStore core false r off w) s = .next t → s.keepsOutside t (storeAddr core off) 256) ∧
  (∀ r off w, s.bodyRuns core = true → (s.waited core w).storeReadable core off 256 = true →
    exec (.vectorLoadStore core true r off w) s = .next t → s.keeps t .mem) ∧
  (∀ off dst w, s.bodyRuns core = true → off < 0x1000 → s.storeWritable core dst 4 = true →
    exec (.controlWait core (.readPage off dst) w) s = .next t → s.keepsOutside t (storeAddr core dst) 4) ∧
  (∀ op w, (∀ off dst, op ≠ .readPage off dst) → (∀ off v, op = .writePage off v → off < 0x1000) →
    exec (.controlWait core op w) s = .next t → s.keeps t .mem) ∧
  (∀ fn off bytes us, exec (.bar4Write fn off bytes us) s = .next t →
    s.keepsOutside t ((s.upset us).windowAddr fn off) bytes.length) ∧
  (∀ (queue : Nat) (w : Waits) (us : List Upset), let u := (s.upset us).waited core w
    (∀ (d : StreamDesc) (p : Nat) (pairs : List (Nat × Nat)), (s.upset us).startsNow core queue w = true → u.corePart core = some p →
      d.dims.length ≤ 5 → d.elemBytes ≠ 0 → (d.dims.any (fun x => x.count == 0)) = false → u.resolveAll core p d = .ok pairs →
      exec (.streamMove core queue d w us) s = .next t →
      ((d.srcGlobal || d.dstGlobal) = true → s.keeps t .mem) ∧
      (let r := u.readAll d.elemBytes (pairs.map (fun x => x.1)) [];
        (d.srcGlobal || d.dstGlobal) = false → (∃ b, r.1 = .ok b ∧ (r.2.writeAll d.elemBytes (pairs.map (fun x => x.2)) b).1 = none) →
        s.keepsOutsideAll t (pairs.map (fun x => (x.2, d.elemBytes))))) ∧
    (∀ (job : StreamJob) (p : Nat) (pairs : List (Nat × Nat)),
      let v := u.updCore core (fun c => { c with queues := c.queues.filter (fun e => e.1 != queue) });
      let r := v.readAll job.desc.elemBytes (pairs.map (fun x => x.1)) [];
      (s.upset us).coreRuns core = true → (u.coreAt core).queues.find? (fun e => e.1 == queue) = some (queue, job) → u.corePart core = some p →
      u.resolveAll core p job.desc = .ok pairs →
      (∃ b, r.1 = .ok b ∧ (r.2.writeAll job.desc.elemBytes (pairs.map (fun x => x.2)) b).1 = none) →
      ((v.performMove core queue job.desc pairs job.snoops).coreAt core).nextItem queue = none →
      exec (.streamMoveComplete core queue ⟨w, us⟩) s = .next t → s.keepsOutsideAll t (pairs.map (fun x => (x.2, job.desc.elemBytes)))) ∧
    (∀ (words : List Nat) (p : Nat) (moved : List Byte × List Byte), let d := tapDesc words
      (s.upset us).startsNow core queue w = true → u.corePart core = some p → tapValid d = true → 1 ≤ tapOutH d → 1 ≤ tapOutW d →
      (u.walk core p d (tapCells d) [] []).1 = .ok moved → exec (.tapWalker core queue words ⟨w, us⟩) s = .next t →
      s.keepsOutsideAll t ((tapCells d).map (fun c => (storeAddr core c.dst, d.chCount * tapElemBytes d)))) ∧
    (∀ (fill : Bool) (words : List Nat) (p a b : Nat), let d := fmapDesc words
      let inLen := d.blocks * (if fill then d.packedBytes else d.plainBytes)
      let outLen := d.blocks * (if fill then d.plainBytes else d.packedBytes)
      let r := u.globalRead 3 a inLen;
      let out := (d.convert r.2.1).1;
      (s.upset us).startsNow core queue w = true → u.corePart core = some p → d.ok = true → d.fill = fill →
      u.resolve core p d.srcGlobal d.src inLen = .ok a → u.resolve core p d.dstGlobal d.dst outLen = .ok b →
      r.1 = none → (r.2.2.globalWrite 3 b out).1 = none →
      exec (if fill then .featureMapFill core queue words ⟨w, us⟩ else .featureMapSpill core queue words ⟨w, us⟩) s = .next t →
      s.keepsOutside t b out.length) ∧
    (∀ (d : CvDesc) (task : Nat × Nat), (s.upset us).startsNow core queue w = true → (u.coreAt core).task = some task → cvDescOk d = true →
      recordPlaceOk d = true → (u.globalWrite 3 (storeAddr core d.offset) (u.cvRecord (coreCluster core) d.ctx)).1 = none →
      exec (.cvSave core queue d ⟨w, us⟩) s = .next t → s.keepsOutside t (storeAddr core d.offset) 32) ∧
    (∀ (words tags : List Nat) (k : KvTarget), let c := u.checkTable k
      (s.upset us).startsNow core queue w = true → u.kvTarget core (words.getD 0 0) = some k → c.1 = .sound tags →
      (let first := bitsAt (words.getD 1 0) 0 24;
        let count := bitsAt (words.getD 1 0) 32 7;
        let src := bitsAt (words.getD 2 0) 0 18;
        let v := (c.2.flushSlice k).2.2.raise core (c.2.flushSlice k).2.1.flags;
        let size := c.2.kittySlotBytes k.slot;
        let slots := chunksOf size count (v.storeBytes core src (count * size));
        kvWriteOk 0 words = true → appendFits k.hand first count = true → k.hand.flushPending = false →
        v.storeReadable core src (count * size) = true → (v.writeKitty k (first % k.hand.runSize first) slots).1 = none →
        exec (.kvAppend core queue words ⟨w, us⟩) s = .next t →
        s.keepsOutsideAll t (State.kittyStores k (first % k.hand.runSize first) slots v)) ∧
      (∀ a : GatherAcc, let g := gatherDesc words
        let stop := if g.blockEnd = 0xFFFFF then writtenBlocks k else min g.blockEnd (writtenBlocks k);
        let r := c.2.gatherBlocks k g tags (c.2.rdF (Reg.KV_WINDOW k.slot) Fld.KV_WINDOW_WINDOW)
          (c.2.rdF (Reg.KV_BIDIR k.slot) Fld.KV_BIDIR_BIDIR_LEN) ((List.range (stop - g.blockFirst)).map (· + g.blockFirst)) ⟨[], [], 0, 0⟩;
        u.gatherOk k.slot words = true → r.1 = .ok a → (r.2.raise core a.flags).storeWritable core g.dst a.out.length = true →
        exec (.kvGather core queue words ⟨w, us⟩) s = .next t → s.keepsOutside t (storeAddr core g.dst) a.out.length))) ∧
  (∀ (queue p : Nat) (words : List Nat), let tag := bitsAt (words.getD 0 0) 0 16
    s.startsWith core queue = true → s.corePart core = some p →
    words.getD 0 0 < 2 ^ 17 → words.getD 1 0 < 2 ^ 48 → words.getD 2 0 < 2 ^ 48 → bitsAt (words.getD 2 0) 24 8 = 0 →
    (∀ i < 5, words.getD (3 + i) 0 = 0) →
    (bitsAt (words.getD 2 0) 32 16 = 0 → s.inTaskSpace p (bitsAt (words.getD 1 0) 0 48)
      (tagBytes (bitOf (words.getD 0 0) 16) (bitsAt (words.getD 2 0) 0 24)) = true) →
    (s.putTag 3 p tag (bitsAt (words.getD 1 0) 0 48) (bitOf (words.getD 0 0) 16)
      (if bitsAt (words.getD 2 0) 32 16 = 0 then 1 else 2) (bitsAt (words.getD 2 0) 0 24) (bitsAt (words.getD 2 0) 32 16)).1 = none →
    exec (.tagPostDescriptor core queue words) s = .next t → s.keepsOutside t (s.rd64 (Reg.TAG_TABLE_LO p) % 2 ^ 48 + 16 * tag) 16) ∧
  (∀ fn p tag, exec (.tagPostPresent fn p tag) s = .next t ∨ exec (.tagReturnAbsent fn p tag) s = .next t →
    s.keepsOutside t (s.rd64 (Reg.TAG_TABLE_LO p) % 2 ^ 48 + 16 * (tag % 2 ^ 16)) 16) ∧
  (∀ (w : List Nat) (u : State) (i : ParkedImage), s.talonHead = (some w, u) → u.commandAbsorbed w = false →
    bitsAt (w.getD 0 0) 0 8 = 7 → talonFormatOk 7 w = true → (u.takeTalon w).partExists (bitsAt (w.getD 0 0) 8 2) = true →
    u.parkedAt (w.getD 1 0) = some i → exec (.parkExport []) s = .next t →
    (bitOf (w.getD 2 0) 63 = true → s.keeps t .mem) ∧ s.keepsOutside t (bitsAt (w.getD 2 0) 0 48) (exportBytes i).length) ∧
  (∀ r layer value h i bf m, s.keepsOutsideAll (s.writeVector r layer value h i bf m).2.2
    [((s.vectorAddr r layer value h i).1, (toPageFormat r.format bf).1.length),
      ((s.vectorAddr r layer value h i).2, (toPageFormat r.format bf).2.1.length)]) ∧
  (∀ row y ws u, row y s = (.ok ws, u) → u.memory.mem = s.memory.mem →
    s.keepsOutsideAll (State.edgeRows row [y] s).2 (ws.map (fun e => (e.1, e.2.length)))) ∧
  (∀ d i slot bx ypos luma samples, let r := blockRows d i slot bx ypos luma
    s.keepsOutsideAll (s.putBlock d i slot bx ypos luma samples).2 (r.1.map (fun e => (e.1, r.2)))) ∧
  (∀ m d slot bx ypos r, let a := d.mapAt slot + ypos * d.mapPitch + bx / 8
    (∀ b, (s.hbmWrite 2 a [b]).1 = none) → s.keepsOutside (s.markBlock m d slot bx ypos r).2 a 1) ∧
  (∀ r x i, x.source = .ring i → let dst := (reckJob x.words).dst
    s.keepsOutsideAll (s.endReck r x) [(dst + 64, x.output.length), (dst, 64)]) ∧
  (∀ words i, s.keepsOutsideAll (s.pourImage words i).2 (i.sections.zipIdx.map (fun e => (words.getD (4 + e.2) 0, e.1))))
end

