-- ==== Sys2Proof/Laws/State.lean ====
section
/-! SUPPORT. Laws/State.lean: what each update of State leaves of every other field, one lemma for a field and an update. -/
namespace Sys2Proof.Machine

/-! ### State.wr -/

@[simp] theorem State.wr_pending (off : Nat) (v : Word) (s : State) : (State.wr off v s).pending = s.pending := rfl
@[simp] theorem State.wr_fuses (off : Nat) (v : Word) (s : State) : (State.wr off v s).fuses = s.fuses := rfl
@[simp] theorem State.wr_now (off : Nat) (v : Word) (s : State) : (State.wr off v s).now = s.now := rfl
@[simp] theorem State.wr_freeCtr (off : Nat) (v : Word) (s : State) : (State.wr off v s).freeCtr = s.freeCtr := rfl
@[simp] theorem State.wr_heldRS (off : Nat) (v : Word) (s : State) : (State.wr off v s).heldRS = s.heldRS := rfl
@[simp] theorem State.wr_pcie (off : Nat) (v : Word) (s : State) : (State.wr off v s).pcie = s.pcie := rfl
@[simp] theorem State.wr_mgmt (off : Nat) (v : Word) (s : State) : (State.wr off v s).mgmt = s.mgmt := rfl
@[simp] theorem State.wr_ledger (off : Nat) (v : Word) (s : State) : (State.wr off v s).ledger = s.ledger := rfl
@[simp] theorem State.wr_side (off : Nat) (v : Word) (s : State) : (State.wr off v s).side = s.side := rfl
@[simp] theorem State.wr_cores (off : Nat) (v : Word) (s : State) : (State.wr off v s).cores = s.cores := rfl
@[simp] theorem State.wr_memory (off : Nat) (v : Word) (s : State) : (State.wr off v s).memory = s.memory := rfl
@[simp] theorem State.wr_power (off : Nat) (v : Word) (s : State) : (State.wr off v s).power = s.power := rfl
@[simp] theorem State.wr_dealer (off : Nat) (v : Word) (s : State) : (State.wr off v s).dealer = s.dealer := rfl
@[simp] theorem State.wr_cvOwner (off : Nat) (v : Word) (s : State) : (State.wr off v s).cvOwner = s.cvOwner := rfl
@[simp] theorem State.wr_serving (off : Nat) (v : Word) (s : State) : (State.wr off v s).serving = s.serving := rfl
@[simp] theorem State.wr_pfx (off : Nat) (v : Word) (s : State) : (State.wr off v s).pfx = s.pfx := rfl
@[simp] theorem State.wr_talon (off : Nat) (v : Word) (s : State) : (State.wr off v s).talon = s.talon := rfl
@[simp] theorem State.wr_ndx (off : Nat) (v : Word) (s : State) : (State.wr off v s).ndx = s.ndx := rfl
@[simp] theorem State.wr_vision (off : Nat) (v : Word) (s : State) : (State.wr off v s).vision = s.vision := rfl
@[simp] theorem State.wr_media (off : Nat) (v : Word) (s : State) : (State.wr off v s).media = s.media := rfl
@[simp] theorem State.wr_update (off : Nat) (v : Word) (s : State) : (State.wr off v s).update = s.update := rfl

/-! ### State.wrN -/

@[simp] theorem State.wrN_pending (off : Nat) (v : Nat) (s : State) : (State.wrN off v s).pending = s.pending := rfl
@[simp] theorem State.wrN_fuses (off : Nat) (v : Nat) (s : State) : (State.wrN off v s).fuses = s.fuses := rfl
@[simp] theorem State.wrN_now (off : Nat) (v : Nat) (s : State) : (State.wrN off v s).now = s.now := rfl
@[simp] theorem State.wrN_freeCtr (off : Nat) (v : Nat) (s : State) : (State.wrN off v s).freeCtr = s.freeCtr := rfl
@[simp] theorem State.wrN_heldRS (off : Nat) (v : Nat) (s : State) : (State.wrN off v s).heldRS = s.heldRS := rfl
@[simp] theorem State.wrN_pcie (off : Nat) (v : Nat) (s : State) : (State.wrN off v s).pcie = s.pcie := rfl
@[simp] theorem State.wrN_mgmt (off : Nat) (v : Nat) (s : State) : (State.wrN off v s).mgmt = s.mgmt := rfl
@[simp] theorem State.wrN_ledger (off : Nat) (v : Nat) (s : State) : (State.wrN off v s).ledger = s.ledger := rfl
@[simp] theorem State.wrN_side (off : Nat) (v : Nat) (s : State) : (State.wrN off v s).side = s.side := rfl
@[simp] theorem State.wrN_cores (off : Nat) (v : Nat) (s : State) : (State.wrN off v s).cores = s.cores := rfl
@[simp] theorem State.wrN_memory (off : Nat) (v : Nat) (s : State) : (State.wrN off v s).memory = s.memory := rfl
@[simp] theorem State.wrN_power (off : Nat) (v : Nat) (s : State) : (State.wrN off v s).power = s.power := rfl
@[simp] theorem State.wrN_dealer (off : Nat) (v : Nat) (s : State) : (State.wrN off v s).dealer = s.dealer := rfl
@[simp] theorem State.wrN_cvOwner (off : Nat) (v : Nat) (s : State) : (State.wrN off v s).cvOwner = s.cvOwner := rfl
@[simp] theorem State.wrN_serving (off : Nat) (v : Nat) (s : State) : (State.wrN off v s).serving = s.serving := rfl
@[simp] theorem State.wrN_pfx (off : Nat) (v : Nat) (s : State) : (State.wrN off v s).pfx = s.pfx := rfl
@[simp] theorem State.wrN_talon (off : Nat) (v : Nat) (s : State) : (State.wrN off v s).talon = s.talon := rfl
@[simp] theorem State.wrN_ndx (off : Nat) (v : Nat) (s : State) : (State.wrN off v s).ndx = s.ndx := rfl
@[simp] theorem State.wrN_vision (off : Nat) (v : Nat) (s : State) : (State.wrN off v s).vision = s.vision := rfl
@[simp] theorem State.wrN_media (off : Nat) (v : Nat) (s : State) : (State.wrN off v s).media = s.media := rfl
@[simp] theorem State.wrN_update (off : Nat) (v : Nat) (s : State) : (State.wrN off v s).update = s.update := rfl

/-! ### State.wrF -/

@[simp] theorem State.wrF_pending (off : Nat) (f : BitField) (v : Nat) (s : State) : (State.wrF off f v s).pending = s.pending := rfl
@[simp] theorem State.wrF_fuses (off : Nat) (f : BitField) (v : Nat) (s : State) : (State.wrF off f v s).fuses = s.fuses := rfl
@[simp] theorem State.wrF_now (off : Nat) (f : BitField) (v : Nat) (s : State) : (State.wrF off f v s).now = s.now := rfl
@[simp] theorem State.wrF_freeCtr (off : Nat) (f : BitField) (v : Nat) (s : State) : (State.wrF off f v s).freeCtr = s.freeCtr := rfl
@[simp] theorem State.wrF_heldRS (off : Nat) (f : BitField) (v : Nat) (s : State) : (State.wrF off f v s).heldRS = s.heldRS := rfl
@[simp] theorem State.wrF_pcie (off : Nat) (f : BitField) (v : Nat) (s : State) : (State.wrF off f v s).pcie = s.pcie := rfl
@[simp] theorem State.wrF_mgmt (off : Nat) (f : BitField) (v : Nat) (s : State) : (State.wrF off f v s).mgmt = s.mgmt := rfl
@[simp] theorem State.wrF_ledger (off : Nat) (f : BitField) (v : Nat) (s : State) : (State.wrF off f v s).ledger = s.ledger := rfl
@[simp] theorem State.wrF_side (off : Nat) (f : BitField) (v : Nat) (s : State) : (State.wrF off f v s).side = s.side := rfl
@[simp] theorem State.wrF_cores (off : Nat) (f : BitField) (v : Nat) (s : State) : (State.wrF off f v s).cores = s.cores := rfl
@[simp] theorem State.wrF_memory (off : Nat) (f : BitField) (v : Nat) (s : State) : (State.wrF off f v s).memory = s.memory := rfl
@[simp] theorem State.wrF_power (off : Nat) (f : BitField) (v : Nat) (s : State) : (State.wrF off f v s).power = s.power := rfl
@[simp] theorem State.wrF_dealer (off : Nat) (f : BitField) (v : Nat) (s : State) : (State.wrF off f v s).dealer = s.dealer := rfl
@[simp] theorem State.wrF_cvOwner (off : Nat) (f : BitField) (v : Nat) (s : State) : (State.wrF off f v s).cvOwner = s.cvOwner := rfl
@[simp] theorem State.wrF_serving (off : Nat) (f : BitField) (v : Nat) (s : State) : (State.wrF off f v s).serving = s.serving := rfl
@[simp] theorem State.wrF_pfx (off : Nat) (f : BitField) (v : Nat) (s : State) : (State.wrF off f v s).pfx = s.pfx := rfl
@[simp] theorem State.wrF_talon (off : Nat) (f : BitField) (v : Nat) (s : State) : (State.wrF off f v s).talon = s.talon := rfl
@[simp] theorem State.wrF_ndx (off : Nat) (f : BitField) (v : Nat) (s : State) : (State.wrF off f v s).ndx = s.ndx := rfl
@[simp] theorem State.wrF_vision (off : Nat) (f : BitField) (v : Nat) (s : State) : (State.wrF off f v s).vision = s.vision := rfl
@[simp] theorem State.wrF_media (off : Nat) (f : BitField) (v : Nat) (s : State) : (State.wrF off f v s).media = s.media := rfl
@[simp] theorem State.wrF_update (off : Nat) (f : BitField) (v : Nat) (s : State) : (State.wrF off f v s).update = s.update := rfl

/-! ### State.wr64 -/

@[simp] theorem State.wr64_pending (off : Nat) (v : Nat) (s : State) : (State.wr64 off v s).pending = s.pending := rfl
@[simp] theorem State.wr64_fuses (off : Nat) (v : Nat) (s : State) : (State.wr64 off v s).fuses = s.fuses := rfl
@[simp] theorem State.wr64_now (off : Nat) (v : Nat) (s : State) : (State.wr64 off v s).now = s.now := rfl
@[simp] theorem State.wr64_freeCtr (off : Nat) (v : Nat) (s : State) : (State.wr64 off v s).freeCtr = s.freeCtr := rfl
@[simp] theorem State.wr64_heldRS (off : Nat) (v : Nat) (s : State) : (State.wr64 off v s).heldRS = s.heldRS := rfl
@[simp] theorem State.wr64_pcie (off : Nat) (v : Nat) (s : State) : (State.wr64 off v s).pcie = s.pcie := rfl
@[simp] theorem State.wr64_mgmt (off : Nat) (v : Nat) (s : State) : (State.wr64 off v s).mgmt = s.mgmt := rfl
@[simp] theorem State.wr64_ledger (off : Nat) (v : Nat) (s : State) : (State.wr64 off v s).ledger = s.ledger := rfl
@[simp] theorem State.wr64_side (off : Nat) (v : Nat) (s : State) : (State.wr64 off v s).side = s.side := rfl
@[simp] theorem State.wr64_cores (off : Nat) (v : Nat) (s : State) : (State.wr64 off v s).cores = s.cores := rfl
@[simp] theorem State.wr64_memory (off : Nat) (v : Nat) (s : State) : (State.wr64 off v s).memory = s.memory := rfl
@[simp] theorem State.wr64_power (off : Nat) (v : Nat) (s : State) : (State.wr64 off v s).power = s.power := rfl
@[simp] theorem State.wr64_dealer (off : Nat) (v : Nat) (s : State) : (State.wr64 off v s).dealer = s.dealer := rfl
@[simp] theorem State.wr64_cvOwner (off : Nat) (v : Nat) (s : State) : (State.wr64 off v s).cvOwner = s.cvOwner := rfl
@[simp] theorem State.wr64_serving (off : Nat) (v : Nat) (s : State) : (State.wr64 off v s).serving = s.serving := rfl
@[simp] theorem State.wr64_pfx (off : Nat) (v : Nat) (s : State) : (State.wr64 off v s).pfx = s.pfx := rfl
@[simp] theorem State.wr64_talon (off : Nat) (v : Nat) (s : State) : (State.wr64 off v s).talon = s.talon := rfl
@[simp] theorem State.wr64_ndx (off : Nat) (v : Nat) (s : State) : (State.wr64 off v s).ndx = s.ndx := rfl
@[simp] theorem State.wr64_vision (off : Nat) (v : Nat) (s : State) : (State.wr64 off v s).vision = s.vision := rfl
@[simp] theorem State.wr64_media (off : Nat) (v : Nat) (s : State) : (State.wr64 off v s).media = s.media := rfl
@[simp] theorem State.wr64_update (off : Nat) (v : Nat) (s : State) : (State.wr64 off v s).update = s.update := rfl

/-! ### State.count -/

@[simp] theorem State.count_pending (off : Nat) (n : Nat) (s : State) : (State.count off n s).pending = s.pending := rfl
@[simp] theorem State.count_fuses (off : Nat) (n : Nat) (s : State) : (State.count off n s).fuses = s.fuses := rfl
@[simp] theorem State.count_now (off : Nat) (n : Nat) (s : State) : (State.count off n s).now = s.now := rfl
@[simp] theorem State.count_freeCtr (off : Nat) (n : Nat) (s : State) : (State.count off n s).freeCtr = s.freeCtr := rfl
@[simp] theorem State.count_heldRS (off : Nat) (n : Nat) (s : State) : (State.count off n s).heldRS = s.heldRS := rfl
@[simp] theorem State.count_pcie (off : Nat) (n : Nat) (s : State) : (State.count off n s).pcie = s.pcie := rfl
@[simp] theorem State.count_mgmt (off : Nat) (n : Nat) (s : State) : (State.count off n s).mgmt = s.mgmt := rfl
@[simp] theorem State.count_ledger (off : Nat) (n : Nat) (s : State) : (State.count off n s).ledger = s.ledger := rfl
@[simp] theorem State.count_side (off : Nat) (n : Nat) (s : State) : (State.count off n s).side = s.side := rfl
@[simp] theorem State.count_cores (off : Nat) (n : Nat) (s : State) : (State.count off n s).cores = s.cores := rfl
@[simp] theorem State.count_memory (off : Nat) (n : Nat) (s : State) : (State.count off n s).memory = s.memory := rfl
@[simp] theorem State.count_power (off : Nat) (n : Nat) (s : State) : (State.count off n s).power = s.power := rfl
@[simp] theorem State.count_dealer (off : Nat) (n : Nat) (s : State) : (State.count off n s).dealer = s.dealer := rfl
@[simp] theorem State.count_cvOwner (off : Nat) (n : Nat) (s : State) : (State.count off n s).cvOwner = s.cvOwner := rfl
@[simp] theorem State.count_serving (off : Nat) (n : Nat) (s : State) : (State.count off n s).serving = s.serving := rfl
@[simp] theorem State.count_pfx (off : Nat) (n : Nat) (s : State) : (State.count off n s).pfx = s.pfx := rfl
@[simp] theorem State.count_talon (off : Nat) (n : Nat) (s : State) : (State.count off n s).talon = s.talon := rfl
@[simp] theorem State.count_ndx (off : Nat) (n : Nat) (s : State) : (State.count off n s).ndx = s.ndx := rfl
@[simp] theorem State.count_vision (off : Nat) (n : Nat) (s : State) : (State.count off n s).vision = s.vision := rfl
@[simp] theorem State.count_media (off : Nat) (n : Nat) (s : State) : (State.count off n s).media = s.media := rfl
@[simp] theorem State.count_update (off : Nat) (n : Nat) (s : State) : (State.count off n s).update = s.update := rfl

/-! ### State.countSat -/

@[simp] theorem State.countSat_pending (off limit : Nat) (n : Nat) (s : State) : (State.countSat off limit n s).pending = s.pending := rfl
@[simp] theorem State.countSat_fuses (off limit : Nat) (n : Nat) (s : State) : (State.countSat off limit n s).fuses = s.fuses := rfl
@[simp] theorem State.countSat_now (off limit : Nat) (n : Nat) (s : State) : (State.countSat off limit n s).now = s.now := rfl
@[simp] theorem State.countSat_freeCtr (off limit : Nat) (n : Nat) (s : State) : (State.countSat off limit n s).freeCtr = s.freeCtr := rfl
@[simp] theorem State.countSat_heldRS (off limit : Nat) (n : Nat) (s : State) : (State.countSat off limit n s).heldRS = s.heldRS := rfl
@[simp] theorem State.countSat_pcie (off limit : Nat) (n : Nat) (s : State) : (State.countSat off limit n s).pcie = s.pcie := rfl
@[simp] theorem State.countSat_mgmt (off limit : Nat) (n : Nat) (s : State) : (State.countSat off limit n s).mgmt = s.mgmt := rfl
@[simp] theorem State.countSat_ledger (off limit : Nat) (n : Nat) (s : State) : (State.countSat off limit n s).ledger = s.ledger := rfl
@[simp] theorem State.countSat_side (off limit : Nat) (n : Nat) (s : State) : (State.countSat off limit n s).side = s.side := rfl
@[simp] theorem State.countSat_cores (off limit : Nat) (n : Nat) (s : State) : (State.countSat off limit n s).cores = s.cores := rfl
@[simp] theorem State.countSat_memory (off limit : Nat) (n : Nat) (s : State) : (State.countSat off limit n s).memory = s.memory := rfl
@[simp] theorem State.countSat_power (off limit : Nat) (n : Nat) (s : State) : (State.countSat off limit n s).power = s.power := rfl
@[simp] theorem State.countSat_dealer (off limit : Nat) (n : Nat) (s : State) : (State.countSat off limit n s).dealer = s.dealer := rfl
@[simp] theorem State.countSat_cvOwner (off limit : Nat) (n : Nat) (s : State) : (State.countSat off limit n s).cvOwner = s.cvOwner := rfl
@[simp] theorem State.countSat_serving (off limit : Nat) (n : Nat) (s : State) : (State.countSat off limit n s).serving = s.serving := rfl
@[simp] theorem State.countSat_pfx (off limit : Nat) (n : Nat) (s : State) : (State.countSat off limit n s).pfx = s.pfx := rfl
@[simp] theorem State.countSat_talon (off limit : Nat) (n : Nat) (s : State) : (State.countSat off limit n s).talon = s.talon := rfl
@[simp] theorem State.countSat_ndx (off limit : Nat) (n : Nat) (s : State) : (State.countSat off limit n s).ndx = s.ndx := rfl
@[simp] theorem State.countSat_vision (off limit : Nat) (n : Nat) (s : State) : (State.countSat off limit n s).vision = s.vision := rfl
@[simp] theorem State.countSat_media (off limit : Nat) (n : Nat) (s : State) : (State.countSat off limit n s).media = s.media := rfl
@[simp] theorem State.countSat_update (off limit : Nat) (n : Nat) (s : State) : (State.countSat off limit n s).update = s.update := rfl

/-! ### State.countF -/

@[simp] theorem State.countF_pending (off : Nat) (f : BitField) (s : State) : (State.countF off f s).pending = s.pending := rfl
@[simp] theorem State.countF_fuses (off : Nat) (f : BitField) (s : State) : (State.countF off f s).fuses = s.fuses := rfl
@[simp] theorem State.countF_now (off : Nat) (f : BitField) (s : State) : (State.countF off f s).now = s.now := rfl
@[simp] theorem State.countF_freeCtr (off : Nat) (f : BitField) (s : State) : (State.countF off f s).freeCtr = s.freeCtr := rfl
@[simp] theorem State.countF_heldRS (off : Nat) (f : BitField) (s : State) : (State.countF off f s).heldRS = s.heldRS := rfl
@[simp] theorem State.countF_pcie (off : Nat) (f : BitField) (s : State) : (State.countF off f s).pcie = s.pcie := rfl
@[simp] theorem State.countF_mgmt (off : Nat) (f : BitField) (s : State) : (State.countF off f s).mgmt = s.mgmt := rfl
@[simp] theorem State.countF_ledger (off : Nat) (f : BitField) (s : State) : (State.countF off f s).ledger = s.ledger := rfl
@[simp] theorem State.countF_side (off : Nat) (f : BitField) (s : State) : (State.countF off f s).side = s.side := rfl
@[simp] theorem State.countF_cores (off : Nat) (f : BitField) (s : State) : (State.countF off f s).cores = s.cores := rfl
@[simp] theorem State.countF_memory (off : Nat) (f : BitField) (s : State) : (State.countF off f s).memory = s.memory := rfl
@[simp] theorem State.countF_power (off : Nat) (f : BitField) (s : State) : (State.countF off f s).power = s.power := rfl
@[simp] theorem State.countF_dealer (off : Nat) (f : BitField) (s : State) : (State.countF off f s).dealer = s.dealer := rfl
@[simp] theorem State.countF_cvOwner (off : Nat) (f : BitField) (s : State) : (State.countF off f s).cvOwner = s.cvOwner := rfl
@[simp] theorem State.countF_serving (off : Nat) (f : BitField) (s : State) : (State.countF off f s).serving = s.serving := rfl
@[simp] theorem State.countF_pfx (off : Nat) (f : BitField) (s : State) : (State.countF off f s).pfx = s.pfx := rfl
@[simp] theorem State.countF_talon (off : Nat) (f : BitField) (s : State) : (State.countF off f s).talon = s.talon := rfl
@[simp] theorem State.countF_ndx (off : Nat) (f : BitField) (s : State) : (State.countF off f s).ndx = s.ndx := rfl
@[simp] theorem State.countF_vision (off : Nat) (f : BitField) (s : State) : (State.countF off f s).vision = s.vision := rfl
@[simp] theorem State.countF_media (off : Nat) (f : BitField) (s : State) : (State.countF off f s).media = s.media := rfl
@[simp] theorem State.countF_update (off : Nat) (f : BitField) (s : State) : (State.countF off f s).update = s.update := rfl

/-! ### State.resetRegs -/

@[simp] theorem State.resetRegs_pending (lo n : Nat) (s : State) : (State.resetRegs lo n s).pending = s.pending := rfl
@[simp] theorem State.resetRegs_fuses (lo n : Nat) (s : State) : (State.resetRegs lo n s).fuses = s.fuses := rfl
@[simp] theorem State.resetRegs_now (lo n : Nat) (s : State) : (State.resetRegs lo n s).now = s.now := rfl
@[simp] theorem State.resetRegs_freeCtr (lo n : Nat) (s : State) : (State.resetRegs lo n s).freeCtr = s.freeCtr := rfl
@[simp] theorem State.resetRegs_pcie (lo n : Nat) (s : State) : (State.resetRegs lo n s).pcie = s.pcie := rfl
@[simp] theorem State.resetRegs_mgmt (lo n : Nat) (s : State) : (State.resetRegs lo n s).mgmt = s.mgmt := rfl
@[simp] theorem State.resetRegs_ledger (lo n : Nat) (s : State) : (State.resetRegs lo n s).ledger = s.ledger := rfl
@[simp] theorem State.resetRegs_side (lo n : Nat) (s : State) : (State.resetRegs lo n s).side = s.side := rfl
@[simp] theorem State.resetRegs_cores (lo n : Nat) (s : State) : (State.resetRegs lo n s).cores = s.cores := rfl
@[simp] theorem State.resetRegs_memory (lo n : Nat) (s : State) : (State.resetRegs lo n s).memory = s.memory := rfl
@[simp] theorem State.resetRegs_power (lo n : Nat) (s : State) : (State.resetRegs lo n s).power = s.power := rfl
@[simp] theorem State.resetRegs_dealer (lo n : Nat) (s : State) : (State.resetRegs lo n s).dealer = s.dealer := rfl
@[simp] theorem State.resetRegs_cvOwner (lo n : Nat) (s : State) : (State.resetRegs lo n s).cvOwner = s.cvOwner := rfl
@[simp] theorem State.resetRegs_serving (lo n : Nat) (s : State) : (State.resetRegs lo n s).serving = s.serving := rfl
@[simp] theorem State.resetRegs_pfx (lo n : Nat) (s : State) : (State.resetRegs lo n s).pfx = s.pfx := rfl
@[simp] theorem State.resetRegs_talon (lo n : Nat) (s : State) : (State.resetRegs lo n s).talon = s.talon := rfl
@[simp] theorem State.resetRegs_ndx (lo n : Nat) (s : State) : (State.resetRegs lo n s).ndx = s.ndx := rfl
@[simp] theorem State.resetRegs_vision (lo n : Nat) (s : State) : (State.resetRegs lo n s).vision = s.vision := rfl
@[simp] theorem State.resetRegs_media (lo n : Nat) (s : State) : (State.resetRegs lo n s).media = s.media := rfl
@[simp] theorem State.resetRegs_update (lo n : Nat) (s : State) : (State.resetRegs lo n s).update = s.update := rfl

/-! ### State.commitRS -/

@[simp] theorem State.commitRS_pending (p : Nat → Bool) (s : State) : (State.commitRS p s).pending = s.pending := rfl
@[simp] theorem State.commitRS_fuses (p : Nat → Bool) (s : State) : (State.commitRS p s).fuses = s.fuses := rfl
@[simp] theorem State.commitRS_now (p : Nat → Bool) (s : State) : (State.commitRS p s).now = s.now := rfl
@[simp] theorem State.commitRS_freeCtr (p : Nat → Bool) (s : State) : (State.commitRS p s).freeCtr = s.freeCtr := rfl
@[simp] theorem State.commitRS_pcie (p : Nat → Bool) (s : State) : (State.commitRS p s).pcie = s.pcie := rfl
@[simp] theorem State.commitRS_mgmt (p : Nat → Bool) (s : State) : (State.commitRS p s).mgmt = s.mgmt := rfl
@[simp] theorem State.commitRS_ledger (p : Nat → Bool) (s : State) : (State.commitRS p s).ledger = s.ledger := rfl
@[simp] theorem State.commitRS_side (p : Nat → Bool) (s : State) : (State.commitRS p s).side = s.side := rfl
@[simp] theorem State.commitRS_cores (p : Nat → Bool) (s : State) : (State.commitRS p s).cores = s.cores := rfl
@[simp] theorem State.commitRS_memory (p : Nat → Bool) (s : State) : (State.commitRS p s).memory = s.memory := rfl
@[simp] theorem State.commitRS_power (p : Nat → Bool) (s : State) : (State.commitRS p s).power = s.power := rfl
@[simp] theorem State.commitRS_dealer (p : Nat → Bool) (s : State) : (State.commitRS p s).dealer = s.dealer := rfl
@[simp] theorem State.commitRS_cvOwner (p : Nat → Bool) (s : State) : (State.commitRS p s).cvOwner = s.cvOwner := rfl
@[simp] theorem State.commitRS_serving (p : Nat → Bool) (s : State) : (State.commitRS p s).serving = s.serving := rfl
@[simp] theorem State.commitRS_pfx (p : Nat → Bool) (s : State) : (State.commitRS p s).pfx = s.pfx := rfl
@[simp] theorem State.commitRS_talon (p : Nat → Bool) (s : State) : (State.commitRS p s).talon = s.talon := rfl
@[simp] theorem State.commitRS_ndx (p : Nat → Bool) (s : State) : (State.commitRS p s).ndx = s.ndx := rfl
@[simp] theorem State.commitRS_vision (p : Nat → Bool) (s : State) : (State.commitRS p s).vision = s.vision := rfl
@[simp] theorem State.commitRS_media (p : Nat → Bool) (s : State) : (State.commitRS p s).media = s.media := rfl
@[simp] theorem State.commitRS_update (p : Nat → Bool) (s : State) : (State.commitRS p s).update = s.update := rfl

/-! ### State.drawn -/

@[simp] theorem State.drawn_pending (s : State) : (State.drawn  s).pending = s.pending := rfl
@[simp] theorem State.drawn_fuses (s : State) : (State.drawn  s).fuses = s.fuses := rfl
@[simp] theorem State.drawn_now (s : State) : (State.drawn  s).now = s.now := rfl
@[simp] theorem State.drawn_regs (s : State) : (State.drawn  s).regs = s.regs := rfl
@[simp] theorem State.drawn_heldRS (s : State) : (State.drawn  s).heldRS = s.heldRS := rfl
@[simp] theorem State.drawn_pcie (s : State) : (State.drawn  s).pcie = s.pcie := rfl
@[simp] theorem State.drawn_mgmt (s : State) : (State.drawn  s).mgmt = s.mgmt := rfl
@[simp] theorem State.drawn_ledger (s : State) : (State.drawn  s).ledger = s.ledger := rfl
@[simp] theorem State.drawn_side (s : State) : (State.drawn  s).side = s.side := rfl
@[simp] theorem State.drawn_cores (s : State) : (State.drawn  s).cores = s.cores := rfl
@[simp] theorem State.drawn_memory (s : State) : (State.drawn  s).memory = s.memory := rfl
@[simp] theorem State.drawn_power (s : State) : (State.drawn  s).power = s.power := rfl
@[simp] theorem State.drawn_dealer (s : State) : (State.drawn  s).dealer = s.dealer := rfl
@[simp] theorem State.drawn_cvOwner (s : State) : (State.drawn  s).cvOwner = s.cvOwner := rfl
@[simp] theorem State.drawn_serving (s : State) : (State.drawn  s).serving = s.serving := rfl
@[simp] theorem State.drawn_pfx (s : State) : (State.drawn  s).pfx = s.pfx := rfl
@[simp] theorem State.drawn_talon (s : State) : (State.drawn  s).talon = s.talon := rfl
@[simp] theorem State.drawn_ndx (s : State) : (State.drawn  s).ndx = s.ndx := rfl
@[simp] theorem State.drawn_vision (s : State) : (State.drawn  s).vision = s.vision := rfl
@[simp] theorem State.drawn_media (s : State) : (State.drawn  s).media = s.media := rfl
@[simp] theorem State.drawn_update (s : State) : (State.drawn  s).update = s.update := rfl

/-! ### State.putBit -/

@[simp] theorem State.putBit_pending (off i : Nat) (b : Bool) (s : State) : (State.putBit off i b s).pending = s.pending := rfl
@[simp] theorem State.putBit_fuses (off i : Nat) (b : Bool) (s : State) : (State.putBit off i b s).fuses = s.fuses := rfl
@[simp] theorem State.putBit_now (off i : Nat) (b : Bool) (s : State) : (State.putBit off i b s).now = s.now := rfl
@[simp] theorem State.putBit_freeCtr (off i : Nat) (b : Bool) (s : State) : (State.putBit off i b s).freeCtr = s.freeCtr := rfl
@[simp] theorem State.putBit_heldRS (off i : Nat) (b : Bool) (s : State) : (State.putBit off i b s).heldRS = s.heldRS := rfl
@[simp] theorem State.putBit_pcie (off i : Nat) (b : Bool) (s : State) : (State.putBit off i b s).pcie = s.pcie := rfl
@[simp] theorem State.putBit_mgmt (off i : Nat) (b : Bool) (s : State) : (State.putBit off i b s).mgmt = s.mgmt := rfl
@[simp] theorem State.putBit_ledger (off i : Nat) (b : Bool) (s : State) : (State.putBit off i b s).ledger = s.ledger := rfl
@[simp] theorem State.putBit_side (off i : Nat) (b : Bool) (s : State) : (State.putBit off i b s).side = s.side := rfl
@[simp] theorem State.putBit_cores (off i : Nat) (b : Bool) (s : State) : (State.putBit off i b s).cores = s.cores := rfl
@[simp] theorem State.putBit_memory (off i : Nat) (b : Bool) (s : State) : (State.putBit off i b s).memory = s.memory := rfl
@[simp] theorem State.putBit_power (off i : Nat) (b : Bool) (s : State) : (State.putBit off i b s).power = s.power := rfl
@[simp] theorem State.putBit_dealer (off i : Nat) (b : Bool) (s : State) : (State.putBit off i b s).dealer = s.dealer := rfl
@[simp] theorem State.putBit_cvOwner (off i : Nat) (b : Bool) (s : State) : (State.putBit off i b s).cvOwner = s.cvOwner := rfl
@[simp] theorem State.putBit_serving (off i : Nat) (b : Bool) (s : State) : (State.putBit off i b s).serving = s.serving := rfl
@[simp] theorem State.putBit_pfx (off i : Nat) (b : Bool) (s : State) : (State.putBit off i b s).pfx = s.pfx := rfl
@[simp] theorem State.putBit_talon (off i : Nat) (b : Bool) (s : State) : (State.putBit off i b s).talon = s.talon := rfl
@[simp] theorem State.putBit_ndx (off i : Nat) (b : Bool) (s : State) : (State.putBit off i b s).ndx = s.ndx := rfl
@[simp] theorem State.putBit_vision (off i : Nat) (b : Bool) (s : State) : (State.putBit off i b s).vision = s.vision := rfl
@[simp] theorem State.putBit_media (off i : Nat) (b : Bool) (s : State) : (State.putBit off i b s).media = s.media := rfl
@[simp] theorem State.putBit_update (off i : Nat) (b : Bool) (s : State) : (State.putBit off i b s).update = s.update := rfl

/-! ### State.emit -/

@[simp] theorem State.emit_pending (m : Sent) (s : State) : (State.emit m s).pending = s.pending := rfl
@[simp] theorem State.emit_fuses (m : Sent) (s : State) : (State.emit m s).fuses = s.fuses := rfl
@[simp] theorem State.emit_now (m : Sent) (s : State) : (State.emit m s).now = s.now := rfl
@[simp] theorem State.emit_freeCtr (m : Sent) (s : State) : (State.emit m s).freeCtr = s.freeCtr := rfl
@[simp] theorem State.emit_regs (m : Sent) (s : State) : (State.emit m s).regs = s.regs := rfl
@[simp] theorem State.emit_heldRS (m : Sent) (s : State) : (State.emit m s).heldRS = s.heldRS := rfl
@[simp] theorem State.emit_mgmt (m : Sent) (s : State) : (State.emit m s).mgmt = s.mgmt := rfl
@[simp] theorem State.emit_ledger (m : Sent) (s : State) : (State.emit m s).ledger = s.ledger := rfl
@[simp] theorem State.emit_side (m : Sent) (s : State) : (State.emit m s).side = s.side := rfl
@[simp] theorem State.emit_cores (m : Sent) (s : State) : (State.emit m s).cores = s.cores := rfl
@[simp] theorem State.emit_memory (m : Sent) (s : State) : (State.emit m s).memory = s.memory := rfl
@[simp] theorem State.emit_power (m : Sent) (s : State) : (State.emit m s).power = s.power := rfl
@[simp] theorem State.emit_dealer (m : Sent) (s : State) : (State.emit m s).dealer = s.dealer := rfl
@[simp] theorem State.emit_cvOwner (m : Sent) (s : State) : (State.emit m s).cvOwner = s.cvOwner := rfl
@[simp] theorem State.emit_serving (m : Sent) (s : State) : (State.emit m s).serving = s.serving := rfl
@[simp] theorem State.emit_pfx (m : Sent) (s : State) : (State.emit m s).pfx = s.pfx := rfl
@[simp] theorem State.emit_talon (m : Sent) (s : State) : (State.emit m s).talon = s.talon := rfl
@[simp] theorem State.emit_ndx (m : Sent) (s : State) : (State.emit m s).ndx = s.ndx := rfl
@[simp] theorem State.emit_vision (m : Sent) (s : State) : (State.emit m s).vision = s.vision := rfl
@[simp] theorem State.emit_media (m : Sent) (s : State) : (State.emit m s).media = s.media := rfl
@[simp] theorem State.emit_update (m : Sent) (s : State) : (State.emit m s).update = s.update := rfl

/-! ### State.driveAlert -/

@[simp] theorem State.driveAlert_pending (s : State) : (State.driveAlert  s).pending = s.pending := rfl
@[simp] theorem State.driveAlert_fuses (s : State) : (State.driveAlert  s).fuses = s.fuses := rfl
@[simp] theorem State.driveAlert_now (s : State) : (State.driveAlert  s).now = s.now := rfl
@[simp] theorem State.driveAlert_freeCtr (s : State) : (State.driveAlert  s).freeCtr = s.freeCtr := rfl
@[simp] theorem State.driveAlert_regs (s : State) : (State.driveAlert  s).regs = s.regs := rfl
@[simp] theorem State.driveAlert_heldRS (s : State) : (State.driveAlert  s).heldRS = s.heldRS := rfl
@[simp] theorem State.driveAlert_pcie (s : State) : (State.driveAlert  s).pcie = s.pcie := rfl
@[simp] theorem State.driveAlert_mgmt (s : State) : (State.driveAlert  s).mgmt = s.mgmt := rfl
@[simp] theorem State.driveAlert_ledger (s : State) : (State.driveAlert  s).ledger = s.ledger := rfl
@[simp] theorem State.driveAlert_cores (s : State) : (State.driveAlert  s).cores = s.cores := rfl
@[simp] theorem State.driveAlert_memory (s : State) : (State.driveAlert  s).memory = s.memory := rfl
@[simp] theorem State.driveAlert_power (s : State) : (State.driveAlert  s).power = s.power := rfl
@[simp] theorem State.driveAlert_dealer (s : State) : (State.driveAlert  s).dealer = s.dealer := rfl
@[simp] theorem State.driveAlert_cvOwner (s : State) : (State.driveAlert  s).cvOwner = s.cvOwner := rfl
@[simp] theorem State.driveAlert_serving (s : State) : (State.driveAlert  s).serving = s.serving := rfl
@[simp] theorem State.driveAlert_pfx (s : State) : (State.driveAlert  s).pfx = s.pfx := rfl
@[simp] theorem State.driveAlert_talon (s : State) : (State.driveAlert  s).talon = s.talon := rfl
@[simp] theorem State.driveAlert_ndx (s : State) : (State.driveAlert  s).ndx = s.ndx := rfl
@[simp] theorem State.driveAlert_vision (s : State) : (State.driveAlert  s).vision = s.vision := rfl
@[simp] theorem State.driveAlert_media (s : State) : (State.driveAlert  s).media = s.media := rfl
@[simp] theorem State.driveAlert_update (s : State) : (State.driveAlert  s).update = s.update := rfl

/-! ### State.ledgerPut -/

@[simp] theorem State.ledgerPut_pending (part idx v : Nat) (s : State) : (State.ledgerPut part idx v s).pending = s.pending := rfl
@[simp] theorem State.ledgerPut_fuses (part idx v : Nat) (s : State) : (State.ledgerPut part idx v s).fuses = s.fuses := rfl
@[simp] theorem State.ledgerPut_now (part idx v : Nat) (s : State) : (State.ledgerPut part idx v s).now = s.now := rfl
@[simp] theorem State.ledgerPut_freeCtr (part idx v : Nat) (s : State) : (State.ledgerPut part idx v s).freeCtr = s.freeCtr := rfl
@[simp] theorem State.ledgerPut_regs (part idx v : Nat) (s : State) : (State.ledgerPut part idx v s).regs = s.regs := rfl
@[simp] theorem State.ledgerPut_heldRS (part idx v : Nat) (s : State) : (State.ledgerPut part idx v s).heldRS = s.heldRS := rfl
@[simp] theorem State.ledgerPut_pcie (part idx v : Nat) (s : State) : (State.ledgerPut part idx v s).pcie = s.pcie := rfl
@[simp] theorem State.ledgerPut_mgmt (part idx v : Nat) (s : State) : (State.ledgerPut part idx v s).mgmt = s.mgmt := rfl
@[simp] theorem State.ledgerPut_side (part idx v : Nat) (s : State) : (State.ledgerPut part idx v s).side = s.side := rfl
@[simp] theorem State.ledgerPut_cores (part idx v : Nat) (s : State) : (State.ledgerPut part idx v s).cores = s.cores := rfl
@[simp] theorem State.ledgerPut_memory (part idx v : Nat) (s : State) : (State.ledgerPut part idx v s).memory = s.memory := rfl
@[simp] theorem State.ledgerPut_power (part idx v : Nat) (s : State) : (State.ledgerPut part idx v s).power = s.power := rfl
@[simp] theorem State.ledgerPut_dealer (part idx v : Nat) (s : State) : (State.ledgerPut part idx v s).dealer = s.dealer := rfl
@[simp] theorem State.ledgerPut_cvOwner (part idx v : Nat) (s : State) : (State.ledgerPut part idx v s).cvOwner = s.cvOwner := rfl
@[simp] theorem State.ledgerPut_serving (part idx v : Nat) (s : State) : (State.ledgerPut part idx v s).serving = s.serving := rfl
@[simp] theorem State.ledgerPut_pfx (part idx v : Nat) (s : State) : (State.ledgerPut part idx v s).pfx = s.pfx := rfl
@[simp] theorem State.ledgerPut_talon (part idx v : Nat) (s : State) : (State.ledgerPut part idx v s).talon = s.talon := rfl
@[simp] theorem State.ledgerPut_ndx (part idx v : Nat) (s : State) : (State.ledgerPut part idx v s).ndx = s.ndx := rfl
@[simp] theorem State.ledgerPut_vision (part idx v : Nat) (s : State) : (State.ledgerPut part idx v s).vision = s.vision := rfl
@[simp] theorem State.ledgerPut_media (part idx v : Nat) (s : State) : (State.ledgerPut part idx v s).media = s.media := rfl
@[simp] theorem State.ledgerPut_update (part idx v : Nat) (s : State) : (State.ledgerPut part idx v s).update = s.update := rfl

/-! ### State.ledgerAdd -/

@[simp] theorem State.ledgerAdd_pending (part idx : Nat) (n : Nat) (s : State) : (State.ledgerAdd part idx n s).pending = s.pending := rfl
@[simp] theorem State.ledgerAdd_fuses (part idx : Nat) (n : Nat) (s : State) : (State.ledgerAdd part idx n s).fuses = s.fuses := rfl
@[simp] theorem State.ledgerAdd_now (part idx : Nat) (n : Nat) (s : State) : (State.ledgerAdd part idx n s).now = s.now := rfl
@[simp] theorem State.ledgerAdd_freeCtr (part idx : Nat) (n : Nat) (s : State) : (State.ledgerAdd part idx n s).freeCtr = s.freeCtr := rfl
@[simp] theorem State.ledgerAdd_regs (part idx : Nat) (n : Nat) (s : State) : (State.ledgerAdd part idx n s).regs = s.regs := rfl
@[simp] theorem State.ledgerAdd_heldRS (part idx : Nat) (n : Nat) (s : State) : (State.ledgerAdd part idx n s).heldRS = s.heldRS := rfl
@[simp] theorem State.ledgerAdd_pcie (part idx : Nat) (n : Nat) (s : State) : (State.ledgerAdd part idx n s).pcie = s.pcie := rfl
@[simp] theorem State.ledgerAdd_mgmt (part idx : Nat) (n : Nat) (s : State) : (State.ledgerAdd part idx n s).mgmt = s.mgmt := rfl
@[simp] theorem State.ledgerAdd_side (part idx : Nat) (n : Nat) (s : State) : (State.ledgerAdd part idx n s).side = s.side := rfl
@[simp] theorem State.ledgerAdd_cores (part idx : Nat) (n : Nat) (s : State) : (State.ledgerAdd part idx n s).cores = s.cores := rfl
@[simp] theorem State.ledgerAdd_memory (part idx : Nat) (n : Nat) (s : State) : (State.ledgerAdd part idx n s).memory = s.memory := rfl
@[simp] theorem State.ledgerAdd_power (part idx : Nat) (n : Nat) (s : State) : (State.ledgerAdd part idx n s).power = s.power := rfl
@[simp] theorem State.ledgerAdd_dealer (part idx : Nat) (n : Nat) (s : State) : (State.ledgerAdd part idx n s).dealer = s.dealer := rfl
@[simp] theorem State.ledgerAdd_cvOwner (part idx : Nat) (n : Nat) (s : State) : (State.ledgerAdd part idx n s).cvOwner = s.cvOwner := rfl
@[simp] theorem State.ledgerAdd_serving (part idx : Nat) (n : Nat) (s : State) : (State.ledgerAdd part idx n s).serving = s.serving := rfl
@[simp] theorem State.ledgerAdd_pfx (part idx : Nat) (n : Nat) (s : State) : (State.ledgerAdd part idx n s).pfx = s.pfx := rfl
@[simp] theorem State.ledgerAdd_talon (part idx : Nat) (n : Nat) (s : State) : (State.ledgerAdd part idx n s).talon = s.talon := rfl
@[simp] theorem State.ledgerAdd_ndx (part idx : Nat) (n : Nat) (s : State) : (State.ledgerAdd part idx n s).ndx = s.ndx := rfl
@[simp] theorem State.ledgerAdd_vision (part idx : Nat) (n : Nat) (s : State) : (State.ledgerAdd part idx n s).vision = s.vision := rfl
@[simp] theorem State.ledgerAdd_media (part idx : Nat) (n : Nat) (s : State) : (State.ledgerAdd part idx n s).media = s.media := rfl
@[simp] theorem State.ledgerAdd_update (part idx : Nat) (n : Nat) (s : State) : (State.ledgerAdd part idx n s).update = s.update := rfl

/-! ### State.ledgerMax -/

@[simp] theorem State.ledgerMax_pending (part idx v : Nat) (s : State) : (State.ledgerMax part idx v s).pending = s.pending := rfl
@[simp] theorem State.ledgerMax_fuses (part idx v : Nat) (s : State) : (State.ledgerMax part idx v s).fuses = s.fuses := rfl
@[simp] theorem State.ledgerMax_now (part idx v : Nat) (s : State) : (State.ledgerMax part idx v s).now = s.now := rfl
@[simp] theorem State.ledgerMax_freeCtr (part idx v : Nat) (s : State) : (State.ledgerMax part idx v s).freeCtr = s.freeCtr := rfl
@[simp] theorem State.ledgerMax_regs (part idx v : Nat) (s : State) : (State.ledgerMax part idx v s).regs = s.regs := rfl
@[simp] theorem State.ledgerMax_heldRS (part idx v : Nat) (s : State) : (State.ledgerMax part idx v s).heldRS = s.heldRS := rfl
@[simp] theorem State.ledgerMax_pcie (part idx v : Nat) (s : State) : (State.ledgerMax part idx v s).pcie = s.pcie := rfl
@[simp] theorem State.ledgerMax_mgmt (part idx v : Nat) (s : State) : (State.ledgerMax part idx v s).mgmt = s.mgmt := rfl
@[simp] theorem State.ledgerMax_side (part idx v : Nat) (s : State) : (State.ledgerMax part idx v s).side = s.side := rfl
@[simp] theorem State.ledgerMax_cores (part idx v : Nat) (s : State) : (State.ledgerMax part idx v s).cores = s.cores := rfl
@[simp] theorem State.ledgerMax_memory (part idx v : Nat) (s : State) : (State.ledgerMax part idx v s).memory = s.memory := rfl
@[simp] theorem State.ledgerMax_power (part idx v : Nat) (s : State) : (State.ledgerMax part idx v s).power = s.power := rfl
@[simp] theorem State.ledgerMax_dealer (part idx v : Nat) (s : State) : (State.ledgerMax part idx v s).dealer = s.dealer := rfl
@[simp] theorem State.ledgerMax_cvOwner (part idx v : Nat) (s : State) : (State.ledgerMax part idx v s).cvOwner = s.cvOwner := rfl
@[simp] theorem State.ledgerMax_serving (part idx v : Nat) (s : State) : (State.ledgerMax part idx v s).serving = s.serving := rfl
@[simp] theorem State.ledgerMax_pfx (part idx v : Nat) (s : State) : (State.ledgerMax part idx v s).pfx = s.pfx := rfl
@[simp] theorem State.ledgerMax_talon (part idx v : Nat) (s : State) : (State.ledgerMax part idx v s).talon = s.talon := rfl
@[simp] theorem State.ledgerMax_ndx (part idx v : Nat) (s : State) : (State.ledgerMax part idx v s).ndx = s.ndx := rfl
@[simp] theorem State.ledgerMax_vision (part idx v : Nat) (s : State) : (State.ledgerMax part idx v s).vision = s.vision := rfl
@[simp] theorem State.ledgerMax_media (part idx v : Nat) (s : State) : (State.ledgerMax part idx v s).media = s.media := rfl
@[simp] theorem State.ledgerMax_update (part idx v : Nat) (s : State) : (State.ledgerMax part idx v s).update = s.update := rfl

/-! ### State.hostReading -/

@[simp] theorem State.hostReading_pending (s : State) : (State.hostReading  s).pending = s.pending := rfl
@[simp] theorem State.hostReading_fuses (s : State) : (State.hostReading  s).fuses = s.fuses := rfl
@[simp] theorem State.hostReading_now (s : State) : (State.hostReading  s).now = s.now := rfl
@[simp] theorem State.hostReading_freeCtr (s : State) : (State.hostReading  s).freeCtr = s.freeCtr := rfl
@[simp] theorem State.hostReading_pcie (s : State) : (State.hostReading  s).pcie = s.pcie := rfl
@[simp] theorem State.hostReading_mgmt (s : State) : (State.hostReading  s).mgmt = s.mgmt := rfl
@[simp] theorem State.hostReading_ledger (s : State) : (State.hostReading  s).ledger = s.ledger := rfl
@[simp] theorem State.hostReading_side (s : State) : (State.hostReading  s).side = s.side := rfl
@[simp] theorem State.hostReading_cores (s : State) : (State.hostReading  s).cores = s.cores := rfl
@[simp] theorem State.hostReading_memory (s : State) : (State.hostReading  s).memory = s.memory := rfl
@[simp] theorem State.hostReading_power (s : State) : (State.hostReading  s).power = s.power := rfl
@[simp] theorem State.hostReading_dealer (s : State) : (State.hostReading  s).dealer = s.dealer := rfl
@[simp] theorem State.hostReading_cvOwner (s : State) : (State.hostReading  s).cvOwner = s.cvOwner := rfl
@[simp] theorem State.hostReading_serving (s : State) : (State.hostReading  s).serving = s.serving := rfl
@[simp] theorem State.hostReading_pfx (s : State) : (State.hostReading  s).pfx = s.pfx := rfl
@[simp] theorem State.hostReading_talon (s : State) : (State.hostReading  s).talon = s.talon := rfl
@[simp] theorem State.hostReading_ndx (s : State) : (State.hostReading  s).ndx = s.ndx := rfl
@[simp] theorem State.hostReading_vision (s : State) : (State.hostReading  s).vision = s.vision := rfl
@[simp] theorem State.hostReading_media (s : State) : (State.hostReading  s).media = s.media := rfl
@[simp] theorem State.hostReading_update (s : State) : (State.hostReading  s).update = s.update := rfl

/-! ### State.putServing -/

@[simp] theorem State.putServing_pending (p : Nat) (x : PartServing) (s : State) : (State.putServing p x s).pending = s.pending := rfl
@[simp] theorem State.putServing_fuses (p : Nat) (x : PartServing) (s : State) : (State.putServing p x s).fuses = s.fuses := rfl
@[simp] theorem State.putServing_now (p : Nat) (x : PartServing) (s : State) : (State.putServing p x s).now = s.now := rfl
@[simp] theorem State.putServing_freeCtr (p : Nat) (x : PartServing) (s : State) : (State.putServing p x s).freeCtr = s.freeCtr := rfl
@[simp] theorem State.putServing_regs (p : Nat) (x : PartServing) (s : State) : (State.putServing p x s).regs = s.regs := rfl
@[simp] theorem State.putServing_heldRS (p : Nat) (x : PartServing) (s : State) : (State.putServing p x s).heldRS = s.heldRS := rfl
@[simp] theorem State.putServing_pcie (p : Nat) (x : PartServing) (s : State) : (State.putServing p x s).pcie = s.pcie := rfl
@[simp] theorem State.putServing_mgmt (p : Nat) (x : PartServing) (s : State) : (State.putServing p x s).mgmt = s.mgmt := rfl
@[simp] theorem State.putServing_ledger (p : Nat) (x : PartServing) (s : State) : (State.putServing p x s).ledger = s.ledger := rfl
@[simp] theorem State.putServing_side (p : Nat) (x : PartServing) (s : State) : (State.putServing p x s).side = s.side := rfl
@[simp] theorem State.putServing_cores (p : Nat) (x : PartServing) (s : State) : (State.putServing p x s).cores = s.cores := rfl
@[simp] theorem State.putServing_memory (p : Nat) (x : PartServing) (s : State) : (State.putServing p x s).memory = s.memory := rfl
@[simp] theorem State.putServing_power (p : Nat) (x : PartServing) (s : State) : (State.putServing p x s).power = s.power := rfl
@[simp] theorem State.putServing_dealer (p : Nat) (x : PartServing) (s : State) : (State.putServing p x s).dealer = s.dealer := rfl
@[simp] theorem State.putServing_cvOwner (p : Nat) (x : PartServing) (s : State) : (State.putServing p x s).cvOwner = s.cvOwner := rfl
@[simp] theorem State.putServing_pfx (p : Nat) (x : PartServing) (s : State) : (State.putServing p x s).pfx = s.pfx := rfl
@[simp] theorem State.putServing_talon (p : Nat) (x : PartServing) (s : State) : (State.putServing p x s).talon = s.talon := rfl
@[simp] theorem State.putServing_ndx (p : Nat) (x : PartServing) (s : State) : (State.putServing p x s).ndx = s.ndx := rfl
@[simp] theorem State.putServing_vision (p : Nat) (x : PartServing) (s : State) : (State.putServing p x s).vision = s.vision := rfl
@[simp] theorem State.putServing_media (p : Nat) (x : PartServing) (s : State) : (State.putServing p x s).media = s.media := rfl
@[simp] theorem State.putServing_update (p : Nat) (x : PartServing) (s : State) : (State.putServing p x s).update = s.update := rfl

/-! ### State.putSlot -/

@[simp] theorem State.putSlot_pending (sl : Nat) (x : SlotServing) (s : State) : (State.putSlot sl x s).pending = s.pending := rfl
@[simp] theorem State.putSlot_fuses (sl : Nat) (x : SlotServing) (s : State) : (State.putSlot sl x s).fuses = s.fuses := rfl
@[simp] theorem State.putSlot_now (sl : Nat) (x : SlotServing) (s : State) : (State.putSlot sl x s).now = s.now := rfl
@[simp] theorem State.putSlot_freeCtr (sl : Nat) (x : SlotServing) (s : State) : (State.putSlot sl x s).freeCtr = s.freeCtr := rfl
@[simp] theorem State.putSlot_regs (sl : Nat) (x : SlotServing) (s : State) : (State.putSlot sl x s).regs = s.regs := rfl
@[simp] theorem State.putSlot_heldRS (sl : Nat) (x : SlotServing) (s : State) : (State.putSlot sl x s).heldRS = s.heldRS := rfl
@[simp] theorem State.putSlot_pcie (sl : Nat) (x : SlotServing) (s : State) : (State.putSlot sl x s).pcie = s.pcie := rfl
@[simp] theorem State.putSlot_mgmt (sl : Nat) (x : SlotServing) (s : State) : (State.putSlot sl x s).mgmt = s.mgmt := rfl
@[simp] theorem State.putSlot_ledger (sl : Nat) (x : SlotServing) (s : State) : (State.putSlot sl x s).ledger = s.ledger := rfl
@[simp] theorem State.putSlot_side (sl : Nat) (x : SlotServing) (s : State) : (State.putSlot sl x s).side = s.side := rfl
@[simp] theorem State.putSlot_cores (sl : Nat) (x : SlotServing) (s : State) : (State.putSlot sl x s).cores = s.cores := rfl
@[simp] theorem State.putSlot_memory (sl : Nat) (x : SlotServing) (s : State) : (State.putSlot sl x s).memory = s.memory := rfl
@[simp] theorem State.putSlot_power (sl : Nat) (x : SlotServing) (s : State) : (State.putSlot sl x s).power = s.power := rfl
@[simp] theorem State.putSlot_dealer (sl : Nat) (x : SlotServing) (s : State) : (State.putSlot sl x s).dealer = s.dealer := rfl
@[simp] theorem State.putSlot_cvOwner (sl : Nat) (x : SlotServing) (s : State) : (State.putSlot sl x s).cvOwner = s.cvOwner := rfl
@[simp] theorem State.putSlot_pfx (sl : Nat) (x : SlotServing) (s : State) : (State.putSlot sl x s).pfx = s.pfx := rfl
@[simp] theorem State.putSlot_talon (sl : Nat) (x : SlotServing) (s : State) : (State.putSlot sl x s).talon = s.talon := rfl
@[simp] theorem State.putSlot_ndx (sl : Nat) (x : SlotServing) (s : State) : (State.putSlot sl x s).ndx = s.ndx := rfl
@[simp] theorem State.putSlot_vision (sl : Nat) (x : SlotServing) (s : State) : (State.putSlot sl x s).vision = s.vision := rfl
@[simp] theorem State.putSlot_media (sl : Nat) (x : SlotServing) (s : State) : (State.putSlot sl x s).media = s.media := rfl
@[simp] theorem State.putSlot_update (sl : Nat) (x : SlotServing) (s : State) : (State.putSlot sl x s).update = s.update := rfl

/-! ### State.updSlot -/

@[simp] theorem State.updSlot_pending (sl : Nat) (f : SlotServing → SlotServing) (s : State) : (State.updSlot sl f s).pending = s.pending := rfl
@[simp] theorem State.updSlot_fuses (sl : Nat) (f : SlotServing → SlotServing) (s : State) : (State.updSlot sl f s).fuses = s.fuses := rfl
@[simp] theorem State.updSlot_now (sl : Nat) (f : SlotServing → SlotServing) (s : State) : (State.updSlot sl f s).now = s.now := rfl
@[simp] theorem State.updSlot_freeCtr (sl : Nat) (f : SlotServing → SlotServing) (s : State) : (State.updSlot sl f s).freeCtr = s.freeCtr := rfl
@[simp] theorem State.updSlot_regs (sl : Nat) (f : SlotServing → SlotServing) (s : State) : (State.updSlot sl f s).regs = s.regs := rfl
@[simp] theorem State.updSlot_heldRS (sl : Nat) (f : SlotServing → SlotServing) (s : State) : (State.updSlot sl f s).heldRS = s.heldRS := rfl
@[simp] theorem State.updSlot_pcie (sl : Nat) (f : SlotServing → SlotServing) (s : State) : (State.updSlot sl f s).pcie = s.pcie := rfl
@[simp] theorem State.updSlot_mgmt (sl : Nat) (f : SlotServing → SlotServing) (s : State) : (State.updSlot sl f s).mgmt = s.mgmt := rfl
@[simp] theorem State.updSlot_ledger (sl : Nat) (f : SlotServing → SlotServing) (s : State) : (State.updSlot sl f s).ledger = s.ledger := rfl
@[simp] theorem State.updSlot_side (sl : Nat) (f : SlotServing → SlotServing) (s : State) : (State.updSlot sl f s).side = s.side := rfl
@[simp] theorem State.updSlot_cores (sl : Nat) (f : SlotServing → SlotServing) (s : State) : (State.updSlot sl f s).cores = s.cores := rfl
@[simp] theorem State.updSlot_memory (sl : Nat) (f : SlotServing → SlotServing) (s : State) : (State.updSlot sl f s).memory = s.memory := rfl
@[simp] theorem State.updSlot_power (sl : Nat) (f : SlotServing → SlotServing) (s : State) : (State.updSlot sl f s).power = s.power := rfl
@[simp] theorem State.updSlot_dealer (sl : Nat) (f : SlotServing → SlotServing) (s : State) : (State.updSlot sl f s).dealer = s.dealer := rfl
@[simp] theorem State.updSlot_cvOwner (sl : Nat) (f : SlotServing → SlotServing) (s : State) : (State.updSlot sl f s).cvOwner = s.cvOwner := rfl
@[simp] theorem State.updSlot_pfx (sl : Nat) (f : SlotServing → SlotServing) (s : State) : (State.updSlot sl f s).pfx = s.pfx := rfl
@[simp] theorem State.updSlot_talon (sl : Nat) (f : SlotServing → SlotServing) (s : State) : (State.updSlot sl f s).talon = s.talon := rfl
@[simp] theorem State.updSlot_ndx (sl : Nat) (f : SlotServing → SlotServing) (s : State) : (State.updSlot sl f s).ndx = s.ndx := rfl
@[simp] theorem State.updSlot_vision (sl : Nat) (f : SlotServing → SlotServing) (s : State) : (State.updSlot sl f s).vision = s.vision := rfl
@[simp] theorem State.updSlot_media (sl : Nat) (f : SlotServing → SlotServing) (s : State) : (State.updSlot sl f s).media = s.media := rfl
@[simp] theorem State.updSlot_update (sl : Nat) (f : SlotServing → SlotServing) (s : State) : (State.updSlot sl f s).update = s.update := rfl

/-! ### State.slotEvent -/

@[simp] theorem State.slotEvent_pending (sl : Nat) (s : State) : (State.slotEvent sl s).pending = s.pending := rfl
@[simp] theorem State.slotEvent_fuses (sl : Nat) (s : State) : (State.slotEvent sl s).fuses = s.fuses := rfl
@[simp] theorem State.slotEvent_now (sl : Nat) (s : State) : (State.slotEvent sl s).now = s.now := rfl
@[simp] theorem State.slotEvent_freeCtr (sl : Nat) (s : State) : (State.slotEvent sl s).freeCtr = s.freeCtr := rfl
@[simp] theorem State.slotEvent_regs (sl : Nat) (s : State) : (State.slotEvent sl s).regs = s.regs := rfl
@[simp] theorem State.slotEvent_heldRS (sl : Nat) (s : State) : (State.slotEvent sl s).heldRS = s.heldRS := rfl
@[simp] theorem State.slotEvent_pcie (sl : Nat) (s : State) : (State.slotEvent sl s).pcie = s.pcie := rfl
@[simp] theorem State.slotEvent_mgmt (sl : Nat) (s : State) : (State.slotEvent sl s).mgmt = s.mgmt := rfl
@[simp] theorem State.slotEvent_ledger (sl : Nat) (s : State) : (State.slotEvent sl s).ledger = s.ledger := rfl
@[simp] theorem State.slotEvent_side (sl : Nat) (s : State) : (State.slotEvent sl s).side = s.side := rfl
@[simp] theorem State.slotEvent_cores (sl : Nat) (s : State) : (State.slotEvent sl s).cores = s.cores := rfl
@[simp] theorem State.slotEvent_memory (sl : Nat) (s : State) : (State.slotEvent sl s).memory = s.memory := rfl
@[simp] theorem State.slotEvent_power (sl : Nat) (s : State) : (State.slotEvent sl s).power = s.power := rfl
@[simp] theorem State.slotEvent_dealer (sl : Nat) (s : State) : (State.slotEvent sl s).dealer = s.dealer := rfl
@[simp] theorem State.slotEvent_cvOwner (sl : Nat) (s : State) : (State.slotEvent sl s).cvOwner = s.cvOwner := rfl
@[simp] theorem State.slotEvent_pfx (sl : Nat) (s : State) : (State.slotEvent sl s).pfx = s.pfx := rfl
@[simp] theorem State.slotEvent_talon (sl : Nat) (s : State) : (State.slotEvent sl s).talon = s.talon := rfl
@[simp] theorem State.slotEvent_ndx (sl : Nat) (s : State) : (State.slotEvent sl s).ndx = s.ndx := rfl
@[simp] theorem State.slotEvent_vision (sl : Nat) (s : State) : (State.slotEvent sl s).vision = s.vision := rfl
@[simp] theorem State.slotEvent_media (sl : Nat) (s : State) : (State.slotEvent sl s).media = s.media := rfl
@[simp] theorem State.slotEvent_update (sl : Nat) (s : State) : (State.slotEvent sl s).update = s.update := rfl

/-! ### State.putPartDealer -/

@[simp] theorem State.putPartDealer_pending (p : Nat) (d : PartDealer) (s : State) : (State.putPartDealer p d s).pending = s.pending := rfl
@[simp] theorem State.putPartDealer_fuses (p : Nat) (d : PartDealer) (s : State) : (State.putPartDealer p d s).fuses = s.fuses := rfl
@[simp] theorem State.putPartDealer_now (p : Nat) (d : PartDealer) (s : State) : (State.putPartDealer p d s).now = s.now := rfl
@[simp] theorem State.putPartDealer_freeCtr (p : Nat) (d : PartDealer) (s : State) : (State.putPartDealer p d s).freeCtr = s.freeCtr := rfl
@[simp] theorem State.putPartDealer_regs (p : Nat) (d : PartDealer) (s : State) : (State.putPartDealer p d s).regs = s.regs := rfl
@[simp] theorem State.putPartDealer_heldRS (p : Nat) (d : PartDealer) (s : State) : (State.putPartDealer p d s).heldRS = s.heldRS := rfl
@[simp] theorem State.putPartDealer_pcie (p : Nat) (d : PartDealer) (s : State) : (State.putPartDealer p d s).pcie = s.pcie := rfl
@[simp] theorem State.putPartDealer_mgmt (p : Nat) (d : PartDealer) (s : State) : (State.putPartDealer p d s).mgmt = s.mgmt := rfl
@[simp] theorem State.putPartDealer_ledger (p : Nat) (d : PartDealer) (s : State) : (State.putPartDealer p d s).ledger = s.ledger := rfl
@[simp] theorem State.putPartDealer_side (p : Nat) (d : PartDealer) (s : State) : (State.putPartDealer p d s).side = s.side := rfl
@[simp] theorem State.putPartDealer_cores (p : Nat) (d : PartDealer) (s : State) : (State.putPartDealer p d s).cores = s.cores := rfl
@[simp] theorem State.putPartDealer_memory (p : Nat) (d : PartDealer) (s : State) : (State.putPartDealer p d s).memory = s.memory := rfl
@[simp] theorem State.putPartDealer_power (p : Nat) (d : PartDealer) (s : State) : (State.putPartDealer p d s).power = s.power := rfl
@[simp] theorem State.putPartDealer_cvOwner (p : Nat) (d : PartDealer) (s : State) : (State.putPartDealer p d s).cvOwner = s.cvOwner := rfl
@[simp] theorem State.putPartDealer_serving (p : Nat) (d : PartDealer) (s : State) : (State.putPartDealer p d s).serving = s.serving := rfl
@[simp] theorem State.putPartDealer_pfx (p : Nat) (d : PartDealer) (s : State) : (State.putPartDealer p d s).pfx = s.pfx := rfl
@[simp] theorem State.putPartDealer_talon (p : Nat) (d : PartDealer) (s : State) : (State.putPartDealer p d s).talon = s.talon := rfl
@[simp] theorem State.putPartDealer_ndx (p : Nat) (d : PartDealer) (s : State) : (State.putPartDealer p d s).ndx = s.ndx := rfl
@[simp] theorem State.putPartDealer_vision (p : Nat) (d : PartDealer) (s : State) : (State.putPartDealer p d s).vision = s.vision := rfl
@[simp] theorem State.putPartDealer_media (p : Nat) (d : PartDealer) (s : State) : (State.putPartDealer p d s).media = s.media := rfl
@[simp] theorem State.putPartDealer_update (p : Nat) (d : PartDealer) (s : State) : (State.putPartDealer p d s).update = s.update := rfl

/-! ### State.putMedia -/

@[simp] theorem State.putMedia_pending (m : Nat) (x : MediaPipe) (s : State) : (State.putMedia m x s).pending = s.pending := rfl
@[simp] theorem State.putMedia_fuses (m : Nat) (x : MediaPipe) (s : State) : (State.putMedia m x s).fuses = s.fuses := rfl
@[simp] theorem State.putMedia_now (m : Nat) (x : MediaPipe) (s : State) : (State.putMedia m x s).now = s.now := rfl
@[simp] theorem State.putMedia_freeCtr (m : Nat) (x : MediaPipe) (s : State) : (State.putMedia m x s).freeCtr = s.freeCtr := rfl
@[simp] theorem State.putMedia_regs (m : Nat) (x : MediaPipe) (s : State) : (State.putMedia m x s).regs = s.regs := rfl
@[simp] theorem State.putMedia_heldRS (m : Nat) (x : MediaPipe) (s : State) : (State.putMedia m x s).heldRS = s.heldRS := rfl
@[simp] theorem State.putMedia_pcie (m : Nat) (x : MediaPipe) (s : State) : (State.putMedia m x s).pcie = s.pcie := rfl
@[simp] theorem State.putMedia_mgmt (m : Nat) (x : MediaPipe) (s : State) : (State.putMedia m x s).mgmt = s.mgmt := rfl
@[simp] theorem State.putMedia_ledger (m : Nat) (x : MediaPipe) (s : State) : (State.putMedia m x s).ledger = s.ledger := rfl
@[simp] theorem State.putMedia_side (m : Nat) (x : MediaPipe) (s : State) : (State.putMedia m x s).side = s.side := rfl
@[simp] theorem State.putMedia_cores (m : Nat) (x : MediaPipe) (s : State) : (State.putMedia m x s).cores = s.cores := rfl
@[simp] theorem State.putMedia_memory (m : Nat) (x : MediaPipe) (s : State) : (State.putMedia m x s).memory = s.memory := rfl
@[simp] theorem State.putMedia_power (m : Nat) (x : MediaPipe) (s : State) : (State.putMedia m x s).power = s.power := rfl
@[simp] theorem State.putMedia_dealer (m : Nat) (x : MediaPipe) (s : State) : (State.putMedia m x s).dealer = s.dealer := rfl
@[simp] theorem State.putMedia_cvOwner (m : Nat) (x : MediaPipe) (s : State) : (State.putMedia m x s).cvOwner = s.cvOwner := rfl
@[simp] theorem State.putMedia_serving (m : Nat) (x : MediaPipe) (s : State) : (State.putMedia m x s).serving = s.serving := rfl
@[simp] theorem State.putMedia_pfx (m : Nat) (x : MediaPipe) (s : State) : (State.putMedia m x s).pfx = s.pfx := rfl
@[simp] theorem State.putMedia_talon (m : Nat) (x : MediaPipe) (s : State) : (State.putMedia m x s).talon = s.talon := rfl
@[simp] theorem State.putMedia_ndx (m : Nat) (x : MediaPipe) (s : State) : (State.putMedia m x s).ndx = s.ndx := rfl
@[simp] theorem State.putMedia_vision (m : Nat) (x : MediaPipe) (s : State) : (State.putMedia m x s).vision = s.vision := rfl
@[simp] theorem State.putMedia_update (m : Nat) (x : MediaPipe) (s : State) : (State.putMedia m x s).update = s.update := rfl

/-! ### State.updMedia -/

@[simp] theorem State.updMedia_pending (m : Nat) (f : MediaPipe → MediaPipe) (s : State) : (State.updMedia m f s).pending = s.pending := rfl
@[simp] theorem State.updMedia_fuses (m : Nat) (f : MediaPipe → MediaPipe) (s : State) : (State.updMedia m f s).fuses = s.fuses := rfl
@[simp] theorem State.updMedia_now (m : Nat) (f : MediaPipe → MediaPipe) (s : State) : (State.updMedia m f s).now = s.now := rfl
@[simp] theorem State.updMedia_freeCtr (m : Nat) (f : MediaPipe → MediaPipe) (s : State) : (State.updMedia m f s).freeCtr = s.freeCtr := rfl
@[simp] theorem State.updMedia_regs (m : Nat) (f : MediaPipe → MediaPipe) (s : State) : (State.updMedia m f s).regs = s.regs := rfl
@[simp] theorem State.updMedia_heldRS (m : Nat) (f : MediaPipe → MediaPipe) (s : State) : (State.updMedia m f s).heldRS = s.heldRS := rfl
@[simp] theorem State.updMedia_pcie (m : Nat) (f : MediaPipe → MediaPipe) (s : State) : (State.updMedia m f s).pcie = s.pcie := rfl
@[simp] theorem State.updMedia_mgmt (m : Nat) (f : MediaPipe → MediaPipe) (s : State) : (State.updMedia m f s).mgmt = s.mgmt := rfl
@[simp] theorem State.updMedia_ledger (m : Nat) (f : MediaPipe → MediaPipe) (s : State) : (State.updMedia m f s).ledger = s.ledger := rfl
@[simp] theorem State.updMedia_side (m : Nat) (f : MediaPipe → MediaPipe) (s : State) : (State.updMedia m f s).side = s.side := rfl
@[simp] theorem State.updMedia_cores (m : Nat) (f : MediaPipe → MediaPipe) (s : State) : (State.updMedia m f s).cores = s.cores := rfl
@[simp] theorem State.updMedia_memory (m : Nat) (f : MediaPipe → MediaPipe) (s : State) : (State.updMedia m f s).memory = s.memory := rfl
@[simp] theorem State.updMedia_power (m : Nat) (f : MediaPipe → MediaPipe) (s : State) : (State.updMedia m f s).power = s.power := rfl
@[simp] theorem State.updMedia_dealer (m : Nat) (f : MediaPipe → MediaPipe) (s : State) : (State.updMedia m f s).dealer = s.dealer := rfl
@[simp] theorem State.updMedia_cvOwner (m : Nat) (f : MediaPipe → MediaPipe) (s : State) : (State.updMedia m f s).cvOwner = s.cvOwner := rfl
@[simp] theorem State.updMedia_serving (m : Nat) (f : MediaPipe → MediaPipe) (s : State) : (State.updMedia m f s).serving = s.serving := rfl
@[simp] theorem State.updMedia_pfx (m : Nat) (f : MediaPipe → MediaPipe) (s : State) : (State.updMedia m f s).pfx = s.pfx := rfl
@[simp] theorem State.updMedia_talon (m : Nat) (f : MediaPipe → MediaPipe) (s : State) : (State.updMedia m f s).talon = s.talon := rfl
@[simp] theorem State.updMedia_ndx (m : Nat) (f : MediaPipe → MediaPipe) (s : State) : (State.updMedia m f s).ndx = s.ndx := rfl
@[simp] theorem State.updMedia_vision (m : Nat) (f : MediaPipe → MediaPipe) (s : State) : (State.updMedia m f s).vision = s.vision := rfl
@[simp] theorem State.updMedia_update (m : Nat) (f : MediaPipe → MediaPipe) (s : State) : (State.updMedia m f s).update = s.update := rfl

/-! ### State.poke -/

@[simp] theorem State.poke_pending (a : Nat) (bytes : List Byte) (s : State) : (State.poke a bytes s).pending = s.pending := rfl
@[simp] theorem State.poke_fuses (a : Nat) (bytes : List Byte) (s : State) : (State.poke a bytes s).fuses = s.fuses := rfl
@[simp] theorem State.poke_now (a : Nat) (bytes : List Byte) (s : State) : (State.poke a bytes s).now = s.now := rfl
@[simp] theorem State.poke_freeCtr (a : Nat) (bytes : List Byte) (s : State) : (State.poke a bytes s).freeCtr = s.freeCtr := rfl
@[simp] theorem State.poke_regs (a : Nat) (bytes : List Byte) (s : State) : (State.poke a bytes s).regs = s.regs := rfl
@[simp] theorem State.poke_heldRS (a : Nat) (bytes : List Byte) (s : State) : (State.poke a bytes s).heldRS = s.heldRS := rfl
@[simp] theorem State.poke_pcie (a : Nat) (bytes : List Byte) (s : State) : (State.poke a bytes s).pcie = s.pcie := rfl
@[simp] theorem State.poke_mgmt (a : Nat) (bytes : List Byte) (s : State) : (State.poke a bytes s).mgmt = s.mgmt := rfl
@[simp] theorem State.poke_ledger (a : Nat) (bytes : List Byte) (s : State) : (State.poke a bytes s).ledger = s.ledger := rfl
@[simp] theorem State.poke_side (a : Nat) (bytes : List Byte) (s : State) : (State.poke a bytes s).side = s.side := rfl
@[simp] theorem State.poke_cores (a : Nat) (bytes : List Byte) (s : State) : (State.poke a bytes s).cores = s.cores := rfl
@[simp] theorem State.poke_power (a : Nat) (bytes : List Byte) (s : State) : (State.poke a bytes s).power = s.power := rfl
@[simp] theorem State.poke_dealer (a : Nat) (bytes : List Byte) (s : State) : (State.poke a bytes s).dealer = s.dealer := rfl
@[simp] theorem State.poke_cvOwner (a : Nat) (bytes : List Byte) (s : State) : (State.poke a bytes s).cvOwner = s.cvOwner := rfl
@[simp] theorem State.poke_serving (a : Nat) (bytes : List Byte) (s : State) : (State.poke a bytes s).serving = s.serving := rfl
@[simp] theorem State.poke_pfx (a : Nat) (bytes : List Byte) (s : State) : (State.poke a bytes s).pfx = s.pfx := rfl
@[simp] theorem State.poke_talon (a : Nat) (bytes : List Byte) (s : State) : (State.poke a bytes s).talon = s.talon := rfl
@[simp] theorem State.poke_ndx (a : Nat) (bytes : List Byte) (s : State) : (State.poke a bytes s).ndx = s.ndx := rfl
@[simp] theorem State.poke_vision (a : Nat) (bytes : List Byte) (s : State) : (State.poke a bytes s).vision = s.vision := rfl
@[simp] theorem State.poke_media (a : Nat) (bytes : List Byte) (s : State) : (State.poke a bytes s).media = s.media := rfl
@[simp] theorem State.poke_update (a : Nat) (bytes : List Byte) (s : State) : (State.poke a bytes s).update = s.update := rfl

/-! ### State.pokeN -/

@[simp] theorem State.pokeN_pending (a n v : Nat) (s : State) : (State.pokeN a n v s).pending = s.pending := rfl
@[simp] theorem State.pokeN_fuses (a n v : Nat) (s : State) : (State.pokeN a n v s).fuses = s.fuses := rfl
@[simp] theorem State.pokeN_now (a n v : Nat) (s : State) : (State.pokeN a n v s).now = s.now := rfl
@[simp] theorem State.pokeN_freeCtr (a n v : Nat) (s : State) : (State.pokeN a n v s).freeCtr = s.freeCtr := rfl
@[simp] theorem State.pokeN_regs (a n v : Nat) (s : State) : (State.pokeN a n v s).regs = s.regs := rfl
@[simp] theorem State.pokeN_heldRS (a n v : Nat) (s : State) : (State.pokeN a n v s).heldRS = s.heldRS := rfl
@[simp] theorem State.pokeN_pcie (a n v : Nat) (s : State) : (State.pokeN a n v s).pcie = s.pcie := rfl
@[simp] theorem State.pokeN_mgmt (a n v : Nat) (s : State) : (State.pokeN a n v s).mgmt = s.mgmt := rfl
@[simp] theorem State.pokeN_ledger (a n v : Nat) (s : State) : (State.pokeN a n v s).ledger = s.ledger := rfl
@[simp] theorem State.pokeN_side (a n v : Nat) (s : State) : (State.pokeN a n v s).side = s.side := rfl
@[simp] theorem State.pokeN_cores (a n v : Nat) (s : State) : (State.pokeN a n v s).cores = s.cores := rfl
@[simp] theorem State.pokeN_power (a n v : Nat) (s : State) : (State.pokeN a n v s).power = s.power := rfl
@[simp] theorem State.pokeN_dealer (a n v : Nat) (s : State) : (State.pokeN a n v s).dealer = s.dealer := rfl
@[simp] theorem State.pokeN_cvOwner (a n v : Nat) (s : State) : (State.pokeN a n v s).cvOwner = s.cvOwner := rfl
@[simp] theorem State.pokeN_serving (a n v : Nat) (s : State) : (State.pokeN a n v s).serving = s.serving := rfl
@[simp] theorem State.pokeN_pfx (a n v : Nat) (s : State) : (State.pokeN a n v s).pfx = s.pfx := rfl
@[simp] theorem State.pokeN_talon (a n v : Nat) (s : State) : (State.pokeN a n v s).talon = s.talon := rfl
@[simp] theorem State.pokeN_ndx (a n v : Nat) (s : State) : (State.pokeN a n v s).ndx = s.ndx := rfl
@[simp] theorem State.pokeN_vision (a n v : Nat) (s : State) : (State.pokeN a n v s).vision = s.vision := rfl
@[simp] theorem State.pokeN_media (a n v : Nat) (s : State) : (State.pokeN a n v s).media = s.media := rfl
@[simp] theorem State.pokeN_update (a n v : Nat) (s : State) : (State.pokeN a n v s).update = s.update := rfl

/-! ### State.cleanWords -/

@[simp] theorem State.cleanWords_pending (a n : Nat) (s : State) : (State.cleanWords a n s).pending = s.pending := rfl
@[simp] theorem State.cleanWords_fuses (a n : Nat) (s : State) : (State.cleanWords a n s).fuses = s.fuses := rfl
@[simp] theorem State.cleanWords_now (a n : Nat) (s : State) : (State.cleanWords a n s).now = s.now := rfl
@[simp] theorem State.cleanWords_freeCtr (a n : Nat) (s : State) : (State.cleanWords a n s).freeCtr = s.freeCtr := rfl
@[simp] theorem State.cleanWords_regs (a n : Nat) (s : State) : (State.cleanWords a n s).regs = s.regs := rfl
@[simp] theorem State.cleanWords_heldRS (a n : Nat) (s : State) : (State.cleanWords a n s).heldRS = s.heldRS := rfl
@[simp] theorem State.cleanWords_pcie (a n : Nat) (s : State) : (State.cleanWords a n s).pcie = s.pcie := rfl
@[simp] theorem State.cleanWords_mgmt (a n : Nat) (s : State) : (State.cleanWords a n s).mgmt = s.mgmt := rfl
@[simp] theorem State.cleanWords_ledger (a n : Nat) (s : State) : (State.cleanWords a n s).ledger = s.ledger := rfl
@[simp] theorem State.cleanWords_side (a n : Nat) (s : State) : (State.cleanWords a n s).side = s.side := rfl
@[simp] theorem State.cleanWords_cores (a n : Nat) (s : State) : (State.cleanWords a n s).cores = s.cores := rfl
@[simp] theorem State.cleanWords_power (a n : Nat) (s : State) : (State.cleanWords a n s).power = s.power := rfl
@[simp] theorem State.cleanWords_dealer (a n : Nat) (s : State) : (State.cleanWords a n s).dealer = s.dealer := rfl
@[simp] theorem State.cleanWords_cvOwner (a n : Nat) (s : State) : (State.cleanWords a n s).cvOwner = s.cvOwner := rfl
@[simp] theorem State.cleanWords_serving (a n : Nat) (s : State) : (State.cleanWords a n s).serving = s.serving := rfl
@[simp] theorem State.cleanWords_pfx (a n : Nat) (s : State) : (State.cleanWords a n s).pfx = s.pfx := rfl
@[simp] theorem State.cleanWords_talon (a n : Nat) (s : State) : (State.cleanWords a n s).talon = s.talon := rfl
@[simp] theorem State.cleanWords_ndx (a n : Nat) (s : State) : (State.cleanWords a n s).ndx = s.ndx := rfl
@[simp] theorem State.cleanWords_vision (a n : Nat) (s : State) : (State.cleanWords a n s).vision = s.vision := rfl
@[simp] theorem State.cleanWords_media (a n : Nat) (s : State) : (State.cleanWords a n s).media = s.media := rfl
@[simp] theorem State.cleanWords_update (a n : Nat) (s : State) : (State.cleanWords a n s).update = s.update := rfl

/-! ### State.zeroRange -/

@[simp] theorem State.zeroRange_pending (a n : Nat) (s : State) : (State.zeroRange a n s).pending = s.pending := rfl
@[simp] theorem State.zeroRange_fuses (a n : Nat) (s : State) : (State.zeroRange a n s).fuses = s.fuses := rfl
@[simp] theorem State.zeroRange_now (a n : Nat) (s : State) : (State.zeroRange a n s).now = s.now := rfl
@[simp] theorem State.zeroRange_freeCtr (a n : Nat) (s : State) : (State.zeroRange a n s).freeCtr = s.freeCtr := rfl
@[simp] theorem State.zeroRange_regs (a n : Nat) (s : State) : (State.zeroRange a n s).regs = s.regs := rfl
@[simp] theorem State.zeroRange_heldRS (a n : Nat) (s : State) : (State.zeroRange a n s).heldRS = s.heldRS := rfl
@[simp] theorem State.zeroRange_pcie (a n : Nat) (s : State) : (State.zeroRange a n s).pcie = s.pcie := rfl
@[simp] theorem State.zeroRange_mgmt (a n : Nat) (s : State) : (State.zeroRange a n s).mgmt = s.mgmt := rfl
@[simp] theorem State.zeroRange_ledger (a n : Nat) (s : State) : (State.zeroRange a n s).ledger = s.ledger := rfl
@[simp] theorem State.zeroRange_side (a n : Nat) (s : State) : (State.zeroRange a n s).side = s.side := rfl
@[simp] theorem State.zeroRange_cores (a n : Nat) (s : State) : (State.zeroRange a n s).cores = s.cores := rfl
@[simp] theorem State.zeroRange_power (a n : Nat) (s : State) : (State.zeroRange a n s).power = s.power := rfl
@[simp] theorem State.zeroRange_dealer (a n : Nat) (s : State) : (State.zeroRange a n s).dealer = s.dealer := rfl
@[simp] theorem State.zeroRange_cvOwner (a n : Nat) (s : State) : (State.zeroRange a n s).cvOwner = s.cvOwner := rfl
@[simp] theorem State.zeroRange_serving (a n : Nat) (s : State) : (State.zeroRange a n s).serving = s.serving := rfl
@[simp] theorem State.zeroRange_pfx (a n : Nat) (s : State) : (State.zeroRange a n s).pfx = s.pfx := rfl
@[simp] theorem State.zeroRange_talon (a n : Nat) (s : State) : (State.zeroRange a n s).talon = s.talon := rfl
@[simp] theorem State.zeroRange_ndx (a n : Nat) (s : State) : (State.zeroRange a n s).ndx = s.ndx := rfl
@[simp] theorem State.zeroRange_vision (a n : Nat) (s : State) : (State.zeroRange a n s).vision = s.vision := rfl
@[simp] theorem State.zeroRange_media (a n : Nat) (s : State) : (State.zeroRange a n s).media = s.media := rfl
@[simp] theorem State.zeroRange_update (a n : Nat) (s : State) : (State.zeroRange a n s).update = s.update := rfl

/-! ### State.unboost -/

@[simp] theorem State.unboost_pending (p : Nat → Bool) (s : State) : (State.unboost p s).pending = s.pending := rfl
@[simp] theorem State.unboost_fuses (p : Nat → Bool) (s : State) : (State.unboost p s).fuses = s.fuses := rfl
@[simp] theorem State.unboost_now (p : Nat → Bool) (s : State) : (State.unboost p s).now = s.now := rfl
@[simp] theorem State.unboost_freeCtr (p : Nat → Bool) (s : State) : (State.unboost p s).freeCtr = s.freeCtr := rfl
@[simp] theorem State.unboost_heldRS (p : Nat → Bool) (s : State) : (State.unboost p s).heldRS = s.heldRS := rfl
@[simp] theorem State.unboost_pcie (p : Nat → Bool) (s : State) : (State.unboost p s).pcie = s.pcie := rfl
@[simp] theorem State.unboost_mgmt (p : Nat → Bool) (s : State) : (State.unboost p s).mgmt = s.mgmt := rfl
@[simp] theorem State.unboost_ledger (p : Nat → Bool) (s : State) : (State.unboost p s).ledger = s.ledger := rfl
@[simp] theorem State.unboost_side (p : Nat → Bool) (s : State) : (State.unboost p s).side = s.side := rfl
@[simp] theorem State.unboost_cores (p : Nat → Bool) (s : State) : (State.unboost p s).cores = s.cores := rfl
@[simp] theorem State.unboost_memory (p : Nat → Bool) (s : State) : (State.unboost p s).memory = s.memory := rfl
@[simp] theorem State.unboost_dealer (p : Nat → Bool) (s : State) : (State.unboost p s).dealer = s.dealer := rfl
@[simp] theorem State.unboost_cvOwner (p : Nat → Bool) (s : State) : (State.unboost p s).cvOwner = s.cvOwner := rfl
@[simp] theorem State.unboost_serving (p : Nat → Bool) (s : State) : (State.unboost p s).serving = s.serving := rfl
@[simp] theorem State.unboost_pfx (p : Nat → Bool) (s : State) : (State.unboost p s).pfx = s.pfx := rfl
@[simp] theorem State.unboost_talon (p : Nat → Bool) (s : State) : (State.unboost p s).talon = s.talon := rfl
@[simp] theorem State.unboost_ndx (p : Nat → Bool) (s : State) : (State.unboost p s).ndx = s.ndx := rfl
@[simp] theorem State.unboost_vision (p : Nat → Bool) (s : State) : (State.unboost p s).vision = s.vision := rfl
@[simp] theorem State.unboost_media (p : Nat → Bool) (s : State) : (State.unboost p s).media = s.media := rfl
@[simp] theorem State.unboost_update (p : Nat → Bool) (s : State) : (State.unboost p s).update = s.update := rfl

/-! ### State.putCore -/

@[simp] theorem State.putCore_pending (n : Nat) (c : CoreState) (s : State) : (State.putCore n c s).pending = s.pending := rfl
@[simp] theorem State.putCore_fuses (n : Nat) (c : CoreState) (s : State) : (State.putCore n c s).fuses = s.fuses := rfl
@[simp] theorem State.putCore_now (n : Nat) (c : CoreState) (s : State) : (State.putCore n c s).now = s.now := rfl
@[simp] theorem State.putCore_freeCtr (n : Nat) (c : CoreState) (s : State) : (State.putCore n c s).freeCtr = s.freeCtr := rfl
@[simp] theorem State.putCore_regs (n : Nat) (c : CoreState) (s : State) : (State.putCore n c s).regs = s.regs := rfl
@[simp] theorem State.putCore_heldRS (n : Nat) (c : CoreState) (s : State) : (State.putCore n c s).heldRS = s.heldRS := rfl
@[simp] theorem State.putCore_pcie (n : Nat) (c : CoreState) (s : State) : (State.putCore n c s).pcie = s.pcie := rfl
@[simp] theorem State.putCore_mgmt (n : Nat) (c : CoreState) (s : State) : (State.putCore n c s).mgmt = s.mgmt := rfl
@[simp] theorem State.putCore_ledger (n : Nat) (c : CoreState) (s : State) : (State.putCore n c s).ledger = s.ledger := rfl
@[simp] theorem State.putCore_side (n : Nat) (c : CoreState) (s : State) : (State.putCore n c s).side = s.side := rfl
@[simp] theorem State.putCore_memory (n : Nat) (c : CoreState) (s : State) : (State.putCore n c s).memory = s.memory := rfl
@[simp] theorem State.putCore_power (n : Nat) (c : CoreState) (s : State) : (State.putCore n c s).power = s.power := rfl
@[simp] theorem State.putCore_dealer (n : Nat) (c : CoreState) (s : State) : (State.putCore n c s).dealer = s.dealer := rfl
@[simp] theorem State.putCore_cvOwner (n : Nat) (c : CoreState) (s : State) : (State.putCore n c s).cvOwner = s.cvOwner := rfl
@[simp] theorem State.putCore_serving (n : Nat) (c : CoreState) (s : State) : (State.putCore n c s).serving = s.serving := rfl
@[simp] theorem State.putCore_pfx (n : Nat) (c : CoreState) (s : State) : (State.putCore n c s).pfx = s.pfx := rfl
@[simp] theorem State.putCore_talon (n : Nat) (c : CoreState) (s : State) : (State.putCore n c s).talon = s.talon := rfl
@[simp] theorem State.putCore_ndx (n : Nat) (c : CoreState) (s : State) : (State.putCore n c s).ndx = s.ndx := rfl
@[simp] theorem State.putCore_vision (n : Nat) (c : CoreState) (s : State) : (State.putCore n c s).vision = s.vision := rfl
@[simp] theorem State.putCore_media (n : Nat) (c : CoreState) (s : State) : (State.putCore n c s).media = s.media := rfl
@[simp] theorem State.putCore_update (n : Nat) (c : CoreState) (s : State) : (State.putCore n c s).update = s.update := rfl

/-! ### State.putFrames -/

@[simp] theorem State.putFrames_pending (l : List Frame) (s : State) : (State.putFrames l s).pending = s.pending := rfl
@[simp] theorem State.putFrames_fuses (l : List Frame) (s : State) : (State.putFrames l s).fuses = s.fuses := rfl
@[simp] theorem State.putFrames_now (l : List Frame) (s : State) : (State.putFrames l s).now = s.now := rfl
@[simp] theorem State.putFrames_freeCtr (l : List Frame) (s : State) : (State.putFrames l s).freeCtr = s.freeCtr := rfl
@[simp] theorem State.putFrames_regs (l : List Frame) (s : State) : (State.putFrames l s).regs = s.regs := rfl
@[simp] theorem State.putFrames_heldRS (l : List Frame) (s : State) : (State.putFrames l s).heldRS = s.heldRS := rfl
@[simp] theorem State.putFrames_pcie (l : List Frame) (s : State) : (State.putFrames l s).pcie = s.pcie := rfl
@[simp] theorem State.putFrames_mgmt (l : List Frame) (s : State) : (State.putFrames l s).mgmt = s.mgmt := rfl
@[simp] theorem State.putFrames_ledger (l : List Frame) (s : State) : (State.putFrames l s).ledger = s.ledger := rfl
@[simp] theorem State.putFrames_side (l : List Frame) (s : State) : (State.putFrames l s).side = s.side := rfl
@[simp] theorem State.putFrames_cores (l : List Frame) (s : State) : (State.putFrames l s).cores = s.cores := rfl
@[simp] theorem State.putFrames_memory (l : List Frame) (s : State) : (State.putFrames l s).memory = s.memory := rfl
@[simp] theorem State.putFrames_power (l : List Frame) (s : State) : (State.putFrames l s).power = s.power := rfl
@[simp] theorem State.putFrames_dealer (l : List Frame) (s : State) : (State.putFrames l s).dealer = s.dealer := rfl
@[simp] theorem State.putFrames_cvOwner (l : List Frame) (s : State) : (State.putFrames l s).cvOwner = s.cvOwner := rfl
@[simp] theorem State.putFrames_serving (l : List Frame) (s : State) : (State.putFrames l s).serving = s.serving := rfl
@[simp] theorem State.putFrames_pfx (l : List Frame) (s : State) : (State.putFrames l s).pfx = s.pfx := rfl
@[simp] theorem State.putFrames_talon (l : List Frame) (s : State) : (State.putFrames l s).talon = s.talon := rfl
@[simp] theorem State.putFrames_ndx (l : List Frame) (s : State) : (State.putFrames l s).ndx = s.ndx := rfl
@[simp] theorem State.putFrames_media (l : List Frame) (s : State) : (State.putFrames l s).media = s.media := rfl
@[simp] theorem State.putFrames_update (l : List Frame) (s : State) : (State.putFrames l s).update = s.update := rfl

/-! ### State.updFrame -/

@[simp] theorem State.updFrame_pending (p pipe slot : Nat) (f : Frame → Frame) (s : State) : (State.updFrame p pipe slot f s).pending = s.pending := rfl
@[simp] theorem State.updFrame_fuses (p pipe slot : Nat) (f : Frame → Frame) (s : State) : (State.updFrame p pipe slot f s).fuses = s.fuses := rfl
@[simp] theorem State.updFrame_now (p pipe slot : Nat) (f : Frame → Frame) (s : State) : (State.updFrame p pipe slot f s).now = s.now := rfl
@[simp] theorem State.updFrame_freeCtr (p pipe slot : Nat) (f : Frame → Frame) (s : State) : (State.updFrame p pipe slot f s).freeCtr = s.freeCtr := rfl
@[simp] theorem State.updFrame_regs (p pipe slot : Nat) (f : Frame → Frame) (s : State) : (State.updFrame p pipe slot f s).regs = s.regs := rfl
@[simp] theorem State.updFrame_heldRS (p pipe slot : Nat) (f : Frame → Frame) (s : State) : (State.updFrame p pipe slot f s).heldRS = s.heldRS := rfl
@[simp] theorem State.updFrame_pcie (p pipe slot : Nat) (f : Frame → Frame) (s : State) : (State.updFrame p pipe slot f s).pcie = s.pcie := rfl
@[simp] theorem State.updFrame_mgmt (p pipe slot : Nat) (f : Frame → Frame) (s : State) : (State.updFrame p pipe slot f s).mgmt = s.mgmt := rfl
@[simp] theorem State.updFrame_ledger (p pipe slot : Nat) (f : Frame → Frame) (s : State) : (State.updFrame p pipe slot f s).ledger = s.ledger := rfl
@[simp] theorem State.updFrame_side (p pipe slot : Nat) (f : Frame → Frame) (s : State) : (State.updFrame p pipe slot f s).side = s.side := rfl
@[simp] theorem State.updFrame_cores (p pipe slot : Nat) (f : Frame → Frame) (s : State) : (State.updFrame p pipe slot f s).cores = s.cores := rfl
@[simp] theorem State.updFrame_memory (p pipe slot : Nat) (f : Frame → Frame) (s : State) : (State.updFrame p pipe slot f s).memory = s.memory := rfl
@[simp] theorem State.updFrame_power (p pipe slot : Nat) (f : Frame → Frame) (s : State) : (State.updFrame p pipe slot f s).power = s.power := rfl
@[simp] theorem State.updFrame_dealer (p pipe slot : Nat) (f : Frame → Frame) (s : State) : (State.updFrame p pipe slot f s).dealer = s.dealer := rfl
@[simp] theorem State.updFrame_cvOwner (p pipe slot : Nat) (f : Frame → Frame) (s : State) : (State.updFrame p pipe slot f s).cvOwner = s.cvOwner := rfl
@[simp] theorem State.updFrame_serving (p pipe slot : Nat) (f : Frame → Frame) (s : State) : (State.updFrame p pipe slot f s).serving = s.serving := rfl
@[simp] theorem State.updFrame_pfx (p pipe slot : Nat) (f : Frame → Frame) (s : State) : (State.updFrame p pipe slot f s).pfx = s.pfx := rfl
@[simp] theorem State.updFrame_talon (p pipe slot : Nat) (f : Frame → Frame) (s : State) : (State.updFrame p pipe slot f s).talon = s.talon := rfl
@[simp] theorem State.updFrame_ndx (p pipe slot : Nat) (f : Frame → Frame) (s : State) : (State.updFrame p pipe slot f s).ndx = s.ndx := rfl
@[simp] theorem State.updFrame_media (p pipe slot : Nat) (f : Frame → Frame) (s : State) : (State.updFrame p pipe slot f s).media = s.media := rfl
@[simp] theorem State.updFrame_update (p pipe slot : Nat) (f : Frame → Frame) (s : State) : (State.updFrame p pipe slot f s).update = s.update := rfl

/-! ### State.putEdge -/

@[simp] theorem State.putEdge_pending (d : Nat) (e : EdgeEngine) (s : State) : (State.putEdge d e s).pending = s.pending := rfl
@[simp] theorem State.putEdge_fuses (d : Nat) (e : EdgeEngine) (s : State) : (State.putEdge d e s).fuses = s.fuses := rfl
@[simp] theorem State.putEdge_now (d : Nat) (e : EdgeEngine) (s : State) : (State.putEdge d e s).now = s.now := rfl
@[simp] theorem State.putEdge_freeCtr (d : Nat) (e : EdgeEngine) (s : State) : (State.putEdge d e s).freeCtr = s.freeCtr := rfl
@[simp] theorem State.putEdge_regs (d : Nat) (e : EdgeEngine) (s : State) : (State.putEdge d e s).regs = s.regs := rfl
@[simp] theorem State.putEdge_heldRS (d : Nat) (e : EdgeEngine) (s : State) : (State.putEdge d e s).heldRS = s.heldRS := rfl
@[simp] theorem State.putEdge_pcie (d : Nat) (e : EdgeEngine) (s : State) : (State.putEdge d e s).pcie = s.pcie := rfl
@[simp] theorem State.putEdge_mgmt (d : Nat) (e : EdgeEngine) (s : State) : (State.putEdge d e s).mgmt = s.mgmt := rfl
@[simp] theorem State.putEdge_ledger (d : Nat) (e : EdgeEngine) (s : State) : (State.putEdge d e s).ledger = s.ledger := rfl
@[simp] theorem State.putEdge_side (d : Nat) (e : EdgeEngine) (s : State) : (State.putEdge d e s).side = s.side := rfl
@[simp] theorem State.putEdge_cores (d : Nat) (e : EdgeEngine) (s : State) : (State.putEdge d e s).cores = s.cores := rfl
@[simp] theorem State.putEdge_memory (d : Nat) (e : EdgeEngine) (s : State) : (State.putEdge d e s).memory = s.memory := rfl
@[simp] theorem State.putEdge_power (d : Nat) (e : EdgeEngine) (s : State) : (State.putEdge d e s).power = s.power := rfl
@[simp] theorem State.putEdge_dealer (d : Nat) (e : EdgeEngine) (s : State) : (State.putEdge d e s).dealer = s.dealer := rfl
@[simp] theorem State.putEdge_cvOwner (d : Nat) (e : EdgeEngine) (s : State) : (State.putEdge d e s).cvOwner = s.cvOwner := rfl
@[simp] theorem State.putEdge_serving (d : Nat) (e : EdgeEngine) (s : State) : (State.putEdge d e s).serving = s.serving := rfl
@[simp] theorem State.putEdge_pfx (d : Nat) (e : EdgeEngine) (s : State) : (State.putEdge d e s).pfx = s.pfx := rfl
@[simp] theorem State.putEdge_talon (d : Nat) (e : EdgeEngine) (s : State) : (State.putEdge d e s).talon = s.talon := rfl
@[simp] theorem State.putEdge_ndx (d : Nat) (e : EdgeEngine) (s : State) : (State.putEdge d e s).ndx = s.ndx := rfl
@[simp] theorem State.putEdge_media (d : Nat) (e : EdgeEngine) (s : State) : (State.putEdge d e s).media = s.media := rfl
@[simp] theorem State.putEdge_update (d : Nat) (e : EdgeEngine) (s : State) : (State.putEdge d e s).update = s.update := rfl

/-! ### State.updGraph -/

@[simp] theorem State.updGraph_pending (uid : Nat) (f : Graph → Graph) (s : State) : (State.updGraph uid f s).pending = s.pending := rfl
@[simp] theorem State.updGraph_fuses (uid : Nat) (f : Graph → Graph) (s : State) : (State.updGraph uid f s).fuses = s.fuses := rfl
@[simp] theorem State.updGraph_now (uid : Nat) (f : Graph → Graph) (s : State) : (State.updGraph uid f s).now = s.now := rfl
@[simp] theorem State.updGraph_freeCtr (uid : Nat) (f : Graph → Graph) (s : State) : (State.updGraph uid f s).freeCtr = s.freeCtr := rfl
@[simp] theorem State.updGraph_regs (uid : Nat) (f : Graph → Graph) (s : State) : (State.updGraph uid f s).regs = s.regs := rfl
@[simp] theorem State.updGraph_heldRS (uid : Nat) (f : Graph → Graph) (s : State) : (State.updGraph uid f s).heldRS = s.heldRS := rfl
@[simp] theorem State.updGraph_pcie (uid : Nat) (f : Graph → Graph) (s : State) : (State.updGraph uid f s).pcie = s.pcie := rfl
@[simp] theorem State.updGraph_mgmt (uid : Nat) (f : Graph → Graph) (s : State) : (State.updGraph uid f s).mgmt = s.mgmt := rfl
@[simp] theorem State.updGraph_ledger (uid : Nat) (f : Graph → Graph) (s : State) : (State.updGraph uid f s).ledger = s.ledger := rfl
@[simp] theorem State.updGraph_side (uid : Nat) (f : Graph → Graph) (s : State) : (State.updGraph uid f s).side = s.side := rfl
@[simp] theorem State.updGraph_cores (uid : Nat) (f : Graph → Graph) (s : State) : (State.updGraph uid f s).cores = s.cores := rfl
@[simp] theorem State.updGraph_memory (uid : Nat) (f : Graph → Graph) (s : State) : (State.updGraph uid f s).memory = s.memory := rfl
@[simp] theorem State.updGraph_power (uid : Nat) (f : Graph → Graph) (s : State) : (State.updGraph uid f s).power = s.power := rfl
@[simp] theorem State.updGraph_cvOwner (uid : Nat) (f : Graph → Graph) (s : State) : (State.updGraph uid f s).cvOwner = s.cvOwner := rfl
@[simp] theorem State.updGraph_serving (uid : Nat) (f : Graph → Graph) (s : State) : (State.updGraph uid f s).serving = s.serving := rfl
@[simp] theorem State.updGraph_pfx (uid : Nat) (f : Graph → Graph) (s : State) : (State.updGraph uid f s).pfx = s.pfx := rfl
@[simp] theorem State.updGraph_talon (uid : Nat) (f : Graph → Graph) (s : State) : (State.updGraph uid f s).talon = s.talon := rfl
@[simp] theorem State.updGraph_ndx (uid : Nat) (f : Graph → Graph) (s : State) : (State.updGraph uid f s).ndx = s.ndx := rfl
@[simp] theorem State.updGraph_vision (uid : Nat) (f : Graph → Graph) (s : State) : (State.updGraph uid f s).vision = s.vision := rfl
@[simp] theorem State.updGraph_media (uid : Nat) (f : Graph → Graph) (s : State) : (State.updGraph uid f s).media = s.media := rfl
@[simp] theorem State.updGraph_update (uid : Nat) (f : Graph → Graph) (s : State) : (State.updGraph uid f s).update = s.update := rfl

/-! ### State.dropGraph -/

@[simp] theorem State.dropGraph_pending (uid : Nat) (s : State) : (State.dropGraph uid s).pending = s.pending := rfl
@[simp] theorem State.dropGraph_fuses (uid : Nat) (s : State) : (State.dropGraph uid s).fuses = s.fuses := rfl
@[simp] theorem State.dropGraph_now (uid : Nat) (s : State) : (State.dropGraph uid s).now = s.now := rfl
@[simp] theorem State.dropGraph_freeCtr (uid : Nat) (s : State) : (State.dropGraph uid s).freeCtr = s.freeCtr := rfl
@[simp] theorem State.dropGraph_regs (uid : Nat) (s : State) : (State.dropGraph uid s).regs = s.regs := rfl
@[simp] theorem State.dropGraph_heldRS (uid : Nat) (s : State) : (State.dropGraph uid s).heldRS = s.heldRS := rfl
@[simp] theorem State.dropGraph_pcie (uid : Nat) (s : State) : (State.dropGraph uid s).pcie = s.pcie := rfl
@[simp] theorem State.dropGraph_mgmt (uid : Nat) (s : State) : (State.dropGraph uid s).mgmt = s.mgmt := rfl
@[simp] theorem State.dropGraph_ledger (uid : Nat) (s : State) : (State.dropGraph uid s).ledger = s.ledger := rfl
@[simp] theorem State.dropGraph_side (uid : Nat) (s : State) : (State.dropGraph uid s).side = s.side := rfl
@[simp] theorem State.dropGraph_cores (uid : Nat) (s : State) : (State.dropGraph uid s).cores = s.cores := rfl
@[simp] theorem State.dropGraph_memory (uid : Nat) (s : State) : (State.dropGraph uid s).memory = s.memory := rfl
@[simp] theorem State.dropGraph_power (uid : Nat) (s : State) : (State.dropGraph uid s).power = s.power := rfl
@[simp] theorem State.dropGraph_cvOwner (uid : Nat) (s : State) : (State.dropGraph uid s).cvOwner = s.cvOwner := rfl
@[simp] theorem State.dropGraph_serving (uid : Nat) (s : State) : (State.dropGraph uid s).serving = s.serving := rfl
@[simp] theorem State.dropGraph_pfx (uid : Nat) (s : State) : (State.dropGraph uid s).pfx = s.pfx := rfl
@[simp] theorem State.dropGraph_talon (uid : Nat) (s : State) : (State.dropGraph uid s).talon = s.talon := rfl
@[simp] theorem State.dropGraph_ndx (uid : Nat) (s : State) : (State.dropGraph uid s).ndx = s.ndx := rfl
@[simp] theorem State.dropGraph_vision (uid : Nat) (s : State) : (State.dropGraph uid s).vision = s.vision := rfl
@[simp] theorem State.dropGraph_media (uid : Nat) (s : State) : (State.dropGraph uid s).media = s.media := rfl
@[simp] theorem State.dropGraph_update (uid : Nat) (s : State) : (State.dropGraph uid s).update = s.update := rfl

/-! ### State.freeCore -/

@[simp] theorem State.freeCore_pending (n : Nat) (s : State) : (State.freeCore n s).pending = s.pending := rfl
@[simp] theorem State.freeCore_fuses (n : Nat) (s : State) : (State.freeCore n s).fuses = s.fuses := rfl
@[simp] theorem State.freeCore_now (n : Nat) (s : State) : (State.freeCore n s).now = s.now := rfl
@[simp] theorem State.freeCore_freeCtr (n : Nat) (s : State) : (State.freeCore n s).freeCtr = s.freeCtr := rfl
@[simp] theorem State.freeCore_regs (n : Nat) (s : State) : (State.freeCore n s).regs = s.regs := rfl
@[simp] theorem State.freeCore_heldRS (n : Nat) (s : State) : (State.freeCore n s).heldRS = s.heldRS := rfl
@[simp] theorem State.freeCore_pcie (n : Nat) (s : State) : (State.freeCore n s).pcie = s.pcie := rfl
@[simp] theorem State.freeCore_mgmt (n : Nat) (s : State) : (State.freeCore n s).mgmt = s.mgmt := rfl
@[simp] theorem State.freeCore_ledger (n : Nat) (s : State) : (State.freeCore n s).ledger = s.ledger := rfl
@[simp] theorem State.freeCore_side (n : Nat) (s : State) : (State.freeCore n s).side = s.side := rfl
@[simp] theorem State.freeCore_memory (n : Nat) (s : State) : (State.freeCore n s).memory = s.memory := rfl
@[simp] theorem State.freeCore_dealer (n : Nat) (s : State) : (State.freeCore n s).dealer = s.dealer := rfl
@[simp] theorem State.freeCore_cvOwner (n : Nat) (s : State) : (State.freeCore n s).cvOwner = s.cvOwner := rfl
@[simp] theorem State.freeCore_serving (n : Nat) (s : State) : (State.freeCore n s).serving = s.serving := rfl
@[simp] theorem State.freeCore_pfx (n : Nat) (s : State) : (State.freeCore n s).pfx = s.pfx := rfl
@[simp] theorem State.freeCore_talon (n : Nat) (s : State) : (State.freeCore n s).talon = s.talon := rfl
@[simp] theorem State.freeCore_ndx (n : Nat) (s : State) : (State.freeCore n s).ndx = s.ndx := rfl
@[simp] theorem State.freeCore_vision (n : Nat) (s : State) : (State.freeCore n s).vision = s.vision := rfl
@[simp] theorem State.freeCore_media (n : Nat) (s : State) : (State.freeCore n s).media = s.media := rfl
@[simp] theorem State.freeCore_update (n : Nat) (s : State) : (State.freeCore n s).update = s.update := rfl

/-! ### State.putStock -/

@[simp] theorem State.putStock_pending (d : Nat) (l : List (Nat × Nat)) (s : State) : (State.putStock d l s).pending = s.pending := rfl
@[simp] theorem State.putStock_fuses (d : Nat) (l : List (Nat × Nat)) (s : State) : (State.putStock d l s).fuses = s.fuses := rfl
@[simp] theorem State.putStock_now (d : Nat) (l : List (Nat × Nat)) (s : State) : (State.putStock d l s).now = s.now := rfl
@[simp] theorem State.putStock_freeCtr (d : Nat) (l : List (Nat × Nat)) (s : State) : (State.putStock d l s).freeCtr = s.freeCtr := rfl
@[simp] theorem State.putStock_heldRS (d : Nat) (l : List (Nat × Nat)) (s : State) : (State.putStock d l s).heldRS = s.heldRS := rfl
@[simp] theorem State.putStock_pcie (d : Nat) (l : List (Nat × Nat)) (s : State) : (State.putStock d l s).pcie = s.pcie := rfl
@[simp] theorem State.putStock_mgmt (d : Nat) (l : List (Nat × Nat)) (s : State) : (State.putStock d l s).mgmt = s.mgmt := rfl
@[simp] theorem State.putStock_ledger (d : Nat) (l : List (Nat × Nat)) (s : State) : (State.putStock d l s).ledger = s.ledger := rfl
@[simp] theorem State.putStock_side (d : Nat) (l : List (Nat × Nat)) (s : State) : (State.putStock d l s).side = s.side := rfl
@[simp] theorem State.putStock_cores (d : Nat) (l : List (Nat × Nat)) (s : State) : (State.putStock d l s).cores = s.cores := rfl
@[simp] theorem State.putStock_memory (d : Nat) (l : List (Nat × Nat)) (s : State) : (State.putStock d l s).memory = s.memory := rfl
@[simp] theorem State.putStock_power (d : Nat) (l : List (Nat × Nat)) (s : State) : (State.putStock d l s).power = s.power := rfl
@[simp] theorem State.putStock_dealer (d : Nat) (l : List (Nat × Nat)) (s : State) : (State.putStock d l s).dealer = s.dealer := rfl
@[simp] theorem State.putStock_cvOwner (d : Nat) (l : List (Nat × Nat)) (s : State) : (State.putStock d l s).cvOwner = s.cvOwner := rfl
@[simp] theorem State.putStock_pfx (d : Nat) (l : List (Nat × Nat)) (s : State) : (State.putStock d l s).pfx = s.pfx := rfl
@[simp] theorem State.putStock_talon (d : Nat) (l : List (Nat × Nat)) (s : State) : (State.putStock d l s).talon = s.talon := rfl
@[simp] theorem State.putStock_ndx (d : Nat) (l : List (Nat × Nat)) (s : State) : (State.putStock d l s).ndx = s.ndx := rfl
@[simp] theorem State.putStock_vision (d : Nat) (l : List (Nat × Nat)) (s : State) : (State.putStock d l s).vision = s.vision := rfl
@[simp] theorem State.putStock_media (d : Nat) (l : List (Nat × Nat)) (s : State) : (State.putStock d l s).media = s.media := rfl
@[simp] theorem State.putStock_update (d : Nat) (l : List (Nat × Nat)) (s : State) : (State.putStock d l s).update = s.update := rfl

/-! ### State.putHand -/

@[simp] theorem State.putHand_pending (p : Nat) (h : HandRecord) (s : State) : (State.putHand p h s).pending = s.pending := rfl
@[simp] theorem State.putHand_fuses (p : Nat) (h : HandRecord) (s : State) : (State.putHand p h s).fuses = s.fuses := rfl
@[simp] theorem State.putHand_now (p : Nat) (h : HandRecord) (s : State) : (State.putHand p h s).now = s.now := rfl
@[simp] theorem State.putHand_freeCtr (p : Nat) (h : HandRecord) (s : State) : (State.putHand p h s).freeCtr = s.freeCtr := rfl
@[simp] theorem State.putHand_regs (p : Nat) (h : HandRecord) (s : State) : (State.putHand p h s).regs = s.regs := rfl
@[simp] theorem State.putHand_heldRS (p : Nat) (h : HandRecord) (s : State) : (State.putHand p h s).heldRS = s.heldRS := rfl
@[simp] theorem State.putHand_pcie (p : Nat) (h : HandRecord) (s : State) : (State.putHand p h s).pcie = s.pcie := rfl
@[simp] theorem State.putHand_mgmt (p : Nat) (h : HandRecord) (s : State) : (State.putHand p h s).mgmt = s.mgmt := rfl
@[simp] theorem State.putHand_ledger (p : Nat) (h : HandRecord) (s : State) : (State.putHand p h s).ledger = s.ledger := rfl
@[simp] theorem State.putHand_side (p : Nat) (h : HandRecord) (s : State) : (State.putHand p h s).side = s.side := rfl
@[simp] theorem State.putHand_cores (p : Nat) (h : HandRecord) (s : State) : (State.putHand p h s).cores = s.cores := rfl
@[simp] theorem State.putHand_memory (p : Nat) (h : HandRecord) (s : State) : (State.putHand p h s).memory = s.memory := rfl
@[simp] theorem State.putHand_power (p : Nat) (h : HandRecord) (s : State) : (State.putHand p h s).power = s.power := rfl
@[simp] theorem State.putHand_dealer (p : Nat) (h : HandRecord) (s : State) : (State.putHand p h s).dealer = s.dealer := rfl
@[simp] theorem State.putHand_cvOwner (p : Nat) (h : HandRecord) (s : State) : (State.putHand p h s).cvOwner = s.cvOwner := rfl
@[simp] theorem State.putHand_pfx (p : Nat) (h : HandRecord) (s : State) : (State.putHand p h s).pfx = s.pfx := rfl
@[simp] theorem State.putHand_talon (p : Nat) (h : HandRecord) (s : State) : (State.putHand p h s).talon = s.talon := rfl
@[simp] theorem State.putHand_ndx (p : Nat) (h : HandRecord) (s : State) : (State.putHand p h s).ndx = s.ndx := rfl
@[simp] theorem State.putHand_vision (p : Nat) (h : HandRecord) (s : State) : (State.putHand p h s).vision = s.vision := rfl
@[simp] theorem State.putHand_media (p : Nat) (h : HandRecord) (s : State) : (State.putHand p h s).media = s.media := rfl
@[simp] theorem State.putHand_update (p : Nat) (h : HandRecord) (s : State) : (State.putHand p h s).update = s.update := rfl

/-! ### State.putBand -/

@[simp] theorem State.putBand_pending (b : Band) (s : State) : (State.putBand b s).pending = s.pending := rfl
@[simp] theorem State.putBand_fuses (b : Band) (s : State) : (State.putBand b s).fuses = s.fuses := rfl
@[simp] theorem State.putBand_now (b : Band) (s : State) : (State.putBand b s).now = s.now := rfl
@[simp] theorem State.putBand_freeCtr (b : Band) (s : State) : (State.putBand b s).freeCtr = s.freeCtr := rfl
@[simp] theorem State.putBand_regs (b : Band) (s : State) : (State.putBand b s).regs = s.regs := rfl
@[simp] theorem State.putBand_heldRS (b : Band) (s : State) : (State.putBand b s).heldRS = s.heldRS := rfl
@[simp] theorem State.putBand_pcie (b : Band) (s : State) : (State.putBand b s).pcie = s.pcie := rfl
@[simp] theorem State.putBand_mgmt (b : Band) (s : State) : (State.putBand b s).mgmt = s.mgmt := rfl
@[simp] theorem State.putBand_ledger (b : Band) (s : State) : (State.putBand b s).ledger = s.ledger := rfl
@[simp] theorem State.putBand_side (b : Band) (s : State) : (State.putBand b s).side = s.side := rfl
@[simp] theorem State.putBand_cores (b : Band) (s : State) : (State.putBand b s).cores = s.cores := rfl
@[simp] theorem State.putBand_memory (b : Band) (s : State) : (State.putBand b s).memory = s.memory := rfl
@[simp] theorem State.putBand_power (b : Band) (s : State) : (State.putBand b s).power = s.power := rfl
@[simp] theorem State.putBand_dealer (b : Band) (s : State) : (State.putBand b s).dealer = s.dealer := rfl
@[simp] theorem State.putBand_cvOwner (b : Band) (s : State) : (State.putBand b s).cvOwner = s.cvOwner := rfl
@[simp] theorem State.putBand_serving (b : Band) (s : State) : (State.putBand b s).serving = s.serving := rfl
@[simp] theorem State.putBand_pfx (b : Band) (s : State) : (State.putBand b s).pfx = s.pfx := rfl
@[simp] theorem State.putBand_ndx (b : Band) (s : State) : (State.putBand b s).ndx = s.ndx := rfl
@[simp] theorem State.putBand_vision (b : Band) (s : State) : (State.putBand b s).vision = s.vision := rfl
@[simp] theorem State.putBand_media (b : Band) (s : State) : (State.putBand b s).media = s.media := rfl
@[simp] theorem State.putBand_update (b : Band) (s : State) : (State.putBand b s).update = s.update := rfl

/-! ### State.updImage -/

@[simp] theorem State.updImage_pending (id : Nat) (f : WeightImage → WeightImage) (s : State) : (State.updImage id f s).pending = s.pending := rfl
@[simp] theorem State.updImage_fuses (id : Nat) (f : WeightImage → WeightImage) (s : State) : (State.updImage id f s).fuses = s.fuses := rfl
@[simp] theorem State.updImage_now (id : Nat) (f : WeightImage → WeightImage) (s : State) : (State.updImage id f s).now = s.now := rfl
@[simp] theorem State.updImage_freeCtr (id : Nat) (f : WeightImage → WeightImage) (s : State) : (State.updImage id f s).freeCtr = s.freeCtr := rfl
@[simp] theorem State.updImage_regs (id : Nat) (f : WeightImage → WeightImage) (s : State) : (State.updImage id f s).regs = s.regs := rfl
@[simp] theorem State.updImage_heldRS (id : Nat) (f : WeightImage → WeightImage) (s : State) : (State.updImage id f s).heldRS = s.heldRS := rfl
@[simp] theorem State.updImage_pcie (id : Nat) (f : WeightImage → WeightImage) (s : State) : (State.updImage id f s).pcie = s.pcie := rfl
@[simp] theorem State.updImage_mgmt (id : Nat) (f : WeightImage → WeightImage) (s : State) : (State.updImage id f s).mgmt = s.mgmt := rfl
@[simp] theorem State.updImage_ledger (id : Nat) (f : WeightImage → WeightImage) (s : State) : (State.updImage id f s).ledger = s.ledger := rfl
@[simp] theorem State.updImage_side (id : Nat) (f : WeightImage → WeightImage) (s : State) : (State.updImage id f s).side = s.side := rfl
@[simp] theorem State.updImage_cores (id : Nat) (f : WeightImage → WeightImage) (s : State) : (State.updImage id f s).cores = s.cores := rfl
@[simp] theorem State.updImage_memory (id : Nat) (f : WeightImage → WeightImage) (s : State) : (State.updImage id f s).memory = s.memory := rfl
@[simp] theorem State.updImage_power (id : Nat) (f : WeightImage → WeightImage) (s : State) : (State.updImage id f s).power = s.power := rfl
@[simp] theorem State.updImage_dealer (id : Nat) (f : WeightImage → WeightImage) (s : State) : (State.updImage id f s).dealer = s.dealer := rfl
@[simp] theorem State.updImage_cvOwner (id : Nat) (f : WeightImage → WeightImage) (s : State) : (State.updImage id f s).cvOwner = s.cvOwner := rfl
@[simp] theorem State.updImage_serving (id : Nat) (f : WeightImage → WeightImage) (s : State) : (State.updImage id f s).serving = s.serving := rfl
@[simp] theorem State.updImage_pfx (id : Nat) (f : WeightImage → WeightImage) (s : State) : (State.updImage id f s).pfx = s.pfx := rfl
@[simp] theorem State.updImage_ndx (id : Nat) (f : WeightImage → WeightImage) (s : State) : (State.updImage id f s).ndx = s.ndx := rfl
@[simp] theorem State.updImage_vision (id : Nat) (f : WeightImage → WeightImage) (s : State) : (State.updImage id f s).vision = s.vision := rfl
@[simp] theorem State.updImage_media (id : Nat) (f : WeightImage → WeightImage) (s : State) : (State.updImage id f s).media = s.media := rfl
@[simp] theorem State.updImage_update (id : Nat) (f : WeightImage → WeightImage) (s : State) : (State.updImage id f s).update = s.update := rfl

/-! ### State.updExtent -/

@[simp] theorem State.updExtent_pending (name : Nat) (f : Extent → Extent) (s : State) : (State.updExtent name f s).pending = s.pending := rfl
@[simp] theorem State.updExtent_fuses (name : Nat) (f : Extent → Extent) (s : State) : (State.updExtent name f s).fuses = s.fuses := rfl
@[simp] theorem State.updExtent_now (name : Nat) (f : Extent → Extent) (s : State) : (State.updExtent name f s).now = s.now := rfl
@[simp] theorem State.updExtent_freeCtr (name : Nat) (f : Extent → Extent) (s : State) : (State.updExtent name f s).freeCtr = s.freeCtr := rfl
@[simp] theorem State.updExtent_regs (name : Nat) (f : Extent → Extent) (s : State) : (State.updExtent name f s).regs = s.regs := rfl
@[simp] theorem State.updExtent_heldRS (name : Nat) (f : Extent → Extent) (s : State) : (State.updExtent name f s).heldRS = s.heldRS := rfl
@[simp] theorem State.updExtent_pcie (name : Nat) (f : Extent → Extent) (s : State) : (State.updExtent name f s).pcie = s.pcie := rfl
@[simp] theorem State.updExtent_mgmt (name : Nat) (f : Extent → Extent) (s : State) : (State.updExtent name f s).mgmt = s.mgmt := rfl
@[simp] theorem State.updExtent_ledger (name : Nat) (f : Extent → Extent) (s : State) : (State.updExtent name f s).ledger = s.ledger := rfl
@[simp] theorem State.updExtent_side (name : Nat) (f : Extent → Extent) (s : State) : (State.updExtent name f s).side = s.side := rfl
@[simp] theorem State.updExtent_cores (name : Nat) (f : Extent → Extent) (s : State) : (State.updExtent name f s).cores = s.cores := rfl
@[simp] theorem State.updExtent_memory (name : Nat) (f : Extent → Extent) (s : State) : (State.updExtent name f s).memory = s.memory := rfl
@[simp] theorem State.updExtent_power (name : Nat) (f : Extent → Extent) (s : State) : (State.updExtent name f s).power = s.power := rfl
@[simp] theorem State.updExtent_dealer (name : Nat) (f : Extent → Extent) (s : State) : (State.updExtent name f s).dealer = s.dealer := rfl
@[simp] theorem State.updExtent_cvOwner (name : Nat) (f : Extent → Extent) (s : State) : (State.updExtent name f s).cvOwner = s.cvOwner := rfl
@[simp] theorem State.updExtent_serving (name : Nat) (f : Extent → Extent) (s : State) : (State.updExtent name f s).serving = s.serving := rfl
@[simp] theorem State.updExtent_pfx (name : Nat) (f : Extent → Extent) (s : State) : (State.updExtent name f s).pfx = s.pfx := rfl
@[simp] theorem State.updExtent_ndx (name : Nat) (f : Extent → Extent) (s : State) : (State.updExtent name f s).ndx = s.ndx := rfl
@[simp] theorem State.updExtent_vision (name : Nat) (f : Extent → Extent) (s : State) : (State.updExtent name f s).vision = s.vision := rfl
@[simp] theorem State.updExtent_media (name : Nat) (f : Extent → Extent) (s : State) : (State.updExtent name f s).media = s.media := rfl
@[simp] theorem State.updExtent_update (name : Nat) (f : Extent → Extent) (s : State) : (State.updExtent name f s).update = s.update := rfl

/-! ### State.putPeer -/

@[simp] theorem State.putPeer_pending (p j : Nat) (x : PeerState) (s : State) : (State.putPeer p j x s).pending = s.pending := rfl
@[simp] theorem State.putPeer_fuses (p j : Nat) (x : PeerState) (s : State) : (State.putPeer p j x s).fuses = s.fuses := rfl
@[simp] theorem State.putPeer_now (p j : Nat) (x : PeerState) (s : State) : (State.putPeer p j x s).now = s.now := rfl
@[simp] theorem State.putPeer_freeCtr (p j : Nat) (x : PeerState) (s : State) : (State.putPeer p j x s).freeCtr = s.freeCtr := rfl
@[simp] theorem State.putPeer_regs (p j : Nat) (x : PeerState) (s : State) : (State.putPeer p j x s).regs = s.regs := rfl
@[simp] theorem State.putPeer_heldRS (p j : Nat) (x : PeerState) (s : State) : (State.putPeer p j x s).heldRS = s.heldRS := rfl
@[simp] theorem State.putPeer_pcie (p j : Nat) (x : PeerState) (s : State) : (State.putPeer p j x s).pcie = s.pcie := rfl
@[simp] theorem State.putPeer_mgmt (p j : Nat) (x : PeerState) (s : State) : (State.putPeer p j x s).mgmt = s.mgmt := rfl
@[simp] theorem State.putPeer_ledger (p j : Nat) (x : PeerState) (s : State) : (State.putPeer p j x s).ledger = s.ledger := rfl
@[simp] theorem State.putPeer_side (p j : Nat) (x : PeerState) (s : State) : (State.putPeer p j x s).side = s.side := rfl
@[simp] theorem State.putPeer_cores (p j : Nat) (x : PeerState) (s : State) : (State.putPeer p j x s).cores = s.cores := rfl
@[simp] theorem State.putPeer_memory (p j : Nat) (x : PeerState) (s : State) : (State.putPeer p j x s).memory = s.memory := rfl
@[simp] theorem State.putPeer_power (p j : Nat) (x : PeerState) (s : State) : (State.putPeer p j x s).power = s.power := rfl
@[simp] theorem State.putPeer_dealer (p j : Nat) (x : PeerState) (s : State) : (State.putPeer p j x s).dealer = s.dealer := rfl
@[simp] theorem State.putPeer_cvOwner (p j : Nat) (x : PeerState) (s : State) : (State.putPeer p j x s).cvOwner = s.cvOwner := rfl
@[simp] theorem State.putPeer_serving (p j : Nat) (x : PeerState) (s : State) : (State.putPeer p j x s).serving = s.serving := rfl
@[simp] theorem State.putPeer_pfx (p j : Nat) (x : PeerState) (s : State) : (State.putPeer p j x s).pfx = s.pfx := rfl
@[simp] theorem State.putPeer_talon (p j : Nat) (x : PeerState) (s : State) : (State.putPeer p j x s).talon = s.talon := rfl
@[simp] theorem State.putPeer_vision (p j : Nat) (x : PeerState) (s : State) : (State.putPeer p j x s).vision = s.vision := rfl
@[simp] theorem State.putPeer_media (p j : Nat) (x : PeerState) (s : State) : (State.putPeer p j x s).media = s.media := rfl
@[simp] theorem State.putPeer_update (p j : Nat) (x : PeerState) (s : State) : (State.putPeer p j x s).update = s.update := rfl

/-! ### State.putLink -/

@[simp] theorem State.putLink_pending (l : Nat) (x : LinkRun) (s : State) : (State.putLink l x s).pending = s.pending := rfl
@[simp] theorem State.putLink_fuses (l : Nat) (x : LinkRun) (s : State) : (State.putLink l x s).fuses = s.fuses := rfl
@[simp] theorem State.putLink_now (l : Nat) (x : LinkRun) (s : State) : (State.putLink l x s).now = s.now := rfl
@[simp] theorem State.putLink_freeCtr (l : Nat) (x : LinkRun) (s : State) : (State.putLink l x s).freeCtr = s.freeCtr := rfl
@[simp] theorem State.putLink_regs (l : Nat) (x : LinkRun) (s : State) : (State.putLink l x s).regs = s.regs := rfl
@[simp] theorem State.putLink_heldRS (l : Nat) (x : LinkRun) (s : State) : (State.putLink l x s).heldRS = s.heldRS := rfl
@[simp] theorem State.putLink_pcie (l : Nat) (x : LinkRun) (s : State) : (State.putLink l x s).pcie = s.pcie := rfl
@[simp] theorem State.putLink_mgmt (l : Nat) (x : LinkRun) (s : State) : (State.putLink l x s).mgmt = s.mgmt := rfl
@[simp] theorem State.putLink_ledger (l : Nat) (x : LinkRun) (s : State) : (State.putLink l x s).ledger = s.ledger := rfl
@[simp] theorem State.putLink_side (l : Nat) (x : LinkRun) (s : State) : (State.putLink l x s).side = s.side := rfl
@[simp] theorem State.putLink_cores (l : Nat) (x : LinkRun) (s : State) : (State.putLink l x s).cores = s.cores := rfl
@[simp] theorem State.putLink_memory (l : Nat) (x : LinkRun) (s : State) : (State.putLink l x s).memory = s.memory := rfl
@[simp] theorem State.putLink_power (l : Nat) (x : LinkRun) (s : State) : (State.putLink l x s).power = s.power := rfl
@[simp] theorem State.putLink_dealer (l : Nat) (x : LinkRun) (s : State) : (State.putLink l x s).dealer = s.dealer := rfl
@[simp] theorem State.putLink_cvOwner (l : Nat) (x : LinkRun) (s : State) : (State.putLink l x s).cvOwner = s.cvOwner := rfl
@[simp] theorem State.putLink_serving (l : Nat) (x : LinkRun) (s : State) : (State.putLink l x s).serving = s.serving := rfl
@[simp] theorem State.putLink_pfx (l : Nat) (x : LinkRun) (s : State) : (State.putLink l x s).pfx = s.pfx := rfl
@[simp] theorem State.putLink_talon (l : Nat) (x : LinkRun) (s : State) : (State.putLink l x s).talon = s.talon := rfl
@[simp] theorem State.putLink_vision (l : Nat) (x : LinkRun) (s : State) : (State.putLink l x s).vision = s.vision := rfl
@[simp] theorem State.putLink_media (l : Nat) (x : LinkRun) (s : State) : (State.putLink l x s).media = s.media := rfl
@[simp] theorem State.putLink_update (l : Nat) (x : LinkRun) (s : State) : (State.putLink l x s).update = s.update := rfl

/-! ### State.setTrick -/

@[simp] theorem State.setTrick_pending (sl t : Nat) (s : State) : (State.setTrick sl t s).pending = s.pending := rfl
@[simp] theorem State.setTrick_fuses (sl t : Nat) (s : State) : (State.setTrick sl t s).fuses = s.fuses := rfl
@[simp] theorem State.setTrick_now (sl t : Nat) (s : State) : (State.setTrick sl t s).now = s.now := rfl
@[simp] theorem State.setTrick_freeCtr (sl t : Nat) (s : State) : (State.setTrick sl t s).freeCtr = s.freeCtr := rfl
@[simp] theorem State.setTrick_heldRS (sl t : Nat) (s : State) : (State.setTrick sl t s).heldRS = s.heldRS := rfl
@[simp] theorem State.setTrick_pcie (sl t : Nat) (s : State) : (State.setTrick sl t s).pcie = s.pcie := rfl
@[simp] theorem State.setTrick_mgmt (sl t : Nat) (s : State) : (State.setTrick sl t s).mgmt = s.mgmt := rfl
@[simp] theorem State.setTrick_ledger (sl t : Nat) (s : State) : (State.setTrick sl t s).ledger = s.ledger := rfl
@[simp] theorem State.setTrick_side (sl t : Nat) (s : State) : (State.setTrick sl t s).side = s.side := rfl
@[simp] theorem State.setTrick_cores (sl t : Nat) (s : State) : (State.setTrick sl t s).cores = s.cores := rfl
@[simp] theorem State.setTrick_memory (sl t : Nat) (s : State) : (State.setTrick sl t s).memory = s.memory := rfl
@[simp] theorem State.setTrick_power (sl t : Nat) (s : State) : (State.setTrick sl t s).power = s.power := rfl
@[simp] theorem State.setTrick_dealer (sl t : Nat) (s : State) : (State.setTrick sl t s).dealer = s.dealer := rfl
@[simp] theorem State.setTrick_cvOwner (sl t : Nat) (s : State) : (State.setTrick sl t s).cvOwner = s.cvOwner := rfl
@[simp] theorem State.setTrick_serving (sl t : Nat) (s : State) : (State.setTrick sl t s).serving = s.serving := rfl
@[simp] theorem State.setTrick_pfx (sl t : Nat) (s : State) : (State.setTrick sl t s).pfx = s.pfx := rfl
@[simp] theorem State.setTrick_talon (sl t : Nat) (s : State) : (State.setTrick sl t s).talon = s.talon := rfl
@[simp] theorem State.setTrick_ndx (sl t : Nat) (s : State) : (State.setTrick sl t s).ndx = s.ndx := rfl
@[simp] theorem State.setTrick_vision (sl t : Nat) (s : State) : (State.setTrick sl t s).vision = s.vision := rfl
@[simp] theorem State.setTrick_media (sl t : Nat) (s : State) : (State.setTrick sl t s).media = s.media := rfl
@[simp] theorem State.setTrick_update (sl t : Nat) (s : State) : (State.setTrick sl t s).update = s.update := rfl

/-! ### State.writeBoot -/

@[simp] theorem State.writeBoot_pending (r : BootRecord) (s : State) : (State.writeBoot r s).pending = s.pending := rfl
@[simp] theorem State.writeBoot_fuses (r : BootRecord) (s : State) : (State.writeBoot r s).fuses = s.fuses := rfl
@[simp] theorem State.writeBoot_now (r : BootRecord) (s : State) : (State.writeBoot r s).now = s.now := rfl
@[simp] theorem State.writeBoot_freeCtr (r : BootRecord) (s : State) : (State.writeBoot r s).freeCtr = s.freeCtr := rfl
@[simp] theorem State.writeBoot_regs (r : BootRecord) (s : State) : (State.writeBoot r s).regs = s.regs := rfl
@[simp] theorem State.writeBoot_heldRS (r : BootRecord) (s : State) : (State.writeBoot r s).heldRS = s.heldRS := rfl
@[simp] theorem State.writeBoot_pcie (r : BootRecord) (s : State) : (State.writeBoot r s).pcie = s.pcie := rfl
@[simp] theorem State.writeBoot_mgmt (r : BootRecord) (s : State) : (State.writeBoot r s).mgmt = s.mgmt := rfl
@[simp] theorem State.writeBoot_ledger (r : BootRecord) (s : State) : (State.writeBoot r s).ledger = s.ledger := rfl
@[simp] theorem State.writeBoot_side (r : BootRecord) (s : State) : (State.writeBoot r s).side = s.side := rfl
@[simp] theorem State.writeBoot_cores (r : BootRecord) (s : State) : (State.writeBoot r s).cores = s.cores := rfl
@[simp] theorem State.writeBoot_memory (r : BootRecord) (s : State) : (State.writeBoot r s).memory = s.memory := rfl
@[simp] theorem State.writeBoot_power (r : BootRecord) (s : State) : (State.writeBoot r s).power = s.power := rfl
@[simp] theorem State.writeBoot_dealer (r : BootRecord) (s : State) : (State.writeBoot r s).dealer = s.dealer := rfl
@[simp] theorem State.writeBoot_cvOwner (r : BootRecord) (s : State) : (State.writeBoot r s).cvOwner = s.cvOwner := rfl
@[simp] theorem State.writeBoot_serving (r : BootRecord) (s : State) : (State.writeBoot r s).serving = s.serving := rfl
@[simp] theorem State.writeBoot_pfx (r : BootRecord) (s : State) : (State.writeBoot r s).pfx = s.pfx := rfl
@[simp] theorem State.writeBoot_talon (r : BootRecord) (s : State) : (State.writeBoot r s).talon = s.talon := rfl
@[simp] theorem State.writeBoot_ndx (r : BootRecord) (s : State) : (State.writeBoot r s).ndx = s.ndx := rfl
@[simp] theorem State.writeBoot_vision (r : BootRecord) (s : State) : (State.writeBoot r s).vision = s.vision := rfl
@[simp] theorem State.writeBoot_media (r : BootRecord) (s : State) : (State.writeBoot r s).media = s.media := rfl

/-! ### State.norWrite -/

@[simp] theorem State.norWrite_pending (off : Nat) (b : List Byte) (s : State) : (State.norWrite off b s).pending = s.pending := rfl
@[simp] theorem State.norWrite_fuses (off : Nat) (b : List Byte) (s : State) : (State.norWrite off b s).fuses = s.fuses := rfl
@[simp] theorem State.norWrite_now (off : Nat) (b : List Byte) (s : State) : (State.norWrite off b s).now = s.now := rfl
@[simp] theorem State.norWrite_freeCtr (off : Nat) (b : List Byte) (s : State) : (State.norWrite off b s).freeCtr = s.freeCtr := rfl
@[simp] theorem State.norWrite_regs (off : Nat) (b : List Byte) (s : State) : (State.norWrite off b s).regs = s.regs := rfl
@[simp] theorem State.norWrite_heldRS (off : Nat) (b : List Byte) (s : State) : (State.norWrite off b s).heldRS = s.heldRS := rfl
@[simp] theorem State.norWrite_pcie (off : Nat) (b : List Byte) (s : State) : (State.norWrite off b s).pcie = s.pcie := rfl
@[simp] theorem State.norWrite_mgmt (off : Nat) (b : List Byte) (s : State) : (State.norWrite off b s).mgmt = s.mgmt := rfl
@[simp] theorem State.norWrite_ledger (off : Nat) (b : List Byte) (s : State) : (State.norWrite off b s).ledger = s.ledger := rfl
@[simp] theorem State.norWrite_side (off : Nat) (b : List Byte) (s : State) : (State.norWrite off b s).side = s.side := rfl
@[simp] theorem State.norWrite_cores (off : Nat) (b : List Byte) (s : State) : (State.norWrite off b s).cores = s.cores := rfl
@[simp] theorem State.norWrite_memory (off : Nat) (b : List Byte) (s : State) : (State.norWrite off b s).memory = s.memory := rfl
@[simp] theorem State.norWrite_power (off : Nat) (b : List Byte) (s : State) : (State.norWrite off b s).power = s.power := rfl
@[simp] theorem State.norWrite_dealer (off : Nat) (b : List Byte) (s : State) : (State.norWrite off b s).dealer = s.dealer := rfl
@[simp] theorem State.norWrite_cvOwner (off : Nat) (b : List Byte) (s : State) : (State.norWrite off b s).cvOwner = s.cvOwner := rfl
@[simp] theorem State.norWrite_serving (off : Nat) (b : List Byte) (s : State) : (State.norWrite off b s).serving = s.serving := rfl
@[simp] theorem State.norWrite_pfx (off : Nat) (b : List Byte) (s : State) : (State.norWrite off b s).pfx = s.pfx := rfl
@[simp] theorem State.norWrite_talon (off : Nat) (b : List Byte) (s : State) : (State.norWrite off b s).talon = s.talon := rfl
@[simp] theorem State.norWrite_ndx (off : Nat) (b : List Byte) (s : State) : (State.norWrite off b s).ndx = s.ndx := rfl
@[simp] theorem State.norWrite_vision (off : Nat) (b : List Byte) (s : State) : (State.norWrite off b s).vision = s.vision := rfl
@[simp] theorem State.norWrite_media (off : Nat) (b : List Byte) (s : State) : (State.norWrite off b s).media = s.media := rfl

/-! ### State.norErase -/

@[simp] theorem State.norErase_pending (off n : Nat) (s : State) : (State.norErase off n s).pending = s.pending := rfl
@[simp] theorem State.norErase_fuses (off n : Nat) (s : State) : (State.norErase off n s).fuses = s.fuses := rfl
@[simp] theorem State.norErase_now (off n : Nat) (s : State) : (State.norErase off n s).now = s.now := rfl
@[simp] theorem State.norErase_freeCtr (off n : Nat) (s : State) : (State.norErase off n s).freeCtr = s.freeCtr := rfl
@[simp] theorem State.norErase_regs (off n : Nat) (s : State) : (State.norErase off n s).regs = s.regs := rfl
@[simp] theorem State.norErase_heldRS (off n : Nat) (s : State) : (State.norErase off n s).heldRS = s.heldRS := rfl
@[simp] theorem State.norErase_pcie (off n : Nat) (s : State) : (State.norErase off n s).pcie = s.pcie := rfl
@[simp] theorem State.norErase_mgmt (off n : Nat) (s : State) : (State.norErase off n s).mgmt = s.mgmt := rfl
@[simp] theorem State.norErase_ledger (off n : Nat) (s : State) : (State.norErase off n s).ledger = s.ledger := rfl
@[simp] theorem State.norErase_side (off n : Nat) (s : State) : (State.norErase off n s).side = s.side := rfl
@[simp] theorem State.norErase_cores (off n : Nat) (s : State) : (State.norErase off n s).cores = s.cores := rfl
@[simp] theorem State.norErase_memory (off n : Nat) (s : State) : (State.norErase off n s).memory = s.memory := rfl
@[simp] theorem State.norErase_power (off n : Nat) (s : State) : (State.norErase off n s).power = s.power := rfl
@[simp] theorem State.norErase_dealer (off n : Nat) (s : State) : (State.norErase off n s).dealer = s.dealer := rfl
@[simp] theorem State.norErase_cvOwner (off n : Nat) (s : State) : (State.norErase off n s).cvOwner = s.cvOwner := rfl
@[simp] theorem State.norErase_serving (off n : Nat) (s : State) : (State.norErase off n s).serving = s.serving := rfl
@[simp] theorem State.norErase_pfx (off n : Nat) (s : State) : (State.norErase off n s).pfx = s.pfx := rfl
@[simp] theorem State.norErase_talon (off n : Nat) (s : State) : (State.norErase off n s).talon = s.talon := rfl
@[simp] theorem State.norErase_ndx (off n : Nat) (s : State) : (State.norErase off n s).ndx = s.ndx := rfl
@[simp] theorem State.norErase_vision (off n : Nat) (s : State) : (State.norErase off n s).vision = s.vision := rfl
@[simp] theorem State.norErase_media (off n : Nat) (s : State) : (State.norErase off n s).media = s.media := rfl

/-! ### State.answer -/

@[simp] theorem State.answer_pending (m : SidebandMsg) (st : Nat) (body : List Byte) (s : State) : (State.answer m st body s).pending = s.pending := rfl
@[simp] theorem State.answer_fuses (m : SidebandMsg) (st : Nat) (body : List Byte) (s : State) : (State.answer m st body s).fuses = s.fuses := rfl
@[simp] theorem State.answer_now (m : SidebandMsg) (st : Nat) (body : List Byte) (s : State) : (State.answer m st body s).now = s.now := rfl
@[simp] theorem State.answer_freeCtr (m : SidebandMsg) (st : Nat) (body : List Byte) (s : State) : (State.answer m st body s).freeCtr = s.freeCtr := rfl
@[simp] theorem State.answer_regs (m : SidebandMsg) (st : Nat) (body : List Byte) (s : State) : (State.answer m st body s).regs = s.regs := rfl
@[simp] theorem State.answer_heldRS (m : SidebandMsg) (st : Nat) (body : List Byte) (s : State) : (State.answer m st body s).heldRS = s.heldRS := rfl
@[simp] theorem State.answer_mgmt (m : SidebandMsg) (st : Nat) (body : List Byte) (s : State) : (State.answer m st body s).mgmt = s.mgmt := rfl
@[simp] theorem State.answer_ledger (m : SidebandMsg) (st : Nat) (body : List Byte) (s : State) : (State.answer m st body s).ledger = s.ledger := rfl
@[simp] theorem State.answer_side (m : SidebandMsg) (st : Nat) (body : List Byte) (s : State) : (State.answer m st body s).side = s.side := rfl
@[simp] theorem State.answer_cores (m : SidebandMsg) (st : Nat) (body : List Byte) (s : State) : (State.answer m st body s).cores = s.cores := rfl
@[simp] theorem State.answer_memory (m : SidebandMsg) (st : Nat) (body : List Byte) (s : State) : (State.answer m st body s).memory = s.memory := rfl
@[simp] theorem State.answer_power (m : SidebandMsg) (st : Nat) (body : List Byte) (s : State) : (State.answer m st body s).power = s.power := rfl
@[simp] theorem State.answer_dealer (m : SidebandMsg) (st : Nat) (body : List Byte) (s : State) : (State.answer m st body s).dealer = s.dealer := rfl
@[simp] theorem State.answer_cvOwner (m : SidebandMsg) (st : Nat) (body : List Byte) (s : State) : (State.answer m st body s).cvOwner = s.cvOwner := rfl
@[simp] theorem State.answer_serving (m : SidebandMsg) (st : Nat) (body : List Byte) (s : State) : (State.answer m st body s).serving = s.serving := rfl
@[simp] theorem State.answer_pfx (m : SidebandMsg) (st : Nat) (body : List Byte) (s : State) : (State.answer m st body s).pfx = s.pfx := rfl
@[simp] theorem State.answer_talon (m : SidebandMsg) (st : Nat) (body : List Byte) (s : State) : (State.answer m st body s).talon = s.talon := rfl
@[simp] theorem State.answer_ndx (m : SidebandMsg) (st : Nat) (body : List Byte) (s : State) : (State.answer m st body s).ndx = s.ndx := rfl
@[simp] theorem State.answer_vision (m : SidebandMsg) (st : Nat) (body : List Byte) (s : State) : (State.answer m st body s).vision = s.vision := rfl
@[simp] theorem State.answer_media (m : SidebandMsg) (st : Nat) (body : List Byte) (s : State) : (State.answer m st body s).media = s.media := rfl
@[simp] theorem State.answer_update (m : SidebandMsg) (st : Nat) (body : List Byte) (s : State) : (State.answer m st body s).update = s.update := rfl

end Sys2Proof.Machine
end

