-- ==== Sys2Proof/Laws/Ops.lean ====
section
/-! SUPPORT. Laws/Ops.lean: what the shared operations do: finite maps, cells, registers, messages, status words, stores of cores, task
bodies, sideband messages and ring pointers. -/
namespace Sys2Proof.Machine

/-! ### Finite maps -/

@[simp] theorem mapGet_mapSet_same {α : Type} (k : Nat) (v : α) (m : List (Nat × α)) : mapGet k (mapSet k v m) = some v := by
  induction m with
  | nil => simp [mapSet, mapGet]
  | cons e t ih =>
    obtain ⟨j, u⟩ := e
    unfold mapSet
    split
    · simp [mapGet]
    · split
      · simp [mapGet]
      · rename_i hne; simp [mapGet, hne, ih]

theorem mapGet_mapSet_other {α : Type} {k j : Nat} (h : j ≠ k) (v : α) (m : List (Nat × α)) : mapGet j (mapSet k v m) = mapGet j m := by
  induction m with
  | nil => simp [mapSet, mapGet, Ne.symm h]
  | cons e t ih =>
    obtain ⟨i, u⟩ := e
    unfold mapSet
    split
    · simp [mapGet, Ne.symm h]
    · split
      · rename_i hik; subst hik; simp [mapGet, Ne.symm h]
      · simp [mapGet, ih]

theorem mapGet_filter_keep {α : Type} (p : Nat → Bool) {k : Nat} (h : p k = true) (m : List (Nat × α)) :
    mapGet k (m.filter (fun e => p e.1)) = mapGet k m := by
  induction m with
  | nil => rfl
  | cons e t ih =>
    obtain ⟨j, u⟩ := e
    by_cases hj : j = k
    · subst hj; simp [mapGet, h]
    · by_cases hp : p j = true <;> simp [mapGet, hp, hj, ih]

theorem mapGet_filter_drop {α : Type} (p : Nat → Bool) {k : Nat} (h : p k = false) (m : List (Nat × α)) :
    mapGet k (m.filter (fun e => p e.1)) = none := by
  induction m with
  | nil => rfl
  | cons e t ih =>
    obtain ⟨j, u⟩ := e
    by_cases hp : p j = true
    · have hj : j ≠ k := by rintro rfl; simp [h] at hp
      simp [mapGet, hp, hj, ih]
    · simp [hp, ih]

/-! ### Cells -/

theorem cellsGet_put_same (d : Byte) (m : List Host.Cell) (a : Nat) (b : Byte) : cellsGet d (cellsPut d m a b) a = b := by
  unfold cellsGet cellsPut
  split
  · rename_i h; rw [mapDel, mapGet_filter_drop (fun j => decide (j ≠ a)) (by simp)]; simp [h]
  · simp

theorem cellsGet_put_other (d : Byte) (m : List Host.Cell) {a j : Nat} (b : Byte) (h : j ≠ a) :
    cellsGet d (cellsPut d m a b) j = cellsGet d m j := by
  unfold cellsGet cellsPut
  split
  · rw [mapDel, mapGet_filter_keep (fun i => decide (i ≠ a)) (by simp [h])]
  · rw [mapGet_mapSet_other h]

/-- A write leaves every byte outside its range as it was. -/
theorem cellsGet_write_outside (d : Byte) (bytes : List Byte) : ∀ (m : List Host.Cell) (a j : Nat), j < a ∨ a + bytes.length ≤ j →
    cellsGet d (cellsWrite d m a bytes) j = cellsGet d m j := by
  induction bytes with
  | nil => intro m a j _; rfl
  | cons b t ih =>
    intro m a j h
    simp only [List.length_cons] at h
    rw [cellsWrite, ih _ _ _ (by omega), cellsGet_put_other _ _ _ (by omega)]

/-- Byte i of a write is read back at its address. -/
theorem cellsGet_write_inside (d : Byte) (bytes : List Byte) : ∀ (m : List Host.Cell) (a i : Nat) (h : i < bytes.length),
    cellsGet d (cellsWrite d m a bytes) (a + i) = bytes[i] := by
  induction bytes with
  | nil => intro m a i h; simp at h
  | cons b t ih =>
    intro m a i h
    cases i with
    | zero => rw [cellsWrite, cellsGet_write_outside _ _ _ _ _ (by omega)]; simp [cellsGet_put_same]
    | succ i =>
      have e := ih (cellsPut d m a b) (a + 1) i (by simpa using h)
      simpa [cellsWrite, Nat.add_assoc, Nat.add_comm 1 i] using e

@[simp] theorem leBytes_length (k v : Nat) : (leBytes k v).length = k := by
  induction k generalizing v <;> simp_all [leBytes]

/-! ### Registers -/

@[simp] theorem State.wr_regs (off : Nat) (v : Word) (s : State) : (s.wr off v).regs = mapSet off v s.regs := rfl

@[simp] theorem State.rd_wr_same (off : Nat) (v : Word) (s : State) : (s.wr off v).rd off = v := by simp [State.rd]

theorem State.rd_wr_other {off j : Nat} (h : j ≠ off) (v : Word) (s : State) : (s.wr off v).rd j = s.rd j := by
  simp [State.rd, mapGet_mapSet_other h]

@[simp] theorem State.rd_wrN_same (off v : Nat) (s : State) : (s.wrN off v).rd off = BitVec.ofNat 32 v := State.rd_wr_same _ _ _

theorem State.rd_wrN_other {off j : Nat} (h : j ≠ off) (v : Nat) (s : State) : (s.wrN off v).rd j = s.rd j := State.rd_wr_other h _ _

@[simp] theorem State.emit_sent (m : Sent) (s : State) : (s.emit m).pcie.sent = m :: s.pcie.sent := rfl
@[simp] theorem State.drawn_freeCtr (s : State) : s.drawn.freeCtr = s.freeCtr + 1 := rfl
@[simp] theorem State.updCore_cores_other (s : State) (n : Nat) (f : CoreState → CoreState) : (s.updCore n f).memory = s.memory := rfl

/-! ### Messages and status words -/

/-- The part of State that neither messages, nor the ledger, nor registers, nor alerts are in. -/
def State.Quiet (s t : State) : Prop :=
  t.pending = s.pending ∧ t.fuses = s.fuses ∧ t.now = s.now ∧ t.freeCtr = s.freeCtr ∧ t.heldRS = s.heldRS ∧ t.cores = s.cores
    ∧ t.memory = s.memory ∧ t.power = s.power ∧ t.dealer = s.dealer ∧ t.cvOwner = s.cvOwner ∧ t.serving = s.serving ∧ t.pfx = s.pfx
    ∧ t.talon = s.talon ∧ t.ndx = s.ndx ∧ t.vision = s.vision ∧ t.media = s.media ∧ t.update = s.update
    ∧ t.pcie.hostMem = s.pcie.hostMem ∧ t.pcie.waiting = s.pcie.waiting ∧ t.pcie.busMaster = s.pcie.busMaster ∧ t.pcie.msix = s.pcie.msix

theorem State.Quiet.refl (s : State) : s.Quiet s := by simp [State.Quiet]

theorem State.Quiet.trans {s t u : State} (h : s.Quiet t) (k : t.Quiet u) : s.Quiet u := by
  simp only [State.Quiet] at *
  simp [k, h]

theorem State.wr_quiet (off : Nat) (v : Word) (s : State) : s.Quiet (s.wr off v) := by simp [State.Quiet]

/-- A message is sent, waits, or is lost; nothing else happens (R318). -/
theorem State.msix_cases (fn v : Nat) (s : State) :
    s.msix fn v = s ∨ s.msix fn v = { s with pcie := { s.pcie with pending := setInsert (256 * fn + v) s.pcie.pending } }
      ∨ s.msix fn v = s.emit (.msix fn v) := by
  unfold State.msix
  split
  · exact .inl rfl
  · split
    · exact .inr (.inl rfl)
    · exact .inr (.inr rfl)

theorem State.msix_quiet (fn v : Nat) (s : State) : s.Quiet (s.msix fn v) := by
  obtain h | h | h := State.msix_cases fn v s <;> rw [h] <;> simp [State.Quiet, State.emit]

/-- A write to host memory either is made or waits (R319). -/
theorem State.hostWrite_cases (fn addr : Nat) (b : List Byte) (s : State) :
    (s.busMaster fn = true ∧ s.hostWrite fn addr b = { s with pcie := { s.pcie with hostMem := cellsWrite 0 s.pcie.hostMem addr b } })
      ∨ (s.busMaster fn = false ∧ s.hostWrite fn addr b = { s with pcie := { s.pcie with waiting := s.pcie.waiting ++ [⟨fn, addr, b⟩] } }) := by
  unfold State.hostWrite
  split
  · rename_i h; exact .inl ⟨h, rfl⟩
  · rename_i h; exact .inr ⟨by simpa using h, rfl⟩

theorem State.noteStage_quiet (st : Nat) (s : State) : s.Quiet (s.noteStage st) := by
  unfold State.noteStage
  dsimp only
  split <;> simp [State.Quiet]

theorem State.capture_quiet (st : Nat) (s : State) : s.Quiet (s.capture st) := by
  have h : s.Quiet ((s.countSat (stBlock st * 0x100000 + 8) 0xFFFFFFFF).noteStage st) :=
    State.Quiet.trans (State.wr_quiet _ _ s) (State.noteStage_quiet st _)
  unfold State.capture
  dsimp only
  split
  · exact h.trans (State.wr_quiet _ _ _)
  · split <;> exact h.trans (State.wr_quiet _ _ _)

theorem State.setAlert_quiet (i : Nat) (s : State) : s.Quiet (s.setAlert i) := by
  have h1 : s.Quiet ((s.putBit Reg.HLT_ALERT i true).driveAlert) := by simp [State.Quiet]
  have h : s.Quiet ((((s.putBit Reg.HLT_ALERT i true).driveAlert).count (Reg.HLT_COUNTER 3)).capture St.HLT_ALERT_RAISED) :=
    (h1.trans (State.wr_quiet _ _ _)).trans (State.capture_quiet _ _)
  unfold State.setAlert
  dsimp only
  split
  · exact State.Quiet.refl s
  · split
    · exact h.trans (State.msix_quiet _ _ _)
    · exact h

theorem State.ledgerRecord_quiet (part status kind value : Nat) (p : Bool) (s : State) : s.Quiet (s.ledgerRecord part status kind value p) := by
  unfold State.ledgerRecord
  dsimp only
  repeat' split
  all_goals simp [State.Quiet]

theorem State.ledgerEvent_quiet (part st : Nat) (s : State) : s.Quiet (s.ledgerEvent part st) := by
  have h (r : List (Nat × (Nat × Nat))) : s.Quiet ({ s with ledger := { s.ledger with rate := r } }.ledgerRecord part st 1 0 false) :=
    State.Quiet.trans (t := { s with ledger := { s.ledger with rate := r } }) (by simp [State.Quiet]) (State.ledgerRecord_quiet _ _ _ _ _ _)
  unfold State.ledgerEvent
  dsimp only
  repeat' split
  all_goals first | exact State.wr_quiet _ _ s | exact h _

/-- A status word reaches registers, the ledger, alerts and messages, and nothing else (R39, R428, R434). -/
theorem State.postAt_quiet (part st : Nat) (s : State) : s.Quiet (s.postAt part st) := by
  have h1 := State.capture_quiet st s
  have h2 : s.Quiet (if 2 ≤ stSeverity st then (s.capture st).ledgerEvent part st else s.capture st) := by
    split
    · exact h1.trans (State.ledgerEvent_quiet _ _ _)
    · exact h1
  unfold State.postAt
  dsimp only
  split
  · exact State.Quiet.refl s
  · generalize (if 2 ≤ stSeverity st then (s.capture st).ledgerEvent part st else s.capture st) = t at h2
    have h3 : s.Quiet (if t.rdF Reg.HLT_CFG Fld.HLT_CFG_ALERT_SEV ≤ stSeverity st then t.setAlert 0 else t) := by
      split
      · exact h2.trans (State.setAlert_quiet _ _)
      · exact h2
    generalize (if t.rdF Reg.HLT_CFG Fld.HLT_CFG_ALERT_SEV ≤ stSeverity st then t.setAlert 0 else t) = u at h3 ⊢
    split
    · exact h3.trans (State.msix_quiet _ _ _)
    · exact h3

theorem State.post_quiet (st : Nat) (s : State) : s.Quiet (s.post st) := State.postAt_quiet 0 st s

/-- A status word about memory reaches what status words and MEM's log are in, and nothing else (R132, R39). -/
theorem State.postMem_quiet (part a st : Nat) (s : State) : s.Quiet (s.postMem part a st) := by
  have h : s.Quiet (s.memLog a st) := by
    unfold State.memLog
    dsimp only
    split <;> simp [State.Quiet]
  unfold State.postMem
  split
  · exact h.trans (State.postAt_quiet _ _ _)
  · exact State.postAt_quiet _ _ _

theorem State.postMem_memory (part a st : Nat) (s : State) : (s.postMem part a st).memory = s.memory := by
  have h := State.postMem_quiet part a st s
  simp only [State.Quiet] at h
  simp only [h]

/-! ### Stores of cores (R43, R130) -/

theorem filter_nil_of_all {α : Type} (l : List α) (p : α → Bool) (h : ∀ w ∈ l, p w = false) : l.filter p = [] := by
  simp only [List.filter_eq_nil_iff]
  intro a ha
  simp [h a ha]

/-- Words without upsets are read, and nothing else happens. -/
theorem State.readSram_clean (s : State) (ws : List Nat) (h1 : ∀ w ∈ ws, s.memory.sramSingle.contains w = false)
    (h2 : ∀ w ∈ ws, s.memory.sramDouble.contains w = false) : s.readSram ws = (none, s) := by
  have e1 : ws.filter (fun w => s.memory.sramSingle.contains w) = [] := filter_nil_of_all _ _ h1
  have e2 : ws.filter (fun w => s.memory.sramDouble.contains w) = [] := filter_nil_of_all _ _ h2
  unfold State.readSram
  rw [e1]
  simp only [State.overList, List.foldl_nil, e2]

/-- A correction leaves every double-bit upset where it is (R130). -/
theorem State.correctSram_double (w : Nat) (s : State) : (s.correctSram w).memory.sramDouble = s.memory.sramDouble := by
  unfold State.correctSram
  dsimp only
  rw [State.postMem_memory]
  simp

theorem State.correctSrams_double (ws : List Nat) (s : State) :
    (s.overList ws State.correctSram).memory.sramDouble = s.memory.sramDouble := by
  unfold State.overList
  induction ws generalizing s with
  | nil => rfl
  | cons w t ih => simp only [List.foldl_cons]; rw [ih]; exact State.correctSram_double w s

/-- Words without double-bit upsets are delivered (R130). -/
theorem State.readSram_delivers (s : State) (ws : List Nat) (h : ∀ w ∈ ws, s.memory.sramDouble.contains w = false) :
    (s.readSram ws).1 = none := by
  unfold State.readSram
  have e : ws.filter (fun w => (s.overList (ws.filter (fun w => s.memory.sramSingle.contains w)) State.correctSram).memory.sramDouble.contains w)
      = [] := by
    refine filter_nil_of_all _ _ (fun w hw => ?_)
    rw [State.correctSrams_double]
    exact h w hw
  simp only [e]

theorem State.sramRead_clean (s : State) (a n : Nat)
    (h : (wordsOf 8 a n).all (fun w => !s.memory.sramSingle.contains w && !s.memory.sramDouble.contains w) = true) :
    s.sramRead a n = (none, s) := by
  simp only [List.all_eq_true, Bool.and_eq_true, Bool.not_eq_true'] at h
  exact State.readSram_clean s _ (fun w hw => (h w hw).1) (fun w hw => (h w hw).2)

/-- An operand that can be read is read, and nothing else happens. -/
theorem State.useStore_clean (s : State) (c off len : Nat) (k : List Byte → State → State) (h : s.storeReadable c off len = true) :
    s.useStore c off len k = k (s.storeBytes c off len) s := by
  simp only [State.storeReadable, Bool.and_eq_true, decide_eq_true_eq] at h
  unfold State.useStore
  rw [State.sramRead_clean _ _ _ h.2]
  simp [Nat.not_lt.mpr h.1, State.storeBytes]

/-- A destination that can be written is written, and nothing else happens. -/
theorem State.putStore_clean (s : State) (c off : Nat) (b : List Byte) (h : s.storeWritable c off b.length = true) :
    s.putStore c off b = s.storePut c off b := by
  simp only [State.storeWritable, Bool.and_eq_true, decide_eq_true_eq, List.all_eq_true] at h
  unfold State.putStore State.storePut
  simp only [Nat.not_lt.mpr h.1, if_false]
  have e : (s.sramWrite (storeAddr c off) b).1 = none := by
    have r := State.readSram_delivers s ((wordsOf 8 (storeAddr c off) b.length).filter (fun w => !wholeWord 8 (storeAddr c off) b.length w))
      (fun w hw => by
        obtain ⟨h1, h2⟩ := List.mem_filter.mp hw
        have := h.2 w h1
        simp_all)
    unfold State.sramWrite
    dsimp only
    split <;> simp_all
  split <;> simp_all

@[simp] theorem State.storeReadable_updCore (s : State) (c off len n : Nat) (f : CoreState → CoreState) :
    (s.updCore n f).storeReadable c off len = s.storeReadable c off len := rfl
@[simp] theorem State.storeWritable_updCore (s : State) (c off len n : Nat) (f : CoreState → CoreState) :
    (s.updCore n f).storeWritable c off len = s.storeWritable c off len := rfl
@[simp] theorem State.storeBytes_updCore (s : State) (c off len n : Nat) (f : CoreState → CoreState) :
    (s.updCore n f).storeBytes c off len = s.storeBytes c off len := rfl

/-! ### Commands -/

/-- A command of a task body acts while the body runs. -/
theorem onBody_runs (n : Nat) (f : State → State) (s : State) (h : s.bodyRuns n = true) : onBody n f s = .next (f s) := by simp [onBody, h]

/-- A command of a task body changes nothing when no body runs there. -/
theorem onBody_idle (n : Nat) (f : State → State) (s : State) (h : s.bodyRuns n = false) : onBody n f s = .next s := by simp [onBody, h]

/-- A message that is served is taken and acted on (R477). -/
theorem State.serve_runs (code : Nat) (f : SidebandMsg → State → State) (s : State) (m : SidebandMsg) (rest : List SidebandMsg)
    (h : s.serves code m rest = true) : s.serve code f = f m (s.taking rest) := by
  simp only [State.serves, Bool.and_eq_true, decide_eq_true_eq, Bool.or_eq_true, Bool.not_eq_true'] at h
  obtain ⟨⟨⟨⟨h1, h2⟩, h3⟩, h4⟩, h5⟩ := h
  unfold State.serve
  rw [h1]
  dsimp only
  have e1 : ¬ (m.code ≠ code ∨ (!s.mgmtRuns) = true) := by simp [h2, h3]
  have e2 : ¬ ((s.update.activating.isSome && !servedActivating.contains code) = true) := by
    cases ha : s.update.activating <;> simp_all
  have e3 : ¬ (rest.head?.any (fun (x : SidebandMsg) => x.bad) = true) := by simp [h5]
  rw [if_neg e1, if_neg e2, if_neg e3]
  rfl

/-- A ring pointer within the ring is stored (R316). -/
theorem State.ringPointer_in (d : DoorbellWrite) (off log2 bad : Nat) (s : State) (hd : d.viaDoorbell = false) (h : d.value < 2 ^ log2) :
    s.ringPointer d off log2 bad = s.wrN off d.value := by
  simp [State.ringPointer, hd, Nat.not_le.mpr h]

/-- A step runs the command at the front of the queue. -/
theorem step_front (c : Instr) (rest : List Instr) (s : State) (h : s.pending = c :: rest) : step s = exec c { s with pending := rest } := by
  simp [step, h]

theorem step_idle (s : State) (h : s.pending = []) : step s = .next s.tick := by simp [step, h]

end Sys2Proof.Machine
end

