-- ==== Sys2Proof/Laws/Memory.lean ====
section
/-! SUPPORT. Laws/Memory.lean: every operation over a memory keeps its canonical form. -/
namespace Sys2Proof.Machine

/-- A memory whose first address is at least k, in canonical form. -/
def cellsFrom (dflt : Byte) (k : Nat) : List Host.Cell → Prop
  | [] => True
  | (a, b) :: t => k ≤ a ∧ b ≠ dflt ∧ cellsFrom dflt (a + 1) t

theorem cellsFrom_mono {dflt : Byte} {j k : Nat} (h : j ≤ k) {m : List Host.Cell} (hm : cellsFrom dflt k m) : cellsFrom dflt j m := by
  cases m with
  | nil => trivial
  | cons c t => exact ⟨Nat.le_trans h hm.1, hm.2⟩

theorem cellsWf_iff (dflt : Byte) (m : List Host.Cell) : cellsWf dflt m = true ↔ cellsFrom dflt 0 m := by
  induction m with
  | nil => simp [cellsWf, cellsFrom]
  | cons c t ih =>
    obtain ⟨a, b⟩ := c
    cases t with
    | nil => simp [cellsWf, cellsFrom]
    | cons c' t' =>
      obtain ⟨a', b'⟩ := c'
      simp only [cellsWf, Bool.and_eq_true, bne_iff_ne, ne_eq, decide_eq_true_eq, ih, cellsFrom]
      constructor
      · rintro ⟨⟨h1, h2⟩, -, h4, h5⟩; exact ⟨Nat.zero_le _, h1, h2, h4, h5⟩
      · rintro ⟨-, h1, h2, h4, h5⟩; exact ⟨⟨h1, h2⟩, Nat.zero_le _, h4, h5⟩

theorem cellsFrom_filter {dflt : Byte} (p : Host.Cell → Bool) {m : List Host.Cell} : ∀ {k : Nat}, cellsFrom dflt k m → cellsFrom dflt k (m.filter p) := by
  induction m with
  | nil => intro k h; exact h
  | cons c t ih =>
    obtain ⟨a, b⟩ := c
    intro k h
    by_cases hp : p (a, b)
    · rw [List.filter_cons_of_pos hp]; exact ⟨h.1, h.2.1, ih h.2.2⟩
    · rw [List.filter_cons_of_neg hp]; exact cellsFrom_mono (Nat.le_succ_of_le h.1) (ih h.2.2)

theorem cellsFrom_set {dflt b : Byte} (hb : b ≠ dflt) {a : Nat} {m : List Host.Cell} : ∀ {k : Nat}, k ≤ a → cellsFrom dflt k m →
    cellsFrom dflt k (mapSet a b m) := by
  induction m with
  | nil => intro k hk _; exact ⟨hk, hb, trivial⟩
  | cons c t ih =>
    obtain ⟨j, u⟩ := c
    intro k hk h
    unfold mapSet
    split
    · rename_i hlt; exact ⟨hk, hb, hlt, h.2.1, h.2.2⟩
    · split
      · rename_i hle heq; subst heq; exact ⟨hk, hb, h.2.2⟩
      · rename_i hle hne; exact ⟨h.1, h.2.1, ih (by omega) h.2.2⟩

theorem cellsWf_put {dflt : Byte} {m : List Host.Cell} (h : cellsWf dflt m = true) (a : Nat) (b : Byte) : cellsWf dflt (cellsPut dflt m a b) = true := by
  rw [cellsWf_iff] at *
  unfold cellsPut
  split
  · exact cellsFrom_filter _ h
  · rename_i hb; exact cellsFrom_set hb (Nat.zero_le _) h

/-- Every write of a run of bytes keeps the canonical form. -/
theorem cellsWf_write {dflt : Byte} (bytes : List Byte) : ∀ {m : List Host.Cell} (a : Nat), cellsWf dflt m = true → cellsWf dflt (cellsWrite dflt m a bytes) = true := by
  induction bytes with
  | nil => intro m a h; exact h
  | cons b t ih => intro m a h; exact ih _ (cellsWf_put h a b)

theorem cellsWf_clear {dflt : Byte} {m : List Host.Cell} (h : cellsWf dflt m = true) (a n : Nat) : cellsWf dflt (cellsClear m a n) = true := by
  rw [cellsWf_iff] at *
  exact cellsFrom_filter _ h

theorem cellsWf_nil (dflt : Byte) : cellsWf dflt [] = true := rfl

theorem cellsWf_writes {α : Type} {dflt : Byte} (f : α → Nat) (g : α → List Byte) (l : List α) : ∀ {m : List Host.Cell}, cellsWf dflt m = true →
    cellsWf dflt (l.foldl (fun m w => cellsWrite dflt m (f w) (g w)) m) = true := by
  induction l with
  | nil => intro m h; exact h
  | cons a t ih => intro m h; exact ih (cellsWf_write _ _ h)

theorem cellsWf_puts {α : Type} {dflt : Byte} (f : α → Nat) (g : α → Byte) (l : List α) : ∀ {m : List Host.Cell}, cellsWf dflt m = true →
    cellsWf dflt (l.foldl (fun m w => cellsPut dflt m (f w) (g w)) m) = true := by
  induction l with
  | nil => intro m h; exact h
  | cons a t ih => intro m h; exact ih (cellsWf_put h _ _)

/-! ### The three memories of the module -/

theorem Memory.wf_iff (s : State) : Memory.wf s = true ↔
    cellsWf 0 s.memory.mem = true ∧ cellsWf 0 s.pcie.hostMem = true ∧ cellsWf 0xFF s.update.nor = true ∧ cellsWf 0xFF s.update.control = true := by
  simp [Memory.wf, and_assoc]

theorem Memory.wf_reset : Memory.wf State.reset = true := by decide

theorem Memory.wf_poke (a : Nat) (b : List Byte) (s : State) (h : Memory.wf s = true) : Memory.wf (s.poke a b) = true := by
  rw [Memory.wf_iff] at *
  exact ⟨cellsWf_write _ _ h.1, h.2⟩

theorem Memory.wf_zeroRange (a n : Nat) (s : State) (h : Memory.wf s = true) : Memory.wf (s.zeroRange a n) = true := by
  rw [Memory.wf_iff] at *
  exact ⟨cellsWf_clear h.1 _ _, h.2⟩

theorem Memory.wf_hostWrite (fn addr : Nat) (b : List Byte) (s : State) (h : Memory.wf s = true) : Memory.wf (s.hostWrite fn addr b) = true := by
  rw [Memory.wf_iff] at *
  obtain ⟨-, e⟩ | ⟨-, e⟩ := State.hostWrite_cases fn addr b s
  · rw [e]; exact ⟨h.1, cellsWf_write _ _ h.2.1, h.2.2⟩
  · rw [e]; exact h

theorem Memory.wf_norWrite (off : Nat) (b : List Byte) (s : State) (h : Memory.wf s = true) : Memory.wf (s.norWrite off b) = true := by
  rw [Memory.wf_iff] at *
  exact ⟨h.1, h.2.1, cellsWf_write _ _ h.2.2.1, h.2.2.2⟩

theorem Memory.wf_norErase (off n : Nat) (s : State) (h : Memory.wf s = true) : Memory.wf (s.norErase off n) = true := by
  rw [Memory.wf_iff] at *
  exact ⟨h.1, h.2.1, cellsWf_clear h.2.2.1 _ _, h.2.2.2⟩

/-- What is quiet in messages and status words keeps the three memories. -/
theorem Memory.wf_quiet {s t : State} (q : s.Quiet t) (h : Memory.wf s = true) : Memory.wf t = true := by
  obtain ⟨-, -, -, -, -, -, e, -, -, -, -, -, -, -, -, -, u, m, -⟩ := q
  rw [Memory.wf_iff, e, m, u]
  exact (Memory.wf_iff s).mp h

end Sys2Proof.Machine
end

