-- ==== Sys2Proof/Tests/Slice0.lean ====
section
/-! SUPPORT. Tests/Slice0.lean: the model's own tests: words and checks of the spec, an ill-formed term for each check of WellFormed, and for every
statement with hypotheses a state and operands that meet them. -/
namespace Sys2Proof.Tests
open Sys2Proof Sys2Proof.Machine
set_option Elab.async false

/-! ### Small states -/

/-- Ready, the PCIe link at full rate, every C-die in P0, P0 RUNNING, no core folded, and Bus Master Enable of PF0 and VF1. -/
def up : State :=
  let s := (State.reset.wrF Reg.MGT_STATE Fld.MGT_STATE_STATE 1).wrF Reg.PCI_LINK Fld.PCI_LINK_SPEED 6
  let s := (s.wrF (Reg.PART_STATE 0) Fld.PART_STATE_DIES 15).wrF (Reg.PART_STATE 0) Fld.PART_STATE_STATE 1
  let s := (s.wrF Reg.PWR_STATE Fld.PWR_STATE_STATE 2).wrF Reg.DEAL_STATE Fld.DEAL_STATE_PART_RUNNING 1
  let s := s.overList (List.range 48) (fun i t => t.wrN (Reg.CORE_MAP i) 0xFFFFFFFF)
  let s := s.overList (List.range 3) (fun i t => t.wrN (Reg.CLUSTER_MAP i) 0xFFFFFFFF)
  { s with pcie := { s.pcie with busMaster := [0, 1] }, power := { s.power with standby := false } }

/-- A task that runs on core 0. -/
def aTask : Task where
  desc := ⟨0, .prefill, false, 0, [], [⟨1, 1, 1, 0⟩], 0, 1, 0, 1, 0, 0, 0, 0, []⟩
  phase := .running
  count := 0
  abortForm := false
  readyAt := 0
  agedAt := none
  heldSince := none
  reserved := []
  placement := 0
  cores := [0]
  charged := 0
  startTs := 0
  runTs := 0
  limit := 0
  endTs := 0
  status := 0
  flags := 0
  stallMax := 0

def aGraph : Graph := ⟨1, 0, .sq 0, 0, 0, 0, false, none, false, [aTask]⟩

/-- `up` with a body running on core 0, whose domains are powered. -/
def body : State :=
  { up with
    dealer := { up.dealer with graphs := [aGraph] }
    cores := [(0, { CoreState.fresh with task := some (1, 0) })]
    power := { up.power with coresUp := [0], clustersUp := [0] } }

/-- A core of `body` changed. -/
def withCore (f : CoreState → CoreState) : State := body.updCore 0 f

/-! ### Witnesses: cores -/

/-- A command that waits a cycle, and writes that collide in the store of its core and in a pool. -/
def waits : Waits := ⟨1, [(0, 1)], [(0, 1)]⟩
/-- A command that waits for nothing. -/
def noWaits : Waits := ⟨0, [], []⟩
/-- `body` once a command has waited. -/
def late : State := body.waited 0 waits

theorem witness_arrayOp : body.bodyRuns 0 = true ∧ arrayShape .bf16 .bf16 = some (32, 16) ∧
    late.storeReadable 0 (storeSize - 64) (32 * NumFmt_bytes .bf16) = true ∧ late.storeReadable 0 storeSize 0 = true := by decide +kernel
theorem witness_arrayOp_mx : body.bodyRuns 0 = true ∧ arrayShape .fp4 .fp4 = some (64, 32) ∧ late.storeReadable 0 (storeSize - 32) 32 = true ∧
    late.storeReadable 0 0 2 = true := by decide +kernel
/-- Two rows of sums on their way, the younger ready first. -/
def landed (add : Bool) : State := withCore (fun c => { c with landing := [⟨storeSize - 8, add, true, [(6, 0)], 9⟩, ⟨storeSize - 4, add, true, [(5, 0)], 8⟩] })
theorem witness_arrayResultLand (add : Bool) : let l : Landing := ⟨storeSize - 4, add, true, [(5, 0)], 8⟩; let t := (landed add).waited 0 waits
    (landed add).coreRuns 0 = true ∧ landingRow 1 (t.coreAt 0).landing = some l ∧ t.storeReadable 0 l.acc (if l.add = true then 4 * l.sums.length else 0) = true ∧
    t.storeWritable 0 l.acc (4 * l.sums.length) = true := by revert add; decide +kernel
theorem witness_weightTileLoad : body.bodyRuns 0 = true ∧ (arrayShape .int8 .int8).isSome = true ∧
    late.storeReadable 0 (storeSize - (tileBytes .int8 .int8).1) (tileBytes .int8 .int8).1 = true ∧
    late.storeReadable 0 0 (tileBytes .int8 .int8).2 = true := by decide +kernel
theorem witness_arraySwap : body.bodyRuns 0 = true := by decide +kernel
theorem witness_outputStage : body.bodyRuns 0 = true ∧ NumFmt.bf16 ≠ .fp4 ∧ NumFmt.bf16 ≠ .int32 ∧ late.storeReadable 0 0 (4 * 32) = true ∧
    late.storeReadable 0 128 (4 * 32) = true ∧ late.storeReadable 0 256 (4 * 32) = true ∧
    late.storeWritable 0 (storeSize - 64) (32 * NumFmt_bytes .bf16) = true := by decide +kernel
theorem witness_vectorArithmetic : body.bodyRuns 0 = true ∧ (intLane .sra 0 0).isSome = true ∧ LaneFmt.bf16 ≠ .int32 ∧
    (floatLane .fma .nan .nan .nan).isSome = true := by decide +kernel
theorem witness_vectorConvert : body.bodyRuns 0 = true ∧ NumFmt.fp32 ≠ .fp4 ∧ NumFmt.e4m3 ≠ .fp4 := by decide +kernel
theorem witness_mxfp4BlockConvert : body.bodyRuns 0 = true ∧ 3 < (if true = true then 4 else 2) ∧ late.storeWritable 0 (storeSize - 16) 16 = true ∧
    late.storeWritable 0 (storeSize - 17) 1 = true := by decide +kernel
theorem witness_vectorLoadStore : body.bodyRuns 0 = true ∧ late.storeReadable 0 (storeSize - 256) 256 = true ∧
    late.storeWritable 0 (storeSize - 256) 256 = true := by decide +kernel
def sfuReady : State := withCore (fun c => { c with sfu := [⟨1, 0, false, [0x3F800000], 0⟩] })
theorem witness_sfuResult : sfuReady.coreRuns 0 = true ∧ (sfuReady.coreAt 0).sfu = [⟨1, 0, false, [0x3F800000], 0⟩] := by decide +kernel
theorem witness_controlWait : body.bodyRuns 0 = true ∧ 0xFFC < 0x1000 ∧ late.storeWritable 0 (storeSize - 4) 4 = true := by decide +kernel
theorem witness_controlWait_met : 0 ≤ mapGetD 0 2 (body.coreAt 0).done ∧ ¬ 1 ≤ mapGetD 0 2 (body.coreAt 0).done := by decide +kernel
theorem witness_coreFault : (body.upset []).bodyRuns 0 = true ∧ ((body.upset []).coreAt 0).task = some (1, 0) := by decide +kernel
/-- A move of 64 bytes within the core's store. -/
def localMove : StreamDesc := ⟨false, 0, false, storeSize - 64, 64, []⟩
theorem witness_streamMove : (body.upset []).startsNow 0 3 waits = true ∧ localMove.dims.length ≤ 5 ∧ localMove.elemBytes ≠ 0 ∧
    (localMove.dims.any (fun x => x.count == 0)) = false ∧ late.corePart 0 = some 0 ∧
    (late.resolveAll 0 0 localMove).toOption = some [(storeAddr 0 0, storeAddr 0 (storeSize - 64))] := by decide +kernel
/-- A started move into global space, and the space that takes it. -/
def globalMove : StreamDesc := ⟨false, 0, true, 0, 64, []⟩
def moving : State := withCore (fun c => { c with queues := [(2, ⟨globalMove, []⟩)] })
/-- A descriptor behind one that has started, and one behind one that is held. -/
theorem witness_streamMove_held : (moving.upset []).bodyRuns 0 = true ∧ (moving.waited 0 waits).queueFree 0 2 = false ∧
    (((withCore (fun c => { c with issued := [(2, .move localMove)] })).waited 0 waits).coreAt 0).nextItem 2 ≠ none := by decide +kernel
theorem witness_streamMoveComplete : let t := moving.waited 0 waits
    (moving.upset []).coreRuns 0 = true ∧ (t.coreAt 0).queues.find? (fun e => e.1 == 2) = some (2, ⟨globalMove, []⟩) ∧
    t.corePart 0 = some 0 ∧ (t.resolveAll 0 0 globalMove).toOption = some [(storeAddr 0 0, 0)] := by decide +kernel

/-- A word from the fields of a descriptor: values and their lowest bits. -/
def word (l : List (Nat × Nat)) : Nat := (l.map (fun e => e.1 * 2 ^ e.2)).sum

/-- A 1 × 1 tap over 2 × 2 pixels of one byte in the core's store. -/
def tapWords : List Nat :=
  [0, word [(2, 0), (1, 32)], word [(2, 0), (2, 16), (1, 48)], word [(1, 0), (1, 8), (1, 32), (1, 40), (1, 48), (1, 56)], 0, word [(2, 16)],
    word [(64, 0), (1, 32)], 0]
theorem witness_tapWalker : (body.upset []).startsNow 0 1 waits = true ∧ late.corePart 0 = some 0 ∧
    tapValid (tapDesc tapWords) = true ∧ 1 ≤ tapOutH (tapDesc tapWords) ∧ 1 ≤ tapOutW (tapDesc tapWords) ∧
    (late.walk 0 0 (tapDesc tapWords) (tapCells (tapDesc tapWords)) [] []).1.toOption = some ([0, 0, 0, 0], [0, 0, 0, 0]) := by
  decide +kernel

/-- One block spilled, and one filled, between two places of the core's store. -/
def spillWords : List Nat := [0, 128, word [(1, 0)], 0, 0, 0, 0, 0]
def fillWords : List Nat := [0, 128, word [(1, 0), (1, 24)], 0, 0, 0, 0, 0]
/-- Conditions of a feature-map descriptor. -/
def fmapRuns (fill : Bool) (words : List Nat) : Bool :=
  let d := fmapDesc words
  let inLen := d.blocks * (if fill then d.packedBytes else d.plainBytes)
  let outLen := d.blocks * (if fill then d.plainBytes else d.packedBytes)
  let a := storeAddr 0 0
  let b := storeAddr 0 128
  let r := late.globalRead 3 a inLen
  (body.upset []).startsNow 0 0 waits && late.corePart 0 == some 0 && d.ok && d.fill == fill
    && (late.resolve 0 0 d.srcGlobal d.src inLen).toOption == some a && (late.resolve 0 0 d.dstGlobal d.dst outLen).toOption == some b
    && r.1.isNone && (r.2.2.globalWrite 3 b (d.convert r.2.1).1).1.isNone
theorem witness_featureMapSpill : fmapRuns false spillWords = true := by decide +kernel
theorem witness_featureMapFill : fmapRuns true fillWords = true := by decide +kernel
/-- A post of one record, and one that posts a failure. -/
theorem witness_tagPostDescriptor : body.startsWith 0 0 = true ∧ body.corePart 0 = some 0 ∧ (65535 : Nat) < 2 ^ 17 ∧
    bitsAt (word [(1, 0), (0, 32)]) 24 8 = 0 ∧ bitsAt (word [(1, 0), (0, 32)]) 32 16 = 0 ∧
    body.inTaskSpace 0 64 (tagBytes (bitOf 65535 16) 1) = true ∧ bitsAt (word [(1, 0), (0x7320, 32)]) 32 16 = 0x7320 ∧
    (body.putTag 3 0 65535 64 false 1 1 0).1 = none ∧ (body.putTag 3 0 65535 0 false 2 0 0x7320).1 = none := by decide +kernel

/-! ### Witnesses: KV, check-value and collective descriptors -/

def aReq : ReqDesc := ⟨1, 0, 0, false, 0, 7, 0, 0, 16, 8, 0, 0, 0, 0, 0, 0, 0, 0, []⟩
def aHand : HandRecord where
  index := 3
  generation := 0
  phase := .decode
  desc := aReq
  rq := 0
  order := 0
  submitTs := 0
  admitTs := 0
  firstTs := 0
  lastTs := 0
  promptDone := 0
  generated := 0
  position := 0
  lastToken := 0
  tbtLast := 0
  tbtMax := 0
  tbtOver := 0
  drafts := []
  parkHandle := 0
  skipInterval := false
  dropImage := none
  parkBy := (0, 0)
  awaiting := []
  outcome := none
  log2p := 4
  kitty := 0
  flushPending := false
  flushed := []
  copied := []
  tentative := 1
  startPos := 0
  reservedRows := 0
  written := []
  tables := [⟨0, [], []⟩, ⟨1, [], []⟩, ⟨2, [], []⟩, ⟨3, [], []⟩]
  path := []
  noPage := false
  leased := false
  prompt := []

/-- `body` with slot 0 of one layer READY, owned by P0, and P0's KV regions of 16 MiB. -/
def slotted : State :=
  let s := (body.wrF (Reg.SLOT_CTRL 0) Fld.SLOT_CTRL_OWNED 1).wrF (Reg.SLOT_CTRL 0) Fld.SLOT_CTRL_STATE 2
  let s := (s.wrF (Reg.SLOT_GEOM 0) Fld.SLOT_GEOM_LAYERS 1).wrF (Reg.KV_GEOM 0) Fld.KV_GEOM_KV_HEADS 1
  let s := (s.wrN Reg.SRV_HR_SHARE 1).wrF (Reg.KV_GEOM 0) Fld.KV_GEOM_HEAD_DIM 0
  s.overList (List.range 4) (fun d t => ((t.wrF (Reg.KV_SIZE d) Fld.KV_SIZE_UNITS_16M 1).wr64 (Reg.KV_BASE_LO d) (d * 2 ^ 36 + 2 ^ 24)).wr64
    (Reg.DESC_BASE_LO d) (d * 2 ^ 36 + 2 ^ 25))
/-- `slotted` with one hand record. -/
def handed (h : HandRecord) : State := slotted.putServing 0 { PartServing.empty with hrs := [h] }
def aTarget (h : HandRecord) : KvTarget := ⟨0, 0, 0, 0, 0, h⟩
/-- Words of a KV write descriptor: OP, first position, count; hand record 3, layer 0, slot 0, source at 64 bytes below the end. -/
def kvWords (op first count : Nat) : List Nat := [word [(3, 0), (op, 32)], word [(first, 0), (count, 32)], storeSize - count * 256]

/-- A state once a command has waited. -/
def after (s : State) : State := (s.upset []).waited 0 waits

theorem witness_kvAppend_noPage : let h := { aHand with noPage := true }; let s := after (handed h)
    ((handed h).upset []).startsNow 0 3 waits = true ∧ s.kvTarget 0 ((kvWords 0 0 1).getD 0 0) = some (aTarget h) ∧
    kvWriteOk 0 (kvWords 0 0 1) = true ∧ appendFits h 0 1 = true := by decide +kernel
theorem witness_kvAppend : let s := after (handed aHand); let k := aTarget aHand
    let c := s.checkTable k; let f := c.2.flushSlice k; let u := f.2.2.raise 0 f.2.1.flags
    let b := u.storeBytes 0 (storeSize - 256) 256
    ((handed aHand).upset []).startsNow 0 3 waits = true ∧ s.kvTarget 0 ((kvWords 0 0 1).getD 0 0) = some k ∧
    kvWriteOk 0 (kvWords 0 0 1) = true ∧ appendFits aHand 0 1 = true ∧ c.1 = .sound [] ∧ f.1 = none ∧ f.2.2.kittySlotBytes 0 = 256 ∧
    u.storeReadable 0 (storeSize - 256) 256 = true ∧ (u.writeKitty k 0 (chunksOf 256 1 b)).1 = none := by decide +kernel
def prefillHand : HandRecord := { aHand with phase := .prefill, tentative := 16 }
theorem witness_kvDirect_noPage : let h := { prefillHand with noPage := true }; let s := after (handed h)
    s.kvTarget 0 ((kvWords 1 0 16).getD 0 0) = some (aTarget h) ∧ kvWriteOk 1 (kvWords 1 0 16) = true ∧
    s.directFits (aTarget h) 0 16 = true := by decide +kernel
/-- A chunk of 16 positions whose row stands at the start of the region. -/
def rowHand : HandRecord := { prefillHand with tables := [⟨0, [], [⟨0, 4, 2, .provisional, 0⟩]⟩] }
def rowed (h : HandRecord) : State :=
  let s := (handed h).poke (2 ^ 25) (leBytes 1 1)
  { s with serving := { s.serving with rows := [⟨0, [0], 0, 4, 2, 0, 1, 0, 0, none, [0]⟩] } }
theorem witness_kvDirect : let s := after (rowed rowHand); let k := aTarget rowHand
    let c := s.checkTable k; let b := c.2.storeBytes 0 (storeSize - 16 * 256) (16 * 256)
    ((rowed rowHand).upset []).startsNow 0 3 waits = true ∧ s.kvTarget 0 ((kvWords 1 0 16).getD 0 0) = some k ∧ kvWriteOk 1 (kvWords 1 0 16) = true ∧
    s.directFits k 0 16 = true ∧ rowHand.noPage = false ∧ ((rowHand.table 0).covering 0).isSome = true ∧ c.1 = .sound [0] ∧
    c.2.storeReadable 0 (storeSize - 16 * 256) (16 * 256) = true ∧ (c.2.writeRun k 0 (chunksOf 256 16 b) .none).1 = none := by decide +kernel
/-- The key and the value of the one position written, gathered from the kitty. -/
def gatherHand : HandRecord := { aHand with written := [(0, (0, 1))] }
def gatherWords : List Nat := [word [(3, 0)], word [(1, 32)], word [(0xFFFFF, 20)], 0, word [(storeSize - 4224, 0), (4224, 32)]]
theorem witness_kvGather : let s := after (handed gatherHand); let k := aTarget gatherHand; let c := s.checkTable k; let g := gatherDesc gatherWords
    let r := c.2.gatherBlocks k g [] 0 0 [0] ⟨[], [], 0, 0⟩
    ((handed gatherHand).upset []).startsNow 0 0 waits = true ∧ s.kvTarget 0 (gatherWords.getD 0 0) = some k ∧ s.gatherOk 0 gatherWords = true ∧
    c.1 = .sound [] ∧ writtenBlocks k = 1 ∧ g.blockEnd = 0xFFFFF ∧ c.2.tagInvalid k [] 0 = false ∧
    (match r.1 with
     | .ok a => a.blocks == 1 && (r.2.raise 0 a.flags).storeWritable 0 g.dst a.out.length
         && ((r.2.raise 0 a.flags).storePut 0 g.dst a.out |>.coreAt 0).task.isSome
     | .error _ => false) = true := by decide +kernel

def aCv : CvDesc := ⟨7, 3, false, false, 15, 3, false, 0, storeSize - 32, 32, false⟩
theorem witness_cvAttach_feed_restore : body.startsWith 0 2 = true ∧ (body.upset []).startsNow 0 2 waits = true ∧ (body.coreAt 0).task = some (1, 0) ∧
    (late.coreAt 0).task = some (1, 0) ∧ late.cvFree 0 7 (1, 0) = true ∧
    cvDescOk aCv = true ∧ body.cvFree 0 7 (1, 0) = true ∧ aCv.core < 16 ∧ aCv.queue < 4 ∧ recordPlaceOk aCv = true ∧
    (late.globalWrite 3 (storeAddr 0 aCv.offset) (late.cvRecord 0 7)).1 = none ∧ (late.globalRead 3 (storeAddr 0 aCv.offset) 32).1 = none ∧
    1 ≤ aCv.length ∧ aCv.offset + aCv.length ≤ storeSize := by decide +kernel
def attached : State := { body.wrF (Reg.CV_CTRL 0 7) Fld.CV_CTRL_STATE 1 with cvOwner := [(7, (1, 0))] }
theorem witness_cvDetach : attached.startsWith 0 2 = true ∧ (attached.coreAt 0).task = some (1, 0) ∧
    cvDescOk aCv = true ∧ attached.cvState 0 7 = 1 ∧ attached.cvOwnedBy 0 7 = some (1, 0) := by decide +kernel
/-- The last context of the last unit: path SRC 1, INDEX 0. -/
theorem witness_hostCvAttach : let w := body.writeCtrl 96 7 (word [(1, 8)]); let c := Reg.CV_CTRL 96 7
    body.hostReaches = true ∧ cvContextFits body 96 7 = true ∧ (body.cvOwnedBy 96 7).isNone = true ∧ body.cvState 96 7 = 0 ∧
    w.cvState 96 7 = 0 ∧ w.pathOk 96 (w.rdF c Fld.CV_CTRL_SRC) (w.rdF c Fld.CV_CTRL_INDEX) = true := by
  decide +kernel
theorem witness_hostCvDetach : let s := body.wrF (Reg.CV_CTRL 96 7) Fld.CV_CTRL_STATE 1
    s.hostReaches = true ∧ cvContextFits s 96 7 = true ∧ (s.cvOwnedBy 96 7).isNone = true ∧ s.cvState 96 7 = 1 := by decide +kernel

/-- A running collective task on core 0 and a group of two members, of which this is member 0. -/
def collTask : Task := { aTask with desc := { aTask.desc with cls := .collective, collId := 5 } }
def grouped : State :=
  let s := { body with dealer := { body.dealer with graphs := [{ aGraph with tasks := [collTask] }] } }
  let s := s.wrF (Reg.GROUP_STATE 0) Fld.GROUP_STATE_STATE 1
  s.wrF (Reg.GROUP_STATE 0) Fld.GROUP_STATE_SIZE 2
def aColl (op : CollOp) : Collective := ⟨0, 1, 0, 0, 0, aGraph.trick, 5, op, 0, 1, false, 0, 0, 2, 0, 0, 0, true, false, false, [], none, [], []⟩
def collState (c : Collective) : State := { grouped with ndx := { grouped.ndx with collectives := [c] } }
theorem witness_collectiveIssue : let d : CollDesc := ⟨0, 1, false, 0, 0, 2, 0, 64, false⟩
    grouped.startsWith 0 3 = true ∧ (grouped.coreAt 0).task = some (1, 0) ∧
    (grouped.taskAt 1 0).map (fun e => e.2) = some collTask ∧ grouped.groupActive 0 = true ∧
    grouped.rdF (Reg.FENCE_MASK 0) Fld.FENCE_MASK_MASK = 0 ∧ grouped.ndx.early = [] ∧
    [CollOp.allReduce, .allGather, .reduceScatter, .send, .recv].all (fun op => grouped.collOk 0 0 collTask 1 op d) = true := by decide +kernel
theorem witness_collectiveStart : let c := { aColl .allReduce with placed := true, started := false }; let s := collState c
    (s.upset []).instanceOf 0 aGraph.trick 5 = some c ∧ s.partWorks 0 = true ∧ s.groupActive 0 = true ∧
    (s.readSources c (s.partDies 0)).1.toOption = some [[0, 0, 0, 0], [0, 0, 0, 0], [0, 0, 0, 0], [0, 0, 0, 0]] := by decide +kernel
def aData : DataTransfer := ⟨1, 0, false, false, 0, 0, 0, aGraph.trick, 5, 2, 0, 0, 0, 0, [1, 0], 0⟩
theorem witness_collectiveData : let s := collState (aColl .allReduce); let t := { s with ndx := { s.ndx with arrived := [(0, aData)] } }
    t.partWorks 0 = true ∧ t.ndx.arrived.find? (fun e => e.1 == 0) = some (0, aData) ∧ aData.kind ≠ 3 ∧ t.instanceOf 0 aGraph.trick 5 = some (aColl .allReduce) ∧
    agrees (aColl .allReduce) aData = true := by decide +kernel
theorem witness_collectiveComplete : let c := { aColl .recv with started := true, data := [{ aData with op := 3, bytes := [1, 2, 3, 4] }] }
    let s := collState c
    s.instanceOf 0 aGraph.trick 5 = some c ∧ s.partWorks 0 = true ∧ s.collResult c = some [1, 2, 3, 4] ∧
    (s.steered c [1, 2, 3, 4]).1.toOption = some [1, 2, 3, 4] ∧ (s.writeResult c [1, 2, 3, 4] (s.partDies 0)).1 = none ∧ c.abort = false ∧
    (c.data.any (fun d => d.abort)) = false := by decide +kernel
theorem witness_collTimeout : let s := { collState (aColl .send) with now := 2000000000000 }
    s.instanceOf 0 aGraph.trick 5 = some (aColl .send) ∧ s.partWorks 0 = true ∧
    (aColl .send).issuedAt + s.rdF Reg.NDX_CFG Fld.NDX_CFG_COLL_TIMEOUT_MS * 1000000 ≤ s.now := by decide +kernel

/-! ### Witnesses: the dealer -/

def enabled (s : State) : State := s.wrF (Reg.PART_CTRL 0) Fld.PART_CTRL_ENABLE 1
/-- A packet of one background task on core 0, with its check value. -/
def packetOf (crc : Nat) : List Byte :=
  leBytes 8 (word [(0xD8C7, 0), (1, 16)]) ++ leBytes 8 1 ++ leBytes 8 (word [(192, 32)]) ++ leBytes 8 0 ++ leBytes 8 9 ++ leBytes 8 crc
    ++ leBytes 16 0 ++ leBytes 8 (word [(4, 12)]) ++ leBytes 8 (word [(1, 0), (1, 32)]) ++ leBytes 16 0
    ++ leBytes 8 (word [(1, 0), (1, 4), (1, 28)]) ++ List.replicate 88 0
def aPacket : List Byte := packetOf (crc32cTagged 0 (packetOf 0))
def anEntry : SubmissionEntry := ⟨.serving 0, 0, 192, 0, false, false, 0, aPacket⟩
def withEntry (f : Option SubmissionEntry) (q : List SubmissionEntry) (turn : Nat) : State :=
  (enabled up).putPartDealer 0 { up.partDealer 0 with fetched := f, servingQueue := q, turn := turn }
theorem witness_submissionFetch_serving : let s := withEntry none [anEntry] 0
    s.partRuns 0 = true ∧ s.dealerOn 0 = true ∧ (s.partDealer 0).fetched = none ∧ s.roomFor 0 (packetCount anEntry.copy) = true := by decide +kernel
/-- SQ 7 of P0 holds one entry, of zeros, in HBM. -/
def sqReady : State := ((withEntry none [] 7).wrF (Reg.SQ_CFG 0 7) Fld.SQ_CFG_ENABLE 1).wrN (Reg.SQ_TAIL 0 7) 1
theorem witness_submissionFetch_sq : let s := sqReady; let e := parseEntry (.sq 7) (List.replicate 32 0)
    s.partRuns 0 = true ∧ s.dealerOn 0 = true ∧ (s.partDealer 0).servingQueue = [] ∧ (s.partDealer 0).turn % 8 = 7 ∧ s.sqWaiting 0 7 = true ∧
    (s.ringRead 0 1 (ringBase 0 32 0) 32).1 = some (List.replicate 32 0) ∧ s.submitsOf 0 7 = [] ∧ (e.fence && s.queueBusy 0 7) = false ∧
    s.roomFor 0 (s.packetTasks 0 e).1 = true := by decide +kernel
theorem witness_graphAccept : let s := ((withEntry (some anEntry) [] 0).putPartDealer 0 { up.partDealer 0 with fetched := none }).dropSubmit 0 anEntry
    (withEntry (some anEntry) [] 0).partWorks 0 = true ∧ ((withEntry (some anEntry) [] 0).partDealer 0).fetched = some anEntry ∧
    s.packetPlaceOk 0 anEntry = true ∧ s.recordsOk 0 anEntry 1 = true ∧ (s.readPacket 0 anEntry none).1 = none ∧
    (s.readPacket 0 anEntry none).2.1 = aPacket ∧ s.recordsOk 0 anEntry (packetCount aPacket) = true ∧
    anEntry.seq = s.expectOf 0 anEntry.source ∧ bitsAt (leAt aPacket 0 8) 32 32 = 0 ∧
    (match s.checkPacket 0 anEntry aPacket with | .ok ts => ts.length == 1 | .error _ => false) = true := by decide +kernel
def withTask (s : State) (t : Task) : State := { s with dealer := { s.dealer with graphs := [{ aGraph with tasks := [t] }] } }
theorem witness_dealerDecision : let t := { aTask with phase := .ready, cores := [] }
    let s := withTask ((enabled up).wrN (Reg.WINDOW_BUDGET 0) 1) t
    s.partWorks 0 = true ∧ s.dealerOn 0 = true ∧ (s.rankedOf 0 .prefill).length = 1 ∧
    ([TaskClass.trump, .vision, .collective, .background].all (fun c =>
      (s.rankedOf 0 c).isEmpty && ((s.startTask 0 { aGraph with tasks := [t] } t 0).rankedOf 0 c).isEmpty)) = true ∧
    s.trumpWaiting 0 0 = false ∧ ((t.desc.placements.zipIdx).filter (fun e => (placementCores e.1).all s.coreWorking)).length = 1 ∧
    ((placementCores ⟨1, 1, 1, 0⟩).all (fun n => (s.coreAt n).task.isNone && !s.coreResetting n)) = true ∧
    s.energyAdmits 0 aGraph t false = true := by decide +kernel
theorem witness_taskLoadComplete : let t := { aTask with phase := .loading }; let s := withTask (body.poke 11 [1]) t
    (s.taskAt 1 0).map (fun e => e.2) = some t ∧ s.partWorks 0 = true ∧ Graph_counted aGraph = true ∧
    (t.cores.all (fun n => s.corePowered n && s.clusterPowered (coreCluster n))) = true ∧ t.desc.placements[t.placement]? = some ⟨1, 1, 1, 0⟩ ∧
    (State.loadCores aGraph t 0 t.cores.zipIdx s).1 = none ∧ aGraph.part = 0 := by decide +kernel
theorem witness_taskDone : let s := withCore (fun c => { c with halted := true })
    (s.taskAt 1 0).map (fun e => e.2) = some aTask ∧ s.partWorks 0 = true ∧ aTask.abortForm = false ∧
    (aTask.cores.all (fun n => (s.coreAt n).drained)) = true ∧ s.ndx.collectives = [] := by
  decide +kernel
theorem witness_taskTimeout : let s := withCore (fun c => { c with cycles := 10 ^ 18 })
    (s.taskAt 1 0).map (fun e => e.2) = some aTask ∧ s.partWorks 0 = true ∧ 0 ∈ aTask.cores ∧ (s.coreAt 0).drained = false ∧
    aTask.limit * cycleUnit ≤ (s.coreAt 0).cycles := by
  decide +kernel
theorem witness_abortSeq : body.hostReaches = true ∧ body.mayReach 1 0 = true ∧ body.partWorks 0 = true ∧
    (body.heldGraphs 0).find? (fun g => sourceQueue g.source == some (body.rdF (Reg.PART_CTRL 0) Fld.PART_CTRL_ABORT_SQ) && g.seq == 2 ^ 32 % 2 ^ 32) =
      some aGraph := by decide +kernel

/-! ### Witnesses: memory, rings, registers -/

theorem witness_remapComplete : let r : RemapJob := ⟨3, 1, 63, false⟩; let s := { up with memory := { up.memory with remaps := [r] } }
    s.memory.remaps.find? (fun x => x.die == 3 && x.page == 1) = some r := by decide +kernel
/-- The last unit of die 3, and a unit of die 0, which shows the progress. -/
theorem witness_scrubRead : let s := up.wrF Reg.MEM_CFG Fld.MEM_CFG_SCRUB_PERIOD 1
    let last := { s with memory := { s.memory with scrubAt := [(3, s.fitted - 256)] } }
    last.rdF Reg.MEM_CFG Fld.MEM_CFG_SCRUB_PERIOD ≠ 0 ∧ last.memory.selfRefresh.contains (last.stackIndex (3 * hbmRegion + last.fitted - 256)) = false ∧
    last.mgmt.excludedDies.contains 3 = false ∧ last.power.standby = false ∧
    (List.range 4).find? (fun d => !last.mgmt.excludedDies.contains d) = some 0 ∧ ¬ (s.fitted ≤ 0 + 256) := by decide +kernel
theorem witness_hbmChannelFailed : 31 < (if up.fuses.a8 then 64 else 32) ∧ up.memory.failedChannels.contains (3 * 64 + 31) = false := by decide +kernel
/-- Four bytes at the end of the task space of die 0. -/
theorem witness_bar4 : let s := up.wrF (Reg.WIN_BASE 1) Fld.WIN_BASE_GIB ((up.taskEnd 0 - 4) / 2 ^ 30); let off := (up.taskEnd 0 - 4) % 2 ^ 30
    let a := s.windowAddr 1 off
    s.pcieUp = true ∧ s.ready = true ∧ s.fnExists 1 = true ∧ off + 4 ≤ windowBytes ∧ a + 4 = s.taskEnd 0 ∧ s.windowOk 1 a 4 false = true ∧ s.windowOk 1 a 4 true = true ∧
    (s.hbmRead 3 a 4).1 = none := by decide +kernel
/-- PF0 places the window of VF1 before READY. -/
theorem witness_winBase : let s := up.wrF Reg.MGT_STATE Fld.MGT_STATE_STATE 0
    s.pcieUp = true ∧ up.ready = true ∧ up.fnExists 1 = true ∧ s.fnExists 0 = true := by decide +kernel
/-- Every ring of P0, by doorbell and by register; the highest value that each accepts. -/
def ringState : State :=
  ([Reg.EQ_CFG 0, Reg.RKQ_CFG 0, Reg.MSQ_CFG 0, Reg.MCQ_CFG 0].foldl (fun s r => s.wrN r 0) up)
theorem witness_ringWrites : let s := ringState
    s.hostReaches = true ∧ ([RingRef.sq 0 7, .rq 0 3, .cq 0 7, .scq 0 3, .rkq 0].all (fun r =>
      s.doorbellReaches 1 0 r && s.reachesRing 1 r)) = true ∧ s.doorbellReaches 0 0 .tln = true ∧ s.reachesRing 0 .tln = true ∧
    s.doorbellReaches 1 0 (.eq 0) = true ∧ s.scqFull 0 3 = false ∧
    ([(0x38, RingRef.sq 0 7), (0x3C, .cq 0 7), (0x118, .rq 0 3), (0x11C, .scq 0 3), (0x320, .rkq 0), (0x218, .msq 3), (0x21C, .mcq 3),
      (0x300, .eq 0)].all (fun e => alignedDoorbell ⟨1, true, e.1, 4, 0⟩ && namesRing ⟨1, true, e.1, 4, 0⟩ 0 e.2)) = true ∧
    namesRing ⟨0, true, 0x4000, 4, 0⟩ 0 .tln = true := by decide +kernel
/-- Offsets without a doorbell: between the rings' columns, in PF0's reserved pages, and beyond a VF's page. -/
theorem witness_noDoorbell : up.hostReaches = true ∧ alignedDoorbell ⟨1, true, 0x40, 4, 0⟩ = true ∧
    ([(1, 0x40), (1, 0x324), (1, 0x1000), (0, 0x4004), (0, 0x5000)].all (fun e => bar2Ring e.1 e.2 == none)) = true := by decide +kernel
theorem witness_registerWrite : up.pcieUp = true ∧ (4 : Nat) < 5 ∧ 0xFFFFF8 % 8 = 0 ∧ 0xFFFFFC % 8 ≠ 0 := by decide +kernel
theorem witness_ringEnable : up.hostReaches = true ∧ up.reachesRing 1 (.sq 0 7) = true := by decide +kernel

/-! ### Witnesses: serving and groups -/

/-- `slotted` as the lead of slot 0, with space for 17 positions, and the serving engine of P0 enabled. -/
def lead : State :=
  let s := (slotted.wrF (Reg.SLOT_CTRL 0) Fld.SLOT_CTRL_LEAD 1).wrN (Reg.SLOT_MAXPOS 0) 17
  let s := (s.wrN (Reg.VARIANT_COUNT 0) 1).wrF (Reg.PART_SRV_CTRL 0) Fld.PART_SRV_CTRL_ENABLE 1
  ((s.wrF Reg.TLN_STATE Fld.TLN_STATE_MOUNT 2).wrF Reg.TLN_ZONES Fld.TLN_ZONES_PFX_BANDS 1792).wrF Reg.TLN_ZONES Fld.TLN_ZONES_WT_BANDS 3584
/-- A SUBMIT of 16 tokens that asks for one. -/
def submitBytes : List Byte := leBytes 8 1 ++ leBytes 8 7 ++ leBytes 8 0 ++ leBytes 8 (word [(16, 0), (1, 32)]) ++ List.replicate 32 0
def requestBytes (op : Nat) : List Byte := leBytes 8 op ++ List.replicate 56 0
theorem witness_requestFetch : let s := (((lead.putServing 0 { PartServing.empty with rqTurn := 3 }).wrF (Reg.RQ_CFG 0 3) Fld.RQ_CFG_ENABLE 1).wrN
      (Reg.RQ_TAIL 0 3) 1).poke 0 [1]
    let r := s.ringRead (s.rdF (Reg.RQ_CFG 0 3) Fld.RQ_CFG_SPACE) 1 (ringBase (s.rd64 (Reg.RQ_BASE_LO 0 3)) 64 0) 64
    s.partRuns 0 = true ∧ s.powerOn = true ∧ s.rdB (Reg.PART_SRV_CTRL 0) Fld.PART_SRV_CTRL_ENABLE = true ∧ s.fetchedAt 0 = none ∧
    (s.partServing 0).rqTurn % 4 = 3 ∧ s.rdB (Reg.RQ_CFG 0 3) Fld.RQ_CFG_ENABLE = true ∧ s.rdN (Reg.RQ_HEAD 0 3) ≠ s.rdN (Reg.RQ_TAIL 0 3) ∧
    (s.rdB (Reg.SCQ_CFG 0 (s.scqOf 0 3)) Fld.SCQ_CFG_ENABLE && s.scqFull 0 (s.scqOf 0 3)) = false ∧
    s.hostReadable (s.rdF (Reg.RQ_CFG 0 3) Fld.RQ_CFG_SPACE) 1 = true ∧ r.1 = some (requestBytes 1) ∧ leAt (requestBytes 1) 0 1 = 1 ∧
    (r.2.partServing 0).held.length < 4096 := by decide +kernel
theorem witness_submit : let s := lead.putFetched 0 (some (3, submitBytes)); let u := s.wake.putFetched 0 none; let d := parseRequest submitBytes
    s.submitWaits 0 = false ∧ s.fetchedAt 0 = some (3, submitBytes) ∧ leAt submitBytes 0 1 = 1 ∧ s.partWorks 0 = true ∧ u.follows 0 d.slot = false ∧ u.slotFor 0 d.slot = true ∧
    bitsAt (leAt submitBytes 56 8) 48 4 = 0 ∧ u.requestOk 0 d 0 = true ∧ d.promptLen + 1 = u.maxPositions d.slot ∧ u.segmentsOk 0 d [] = true ∧
    d.variant < u.rdN (Reg.VARIANT_COUNT d.slot) ∧ u.tagLive 0 d.slot d.hostTag = false := by decide +kernel
theorem witness_slotCommands : [2, 3, 4].all (fun op =>
    let b := requestBytes op; let s := lead.putFetched 0 (some (3, b)); let u := s.wake.putFetched 0 none
    s.fetchedAt 0 == some (3, b) && leAt b 0 1 == op && (parseRequest b).opcode == op && s.partWorks 0 && !u.follows 0 0 && u.slotFor 0 0) = true := by
  decide +kernel

def aFlight : TrickInFlight := ⟨1, 0, [], 0, none, []⟩
def aReport : GraphReport := ⟨0, .serving 0, 1, 0x2000, [], true⟩
def flying (s : State) : State :=
  let s := s.putSlot 0 { SlotServing.empty with inFlight := some aFlight }
  { s with dealer := { s.dealer with reports := [aReport] } }
/-- Alone the lead is done with its own graph; in a group of two it waits. -/
def inGroup (s : State) : State := (s.wrF (Reg.GROUP_STATE 0) Fld.GROUP_STATE_STATE 1).wrF (Reg.GROUP_STATE 0) Fld.GROUP_STATE_SIZE 2
theorem witness_trickGraphComplete : ([(flying lead, true), (inGroup (flying lead), false)].all (fun e =>
    let s := e.1; let u := s.takeReport 0
    let v := u.2.updSlot 0 (fun x => { x with inFlight := some { aFlight with graphEnd := some (0x2000, []) } })
    s.partWorks 0 && s.slotLead 0 && u.1 == some aReport && (u.2.slotServing 0).inFlight == some aFlight && v.trickDone 0 0 == e.2)) = true := by
  decide +kernel
theorem witness_idleBoundary : let s := lead.putSlot 0 { SlotServing.empty with event := true }
    s.partWorks 0 = true ∧ s.slotReady 0 = true ∧ s.slotLead 0 = true ∧ (s.slotServing 0).inFlight = none ∧ (s.slotServing 0).event = true := by
  decide +kernel
/-- A held request whose deadline passes now, and whose holding time has just passed. -/
def aHeld : HeldReq := ⟨{ aReq with deadlineMs := 1 }, 0, 0⟩
def holding (now : Nat) : State :=
  { ((lead.putServing 0 { PartServing.empty with held := [aHeld] }).wrF (Reg.CLASS_TTFT 0 0) Fld.CLASS_TTFT_HOLD_MAX_MS 1) with now := now }
theorem witness_heldDeadline : let s := holding 1000000; (s.heldOf (s.slotOwner 0) 0).any s.deadlinePassed = true := by decide +kernel
theorem witness_holdMax : let s := holding 1000001
    aHeld ∈ s.heldOf (s.slotOwner 0) 0 ∧ s.holdMaxMs (s.slotOwner 0) 0 aHeld.desc.cls ≠ 0 ∧
    aHeld.fetchTs + s.holdMaxMs (s.slotOwner 0) 0 aHeld.desc.cls * 1000000 < s.now := by
  decide +kernel
theorem witness_groupTimeout : let s := { inGroup (flying lead) with now := 10 ^ 12 }
    (s.slotServing 0).inFlight = some aFlight ∧ s.partWorks 0 = true ∧ s.slotLead 0 = true ∧ 1 ∈ s.otherMembers 0 ∧
    (aFlight.reports.any (fun r => r.1 == 1)) = false ∧
    aFlight.submittedAt + s.rdF (Reg.SLOT_TIMEOUT 0) Fld.SLOT_TIMEOUT_GROUP_TIMEOUT_MS * 1000000 < s.now := by decide +kernel
theorem witness_followerTrickComplete : let s := flying slotted; let u := s.takeReport 0
    s.partWorks 0 = true ∧ s.slotReady 0 = true ∧ s.slotLead 0 = false ∧ u.1 = some aReport ∧ (u.2.slotServing 0).inFlight = some aFlight ∧
    trickOk aReport.status = true := by decide +kernel

def aParked (h : HandRecord) : ParkedImage := ⟨9, 0, true, false, h, 0, 1, 0, 4, 1, 1, 64, 16384, [], []⟩
def parkedHand (ph : ReqPhase) : HandRecord := { aHand with phase := ph, awaiting := [0], parkHandle := 9 }
def parkState (h : HandRecord) : State :=
  let s := lead.putServing 0 { PartServing.empty with hrs := [h] }
  { s with talon := { s.talon with parked := [aParked h] } }
theorem witness_parkWriteComplete : let h := parkedHand .parking; let s := parkState h; let b := s.useTalon.parkBody 0 h
    s.handAt 0 3 = some h ∧ h.awaiting.contains (s.groupMember 0) = true ∧ s.talonUp = true ∧ s.partWorks 0 = true ∧ h.phase = .parking ∧
    (s.parkedAt h.parkHandle).isSome = true ∧ b.1 = none := by decide +kernel
theorem witness_resumeReadComplete : let h := parkedHand .resuming; let s := parkState h; let l := s.ladder []
    let m := l.countReads (aParked h).fragments
    let r := State.resumeRows 0 ((m.partDies 0).zip (aParked h).hand.tables) (resumedHand (aParked h) h) m
    s.handAt 0 3 = some h ∧ h.awaiting ≠ [] ∧ s.partWorks 0 = true ∧ s.talonUp = true ∧ h.phase = .resuming ∧
    l.resumeFits 0 h.desc.slot h.parkHandle = true ∧ l.parkedAt 9 = some (aParked h) ∧ (aParked h).lost = false ∧
    r.isSome = true ∧ ((r.map (fun e => ((e.2.fillResumed 0 (aParked h) e.1).putHand 0 e.1).slotLead 0)).getD false) = true := by decide +kernel
def anExtent : Extent := ⟨5, 0, .prefixes, false, false, 0, 0, 0, 0, 1, 0, 4, 4, 2, 0, 1, 1, 64, [], 0, [], []⟩
def moveOf (demotion : Bool) : PfxTransfer := ⟨0, 5, [], [], demotion⟩
def extentState (l : List PfxTransfer) : State := { lead with talon := { lead.talon with extents := [anExtent], transfers := l } }
theorem witness_prefixTransfers : (extentState [moveOf true]).transferAt 0 5 true = some (moveOf true) ∧
    (extentState [moveOf false]).transferAt 0 5 false = some (moveOf false) ∧
    ((extentState [moveOf false]).ladder []).transferAt 0 5 false = some (moveOf false) ∧ lead.talonUp = true ∧ lead.partWorks 0 = true ∧
    (extentState []).extentAt 5 = some anExtent ∧ anExtent.committed = false ∧ anExtent.stale = false ∧ (extentState []).transferAt 0 5 true = none := by decide +kernel
theorem witness_prefixReportSend : let s := (inGroup lead).wrF (Reg.GROUP_STATE 0) Fld.GROUP_STATE_MEMBER 1
    s.partWorks 0 = true ∧ 1 < s.groupSize 0 ∧ s.groupMember 0 ≠ s.groupLead 0 := by decide +kernel

theorem witness_heartbeatSend : let s := { inGroup lead with now := 10 ^ 10 }; let due := { lead with now := 10 ^ 10 }
    s.ready = true ∧ mapGetD 0 0 s.ndx.heartbeatAt + s.rdF Reg.NDX_CFG Fld.NDX_CFG_HB_MS * 1000000 ≤ s.now ∧
    (({ s with ndx := { s.ndx with heartbeatAt := mapSet 0 s.now s.ndx.heartbeatAt } }).commitRS (inRange 0x900000 0x100000)).groupState 0 = 1 ∧
    (({ due with ndx := { due.ndx with heartbeatAt := mapSet 0 due.now due.ndx.heartbeatAt } }).commitRS (inRange 0x900000 0x100000)).groupState 0 = 0 := by
  decide +kernel
/-- A control message of a type from member 1. -/
def message (type : Nat) (b : List Byte) : InboxEntry := ⟨0, 1, type, 1, b⟩
def inboxed (s : State) (e : InboxEntry) : State := { s with ndx := { s.ndx with inbox := [e] } }
theorem witness_inbox : ([3, 4, 5, 6].all (fun t => ((inboxed (inGroup lead) (message t (List.replicate 16 0))).takeInbox 0 t).1 ==
      some (message t (List.replicate 16 0)))) = true ∧ (inGroup lead).groupIsolated 0 = false ∧ (inGroup lead).groupState 0 ≠ 4 ∧
    (inGroup lead).partWorks 0 = true ∧ (inGroup lead).groupMember 0 = (inGroup lead).groupLead 0 := by decide +kernel
theorem witness_fenceTimeout : let s := { inGroup lead with now := 10 ^ 12, ndx := { (inGroup lead).ndx with peers := [(1, .fresh 1 0)] } }
    s.ready = true ∧ 1 ≤ s.groupState 0 ∧ s.groupState 0 ≤ 3 ∧ 1 ∈ s.otherMembers 0 ∧ bitOf (s.rdF (Reg.FENCE_MASK 0) Fld.FENCE_MASK_MASK) 1 = false ∧
    (s.peerAt 0 1).lastHeard + s.rdF Reg.NDX_CFG Fld.NDX_CFG_FENCE_MS * 1000000 ≤ s.now := by decide +kernel
/-- A message sent at 0, unacknowledged when its time runs out. -/
def unanswered (retries : Nat) : State :=
  { inGroup lead with now := retryEvery, ndx := { (inGroup lead).ndx with
      peers := [(1, { PeerState.fresh 1 0 with unacked := [⟨4, 1, [], retries, some 0⟩] })] } }
theorem witness_controlRetransmit : (unanswered 0).ready = true ∧ (unanswered 0).groupIsolated 0 = false ∧ 0 + retryEvery ≤ (unanswered 0).now ∧
    ((unanswered (retryLimit - 1)).peerAt 0 1).unacked = [⟨4, 1, [], retryLimit - 1, some 0⟩] ∧ retryLimit - 1 < retryLimit ∧
    ((unanswered retryLimit).peerAt 0 1).unacked = [⟨4, 1, [], retryLimit, some 0⟩] := by decide +kernel
/-- A plan of trick 1 for slot 0, of one part and no rows. -/
def planBytes : List Byte := leBytes 6 1 ++ List.replicate 90 0
theorem witness_trickPlanReceive : let s := inboxed (inGroup slotted) (message 1 planBytes)
    (match s.readyPlan 0 with
     | some (t, _) => t.trick == 1 && t.slot == 0 && t.embedBytes == 0 && t.trick == s.trickOf 0 + 1
     | none => false) = true ∧ s.partWorks 0 = true ∧ s.slotReady 0 = true ∧ s.slotOwner 0 = 0 ∧ s.slotLead 0 = false := by decide +kernel
theorem witness_trickReportReceive : let e := message 2 (leBytes 6 1 ++ List.replicate 10 0); let s := inboxed (inGroup (flying lead)) e
    let r := s.takeInbox 0 2
    r.1 = some e ∧ r.2.partWorks 0 = true ∧ r.2.slotReady 0 = true ∧ r.2.slotOwner 0 = 0 ∧ r.2.slotLead 0 = true ∧
    (r.2.slotServing 0).inFlight = some aFlight ∧ aFlight.num = leAt e.body 0 6 ∧ pairsAt e.body 16 (leAt e.body 12 2) = [] ∧
    (aFlight.reports.any (fun x => x.1 == 1)) = false := by decide +kernel

/-! ### Witnesses: Talon -/

/-- `lead` with one command at the head of Talon's ring, in HBM; PF0's pages are mapped. -/
def withCommand (w : List Nat) (f : State → State) : State :=
  let s := (lead.wrF Reg.TLN_CMD_CFG Fld.TLN_CMD_CFG_ENABLE 1).wrN Reg.TLN_CMD_TAIL 1
  f (s.poke 0 (w.flatMap (leBytes 8)))
/-- The state with the command taken, where Talon takes it. -/
def taken (w : List Nat) (f : State → State) : Option State :=
  let r := (withCommand w f).talonHead
  if r.1 = some w ∧ r.2.commandAbsorbed w = false ∧ talonFormatOk (bitsAt (w.getD 0 0) 0 8) w ∧ (r.2.takeTalon w).partExists (bitsAt (w.getD 0 0) 8 2) then some (r.2.takeTalon w)
  else none
def takes (w : List Nat) (f : State → State) (ok : State → Bool) : Bool := match taken w f with
  | some u => ok u
  | none => false
def anImage (st : ImageState) (written : List Nat) : WeightImage := ⟨5, 0, 0, [flashPage, 0, 0, 0], written, st, [], []⟩
def withImage (i : WeightImage) (s : State) : State := { s with talon := { s.talon with images := [i] } }
theorem witness_imageCreate : takes [1, 5, 0, 0, flashPage, 0, 0, 2 ^ 40] (fun s => s) (fun u => (u.imageAt 5).isNone
    && decide (u.talon.images.length < 64) && decide (flashPage + 2 ^ 40 ≤ u.zoneUsable .weights)) = true := by decide +kernel
theorem witness_imageSeal : takes [3, 5, 0, 0, 0, 0, 0, 0] (withImage (anImage .open [0])) (fun u => u.imageAt 5 == some (anImage .open [0])
    && (anImage .open [0]).written.length == imageBytes (anImage .open [0]) / flashPage) = true := by decide +kernel
theorem witness_imageDelete : takes [4, 5, 0, 0, 0, 0, 0, 0] (withImage (anImage .sealed [0])) (fun u => u.imageAt 5 == some (anImage .sealed [0])) =
    true := by decide +kernel
def unloaded (s : State) : State :=
  (s.wrF (Reg.SLOT_CTRL 0) Fld.SLOT_CTRL_STATE 0).overList (List.range 4) (fun d t => t.wr64 (Reg.KITTY_BASE_LO 0 d) (d * hbmRegion))
theorem witness_slotLoad : takes [5, 5, 0, 0, 64, 0, 0, 0] (fun s => withImage (anImage .sealed [0]) (unloaded s)) (fun u =>
    u.slotOwned 0 && u.slotOwner 0 == 0 && u.slotState 0 == 0 && u.imageAt 5 == some (anImage .sealed [0])
    && ((anImage .sealed [0]).sections.zipIdx.all (fun e => e.1 == 0 || u.inTaskSpace 0 64 e.1)) && u.kittyOk 0 0) = true := by decide +kernel
theorem witness_slotUnload : takes [6, 0, 0, 0, 0, 0, 0, 0] (fun s => s) (fun u => u.slotReady 0 && u.slotOwner 0 == 0 && (u.heldOf 0 0).isEmpty
    && !((u.handsOf 0 0).any (fun h => h.phase != .parking))) = true := by decide +kernel
def withParked (s : State) : State := { s with talon := { s.talon with parked := [aParked aHand] } }
theorem witness_parkExport : takes [7, 9, 2 ^ 63, 0, 16384, 0, 0, 0] withParked (fun u => u.parkedAt 9 == some (aParked aHand)
    && (aParked aHand).complete && decide ((aParked aHand).bytes ≤ 16384)
    && (((u.ladder []).countReads (aParked aHand).fragments).parkedAt 9 == some (aParked aHand)) && !(aParked aHand).lost) = true := by decide +kernel
theorem witness_parkDelete : takes [9, 9, 0, 0, 0, 0, 0, 0] withParked (fun u => u.parkedAt 9 == some (aParked aHand)) = true := by decide +kernel
theorem witness_prefixDrop : takes [10, 0, 0, 0, 0, 0, 0, 0] (fun s => s) (fun _ => true) = true := by decide +kernel
theorem witness_shutdown : takes [11, 0, 0, 0, 0, 0, 0, 0] (fun s => s) (fun _ => true) = true := by decide +kernel
/-- One page from the host into the image, in the open band. -/
def opened (s : State) : State := { s with talon := { s.talon with openWeights := some 1813, openPrefix := some 21 } }
theorem witness_imageWrite : takes [2, 5, 2 ^ 63, 0, flashPage, 0, 0, 0] (fun s => opened (withImage (anImage .open []) s)) (fun u =>
    let r := u.talonSource (2 ^ 63) flashPage
    u.imageAt 5 == some (anImage .open []) && decide (flashPage ≤ imageBytes (anImage .open []))
    && (match r.1 with | .ok _ => true | .error _ => false) && (r.2.useTalon.place .weights 0 1).isSome) = true := by decide +kernel
/-- A parked request of 512 bytes, behind its header page in HBM. -/
def importHead (crc : Nat) : List Byte := leBytes 8 (word [(0xD8E2, 0), (1, 16)]) ++ leBytes 8 77 ++ List.replicate 40 0 ++ leBytes 8 512 ++ leBytes 8 crc
def imported : List Byte := importHead (crc32cTagged 77 (importHead 0))
theorem witness_parkImport : takes [8, 0, 65536, 0, flashPage + 512, 0, 0, 0]
    (fun s => opened (((s.wrF (Reg.TLN_SHARE 0) Fld.TLN_SHARE_SHARE_GIB 1).wrF (Reg.TLN_SHARE 0) Fld.TLN_SHARE_PARK_GIB 1).poke 65536 imported)) (fun u =>
    let r := u.talonSource 65536 (flashPage + 512)
    match r.1 with
    | .ok b => let q := r.2.feedPath 2 0 b
      bitsAt (leAt b 0 8) 0 16 == 0xD8E2 && bitsAt (leAt b 0 8) 16 8 == 1 && crc32cTagged 77 (b.take 64 ++ leBytes 8 0) == leAt b 64 8
        && leAt b 8 8 == 77 && leAt b 56 8 == 512 && (q.parkedAt 77).isNone && q.parkRoom 0 (flashPage + 512)
        && (match q.importSegments ((b.drop flashPage).take 512) with
          | (.ok _, m) => (m.useTalon.place .prefixZone 0 (pagesFor (flashPage + 512))).isSome
          | (.error _, _) => false)
    | .error _ => false) = true := by decide +kernel

theorem witness_talonEvents : lead.talonUp = true ∧ lead.ready = true ∧ 31 < 32 ∧ 5396 < 5397 ∧
    bitOf (lead.rdF Reg.TLN_STATE Fld.TLN_STATE_FAILED_TC) 15 = false := by decide +kernel
/-- A command that asks for word 4 as well, in a ring in HBM. -/
theorem witness_talonCmdComplete : let c : TalonCommand := ⟨[], 0, some talonOk, some 1⟩
    let s := (withCommand [] (fun s => s)); let t := { s with talon := { s.talon with command := some c } }
    let a := ringBase (t.rd64 Reg.TLN_CMD_BASE_LO) 64 (t.rdF Reg.TLN_CMD_CFG Fld.TLN_CMD_CFG_SIZE_LOG2)
    let v := ({ t with talon := { t.talon with command := none } } : State).ringWrite (t.rdF Reg.TLN_CMD_CFG Fld.TLN_CMD_CFG_SPACE) 0 (a + 32) (leBytes 8 1)
    t.talon.command = some c ∧ c.status = some talonOk ∧ t.rdB Reg.TLN_CMD_CFG Fld.TLN_CMD_CFG_ENABLE = true ∧
    (v.2.ringWrite (t.rdF Reg.TLN_CMD_CFG Fld.TLN_CMD_CFG_SPACE) 0 a (leBytes 8 (putBits (putBits 0 16 16 talonOk) 32 1 1))).1 = true := by
  decide +kernel
/-- A load of an image whose one section is one page, to address 64. -/
theorem witness_slotLoadComplete : let c : TalonCommand := ⟨[5, 5, 0, 0, 64, 0, 0, 0], 0, none, none⟩; let i := anImage .sealed [0]
    let s := { withImage i (unloaded lead) with talon := { (withImage i (unloaded lead)).talon with command := some c, loads := [(0, 5)] } }
    s.talonUp = true ∧ s.ready = true ∧ mapGet 0 s.talon.loads = some 5 ∧ s.talon.command = some c ∧ (s.ladder []).imageAt 5 = some i ∧
    i.state ≠ .damaged ∧ (((s.ladder []).countReads i.fragments).pourImage c.words i).1 = none := by decide +kernel
theorem witness_wearCreditTick : let a := lead.commitRS (inRange 0x601000 0x1000); let b := a.wr64 Reg.TLN_POWERED_S_LO (a.poweredS + 1)
    lead.talonUp = true ∧ ((List.range 4).all (fun p => b.rdF (Reg.TLN_SHARE p) Fld.TLN_SHARE_SHARE_GIB == 0)) = true := by decide +kernel
/-- A prefix zone in which no band is free. -/
def fullBands : List Band := (List.range 1792).map (fun i => ⟨21 + i, 0, 1, [], false, false, [], []⟩)
theorem mem_fullBands (b : Band) : b ∈ fullBands ↔ ∃ i, i < 1792 ∧ ⟨21 + i, 0, 1, [], false, false, [], []⟩ = b := by simp [fullBands]
def fullZone : State := { lead with talon := { lead.talon with bands := fullBands } }
theorem fullZone_bands : fullZone.talon.bands = fullBands := by
  unfold fullZone
  dsimp only
theorem fullZone_freeBands : fullZone.freeBands .prefixZone = [] := by
  unfold State.freeBands
  rw [List.filter_eq_nil_iff]
  intro b hb
  obtain ⟨i, hi, rfl⟩ := List.mem_map.mp hb
  have hi : i < 1792 := List.mem_range.mp hi
  have : (fullZone.bandAt (21 + i)).programmed = 1 := by
    unfold State.bandAt
    rw [fullZone_bands]
    cases h : fullBands.find? (fun b => b.index == 21 + i) with
    | some b =>
      obtain ⟨j, _, rfl⟩ := (mem_fullBands b).mp (List.mem_of_find?_eq_some h)
      rfl
    | none =>
      have := List.find?_eq_none.mp h ⟨21 + i, 0, 1, [], false, false, [], []⟩ ((mem_fullBands _).mpr ⟨i, hi, rfl⟩)
      simp at this
  simp [zoneFirst, this]
theorem leastBand_isSome (f : Band → Nat) (b : Band) (l : List Band) : ∃ x, leastBand f (b :: l) = some x := by
  unfold leastBand
  rw [List.foldl_cons]
  suffices h : ∀ (l : List Band) (b : Band), ∃ x, List.foldl (fun best c => match best with
    | none => some c
    | some x => if f c < f x ∨ (f c = f x ∧ c.index < x.index) then some c else some x) (some b) l = some x from h l b
  intro l
  induction l with
  | nil => exact fun b => ⟨b, rfl⟩
  | cons c l ih =>
    intro b
    simp only [List.foldl_cons]
    split <;> exact ih _
theorem witness_garbageCollect : fullZone.talonUp = true ∧ (fullZone.freeBands (zoneOf false)).length < 16 ∧
    ∃ b, leastBand (fun b => fullZone.validPages b.index) (fullZone.closedBands (zoneOf false)) = some b := by
  refine ⟨by decide +kernel, ?_, ?_⟩
  · rw [show zoneOf false = .prefixZone from rfl, fullZone_freeBands]; decide
  · have h : fullZone.closedBands (zoneOf false) ≠ [] := by
      have hm : (⟨21, 0, 1, [], false, false, [], []⟩ : Band) ∈ fullZone.closedBands (zoneOf false) := by
        unfold State.closedBands
        rw [fullZone_bands]
        exact List.mem_filter.mpr ⟨(mem_fullBands _).mpr ⟨0, by omega, rfl⟩, by decide +kernel⟩
      exact List.ne_nil_of_mem hm
    obtain ⟨b, l, hl⟩ := List.exists_cons_of_ne_nil h
    rw [hl]
    exact leastBand_isSome _ b l
/-- A closed band never erased, and a free one erased 1501 times. -/
def worn : State := { lead with talon := { lead.talon with bands := [⟨21, 0, 1, [], false, false, [], []⟩, ⟨1812, 1501, 0, [], false, false, [], []⟩] } }
theorem foldl_max_ge (f : Band → List Nat) (l : List Band) (m : Nat) : m ≤ l.foldl (fun m b => (f b).foldl max m) m ∧
    ∀ b ∈ l, ∀ x ∈ f b, x ≤ l.foldl (fun m b => (f b).foldl max m) m := by
  have h1 : ∀ (k : List Nat) (m : Nat), m ≤ k.foldl max m ∧ ∀ x ∈ k, x ≤ k.foldl max m := by
    intro k
    induction k with
    | nil => simp
    | cons a k ih =>
      intro m
      have h := ih (max m a)
      simp only [List.foldl_cons, List.mem_cons, forall_eq_or_imp]
      exact ⟨by omega, by omega, h.2⟩
  induction l generalizing m with
  | nil => simp
  | cons c l ih =>
    have h := ih ((f c).foldl max m)
    have h2 := h1 (f c) m
    simp only [List.foldl_cons, List.mem_cons, forall_eq_or_imp]
    exact ⟨by omega, fun x hx => Nat.le_trans (h2.2 x hx) h.1, h.2⟩
theorem foldl_min_le (f : Band → List Nat) (l : List Band) (m : Nat) : l.foldl (fun m b => (f b).foldl min m) m ≤ m ∧
    ∀ b ∈ l, ∀ x ∈ f b, l.foldl (fun m b => (f b).foldl min m) m ≤ x := by
  have h1 : ∀ (k : List Nat) (m : Nat), k.foldl min m ≤ m ∧ ∀ x ∈ k, k.foldl min m ≤ x := by
    intro k
    induction k with
    | nil => simp
    | cons a k ih =>
      intro m
      have h := ih (min m a)
      simp only [List.foldl_cons, List.mem_cons, forall_eq_or_imp]
      exact ⟨by omega, by omega, h.2⟩
  induction l generalizing m with
  | nil => simp
  | cons c l ih =>
    have h := ih ((f c).foldl min m)
    have h2 := h1 (f c) m
    simp only [List.foldl_cons, List.mem_cons, forall_eq_or_imp]
    exact ⟨by omega, fun x hx => Nat.le_trans h.1 (h2.2 x hx), h.2⟩
theorem mem_wornBands (i : Nat) (hi : i < 1792) (p : Band → Bool) (h : p (worn.bandAt (21 + i)) = true) :
    worn.bandAt (21 + i) ∈ ((List.range (zoneCount (zoneOf false))).map (fun i => worn.bandAt (zoneFirst (zoneOf false) + i))).filter p :=
  List.mem_filter.mpr ⟨List.mem_map.mpr ⟨i, List.mem_range.mpr hi, rfl⟩, h⟩
theorem witness_staticWearLevel : let z := zoneOf false
    let all := ((List.range (zoneCount z)).map (fun i => worn.bandAt (zoneFirst z + i))).filter (fun b => !b.retired)
    let hi := all.foldl (fun m b => b.blockErases.foldl max m) 0
    let lo := all.foldl (fun m b => b.blockErases.foldl min m) hi
    worn.talonUp = true ∧ 1500 < hi - lo ∧ (∃ b, leastBand Band.wear (worn.closedBands z) = some b) ∧
    ∃ f, leastBand (fun b => 32 * hi - b.wear) (worn.freeBands z) = some f := by
  intro z all hi lo
  refine ⟨by decide +kernel, ?_, ?_, ?_⟩
  · have h1 := (foldl_max_ge Band.blockErases all 0).2 _ (mem_wornBands 1791 (by omega) _ (by decide +kernel)) 1501 (by decide +kernel)
    have h2 := (foldl_min_le Band.blockErases all hi).2 _ (mem_wornBands 0 (by omega) _ (by decide +kernel)) 0 (by decide +kernel)
    show 1500 < hi - lo
    have h3 : 1501 ≤ hi := h1
    have h4 : lo ≤ 0 := h2
    omega
  · have h : worn.closedBands z = [⟨21, 0, 1, [], false, false, [], []⟩] := by decide +kernel
    rw [h]
    exact leastBand_isSome _ _ []
  · obtain ⟨b, l, h⟩ := List.exists_cons_of_ne_nil (List.ne_nil_of_mem (mem_wornBands 1791 (by omega)
      (fun b => b.programmed == 0 && !b.retired && worn.openBand z != some b.index) (by decide +kernel)))
    have h : worn.freeBands z = b :: l := h
    rw [h]
    exact leastBand_isSome _ b l
theorem witness_bandRefresh : let b : Band := ⟨5396, 0, 1, [(0, 0)], true, false, [(0, 60000)], []⟩; let s := { lead with talon := { lead.talon with bands := [b] } }
    s.talonUp = true ∧ s.bandAt 5396 = b ∧ b.programmed ≠ 0 ∧ b.retired = false ∧ b.refreshDue = true ∧
    (b.reads.any (fun e => decide ((if bandZone 5396 = .weights then 60000 else 600000) ≤ e.2))) = true := by decide +kernel

/-! ### Witnesses: vision and media -/

/-- `lead` with the engines powered and pipe 0 owned by P0. -/
def engines : State :=
  let s := (lead.wrF (Reg.PIPE_INFO 0) Fld.PIPE_INFO_OWNED 1).wrN (Reg.MCQ_CFG 0) 0
  let s := (s.wrF (Reg.MCQ_CFG 0) Fld.MCQ_CFG_SIZE_LOG2 4).wrF Reg.VIS_RECKONER Fld.VIS_RECKONER_RK0_OK 1
  let s := s.wr64 (Reg.CTX_BASE_LO 0) 65536
  { s with power := { s.power with enginesUp := [.edge 0, .reckoner 0, .pipe 0] } }
def aJob (op : Nat) : QueuedJob := ⟨.pipe 0 0 0, [op]⟩
def edgeState (op : Nat) : State := engines.putEdge 0 { EdgeEngine.idle with queue := [aJob op] }
theorem witness_edgeJobs : ([1, 2, 3].all (fun op => let s := edgeState op
    s.dieOwner 0 == some 0 && s.partWorks 0 && !s.edgeFailed 0 && ((s.progressEdge 0).nextEdge 0 0).1 == some (aJob op)
    && bitsAt ((aJob op).words.getD 0 0) 0 4 == op && ((s.progressEdge 0).nextEdge 0 0).2.engineUp (.edge 0))) = true := by
  decide +kernel
def aRun : EdgeRun := ⟨.ring 0, [], 0, 0, [], [], some 0x7000⟩
def edgeRunning : State := engines.putEdge 0 { EdgeEngine.idle with running := some aRun }
theorem witness_edgeJobComplete : edgeRunning.dieOwner 0 = some 0 ∧ edgeRunning.partWorks 0 = true ∧
    ((edgeRunning.progressEdge 0).edgeAt 0).running = some aRun ∧ aRun.status = some 0x7000 := by decide +kernel
theorem witness_edgeEngineFail : let s := edgeRunning
    let a := ((s.wrN (Reg.EDGE_STATE 0) 1).putBit Reg.DECK_DIES 12 false).post St.VIS_EDGE_FAILED
    let b := { a with power := { a.power with enginesUp := a.power.enginesUp.filter (fun x => x != Domain.edge 0) } }
    s.edgeFailed 0 = false ∧ b.dieOwner 0 = some 0 ∧ (b.edgeAt 0).running = some aRun ∧ (b.edgeAt 0).chained = [] := by decide +kernel
def reckState (op : Nat) : State := { engines with vision := { engines.vision with reckonQueue := [(0, aJob op)] } }
theorem witness_reckonerJobs : ([1, 2].all (fun op => let s := reckState op
    s.reckonerOk 0 && (s.reckAt 0).running.isNone && (State.nextReck s.rotation s).1 == some (0, aJob op)
    && bitsAt ((aJob op).words.getD 0 0) 0 4 == op && (State.nextReck s.rotation s).2.engineUp (.reckoner 0))) = true := by decide +kernel
def aReckon : ReckonRun := ⟨0, .ring 0, [], 0x7000, 0, 0, 0, 0, [], 0⟩
theorem witness_reckonerJobComplete : (engines.putReck 0 ⟨some aReckon, 0⟩).reckonerOk 0 = true ∧
    ((engines.putReck 0 ⟨some aReckon, 0⟩).reckAt 0).running = some aReckon ∧ (engines.putReck 0 ⟨some aReckon, 0⟩).ready = true ∧
    (engines.putReck 0 ⟨some aReckon, 0⟩).partWorks aReckon.part = true := by decide +kernel
theorem witness_reckonerFail : let s := engines.wrF Reg.VIS_RECKONER Fld.VIS_RECKONER_RK1_OK 1
    let a := ((s.wrF Reg.VIS_RECKONER Fld.VIS_RECKONER_RK0_OK 0).putBit Reg.DECK_DIES 16 false).post St.VIS_RECKONER_FAILED
    let b := ({ a with power := { a.power with enginesUp := a.power.enginesUp.filter (fun x => x != Domain.reckoner 0) } }).putReck 0 ⟨none, a.now⟩
    s.reckonerOk 0 = true ∧ (a.reckAt 0).running = none ∧ (b.reckonerOk 0 || b.reckonerOk 1) = true := by decide +kernel

/-- 65,535 addresses posted, the last entry at the end of the task space. -/
theorem witness_tagPost : let s := (up.wr64 (Reg.TAG_POST_ADDR_LO 0) 16).wrF (Reg.TAG_POST_COUNT 0) Fld.TAG_POST_COUNT_COUNT 65535
    s.hostReaches = true ∧ s.mayReach 1 0 = true ∧ s.rd64 (Reg.TAG_POST_ADDR_LO 0) % 2 ^ 48 = 16 ∧
    s.inTaskSpace 0 16 (tagBytes (s.rdB (Reg.TAG_POST_COUNT 0) Fld.TAG_POST_COUNT_KIND) 65535) = true := by decide +kernel
def aFrame (ph : FramePhase) : Frame := ⟨0, 2, 0, ph, 1, 0, 0, 0, 0, 0, 1, false, 0, 0, 0, 64, 8, 16, 16, 0, 0, 0, 0, none⟩
theorem witness_frameStart : ([FramePhase.arriving, .skipped].all (fun ph => let s := engines.putFrames [aFrame ph]
    s.partRuns 0 && s.vision.frames.find? (fun f => f.part == 0 && f.pipe == 2 && (f.phase == .arriving || f.phase == .skipped)
      && (decide (0 < f.rows) || f.done)) == some (aFrame ph))) = true := by decide +kernel

/-- A media command for context 63: word 0 and some of the others. -/
def mediaCmd (op : Nat) (l : List Nat) : MediaCmd := ⟨word [(op, 0), (63, 8)] :: l, 0⟩
/-- A RELEASE of no slot at the head of pipe 0's ring. -/
def mediaRing : State :=
  let s := (engines.wrF (Reg.MSQ_CFG 0) Fld.MSQ_CFG_ENABLE 1).wrN (Reg.MSQ_TAIL 0) 1
  s.poke 0 ((mediaCmd 6 []).words.flatMap (leBytes 8))
theorem witness_mediaCmdFetch : let s := mediaRing
    let log2 := s.rdF (Reg.MSQ_CFG 0) Fld.MSQ_CFG_SIZE_LOG2
    let r := s.ringRead (s.rdF (Reg.MSQ_CFG 0) Fld.MSQ_CFG_SPACE) 1 (ringBase (s.rd64 (Reg.MSQ_BASE_LO 0)) 64 log2) 64
    s.pipeOwner 0 = some 0 ∧ s.pipeWorks 0 = true ∧ s.partRuns 0 = true ∧ s.rdB (Reg.MSQ_CFG 0) Fld.MSQ_CFG_ENABLE = true ∧
    s.rdN (Reg.MSQ_HEAD 0) = 0 ∧ s.rdN (Reg.MSQ_TAIL 0) = 1 ∧ s.hostReadable (s.rdF (Reg.MSQ_CFG 0) Fld.MSQ_CFG_SPACE) 1 = true ∧
    s.engineUp (.pipe 0) = true ∧
    (match r.1 with
     | some b => (⟨wordsOf8 b, 0⟩ : MediaCmd).ctx == 63 && (r.2.wrN (Reg.MSQ_HEAD 0) (1 % 2 ^ log2)).commandOk 0 ⟨wordsOf8 b, 0⟩
     | none => false) = true := by decide +kernel
def aDec : DecCtx := ⟨1, 1, false, false, 16, 16, 0, [⟨0, 0, false, 0⟩, ⟨0, 2, false, 0⟩, ⟨0, 0, false, 0⟩], 0, none, false, false, none, [], none, [],
  [], false⟩
def anEnc : EncCtx := ⟨1, false, 16, 16, 0, 0, 0, false, 0x100000, rateCfg 0 0, none, false, 0, none, none, 0, 0, 0, 0, none, 0, []⟩
def pipeWith (f : MediaPipe → MediaPipe) : State := engines.updMedia 0 f
def ctxState (k : Option MediaCtx) (x : MediaCmd) : State :=
  pipeWith (fun y => { y with ctxs := (k.map (fun k => (63, k))).toList, queues := [(63, [x])] })
/-- The head of the queue of a context, and the context. -/
def headIs (k : Option MediaCtx) (x : MediaCmd) : Bool :=
  let s := ctxState k x
  s.pipeWorks 0 && s.mediaQueue 0 63 == [x] && s.mediaCtx 0 63 == k && (s.putQueue 0 63 []).mediaCtx 0 63 == k
    && s.rd64 (Reg.CTX_BASE_LO 0) % 2 ^ 48 != 0
theorem witness_mediaOpen : (headIs none (mediaCmd 1 []) && headIs none (mediaCmd 2 [])) = true := by decide +kernel
def decCtx : MediaCtx := ⟨0, .dec aDec, none, none⟩
def encCtx : MediaCtx := ⟨0, .enc anEnc, none, none⟩
theorem witness_mediaDec : (headIs (some decCtx) (mediaCmd 3 []) && headIs (some decCtx) (mediaCmd 4 []) && headIs (some decCtx) (mediaCmd 6 [7])) =
    true ∧ aDec.unit = none ∧ (mediaCmd 6 [7]).word 1 < 2 ^ aDec.slots.length := by decide +kernel
theorem witness_mediaEnc : let x := mediaCmd 5 [0, 4096, 16]; let r := mediaCmd 7 [0, 0, 0, 0, word [(51, 24)], 0]
    (headIs (some encCtx) x && headIs (some encCtx) r) = true ∧ anEnc.ready = none ∧ engines.encodeSourceOk 0 anEnc x = true ∧
    rateFits anEnc.codec (rateCfg (r.word 5) (r.word 6)) = true := by decide +kernel
theorem witness_outConsumed : let x := mediaCmd 8 [0xFFFFF]; let t := (ctxState (some encCtx) x).putQueue 0 63 []
    headIs (some encCtx) x = true ∧ t.encCtx 0 63 = some anEnc ∧ x.word 1 < anEnc.outSize ∧ ((t.updEnc 0 63 (fun z => z)).mediaPipe 0).enc = none := by
  decide +kernel

/-! ### Witnesses: pictures -/

def aUnit : MediaCmd := mediaCmd 4 [64, 64]
def unitPipe : State := pipeWith (fun y => { y with ctxs := [(63, { decCtx with kind := .dec { aDec with unit := some aUnit } })] })
theorem witness_pictureDecodeStart : let s := unitPipe; let d := { aDec with unit := some aUnit }
    s.pipeOwner 0 = some 0 ∧ s.pipeWorks 0 = true ∧ s.pipeHot 0 = false ∧ s.engineUp (.pipe 0) = true ∧ (s.mediaPipe 0).dec = none ∧
    (s.mediaPipe 0).held = [] ∧ s.mcqFull 0 = false ∧
    oldestOf (fun e => e.2.fetchTs) ((s.readyUnits 0).filter (fun e => e.2.1.freeSlot.isSome)) = some (63, d, aUnit) ∧
    ((s.noteSlotWaits 0 (s.readyUnits 0)).mediaCtx 0 63).isSome = true ∧ d.freeSlot = some 0 ∧ bitOf (aUnit.word 1) 63 = false := by decide +kernel
theorem witness_pictureEncodeStart : let e := { anEnc with ready := some aUnit }
    let s := pipeWith (fun y => { y with ctxs := [(63, { encCtx with kind := .enc e })] })
    s.pipeWorks 0 = true ∧ s.pipeHot 0 = false ∧ s.engineUp (.pipe 0) = true ∧ (s.mediaPipe 0).enc = none ∧ (s.mediaPipe 0).held = [] ∧
    s.mcqFull 0 = false ∧ oldestOf (fun e => e.2.fetchTs) (s.readyPictures 0) = some (63, e, aUnit) := by decide +kernel

def aPic : PicInfo := ⟨16, 16, false, .c420, true, true, [], [], 16, ⟨.high, 40, true⟩⟩
def aDecRun : DecRun := ⟨63, 0, 0, 0, aPic, true, 0, [], [], false, [], [], false, false, none, 0, 0, []⟩
def anEncRun : EncRun := ⟨63, 0, 0, 0, 0, 16, true, false, rateCfg 0 0, none, 1, 0, 0, .normal, 0, (0, 1), 0, 0, none, none, 0, [], [], none, false, none⟩
def decoding : State := pipeWith (fun y => { y with ctxs := [(63, decCtx)], dec := some aDecRun })
def encoding (r : EncRun) : State := pipeWith (fun y => { y with ctxs := [(63, encCtx)], enc := some r })
theorem witness_decoding : (decoding.mediaPipe 0).dec = some aDecRun ∧ decoding.mediaCtx 0 63 = some decCtx ∧
    decoding.decCtx 0 63 = some aDec ∧ decoding.pipeWorks 0 = true := by decide +kernel
theorem witness_encodeRowStart : let s := encoding anEncRun
    (s.mediaPipe 0).enc = some anEncRun ∧ s.pipeWorks 0 = true ∧ anEncRun.row < anEncRun.rows ∧ anEncRun.waiting = none ∧ anEncRun.row = 0 ∧
    s.encCtx 0 63 = some anEnc := by decide +kernel
theorem witness_sliceWritten : let r := { anEncRun with row := 1 }; let s := encoding r
    (s.mediaPipe 0).enc = some r ∧ s.encCtx 0 63 = some anEnc ∧ s.pipeWorks 0 = true ∧ r.waiting = none ∧ r.sliceRow < r.rows ∧
    sliceEnd anEnc r < r.row ∧ 0x80000 ≤ min 0x400000 (anEnc.outSize / 2) := by decide +kernel
theorem witness_pictureEncodeComplete : let r := { anEncRun with row := 1, sliceRow := 1 }; let s := encoding r
    (s.mediaPipe 0).enc = some r ∧ s.encCtx 0 63 = some anEnc ∧ s.pipeWorks 0 = true ∧ r.row = r.rows ∧ r.sliceRow = r.rows ∧ r.waiting = none := by
  decide +kernel
theorem witness_pipePowerDown : let s := { pipeWith (fun y => y) with now := 10 ^ 12 }
    s.engineUp (.pipe 0) = true ∧ (s.mediaPipe 0).ctxs = [] ∧ (s.mediaPipe 0).queues = [] ∧ (s.mediaPipe 0).dec = none ∧ (s.mediaPipe 0).enc = none ∧
    (s.mediaPipe 0).idleSince + s.rdN (Reg.MED_PIPE_CFG 0) % 2 ^ 16 * 1000000 ≤ s.now := by decide +kernel
theorem witness_pipeFail : up.fuses.pipeCount - 1 < up.fuses.pipeCount ∧
    up.rdB (Reg.PIPE_INFO (up.fuses.pipeCount - 1)) Fld.PIPE_INFO_FAILED = false := by decide +kernel

/-! ### Witnesses: links -/

/-- Link 15 owned by P0, in a state of LINK_STATE. -/
def linked (state : Nat) : State :=
  ((up.wrF (Reg.LINK_STATE 15) Fld.LINK_STATE_STATE state).wrF (Reg.LINK_STATE 15) Fld.LINK_STATE_OWNED 1)
theorem witness_linkRetrain : (linked 3).linkState 15 = 3 ∧ (linked 3).mustRetrain 15 true = true ∧
    (let s := { (linked 3).putLink 15 { (linked 3).linkRun 15 with replays := [(0, 1001)] } with now := 999999 }; s.mustRetrain 15 false) = true ∧
    3 - ((linked 3).linkRun 15).tries = 3 ∧
    (firstResult 1 8 3 [⟨[0], none⟩, ⟨[0], none⟩, ⟨[0xFF, 0xFF, 0xFF, 0xFF], some (4, 8)⟩]).1 = 3 ∧
    (firstResult 1 8 3 [⟨[0xFF, 0xFF, 0xFF, 0xFF], some (4, 8)⟩]).2.isSome = true := by decide +kernel
theorem witness_linkDomainFailure : ((linked 4).linkOwner 15).isSome = true ∧ (linked 4).linkState 15 = 4 ∧ (linked 1).linkState 15 = 1 := by
  decide +kernel
theorem witness_flitReceive : (linked 3).linkUp 15 = true ∧ (linked 3).linkOwner 15 = some 0 ∧ ((linked 3).linkRun 15).rxSeq = 0 := by decide +kernel
theorem witness_pcie : up.pcieUp = true ∧ up.ready = true ∧ up.fnExists 1 = true := by decide +kernel
theorem witness_pcieLinkUp : let s := (State.reset.wrF (Reg.STAGE_STATUS 2) Fld.STAGE_STATUS_RESULT 1)
    let t := { s with side := { s.side with powerGood := true, resetAsserted := false }, power := { s.power with standby := false } }
    t.lanesPowered = true ∧ t.pcieUp = false := by decide +kernel
theorem witness_transitDie : let s := (up.wrN Reg.DECK_TALON (2 ^ 16)).wrN Reg.DECK_DIES 2
    let t := { s with fuses := { s.fuses with x2 := false } }
    t.fuses.x2 = false ∧ t.ready = true ∧ bitOf (t.rdN Reg.DECK_TALON) 16 = true ∧ bitOf (t.rdN Reg.DECK_DIES) 1 = true := by decide +kernel

/-! ### Witnesses: power -/

theorem witness_waking : let d := Domain.talonChannel 15; let s := { up with power := { up.power with waking := [d] } }
    s.power.waking.contains d = true ∧ s.wakeOver d = true := by decide +kernel
def quiet (cores clusters : List Nat) : State :=
  { up.wrF Reg.PWR_ANTE Fld.PWR_ANTE_ANTE_MODE 0 with
    now := 10 ^ 12, power := { up.power with coresUp := cores, clustersUp := clusters, idleSince := [(1535, 0), (2048 + 95, 0)] } }
theorem witness_coreIdle : let s := quiet [1534, 1535] [95]
    s.corePowered 1535 = true ∧ s.sleepMode = true ∧ (s.coreAt 1535).task = none ∧ s.coreReserved 1535 = false ∧
    mapGet 1535 s.power.idleSince = some 0 ∧ 0 + s.rdF Reg.PWR_IDLE Fld.PWR_IDLE_CORE_IDLE_US * 1000 ≤ s.now ∧
    ((List.range 16).any (fun k => (s.coreDown 1535).corePowered (16 * coreCluster 1535 + k))) = true := by decide +kernel
theorem witness_clusterIdle : let s := quiet [] [95]
    s.clusterPowered 95 = true ∧ s.sleepMode = true ∧
    ((List.range 16).any (fun k => s.corePowered (16 * 95 + k) || s.coreWanted (16 * 95 + k))) = false ∧
    mapGet (2048 + 95) s.power.idleSince = some 0 ∧ 0 + s.rdF Reg.PWR_IDLE Fld.PWR_IDLE_CLUSTER_IDLE_US * 1000 ≤ s.now := by decide +kernel
theorem witness_hbmIdle : let s := quiet [] []
    s.powerOn = true ∧ s.fittedStacks.contains 7 = true ∧
    mapGetD 0 7 s.memory.lastAccess + s.rdF Reg.PWR_IDLE2 Fld.PWR_IDLE2_HBM_IDLE_US * 1000 ≤ s.now := by decide +kernel
theorem witness_engineIdle : let s := quiet [] []
    (s.edgeAt 3).running = none ∧ (s.edgeAt 3).queue = [] ∧ (s.edgeAt 3).idleSince + 100000 ≤ s.now ∧ (s.reckAt 1).running = none ∧
    (s.reckAt 1).idleSince + 100000 ≤ s.now ∧ s.talon.command = none ∧ s.talon.transfers = [] ∧ s.talon.loads = [] ∧
    mapGetD 0 8192 s.power.idleSince + 1000000 ≤ s.now := by decide +kernel
theorem witness_dormant : let q := quiet [] []
    let s := { q with memory := { q.memory with selfRefresh := List.range 8 }, power := { q.power with restingSince := some 0 } }
    s.power.restingSince = some 0 ∧ s.resting = true ∧ s.rdF Reg.PWR_STATE Fld.PWR_STATE_STATE = 2 ∧
    0 + s.rdF Reg.PWR_IDLE2 Fld.PWR_IDLE2_DORMANT_IDLE_MS * 1000000 ≤ s.now ∧ s.mgmtRuns = true := by decide +kernel
/-- `up` with the power manager started, at 10^12 ns. -/
def managed : State := { up with now := 10 ^ 12, power := { up.power with started := true } }
theorem witness_capController : let s := { managed with power := { managed.power with input := [6000] } }
    s.power.started = true ∧ s.power.capChangeAt + 50000 ≤ s.now ∧ (s.power.input.take 5).length * s.controllerCap < (s.power.input.take 5).sum * 100 := by
  decide +kernel
/-- Die 3 at 105 °C, throttled already, at 2,000 MHz. -/
def hot : State :=
  let s := (managed.storeSensor 24 (16 * 105)).wrF (Reg.PWR_DIE_CLK 3) Fld.PWR_DIE_CLK_THERMAL_MHZ 2000
  { s with power := { s.power with throttledDies := [3] } }
theorem witness_thermalThrottle : hot.power.started = true ∧ hot.dieHot 3 = true ∧
    hot.floorMhz < hot.rdF (Reg.PWR_DIE_CLK 3) Fld.PWR_DIE_CLK_THERMAL_MHZ ∧ hot.power.throttledDies.contains 3 = true := by decide +kernel
theorem witness_thermalRise : let m := managed.wrF (Reg.PWR_DIE_CLK 3) Fld.PWR_DIE_CLK_THERMAL_MHZ (managed.fuses.sustainedMhz - 1)
    let s := { m with power := { m.power with coolSince := [(3, 0)] } }
    mapGet 3 s.power.coolSince = some 0 ∧ 0 + 250000 ≤ s.now ∧ s.rdF (Reg.PWR_DIE_CLK 3) Fld.PWR_DIE_CLK_THERMAL_MHZ < s.fuses.sustainedMhz := by
  decide +kernel
theorem witness_sensorSample : let s := managed
    s.sensorFitted 0 = true ∧ s.sensorFitted 48 = true ∧ s.mgmtRuns = true ∧ (s.storeSensor 48 2000).power.standby = false ∧
    (s.storeSensor 0 1759).power.started = true ∧ tripLevel 48 = some 125 ∧ tripLevel 0 = some 110 ∧ (16 * 125 : Int) ≤ 2000 ∧ (1759 : Int) < 16 * 110 := by
  decide +kernel
theorem witness_railFault : let s := { managed with side := { managed.side with powerGood := true } }
    s.power.standby = false ∧ s.side.powerGood = true ∧ s.power.started = true := by decide +kernel
theorem witness_clampRelease : let f := fun (n : Nat) => let s := managed.wrF Reg.PWR_STATE Fld.PWR_STATE_CLAMP n
      ({ s with side := { s.side with clampAsserted := false } }).clampInForce
    f 1 = true ∧ f 0 = false := by decide +kernel
def ballastGraph (src : GraphSource) : Graph := { aGraph with source := src, tasks := [{ aTask with phase := .loading }] }
theorem witness_loneTasks : let s := { body with now := 10 ^ 12, dealer := { body.dealer with graphs := [ballastGraph (.ballast 95), ballastGraph (.sweep 95)] } }
    s.dealer.graphs.find? (fun g => g.source == .ballast 95) = some (ballastGraph (.ballast 95)) ∧
    s.dealer.graphs.find? (fun g => g.source == .sweep 95) = some (ballastGraph (.sweep 95)) ∧ (aTask.cores.all s.corePowered) = true ∧ s.partWorks 0 = true ∧
    s.ballastSince { aTask with phase := .loading } + 8000 ≤ s.now := by decide +kernel
theorem witness_measurementTick : let s := { managed with power := { managed.power with anteNext := none, windowDone := true } }
    s.power.started = true ∧ s.power.anteNext = none ∧ s.power.windowDone = true := by decide +kernel

/-! ### Witnesses: sideband messages, health, update, resets -/

/-- A message of a CODE at the front of the queue, on a module in STANDBY or not. -/
def msgOf (code : Nat) (b : List Byte) : SidebandMsg := ⟨31, code, b, false⟩
def withMsg (s : State) (m : SidebandMsg) : State := { s with side := { s.side with held := [m], targetUp := true } }
def servedNow (s : State) (code : Nat) (b : List Byte) : Bool := (withMsg s (msgOf code b)).serves code (msgOf code b) []
theorem witness_powerMessages : (servedNow managed 0x01 (leBytes 2 300) && servedNow managed 0x02 (leBytes 2 managed.fuses.maxW ++ leBytes 1 1)
    && servedNow managed 0x03 [25, 25, 25, 25] && servedNow managed 0x04 [20] && servedNow managed 0x04 [100] && servedNow managed 0x05 []
    && servedNow managed 0x07 []) = true ∧
    leAt (leBytes 2 managed.fuses.maxW ++ leBytes 1 1) 0 2 ≤ managed.fuses.maxW ∧ leAt (leBytes 2 managed.fuses.maxW ++ leBytes 1 1) 2 1 ≤ 1 ∧
    ((List.range 4).map (fun p => leAt ([25, 25, 25, 25] : List Byte) p 1)).sum ≤ 100 := by decide +kernel
theorem witness_resumePower : let r := { State.reset with side := { State.reset.side with resetAsserted := false } }
    let s := withMsg r (msgOf 0x06 [])
    s.serves 0x06 (msgOf 0x06 []) [] = true ∧ (s.taking []).power.standby = true ∧ (s.taking []).canStart = true := by decide +kernel
theorem witness_sweepDue : let s := ((enabled lead).wrF Reg.HLT_CFG Fld.HLT_CFG_SWEEP_PERIOD_H 1).wrN (Reg.CLUSTER_MAP 0) 0xFFFFFFFF
    s.ready = true ∧ s.isDormant = false ∧ s.rdF Reg.HLT_CFG Fld.HLT_CFG_SWEEP_PERIOD_H ≠ 0 ∧ (s.dealer.graphs.any isSweep) = false ∧ s.nextSweep.isSome = true := by
  decide +kernel
theorem witness_health : let d := { managed with now := 10 ^ 15 }
    d.mgmtRuns = true ∧ d.pcieUp = true ∧ d.power.standby = false ∧ d.power.started = true ∧ d.side.bus48 = true ∧
    d.rdB Reg.HLT_STATE Fld.HLT_STATE_HOLDUP_LOW = false ∧ d.hoursSince d.ledger.checkpointAt 1 = true ∧ d.hoursSince d.ledger.driftAt 24 = true ∧
    d.hoursSince d.ledger.holdupAt 24 = true ∧ d.dayOver = true := by decide +kernel
def aRecord : LedgerRecord := ⟨0, 0, 0, 1, 4, 0, 0, false⟩
theorem witness_healthMessages : let s := { managed with ledger := { managed.ledger with history := [aRecord] } }
    (servedNow s 0x20 [] && servedNow s 0x21 [1, 0] && servedNow s 0x22 [4, 0, 0, 0] && servedNow s 0x23 [54]) = true ∧
    s.recordAt (leAt ([4, 0, 0, 0] : List Byte) 0 4) = some aRecord := by decide +kernel
/-- A staging slot, and a trial of a meld. -/
def staging : State := { managed with update := { managed.update with boot := { managed.update.boot with stateB := slotStaging } } }
def trial : State := { managed with update := { managed.update with
  boot := { managed.update.boot with stateB := slotTrial, trialMeld := 7 }, stage1At := 10 ^ 12 } }
theorem witness_updateMessages : (servedNow managed 0x30 (List.replicate 6 0) && servedNow managed 0x31 [0, 0, 0, 0]
    && servedNow managed 0x32 [0, 1] && servedNow managed 0x33 [7] && servedNow managed 0x34 [] && servedNow managed 0x38 []) = true ∧
    leAt ([0, 1] : List Byte) 0 2 % 256 = 0 ∧ servedNow trial 0x35 [7, 0, 0, 0] = true ∧
    ((withMsg trial (msgOf 0x35 [7, 0, 0, 0])).confirm 7).isSome = true ∧ servedNow staging 0x36 [] = true ∧ staging.updateOpen = true ∧
    slotIn staging.update.boot slotStaging = some 1 ∧
    (let s := managed.wrF (Reg.STAGE_STATUS 2) Fld.STAGE_STATUS_RESULT 1
     servedNow s 0x37 (List.replicate 32 0) && s.rdF (Reg.STAGE_STATUS 2) Fld.STAGE_STATUS_RESULT == 1) = true := by decide +kernel
/-- A reset of the module, and a partition reset, whose drain is over or has timed out. -/
def resetOf (scope : ResetScope) : ResetJob := ⟨scope, 1, true, 0, [0, 1, 2, 3], [], 0⟩
def resetting (scope : ResetScope) (act : Option SidebandMsg) : State :=
  let s := { body.wrF (Reg.PART_STATE 0) Fld.PART_STATE_STATE 2 with now := 10 ^ 15 }
  { s with mgmt := { s.mgmt with jobs := [resetOf scope] }, update := { s.update with activating := act } }
theorem witness_activationDrain : let m := msgOf 0x34 []; let s := { resetting .module (some m) with dealer := up.dealer, cores := [] }
    s.update.activating = some m ∧ s.mgmt.jobs.find? (fun j => j.scope == .module) = some (resetOf .module) ∧ s.drained (resetOf .module) = true := by
  decide +kernel
theorem witness_showdownDeadline : let s := { trial with now := 10 ^ 16 }
    s.inShowdown = true ∧ s.mgmtRuns = true ∧ s.mgmt.fatal = none ∧ s.power.standby = false ∧ s.showdownDue ≤ s.now ∧
    (s.mgmt.jobs.any (fun j => j.scope == .module)) = false := by decide +kernel
theorem witness_drain : let s := resetting .partition none; let d := { s with dealer := up.dealer, cores := [] }; let j := resetOf .partition
    s.mgmt.jobs[0]? = some j ∧ s.mayProceed j = true ∧ s.drained j = false ∧ d.mgmt.jobs[0]? = some j ∧ d.mayProceed j = true ∧ d.drained j = true ∧
    j.started + s.rdF Reg.RST_CFG Fld.RST_CFG_DRAIN_TIMEOUT_MS * msNs ≤ s.now := by decide +kernel
/-- A staged partition map, with its check value. -/
def mapRecord (crc : Nat) : List Byte := leBytes 4 0x10 ++ leBytes 4 4 ++ leBytes 4 0 ++ leBytes 4 crc
def aStaged : List Byte := mapRecord (crc32cTagged 0 ((mapRecord 0).take 12))
theorem witness_resetMessages : (servedNow managed 0x10 [] && servedNow managed 0x11 aStaged && servedNow managed 0x12 []
    && servedNow managed 0x13 [0x1F] && servedNow managed 0x14 [1] && servedNow managed 0x15 [0xF1, 0x5F]) = true ∧ managed.ready = true ∧
    stagedItems managed.fuses aStaged = some [.map 0] ∧ managed.stagedBytes + aStaged.length ≤ 65536 := by decide +kernel
theorem witness_resetLine : let s := { up with side := { up.side with resetAsserted := false } }
    s.side.resetAsserted = false ∧ s.mgmtRuns = true ∧ State.reset.side.resetAsserted = true ∧ State.reset.mgmtRuns = true ∧
    State.reset.side.present = true ∧ State.reset.side.bus48 = true ∧ State.reset.side.aux12 = true ∧
    (({ State.reset with side := { State.reset.side with resetAsserted := false } }).wrF Reg.MGT_STATE Fld.MGT_STATE_STATE 0).canStart = true := by
  decide +kernel
theorem witness_peers : (linked 1).linkState 15 = 1 ∧ (linked 2).linkState 15 = 2 ∧
    (let s := { linked 1 with now := 10 ^ 15 }; decide (s.linkState 15 = 1 ∧
      (s.linkRun 15).since + s.rdF Reg.NDX_CFG2 Fld.NDX_CFG2_PEER_WAIT_S * 1000000000 ≤ s.now)) = true ∧
    ({ up with mgmt := { up.mgmt with waitingPeers := true } }).mgmt.waitingPeers = true := by decide +kernel
/-- A GET_STAGE for a module of a given vendor. -/
def stageMessage (vendor : Nat) : List Nat := [0x7E, vendor / 256, vendor % 256, 0, 0x10, 0]
theorem witness_sidebandMessage : let t := { managed with fuses := { managed.fuses with vendorId := 0x1234 }, side := { managed.side with targetUp := true } }
    let b := (stageMessage 0x1234).map (BitVec.ofNat 8)
    t.mgmtRuns = true ∧ t.side.targetUp = true ∧ 5 ≤ b.length ∧ b.length ≤ 65600 ∧ leAt b 0 1 = 0x7E ∧
    leAt b 1 1 * 256 + leAt b 2 1 = t.fuses.vendorId % 65536 ∧ bitOf (leAt b 3 1) 7 = false ∧ t.side.held.length < 9 ∧ messageOk b = true ∧
    t.side.dynamicAddr = none ∧ (t.numericSensor 0x134).isSome = true ∧ (t.stateSensor 0x302).isSome = true ∧ (t.pdrSensors[0]?).isSome = true ∧
    pldmTypes ≠ [] := by decide +kernel

/-! ### Witnesses: the whole machine -/

theorem witness_step : ({ State.reset with pending := [.ledgerCheckpoint] }).pending = [.ledgerCheckpoint] ∧
    ({ State.reset with pending := [.ledgerCheckpoint] }).safe = true ∧
    (match step { State.reset with pending := [.ledgerCheckpoint] } with | .next t => t.pending == [] | _ => false) = true := by decide +kernel
/-- A rail goes, and the timebase restarts. -/
theorem witness_timeRestarts : let s := { State.reset with now := 5, side := { State.reset.side with aux12 := false } }
    (match exec (.inputPowerLoss 0) s with | .next t => t.now == 0 | _ => false) = true ∧
    (match exec .ledgerCheckpoint s with | .next t => t.now == 5 | _ => false) = true := by decide +kernel
theorem witness_memory : cellsWf 0 [⟨0, 1⟩, ⟨0xFFFFFFFFFFFF, 2⟩] = true := by decide +kernel
/-- The fields of CV_CTRL: RL, RW and RO, in a register that stands while its context is attached. -/
theorem witness_fields : (match regAt up.fuses (Reg.CV_CTRL 96 7) with
     | some (r, _, _) => decide ((∀ f ∈ r.fields, f.lo ≤ f.hi ∧ f.hi < 32) ∧ r.fields.Pairwise (fun f g => f.hi < g.lo ∨ g.hi < f.lo))
         && r.fields.any (fun f => decide (f.access = .rl))
         && (r.fields.foldl (writeField up.fuses true 0xFF) ⟨up.rdN (Reg.CV_CTRL 96 7), 0, 0, false, 0⟩).rejected
         && !(r.fields.foldl (writeField up.fuses true 0) ⟨0, 0, 0, false, 0⟩).rejected
     | none => false) = true := by decide +kernel
/-- A held field waits in a register, which a commit point covers or not, and which has fields in place. -/
theorem witness_held : let off := 0xC02000 / 4 * 4; let s := { up with heldRS := [(off, (0xFF, 0x12))] }
    mapGet off s.heldRS = some (0xFF, 0x12) ∧ (s.heldRS.map Prod.fst).Nodup ∧ 0xFF < 2 ^ 32 ∧ 0x12 &&& 0xFF = 0x12 ∧
    inRange 0xC00000 0x100000 off = true ∧ inRange 0xB00000 0x100000 off = false := by decide +kernel
theorem witness_notReady : State.reset.ready = false ∧ State.reset.blockOpen 0x200000 = false ∧ State.reset.blockOpen 0x2FFFF8 = false := by
  decide +kernel
theorem witness_narrow : up.pcieUp = true ∧ (6 : Nat) % 4 ≠ 0 ∧ (2 : Nat) ≠ 4 ∧ (2 : Nat) ≠ 8 := by decide +kernel
/-- A VF's write of the last byte of its task space reaches memory. -/
theorem witness_windowWrite : let s := up.wrF (Reg.WIN_BASE 1) Fld.WIN_BASE_GIB ((up.taskEnd 0 - 1) / 2 ^ 30); let off := (up.taskEnd 0 - 1) % 2 ^ 30
    (match exec (.bar4Write 1 off [5] []) s with
     | .next t => cellsGet 0 t.memory.mem (up.taskEnd 0 - 1) != cellsGet 0 s.memory.mem (up.taskEnd 0 - 1)
     | _ => false) = true := by decide +kernel
/-- Both ends of each range of R44, and the store of a core that is folded in the map. -/
theorem witness_localAddress : let s := body.wrN (Reg.CORE_MAP 0) 0xFFFF7FFF
    (0x40000 ≤ 0xFFFFF ∧ 0xFFFFF < 0x100000) ∧ (0x300000 ≤ 0x3FFFFF ∧ 0x3FFFFF < 0x400000) ∧ 0x800000 ≤ 0x800000 ∧
    (0x400000 ≤ 0x7FFFFF ∧ 0x7FFFFF < 0x800000 ∧ s.coreWorking (16 * coreCluster 0 + (0x7FFFFF - 0x400000) / 0x40000) = false) ∧
    s.startsNow 0 3 waits = true ∧ (s.waited 0 waits).corePart 0 = some 0 := by decide +kernel
theorem witness_waited : ∀ n, (body.waited 0 waits).coreWorking n = body.coreWorking n := by
  intro n
  rfl
/-- An empty product of no number is NaN, and encodes as the canonical one. -/
theorem witness_nan : [NumFmt.fp32, .bf16, .fp16, .e4m3, .e5m2].all (fun f =>
    decide (decodeNum f (convertNum f .nearestEven 1 0 .nan).bits = .nan) && decide (decodeNum f (roundArith f .nan).bits = .nan)) = true := by decide +kernel
theorem witness_landColumn : (2 ^ 32 - 1 : Nat) < 2 ^ 32 ∧ (landColumn true true 0x7FFFFFFF (1, 0)).2 &&& flagSat ≠ 0 ∧
    (landColumn true true 0x7FFFFFFF (0, 0)).2 &&& flagSat = 0 := by decide +kernel
/-- The context of one unit saved into another one's. -/
theorem witness_feeding : let s := up; let a : List Byte := [0x31, 0x32]; let saved := s.feedContext 0 0 a
    let t := (up.wr64 (Reg.CV_RUNNING_LO 96 7) (saved.rd64 (Reg.CV_RUNNING_LO 0 0))).wr64 (Reg.CV_BYTES_LO 96 7) (saved.rd64 (Reg.CV_BYTES_LO 0 0))
    t.rdF (Reg.CV_CTRL 96 7) Fld.CV_CTRL_ALG = s.rdF (Reg.CV_CTRL 0 0) Fld.CV_CTRL_ALG ∧
    t.rd64 (Reg.CV_RUNNING_LO 96 7) = saved.rd64 (Reg.CV_RUNNING_LO 0 0) ∧ t.rd64 (Reg.CV_BYTES_LO 96 7) = saved.rd64 (Reg.CV_BYTES_LO 0 0) := by
  decide +kernel
theorem witness_masked : up.pcieUp = true ∧ up.msixMasked 4 255 = true ∧ up.msixMasked 0 0 = true ∧ up.busMaster 0 = true := by decide +kernel
/-- A block's status register before its first status word, and with one held. -/
theorem witness_status : let s := up; let t := up.capture 0x2001
    bitOf (s.rdN 0x200004) 16 = false ∧ bitOf (t.rdN 0x200004) 16 = true := by decide +kernel
theorem witness_link : up.pcieUp = true ∧ State.reset.pcieUp = false := by decide +kernel

/-! ### Words and check values of the spec -/

/-- R414: RESULT of "123456789", and the running value. -/
def digits : List Byte := [0x31, 0x32, 0x33, 0x34, 0x35, 0x36, 0x37, 0x38, 0x39]
def runningOf (n : Nat) : Nat := crcFeed (crcAlg n) (crcAlg n).init digits
theorem test_crc32c : runningOf 0 = 0x1CF96D7C ∧ crcResult (crcAlg 0) (runningOf 0) = 0xE3069283 := by decide +kernel
theorem test_crc32 : runningOf 1 = 0x340BC6D9 ∧ crcResult (crcAlg 1) (runningOf 1) = 0xCBF43926 := by decide +kernel
theorem test_crc64 : runningOf 2 = 0x66A2364420E6C605 ∧ crcResult (crcAlg 2) (runningOf 2) = 0x995DC9BBDF1939FA := by decide +kernel
theorem test_crc16 : runningOf 3 = 0x29B1 ∧ crcResult (crcAlg 3) (runningOf 3) = 0x29B1 := by decide +kernel

/-- Example after R39: 0xE110 is captured, 0xE001 then sets OVERFLOW only. -/
theorem test_capture : let s := (up.capture 0xE110).capture 0xE001
    s.rdN 0xE00004 = 0x3E110 ∧ s.rdN 0xE00008 = up.rdN 0xE00008 + 2 := by decide +kernel

/-- Example after R17: core 2.13.6 is physical core 982. -/
theorem test_coreNumber : placementCores ⟨4, 2 ^ 13, 2 ^ 6, 0⟩ = [982] ∧ coreDie 982 = 2 ∧ coreCluster 982 = 24 * 2 + 13 := by decide +kernel

/-- Example after R61: FP32 to E4M3, 300.0, 500.0 with and without saturation, 0.001, 0.0009. -/
def toE4m3 (sat : Bool) (x : Nat) : Rounded := convertNum .e4m3 .nearestEven sat 0 (decodeNum .fp32 x)
theorem test_e4m3 : toE4m3 true 0x43960000 = ⟨0x79, 0⟩ ∧ toE4m3 true 0x43FA0000 = ⟨0x7E, flagSat⟩ ∧
    toE4m3 false 0x43FA0000 = ⟨0x7F, flagOverflow⟩ ∧ toE4m3 true 0x3A83126F = ⟨0x01, 0⟩ ∧ toE4m3 true 0x3A6BEDFA = ⟨0x00, 0⟩ := by decide +kernel
/-- Example after R62: amax 0.09, the scale 0x79, the elements 0x7, 0x3, 0xD, 0x0. -/
def aBlock : List Exact := ([0x3DB851EC, 0x3CA3D70A, 0xBD4CCCCD, 0x3A83126F] ++ List.replicate 28 0).map (decodeNum .fp32)
theorem test_mxBlock : (mxBlock .nearestEven 1 aBlock).1.take 4 = [0x7, 0x3, 0xD, 0x0] ∧ (mxBlock .nearestEven 1 aBlock).2.1 = 0x79 ∧
    packNibbles ((mxBlock .nearestEven 1 aBlock).1.take 4) = [0x37, 0x0D] := by decide +kernel
/-- Example after R199: five BF16 keys flushed to FP8. -/
theorem test_flush : (toPageFormat 0 [0x3EA0, 0xBFDD, 0x4348, 0x43FA, 0x3A80]).1 = [0x2A, 0xBE, 0x74, 0x7E, 0x00] ∧
    (toPageFormat 0 [0x43FA]).2.2 = flagSat ∧ (toPageFormat 0 [0x3EA0, 0xBFDD, 0x4348, 0x3A80]).2.2 = 0 := by decide +kernel

/-- Example after R122: die offset 0x3456_7800 on an A8 module: stack ID 0, bank group 3, bank 1, row 837, column unit 1. -/
theorem test_hbmLocation : hbmLocation true 0x34567800 = (0, 3, 1, 837, 1) := by decide +kernel
/-- Example after R121: the task space of an A8 die ends after page 35,775. -/
theorem test_taskEnd : up.taskEnd 3 = 35776 * pageSize := by decide +kernel

/-- Example after R183: a want of 1,100 positions gives pages of 128; at 448 a row of 64, at 512 one of 512. -/
theorem test_pageSize : let s := (up.wrF (Reg.KV_FMT 0) Fld.KV_FMT_PAGE_MIN_LOG2 4).wrF (Reg.KV_FMT 0) Fld.KV_FMT_PAGE_MAX_LOG2 10
    s.pageSizeLog2 0 1100 = 7 ∧ rowPositions 9 448 = 64 ∧ rowPositions 9 512 = 512 := by decide +kernel
/-- Example after R185: KV_HEADS 1, HEAD_DIM 128, 64 positions: orders 2, 1 and 3. -/
theorem test_pageOrder : let s := (up.wrF (Reg.KV_GEOM 0) Fld.KV_GEOM_KV_HEADS 1).wrF (Reg.KV_GEOM 0) Fld.KV_GEOM_HEAD_DIM 1
    [0, 1, 2].map (fun f => s.pageOrder 0 f 64) = [2, 1, 3] ∧ s.pageHalf 0 0 64 = 8192 := by decide +kernel
/-- Examples after R73 and R255: output sizes. -/
theorem test_outSize : outSize 7 3 1 2 1 1 = 4 ∧ convSize true 4 3 1 2 1 1 1 = 8 := by decide +kernel

/-- Example after R477: SET_CAP of 900 W with INSTANCE 3 is answered CAP_CHANGED. -/
theorem test_setCap : let s := withMsg (managed.wrF Reg.PWR_CAP Fld.PWR_CAP_RACK_CAP_W 1400) ⟨3, 0x01, [0x84, 0x03], false⟩
    (match exec .setCap s with
     | .next t => t.pcie.sent.any (fun x => match x with | .reply b => b.head? == some 0x7E && b.drop 3 == [0x83, 0x01, 0x00, 0x10, 0x10] | _ => false)
     | _ => false) = true := by decide +kernel

/-- A word of R140's row in the opcode table gives its command back: the table gives no row bits, so that no word spells one. -/
theorem test_noWord : decodeTableWord 32 0xFFFFFFFF = none ∧ State.reset.withFetchWord 32 0xFFFFFFFF = State.reset := by
  constructor <;> rfl

/-! ### An ill-formed term for each check -/

theorem illFormed_cores : ([.halt 1536, .sfuOp 0 .exp2 true 32 0 0, .streamMoveComplete 0 4 ⟨noWaits, []⟩, .vectorLoadStore 0 true 0 262144 noWaits,
    .tapWalker 0 0 [2 ^ 64] ⟨noWaits, []⟩, .streamMoveComplete 0 0 ⟨noWaits, [⟨2 ^ 48, .single⟩]⟩, .coreFault 0 [⟨2 ^ 48, .single⟩],
    .cvDetach 0 0 { aCv with ctx := 8 }, .hostCvDetach 128 0 0] : List Instr).all (fun i => !i.wellFormed) = true := by decide +kernel
theorem illFormed_numbers : ([.cancel 4, .registerWrite 5 0 4 0, .flrVf 0, .flrVf 5, .taskDone 0 4096, .holdMaxPass 8, .pipeFail 16, .openDec 0 64,
    .pipelineFrameStart 0 16 [], .tagPostFailed 0 0 65536, .reckonerFail 2, .linkDomainFailure 16, .fenceTimeout 0 16, .msixUnmask 0 256,
    .sensorSample 53 0, .clusterIdleTimeout 96, .edgeEngineFail 4] : List Instr).all (fun i => !i.wellFormed) = true := by decide +kernel
theorem illFormed_words : ([.getVendorMessageSupport 256, .hltAlertAck (2 ^ 32), .sidebandMessageReceive [256], .rkqTailWrite 0 ⟨0, true, 0x320, 4, 2 ^ 32⟩,
    .rkqTailWrite 0 ⟨5, true, 0x320, 4, 0⟩, .sqTailWrite 0 8 ⟨0, true, 0, 4, 0⟩, .rqTailWrite 0 4 ⟨0, true, 0x100, 4, 0⟩,
    .engineIdleTimeout (.talonChannel 16), .ringEnableWrite 0 (.scq 0 4) 0] : List Instr).all (fun i => !i.wellFormed) = true := by decide +kernel

/-! ### Witnesses: frames -/

theorem witness_frame_none : Machine.engines (.thermalThrottleStep 0) = [] ∧ ∃ t, exec (.thermalThrottleStep 0) up = .next t := ⟨by decide, _, rfl⟩
theorem witness_frame_core : coreOnly (.arraySwap ⟨0, 1⟩) = some 0 ∧ coreOnly (.halt 1535) = some 1535 ∧ coreOnly (.halt 1536) = some 1536 ∧
    (∃ t, exec (.arraySwap ⟨0, 1⟩) body = .next t) ∧ body.bodyRuns 0 = true := ⟨rfl, rfl, rfl, ⟨_, rfl⟩, by decide +kernel⟩
theorem witness_frame_one : (Machine.engines (.heldDeadlinePass 0)).length = 1 ∧ ∃ t, exec (.heldDeadlinePass 0) (holding 0) = .next t := ⟨by decide, _, rfl⟩
theorem witness_frame_five : (Machine.engines (.windowBoundary [])).length = 1 ∧ (Machine.engines (.imageCreate)).length = 5 := by decide
theorem witness_frame_work : (Machine.engines (.taskDone 1 0)).length = 9 ∧ (Machine.engines (.submissionFetch 0 [])).length = 7 ∧
    (∃ t, exec (.taskDone 1 0) body = .next t) := ⟨by decide, by decide, ⟨_, rfl⟩⟩
/-- The stores of the model answer a next state on the states of their witnesses. -/
def answers (o : Out) : Bool := match o with
  | .next _ => true
  | _ => false
theorem witness_stores : answers (exec (.arrayResultLand ⟨0, waits, 1⟩) (landed true)) = true ∧ answers (exec (.bar4Write 0 0 [1] []) up) = true ∧
    answers (exec (.controlWait 0 (.writePage 4 15) noWaits) body) = true ∧ ControlOp.writePage 4 15 ≠ .readPage 4 0 := by decide +kernel
/-- A started move, a tap walk and an export that succeed, and pieces of what the other engines write. -/
theorem witness_stores_moves : (let u := (body.upset []).waited 0 waits; let d := localMove; let r := u.readAll d.elemBytes [storeAddr 0 0] []
    (match r.1 with | .ok b => (r.2.writeAll d.elemBytes [storeAddr 0 (storeSize - 64)] b).1.isNone | _ => false)
      && (d.srcGlobal || d.dstGlobal) == false && (globalMove.srcGlobal || globalMove.dstGlobal)
      && answers (exec (.streamMove 0 3 localMove waits []) body)) = true := by decide +kernel
theorem witness_stores_complete : (let u := (moving.upset []).waited 0 waits
    let v := u.updCore 0 (fun c => { c with queues := c.queues.filter (fun e => e.1 != 2) })
    let r := v.readAll 64 [storeAddr 0 0] []
    (match r.1 with | .ok b => (r.2.writeAll 64 [0] b).1.isNone | _ => false)
      && ((v.performMove 0 2 globalMove [(storeAddr 0 0, 0)] []).coreAt 0).nextItem 2 == none) = true := by decide +kernel
theorem witness_stores_tags : answers (exec (.tagPostPresent 0 0 65535) up) = true ∧ answers (exec (.tagReturnAbsent 0 0 65535) up) = true := by decide +kernel
theorem witness_stores_pieces : (∃ ws u, (fun _ (s : State) => ((.ok [(64, [1])] : Except Nat (List (Nat × List Byte))), s)) 0 up = (.ok ws, u) ∧
    u.memory.mem = up.memory.mem) ∧ (up.hbmWrite 2 4096 [1]).1 = none ∧ JobSource.ring 0 = .ring 0 := ⟨⟨_, _, rfl, rfl⟩, by decide +kernel, rfl⟩
/-- The lanes, sums and results that carry a NaN. -/
theorem witness_nans : nanCanonical .fp32 0x7FC00000 ∧ nanCanonical .fp32 5 ∧ body.bodyRuns 0 = true ∧ isIntFmt .fp4 = false ∧
    (arrayShape .fp4 .fp4).isSome = true := by
  refine ⟨fun _ => rfl, fun h => absurd h (by decide +kernel), by decide +kernel, rfl, rfl⟩
/-- A host's write through BAR4 changes its own byte and not the next (R124, R317). -/
theorem test_bar4Write : (match exec (.bar4Write 0 0 [1, 2] []) up with
    | .next t => (up.windowAddr 0 0, t.peek 0 3) == (0, [1, 2, 0])
    | _ => false) = true := by decide +kernel

end Sys2Proof.Tests
end

section
/-! PROOFS. How a register write reads back through its fields (R10, R11): the bits of a replaced range, one field's write, then the
whole list of fields. -/
namespace Sys2Proof.Machine

/-! ### Bit ranges -/

theorem testBit_bitsAt (w lo n i : Nat) : (bitsAt w lo n).testBit i = (decide (i < n) && w.testBit (i + lo)) := by
  rw [bitsAt, Nat.testBit_mod_two_pow, Nat.testBit_div_two_pow]

theorem testBit_putBits (w lo n v j : Nat) :
    (putBits w lo n v).testBit j = if lo ≤ j ∧ j < lo + n then v.testBit (j - lo) else w.testBit j := by
  have hlow : w % 2 ^ lo < 2 ^ lo := Nat.mod_lt _ (Nat.two_pow_pos lo)
  have hmid : 2 ^ lo * (v % 2 ^ n) + w % 2 ^ lo < 2 ^ (lo + n) := by
    rw [Nat.pow_add, Nat.mul_comm (2 ^ lo) (2 ^ n)]
    exact Nat.mul_add_lt_mul_of_lt_of_lt (Nat.mod_lt _ (Nat.two_pow_pos n)) hlow
  have hsum : putBits w lo n v = 2 ^ (lo + n) * (w / 2 ^ (lo + n)) + (2 ^ lo * (v % 2 ^ n) + w % 2 ^ lo) := by
    unfold putBits
    ring
  rw [hsum, Nat.testBit_two_pow_mul_add _ hmid, Nat.testBit_two_pow_mul_add _ hlow, Nat.testBit_mod_two_pow, Nat.testBit_mod_two_pow,
    Nat.testBit_div_two_pow]
  by_cases hin : j < lo + n
  · by_cases hlo : j < lo
    · simp [hin, hlo, Nat.not_le.mpr hlo]
    · simp [hin, hlo, Nat.le_of_not_lt hlo, show j - lo < n by omega]
  · simp [hin, Nat.sub_add_cancel (Nat.le_of_not_lt hin)]

theorem bitsAt_putBits_same (w lo n v : Nat) : bitsAt (putBits w lo n v) lo n = v % 2 ^ n := by
  refine Nat.eq_of_testBit_eq fun i => ?_
  rw [testBit_bitsAt, testBit_putBits, Nat.testBit_mod_two_pow]
  by_cases hi : i < n
  · simp [hi, show i + lo < lo + n by omega]
  · simp [hi]

theorem bitsAt_putBits_disjoint {lo n lo' n' : Nat} (w v : Nat) (h : lo' + n' ≤ lo ∨ lo + n ≤ lo') :
    bitsAt (putBits w lo n v) lo' n' = bitsAt w lo' n' := by
  refine Nat.eq_of_testBit_eq fun i => ?_
  rw [testBit_bitsAt, testBit_bitsAt, testBit_putBits]
  by_cases hi : i < n'
  · rw [if_neg (by omega)]
  · simp [hi]

/-! ### Fields -/

/-- Two fields of a register that share no bit. -/
def FieldSpec.Apart (f g : FieldSpec) : Prop := f.hi < g.lo ∨ g.hi < f.lo

theorem fieldOf_lt (f : FieldSpec) (w : Nat) : fieldOf f w < 2 ^ fieldWidth f := Nat.mod_lt _ (Nat.two_pow_pos _)

@[simp] theorem fieldOf_putFieldOf_same (f : FieldSpec) (v w : Nat) : fieldOf f (putFieldOf f v w) = v % 2 ^ fieldWidth f :=
  bitsAt_putBits_same ..

theorem fieldOf_putFieldOf_of_lt {f : FieldSpec} {v : Nat} (w : Nat) (h : v < 2 ^ fieldWidth f) : fieldOf f (putFieldOf f v w) = v := by
  rw [fieldOf_putFieldOf_same, Nat.mod_eq_of_lt h]

theorem fieldOf_putFieldOf_apart {f g : FieldSpec} (hf : f.lo ≤ f.hi) (hg : g.lo ≤ g.hi) (h : FieldSpec.Apart f g) (v w : Nat) :
    fieldOf f (putFieldOf g v w) = fieldOf f w := by
  refine bitsAt_putBits_disjoint w v ?_
  unfold FieldSpec.Apart at h
  unfold fieldWidth
  omega

/-! ### The write of one field -/

/-- The value that a write stores in a field: its stored form, cut to the field's width; `part` is the word under construction. -/
def storedForm (fu : Fuses) (v part : Nat) (f : FieldSpec) : Nat := storeValue fu part f.rule (fieldOf f v) % 2 ^ fieldWidth f

theorem storedForm_lt (fu : Fuses) (v part : Nat) (f : FieldSpec) : storedForm fu v part f < 2 ^ fieldWidth f :=
  Nat.mod_lt _ (Nat.two_pow_pos _)

/-- What a field of the register word is after a write, by its access class (R10); `nv` is the stored form of the value's field. -/
def fieldAfter (running : Bool) (v w nv : Nat) (f : FieldSpec) : Nat := match f.access with
  | .ro => fieldOf f w
  | .wo => fieldOf f w
  | .rs => fieldOf f w
  | .rw => nv
  | .rl => if running then fieldOf f w else nv
  | .w1c => fieldOf f w &&& (2 ^ fieldWidth f - 1 - fieldOf f v)

/-- Two results that agree in a field, in each of their four words. -/
structure WriteResult.Agree (f : FieldSpec) (a b : WriteResult) : Prop where
  word : fieldOf f a.word = fieldOf f b.word
  mask : fieldOf f a.mask = fieldOf f b.mask
  held : fieldOf f a.held = fieldOf f b.held
  stored : fieldOf f a.stored = fieldOf f b.stored

/-- The result `b` has the field `f` as the write of `v` over `a` leaves it, with the stored form `nv`. -/
structure WriteResult.Written (running : Bool) (v nv : Nat) (f : FieldSpec) (a b : WriteResult) : Prop where
  stored : fieldOf f b.stored = nv
  word : fieldOf f b.word = fieldAfter running v a.word nv f
  heldRS : f.access = .rs → fieldOf f b.mask = 2 ^ fieldWidth f - 1 ∧ fieldOf f b.held = nv
  unheld : f.access ≠ .rs → fieldOf f b.mask = fieldOf f a.mask ∧ fieldOf f b.held = fieldOf f a.held

theorem fieldAfter_congr {f : FieldSpec} {w w' : Nat} (h : fieldOf f w = fieldOf f w') (running : Bool) (v nv : Nat) :
    fieldAfter running v w nv f = fieldAfter running v w' nv f := by
  simp only [fieldAfter, h]

theorem WriteResult.Written.congr {running : Bool} {v nv : Nat} {f : FieldSpec} {a a' b b' : WriteResult}
    (h : Written running v nv f a b) (ha : Agree f a a') (hb : Agree f b' b) : Written running v nv f a' b' where
  stored := hb.stored.trans h.stored
  word := by rw [hb.word, h.word, fieldAfter_congr ha.word]
  heldRS hrs := by simpa only [hb.mask, hb.held] using h.heldRS hrs
  unheld hrs := by simpa only [hb.mask, hb.held, ha.mask, ha.held] using h.unheld hrs

/-- A write that holds nothing of the field beside the word. -/
theorem WriteResult.Written.of_unheld {running : Bool} {v nv : Nat} {f : FieldSpec} {a b : WriteResult} (hne : f.access ≠ .rs)
    (hstored : fieldOf f b.stored = nv) (hword : fieldOf f b.word = fieldAfter running v a.word nv f) (hmask : b.mask = a.mask)
    (hheld : b.held = a.held) : Written running v nv f a b :=
  ⟨hstored, hword, fun hrs => absurd hrs hne, fun _ => ⟨by rw [hmask], by rw [hheld]⟩⟩

section
variable (fu : Fuses) (running : Bool) (v : Nat) (r : WriteResult) {f g : FieldSpec}

theorem writeField_of_readOnly (h : f.access = .ro ∨ f.access = .wo) :
    writeField fu running v r f = { r with stored := putFieldOf f (storedForm fu v r.stored f) r.stored } := by
  rcases h with h | h <;> simp [writeField, storedForm, h]

theorem writeField_of_rw (h : f.access = .rw) :
    writeField fu running v r f = { r with
      stored := putFieldOf f (storedForm fu v r.stored f) r.stored, word := putFieldOf f (storedForm fu v r.stored f) r.word } := by
  simp [writeField, storedForm, h]

theorem writeField_of_rs (h : f.access = .rs) :
    writeField fu running v r f = { r with
      stored := putFieldOf f (storedForm fu v r.stored f) r.stored
      mask := putFieldOf f (2 ^ fieldWidth f - 1) r.mask, held := putFieldOf f (storedForm fu v r.stored f) r.held } := by
  simp [writeField, storedForm, h]

theorem writeField_of_rl_stopped (h : f.access = .rl) :
    writeField fu false v r f = { r with
      stored := putFieldOf f (storedForm fu v r.stored f) r.stored, word := putFieldOf f (storedForm fu v r.stored f) r.word } := by
  simp [writeField, storedForm, h]

/-- R10, R407: only a change is rejected. -/
theorem writeField_of_rl_running (h : f.access = .rl) :
    writeField fu true v r f = { r with
      stored := putFieldOf f (storedForm fu v r.stored f) r.stored
      rejected := r.rejected || decide (storedForm fu v r.stored f ≠ fieldOf f r.word) } := by
  by_cases hsame : storedForm fu v r.stored f = fieldOf f r.word
  · rw [storedForm] at hsame
    simp [writeField, storedForm, h, hsame]
  · rw [storedForm] at hsame
    simp [writeField, storedForm, h, hsame]

theorem writeField_of_w1c (h : f.access = .w1c) :
    writeField fu running v r f = { r with
      stored := putFieldOf f (storedForm fu v r.stored f) r.stored
      word := putFieldOf f (fieldOf f r.word &&& (2 ^ fieldWidth f - 1 - fieldOf f v)) r.word } := by
  simp [writeField, storedForm, h]

theorem writeField_written (f : FieldSpec) :
    WriteResult.Written running v (storedForm fu v r.stored f) f r (writeField fu running v r f) := by
  have hput (w : Nat) := fieldOf_putFieldOf_of_lt w (storedForm_lt fu v r.stored f)
  have hones := fieldOf_putFieldOf_of_lt r.mask (Nat.sub_one_lt (Nat.two_pow_pos (fieldWidth f)).ne')
  have hcleared := fieldOf_putFieldOf_of_lt r.word
    (Nat.and_le_left.trans_lt (fieldOf_lt f r.word) : fieldOf f r.word &&& (2 ^ fieldWidth f - 1 - fieldOf f v) < _)
  cases hacc : f.access with
  | ro =>
    rw [writeField_of_readOnly _ _ _ _ (.inl hacc)]
    exact .of_unheld (by simp [hacc]) (hput _) (by simp [fieldAfter, hacc]) rfl rfl
  | wo =>
    rw [writeField_of_readOnly _ _ _ _ (.inr hacc)]
    exact .of_unheld (by simp [hacc]) (hput _) (by simp [fieldAfter, hacc]) rfl rfl
  | rw =>
    rw [writeField_of_rw _ _ _ _ hacc]
    exact .of_unheld (by simp [hacc]) (hput _) (by simp [fieldAfter, hacc, hput]) rfl rfl
  | w1c =>
    rw [writeField_of_w1c _ _ _ _ hacc]
    exact .of_unheld (by simp [hacc]) (hput _) (by simpa only [fieldAfter, hacc] using hcleared) rfl rfl
  | rl =>
    cases running with
    | false =>
      rw [writeField_of_rl_stopped _ _ _ hacc]
      exact .of_unheld (by simp [hacc]) (hput _) (by simp [fieldAfter, hacc, hput]) rfl rfl
    | true =>
      rw [writeField_of_rl_running _ _ _ hacc]
      exact .of_unheld (by simp [hacc]) (hput _) (by simp [fieldAfter, hacc]) rfl rfl
  | rs =>
    rw [writeField_of_rs _ _ _ _ hacc]
    exact ⟨hput _, by simp [fieldAfter, hacc], fun _ => ⟨hones, hput _⟩, fun hne => absurd hacc hne⟩

/-- A field's write leaves every field apart from it. -/
theorem writeField_agree (hf : f.lo ≤ f.hi) (hg : g.lo ≤ g.hi) (h : FieldSpec.Apart f g) :
    WriteResult.Agree f (writeField fu running v r g) r := by
  have hput := fieldOf_putFieldOf_apart hf hg h
  cases hacc : g.access with
  | ro => rw [writeField_of_readOnly _ _ _ _ (.inl hacc)]; exact ⟨rfl, rfl, rfl, hput ..⟩
  | wo => rw [writeField_of_readOnly _ _ _ _ (.inr hacc)]; exact ⟨rfl, rfl, rfl, hput ..⟩
  | rw => rw [writeField_of_rw _ _ _ _ hacc]; exact ⟨hput .., rfl, rfl, hput ..⟩
  | rs => rw [writeField_of_rs _ _ _ _ hacc]; exact ⟨rfl, hput .., hput .., hput ..⟩
  | w1c => rw [writeField_of_w1c _ _ _ _ hacc]; exact ⟨hput .., rfl, rfl, hput ..⟩
  | rl =>
    cases running with
    | false => rw [writeField_of_rl_stopped _ _ _ hacc]; exact ⟨hput .., rfl, rfl, hput ..⟩
    | true => rw [writeField_of_rl_running _ _ _ hacc]; exact ⟨rfl, rfl, rfl, hput ..⟩

theorem writeField_rejected_iff (f : FieldSpec) : (writeField fu running v r f).rejected = true ↔
    r.rejected = true ∨ running = true ∧ f.access = .rl ∧ fieldOf f (writeField fu running v r f).stored ≠ fieldOf f r.word := by
  rw [(writeField_written fu running v r f).stored]
  cases hacc : f.access with
  | ro => simp [writeField_of_readOnly _ _ _ _ (.inl hacc)]
  | wo => simp [writeField_of_readOnly _ _ _ _ (.inr hacc)]
  | rw => simp [writeField_of_rw _ _ _ _ hacc]
  | rs => simp [writeField_of_rs _ _ _ _ hacc]
  | w1c => simp [writeField_of_w1c _ _ _ _ hacc]
  | rl =>
    cases running with
    | false => simp [writeField_of_rl_stopped _ _ _ hacc]
    | true => simp [writeField_of_rl_running _ _ _ hacc]

end

/-! ### The write of a list of fields -/

/-- Fields that are ranges and share no bit with each other, as those of a register are (R10). -/
structure DisjointFields (fs : List FieldSpec) : Prop where
  range : ∀ f ∈ fs, f.lo ≤ f.hi
  apart : fs.Pairwise FieldSpec.Apart

theorem DisjointFields.tail {f : FieldSpec} {fs : List FieldSpec} (h : DisjointFields (f :: fs)) : DisjointFields fs :=
  ⟨fun g hg => h.range g (List.mem_cons_of_mem f hg), h.apart.of_cons⟩

theorem DisjointFields.head_apart {f g : FieldSpec} {fs : List FieldSpec} (h : DisjointFields (f :: fs)) (hg : g ∈ fs) :
    FieldSpec.Apart f g :=
  List.rel_of_pairwise_cons h.apart hg

theorem FieldSpec.Apart.symm {f g : FieldSpec} (h : FieldSpec.Apart f g) : FieldSpec.Apart g f := Or.symm h

theorem WriteResult.Agree.trans {f : FieldSpec} {a b c : WriteResult} (h : Agree f a b) (h' : Agree f b c) : Agree f a c :=
  ⟨h.word.trans h'.word, h.mask.trans h'.mask, h.held.trans h'.held, h.stored.trans h'.stored⟩

section
variable (fu : Fuses) (running : Bool) (v : Nat)

theorem writeFields_agree {f : FieldSpec} (hf : f.lo ≤ f.hi) {fs : List FieldSpec} (hfs : ∀ g ∈ fs, g.lo ≤ g.hi ∧ FieldSpec.Apart f g)
    (r : WriteResult) : WriteResult.Agree f (fs.foldl (writeField fu running v) r) r := by
  induction fs generalizing r with
  | nil => exact ⟨rfl, rfl, rfl, rfl⟩
  | cons g gs ih =>
    obtain ⟨⟨hg, hfg⟩, hgs⟩ := List.forall_mem_cons.mp hfs
    exact (ih hgs _).trans (writeField_agree fu running v r hf hg hfg)

theorem DisjointFields.head_agree {f : FieldSpec} {fs : List FieldSpec} (h : DisjointFields (f :: fs)) (r : WriteResult) :
    WriteResult.Agree f (fs.foldl (writeField fu running v) r) r :=
  writeFields_agree fu running v (h.range f List.mem_cons_self) (fun g hg => ⟨h.tail.range g hg, h.head_apart hg⟩) r

theorem DisjointFields.tail_agree {f g : FieldSpec} {fs : List FieldSpec} (h : DisjointFields (f :: fs)) (hg : g ∈ fs) (r : WriteResult) :
    WriteResult.Agree g (writeField fu running v r f) r :=
  writeField_agree fu running v r (h.tail.range g hg) (h.range f List.mem_cons_self) (h.head_apart hg).symm

/-- R11: each field of the list is written as if it were alone. -/
theorem writeFields_written {fs : List FieldSpec} (h : DisjointFields fs) (r : WriteResult) {f : FieldSpec} (hf : f ∈ fs) :
    ∃ part, WriteResult.Written running v (storedForm fu v part f) f r (fs.foldl (writeField fu running v) r) := by
  induction fs generalizing r with
  | nil => cases hf
  | cons g gs ih =>
    rcases List.mem_cons.mp hf with rfl | hmem
    · exact ⟨r.stored, (writeField_written fu running v r f).congr ⟨rfl, rfl, rfl, rfl⟩ (h.head_agree fu running v _)⟩
    · obtain ⟨part, hw⟩ := ih h.tail (writeField fu running v r g) hmem
      exact ⟨part, hw.congr (h.tail_agree fu running v hmem r) ⟨rfl, rfl, rfl, rfl⟩⟩

/-- R10, R407: a write is rejected for the RL fields that it would change while the block runs, and for nothing else. -/
theorem writeFields_rejected_iff {fs : List FieldSpec} (h : DisjointFields fs) (r : WriteResult) :
    let t := fs.foldl (writeField fu running v) r
    t.rejected = true ↔
      r.rejected = true ∨ running = true ∧ ∃ f ∈ fs, f.access = .rl ∧ fieldOf f t.stored ≠ fieldOf f r.word := by
  induction fs generalizing r with
  | nil => simp
  | cons g gs ih =>
    have hhead := (h.head_agree fu running v (writeField fu running v r g)).stored
    have htail (t : WriteResult) :
        (∃ f ∈ gs, f.access = .rl ∧ fieldOf f t.stored ≠ fieldOf f (writeField fu running v r g).word) ↔
          ∃ f ∈ gs, f.access = .rl ∧ fieldOf f t.stored ≠ fieldOf f r.word :=
      exists_congr fun f => and_congr_right fun hf => by rw [(h.tail_agree fu running v hf r).word]
    simp only [List.foldl_cons, ih h.tail, writeField_rejected_iff, htail, List.mem_cons, or_and_right, exists_or, exists_eq_left,
      hhead, and_or_left, or_assoc]

end

/-- Settles O44: the fields of the list are disjoint ranges, so that each is written by its own class alone (`writeFields_written`), and the
rejections of the list are those of its RL fields (`writeFields_rejected_iff`). -/
theorem writeIsFieldByField : Obligations.WriteIsFieldByField := by
  intro fu running v w mask held fs hrange hapart
  have hfs : DisjointFields fs := ⟨fun f hf => (hrange f hf).1, hapart⟩
  refine ⟨fun f hf => ?_, ?_⟩
  · obtain ⟨part, hw⟩ := writeFields_written fu running v hfs ⟨w, mask, held, false, 0⟩ hf
    exact ⟨part, hw.stored, hw.word, hw.heldRS, hw.unheld⟩
  · simpa using writeFields_rejected_iff fu running v hfs ⟨w, mask, held, false, 0⟩

end Sys2Proof.Machine
end

section
/-! PROOFS. The bounds of INT32 accumulators (R57), and local addresses that no move may use (R43, R44). -/
namespace Sys2Proof.Machine

/-! ### Two's complement -/

theorem ofSigned_lt (v : Int) : ofSigned 32 v < 2 ^ 32 := by
  unfold ofSigned
  omega

theorem toSigned_ofSigned (v : Int) (hlo : -2 ^ 31 ≤ v) (hhi : v ≤ 2 ^ 31 - 1) : toSigned 32 (ofSigned 32 v) = v := by
  have hlt := ofSigned_lt v
  have hcast : (ofSigned 32 v : Int) = v % 2 ^ 32 := Int.toNat_of_nonneg (Int.emod_nonneg v (by decide))
  unfold toSigned
  rw [Nat.mod_eq_of_lt hlt]
  by_cases hneg : v < 0
  · rw [if_neg (by omega)]; omega
  · rw [if_pos (by omega)]; omega

/-- Settles O51, by the three branches of the clamp. -/
theorem accumulatorsClamp : Obligations.AccumulatorsClamp := by
  intro add old sum _ r exact
  have hr : r = if exact < -2 ^ 31 then (ofSigned 32 (-2 ^ 31), flagSat)
      else if 2 ^ 31 - 1 < exact then (ofSigned 32 (2 ^ 31 - 1), flagSat) else (ofSigned 32 exact, 0) := rfl
  clear_value r exact
  by_cases hlow : exact < -2 ^ 31
  · rw [if_pos hlow] at hr ⊢
    subst hr
    exact ⟨by decide, by decide, iff_of_true (by decide) (.inl hlow)⟩
  · rw [if_neg hlow] at hr ⊢
    by_cases hhigh : 2 ^ 31 - 1 < exact
    · rw [if_pos hhigh] at hr ⊢
      subst hr
      exact ⟨by decide, by decide, iff_of_true (by decide) (.inr hhigh)⟩
    · rw [if_neg hhigh] at hr ⊢
      subst hr
      exact ⟨toSigned_ofSigned exact (by omega) (by omega), ofSigned_lt _, iff_of_false (by simp) (not_or.mpr ⟨hlow, hhigh⟩)⟩

/-! ### Local addresses -/

theorem regionOf_storeAddr {c off : Nat} (hc : c < 1536) (hoff : off < storeSize) : regionOf (storeAddr c off) = .store c off := by
  have hat : storeAddr c off = 0x10000000000 + c * 0x40000 + off := rfl
  have hsize : off < 0x40000 := hoff
  have hcore : (storeAddr c off - storeBase) / storeSize = c := by unfold storeBase storeSize; omega
  have hbyte : (storeAddr c off - storeBase) % storeSize = off := by unfold storeBase storeSize; omega
  unfold regionOf
  rw [if_neg (by unfold hbmRegion; omega), if_pos (by unfold storeBase storeSize; omega), hcore, hbyte]

/-- R44: an access that begins in the store of a core that does not work. -/
theorem State.storesWork_of_folded {s : State} {c off : Nat} (hc : c < 1536) (hoff : off < storeSize) (hfold : s.coreWorking c = false)
    (n : Nat) : s.storesWork (storeAddr c off) n = false := by
  simp only [State.storesWork, regionOf_storeAddr hc hoff, List.all_eq_false]
  exact ⟨c, List.mem_map.mpr ⟨0, by simp, by simp⟩, by simp [hfold]⟩

/-- A local address of a core that lies outside the ranges of R43 which a descriptor may name, or in the store of a core that does not work. -/
def State.unusable (s : State) (core a : Nat) : Prop :=
  (0x40000 ≤ a ∧ a < 0x100000) ∨ (0x300000 ≤ a ∧ a < 0x400000) ∨ 0x800000 ≤ a ∨
    (0x400000 ≤ a ∧ a < 0x800000 ∧ core < 1536 ∧ s.coreWorking (16 * coreCluster core + (a - 0x400000) / 0x40000) = false)

/-- An unusable address is no global one, or one in a store of the cluster that does not work. -/
theorem State.unusable.localToGlobal {s : State} {core a : Nat} (h : s.unusable core a) :
    Machine.localToGlobal core a = none ∨
      ∃ c off, c < 1536 ∧ off < storeSize ∧ s.coreWorking c = false ∧ Machine.localToGlobal core a = some (storeAddr c off) := by
  unfold Machine.localToGlobal
  rcases h with h | h | h | ⟨hlo, hhi, hcore, hfold⟩
  · left; rw [if_neg (by omega), if_neg (by omega), if_neg (by omega)]
  · left; rw [if_neg (by omega), if_neg (by omega), if_neg (by omega)]
  · left; rw [if_neg (by omega), if_neg (by omega), if_neg (by omega)]
  · right
    refine ⟨_, (a - 0x400000) % 0x40000, ?_, Nat.mod_lt _ (by decide), hfold, ?_⟩
    · unfold coreCluster; omega
    · rw [if_neg (by omega), if_neg (by omega), if_pos ⟨hlo, hhi⟩]

theorem State.resolve_of_unusable {s : State} {core a : Nat} (h : s.unusable core a) (p len : Nat) :
    s.resolve core p false a len = .error St.DEAL_ADDRESS_FAULT := by
  simp only [State.resolve, Bool.false_eq_true, if_false]
  rcases h.localToGlobal with hnone | ⟨c, off, hc, hoff, hfold, hsome⟩
  · rw [hnone]
  · rw [hsome]
    cases Machine.localToGlobal core (a + len - 1) with
    | none => rfl
    | some b => simp [State.storesWork_of_folded hc hoff hfold]

/-! ### A descriptor that starts at once -/

/-- A move whose bundle has waited, in a queue where none is before it. -/
theorem exec_streamMove_of_startsNow {s : State} {core queue : Nat} {w : Waits} (h : s.startsNow core queue w = true) (d : StreamDesc) :
    exec (.streamMove core queue d w []) s = .next ((s.waited core w).streamMove core queue d) := by
  simp only [State.startsNow, Bool.and_eq_true] at h
  obtain ⟨⟨hbody, hfree⟩, hnone⟩ := h
  have hissue : (s.waited core w).issue core queue (.move d) = (s.waited core w).streamMove core queue d := by
    simp [State.issue, hfree, hnone, State.startItem]
  rw [← hissue]
  exact onBody_runs core (fun s => (s.waited core w).issue core queue (.move d)) s hbody

/-- A move of one element whose source is refused. -/
theorem State.streamMove_of_source_refused {s : State} {core p a len : Nat}
    (hpart : s.corePart core = some p) (hlen : len ≠ 0) (hsrc : s.resolve core p false a len = .error St.DEAL_ADDRESS_FAULT)
    (queue dst : Nat) (toGlobal : Bool) :
    s.streamMove core queue ⟨false, a, toGlobal, dst, len, []⟩ = s.failOnCore core St.DEAL_ADDRESS_FAULT := by
  have hall : s.resolveAll core p ⟨false, a, toGlobal, dst, len, []⟩ = .error St.DEAL_ADDRESS_FAULT := by
    simp [State.resolveAll, elementOffsets, hsrc]
  simp [State.streamMove, hlen, hpart, hall, State.refuseAccess, stBlock, St.DEAL_ADDRESS_FAULT]

/-- Settles O49: an unusable source is refused by `State.resolve`, in the state that has waited too, whose folds are the same. -/
theorem localAddressFaults : Obligations.LocalAddressFaults := by
  intro s core p a len (h : s.unusable core a)
  refine ⟨State.resolve_of_unusable h p len, fun queue dst elemBytes w toGlobal => ?_⟩
  rintro d hstart rfl hlen hpart hworking
  have hwaited : (s.waited core w).unusable core a := by simpa only [State.unusable, hworking] using h
  rw [exec_streamMove_of_startsNow hstart]
  exact congrArg _ (State.streamMove_of_source_refused hpart hlen (State.resolve_of_unusable hwaited p _) queue dst toGlobal)

end Sys2Proof.Machine
end

section
/-! PROOFS. The roundings yield no NaN but the canonical one (R52): which encodings are NaN, and what each rounding encodes. -/
namespace Sys2Proof.Machine

/-! ### The encodings that are NaN (R49) -/

/-- The floating-point formats that have a NaN (R49, R52): FP4 has none. -/
def nanFormats : List NumFmt := [.fp32, .bf16, .fp16, .e4m3, .e5m2]

/-- The last encoding of a non-negative number; those above it, up to the sign bit, are NaN. -/
def lastNumber (f : NumFmt) : Nat := if f = .e4m3 then 0x7E else infBits f false

/-- The bits that a sign adds to an encoding. -/
def signOf (f : NumFmt) (neg : Bool) : Nat := if neg then signBit f else 0

theorem mem_nanFormats {f : NumFmt} : f ∈ nanFormats ↔ f = .fp32 ∨ f = .bf16 ∨ f = .fp16 ∨ f = .e4m3 ∨ f = .e5m2 := by
  simp [nanFormats]

/-- Every exponent bit is set, and the mantissa is no infinity's and, in E4M3, no number's. -/
theorem decodeNum_eq_nan_iff_fields {f : NumFmt} (hf : f ∈ nanFormats) (b : Nat) :
    decodeNum f b = .nan ↔ b / 2 ^ (floatShape f).2.1 % 2 ^ (floatShape f).1 = 2 ^ (floatShape f).1 - 1 ∧
      if f = .e4m3 then b % 2 ^ (floatShape f).2.1 = 7 else b % 2 ^ (floatShape f).2.1 ≠ 0 := by
  have hfloat : isIntFmt f = false ∧ f ≠ .fp4 := by rcases mem_nanFormats.mp hf with rfl | rfl | rfl | rfl | rfl <;> decide
  unfold decodeNum
  simp only [hfloat.1, Bool.false_eq_true, if_false]
  by_cases h8 : f = .e4m3
  · subst h8
    split_ifs <;> simp_all
  · split_ifs <;> simp_all

theorem decodeNum_eq_nan_iff {f : NumFmt} (hf : f ∈ nanFormats) (b : Nat) :
    decodeNum f b = .nan ↔ lastNumber f < b % signBit f := by
  rw [decodeNum_eq_nan_iff_fields hf]
  rcases mem_nanFormats.mp hf with rfl | rfl | rfl | rfl | rfl <;>
    simp only [floatShape, lastNumber, infBits, signBit, reduceCtorEq, if_true, if_false, Bool.false_eq_true] <;> omega

/-- The signed encoding of a number or an infinity is no NaN. -/
theorem nanCanonical_signed {f : NumFmt} (hf : f ∈ nanFormats) {c : Nat} (hc : c ≤ lastNumber f) (neg : Bool) :
    nanCanonical f (c + signOf f neg) := by
  intro hnan
  have hlast : lastNumber f < signBit f := by rcases mem_nanFormats.mp hf with rfl | rfl | rfl | rfl | rfl <;> decide
  have hmod : (c + signOf f neg) % signBit f = c := by
    cases neg <;> simpa [signOf] using Nat.mod_eq_of_lt (hc.trans_lt hlast)
  rw [decodeNum_eq_nan_iff hf, hmod] at hnan
  exact absurd hc (Nat.not_le.mpr hnan)

theorem nanCanonical_of_le {f : NumFmt} (hf : f ∈ nanFormats) {c : Nat} (hc : c ≤ lastNumber f) : nanCanonical f c :=
  nanCanonical_signed hf hc false

theorem nanCanonical_zero {f : NumFmt} (hf : f ∈ nanFormats) : nanCanonical f 0 := nanCanonical_of_le hf (Nat.zero_le _)

theorem nanCanonical_canonicalNan (f : NumFmt) : nanCanonical f (canonicalNan f) := fun _ => rfl

/-- A register's lane holds the low bits of an encoding; the bits above them decide nothing. -/
theorem nanCanonical_mod {f : NumFmt} (hf : f ∈ nanFormats) {b : Nat} (h : nanCanonical f b) :
    nanCanonical f (b % 2 ^ (8 * NumFmt_bytes f)) := by
  have hdvd : signBit f ∣ 2 ^ (8 * NumFmt_bytes f) := by
    rcases mem_nanFormats.mp hf with rfl | rfl | rfl | rfl | rfl <;> decide
  have hfits : canonicalNan f < 2 ^ (8 * NumFmt_bytes f) := by
    rcases mem_nanFormats.mp hf with rfl | rfl | rfl | rfl | rfl <;> decide
  intro hnan
  rw [decodeNum_eq_nan_iff hf, Nat.mod_mod_of_dvd _ hdvd, ← decodeNum_eq_nan_iff hf] at hnan
  rw [h hnan, Nat.mod_eq_of_lt hfits]

/-! ### What a rounding encodes -/

theorem infBits_nanCanonical {f : NumFmt} (hf : f ∈ nanFormats) (neg : Bool) : nanCanonical f (infBits f neg) := by
  have hinf : infBits f false ≤ lastNumber f := by rcases mem_nanFormats.mp hf with rfl | rfl | rfl | rfl | rfl <;> decide
  exact nanCanonical_signed hf hinf neg

theorem maxFiniteBits_le_lastNumber {f : NumFmt} (hf : f ∈ nanFormats) : maxFiniteBits f false ≤ lastNumber f := by
  rcases mem_nanFormats.mp hf with rfl | rfl | rfl | rfl | rfl <;> decide

theorem maxFiniteBits_nanCanonical {f : NumFmt} (hf : f ∈ nanFormats) (neg : Bool) : nanCanonical f (maxFiniteBits f neg) :=
  nanCanonical_signed hf (maxFiniteBits_le_lastNumber hf) neg

/-- The exponent of a significand's last bit in the subnormal range (R49). -/
def minExponent (f : NumFmt) : Int := 1 - ((floatShape f).2.2 : Int) - ((floatShape f).2.1 : Int)

theorem minExponent_le_roundSig (f : NumFmt) (mode : RMode) (draw m : Nat) (e : Int) : minExponent f ≤ (roundSig f mode draw m e).2 := by
  obtain ⟨⟨eb, mb, bias⟩, hshape⟩ : ∃ shape, shape = floatShape f := ⟨_, rfl⟩
  simp only [roundSig, minExponent, ← hshape]
  split
  · dsimp only; omega
  · dsimp only; omega

/-- The encoding of a significand without its sign. -/
def significandCode (f : NumFmt) (k : Nat) (q : Int) : Nat :=
  if k < 2 ^ (floatShape f).2.1 then k
  else (q + (floatShape f).2.1 + (floatShape f).2.2).toNat * 2 ^ (floatShape f).2.1 + (k - 2 ^ (floatShape f).2.1)

theorem encodeSig_eq (f : NumFmt) (neg : Bool) (k : Nat) (q : Int) : encodeSig f neg k q = significandCode f k q + signOf f neg := rfl

theorem significandCode_le_of_not_exceeds {f : NumFmt} {k : Nat} {q : Int} (hq : minExponent f ≤ q) (h : exceeds f k q = false) :
    significandCode f k q ≤ maxFiniteBits f false := by
  simp only [exceeds, decide_eq_false_iff_not, not_lt] at h
  unfold minExponent at hq
  unfold significandCode
  by_cases hk : k < 2 ^ (floatShape f).2.1
  · rw [if_pos hk] at h ⊢
    exact_mod_cast h
  · rw [if_neg hk] at h ⊢
    have hexp : ((q + (floatShape f).2.1 + (floatShape f).2.2).toNat : Int) = q + (floatShape f).2.1 + (floatShape f).2.2 :=
      Int.toNat_of_nonneg (by omega)
    zify [Nat.not_lt.mp hk]
    rw [hexp]
    exact h

theorem encodeSig_nanCanonical {f : NumFmt} (hf : f ∈ nanFormats) {k : Nat} {q : Int} (hq : minExponent f ≤ q)
    (h : exceeds f k q = false) (neg : Bool) : nanCanonical f (encodeSig f neg k q) :=
  nanCanonical_signed hf ((significandCode_le_of_not_exceeds hq h).trans (maxFiniteBits_le_lastNumber hf)) neg

theorem signedZero_nanCanonical {f : NumFmt} (hf : f ∈ nanFormats) (neg : Bool) : nanCanonical f (if neg then signBit f else 0) := by
  simpa [signOf] using nanCanonical_signed hf (Nat.zero_le _) neg

/-- R52, R59 to R61: the conversion, by its row for each kind of value. -/
theorem convertNum_nanCanonical {f : NumFmt} (hf : f ∈ nanFormats) (mode : RMode) (satEn : Bool) (draw : Nat) (x : Exact) :
    nanCanonical f (convertNum f mode satEn draw x).bits := by
  have hfloat : isIntFmt f = false := by rcases mem_nanFormats.mp hf with rfl | rfl | rfl | rfl | rfl <;> rfl
  unfold convertNum
  rw [if_neg (by simp [hfloat])]
  cases x with
  | nan => exact nanCanonical_canonicalNan f
  | inf neg =>
    dsimp only
    split_ifs
    · exact maxFiniteBits_nanCanonical hf neg
    · exact nanCanonical_canonicalNan f
    · exact infBits_nanCanonical hf neg
  | fin neg m e =>
    have hq := minExponent_le_roundSig f mode draw m e
    dsimp only
    by_cases hzero : m = 0
    · rw [if_pos hzero]
      exact signedZero_nanCanonical hf neg
    · rw [if_neg hzero]
      by_cases hover : exceeds f (roundSig f mode draw m e).1 (roundSig f mode draw m e).2 = true
      · rw [if_pos hover]
        split_ifs
        · exact maxFiniteBits_nanCanonical hf neg
        · exact maxFiniteBits_nanCanonical hf neg
        · exact nanCanonical_canonicalNan f
        · exact infBits_nanCanonical hf neg
      · rw [if_neg hover]
        exact encodeSig_nanCanonical hf hq (Bool.eq_false_of_not_eq_true hover) neg

/-- R52, R55: the rounding of an arithmetic result. -/
theorem roundArith_nanCanonical {f : NumFmt} (hf : f ∈ nanFormats) (x : Exact) : nanCanonical f (roundArith f x).bits := by
  cases x with
  | nan => exact nanCanonical_canonicalNan f
  | inf neg => exact infBits_nanCanonical hf neg
  | fin neg m e => exact convertNum_nanCanonical hf .nearestEven false 0 (.fin neg m e)

theorem convertAll_nanCanonical {f : NumFmt} (hf : f ∈ nanFormats) (mode : RMode) (satEn : Bool) (lfsr : Nat) (xs : List Exact) :
    ∀ b ∈ (convertAll f mode satEn lfsr xs).1, nanCanonical f b := by
  induction xs generalizing lfsr with
  | nil => simp [convertAll]
  | cons x xs ih => exact List.forall_mem_cons.mpr ⟨convertNum_nanCanonical hf mode satEn _ x, ih _⟩

@[simp] theorem convertAll_length (f : NumFmt) (mode : RMode) (satEn : Bool) (lfsr : Nat) (xs : List Exact) :
    (convertAll f mode satEn lfsr xs).1.length = xs.length := by
  induction xs generalizing lfsr with
  | nil => rfl
  | cons x xs ih => simp [convertAll, ih]

end Sys2Proof.Machine
end

section
/-! PROOFS. The vector unit and the special-function unit yield no NaN but the canonical one (R52, R63 to R68). -/
namespace Sys2Proof.Machine

/-! ### Lanes of a register -/

theorem fp32_mem_nanFormats : NumFmt.fp32 ∈ nanFormats := by decide
theorem bf16_mem_nanFormats : NumFmt.bf16 ∈ nanFormats := by decide

theorem bitsAt_mod {w lo n : Nat} (h : lo + n ≤ w) (v : Nat) : bitsAt (v % 2 ^ w) lo n = bitsAt v lo n := by
  refine Nat.eq_of_testBit_eq fun i => ?_
  rw [testBit_bitsAt, testBit_bitsAt, Nat.testBit_mod_two_pow]
  by_cases hi : i < n
  · simp [show i + lo < w by omega]
  · simp [hi]

theorem bitsAt_ofLanes (w : Nat) {l : List Nat} {i : Nat} (hi : i < l.length) : bitsAt (ofLanes w l) (w * i) w = l[i] % 2 ^ w := by
  induction l generalizing i with
  | nil => cases hi
  | cons x l ih =>
    cases i with
    | zero => simp [bitsAt, ofLanes]
    | succ i =>
      have hrest : ofLanes w (x :: l) / 2 ^ w = ofLanes w l := by
        rw [ofLanes, Nat.add_mul_div_left _ _ (Nat.two_pow_pos w), Nat.div_eq_of_lt (Nat.mod_lt _ (Nat.two_pow_pos w)), Nat.zero_add]
      have hlow := ih (Nat.lt_of_succ_lt_succ hi)
      rw [bitsAt, Nat.mul_succ, Nat.add_comm, Nat.pow_add, ← Nat.div_div_eq_div_mul, hrest]
      exact hlow

/-- Every lane that was packed from encodings that are numbers or the canonical NaN is one. -/
theorem nanCanonical_lane {f : NumFmt} (hf : f ∈ nanFormats) {l : List Nat} (h : ∀ b ∈ l, nanCanonical f b) {i : Nat} (hi : i < l.length) :
    nanCanonical f (bitsAt (ofLanes (8 * NumFmt_bytes f) l) (8 * NumFmt_bytes f * i) (8 * NumFmt_bytes f)) := by
  rw [bitsAt_ofLanes _ hi]
  exact nanCanonical_mod hf (h _ (List.getElem_mem hi))

@[simp] theorem lanes_length (w k v : Nat) : (lanes w k v).length = k := by simp [lanes]

/-! ### Writes of a register -/

@[simp] theorem State.coreAt_updCore_same (s : State) (n : Nat) (g : CoreState → CoreState) : (s.updCore n g).coreAt n = g (s.coreAt n) := by
  simp [State.coreAt, State.updCore, State.putCore, mapGetD]

theorem State.vreg_putVreg_same (s : State) (n r v : Nat) : (s.putVreg n r v).vreg n r = v % 2 ^ 2048 := by
  simp only [State.vreg, State.putVreg, State.coreAt_updCore_same, mapGetD, mapGet_mapSet_same, Option.getD_some]

theorem State.bitsAt_putVreg (s : State) (n r v : Nat) {lo m : Nat} (h : lo + m ≤ 2048) :
    bitsAt ((s.putVreg n r v).vreg n r) lo m = bitsAt v lo m := by
  rw [State.vreg_putVreg_same, bitsAt_mod h]

theorem State.bitsAt_putLow (s : State) (n r v : Nat) (inputs : List Nat) {lo m bits : Nat} (hbits : bits ≤ 2048) (h : lo + m ≤ bits) :
    bitsAt ((s.putLow n r bits v inputs).vreg n r) lo m = bitsAt v lo m := by
  rw [State.putLow, State.bitsAt_putVreg _ _ _ _ (h.trans hbits), ← bitsAt_mod h, Nat.add_mul_mod_self_left, Nat.mod_mod, bitsAt_mod h]

/-! ### Lane arithmetic (R64) -/

/-- The format of a lane that holds a floating-point number. -/
def floatOf (lf : LaneFmt) : NumFmt := if lf = .bf16 then .bf16 else .fp32

theorem floatOf_mem_nanFormats (lf : LaneFmt) : floatOf lf ∈ nanFormats := by cases lf <;> decide

theorem laneBits_eq (lf : LaneFmt) : laneBits lf = 8 * NumFmt_bytes (floatOf lf) := by cases lf <;> rfl

theorem lane_end_le {lf : LaneFmt} {i : Nat} (hi : i < lanesOf lf) : laneBits lf * i + laneBits lf ≤ 2048 := by
  cases lf <;> simp only [lanesOf, laneBits] at hi ⊢ <;> omega

theorem laneResult_nanCanonical (lf : LaneFmt) (ins : List Exact) (out : Exact) :
    nanCanonical (floatOf lf) (laneResult (lf == .bf16) ins out).bits := by
  cases lf <;> exact roundArith_nanCanonical (floatOf_mem_nanFormats _) _

/-- The result of one lane, from the three operands' lanes. -/
def laneArith (lf : LaneFmt) (op : VecOp) (a b c : Nat) : Rounded :=
  match floatLane op (laneNum lf a) (laneNum lf b) (laneNum lf c) with
  | some (out, ins) => laneResult (lf == LaneFmt.bf16) ins out
  | none => ⟨0, 0⟩

theorem laneArith_nanCanonical (lf : LaneFmt) (op : VecOp) (a b c : Nat) : nanCanonical (floatOf lf) (laneArith lf op a b c).bits := by
  unfold laneArith
  split
  · exact laneResult_nanCanonical lf _ _
  · exact nanCanonical_zero (floatOf_mem_nanFormats lf)

/-- The results of an operation that float lanes have, lane by lane. -/
def floatResults (s : State) (n : Nat) (lf : LaneFmt) (op : VecOp) (a b c : Nat) : List Rounded :=
  (List.range (lanesOf lf)).map (fun i => laneArith lf op ((lanes (laneBits lf) (lanesOf lf) (s.vreg n a)).getD i 0)
    ((lanes (laneBits lf) (lanesOf lf) (s.vreg n b)).getD i 0) ((lanes (laneBits lf) (lanesOf lf) (s.vreg n c)).getD i 0))

theorem State.vectorArith_float {lf : LaneFmt} {op : VecOp} (hlf : lf ≠ .int32) (hop : (floatLane op .nan .nan .nan).isSome = true)
    (s : State) (n a b c dst : Nat) : s.vectorArith n lf op a b c dst =
      (s.raise n ((floatResults s n lf op a b c).foldl (fun fl r => fl ||| r.flags) 0)).putVreg n dst
        (ofLanes (laneBits lf) ((floatResults s n lf op a b c).map (fun r => r.bits))) := by
  obtain ⟨x, hx⟩ := Option.isSome_iff_exists.mp hop
  cases lf with
  | int32 => exact absurd rfl hlf
  | fp32 => simp only [State.vectorArith, hx]; rfl
  | bf16 => simp only [State.vectorArith, hx]; rfl

/-- R52, R64: every lane of a result of the vector unit's arithmetic. -/
theorem State.vectorArith_nanCanonical {lf : LaneFmt} {op : VecOp} (hlf : lf ≠ .int32) (hop : (floatLane op .nan .nan .nan).isSome = true)
    (s : State) (n a b c dst : Nat) {i : Nat} (hi : i < lanesOf lf) :
    nanCanonical (floatOf lf) (bitsAt ((s.vectorArith n lf op a b c dst).vreg n dst) (laneBits lf * i) (laneBits lf)) := by
  rw [State.vectorArith_float hlf hop, State.bitsAt_putVreg _ _ _ _ (lane_end_le hi), laneBits_eq]
  refine nanCanonical_lane (floatOf_mem_nanFormats lf) ?_ (by simpa [floatResults] using hi)
  simp only [floatResults, List.map_map, List.forall_mem_map]
  exact fun j _ => laneArith_nanCanonical lf op _ _ _

/-! ### Conversion (R59 to R61) -/

theorem converted_fit (ws wd : Nat) : wd * (2048 / max ws wd) ≤ 2048 :=
  (Nat.mul_le_mul_right _ (Nat.le_max_right ws wd)).trans (Nat.mul_div_le 2048 _)

/-- The encodings that a conversion packs from the destination's low end. -/
def convertedBits (s : State) (n : Nat) (src dst : NumFmt) (a : Nat) : List Nat :=
  (convertAll dst (rmodeOf (s.coreAt n).rmode) ((s.coreAt n).satEn == 1) (s.coreAt n).lfsr
    ((lanes (8 * NumFmt_bytes src) (2048 / max (8 * NumFmt_bytes src) (8 * NumFmt_bytes dst)) (s.vreg n a)).map (decodeNum src))).1

theorem State.bitsAt_vectorConvert {src dst : NumFmt} (hsrc : src ≠ .fp4) (hdst : dst ≠ .fp4) (s : State) (n a d : Nat) {lo m : Nat}
    (h : lo + m ≤ 8 * NumFmt_bytes dst * (2048 / max (8 * NumFmt_bytes src) (8 * NumFmt_bytes dst))) :
    bitsAt ((s.vectorConvert n src dst a d).vreg n d) lo m =
      bitsAt (ofLanes (8 * NumFmt_bytes dst) (convertedBits s n src dst a)) lo m := by
  have hfit := converted_fit (8 * NumFmt_bytes src) (8 * NumFmt_bytes dst)
  unfold State.vectorConvert
  rw [if_neg (not_or.mpr ⟨hsrc, hdst⟩)]
  dsimp only
  split
  · exact State.bitsAt_putVreg _ _ _ _ (h.trans hfit)
  · exact State.bitsAt_putLow _ _ _ _ _ hfit h

/-- R52, R59 to R61: every element of a converted register. -/
theorem State.vectorConvert_nanCanonical {src f : NumFmt} (hf : f ∈ nanFormats) (hsrc : src ≠ .fp4) (s : State) (n a d : Nat) {i : Nat}
    (hi : i < 2048 / max (8 * NumFmt_bytes src) (8 * NumFmt_bytes f)) :
    nanCanonical f (bitsAt ((s.vectorConvert n src f a d).vreg n d) (8 * NumFmt_bytes f * i) (8 * NumFmt_bytes f)) := by
  have hdst : f ≠ .fp4 := by rintro rfl; simp [nanFormats] at hf
  have hend : 8 * NumFmt_bytes f * i + 8 * NumFmt_bytes f ≤
      8 * NumFmt_bytes f * (2048 / max (8 * NumFmt_bytes src) (8 * NumFmt_bytes f)) := Nat.mul_le_mul_left (8 * NumFmt_bytes f) hi
  rw [State.bitsAt_vectorConvert hsrc hdst s n a d hend]
  exact nanCanonical_lane hf (convertAll_nanCanonical hf _ _ _ _) (by simpa [convertedBits] using hi)

/-! ### Reductions (R65) -/

section
variable {P : Rounded → Prop} {g : Rounded → Rounded → Rounded}

theorem pairUp_forall (hg : ∀ a b, P (g a b)) : ∀ {l : List Rounded}, (∀ r ∈ l, P r) → ∀ r ∈ pairUp g l, P r
  | [], _ => by simp [pairUp]
  | [_], h => h
  | _ :: _ :: _, h => List.forall_mem_cons.mpr ⟨hg _ _, pairUp_forall hg (List.forall_mem_cons.mp (List.forall_mem_cons.mp h).2).2⟩

/-- An even number of values leaves none that is not a result. -/
theorem pairUp_forall_of_even (hg : ∀ a b, P (g a b)) : ∀ {l : List Rounded}, l.length % 2 = 0 → ∀ r ∈ pairUp g l, P r
  | [], _ => by simp [pairUp]
  | [_], h => by simp at h
  | _ :: _ :: _, h => List.forall_mem_cons.mpr ⟨hg _ _, pairUp_forall_of_even hg (by simp only [List.length_cons] at h; omega)⟩

theorem treeLevels_forall (hg : ∀ a b, P (g a b)) (n : Nat) {l : List Rounded} (h : ∀ r ∈ l, P r) : ∀ r ∈ treeLevels g n l, P r := by
  induction n generalizing l with
  | zero => exact h
  | succ n ih => exact ih (pairUp_forall hg h)

/-- What every result of a step has, the root of a tree over an even number of values has. -/
theorem treeLevels_root (hg : ∀ a b, P (g a b)) (h0 : P ⟨0, 0⟩) {n : Nat} (hn : n ≠ 0) {l : List Rounded} (h : l.length % 2 = 0) :
    P ((treeLevels g n l).getD 0 ⟨0, 0⟩) := by
  obtain ⟨n, rfl⟩ := Nat.exists_eq_succ_of_ne_zero hn
  have hall := treeLevels_forall hg n (pairUp_forall_of_even hg h)
  rw [← treeLevels] at hall
  cases htree : treeLevels g (n + 1) l with
  | nil => exact h0
  | cons r rs => exact hall r (by simp [htree])

end

theorem reduceLanes_nanCanonical {lf : LaneFmt} (hlf : lf ≠ .int32) (op : ReduceOp) (v : Nat) :
    nanCanonical (floatOf lf) (reduceLanes lf op v).bits := by
  cases lf with
  | int32 => exact absurd rfl hlf
  | bf16 =>
    unfold reduceLanes
    exact roundArith_nanCanonical bf16_mem_nanFormats _
  | fp32 =>
    have hstep (a b : Rounded) : nanCanonical .fp32 (reduceStep op a b).bits := roundArith_nanCanonical fp32_mem_nanFormats _
    exact treeLevels_root (P := fun r => nanCanonical .fp32 r.bits) hstep (nanCanonical_zero fp32_mem_nanFormats) (by decide) (by simp)

/-- R52, R65: lane 0 of a reduction's destination. -/
theorem State.vectorReduce_nanCanonical {lf : LaneFmt} (hlf : lf ≠ .int32) (op : ReduceOp) (s : State) (n a dst : Nat) :
    nanCanonical (floatOf lf) (bitsAt ((s.vectorReduce n lf op a dst).vreg n dst) 0 (laneBits lf)) := by
  rw [State.vectorReduce, State.bitsAt_putLow _ _ _ _ _ (by cases lf <;> decide) (by simp), bitsAt, Nat.pow_zero, Nat.div_one, laneBits_eq]
  exact nanCanonical_mod (floatOf_mem_nanFormats lf) (reduceLanes_nanCanonical hlf op _)

/-! ### Special functions (R66 to R68) -/

/-- The place of the largest finite value in the order of encodings bounds every magnitude that is not above it. -/
theorem truncated_code_le {m : Nat} {e : Int} (h : ¬ exceeds .fp32 (roundSig .fp32 .towardZero 0 m e).1 (roundSig .fp32 .towardZero 0 m e).2 = true) :
    encodeSig .fp32 false (roundSig .fp32 .towardZero 0 m e).1 (roundSig .fp32 .towardZero 0 m e).2 ≤ 0x7F7FFFFF :=
  significandCode_le_of_not_exceeds (minExponent_le_roundSig ..) (Bool.eq_false_of_not_eq_true h)

theorem floorOrder_bounds (x : Exact) : -1 - 0x7F800000 ≤ floorOrder x ∧ floorOrder x ≤ 0x7F7FFFFF := by
  cases x with
  | nan => simp [floorOrder]
  | inf neg => simp [floorOrder]
  | fin neg m e =>
    have hcode := truncated_code_le (m := m) (e := e)
    cases neg <;> simp only [floorOrder]
    · split_ifs with hzero hover
      · omega
      · omega
      · have := hcode hover
        omega
    · split_ifs with hzero hover
      · omega
      · omega
      · have := hcode hover
        omega
      · have := hcode hover
        omega

theorem ofOrder_nanCanonical {i : Int} (hlo : -1 - 0x7F800000 ≤ i) (hhi : i ≤ 0x7F800000) : nanCanonical .fp32 (ofOrder i) := by
  have hlast : lastNumber .fp32 = 0x7F800000 := by decide
  unfold ofOrder
  split
  · exact nanCanonical_of_le fp32_mem_nanFormats (by omega)
  · exact nanCanonical_signed fp32_mem_nanFormats (c := (-1 - i).toNat) (by omega) true

/-- R66, R67: beyond the range an infinity, else a place in the order of encodings between the ends of the bound. -/
theorem sfuFinite_cases (fn : SfuFn) (bits : Nat) (neg : Bool) (m : Nat) (e : Int) :
    (∃ sign, (sfuFinite fn bits neg m e).bits = infBits .fp32 sign) ∨
      ∃ x z, (sfuFinite fn bits neg m e).bits =
        ofOrder (ceilOrder x + (Config.sfu (sfuCode fn) bits % ((floorOrder z - ceilOrder x).toNat + 1) : Nat)) := by
  unfold sfuFinite
  extract_lets y mag b lo hi
  by_cases hrange : numLt (f32 0x7F7FFFFF) mag = true
  · rw [if_pos hrange]
    exact .inl ⟨numNegative y, rfl⟩
  · rw [if_neg hrange]
    exact .inr ⟨numAdd y (numNeg b), numAdd y b, rfl⟩

theorem sfuFinite_nanCanonical (fn : SfuFn) (bits : Nat) (neg : Bool) (m : Nat) (e : Int) :
    nanCanonical .fp32 (sfuFinite fn bits neg m e).bits := by
  rcases sfuFinite_cases fn bits neg m e with ⟨sign, hinf⟩ | ⟨x, z, hplace⟩
  · rw [hinf]
    exact infBits_nanCanonical fp32_mem_nanFormats sign
  · have hceil : ceilOrder x = -1 - floorOrder (numNeg x) := rfl
    have hneg := floorOrder_bounds (numNeg x)
    have hfloor := floorOrder_bounds z
    have hchoice : Config.sfu (sfuCode fn) bits % ((floorOrder z - ceilOrder x).toNat + 1) ≤ (floorOrder z - ceilOrder x).toNat :=
      Nat.le_of_lt_succ (Nat.mod_lt _ (Nat.succ_pos _))
    rw [hplace]
    generalize Config.sfu (sfuCode fn) bits % ((floorOrder z - ceilOrder x).toNat + 1) = choice at hchoice ⊢
    exact ofOrder_nanCanonical (by omega) (by omega)

/-- R52, R66, R67: the results at infinities and zeros are constants. -/
theorem sfuResult_nanCanonical (fn : SfuFn) (bits : Nat) : nanCanonical .fp32 (sfuResult fn bits).bits := by
  unfold sfuResult
  cases decodeNum .fp32 bits with
  | nan => exact nanCanonical_canonicalNan .fp32
  | inf neg =>
    dsimp only
    unfold nanCanonical
    cases fn <;> revert neg <;> decide
  | fin neg m e =>
    dsimp only
    split
    · unfold nanCanonical
      cases fn <;> revert neg <;> decide
    · have hfinite := sfuFinite_nanCanonical fn bits neg m e
      have hinvalid : nanCanonical .fp32 sfuNan.bits := nanCanonical_canonicalNan .fp32
      split
      · split <;> assumption
      · split <;> assumption
      · split <;> assumption
      · exact hfinite

/-- The result of the special-function unit for one lane. -/
def sfuLane (fn : SfuFn) (bf : Bool) (x : Nat) : Rounded :=
  if bf then
    let r := sfuResult fn (x * 2 ^ 16)
    let o := roundArith .bf16 (decodeNum .fp32 r.bits)
    ⟨o.bits, r.flags ||| o.flags⟩
  else sfuResult fn x

theorem sfuLane_nanCanonical (fn : SfuFn) (bf : Bool) (x : Nat) : nanCanonical (if bf then .bf16 else .fp32) (sfuLane fn bf x).bits := by
  cases bf with
  | true => exact roundArith_nanCanonical bf16_mem_nanFormats _
  | false => exact sfuResult_nanCanonical fn x

/-- R52, R68: the results that an operation of the special-function unit puts on their way. -/
theorem State.sfuOp_nanCanonical (s : State) (n : Nat) (fn : SfuFn) (bf : Bool) (a g dst : Nat) :
    ∃ b, ((s.sfuOp n fn bf a g dst).coreAt n).sfu = (s.coreAt n).sfu ++ [b] ∧
      ∀ r ∈ b.results, nanCanonical (if bf then .bf16 else .fp32) r := by
  let xs := ((lanes (laneBits (if bf then .bf16 else .fp32)) (lanesOf (if bf then .bf16 else .fp32)) (s.vreg n a)).drop (16 * g)).take 16
  refine ⟨⟨dst, 16 * g, bf, (xs.map (sfuLane fn bf)).map (fun r => r.bits), (xs.map (sfuLane fn bf)).foldl (fun f r => f ||| r.flags) 0⟩, ?_, ?_⟩
  · exact congrArg CoreState.sfu (State.coreAt_updCore_same ..)
  · simp only [List.map_map, List.forall_mem_map]
    exact fun x _ => sfuLane_nanCanonical fn bf x

end Sys2Proof.Machine
end

section
/-! PROOFS. The array, what lands in its accumulators, and the output stage yield no NaN but the canonical one (R52, R53 to R61). -/
namespace Sys2Proof.Machine

/-! ### The array (R53 to R57) -/

/-- R52, R55: the sum of a column is rounded to FP32 once. -/
theorem passSum_nanCanonical {act : NumFmt} (hact : isIntFmt act = false) (w : NumFmt) (row col rowScales colScales : List Exact) :
    nanCanonical .fp32 (passSum act w row col rowScales colScales).1.toNat := by
  unfold passSum
  rw [if_neg (by simp [hact])]
  exact roundArith_nanCanonical fp32_mem_nanFormats _

/-- The row's sums are on their way once its operands are read. -/
theorem State.arrayRow_nanCanonical {s : State} {n : Nat} {op : ArrayOp} {k cols : Nat} (hact : isIntFmt op.actFmt = false)
    (hshape : arrayShape op.actFmt op.wFmt = some (k, cols))
    (hacts : s.storeReadable n op.acts (if op.actFmt = .fp4 then 32 else k * NumFmt_bytes op.actFmt) = true)
    (hscales : s.storeReadable n op.actScales (if op.actFmt = .fp4 then 2 else 0) = true) :
    ∃ l, ((s.arrayRow n op).coreAt n).landing = (s.coreAt n).landing ++ [l] ∧ ∀ x ∈ l.sums, nanCanonical .fp32 x.1.toNat := by
  unfold State.arrayRow
  simp only [hshape]
  rw [State.useStore_clean _ _ _ _ _ hacts, State.useStore_clean _ _ _ _ _ hscales, State.coreAt_updCore_same]
  refine ⟨_, rfl, ?_⟩
  simp only [List.forall_mem_map]
  exact fun c _ => passSum_nanCanonical hact _ _ _ _ _

/-- R52, R54, R55: a column that lands is a sum as it came, or one that is rounded again. -/
theorem landColumn_nanCanonical (add : Bool) (old : Nat) {x : Int × Nat} (hx : nanCanonical .fp32 x.1.toNat) :
    nanCanonical .fp32 (landColumn add false old x).1 := by
  cases add with
  | false => exact hx
  | true => exact roundArith_nanCanonical fp32_mem_nanFormats _

/-! ### The output stage (R58 to R61) -/

/-- An operand of the output stage that may be absent. -/
theorem State.storeReadable_option {s : State} {n len : Nat} {o : Option Nat} (h : ∀ a, o = some a → s.storeReadable n a len = true) :
    s.storeReadable n (o.getD 0) (if o.isSome then len else 0) = true := by
  cases o with
  | none => rfl
  | some a => exact h a rfl

theorem packElements_length {f : NumFmt} (hf : f ∈ nanFormats) (l : List Nat) : (packElements f l).length = l.length * NumFmt_bytes f := by
  have hpack : packElements f l = l.flatMap (leBytes (NumFmt_bytes f)) := by
    rcases mem_nanFormats.mp hf with rfl | rfl | rfl | rfl | rfl <;> rfl
  rw [hpack, List.length_flatMap]
  simp

/-- R52, R59 to R61: the elements that the output stage stores are those of one conversion. -/
theorem State.outputStage_nanCanonical {s : State} {n : Nat} {op : OutputOp} (hf : op.fmt ∈ nanFormats)
    (hacc : s.storeReadable n op.acc (4 * op.cols) = true)
    (hscale : ∀ a, op.scale = some a → s.storeReadable n a (4 * op.cols) = true)
    (hbias : ∀ a, op.bias = some a → s.storeReadable n a (4 * op.cols) = true)
    (hdst : s.storeWritable n op.dst (op.cols * NumFmt_bytes op.fmt) = true) :
    ∃ bits fl lfsr, (∀ b ∈ bits, nanCanonical op.fmt b) ∧ s.outputStage n op =
      (s.updCore n (fun c => { c with lfsr := lfsr, flags := c.flags ||| fl })).storePut n op.dst (packElements op.fmt bits) := by
  have hfloat : op.fmt ≠ .fp4 ∧ op.fmt ≠ .int32 := by
    constructor <;> intro h <;> simp [nanFormats, h] at hf
  unfold State.outputStage
  split
  · exact absurd ‹_› hfloat.1
  · exact absurd ‹_› hfloat.2
  · dsimp only
    rw [State.useStore_clean _ _ _ _ _ hacc, State.useStore_clean _ _ _ _ _ (State.storeReadable_option hscale),
      State.useStore_clean _ _ _ _ _ (State.storeReadable_option hbias), State.putStore_clean]
    · simp only [Nat.or_assoc]
      exact ⟨_, _, _, convertAll_nanCanonical hf _ _ _ _, rfl⟩
    · simpa [packElements_length hf] using hdst

/-! ### Every operation -/

/-- What a command of a body that runs leads to. -/
theorem eq_of_onBody {n : Nat} {f : State → State} {s t : State} (h : s.bodyRuns n = true) (hexec : onBody n f s = .next t) : t = f s := by
  rw [onBody_runs n f s h] at hexec
  exact (Host.Outcome.next.inj hexec).symm

/-- Settles O50, operation by operation. -/
theorem nansAreCanonical : Obligations.NansAreCanonical := by
  intro f hf
  refine ⟨?_, convertNum_nanCanonical hf, roundArith_nanCanonical hf, fun s t core => ⟨?_, ?_, ?_, ?_, ?_, ?_, ?_⟩⟩
  · rcases mem_nanFormats.mp hf with rfl | rfl | rfl | rfl | rfl <;> rfl
  · -- The vector unit's arithmetic.
    rintro lf op a b c dst rfl hlf hop hbody hexec i hi
    rw [eq_of_onBody hbody hexec]
    exact State.vectorArith_nanCanonical hlf hop s core a b c dst hi
  · -- Its conversions.
    intro src a d hsrc hbody hexec i hi
    rw [eq_of_onBody hbody hexec]
    exact State.vectorConvert_nanCanonical hf hsrc s core a d hi
  · -- Its reductions.
    rintro lf op a dst rfl hlf hbody hexec
    rw [eq_of_onBody hbody hexec]
    exact State.vectorReduce_nanCanonical hlf op s core a dst
  · -- The special functions.
    rintro fn bf a g dst rfl hbody hexec
    rw [eq_of_onBody hbody hexec]
    exact State.sfuOp_nanCanonical s core fn bf a g dst
  · -- The sums of the array.
    intro w op _ hbody hact hshape u hacts hscales hexec
    obtain ⟨⟨k, cols⟩, hshape⟩ := Option.isSome_iff_exists.mp hshape
    rw [eq_of_onBody (f := fun s => (s.waited core w).arrayRow core op) hbody hexec]
    exact State.arrayRow_nanCanonical hact hshape (hacts cols k hshape) hscales
  · exact fun add old x _ hx => landColumn_nanCanonical add old hx
  · -- The output stage.
    rintro w op u rfl hbody hacc hscale hbias hdst
    obtain ⟨bits, fl, lfsr, hbits, hstage⟩ := State.outputStage_nanCanonical hf hacc hscale hbias hdst
    refine ⟨bits, fl, lfsr, hbits, ?_⟩
    rw [← hstage]
    exact onBody_runs core (fun s => (s.waited core w).outputStage core op) s hbody

end Sys2Proof.Machine
end

section
/-! PROOFS. What a register write does for RL fields of a block that runs (R407), and what the module answers to a host before it is
ready (R378). -/
namespace Sys2Proof.Machine

/-! ### A write of a register whose block runs -/

/-- What a register write computes from the register's word and what is held of its RS fields. -/
def State.writeOutcome (s : State) (running : Bool) (off v : Nat) (fs : List FieldSpec) : WriteResult :=
  let held := mapGetD (0, 0) off s.heldRS
  fs.foldl (writeField s.fuses running v) ⟨s.rdN off, held.1, held.2, false, 0⟩

/-- The state that takes the word and the held fields of a write, before any report. -/
def State.storeOutcome (off : Nat) (res : WriteResult) (s : State) : State :=
  let stored := s.wrN off res.word
  if res.mask = 0 then stored else { stored with heldRS := mapSet off (res.mask, res.held) stored.heldRS }

theorem State.writeReg_of_regAt {s : State} {off : Nat} {r : RegSpec} {i j : Nat} (h : regAt s.fuses off = some (r, i, j)) (running : Bool)
    (v : Nat) :
    let res := s.writeOutcome running off v r.fields
    s.writeReg running off v =
      if res.rejected then (s.storeOutcome off res).post (stWriteWhileRunning (off / 0x100000)) else s.storeOutcome off res := by
  rw [State.writeReg, h]
  rfl

theorem fieldAfter_rl_running {f : FieldSpec} (h : f.access = .rl) (v w nv : Nat) : fieldAfter true v w nv f = fieldOf f w := by
  simp [fieldAfter, h]

/-- R407: a write that finds the block running leaves each RL field of the word. -/
theorem State.writeOutcome_rl {fs : List FieldSpec} (hfs : DisjointFields fs) (s : State) (off v : Nat) {f : FieldSpec} (hf : f ∈ fs)
    (hrl : f.access = .rl) : fieldOf f (s.writeOutcome true off v fs).word = fieldOf f (s.rdN off) := by
  obtain ⟨_, hw⟩ := writeFields_written s.fuses true v hfs _ hf
  exact hw.word.trans (fieldAfter_rl_running hrl ..)

/-- R407: a write that finds the block running is rejected for the RL fields that it would change. -/
theorem State.writeOutcome_rejected_iff {fs : List FieldSpec} (hfs : DisjointFields fs) (s : State) (off v : Nat) :
    let res := s.writeOutcome true off v fs
    res.rejected = true ↔ ∃ f ∈ fs, f.access = .rl ∧ fieldOf f res.stored ≠ fieldOf f (s.rdN off) := by
  simpa [State.writeOutcome] using writeFields_rejected_iff s.fuses true v hfs ⟨s.rdN off, _, _, false, 0⟩

/-- Settles O45: the report is the whole difference between the two ends of a write (`State.writeReg_of_regAt`), and which of them it comes
to, and what it leaves of RL fields, follows from the write of disjoint fields. -/
theorem rejectedWriteIsReported : Obligations.RejectedWriteIsReported := by
  intro s off v r i j hreg held res stored t
  have hwrite : s.writeReg true off v = if res.rejected then t.post (stWriteWhileRunning (off / 0x100000)) else t :=
    State.writeReg_of_regAt hreg true v
  refine ⟨fun hrej => ?_, fun hrej => ?_, fun hrange hapart => ?_⟩
  · rw [hwrite, if_pos hrej, stWriteWhileRunning]
  · rw [hwrite, hrej, if_neg Bool.false_ne_true]
  · have hfs : DisjointFields r.fields := ⟨fun f hf => (hrange f hf).1, hapart⟩
    exact ⟨State.writeOutcome_rejected_iff hfs s off v, fun f hf hrl => State.writeOutcome_rl hfs s off v hf hrl⟩

/-! ### Registers of blocks that are not open -/

theorem State.fnAnswers_pf0 (s : State) : s.fnAnswers 0 = true := rfl

/-- R378: the VFs' BARs do not answer before the module is ready. -/
theorem State.fnAnswers_of_unready {s : State} (h : s.ready = false) {fn : Nat} (hfn : fn ≠ 0) : s.fnAnswers fn = false := by
  simp [State.fnAnswers, h, hfn]

theorem State.blockOpen_congr (s : State) {off off' : Nat} (h : off / 0x100000 = off' / 0x100000) : s.blockOpen off = s.blockOpen off' := by
  rw [State.blockOpen, State.blockOpen, h]

/-- PF0's MSI-X table and PBA lie in the PCI block, which is open in every state. -/
theorem State.outside_pci_of_closed {s : State} {off : Nat} (h : s.blockOpen off = false) : off < 0xA00000 ∨ 0xB00000 ≤ off := by
  have hblock : off / 0x100000 ≠ 0xA := by
    intro hpci
    simp [State.blockOpen, hpci] at h
  omega

theorem State.msixAt_of_closed {s : State} {off : Nat} (h : s.blockOpen off = false) : msixAt 0 off = none := by
  have hpci := State.outside_pci_of_closed h
  simp only [msixAt, if_true]
  rw [if_neg (by omega)]

theorem State.barOffset_pf0 (s : State) (off : Nat) : s.barOffset 0 off = if off < 0x1000000 then some off else none := rfl

/-- R378: a block that is not open reads 0. -/
theorem State.readBar_of_closed {s : State} {off : Nat} (h : s.blockOpen off = false) : s.readBar 0 off = 0 := by
  have hpba : ¬ (0xA81000 ≤ off ∧ off < 0xA81000 + 32) := by
    have hpci := State.outside_pci_of_closed h
    omega
  simp only [State.readBar, State.fnAnswers_pf0, State.msixAt_of_closed h, State.barOffset_pf0, Bool.not_true, Bool.false_eq_true,
    if_false, if_true, if_neg hpba]
  by_cases hbar : off < 0x1000000
  · simp [hbar, h]
  · simp [hbar]

/-- R378: a block that is not open ignores writes. -/
theorem State.writeBar_of_closed {s : State} {off : Nat} (h : s.blockOpen off = false) (v : Nat) : s.writeBar 0 off v = s := by
  simp only [State.writeBar, State.fnAnswers_pf0, State.msixAt_of_closed h, State.barOffset_pf0, Bool.not_true, Bool.false_eq_true, if_false]
  by_cases hbar : off < 0x1000000
  · simp [hbar, h]
  · simp [hbar]

theorem State.readBar_of_unanswered {s : State} {fn : Nat} (h : s.fnAnswers fn = false) (off : Nat) : s.readBar fn off = 0 := by
  simp [State.readBar, h]

theorem State.writeBar_of_unanswered {s : State} {fn : Nat} (h : s.fnAnswers fn = false) (off v : Nat) : s.writeBar fn off v = s := by
  simp [State.writeBar, h]

/-- R36: an aligned access of 32 bits that has no effect on the register leaves the state. -/
theorem exec_registerWrite_word {s : State} {fn off value : Nat} (halign : off % 4 = 0) (h : ∀ v, s.writeBar fn off v = s) :
    exec (.registerWrite fn off 4 value) s = .next s := by
  simp [exec, execRegisterWrite, halign, h]

/-- R36: an aligned access of 64 bits that has no effect on either register leaves the state. -/
theorem exec_registerWrite_pair {s : State} {fn off value : Nat} (halign : off % 8 = 0) (hlow : ∀ v, s.writeBar fn off v = s)
    (hhigh : ∀ v, s.writeBar fn (off + 4) v = s) : exec (.registerWrite fn off 8 value) s = .next s := by
  simp [exec, execRegisterWrite, halign, hlow, hhigh]

/-! ### BAR4 and doorbells before the module is ready -/

@[simp] theorem State.upset_nil (s : State) : s.upset [] = s := rfl

theorem exec_bar4Read_of_unready {s : State} (hready : s.ready = false) (hup : s.pcieUp = true) (fn off n : Nat) :
    exec (.bar4Read fn off n []) s = .next (s.sendUr fn) := by
  simp [exec, execBar4Read, hready, hup]

theorem exec_bar4Write_of_unready {s : State} (hready : s.ready = false) (hup : s.pcieUp = true) (fn off : Nat) (bytes : List Nat) :
    exec (.bar4Write fn off bytes []) s = .next (s.aerError.sendUr fn) := by
  simp [exec, execBar4Write, hready, hup]

theorem State.pointerReaches_of_unready {s : State} (h : s.ready = false) (page : Nat) (r : RingRef) (d : DoorbellWrite) :
    s.pointerReaches page r d = false := by
  simp [State.pointerReaches, State.hostReaches, h]

theorem State.ringWriteBy_of_unready {s : State} (h : s.ready = false) (page : Nat) (r : RingRef) (d : DoorbellWrite) (off log2 bad : Nat) :
    s.ringWriteBy page r d off log2 bad = s := by
  simp [State.ringWriteBy, State.pointerReaches_of_unready h]

/-- R378: before the module is ready no tail or head of a ring can be written. -/
theorem State.pointerWrite_of_unready {s : State} (h : s.ready = false) (page : Nat) (r : RingRef) (d : DoorbellWrite) :
    s.pointerWrite page r d = s := by
  have hreach := State.pointerReaches_of_unready h
  have hring := State.ringWriteBy_of_unready h
  cases r with
  | sq p q => exact hring ..
  | rq p q => exact hring ..
  | msq m => exact hring ..
  | eq die => exact hring ..
  | rkq p => exact hring ..
  | tln => exact hring ..
  | cq p q => simp [State.pointerWrite, State.cqHead, hreach]
  | scq p q => simp [State.pointerWrite, State.scqHead, hreach]
  | mcq m => simp [State.pointerWrite, State.mcqHead, hreach]

/-- Settles O47. The registers of a 64-bit access lie in one block, so both of its halves are ignored; each doorbell is a write of its ring's
pointer. -/
theorem nothingAnswersBeforeReady : Obligations.NothingAnswersBeforeReady := by
  intro s hready
  refine ⟨fun off hclosed => ⟨State.readBar_of_closed hclosed, fun value halign => ?_, fun value halign => ?_⟩,
    fun fn off n hup => exec_bar4Read_of_unready hready hup fn off n,
    fun fn off bytes hup => exec_bar4Write_of_unready hready hup fn off bytes,
    fun fn off hfn => State.readBar_of_unanswered (State.fnAnswers_of_unready hready hfn) off,
    fun fn off value hfn halign => ?_, fun d p q _ => ?_⟩
  · exact exec_registerWrite_word halign (State.writeBar_of_closed hclosed)
  · have hhigh : s.blockOpen (off + 4) = false := by
      rw [s.blockOpen_congr (show (off + 4) / 0x100000 = off / 0x100000 by omega), hclosed]
    exact exec_registerWrite_pair halign (State.writeBar_of_closed hclosed) (State.writeBar_of_closed hhigh)
  · exact exec_registerWrite_word halign (State.writeBar_of_unanswered (State.fnAnswers_of_unready hready hfn) off)
  · have hnext (page : Nat) (r : RingRef) : (Host.Outcome.next (s.pointerWrite page r d) : Out) = .next s :=
      congrArg _ (State.pointerWrite_of_unready hready page r d)
    exact ⟨hnext p (.sq p q), hnext p (.cq p q), hnext p (.rq p q), hnext p (.scq p q), hnext 0 .tln, hnext p (.eq q), hnext p (.rkq p),
      hnext p (.msq q), hnext p (.mcq q)⟩

end Sys2Proof.Machine
end

section
/-! PROOFS. Feeding a check-value context (R415, R416): what its registers hold afterwards, and how a saved computation resumes. -/
namespace Sys2Proof.Machine

/-! ### A 64-bit value in two registers (R8) -/

theorem State.rdN_wrN_same (off v : Nat) (s : State) : (s.wrN off v).rdN off = v % 2 ^ 32 := by
  simp [State.rdN]

theorem State.rdN_wrN_other {off j : Nat} (h : j ≠ off) (v : Nat) (s : State) : (s.wrN off v).rdN j = s.rdN j := by
  simp [State.rdN, State.rd_wrN_other h]

theorem State.rd64_wr64_same (off v : Nat) (s : State) : (s.wr64 off v).rd64 off = v % 2 ^ 64 := by
  have hlow : (s.wr64 off v).rdN off = v % 2 ^ 32 := by
    rw [State.wr64, State.rdN_wrN_other (by omega), State.rdN_wrN_same, Nat.mod_mod]
  have hhigh : (s.wr64 off v).rdN (off + 4) = v / 2 ^ 32 % 2 ^ 32 := by
    rw [State.wr64, State.rdN_wrN_same, Nat.mod_mod]
  rw [State.rd64, hlow, hhigh]
  omega

theorem State.rd64_wr64_other {off j : Nat} (h : j + 8 ≤ off ∨ off + 8 ≤ j) (v : Nat) (s : State) : (s.wr64 off v).rd64 j = s.rd64 j := by
  have hword {k : Nat} (hlow : k ≠ off) (hhigh : k ≠ off + 4) : (s.wr64 off v).rdN k = s.rdN k := by
    rw [State.wr64, State.rdN_wrN_other hhigh, State.rdN_wrN_other hlow]
  rw [State.rd64, State.rd64, hword (by omega) (by omega), hword (by omega) (by omega)]

/-! ### The running value keeps to the algorithm's width -/

/-- What a feed needs of an algorithm: its register takes a byte, fits two 32-bit registers, and holds the polynomial. -/
structure CrcAlg.Fits (a : CrcAlg) : Prop where
  byte : 8 ≤ a.width
  pair : a.width ≤ 64
  poly : a.poly < 2 ^ a.width

theorem crcAlg_fits (n : Nat) : (crcAlg n).Fits := by
  unfold crcAlg
  split <;> exact ⟨by decide, by decide, by decide⟩

theorem crcStepReflected_lt {w poly : Nat} (hpoly : poly < 2 ^ w) (n : Nat) {r : Nat} (hr : r < 2 ^ w) :
    crcStepReflected poly n r < 2 ^ w := by
  induction n generalizing r with
  | zero => exact hr
  | succ n ih =>
    have hhalf : r / 2 < 2 ^ w := (Nat.div_le_self r 2).trans_lt hr
    rw [crcStepReflected]
    split
    · exact ih (Nat.xor_lt_two_pow hhalf hpoly)
    · exact ih hhalf

theorem crcStepPlain_lt {w poly : Nat} (hpoly : poly < 2 ^ w) (n : Nat) {r : Nat} (hr : r < 2 ^ w) : crcStepPlain w poly n r < 2 ^ w := by
  induction n generalizing r with
  | zero => exact hr
  | succ n ih =>
    have hdouble : r * 2 % 2 ^ w < 2 ^ w := Nat.mod_lt _ (Nat.two_pow_pos w)
    rw [crcStepPlain]
    split
    · exact ih (Nat.xor_lt_two_pow hdouble hpoly)
    · exact ih hdouble

theorem crcByte_lt {alg : CrcAlg} (h : alg.Fits) {r : Nat} (hr : r < 2 ^ alg.width) (b : Byte) : crcByte alg r b < 2 ^ alg.width := by
  have hpow : 2 ^ 8 * 2 ^ (alg.width - 8) = 2 ^ alg.width := by
    rw [← pow_add, Nat.add_sub_cancel' h.byte]
  rw [crcByte]
  split
  · have hbyte : b.toNat < 2 ^ alg.width := b.isLt.trans_le (Nat.pow_le_pow_right two_pos h.byte)
    exact crcStepReflected_lt h.poly 8 (Nat.xor_lt_two_pow hr hbyte)
  · have hbyte : b.toNat * 2 ^ (alg.width - 8) < 2 ^ alg.width := by
      rw [← hpow]
      exact Nat.mul_lt_mul_of_pos_right b.isLt (Nat.two_pow_pos _)
    exact crcStepPlain_lt h.poly 8 (Nat.xor_lt_two_pow hr hbyte)

theorem crcFeed_lt {alg : CrcAlg} (h : alg.Fits) (l : List Byte) {r : Nat} (hr : r < 2 ^ alg.width) : crcFeed alg r l < 2 ^ alg.width := by
  induction l generalizing r with
  | nil => exact hr
  | cons b l ih => exact ih (crcByte_lt h hr b)

theorem crcFeed_append (alg : CrcAlg) (r : Nat) (a b : List Byte) : crcFeed alg r (a ++ b) = crcFeed alg (crcFeed alg r a) b :=
  List.foldl_append

theorem CrcAlg.Fits.lt_pair {alg : CrcAlg} (h : alg.Fits) {r : Nat} (hr : r < 2 ^ alg.width) : r < 2 ^ 64 :=
  hr.trans_le (Nat.pow_le_pow_right two_pos h.pair)

/-! ### The registers of a context after a feed (R416) -/

/-- The algorithm that a context's CTRL selects (R414). -/
def State.contextAlg (s : State) (u x : Nat) : CrcAlg := crcAlg (s.rdF (Reg.CV_CTRL u x) Fld.CV_CTRL_ALG)

/-- The running value that a feed of a context starts from: RUNNING, cut to the algorithm's width. -/
def State.contextRunning (s : State) (u x : Nat) : Nat := s.rd64 (Reg.CV_RUNNING_LO u x) % 2 ^ (s.contextAlg u x).width

theorem State.contextAlg_fits (s : State) (u x : Nat) : (s.contextAlg u x).Fits := crcAlg_fits _

theorem State.contextRunning_lt (s : State) (u x : Nat) : s.contextRunning u x < 2 ^ (s.contextAlg u x).width :=
  Nat.mod_lt _ (Nat.two_pow_pos _)

theorem State.feedContext_eq (s : State) (u x : Nat) (l : List Byte) :
    s.feedContext u x l = ((s.wr64 (Reg.CV_RUNNING_LO u x) (crcFeed (s.contextAlg u x) (s.contextRunning u x) l)).wr64 (Reg.CV_BYTES_LO u x)
      (s.rd64 (Reg.CV_BYTES_LO u x) + l.length)).wr64 (Reg.CV_RESULT_LO u x)
      (crcResult (s.contextAlg u x) (crcFeed (s.contextAlg u x) (s.contextRunning u x) l)) := rfl

theorem State.running_feedContext (s : State) (u x : Nat) (l : List Byte) :
    (s.feedContext u x l).rd64 (Reg.CV_RUNNING_LO u x) = crcFeed (s.contextAlg u x) (s.contextRunning u x) l := by
  have hlt := crcFeed_lt (s.contextAlg_fits u x) l (s.contextRunning_lt u x)
  rw [State.feedContext_eq, State.rd64_wr64_other (by simp only [Reg.CV_RUNNING_LO, Reg.CV_RESULT_LO]; omega),
    State.rd64_wr64_other (by simp only [Reg.CV_RUNNING_LO, Reg.CV_BYTES_LO]; omega), State.rd64_wr64_same,
    Nat.mod_eq_of_lt ((s.contextAlg_fits u x).lt_pair hlt)]

theorem State.bytes_feedContext (s : State) (u x : Nat) (l : List Byte) :
    (s.feedContext u x l).rd64 (Reg.CV_BYTES_LO u x) = (s.rd64 (Reg.CV_BYTES_LO u x) + l.length) % 2 ^ 64 := by
  rw [State.feedContext_eq, State.rd64_wr64_other (by simp only [Reg.CV_BYTES_LO, Reg.CV_RESULT_LO]; omega), State.rd64_wr64_same]

/-- R416: RESULT is always that of the running value. -/
theorem State.result_feedContext (s : State) (u x : Nat) (l : List Byte) :
    (s.feedContext u x l).rd64 (Reg.CV_RESULT_LO u x) =
      crcResult (s.contextAlg u x) ((s.feedContext u x l).rd64 (Reg.CV_RUNNING_LO u x)) := by
  have hlt : ∀ r, crcResult (s.contextAlg u x) r < 2 ^ (s.contextAlg u x).width := fun r => Nat.mod_lt _ (Nat.two_pow_pos _)
  rw [State.running_feedContext, State.feedContext_eq, State.rd64_wr64_same, Nat.mod_eq_of_lt ((s.contextAlg_fits u x).lt_pair (hlt _))]

/-! ### A saved computation resumes (R416) -/

/-- A context that holds what another one held after a feed, under the same algorithm, goes on from that one's running value: the cut to the
algorithm's width that starts a feed leaves it. -/
theorem State.contextRunning_of_saved {s t : State} {u x u' x' : Nat} {a : List Byte} (halg : t.contextAlg u' x' = s.contextAlg u x)
    (hrunning : t.rd64 (Reg.CV_RUNNING_LO u' x') = (s.feedContext u x a).rd64 (Reg.CV_RUNNING_LO u x)) :
    t.contextRunning u' x' = crcFeed (s.contextAlg u x) (s.contextRunning u x) a := by
  rw [State.contextRunning, halg, hrunning, State.running_feedContext,
    Nat.mod_eq_of_lt (crcFeed_lt (s.contextAlg_fits u x) a (s.contextRunning_lt u x))]

theorem State.running_resumed {s t : State} {u x u' x' : Nat} {a : List Byte} (halg : t.contextAlg u' x' = s.contextAlg u x)
    (hrunning : t.rd64 (Reg.CV_RUNNING_LO u' x') = (s.feedContext u x a).rd64 (Reg.CV_RUNNING_LO u x)) (b : List Byte) :
    (t.feedContext u' x' b).rd64 (Reg.CV_RUNNING_LO u' x') = (s.feedContext u x (a ++ b)).rd64 (Reg.CV_RUNNING_LO u x) := by
  rw [State.running_feedContext, State.running_feedContext, halg, State.contextRunning_of_saved halg hrunning, crcFeed_append]

theorem State.bytes_resumed {s t : State} {u x u' x' : Nat} {a : List Byte}
    (hbytes : t.rd64 (Reg.CV_BYTES_LO u' x') = (s.feedContext u x a).rd64 (Reg.CV_BYTES_LO u x)) (b : List Byte) :
    (t.feedContext u' x' b).rd64 (Reg.CV_BYTES_LO u' x') = (s.feedContext u x (a ++ b)).rd64 (Reg.CV_BYTES_LO u x) := by
  rw [State.bytes_feedContext, State.bytes_feedContext, hbytes, State.bytes_feedContext, Nat.mod_add_mod, List.length_append, Nat.add_assoc]

/-- Settles O52: RESULT is a function of the algorithm and of RUNNING, and RUNNING is a fold over the payload whose value always fits the
algorithm's width, so that nothing of it is lost where it is saved. -/
theorem feedingResumes : Obligations.FeedingResumes := by
  intro s t u x u' x' a b _ _ _ _ alg whole saved hsame hrunning hbytes rest
  have halg : t.contextAlg u' x' = s.contextAlg u x := congrArg crcAlg hsame
  have hresumed : rest.rd64 (Reg.CV_RUNNING_LO u' x') = whole.rd64 (Reg.CV_RUNNING_LO u x) := State.running_resumed halg hrunning b
  refine ⟨s.result_feedContext u x (a ++ b), hresumed, State.bytes_resumed hbytes b, ?_⟩
  calc rest.rd64 (Reg.CV_RESULT_LO u' x')
    _ = crcResult (t.contextAlg u' x') (rest.rd64 (Reg.CV_RUNNING_LO u' x')) := t.result_feedContext u' x' b
    _ = crcResult (s.contextAlg u x) (whole.rd64 (Reg.CV_RUNNING_LO u x)) := by rw [halg, hresumed]
    _ = whole.rd64 (Reg.CV_RESULT_LO u x) := (s.result_feedContext u x (a ++ b)).symm

end Sys2Proof.Machine
end

section
/-! PROOFS. What an operation may reach. `s.Within P t` says that from s to t nothing but the parts P has changed, that the queue of waiting
commands is as it was, and that the memories keep their canonical form. There is one lemma `f_within` (of a command `exec…_answers`) for each
operation f of the model, in the order of the model, and each is the composition of the lemmas of the operations that f is made of; the lemma of
`exec` at the end gives every command the parts of `touches`. -/
namespace Sys2Proof.Machine

/-! ### Lists of parts -/

/-- The place of a part in `Part.every`. -/
def Part.bit : Part → Nat
  | .regs => 0 | .pcie => 1 | .mgmt => 2 | .ledger => 3 | .side => 4 | .heldRS => 5 | .hostMem => 6 | .cores => 7 | .memory => 8 | .mem => 9
  | .power => 10 | .dealer => 11 | .cvOwner => 12 | .serving => 13 | .pfx => 14 | .talon => 15 | .ndx => 16 | .vision => 17 | .media => 18
  | .update => 19 | .fuses => 20 | .now => 21 | .freeCtr => 22

theorem Part.every_getElem?_bit (p : Part) : Part.every[p.bit]? = some p := by cases p <;> rfl

theorem Part.mem_every (p : Part) : p ∈ Part.every := List.mem_of_getElem? p.every_getElem?_bit

/-- A list of parts as a number, so that one list lies in another where a comparison of two numbers says so. -/
def Part.bits : List Part → Nat
  | [] => 0
  | p :: l => 2 ^ p.bit ||| Part.bits l

/-- The first list lies in the second. -/
abbrev Part.Fits (P Q : List Part) : Prop := Part.bits P &&& Part.bits Q = Part.bits P

theorem Part.bit_injective {p q : Part} (h : p.bit = q.bit) : p = q := by
  have hp := p.every_getElem?_bit
  rw [h, q.every_getElem?_bit] at hp
  exact (Option.some.inj hp).symm

theorem Part.testBit_bits (p : Part) (l : List Part) : (Part.bits l).testBit p.bit = decide (p ∈ l) := by
  induction l with
  | nil => simp [Part.bits]
  | cons q l ih =>
    have hq : (q.bit = p.bit) = (p = q) := propext ⟨fun h => (Part.bit_injective h).symm, fun h => h ▸ rfl⟩
    simp [Part.bits, ih, Nat.testBit_two_pow, hq]

theorem Part.subset_of_bits {P Q : List Part} (h : Part.Fits P Q) : P ⊆ Q := by
  intro p hp
  have hbit := congrArg (fun n => n.testBit p.bit) h
  simpa [Nat.testBit_and, Part.testBit_bits, hp] using hbit

/-- What a report can reach, and the given parts. -/
def Part.reporting (l : List Part) : List Part := Part.reports ++ l

/-- What the failure of a task on a core can reach. -/
def Part.failure : List Part :=
  Part.reporting [.heldRS, .hostMem, .cores, .memory, .mem, .power, .dealer, .cvOwner, .serving, .ndx, .vision, .media]

/-- What the tables of a request's keys and values can reach. -/
def Part.tables : List Part := Part.reporting [.memory, .mem, .serving]

/-- What writing a completion entry can reach. -/
def Part.entries : List Part := Part.reporting [.hostMem, .memory, .mem, .dealer, .serving, .vision, .media]

/-- What the completion of a task and the wake of its domain can reach. -/
def Part.submission : List Part := Part.reporting [.hostMem, .memory, .mem, .power, .dealer, .serving, .vision, .media]

/-- What a change of the index of prefixes can reach. -/
def Part.prefixes : List Part := Part.reporting [.memory, .mem, .serving, .pfx, .talon, .freeCtr]

/-- What a trick boundary can reach. -/
def Part.boundary : List Part :=
  Part.reporting [.heldRS, .hostMem, .memory, .mem, .power, .dealer, .serving, .pfx, .talon, .ndx, .vision, .media, .freeCtr]

/-- What reading the head of Talon's ring can reach. -/
def Part.talonRing : List Part := Part.reporting [.heldRS, .memory, .dealer, .serving, .talon, .vision, .media]

theorem MemState.upsetHbm_mem (double : Bool) (w : Nat) (m : MemState) : (m.upsetHbm double w).mem = m.mem := by
  unfold MemState.upsetHbm
  split_ifs <;> rfl

theorem MemState.upsetSram_mem (double : Bool) (w : Nat) (m : MemState) : (m.upsetSram double w).mem = m.mem := by
  unfold MemState.upsetSram
  split_ifs <;> rfl

/-! ### The relation

A side condition on closed lists of parts is filled in by `decide`. It is written with the tactic that a library declaration carries
(`Nat.toPNat._auto_1` is `by decide`, `List.TFAE.out._auto_1` is `by rfl`): a default tactic of this text's own would make each use of it wait until
the kernel has checked all of the text before. For a like reason a lemma is put in brackets before it is continued, `(f_within).after h`: to resolve the
name `f_within.after` Lean would wait for the proof of `f_within`. -/

theorem State.keeps_refl (s : State) (p : Part) : s.keeps s p := by
  cases p with
  | mem | hostMem => exact fun _ => rfl
  | _ => rfl

theorem State.keeps_trans {s t u : State} {p : Part} (h : s.keeps t p) (k : t.keeps u p) : s.keeps u p := by
  cases p with
  | mem | hostMem => exact fun a => (k a).trans (h a)
  | memory | pcie => simp only [State.keeps] at h k ⊢; rw [← h, ← k]
  | _ => exact Eq.trans k h

/-- From s to t an operation has changed nothing but the given parts, left the queue of waiting commands as it was, and kept the canonical form of
the memories. -/
structure State.Within (s : State) (P : List Part) (t : State) : Prop where
  pending : t.pending = s.pending
  frame : ∀ p, p ∉ P → s.keeps t p
  wf : Memory.wf s = true → Memory.wf t = true

namespace State.Within

variable {P Q : List Part} {s t u a b : State}

theorem refl : s.Within Q s := ⟨rfl, fun p _ => s.keeps_refl p, id⟩

theorem of_subset (k : s.Within P t) (h : P ⊆ Q) : s.Within Q t := ⟨k.pending, fun p hp => k.frame p fun hm => hp (h hm), k.wf⟩

theorem chain (k : t.Within Q u) (h : s.Within Q t) : s.Within Q u where
  pending := k.pending.trans h.pending
  frame p hp := State.keeps_trans (h.frame p hp) (k.frame p hp)
  wf hs := k.wf (h.wf hs)

/-- An operation that reaches fewer parts, after what has gone before. -/
theorem after (k : t.Within P u) (h : s.Within Q t) (hPQ : autoParam (Part.Fits P Q) Nat.toPNat._auto_1) : s.Within Q u :=
  (k.of_subset (Part.subset_of_bits hPQ)).chain h

theorem mono (k : s.Within P t) (hPQ : autoParam (Part.Fits P Q) Nat.toPNat._auto_1) : s.Within Q t :=
  k.of_subset (Part.subset_of_bits hPQ)

/-! ### Branches -/

section
variable {c : Prop} {i : Decidable c} {α β γ : Type}

theorem ite (h : s.Within Q a) (k : s.Within Q b) : s.Within Q (if c then a else b) := by
  by_cases hc : c
  · simpa [hc] using h
  · simpa [hc] using k

theorem dite {f : c → State} {g : ¬c → State} (h : ∀ hc, s.Within Q (f hc)) (k : ∀ hc, s.Within Q (g hc)) :
    s.Within Q (if hc : c then f hc else g hc) := by
  by_cases hc : c
  · simpa [hc] using h hc
  · simpa [hc] using k hc

theorem ite_snd {x y : α × State} (h : s.Within Q x.2) (k : s.Within Q y.2) : s.Within Q (if c then x else y).2 := by
  rw [apply_ite Prod.snd]; exact ite h k

theorem ite_fst {x y : State × α} (h : s.Within Q x.1) (k : s.Within Q y.1) : s.Within Q (if c then x else y).1 := by
  rw [apply_ite Prod.fst]; exact ite h k

theorem ite_snd_fst {x y : α × State × β} (h : s.Within Q x.2.1) (k : s.Within Q y.2.1) : s.Within Q (if c then x else y).2.1 := by
  rw [apply_ite Prod.snd]; exact ite_fst h k

theorem ite_snd₂ {x y : α × β × State} (h : s.Within Q x.2.2) (k : s.Within Q y.2.2) : s.Within Q (if c then x else y).2.2 := by
  rw [apply_ite Prod.snd]; exact ite_snd h k

theorem ite_snd₃ {x y : α × β × γ × State} (h : s.Within Q x.2.2.2) (k : s.Within Q y.2.2.2) : s.Within Q (if c then x else y).2.2.2 := by
  rw [apply_ite Prod.snd]; exact ite_snd₂ h k

/-- A step that is taken in one case only, after what has gone before. -/
theorem iteStep (k : t.Within Q u) (h : s.Within Q t) : s.Within Q (if c then u else t) := ite (k.chain h) h

theorem elseStep (k : t.Within Q u) (h : s.Within Q t) : s.Within Q (if c then t else u) := ite h (k.chain h)

/-! ### The state of an answer that has been taken apart -/

theorem pair_snd {x : α} (h : s.Within Q t) : s.Within Q (x, t).2 := h
theorem pair_snd₂ {x : α} {y : β} (h : s.Within Q t) : s.Within Q (x, y, t).2.2 := h

theorem snd {x : α} {p : α × State} (k : s.Within Q p.2) (h : p = (x, t)) : s.Within Q t := by rw [h] at k; exact k
theorem fst {x : α} {p : State × α} (k : s.Within Q p.1) (h : p = (t, x)) : s.Within Q t := by rw [h] at k; exact k
theorem snd_fst {x : α} {y : β} {p : α × State × β} (k : s.Within Q p.2.1) (h : p = (x, t, y)) : s.Within Q t := by rw [h] at k; exact k
theorem snd₂ {x : α} {y : β} {p : α × β × State} (k : s.Within Q p.2.2) (h : p = (x, y, t)) : s.Within Q t := by rw [h] at k; exact k
theorem snd₃ {x : α} {y : β} {z : γ} {p : α × β × γ × State} (k : s.Within Q p.2.2.2) (h : p = (x, y, z, t)) : s.Within Q t := by
  rw [h] at k; exact k

end

/-! ### Lists -/

section
variable {α β γ δ : Type} {l : List α}

/-- A fold whose every step keeps within the parts, where `st` is the state that its accumulator holds. -/
theorem foldl_of (st : β → State) {f : β → α → β} {x : β} (h : ∀ r a, (st r).Within Q (st (f r a))) (k : s.Within Q (st x)) :
    s.Within Q (st (l.foldl f x)) := by
  induction l generalizing x with
  | nil => exact k
  | cons a l ih => exact ih ((h x a).chain k)

/-- What an optional fold answers keeps a property that every step keeps. -/
theorem foldl_option_of {f : Option β → α → Option β} {R : β → Prop} {x : Option β} {y : β}
    (hf : ∀ (r : Option β) (a : α) (z : β), (∀ w, r = some w → R w) → f r a = some z → R z) (hx : ∀ w, x = some w → R w)
    (h : l.foldl f x = some y) : R y := by
  induction l generalizing x with
  | nil => exact hx y h
  | cons a l ih => exact ih (fun w hw => hf x a w hx hw) h

theorem foldl {f : State → α → State} (h : ∀ (t : State) a, t.Within Q (f t a)) (k : s.Within Q t) : s.Within Q (l.foldl f t) := foldl_of id h k

theorem foldl_fst {f : State × γ → α → State × γ} {x : State × γ} (h : ∀ (r : State × γ) a, r.1.Within Q (f r a).1) (k : s.Within Q x.1) :
    s.Within Q (l.foldl f x).1 := foldl_of Prod.fst h k

theorem foldl_snd {f : γ × State → α → γ × State} {x : γ × State} (h : ∀ (r : γ × State) a, r.2.Within Q (f r a).2) (k : s.Within Q x.2) :
    s.Within Q (l.foldl f x).2 := foldl_of Prod.snd h k

theorem foldl_snd₂ {f : γ × δ × State → α → γ × δ × State} {x : γ × δ × State} (h : ∀ (r : γ × δ × State) a, r.2.2.Within Q (f r a).2.2)
    (k : s.Within Q x.2.2) : s.Within Q (l.foldl f x).2.2 := foldl_of (fun r : γ × δ × State => r.2.2) h k

theorem overList {f : α → State → State} (h : ∀ a (t : State), t.Within Q (f a t)) (k : s.Within Q t) : s.Within Q (t.overList l f) :=
  foldl (fun t a => h a t) k

end

/-! ### One part of the state -/

section
variable (h : s.Within Q t)
include h

theorem setRegs {x : List (Nat × Word)} (hq : autoParam (Part.regs ∈ Q) Nat.toPNat._auto_1) : s.Within Q { t with regs := x } :=
  ⟨h.pending, fun p hp => by cases p with | regs => exact absurd hq hp | _ => exact h.frame _ hp, h.wf⟩

theorem setHeldRS {x : List (Nat × (Nat × Nat))} (hq : autoParam (Part.heldRS ∈ Q) Nat.toPNat._auto_1) : s.Within Q { t with heldRS := x } :=
  ⟨h.pending, fun p hp => by cases p with | heldRS => exact absurd hq hp | _ => exact h.frame _ hp, h.wf⟩

theorem setMgmt {x : MgmtState} (hq : autoParam (Part.mgmt ∈ Q) Nat.toPNat._auto_1) : s.Within Q { t with mgmt := x } :=
  ⟨h.pending, fun p hp => by cases p with | mgmt => exact absurd hq hp | _ => exact h.frame _ hp, h.wf⟩

theorem setLedger {x : LedgerState} (hq : autoParam (Part.ledger ∈ Q) Nat.toPNat._auto_1) : s.Within Q { t with ledger := x } :=
  ⟨h.pending, fun p hp => by cases p with | ledger => exact absurd hq hp | _ => exact h.frame _ hp, h.wf⟩

theorem setSide {x : SidebandState} (hq : autoParam (Part.side ∈ Q) Nat.toPNat._auto_1) : s.Within Q { t with side := x } :=
  ⟨h.pending, fun p hp => by cases p with | side => exact absurd hq hp | _ => exact h.frame _ hp, h.wf⟩

theorem setCores {x : List (Nat × CoreState)} (hq : autoParam (Part.cores ∈ Q) Nat.toPNat._auto_1) : s.Within Q { t with cores := x } :=
  ⟨h.pending, fun p hp => by cases p with | cores => exact absurd hq hp | _ => exact h.frame _ hp, h.wf⟩

theorem setPower {x : PowerState} (hq : autoParam (Part.power ∈ Q) Nat.toPNat._auto_1) : s.Within Q { t with power := x } :=
  ⟨h.pending, fun p hp => by cases p with | power => exact absurd hq hp | _ => exact h.frame _ hp, h.wf⟩

theorem setDealer {x : DealerState} (hq : autoParam (Part.dealer ∈ Q) Nat.toPNat._auto_1) : s.Within Q { t with dealer := x } :=
  ⟨h.pending, fun p hp => by cases p with | dealer => exact absurd hq hp | _ => exact h.frame _ hp, h.wf⟩

theorem setCvOwner {x : List (Nat × (Nat × Nat))} (hq : autoParam (Part.cvOwner ∈ Q) Nat.toPNat._auto_1) : s.Within Q { t with cvOwner := x } :=
  ⟨h.pending, fun p hp => by cases p with | cvOwner => exact absurd hq hp | _ => exact h.frame _ hp, h.wf⟩

theorem setServing {x : ServingState} (hq : autoParam (Part.serving ∈ Q) Nat.toPNat._auto_1) : s.Within Q { t with serving := x } :=
  ⟨h.pending, fun p hp => by cases p with | serving => exact absurd hq hp | _ => exact h.frame _ hp, h.wf⟩

theorem setPfx {x : PfxState} (hq : autoParam (Part.pfx ∈ Q) Nat.toPNat._auto_1) : s.Within Q { t with pfx := x } :=
  ⟨h.pending, fun p hp => by cases p with | pfx => exact absurd hq hp | _ => exact h.frame _ hp, h.wf⟩

theorem setTalon {x : TalonState} (hq : autoParam (Part.talon ∈ Q) Nat.toPNat._auto_1) : s.Within Q { t with talon := x } :=
  ⟨h.pending, fun p hp => by cases p with | talon => exact absurd hq hp | _ => exact h.frame _ hp, h.wf⟩

theorem setNdx {x : NdxState} (hq : autoParam (Part.ndx ∈ Q) Nat.toPNat._auto_1) : s.Within Q { t with ndx := x } :=
  ⟨h.pending, fun p hp => by cases p with | ndx => exact absurd hq hp | _ => exact h.frame _ hp, h.wf⟩

theorem setVision {x : VisionState} (hq : autoParam (Part.vision ∈ Q) Nat.toPNat._auto_1) : s.Within Q { t with vision := x } :=
  ⟨h.pending, fun p hp => by cases p with | vision => exact absurd hq hp | _ => exact h.frame _ hp, h.wf⟩

theorem setMedia {x : MediaState} (hq : autoParam (Part.media ∈ Q) Nat.toPNat._auto_1) : s.Within Q { t with media := x } :=
  ⟨h.pending, fun p hp => by cases p with | media => exact absurd hq hp | _ => exact h.frame _ hp, h.wf⟩

theorem setFuses {x : Fuses} (hq : autoParam (Part.fuses ∈ Q) Nat.toPNat._auto_1) : s.Within Q { t with fuses := x } :=
  ⟨h.pending, fun p hp => by cases p with | fuses => exact absurd hq hp | _ => exact h.frame _ hp, h.wf⟩

theorem setFreeCtr {x : Nat} (hq : autoParam (Part.freeCtr ∈ Q) Nat.toPNat._auto_1) : s.Within Q { t with freeCtr := x } :=
  ⟨h.pending, fun p hp => by cases p with | freeCtr => exact absurd hq hp | _ => exact h.frame _ hp, h.wf⟩

theorem setNow {x : Nat} (hq : autoParam (Part.now ∈ Q) Nat.toPNat._auto_1) : s.Within Q { t with now := x } :=
  ⟨h.pending, fun p hp => by cases p with | now => exact absurd hq hp | _ => exact h.frame _ hp, h.wf⟩

theorem setMemory {x : MemState} (hx : autoParam (x.mem = t.memory.mem) List.TFAE.out._auto_1) (hq : autoParam (Part.memory ∈ Q) Nat.toPNat._auto_1) :
    s.Within Q { t with memory := x } := by
  refine ⟨h.pending, fun p hp => ?_, fun hs => ?_⟩
  · cases p with
    | memory => exact absurd hq hp
    | mem => intro a; exact (congrArg (cellsGet 0 · a) hx).trans (h.frame .mem hp a)
    | _ => exact h.frame _ hp
  · have ht := (Memory.wf_iff t).mp (h.wf hs)
    exact (Memory.wf_iff _).mpr ⟨hx ▸ ht.1, ht.2⟩

theorem setMem {x : List Host.Cell} (hx : cellsWf 0 t.memory.mem = true → cellsWf 0 x = true)
    (hq : autoParam (Part.mem ∈ Q) Nat.toPNat._auto_1) : s.Within Q { t with memory := { t.memory with mem := x } } := by
  refine ⟨h.pending, fun p hp => ?_, fun hs => ?_⟩
  · cases p with
    | mem => exact absurd hq hp
    | _ => exact h.frame _ hp
  · have ht := (Memory.wf_iff t).mp (h.wf hs)
    exact (Memory.wf_iff _).mpr ⟨hx ht.1, ht.2⟩

theorem setPcie {x : PcieState} (hx : autoParam (x.hostMem = t.pcie.hostMem) List.TFAE.out._auto_1)
    (hq : autoParam (Part.pcie ∈ Q) Nat.toPNat._auto_1) :
    s.Within Q { t with pcie := x } := by
  refine ⟨h.pending, fun p hp => ?_, fun hs => ?_⟩
  · cases p with
    | pcie => exact absurd hq hp
    | hostMem => intro a; exact (congrArg (cellsGet 0 · a) hx).trans (h.frame .hostMem hp a)
    | _ => exact h.frame _ hp
  · obtain ⟨hm, hh, hn⟩ := (Memory.wf_iff t).mp (h.wf hs)
    exact (Memory.wf_iff _).mpr ⟨hm, hx ▸ hh, hn⟩

theorem setHostMem {x : List Host.Cell} (hx : cellsWf 0 t.pcie.hostMem = true → cellsWf 0 x = true)
    (hq : autoParam (Part.hostMem ∈ Q) Nat.toPNat._auto_1) : s.Within Q { t with pcie := { t.pcie with hostMem := x } } := by
  refine ⟨h.pending, fun p hp => ?_, fun hs => ?_⟩
  · cases p with
    | hostMem => exact absurd hq hp
    | _ => exact h.frame _ hp
  · obtain ⟨hm, hh, hn⟩ := (Memory.wf_iff t).mp (h.wf hs)
    exact (Memory.wf_iff _).mpr ⟨hm, hx hh, hn⟩

theorem setNor {x : UpdateState} (hn : cellsWf 0xFF t.update.nor = true → cellsWf 0xFF x.nor = true)
    (hc : cellsWf 0xFF t.update.control = true → cellsWf 0xFF x.control = true) (hq : autoParam (Part.update ∈ Q) Nat.toPNat._auto_1) :
    s.Within Q { t with update := x } := by
  refine ⟨h.pending, fun p hp => ?_, fun hs => ?_⟩
  · cases p with
    | update => exact absurd hq hp
    | _ => exact h.frame _ hp
  · obtain ⟨hm, hh, hnor, hcontrol⟩ := (Memory.wf_iff t).mp (h.wf hs)
    exact (Memory.wf_iff _).mpr ⟨hm, hh, hn hnor, hc hcontrol⟩

theorem setUpdate {x : UpdateState} (hn : autoParam (x.nor = t.update.nor) List.TFAE.out._auto_1)
    (hc : autoParam (x.control = t.update.control) List.TFAE.out._auto_1) (hq : autoParam (Part.update ∈ Q) Nat.toPNat._auto_1) :
    s.Within Q { t with update := x } :=
  h.setNor (fun k => hn ▸ k) (fun k => hc ▸ k) hq

theorem setMgmtUpdate {y : MgmtState} {x : UpdateState} (hn : autoParam (x.nor = t.update.nor) List.TFAE.out._auto_1)
    (hc : autoParam (x.control = t.update.control) List.TFAE.out._auto_1) (hm : autoParam (Part.mgmt ∈ Q) Nat.toPNat._auto_1)
    (hq : autoParam (Part.update ∈ Q) Nat.toPNat._auto_1) : s.Within Q { t with mgmt := y, update := x } :=
  (h.setMgmt (x := y) hm).setUpdate (x := x) hn hc hq

theorem setMemoryWithMem {x : MemState} (hx : cellsWf 0 t.memory.mem = true → cellsWf 0 x.mem = true)
    (hq : autoParam (Part.memory ∈ Q) Nat.toPNat._auto_1) (hm : autoParam (Part.mem ∈ Q) Nat.toPNat._auto_1) : s.Within Q { t with memory := x } :=
  (h.setMem hx hm).setMemory (x := x) rfl hq

theorem setPcieWithHostMem {x : PcieState} (hx : cellsWf 0 t.pcie.hostMem = true → cellsWf 0 x.hostMem = true)
    (hq : autoParam (Part.pcie ∈ Q) Nat.toPNat._auto_1) (hm : autoParam (Part.hostMem ∈ Q) Nat.toPNat._auto_1) : s.Within Q { t with pcie := x } :=
  (h.setHostMem hx hm).setPcie (x := x) rfl hq

theorem setRegsHeldRS {x y} (hq : autoParam (Part.regs ∈ Q) Nat.toPNat._auto_1) (hr : autoParam (Part.heldRS ∈ Q) Nat.toPNat._auto_1) :
    s.Within Q { t with regs := x, heldRS := y } := (h.setRegs (x := x) hq).setHeldRS (x := y) hr

theorem setNowCoresPower {x y z} (h1 : autoParam (Part.now ∈ Q) Nat.toPNat._auto_1)
    (h2 : autoParam (Part.cores ∈ Q) Nat.toPNat._auto_1) (h3 : autoParam (Part.power ∈ Q) Nat.toPNat._auto_1) :
    s.Within Q { t with now := x, cores := y, power := z } :=
  ((h.setNow (x := x) h1).setCores (x := y) h2).setPower (x := z) h3

theorem setMemoryPower {x : MemState} {y} (hx : autoParam (x.mem = t.memory.mem) List.TFAE.out._auto_1)
    (hp : autoParam (Part.memory ∈ Q) Nat.toPNat._auto_1) (hq : autoParam (Part.power ∈ Q) Nat.toPNat._auto_1) :
    s.Within Q { t with memory := x, power := y } :=
  (h.setMemory hx hp).setPower (x := y) hq

theorem setMgmtSidePower {x y z} (h1 : autoParam (Part.mgmt ∈ Q) Nat.toPNat._auto_1)
    (h2 : autoParam (Part.side ∈ Q) Nat.toPNat._auto_1) (h3 : autoParam (Part.power ∈ Q) Nat.toPNat._auto_1) :
    s.Within Q { t with mgmt := x, side := y, power := z } :=
  ((h.setMgmt (x := x) h1).setSide (x := y) h2).setPower (x := z) h3

theorem setLedgerTalon {x y} (h1 : autoParam (Part.ledger ∈ Q) Nat.toPNat._auto_1) (h2 : autoParam (Part.talon ∈ Q) Nat.toPNat._auto_1) :
    s.Within Q { t with ledger := x, talon := y } :=
  (h.setLedger (x := x) h1).setTalon (x := y) h2

theorem setDealerServingPfxTalonNdx {x₁ x₂ x₃ x₄ x₅} (h1 : autoParam (Part.dealer ∈ Q) Nat.toPNat._auto_1)
    (h2 : autoParam (Part.serving ∈ Q) Nat.toPNat._auto_1) (h3 : autoParam (Part.pfx ∈ Q) Nat.toPNat._auto_1)
    (h4 : autoParam (Part.talon ∈ Q) Nat.toPNat._auto_1) (h5 : autoParam (Part.ndx ∈ Q) Nat.toPNat._auto_1) :
    s.Within Q { t with dealer := x₁, serving := x₂, pfx := x₃, talon := x₄, ndx := x₅ } :=
  ((((h.setDealer (x := x₁) h1).setServing (x := x₂) h2).setPfx (x := x₃) h3).setTalon (x := x₄) h4).setNdx (x := x₅) h5

theorem setNowMgmtLedgerSide {x₁ x₂ x₃ x₄} (h1 : autoParam (Part.now ∈ Q) Nat.toPNat._auto_1)
    (h2 : autoParam (Part.mgmt ∈ Q) Nat.toPNat._auto_1) (h3 : autoParam (Part.ledger ∈ Q) Nat.toPNat._auto_1)
    (h4 : autoParam (Part.side ∈ Q) Nat.toPNat._auto_1) :
    s.Within Q { t with now := x₁, mgmt := x₂, ledger := x₃, side := x₄ } :=
  (((h.setNow (x := x₁) h1).setMgmt (x := x₂) h2).setLedger (x := x₃) h3).setSide (x := x₄) h4

end

end State.Within

/-! ### Commands -/

/-- A command answers a next state, and reaches no part but the given ones. -/
def State.Answers (s : State) (P : List Part) (o : Out) : Prop := ∃ t, o = .next t ∧ s.Within P t

namespace State.Answers

variable {P Q : List Part} {s t : State} {o o' : Out}

theorem next (h : s.Within Q t) : s.Answers Q (.next t) := ⟨t, rfl, h⟩

theorem ite {c : Prop} {i : Decidable c} (h : s.Answers Q o) (k : s.Answers Q o') : s.Answers Q (if c then o else o') := by
  by_cases hc : c
  · simpa [hc] using h
  · simpa [hc] using k

theorem mono (h : s.Answers P o) (hPQ : autoParam (Part.Fits P Q) Nat.toPNat._auto_1) : s.Answers Q o := by
  obtain ⟨t, ho, ht⟩ := h
  exact ⟨t, ho, ht.mono hPQ⟩

theorem after (h : t.Answers P o) (k : s.Within Q t) (hPQ : autoParam (Part.Fits P Q) Nat.toPNat._auto_1) : s.Answers Q o := by
  obtain ⟨u, ho, hu⟩ := h
  exact ⟨u, ho, hu.after k hPQ⟩

end State.Answers

end Sys2Proof.Machine
end

section
/-! PROOFS. What the operations of Machine/Ops.lean may reach. -/
namespace Sys2Proof.Machine

theorem State.wr_within {off v} {s : State} : s.Within [.regs] (State.wr off v s) :=
  .setRegs .refl

theorem State.wrN_within {off v} {s : State} : s.Within [.regs] (State.wrN off v s) :=
  (State.wr_within).mono

theorem State.wrF_within {off f v} {s : State} : s.Within [.regs] (State.wrF off f v s) :=
  (State.wr_within).mono

theorem State.wr64_within {off v} {s : State} : s.Within [.regs] (State.wr64 off v s) :=
  (State.wrN_within).after (State.wrN_within).mono

theorem State.count_within {off n} {s : State} : s.Within [.regs] (State.count off n s) :=
  (State.wrN_within).mono

theorem State.countSat_within {off limit n} {s : State} : s.Within [.regs] (State.countSat off limit n s) :=
  (State.wrN_within).mono

theorem State.countF_within {off f} {s : State} : s.Within [.regs] (State.countF off f s) :=
  (State.wrF_within).mono

theorem State.resetRegs_within {lo n} {s : State} : s.Within [.regs, .heldRS] (State.resetRegs lo n s) :=
  .setRegsHeldRS .refl

theorem State.commitRS_within {p} {s : State} : s.Within [.regs, .heldRS] (State.commitRS p s) :=
  .setRegsHeldRS .refl

theorem State.drawn_within {s : State} : s.Within [.freeCtr] (State.drawn s) :=
  .setFreeCtr .refl

theorem State.putBit_within {off i b} {s : State} : s.Within [.regs] (State.putBit off i b s) :=
  (State.wr_within).mono

theorem State.emit_within {m} {s : State} : s.Within [.pcie] (State.emit m s) :=
  .setPcie .refl

theorem State.hostWrite_within {fn addr bytes} {s : State} : s.Within [.pcie, .hostMem] (State.hostWrite fn addr bytes s) :=
  .ite (.setHostMem .refl (cellsWf_write _ _)) (.setPcie .refl)

theorem State.msix_within {fn v} {s : State} : s.Within [.pcie] (State.msix fn v s) :=
  .ite .refl (.ite (.setPcie .refl) (State.emit_within).mono)

theorem State.driveAlert_within {s : State} : s.Within [.side] (State.driveAlert s) :=
  .setSide .refl

theorem State.noteStage_within {st} {s : State} : s.Within [.mgmt] (State.noteStage st s) :=
  .ite (.setMgmt .refl) .refl

theorem State.capture_within {st} {s : State} : s.Within [.regs, .mgmt] (State.capture st s) :=
  .ite ((State.wrN_within).after ((State.noteStage_within).after (State.countSat_within).mono)) (.ite ((State.wrN_within).after
      ((State.noteStage_within).after (State.countSat_within).mono)) ((State.wrN_within).after ((State.noteStage_within).after
      (State.countSat_within).mono)))

theorem State.setAlert_within {i} {s : State} : s.Within [.regs, .pcie, .mgmt, .side] (State.setAlert i s) :=
  .ite .refl (.iteStep (State.msix_within).mono ((State.capture_within).after ((State.count_within).after ((State.driveAlert_within).after
      (State.putBit_within).mono))))

theorem State.ledgerPut_within {part idx v} {s : State} : s.Within [.ledger] (State.ledgerPut part idx v s) :=
  .setLedger .refl

theorem State.ledgerAdd_within {part idx n} {s : State} : s.Within [.ledger] (State.ledgerAdd part idx n s) :=
  (State.ledgerPut_within).mono

theorem State.ledgerMax_within {part idx v} {s : State} : s.Within [.ledger] (State.ledgerMax part idx v s) :=
  (State.ledgerPut_within).mono

theorem State.ledgerRecord_within {part status kind value permanent} {s : State} : s.Within [.regs, .ledger]
    (State.ledgerRecord part status kind value permanent s) :=
  .ite (.setLedger (State.count_within).mono) (.ite (.setLedger (State.count_within).mono) (.setLedger (State.count_within).mono))

theorem State.ledgerEvent_within {part st} {s : State} : s.Within [.regs, .ledger] (State.ledgerEvent part st s) :=
  .ite (State.count_within).mono ((State.ledgerRecord_within).after (.setLedger .refl))

theorem State.postAt_within {part st} {s : State} : s.Within Part.reports (State.postAt part st s) :=
  .ite .refl (.iteStep (State.msix_within).mono (.iteStep (State.setAlert_within).mono (.iteStep (State.ledgerEvent_within).mono
      (State.capture_within).mono)))

theorem State.post_within {st} {s : State} : s.Within Part.reports (State.post st s) :=
  (State.postAt_within).mono

theorem State.recomputeBudgets_within {s : State} : s.Within [.regs] (State.recomputeBudgets s) :=
  .overList (fun _ _ => (State.wrN_within).mono) .refl

theorem State.setRunning_within {p b} {s : State} : s.Within [.regs] (State.setRunning p b s) :=
  (State.recomputeBudgets_within).after (State.putBit_within).mono

theorem State.stopPart_within {p} {s : State} : s.Within [.regs] (State.stopPart p s) :=
  .ite ((State.setRunning_within).after (State.wrF_within).mono) .refl

theorem State.postPartFatal_within {p st} {s : State} : s.Within Part.reports (State.postPartFatal p st s) :=
  (State.stopPart_within).after (State.post_within).mono

theorem State.postFatalAt_within {part st} {s : State} : s.Within Part.reports (State.postFatalAt part st s) :=
  (State.wrF_within).after ((State.wrF_within).after (.setMgmt ((State.ledgerAdd_within).after (State.postAt_within).mono)))

theorem State.postFatal_within {st} {s : State} : s.Within Part.reports (State.postFatal st s) :=
  (State.postFatalAt_within).mono

theorem State.putLink_within {l x} {s : State} : s.Within [.ndx] (State.putLink l x s) :=
  .setNdx .refl

end Sys2Proof.Machine
end

section
/-! PROOFS. What the operations of Machine/MemoryOps.lean may reach. -/
namespace Sys2Proof.Machine

theorem State.poke_within {a bytes} {s : State} : s.Within [.mem] (State.poke a bytes s) :=
  .setMem .refl (cellsWf_write _ _)

theorem State.memLog_within {a st} {s : State} : s.Within [.regs] (State.memLog a st s) :=
  .iteStep (State.countF_within).mono ((State.wrF_within).after ((State.wr64_within).after ((State.wrN_within).after (State.wrN_within).mono)))

theorem State.postMem_within {part a st} {s : State} : s.Within Part.reports (State.postMem part a st s) :=
  (State.postAt_within).after (.ite (State.memLog_within).mono .refl)

theorem State.enterRetirement_within {e} {s : State} : s.Within [.regs, .ledger, .memory] (State.enterRetirement e s) :=
  (State.ledgerRecord_within).after ((State.ledgerPut_within).after ((State.ledgerAdd_within).after ((State.count_within).after
      ((State.wrF_within).after ((State.wrF_within).after (.setMemory .refl))))))

theorem State.unmapPage_within {d page predictive bringup} {s : State} : s.Within (Part.reporting [.memory])
    (State.unmapPage d page predictive bringup s) :=
  .iteStep ((State.postMem_within).after (State.wrF_within).mono) (State.enterRetirement_within).mono

theorem State.retirePage_within {d page predictive} {s : State} : s.Within (Part.reporting [.memory]) (State.retirePage d page predictive s).2 :=
  .ite_snd .refl (.ite_snd (.ite_snd .refl (.setMemory .refl)) (.ite_snd .refl (.pair_snd (State.unmapPage_within).mono)))

theorem State.finishRemap_within {r} {s : State} : s.Within [.regs, .ledger, .memory] (State.finishRemap r s) :=
  (State.enterRetirement_within).after (.setMemory .refl)

theorem State.releaseHeld_within {a n} {s : State} : s.Within [.regs, .ledger, .memory] (State.releaseHeld a n s) := by
  unfold State.releaseHeld
  split
  · exact .overList (fun _ _ => (State.finishRemap_within).mono) .refl
  · exact .refl

theorem State.touchStacks_within {a n} {s : State} : s.Within [.memory] (State.touchStacks a n s) :=
  .overList (fun _ _ => .setMemory .refl) .refl

theorem State.correctWord_within {w} {s : State} : s.Within (Part.reporting [.memory]) (State.correctWord w s) := by
  unfold State.correctWord
  refine .iteStep ?_ ((State.postMem_within).after ((State.ledgerAdd_within).after ((State.countSat_within).after (.setMemory .refl))))
  split
  · next h1 => exact (State.postMem_within).after (((State.retirePage_within).snd h1).mono)
  · next h1 => exact ((State.retirePage_within).snd h1).mono

theorem State.reportWord_within {part a st} {s : State} : s.Within Part.reports (State.reportWord part a st s) := by
  unfold State.reportWord
  refine .ite ?_ (State.postMem_within).mono
  dsimp only
  split
  · exact (State.stopPart_within).after (State.postMem_within).mono
  · exact (State.postMem_within).mono

theorem State.memPartFatal_within {a st} {s : State} : s.Within Part.reports (State.memPartFatal a st s) :=
  (State.reportWord_within).mono

theorem State.retireWords_within {ws} {s : State} : s.Within (Part.reporting [.memory]) (State.retireWords ws s).2 := by
  unfold State.retireWords
  refine .foldl_snd (fun _ _ => ?_) .refl
  split
  · next h1 => exact .pair_snd (((State.retirePage_within).snd h1).mono)
  · next h1 => exact .pair_snd (((State.retirePage_within).snd h1).mono)

theorem State.countDead_within {w} {s : State} : s.Within [.regs, .ledger] (State.countDead w s) :=
  (State.ledgerAdd_within).after (State.countSat_within).mono

theorem State.readWords_within {sev ws} {s : State} : s.Within (Part.reporting [.memory]) (State.readWords sev ws s).2 := by
  unfold State.readWords
  dsimp only
  split
  · exact .pair_snd (.overList (fun _ _ => (State.correctWord_within).mono) ((State.retireWords_within).after (.overList (fun _ _ =>
        (State.countDead_within).mono) .refl)))
  · exact .pair_snd (.overList (fun _ _ => (State.correctWord_within).mono) ((State.memPartFatal_within).after ((State.retireWords_within).after
        (.overList (fun _ _ => (State.countDead_within).mono) .refl))))
  · exact .pair_snd (.overList (fun _ _ => (State.correctWord_within).mono) ((State.reportWord_within).after ((State.retireWords_within).after
        (.overList (fun _ _ => (State.countDead_within).mono) .refl))))

theorem State.hbmRead_within {sev a n} {s : State} : s.Within (Part.reporting [.memory]) (State.hbmRead sev a n s).2.2 :=
  .ite_snd₂ .refl ((State.readWords_within).after ((State.touchStacks_within).after (State.releaseHeld_within).mono))

theorem State.cleanWords_within {a n} {s : State} : s.Within [.memory] (State.cleanWords a n s) :=
  .setMemory .refl

theorem State.hbmWrite_within {sev a bytes} {s : State} : s.Within (Part.reporting [.memory, .mem]) (State.hbmWrite sev a bytes s).2 := by
  unfold State.hbmWrite
  refine .ite_snd .refl ?_
  dsimp only
  split
  · next h1 => exact .pair_snd (((State.readWords_within).snd h1).after ((State.touchStacks_within).after (State.releaseHeld_within).mono))
  · next h1 => exact .pair_snd ((State.poke_within).after ((State.cleanWords_within).after (((State.readWords_within).snd h1).after
        ((State.touchStacks_within).after (State.releaseHeld_within).mono))))

theorem State.hbmPour_within {sev a n off body} {s : State} : s.Within (Part.reporting [.memory, .mem]) (State.hbmPour sev a n off body s).2 := by
  unfold State.hbmPour
  refine .ite_snd .refl ?_
  dsimp only
  split
  · next h1 => exact .pair_snd (((State.readWords_within).snd h1).after ((State.touchStacks_within).after (State.releaseHeld_within).mono))
  · next h1 => exact .setMem ((State.cleanWords_within).after (((State.readWords_within).snd h1).after ((State.touchStacks_within).after
        (State.releaseHeld_within).mono))) (fun h => cellsWf_puts _ _ _ (cellsWf_clear h _ _))

theorem State.correctSram_within {w} {s : State} : s.Within (Part.reporting [.memory]) (State.correctSram w s) :=
  (State.postMem_within).after ((State.ledgerAdd_within).after ((State.ledgerAdd_within).after ((State.countSat_within).after (.setMemory .refl))))

theorem State.readSram_within {ws} {s : State} : s.Within (Part.reporting [.memory]) (State.readSram ws s).2 := by
  unfold State.readSram
  dsimp only
  split
  · exact .pair_snd (.overList (fun _ _ => (State.correctSram_within).mono) .refl)
  · exact .pair_snd ((State.postMem_within).after (.setMemory ((State.ledgerAdd_within).after ((State.ledgerAdd_within).after
        ((State.countSat_within).after (.overList (fun _ _ => (State.correctSram_within).mono) .refl))))))

theorem State.sramRead_within {a n} {s : State} : s.Within (Part.reporting [.memory]) (State.sramRead a n s).2 :=
  (State.readSram_within).mono

theorem State.sramWrite_within {a bytes} {s : State} : s.Within (Part.reporting [.memory, .mem]) (State.sramWrite a bytes s).2 := by
  unfold State.sramWrite
  dsimp only
  split
  · next h1 => exact .pair_snd (((State.readSram_within).snd h1).mono)
  · next h1 => exact .pair_snd ((State.poke_within).after (.setMemory (((State.readSram_within).snd h1).mono)))

theorem State.globalRead_within {sev a n} {s : State} : s.Within (Part.reporting [.memory]) (State.globalRead sev a n s).2.2 := by
  unfold State.globalRead
  split
  · exact (State.hbmRead_within).mono
  · exact .pair_snd₂ (State.postMem_within).mono
  · exact (State.sramRead_within).mono

theorem State.globalWrite_within {sev a bytes} {s : State} : s.Within (Part.reporting [.memory, .mem]) (State.globalWrite sev a bytes s).2 := by
  unfold State.globalWrite
  split
  · exact (State.hbmWrite_within).mono
  · exact .pair_snd (State.postMem_within).mono
  · exact (State.sramWrite_within).mono

theorem State.blockWrite_within {a bytes} {s : State} : s.Within (Part.reporting [.memory, .mem]) (State.blockWrite a bytes s).2 := by
  unfold State.blockWrite
  split
  · next h1 => exact .pair_snd (((State.hbmWrite_within).snd h1).mono)
  · next h1 => exact .pair_snd (((State.hbmWrite_within).snd h1).mono)

theorem State.engineWrite_within {a bytes} {s : State} : s.Within (Part.reporting [.memory, .mem]) (State.engineWrite a bytes s) :=
  .ite (State.blockWrite_within).mono (State.hbmWrite_within).mono

theorem State.firmwareUpset_within {n off k} {s : State} : s.Within [.cores] (State.firmwareUpset n off k s) := by
  unfold State.firmwareUpset
  split
  · exact .setCores .refl
  · exact .refl

theorem State.upset_within {us} {s : State} : s.Within [.regs, .ledger, .cores, .memory] (State.upset us s) := by
  unfold State.upset
  refine .overList (fun _ _ => ?_) .refl
  split
  · exact (State.firmwareUpset_within).mono
  · exact (State.ledgerAdd_within).after (State.countSat_within).mono
  · exact .setMemory .refl (MemState.upsetHbm_mem _ _ _)
  · exact .refl
  · exact .refl
  · exact .setMemory .refl (MemState.upsetSram_mem _ _ _)

theorem State.zeroRange_within {a n} {s : State} : s.Within [.memory, .mem] (State.zeroRange a n s) :=
  .setMemoryWithMem .refl (fun h => cellsWf_clear h _ _)

theorem State.zeroDie_within {d} {s : State} : s.Within [.regs, .ledger, .memory, .mem] (State.zeroDie d s) :=
  (State.zeroRange_within).after ((State.zeroRange_within).after (.overList (fun _ _ => (State.finishRemap_within).mono) .refl))

theorem State.zeroStore_within {core} {s : State} : s.Within [.memory, .mem] (State.zeroStore core s) :=
  (State.zeroRange_within).mono

theorem State.zeroPool_within {cluster} {s : State} : s.Within [.memory, .mem] (State.zeroPool cluster s) :=
  (State.zeroRange_within).mono

end Sys2Proof.Machine
end

section
/-! PROOFS. What the operations of Machine/PowerOps.lean may reach. -/
namespace Sys2Proof.Machine

theorem State.unboost_within {p} {s : State} : s.Within [.regs, .power] (State.unboost p s) :=
  .overList (fun _ _ => (State.wrF_within).mono) (.setPower .refl)

theorem State.capChange_within {s : State} : s.Within (Part.reporting [.power]) (State.capChange s) :=
  .elseStep (State.post_within).mono ((State.count_within).after ((State.unboost_within).after ((State.recomputeBudgets_within).after (.setPower
      (State.wrF_within).mono))))

theorem State.boostClusters_within {task cs} {s : State} : s.Within [.regs, .power] (State.boostClusters task cs s) :=
  .overList (fun _ _ => .iteStep (.elseStep ((State.count_within).after (State.wrF_within).mono) (.setPower .refl)) .refl) .refl

theorem State.endBoost_within {task} {s : State} : s.Within [.regs, .power] (State.endBoost task s) :=
  (State.unboost_within).after (.setPower .refl)

theorem State.wake_within {s : State} : s.Within [.regs, .power] (State.wake s) :=
  .ite (.setPower (State.wrF_within).mono) (.ite .refl (.setPower .refl))

theorem State.passTime_within {ns} {s : State} : s.Within [.cores, .power, .now] (State.passTime ns s) :=
  .setNowCoresPower .refl

theorem State.requestCore_within {n} {s : State} : s.Within [.power] (State.requestCore n s) :=
  .setPower .refl

theorem State.requestEngine_within {d} {s : State} : s.Within [.power] (State.requestEngine d s) :=
  .ite .refl (.setPower .refl)

theorem State.putCore_within {n c} {s : State} : s.Within [.cores] (State.putCore n c s) :=
  .setCores .refl

theorem State.resetCheckUnit_within {u} {s : State} : s.Within [.regs, .heldRS, .cvOwner] (State.resetCheckUnit u s) :=
  .iteStep (.overList (fun _ _ => (State.wrF_within).mono) .refl) (.setCvOwner (State.resetRegs_within).mono)

theorem State.coreDown_within {n} {s : State} : s.Within [.cores, .memory, .mem, .power] (State.coreDown n s) :=
  .setPower ((State.zeroStore_within).after (State.putCore_within).mono)

theorem State.clusterDown_within {c} {s : State} : s.Within [.regs, .heldRS, .memory, .mem, .power, .cvOwner] (State.clusterDown c s) :=
  .setMemoryPower ((State.resetCheckUnit_within).after (State.zeroPool_within).mono)

end Sys2Proof.Machine
end

section
/-! PROOFS. What the operations of Machine/Shared.lean may reach. -/
namespace Sys2Proof.Machine

theorem State.ringWrite_within {space fn a bytes} {s : State} : s.Within (Part.reporting [.hostMem, .memory, .mem])
    (State.ringWrite space fn a bytes s).2 :=
  .ite_snd (.pair_snd (State.hostWrite_within).mono) (.ite_snd (State.blockWrite_within).mono .refl)

theorem State.hostReading_within {s : State} : s.Within [.regs, .heldRS] (State.hostReading s) :=
  (State.commitRS_within).mono

theorem State.ringRead_within {space fn a n} {s : State} : s.Within (Part.reporting [.heldRS, .memory]) (State.ringRead space fn a n s).2 :=
  .ite_snd (.pair_snd (State.hostReading_within).mono) (.ite_snd .refl (.pair_snd (State.hbmRead_within).mono))

theorem State.feedContext_within {u x bytes} {s : State} : s.Within [.regs] (State.feedContext u x bytes s) :=
  (State.wr64_within).after ((State.wr64_within).after (State.wr64_within).mono)

theorem State.feedPath_within {src index bytes} {s : State} : s.Within [.regs] (State.feedPath src index bytes s) :=
  .overList (fun _ _ => (State.feedContext_within).mono) .refl

theorem State.putServing_within {p x} {s : State} : s.Within [.serving] (State.putServing p x s) :=
  .setServing .refl

theorem State.putSlot_within {sl x} {s : State} : s.Within [.serving] (State.putSlot sl x s) :=
  .setServing .refl

theorem State.updSlot_within {sl f} {s : State} : s.Within [.serving] (State.updSlot sl f s) :=
  (State.putSlot_within).mono

theorem State.slotEvent_within {sl} {s : State} : s.Within [.serving] (State.slotEvent sl s) :=
  (State.updSlot_within).mono

theorem State.putPartDealer_within {p d} {s : State} : s.Within [.dealer] (State.putPartDealer p d s) :=
  .setDealer .refl

theorem State.putMedia_within {m x} {s : State} : s.Within [.media] (State.putMedia m x s) :=
  .setMedia .refl

theorem State.updMedia_within {m f} {s : State} : s.Within [.media] (State.updMedia m f s) :=
  (State.putMedia_within).mono

theorem State.dropFetched_within {p q} {s : State} : s.Within [.dealer] (State.dropFetched p q s) :=
  .ite (State.putPartDealer_within).mono .refl

theorem State.dropWaiting_within {r} {s : State} : s.Within [.pcie] (State.dropWaiting r s) := by
  unfold State.dropWaiting
  split
  · exact .refl
  · exact .setPcie .refl

theorem State.stopRing_within {r} {s : State} : s.Within [.regs, .pcie, .dealer, .serving, .vision, .media] (State.stopRing r s) := by
  unfold State.stopRing
  dsimp only
  split
  · exact (State.wrN_within).after ((State.wrN_within).after ((State.wrN_within).after ((State.wrF_within).after ((State.dropFetched_within).after
        (State.dropWaiting_within).mono))))
  · exact (State.putPartDealer_within).after ((State.wrN_within).after ((State.wrN_within).after ((State.wrF_within).after
        (State.dropWaiting_within).mono)))
  · exact (State.wrN_within).after ((State.wrN_within).after ((State.wrF_within).after (State.dropWaiting_within).mono))
  · exact (State.putServing_within).after ((State.wrN_within).after ((State.wrN_within).after ((State.wrF_within).after
        (State.dropWaiting_within).mono)))
  · exact (State.wrN_within).after ((State.wrN_within).after ((State.wrF_within).after (State.dropWaiting_within).mono))
  · exact (State.updMedia_within).after ((State.wrN_within).after ((State.wrN_within).after ((State.wrF_within).after
        (State.dropWaiting_within).mono)))
  · exact .setVision ((State.wrN_within).after ((State.wrN_within).after ((State.wrF_within).after (State.dropWaiting_within).mono)))
  · exact (State.wrN_within).after ((State.wrN_within).after ((State.wrF_within).after (State.dropWaiting_within).mono))
  · exact (State.wrN_within).after ((State.wrN_within).after ((State.wrF_within).after (State.dropWaiting_within).mono))

theorem State.disableRing_within {r} {s : State} : s.Within [.regs, .pcie, .dealer, .serving, .talon, .vision, .media] (State.disableRing r s) := by
  unfold State.disableRing
  dsimp only
  split
  · exact .setTalon (State.stopRing_within).mono
  · exact (State.stopRing_within).mono

end Sys2Proof.Machine
end

section
/-! PROOFS. What the operations of Machine/MediaOps.lean may reach. -/
namespace Sys2Proof.Machine

theorem State.showCtx_within {m c} {s : State} : s.Within [.regs] (State.showCtx m c s) :=
  (State.wrF_within).after ((State.wrF_within).after ((State.wrN_within).after ((State.wrF_within).after ((State.wrF_within).after
      (State.wrF_within).mono))))

theorem State.putCtx_within {m c k} {s : State} : s.Within [.regs, .media] (State.putCtx m c k s) :=
  (State.showCtx_within).after (State.updMedia_within).mono

theorem State.dropCtx_within {m c} {s : State} : s.Within [.regs, .media] (State.dropCtx m c s) :=
  (State.showCtx_within).after (State.updMedia_within).mono

theorem State.putQueue_within {m c q} {s : State} : s.Within [.regs, .media] (State.putQueue m c q s) :=
  (State.showCtx_within).after (State.updMedia_within).mono

theorem State.updDec_within {m c f} {s : State} : s.Within [.regs, .media] (State.updDec m c f s) := by
  unfold State.updDec
  split
  · split
    · exact (State.putCtx_within).mono
    · exact .refl
  · exact .refl

theorem State.updEnc_within {m c f} {s : State} : s.Within [.regs, .media] (State.updEnc m c f s) := by
  unfold State.updEnc
  split
  · split
    · exact (State.putCtx_within).mono
    · exact .refl
  · exact .refl

theorem State.mcqPut_within {m p b} {s : State} : s.Within Part.entries (State.mcqPut m p b s) := by
  unfold State.mcqPut
  dsimp only
  split
  · next h1 => exact (State.stopRing_within).after (((State.ringWrite_within).snd h1).mono)
  · next h1 => exact .iteStep (State.msix_within).mono (.iteStep (State.updMedia_within).mono ((State.wrN_within).after
        (((State.ringWrite_within).snd h1).mono)))

theorem State.mediaEntry_within {m c st kind tag w1 w2 w3} {s : State} : s.Within Part.entries (State.mediaEntry m c st kind tag w1 w2 w3 s) := by
  unfold State.mediaEntry
  dsimp only
  split
  · exact (State.wrF_within).after (.ite (State.post_within).mono .refl)
  · exact .elseStep (.ite (State.updMedia_within).mono (State.mcqPut_within).mono) ((State.wrF_within).after (.ite (State.post_within).mono .refl))

theorem State.mediaAck_within {m c st tag} {s : State} : s.Within Part.entries (State.mediaAck m c st tag s) :=
  (State.mediaEntry_within).mono

theorem State.endCommand_within {m x st} {s : State} : s.Within Part.entries (State.endCommand m x st s) :=
  .ite (State.mediaEntry_within).mono (.ite (State.mediaEntry_within).mono (State.mediaAck_within).mono)

theorem State.mediaCount_within {m i n} {s : State} : s.Within [.regs] (State.mediaCount m i n s) :=
  (State.count_within).mono

theorem State.slotWords_within {d i words} {s : State} : s.Within (Part.reporting [.memory, .mem]) (State.slotWords d i words s).2 :=
  .foldl_snd (fun _ _ => .pair_snd (State.hbmWrite_within).mono) .refl

theorem State.slotWord_eq : @State.slotWord = fun d i w v s => (s.slotWords d i [(w, v)]).2 := rfl

theorem State.slotWord_within {d i w v} {s : State} : s.Within (Part.reporting [.memory, .mem]) (State.slotWord d i w v s) := by
  rw [State.slotWord_eq]
  exact State.slotWords_within

theorem State.setHolds_within {m c i holds} {s : State} : s.Within (Part.reporting [.memory, .mem, .media]) (State.setHolds m c i holds s) := by
  unfold State.setHolds
  split
  · exact .refl
  · exact (State.updDec_within).after (.iteStep (State.blockWrite_within).mono (State.slotWord_within).mono)

theorem State.unhold_within {m c i bit} {s : State} : s.Within (Part.reporting [.memory, .mem, .media]) (State.unhold m c i bit s) :=
  .ite (State.setHolds_within).mono .refl

theorem State.finishClose_within {m c} {s : State} : s.Within Part.entries (State.finishClose m c s) := by
  unfold State.finishClose
  split
  · exact .refl
  · split
    · exact .refl
    · exact .ite .refl ((State.mediaAck_within).after (State.dropCtx_within).mono)

theorem State.releaseClosedSlot_within {f} {s : State} : s.Within (Part.reporting [.memory, .mem]) (State.releaseClosedSlot f s) :=
  .iteStep ((State.blockWrite_within).after (State.hbmRead_within).mono) (State.blockWrite_within).mono

theorem State.releaseFrameSlot_within {f} {s : State} : s.Within (Part.reporting [.memory, .mem, .media]) (State.releaseFrameSlot f s) := by
  unfold State.releaseFrameSlot
  refine .ite .refl ?_
  split
  · exact .ite (State.unhold_within).mono (State.releaseClosedSlot_within).mono
  · exact (State.releaseClosedSlot_within).mono

end Sys2Proof.Machine
end

section
/-! PROOFS. What the operations of Machine/PipeOps.lean may reach. -/
namespace Sys2Proof.Machine

theorem State.putTag_within {sev p tag addr kind state count status} {s : State} : s.Within Part.tables
    (State.putTag sev p tag addr kind state count status s).2 := by
  conv in @State.putTag => delta State.putTag
  obtain ⟨write, hwrite⟩ := exists_eq' (a' := @State.hbmWrite)
  have hw := @State.hbmWrite_within
  rw [hwrite] at hw ⊢
  dsimp only
  split
  · next h1 => exact (hw.snd h1).mono
  · next h1 => exact .overList (fun _ _ => (State.slotEvent_within).mono) ((hw.snd h1).mono)

theorem State.writeTag_within {p tag addr kind state count status} {s : State} :
    s.Within Part.tables (State.writeTag p tag addr kind state count status s) := by
  conv in @State.writeTag => delta State.writeTag
  exact State.putTag_within

theorem State.postTagFailed_within {p tag st} {s : State} : s.Within Part.tables (State.postTagFailed p tag st s) :=
  (State.writeTag_within).mono

theorem State.putFrames_within {l} {s : State} : s.Within [.vision] (State.putFrames l s) :=
  .setVision .refl

theorem State.updFrame_within {p pipe slot f} {s : State} : s.Within [.vision] (State.updFrame p pipe slot f s) :=
  (State.putFrames_within).mono

theorem State.showFrames_within {p pipe} {s : State} : s.Within [.regs] (State.showFrames p pipe s) :=
  (State.wrN_within).mono

theorem State.writeFrameRecord_within {f} {s : State} : s.Within (Part.reporting [.memory, .mem]) (State.writeFrameRecord f s) := by
  conv in @State.writeFrameRecord => delta State.writeFrameRecord
  exact State.blockWrite_within

theorem State.forgetJobs_within {src} {s : State} : s.Within [.vision] (State.forgetJobs src s) :=
  .setVision .refl

theorem State.endFrame_within {f counter} {s : State} : s.Within (Part.reporting [.memory, .mem, .vision, .media]) (State.endFrame f counter s) :=
  (State.releaseFrameSlot_within).after ((State.showFrames_within).after ((State.count_within).after ((State.putFrames_within).after
      (State.forgetJobs_within).mono)))

theorem State.failFrame_within {f st} {s : State} : s.Within (Part.reporting [.memory, .mem, .serving, .vision, .media]) (State.failFrame f st s) :=
  (State.endFrame_within).after ((State.postTagFailed_within).after (.ite (State.post_within).mono .refl))

theorem State.submitEntry_within {p q addr bytes seq} {s : State} : s.Within (Part.reporting [.hostMem, .memory, .mem])
    (State.submitEntry p q addr bytes seq s) :=
  (State.wrN_within).after (State.ringWrite_within).mono

theorem State.flushSubmits_within {p q} {s : State} : s.Within (Part.reporting [.hostMem, .memory, .mem, .vision]) (State.flushSubmits p q s) :=
  .overList (fun _ _ => .elseStep (.setVision (State.submitEntry_within).mono) .refl) .refl

theorem State.startGraph_within {f q addr bytes} {s : State} :
    s.Within (Part.reporting [.hostMem, .memory, .mem, .serving, .vision, .media]) (State.startGraph f q addr bytes s) := by
  conv in @State.startGraph => delta State.startGraph
  obtain ⟨write, hwrite⟩ := exists_eq' (a' := @State.hbmWrite)
  have hw := @State.hbmWrite_within
  rw [hwrite] at hw ⊢
  refine .ite (State.failFrame_within).mono ?_
  split
  · next h1 => exact (State.failFrame_within).after (((State.hbmRead_within).snd₂ h1).mono)
  · next h1 =>
    dsimp only
    split
    · exact (State.failFrame_within).after (((State.hbmRead_within).snd₂ h1).mono)
    · split
      · next h2 => exact (State.failFrame_within).after ((hw.snd h2).after (((State.hbmRead_within).snd₂ h1).mono))
      · next h2 =>
        exact (State.flushSubmits_within).after (.setVision ((hw.snd h2).after (((State.hbmRead_within).snd₂ h1).mono)))

theorem State.putEdge_within {d e} {s : State} : s.Within [.vision] (State.putEdge d e s) :=
  .setVision .refl

theorem State.startEdge_within {f die count addr} {s : State} : s.Within (Part.reporting [.memory, .mem, .power, .serving, .vision, .media])
    (State.startEdge f die count addr s) := by
  unfold State.startEdge
  refine .ite (State.failFrame_within).mono ?_
  refine .ite (State.failFrame_within).mono ?_
  split
  · next h1 => exact (State.failFrame_within).after (((State.hbmRead_within).snd₂ h1).mono)
  · next h1 => exact .ite ((State.failFrame_within).after (((State.hbmRead_within).snd₂ h1).mono)) ((State.wake_within).after
        ((State.requestEngine_within).after ((State.updFrame_within).after ((State.putEdge_within).after (((State.hbmRead_within).snd₂ h1).mono)))))

theorem State.startReckon_within {f addr} {s : State} : s.Within (Part.reporting [.memory, .mem, .power, .serving, .vision, .media])
    (State.startReckon f addr s) := by
  unfold State.startReckon
  refine .ite (State.failFrame_within).mono ?_
  refine .ite (State.failFrame_within).mono ?_
  split
  · next h1 => exact (State.failFrame_within).after (((State.hbmRead_within).snd₂ h1).mono)
  · next h1 =>
      split
      · exact (State.failFrame_within).after (((State.hbmRead_within).snd₂ h1).mono)
      · exact (State.wake_within).after ((State.requestEngine_within).after ((State.updFrame_within).after (.setVision
            (((State.hbmRead_within).snd₂ h1).mono))))

theorem State.startStage_within {p pipe slot} {s : State} : s.Within (Part.reporting [.hostMem, .memory, .mem, .power, .serving, .vision, .media])
    (State.startStage p pipe slot s) := by
  unfold State.startStage
  split
  · exact .refl
  · refine .ite (State.failFrame_within).mono ?_
    split
    · next h1 => exact (State.failFrame_within).after (((State.hbmRead_within).snd₂ h1).mono)
    · next h1 =>
        refine .ite ((State.endFrame_within).after ((State.updFrame_within).after (((State.hbmRead_within).snd₂ h1).mono))) ?_
        refine .ite ((State.failFrame_within).after ((State.updFrame_within).after (((State.hbmRead_within).snd₂ h1).mono))) ?_
        dsimp only
        split
        · exact (State.startEdge_within).after ((State.updFrame_within).after (((State.hbmRead_within).snd₂ h1).mono))
        · exact (State.startGraph_within).after ((State.updFrame_within).after (((State.hbmRead_within).snd₂ h1).mono))
        · exact (State.startReckon_within).after ((State.updFrame_within).after (((State.hbmRead_within).snd₂ h1).mono))

theorem State.stageEnded_within {p pipe slot err} {s : State} : s.Within (Part.reporting [.hostMem, .memory, .mem, .power, .serving, .vision,
    .media]) (State.stageEnded p pipe slot err s) := by
  unfold State.stageEnded
  split
  · exact .refl
  · split
    · exact (State.failFrame_within).mono
    · exact (State.startStage_within).after (State.updFrame_within).mono

theorem State.jobDone_within {p pipe slot err} {s : State} : s.Within (Part.reporting [.hostMem, .memory, .mem, .power, .serving, .vision, .media])
    (State.jobDone p pipe slot err s) := by
  unfold State.jobDone
  split
  · exact .refl
  · exact .iteStep (State.stageEnded_within).mono (State.updFrame_within).mono

theorem State.pipelineGraphEnded_within {p pipe slot q st} {s : State} : s.Within (Part.reporting [.hostMem, .memory, .mem, .power, .serving,
    .vision, .media]) (State.pipelineGraphEnded p pipe slot q st s) :=
  (State.stageEnded_within).after (State.wrN_within).mono

theorem State.beginFrame_within {f} {s : State} : s.Within (Part.reporting [.hostMem, .memory, .mem, .power, .serving, .vision, .media])
    (State.beginFrame f s) :=
  .ite ((State.updFrame_within).after ((State.hbmRead_within).after (State.writeFrameRecord_within).mono)) ((State.startStage_within).after
      ((State.hbmRead_within).after (State.writeFrameRecord_within).mono))

end Sys2Proof.Machine
end

section
/-! PROOFS. What the operations of Machine/UpdateOps.lean may reach. -/
namespace Sys2Proof.Machine

theorem cellsWf_programRecord {sectors : Nat × Nat} {seq : Nat} {b : List Byte} {m : List Host.Cell} (h : cellsWf 0xFF m = true) :
    cellsWf 0xFF (programRecord sectors seq b m) = true := by
  refine cellsWf_write _ _ ?_
  split
  · exact cellsWf_clear h _ _
  · exact h

theorem State.cellsWf_controlCells {s : State} (h : cellsWf 0xFF s.update.control = true) : cellsWf 0xFF s.controlCells = true := by
  unfold State.controlCells
  split
  · exact cellsWf_programRecord h
  · exact h

theorem State.writeBoot_within {r} {s : State} : s.Within [.update] (State.writeBoot r s) := by
  unfold State.writeBoot
  refine .setNor .refl id fun h => ?_
  dsimp only
  exact cellsWf_programRecord (State.cellsWf_controlCells h)

theorem State.loadBoot_within {s : State} : s.Within [.update] (State.loadBoot s) := by
  unfold State.loadBoot
  split
  · exact .setNor .refl id State.cellsWf_controlCells
  · exact .refl

theorem State.putStaging_within {r} {s : State} : s.Within [.update] (State.putStaging r s) := by
  unfold State.putStaging
  refine .setNor .refl id fun h => ?_
  dsimp only
  exact cellsWf_programRecord h

theorem State.norWrite_within {off b} {s : State} : s.Within [.update] (State.norWrite off b s) :=
  .setNor .refl (cellsWf_write _ _) id

theorem State.norErase_within {off n} {s : State} : s.Within [.update] (State.norErase off n s) :=
  .setNor .refl (cellsWf_clear · _ _) id

theorem State.showUpdate_within {s : State} : s.Within [.regs] (State.showUpdate s) := by
  unfold State.showUpdate
  dsimp only
  split
  · exact .overList (fun _ _ => (State.wrN_within).mono) ((State.wrF_within).after ((State.wrF_within).after ((State.wrF_within).after
        ((State.wrF_within).after ((State.wrF_within).after ((State.wrF_within).after (.overList (fun _ _ => (State.wrN_within).after
        ((State.wrN_within).after (State.wrN_within).mono)) (State.wrF_within).mono)))))))
  · exact .overList (fun _ _ => (State.wrN_within).mono) ((State.wrN_within).after ((State.wrF_within).after ((State.wrF_within).after
        ((State.wrF_within).after ((State.wrF_within).after (.overList (fun _ _ => (State.wrN_within).after ((State.wrN_within).after
        (State.wrN_within).mono)) (State.wrF_within).mono))))))

theorem State.bootSlot_within {k fellBack} {s : State} : s.Within [.regs, .update] (State.bootSlot k fellBack s) :=
  .setUpdate ((State.wrF_within).after (State.wrF_within).mono)

theorem State.bootConfirmed_within {damaged fellBack} {s : State} : s.Within (Part.reporting [.update]) (State.bootConfirmed damaged fellBack s).2 :=
  .ite_snd (.pair_snd (State.bootSlot_within).mono) (.ite_snd (.pair_snd ((State.bootSlot_within).after ((State.writeBoot_within).after
      (State.post_within).mono))) .refl)

theorem State.selectSlot_within {damaged} {s : State} : s.Within (Part.reporting [.update]) (State.selectSlot damaged s).2 := by
  unfold State.selectSlot
  dsimp only
  split
  · exact (State.bootConfirmed_within).mono
  · exact .ite_snd (.pair_snd ((State.bootSlot_within).after (State.writeBoot_within).mono)) ((State.bootConfirmed_within).after
        ((State.post_within).after ((State.count_within).after (State.writeBoot_within).mono)))

end Sys2Proof.Machine
end

section
/-! PROOFS. What the operations of Machine/DealerOps.lean may reach. -/
namespace Sys2Proof.Machine

theorem State.updGraph_within {uid f} {s : State} : s.Within [.dealer] (State.updGraph uid f s) :=
  .setDealer .refl

theorem State.dropGraph_within {uid} {s : State} : s.Within [.dealer] (State.dropGraph uid s) :=
  .setDealer .refl

theorem State.writeRecord_within {g t} {s : State} : s.Within (Part.reporting [.memory, .mem]) (State.writeRecord g t s) := by
  unfold State.writeRecord
  split
  · exact (State.blockWrite_within).mono
  · exact .refl

theorem State.postCompletion_within {p c} {s : State} : s.Within Part.entries (State.postCompletion p c s) := by
  unfold State.postCompletion
  refine .ite .refl ?_
  refine .ite (State.putPartDealer_within).mono ?_
  dsimp only
  split
  · next h1 => exact (State.stopRing_within).after (((State.ringWrite_within).snd h1).mono)
  · next h1 => exact .iteStep (State.msix_within).mono (.iteStep (State.putPartDealer_within).mono ((State.wrN_within).after
        (((State.ringWrite_within).snd h1).mono)))

theorem State.finishGraph_within {uid} {s : State} : s.Within Part.submission (State.finishGraph uid s) := by
  unfold State.finishGraph
  split
  · exact .refl
  · refine .ite .refl ?_
    dsimp only
    split
    · exact (State.postCompletion_within).after (.iteStep (State.post_within).mono (State.dropGraph_within).mono)
    · exact (State.pipelineGraphEnded_within).after ((State.postCompletion_within).after (State.dropGraph_within).mono)
    · exact .setDealer (State.dropGraph_within).mono
    · exact (State.dropGraph_within).mono
    · exact (State.dropGraph_within).mono

theorem State.detachTask_within {uid tid} {s : State} : s.Within [.regs, .cvOwner, .ndx] (State.detachTask uid tid s) :=
  .overList (fun _ _ => .iteStep ((State.wrF_within).after (State.wrF_within).mono) (State.wrF_within).mono) (.setNdx (.setCvOwner .refl))

theorem State.freeCore_within {n} {s : State} : s.Within [.cores, .power] (State.freeCore n s) :=
  .setPower (State.putCore_within).mono

theorem State.markCore_within {n cause} {s : State} : s.Within [.regs, .ledger] (State.markCore n cause s) :=
  (State.ledgerPut_within).after ((State.wrF_within).after (State.putBit_within).mono)

theorem State.markCluster_within {c cause} {s : State} : s.Within [.regs] (State.markCluster c cause s) :=
  (State.wrF_within).after (State.putBit_within).mono

theorem State.bumpEpoch_within {s : State} : s.Within Part.reports (State.bumpEpoch s) :=
  (State.setAlert_within).after ((State.ledgerRecord_within).after ((State.wrN_within).after (State.wrN_within).mono))

theorem State.dropWrites_within {n} {s : State} : s.Within [.regs, .ledger, .cores] (State.dropWrites n s) :=
  (State.ledgerAdd_within).after ((State.count_within).after (State.putCore_within).mono)

theorem State.commitReset_within {s : State} : s.Within [.regs, .heldRS] (State.commitReset s) :=
  (State.commitRS_within).mono

theorem State.foldIdle_within {n cause} {s : State} : s.Within (Part.reporting [.cores, .memory, .mem, .power]) (State.foldIdle n cause s) :=
  .ite .refl (.ite (.setMgmt .refl) ((State.coreDown_within).after ((State.postAt_within).after ((State.count_within).after
      ((State.bumpEpoch_within).after ((State.ledgerRecord_within).after ((State.ledgerAdd_within).after (State.markCore_within).mono)))))))

theorem State.checkFirmware_within {n} {s : State} : s.Within (Part.reporting [.cores, .memory, .mem, .power]) (State.checkFirmware n s) :=
  .ite .refl (.ite (State.putCore_within).mono (State.foldIdle_within).mono)

theorem State.resetCore_within {n} {s : State} : s.Within [.cores, .power] (State.resetCore n s) :=
  .setPower (State.putCore_within).mono

theorem State.resetCovered_within {cores} {s : State} : s.Within [.regs, .heldRS, .cvOwner] (State.resetCovered cores s) :=
  .overList (fun _ _ => .iteStep (State.resetCheckUnit_within).mono .refl) .refl

theorem State.resetCores_within {cores} {s : State} : s.Within (Part.reporting [.heldRS, .cores, .memory, .mem, .power, .cvOwner])
    (State.resetCores cores s) :=
  .ite .refl (.overList (fun _ _ => (State.checkFirmware_within).mono) ((State.resetCovered_within).after (.overList (fun _ _ =>
      (State.post_within).after ((State.count_within).after (State.resetCore_within).mono)) (State.commitReset_within).mono)))

theorem State.failTask_within {uid tid status} {s : State} : s.Within Part.failure (State.failTask uid tid status s) := by
  unfold State.failTask
  split
  · exact .refl
  · refine .ite .refl ?_
    dsimp only
    split
    · exact (State.updGraph_within).after (.iteStep (State.post_within).mono ((State.detachTask_within).after ((State.endBoost_within).after
          (State.resetCores_within).mono)))
    · refine (State.finishGraph_within).after ?_
      refine .iteStep (State.wake_within).mono ?_
      refine .overList (fun _ _ => ?_) ((State.updGraph_within).after ((State.updGraph_within).after (.iteStep (State.post_within).mono
          ((State.detachTask_within).after ((State.endBoost_within).after (State.resetCores_within).mono)))))
      split
      · exact (State.writeRecord_within).after (.elseStep (State.post_within).mono .refl)
      · exact .refl

theorem State.failOnCore_within {n status} {s : State} : s.Within Part.failure (State.failOnCore n status s) := by
  unfold State.failOnCore
  split
  · exact (State.failTask_within).mono
  · exact .refl

theorem State.foldCore_within {n cause} {s : State} : s.Within Part.failure (State.foldCore n cause s) :=
  .ite .refl (.ite (State.foldIdle_within).mono ((State.foldIdle_within).after ((State.failOnCore_within).after ((State.dropWrites_within).after
      (State.commitReset_within).mono))))

theorem State.foldCluster_within {c cause} {s : State} : s.Within Part.failure (State.foldCluster c cause s) :=
  .ite .refl (.ite (.setMgmt .refl) ((State.clusterDown_within).after (.overList (fun _ _ => (State.coreDown_within).mono)
      ((State.postAt_within).after ((State.count_within).after ((State.bumpEpoch_within).after ((State.ledgerRecord_within).after
      ((State.ledgerAdd_within).after ((State.markCluster_within).after (.overList (fun _ _ => (State.markCore_within).mono) (.overList (fun _ _ =>
      (State.failOnCore_within).mono) (.overList (fun _ _ => (State.dropWrites_within).mono) (State.commitReset_within).mono))))))))))))

theorem State.sramFold_within {a} {s : State} : s.Within Part.failure (State.sramFold a s) := by
  unfold State.sramFold
  split
  · exact (State.foldCore_within).mono
  · exact (State.foldCluster_within).mono
  · exact .refl

theorem State.failSram_within {core a status} {s : State} : s.Within Part.failure (State.failSram core a status s) := by
  unfold State.failSram
  refine .ite ?_ (State.failOnCore_within).mono
  refine (State.sramFold_within).after ?_
  refine (State.failOnCore_within).after ?_
  split
  · exact .ite .refl (State.dropWrites_within).mono
  · exact .ite .refl (.overList (fun _ _ => (State.dropWrites_within).mono) .refl)
  · exact .refl

end Sys2Proof.Machine
end

section
/-! PROOFS. What the operations of Machine/Cores.lean may reach. -/
namespace Sys2Proof.Machine

theorem State.updCore_within {n f} {s : State} : s.Within [.cores] (State.updCore n f s) :=
  (State.putCore_within).mono

theorem State.raise_within {n fl} {s : State} : s.Within [.cores] (State.raise n fl s) :=
  (State.updCore_within).mono

theorem State.Within.useStore {Q : List Part} {s t : State} {n off len k} (hk : ∀ b (u : State), u.Within Q (k b u)) (h : s.Within Q t)
    (hQ : autoParam (Part.Fits Part.failure Q) Nat.toPNat._auto_1) : s.Within Q (t.useStore n off len k) := by
  refine .chain ?_ h
  unfold State.useStore
  refine .ite ((State.failOnCore_within).of_subset (Part.subset_of_bits hQ)) ?_
  split
  · next h1 => exact .of_subset (P := Part.failure) ((State.failSram_within).after ((State.sramRead_within).snd h1).mono) (Part.subset_of_bits hQ)
  · next h1 => exact (hk _ _).chain (.of_subset (P := Part.failure) ((State.sramRead_within).snd h1).mono (Part.subset_of_bits hQ))

theorem State.putStore_within {n off bytes} {s : State} : s.Within Part.failure (State.putStore n off bytes s) := by
  unfold State.putStore
  refine .ite (State.failOnCore_within).mono ?_
  split
  · next h1 => exact (State.failSram_within).after (((State.sramWrite_within).snd h1).mono)
  · next h1 => exact ((State.sramWrite_within).snd h1).mono

theorem State.collide_within {w} {s : State} : s.Within [.cores, .memory] (State.collide w s) :=
  .overList (fun _ _ => .setMemory .refl) (.overList (fun _ _ => (State.updCore_within).mono) .refl)

theorem State.stalled_within {n cycles} {s : State} : s.Within [.cores] (State.stalled n cycles s) :=
  (State.updCore_within).mono

theorem State.waited_within {n w} {s : State} : s.Within [.cores, .memory] (State.waited n w s) :=
  (State.collide_within).after (State.stalled_within).mono

theorem State.arrayRow_within {n op} {s : State} : s.Within Part.failure (State.arrayRow n op s) := by
  unfold State.arrayRow
  dsimp only
  split
  · exact (State.failOnCore_within).mono
  · exact .useStore (fun _ _ => .useStore (fun _ _ => (State.updCore_within).mono) .refl) .refl

theorem State.landRow_within {n row} {s : State} : s.Within Part.failure (State.landRow n row s) := by
  unfold State.landRow
  split
  · exact .refl
  · exact .useStore (fun _ _ => (State.putStore_within).after (State.raise_within).mono) (State.updCore_within).mono

theorem State.loadTile_within {n t} {s : State} : s.Within Part.failure (State.loadTile n t s) := by
  unfold State.loadTile
  split
  · exact (State.failOnCore_within).mono
  · exact .useStore (fun _ _ => .useStore (fun _ _ => (State.updCore_within).mono) .refl) .refl

theorem State.swapTiles_within {n} {s : State} : s.Within [.cores] (State.swapTiles n s) :=
  (State.updCore_within).mono

theorem State.outputStage_within {n op} {s : State} : s.Within Part.failure (State.outputStage n op s) := by
  unfold State.outputStage
  split
  · exact (State.failOnCore_within).mono
  · exact (State.failOnCore_within).mono
  · exact .useStore (fun _ _ => .useStore (fun _ _ => .useStore (fun _ _ => (State.putStore_within).after (State.updCore_within).mono) .refl) .refl)
        .refl

theorem State.putVreg_within {n r v} {s : State} : s.Within [.cores] (State.putVreg n r v s) :=
  (State.updCore_within).mono

theorem State.vectorArith_within {n f op a b c dst} {s : State} : s.Within Part.failure (State.vectorArith n f op a b c dst s) := by
  unfold State.vectorArith
  dsimp only
  split
  · split
    · exact (State.failOnCore_within).mono
    · exact (State.putVreg_within).mono
  · split
    · exact (State.failOnCore_within).mono
    · exact (State.putVreg_within).after (State.raise_within).mono

theorem State.putLow_within {n dst bits v inputs} {s : State} : s.Within [.cores] (State.putLow n dst bits v inputs s) :=
  (State.putVreg_within).mono

theorem State.vectorConvert_within {n src dst a d} {s : State} : s.Within Part.failure (State.vectorConvert n src dst a d s) :=
  .ite (State.failOnCore_within).mono (.ite ((State.putVreg_within).after (State.updCore_within).mono) ((State.putLow_within).after
      (State.updCore_within).mono))

theorem State.mxConvert_within {n bf a block elemsAt scaleAt} {s : State} : s.Within Part.failure (State.mxConvert n bf a block elemsAt scaleAt s) :=
  .ite (State.failOnCore_within).mono ((State.putStore_within).after ((State.putStore_within).after (State.updCore_within).mono))

theorem State.vectorCompare_within {n bf p a b dst} {s : State} : s.Within [.cores] (State.vectorCompare n bf p a b dst s) :=
  (State.putVreg_within).after (State.raise_within).mono

theorem State.vectorSelect_within {n half cond a b dst} {s : State} : s.Within [.cores] (State.vectorSelect n half cond a b dst s) :=
  (State.putVreg_within).mono

theorem State.vectorReduce_within {n f op a dst} {s : State} : s.Within [.cores] (State.vectorReduce n f op a dst s) :=
  (State.putLow_within).after (State.raise_within).mono

theorem State.vectorPermute_within {n half idx a dst} {s : State} : s.Within [.cores] (State.vectorPermute n half idx a dst s) :=
  (State.putVreg_within).mono

theorem State.vectorMove_within {n load r off} {s : State} : s.Within Part.failure (State.vectorMove n load r off s) :=
  .ite (.useStore (fun _ _ => (State.putVreg_within).mono) .refl) (State.putStore_within).mono

theorem State.sfuOp_within {n fn bf a g dst} {s : State} : s.Within [.cores] (State.sfuOp n fn bf a g dst s) := by
  unfold State.sfuOp
  exact (State.updCore_within).mono

theorem State.sfuReturn_within {n} {s : State} : s.Within [.cores] (State.sfuReturn n s) := by
  unfold State.sfuReturn
  split
  · exact .refl
  · exact (State.putVreg_within).after (State.updCore_within).mono

theorem State.writePage_within {n off v} {s : State} : s.Within [.cores] (State.writePage n off v s) :=
  (State.updCore_within).mono

theorem State.control_within {n op} {s : State} : s.Within Part.failure (State.control n op s) := by
  unfold State.control
  split
  · exact (State.updCore_within).mono
  · exact .ite (State.failOnCore_within).mono (State.writePage_within).mono
  · exact .ite (State.failOnCore_within).mono (State.putStore_within).mono

theorem State.haltCore_within {n} {s : State} : s.Within [.cores] (State.haltCore n s) :=
  (State.updCore_within).mono

theorem State.snoop_within {ctxs read written} {s : State} : s.Within [.regs] (State.snoop ctxs read written s) :=
  .overList (fun _ _ => .iteStep (State.feedContext_within).mono .refl) .refl

theorem State.refuseAccess_within {n a st} {s : State} : s.Within Part.failure (State.refuseAccess n a st s) :=
  (State.failOnCore_within).after (.ite (State.postMem_within).mono .refl)

theorem State.readAll_within {len l x1} {s : State} : s.Within (Part.reporting [.memory]) (State.readAll len l x1 s).2 := by
  induction l generalizing x1 s with
  | nil => exact .refl
  | cons _ _ ih =>
    rw [State.readAll]
    split
    · next h1 => exact .pair_snd (((State.globalRead_within).snd₂ h1).mono)
    · next h1 => exact ih.after (((State.globalRead_within).snd₂ h1).mono)

theorem State.writeAll_within {len l x1} {s : State} : s.Within (Part.reporting [.memory, .mem]) (State.writeAll len l x1 s).2 := by
  induction l generalizing x1 s with
  | nil => exact .refl
  | cons _ _ ih =>
    rw [State.writeAll]
    split
    · next h1 => exact .pair_snd (((State.globalWrite_within).snd h1).mono)
    · next h1 => exact ih.after (((State.globalWrite_within).snd h1).mono)

theorem State.bumpDone_within {n q} {s : State} : s.Within [.cores] (State.bumpDone n q s) :=
  (State.updCore_within).mono

theorem State.performMove_within {n q d pairs ctxs} {s : State} : s.Within Part.failure (State.performMove n q d pairs ctxs s) := by
  unfold State.performMove
  split
  · next h1 => exact (State.failSram_within).after (((State.readAll_within).snd h1).mono)
  · next h1 =>
      split
      · next h2 => exact (State.failSram_within).after (((State.writeAll_within).snd h2).after (((State.readAll_within).snd h1).mono))
      · next h2 => exact (State.bumpDone_within).after ((State.snoop_within).after (((State.writeAll_within).snd h2).after
            (((State.readAll_within).snd h1).mono)))

theorem State.rejectDescriptor_within {n} {s : State} : s.Within Part.failure (State.rejectDescriptor n s) :=
  (State.failOnCore_within).mono

theorem State.streamMove_within {n q d} {s : State} : s.Within Part.failure (State.streamMove n q d s) := by
  unfold State.streamMove
  refine .ite (State.rejectDescriptor_within).mono ?_
  split
  · exact .refl
  · split
    · exact (State.refuseAccess_within).mono
    · exact .ite (State.updCore_within).mono (State.performMove_within).mono

theorem State.streamComplete_within {n q} {s : State} : s.Within Part.failure (State.streamComplete n q s) := by
  unfold State.streamComplete
  split
  · split
    · exact (State.refuseAccess_within).mono
    · exact (State.performMove_within).after (State.updCore_within).mono
  · exact .refl

theorem State.walk_within {n p d l x1 x2} {s : State} : s.Within (Part.reporting [.memory, .mem]) (State.walk n p d l x1 x2 s).2 := by
  induction l generalizing x1 x2 s with
  | nil => exact .refl
  | cons _ _ ih =>
    rw [State.walk]
    split
    · dsimp only
      split
      · next h1 => exact .pair_snd (((State.sramWrite_within).snd h1).mono)
      · next h1 => exact ih.after (((State.sramWrite_within).snd h1).mono)
    · split
      · exact .ite (State.postMem_within).mono .refl
      · split
        · next h2 => exact .pair_snd (((State.globalRead_within).snd₂ h2).mono)
        · next h2 =>
            split
            · next h3 => exact .pair_snd (((State.sramWrite_within).snd h3).after (((State.globalRead_within).snd₂ h2).mono))
            · next h3 => exact ih.after (((State.sramWrite_within).snd h3).after (((State.globalRead_within).snd₂ h2).mono))

theorem State.tapWalk_within {n q words} {s : State} : s.Within Part.failure (State.tapWalk n q words s) := by
  unfold State.tapWalk
  dsimp only
  split
  · exact .refl
  · refine .ite (State.rejectDescriptor_within).mono ?_
    refine .ite ((State.bumpDone_within).after (State.updCore_within).mono) ?_
    split
    · next h1 => exact (State.failSram_within).after (((State.walk_within).snd h1).mono)
    · next h1 => exact (State.bumpDone_within).after ((State.snoop_within).after (((State.walk_within).snd h1).mono))

theorem State.Answers.onBody {Q : List Part} {s t : State} {n f} (hf : ∀ u : State, u.Within Q (f u)) (h : s.Within Q t) :
    s.Answers Q (onBody n f t) :=
  .next (.iteStep (hf t) h)

theorem State.Answers.onBodyWaiting {Q : List Part} {s t : State} {n w f} (hf : ∀ u : State, u.Within Q (f u)) (h : s.Within Q t)
    (hQ : autoParam (Part.Fits [.cores, .memory] Q) Nat.toPNat._auto_1) : s.Answers Q (onBodyWaiting n w f t) :=
  .onBody (fun _ => (hf _).chain ((State.waited_within).after .refl hQ)) h

theorem State.Answers.onTurn {Q : List Part} {s t : State} {x f} (hf : ∀ n (u : State), u.Within Q (f n u)) (h : s.Within Q t)
    (hQ : autoParam (Part.Fits [.cores, .memory] Q) Nat.toPNat._auto_1) : s.Answers Q (onTurn x f t) :=
  .onBodyWaiting (fun u => hf _ u) h hQ

theorem execArrayOp_answers {x op} {s : State} : s.Answers Part.failure (execArrayOp x op s) :=
  .onTurn (fun _ _ => (State.arrayRow_within).mono) .refl

theorem execArrayResultLand_answers {x} {s : State} : s.Answers Part.failure (execArrayResultLand x s) :=
  .next (.ite ((State.landRow_within).after (State.waited_within).mono) .refl)

theorem execWeightTileLoad_answers {x t} {s : State} : s.Answers Part.failure (execWeightTileLoad x t s) :=
  .onTurn (fun _ _ => (State.loadTile_within).mono) .refl

theorem execArraySwap_answers {x} {s : State} : s.Answers [.cores] (execArraySwap x s) :=
  .onBody (fun _ => (State.swapTiles_within).after (State.stalled_within).mono) .refl

theorem execOutputStage_answers {x op} {s : State} : s.Answers Part.failure (execOutputStage x op s) :=
  .onTurn (fun _ _ => (State.outputStage_within).mono) .refl

theorem execVectorArithmetic_answers {core f op a b c dst} {s : State} : s.Answers Part.failure (execVectorArithmetic core f op a b c dst s) :=
  .onBody (fun _ => (State.vectorArith_within).mono) .refl

theorem execVectorConvert_answers {core src dst a d} {s : State} : s.Answers Part.failure (execVectorConvert core src dst a d s) :=
  .onBody (fun _ => (State.vectorConvert_within).mono) .refl

theorem execMxfp4BlockConvert_answers {x bf a block elemsAt scaleAt} {s : State} : s.Answers Part.failure
    (execMxfp4BlockConvert x bf a block elemsAt scaleAt s) :=
  .onTurn (fun _ _ => (State.mxConvert_within).mono) .refl

theorem execVectorCompare_answers {core bf p a b dst} {s : State} : s.Answers [.cores] (execVectorCompare core bf p a b dst s) :=
  .onBody (fun _ => (State.vectorCompare_within).mono) .refl

theorem execVectorSelect_answers {core half cond a b dst} {s : State} : s.Answers [.cores] (execVectorSelect core half cond a b dst s) :=
  .onBody (fun _ => (State.vectorSelect_within).mono) .refl

theorem execVectorReduce_answers {core f op a dst} {s : State} : s.Answers [.cores] (execVectorReduce core f op a dst s) :=
  .onBody (fun _ => (State.vectorReduce_within).mono) .refl

theorem execVectorPermute_answers {core half idx a dst} {s : State} : s.Answers [.cores] (execVectorPermute core half idx a dst s) :=
  .onBody (fun _ => (State.vectorPermute_within).mono) .refl

theorem execVectorLoadStore_answers {core load r off w} {s : State} : s.Answers Part.failure (execVectorLoadStore core load r off w s) :=
  .onBodyWaiting (fun _ => (State.vectorMove_within).mono) .refl

theorem execSfuOp_answers {core fn bf a g dst} {s : State} : s.Answers [.cores] (execSfuOp core fn bf a g dst s) :=
  .onBody (fun _ => (State.sfuOp_within).mono) .refl

theorem execSfuResult_answers {core} {s : State} : s.Answers [.cores] (execSfuResult core s) :=
  .next (.ite (State.sfuReturn_within).mono .refl)

theorem execControlWait_answers {core op w} {s : State} : s.Answers Part.failure (execControlWait core op w s) :=
  .ite (.onBody (fun _ => (State.control_within).mono) .refl) (.onBodyWaiting (fun _ => (State.control_within).mono) .refl)

theorem execHalt_answers {core} {s : State} : s.Answers [.cores] (execHalt core s) :=
  .onBody (fun _ => (State.haltCore_within).mono) .refl

theorem execCoreFault_answers {core fw} {s : State} : s.Answers Part.failure (execCoreFault core fw s) :=
  .onBody (fun _ => (State.failOnCore_within).mono) (State.upset_within).mono

end Sys2Proof.Machine
end

section
/-! PROOFS. What the operations of Machine/RegWrite.lean may reach. -/
namespace Sys2Proof.Machine

theorem State.writeReg_within {running off v} {s : State} : s.Within (Part.reporting [.heldRS]) (State.writeReg running off v s) := by
  unfold State.writeReg
  split
  · exact .refl
  · exact .iteStep (State.post_within).mono (.elseStep (.setHeldRS .refl) (State.wrN_within).mono)

theorem State.aerError_within {s : State} : s.Within [.regs, .ledger] (State.aerError s) :=
  (State.ledgerAdd_within).after (State.count_within).mono

theorem State.ringPointer_within {d off log2 bad} {s : State} : s.Within (Part.reporting [.power]) (State.ringPointer d off log2 bad s) :=
  .ite ((State.emit_within).after (State.aerError_within).mono) (.chain (.ite (State.post_within).mono (State.wrN_within).mono) (.ite
      (State.wake_within).mono .refl))

end Sys2Proof.Machine
end

section
/-! PROOFS. What the operations of Machine/CheckUnits.lean may reach. -/
namespace Sys2Proof.Machine

theorem State.showResult_within {u x} {s : State} : s.Within [.regs] (State.showResult u x s) :=
  (State.wr64_within).mono

theorem State.startContext_within {u x keep} {s : State} : s.Within [.regs] (State.startContext u x keep s) :=
  .ite (State.showResult_within).mono ((State.showResult_within).after ((State.wr64_within).after (State.wr64_within).mono))

theorem State.loadContext_within {u d} {s : State} : s.Within [.regs] (State.loadContext u d s) :=
  .iteStep (State.wr64_within).mono ((State.wrF_within).after ((State.wrF_within).after (State.wrF_within).mono))

theorem State.Within.onContext {Q : List Part} {s t : State} {n d ok f} (hf : ∀ (u : State) a b, u.Within Q (f u a b)) (h : s.Within Q t)
    (hQ : autoParam (Part.Fits Part.failure Q) Nat.toPNat._auto_1) : s.Within Q (t.onContext n d ok f) := by
  refine .chain ?_ h
  unfold State.onContext
  split
  · exact .refl
  · exact .ite (hf _ _ _) ((State.rejectDescriptor_within).of_subset (Part.subset_of_bits hQ))

theorem State.cvAttach_within {n q d} {s : State} : s.Within Part.failure (State.cvAttach n q d s) :=
  .onContext (fun _ _ _ => (State.bumpDone_within).after ((State.startContext_within).after (.setCvOwner ((State.wrF_within).after
      ((State.wrF_within).after ((State.wrF_within).after ((State.wrF_within).after ((State.wrF_within).after ((State.wrF_within).after
      (State.loadContext_within).mono))))))))) .refl

theorem State.detachContext_within {u x} {s : State} : s.Within [.regs, .cvOwner] (State.detachContext u x s) :=
  .setCvOwner ((State.wrF_within).after ((State.wrF_within).after (State.wrF_within).mono))

theorem State.cvDetach_within {n q d} {s : State} : s.Within Part.failure (State.cvDetach n q d s) :=
  .onContext (fun _ _ _ => (State.bumpDone_within).after (.iteStep (State.detachContext_within).mono .refl)) .refl

theorem State.cvSave_within {n q d} {s : State} : s.Within Part.failure (State.cvSave n q d s) := by
  unfold State.cvSave
  refine .onContext (fun _ _ _ => ?_) .refl
  split
  · next h1 => exact (State.failSram_within).after (((State.globalWrite_within).snd h1).mono)
  · next h1 => exact (State.bumpDone_within).after (((State.globalWrite_within).snd h1).mono)

theorem State.cvRestore_within {n q d} {s : State} : s.Within Part.failure (State.cvRestore n q d s) := by
  unfold State.cvRestore
  refine .onContext (fun _ _ _ => ?_) .refl
  split
  · next h1 => exact (State.failSram_within).after (((State.globalRead_within).snd₂ h1).mono)
  · next h1 => exact (State.bumpDone_within).after ((State.showResult_within).after ((State.wrF_within).after ((State.wrF_within).after
        ((State.wrF_within).after ((State.wr64_within).after ((State.wr64_within).after (((State.globalRead_within).snd₂ h1).mono)))))))

theorem State.cvFeed_within {n q d} {s : State} : s.Within Part.failure (State.cvFeed n q d s) := by
  unfold State.cvFeed
  refine .onContext (fun _ _ _ => ?_) .refl
  split
  · next h1 => exact (State.failSram_within).after (((State.globalRead_within).snd₂ h1).mono)
  · next h1 => exact (State.bumpDone_within).after ((State.wrF_within).after ((State.feedContext_within).after ((State.startContext_within).after
        ((State.loadContext_within).after (((State.globalRead_within).snd₂ h1).mono)))))

theorem State.writeCtrl_within {u x value} {s : State} : s.Within (Part.reporting [.heldRS]) (State.writeCtrl u x value s) :=
  (State.writeReg_within).mono

theorem State.hostAttach_within {u x value} {s : State} : s.Within (Part.reporting [.heldRS]) (State.hostAttach u x value s) :=
  .ite ((State.post_within).after (State.writeCtrl_within).mono) (.elseStep (.ite (State.post_within).mono ((State.startContext_within).after
      ((State.wrF_within).after (State.wrF_within).mono))) (State.writeCtrl_within).mono)

theorem State.hostDetach_within {u x value} {s : State} : s.Within (Part.reporting [.heldRS, .cvOwner]) (State.hostDetach u x value s) :=
  .ite ((State.detachContext_within).after (State.writeCtrl_within).mono) (.elseStep (State.showResult_within).mono (State.writeCtrl_within).mono)

theorem execHostCvAttach_answers {u x value} {s : State} : s.Answers (Part.reporting [.heldRS]) (execHostCvAttach u x value s) :=
  .next (.ite (State.hostAttach_within).mono .refl)

theorem execHostCvDetach_answers {u x value} {s : State} : s.Answers (Part.reporting [.heldRS, .cvOwner]) (execHostCvDetach u x value s) :=
  .next (.ite (State.hostDetach_within).mono .refl)

end Sys2Proof.Machine
end

section
/-! PROOFS. What the operations of Machine/Dealer.lean may reach. -/
namespace Sys2Proof.Machine

theorem State.packetTasks_within {p e} {s : State} : s.Within (Part.reporting [.memory]) (State.packetTasks p e s).2.2 :=
  .ite_snd₂ .refl (.ite_snd₂ .refl (State.hbmRead_within).mono)

theorem State.fetchFrom_within {p l} {s : State} : s.Within (Part.reporting [.heldRS, .hostMem, .memory, .mem, .dealer, .serving, .vision, .media])
    (State.fetchFrom p l s) := by
  induction l generalizing s with
  | nil => exact .refl
  | cons _ _ ih =>
    rw [State.fetchFrom]
    refine .ite (ih.mono) ?_
    dsimp only
    split
    · next h1 => exact ih.after ((State.stopRing_within).after (((State.ringRead_within).snd h1).mono))
    · next h1 => exact .ite (ih.after (((State.ringRead_within).snd h1).mono)) (.ite ((State.packetTasks_within).after
          (((State.ringRead_within).snd h1).mono)) ((State.flushSubmits_within).after ((State.putPartDealer_within).after ((State.wrN_within).after
          ((State.packetTasks_within).after (((State.ringRead_within).snd h1).mono))))))

theorem execSubmissionFetch_answers {p upsets} {s : State} : s.Answers (Part.reporting [.heldRS, .hostMem, .cores, .memory, .mem, .dealer, .serving,
    .vision, .media]) (execSubmissionFetch p upsets s) := by
  unfold execSubmissionFetch
  refine .ite (.next (State.upset_within).mono) ?_
  split
  · exact .next (.ite ((State.putPartDealer_within).after (State.upset_within).mono) (State.upset_within).mono)
  · exact .next ((State.fetchFrom_within).after (State.upset_within).mono)

theorem State.advanceExpect_within {p src} {s : State} : s.Within [.regs, .dealer] (State.advanceExpect p src s) := by
  unfold State.advanceExpect
  split
  · exact (State.count_within).mono
  · exact (State.putPartDealer_within).mono

theorem State.rejectGraph_within {p e trick st} {s : State} : s.Within Part.submission (State.rejectGraph p e trick st s) := by
  unfold State.rejectGraph
  dsimp only
  split
  · split
    · exact (State.postCompletion_within).after (.iteStep (State.post_within).mono (.ite .refl (State.advanceExpect_within).mono))
    · exact .iteStep (State.post_within).mono (.ite .refl (State.advanceExpect_within).mono)
  · refine (State.pipelineGraphEnded_within).after ?_
    split
    · exact (State.postCompletion_within).after (.iteStep (State.post_within).mono (.ite .refl (State.advanceExpect_within).mono))
    · exact .iteStep (State.post_within).mono (.ite .refl (State.advanceExpect_within).mono)
  · refine .setDealer ?_
    split
    · exact (State.postCompletion_within).after (.iteStep (State.post_within).mono (.ite .refl (State.advanceExpect_within).mono))
    · exact .iteStep (State.post_within).mono (.ite .refl (State.advanceExpect_within).mono)

theorem State.readReserve_within {p word} {s : State} : s.Within (Part.reporting [.memory]) (State.readReserve p word s).2 := by
  unfold State.readReserve
  split
  · exact .ite_snd ((State.readWords_within).after ((State.touchStacks_within).after (State.releaseHeld_within).mono)) .refl
  · exact .refl

theorem State.readPacket_within {p e copyBad} {s : State} : s.Within (Part.reporting [.memory]) (State.readPacket p e copyBad s).2.2 :=
  .ite_snd₂ (State.globalRead_within).mono (State.readReserve_within).mono

theorem State.acceptEntry_within {p e copyBad} {s : State} : s.Within Part.submission (State.acceptEntry p e copyBad s) := by
  unfold State.acceptEntry
  refine .ite (State.rejectGraph_within).mono ?_
  split
  · next h1 => exact (State.rejectGraph_within).after (((State.readPacket_within).snd₂ h1).mono)
  · next h1 =>
      refine .ite ((State.rejectGraph_within).after (((State.readPacket_within).snd₂ h1).mono)) ?_
      refine .ite ((State.rejectGraph_within).after (((State.readPacket_within).snd₂ h1).mono)) ?_
      split
      · exact (State.rejectGraph_within).after (((State.readPacket_within).snd₂ h1).mono)
      · exact .setDealer ((State.wake_within).after ((State.advanceExpect_within).after (((State.readPacket_within).snd₂ h1).mono)))

theorem State.dropSubmit_within {p e} {s : State} : s.Within [.vision] (State.dropSubmit p e s) := by
  unfold State.dropSubmit
  split
  · exact .setVision .refl
  · exact .refl

theorem execGraphAccept_answers {p copyBad upsets} {s : State} : s.Answers (Part.reporting [.hostMem, .cores, .memory, .mem, .power, .dealer,
    .serving, .vision, .media]) (execGraphAccept p copyBad upsets s) := by
  unfold execGraphAccept
  dsimp only
  split
  · exact .next (State.upset_within).mono
  · refine .next ?_
    refine .ite ?_ (State.upset_within).mono
    split
    · exact (State.rejectGraph_within).after ((State.dropSubmit_within).after ((State.putPartDealer_within).after (State.upset_within).mono))
    · exact (State.acceptEntry_within).after ((State.dropSubmit_within).after ((State.putPartDealer_within).after (State.upset_within).mono))

theorem State.waitChanged_within {old} {s : State} : s.Within [.dealer] (State.waitChanged old s) :=
  .ite .refl (.setDealer .refl)

theorem State.dropReservations_within {cores} {s : State} : s.Within [.dealer] (State.dropReservations cores s) :=
  .setDealer .refl

theorem State.startTask_within {p g t i} {s : State} : s.Within [.regs, .cores, .power, .dealer] (State.startTask p g t i s) :=
  .iteStep ((State.count_within).after (.setPower .refl)) ((State.count_within).after (.iteStep (State.boostClusters_within).mono (.overList
      (fun _ _ => (State.requestCore_within).after (State.putCore_within).mono) ((State.dropReservations_within).after
      ((State.updGraph_within).after (State.wrN_within).mono)))))

theorem State.decideTask_within {p x} {acc : DecisionState × State} : acc.2.Within Part.failure (State.decideTask p x acc).2 := by
  obtain ⟨d, s⟩ := acc
  unfold State.decideTask
  dsimp only
  split
  · exact .refl
  · refine .ite_snd .refl ?_
    refine .ite_snd .refl ?_
    refine .ite_snd .refl ?_
    split
    · exact (State.failTask_within).mono
    · refine .ite_snd (State.failTask_within).mono ?_
      refine .ite_snd .refl ?_
      split
      · exact .pair_snd (.overList (fun _ _ => (State.requestCore_within).mono) (State.updGraph_within).mono)
      · exact .ite_snd .refl (.ite_snd (State.updGraph_within).mono (State.startTask_within).mono)

theorem execDealerDecision_answers {p} {s : State} : s.Answers Part.failure (execDealerDecision p s) :=
  .ite (.next .refl) (.next (.foldl_snd (fun _ _ => .foldl_snd (fun _ _ => (State.decideTask_within).mono) .refl) .refl))

theorem State.loadCore_within {g t table rank n} {s : State} : s.Within (Part.reporting [.cores, .memory, .mem])
    (State.loadCore g t table rank n s).2 := by
  unfold State.loadCore
  refine .ite_snd .refl ?_
  split
  · next h1 => exact .pair_snd (((State.globalRead_within).snd₂ h1).mono)
  · next h1 =>
      refine .ite_snd (.pair_snd (((State.globalRead_within).snd₂ h1).mono)) ?_
      refine .ite_snd (.pair_snd ((State.putCore_within).after ((State.sramWrite_within).after (((State.globalRead_within).snd₂ h1).mono)))) ?_
      split
      · next h2 => exact .pair_snd (((State.globalRead_within).snd₂ h2).after (((State.globalRead_within).snd₂ h1).mono))
      · next h2 => exact .pair_snd ((State.putCore_within).after ((State.sramWrite_within).after ((State.sramWrite_within).after
            (((State.globalRead_within).snd₂ h2).after (((State.globalRead_within).snd₂ h1).mono)))))

theorem State.loadCores_within {g t table l} {s : State} : s.Within (Part.reporting [.cores, .memory, .mem]) (State.loadCores g t table l s).2 := by
  induction l generalizing s with
  | nil => exact .refl
  | cons _ _ ih =>
    rw [State.loadCores]
    split
    · next h1 => exact .pair_snd (((State.loadCore_within).snd h1).mono)
    · next h1 => exact ih.after (((State.loadCore_within).snd h1).mono)

theorem execTaskLoadComplete_answers {uid tid upsets} {s : State} : s.Answers Part.failure (execTaskLoadComplete uid tid upsets s) := by
  unfold execTaskLoadComplete
  dsimp only
  split
  · exact .next (State.upset_within).mono
  · refine .ite (.next (State.upset_within).mono) ?_
    split
    · next h1 => exact .next ((State.failTask_within).after (((State.loadCores_within).snd h1).after (State.upset_within).mono))
    · next h1 => exact .next ((State.updGraph_within).after (((State.loadCores_within).snd h1).after (State.upset_within).mono))

theorem execTaskDone_answers {uid tid} {s : State} : s.Answers Part.failure (execTaskDone uid tid s) := by
  unfold execTaskDone
  split
  · exact .next .refl
  · refine .ite (.next .refl) ?_
    refine .ite (.next (State.failTask_within).mono) ?_
    dsimp only
    split
    · exact .next ((State.updGraph_within).after ((State.detachTask_within).after ((State.endBoost_within).after (.overList (fun _ _ =>
          (State.freeCore_within).mono) .refl))))
    · exact .next ((State.finishGraph_within).after ((State.writeRecord_within).after ((State.updGraph_within).after
          ((State.detachTask_within).after ((State.endBoost_within).after (.overList (fun _ _ => (State.freeCore_within).mono) .refl))))))

theorem execTaskTimeout_answers {uid tid fw} {s : State} : s.Answers Part.failure (execTaskTimeout uid tid fw s) := by
  unfold execTaskTimeout
  dsimp only
  split
  · exact .next (State.upset_within).mono
  · exact .next (.ite ((State.failTask_within).after (State.upset_within).mono) (State.upset_within).mono)

theorem State.abortGraph_within {uid} {s : State} : s.Within Part.submission (State.abortGraph uid s) := by
  unfold State.abortGraph
  split
  · exact .refl
  · refine (State.finishGraph_within).after ?_
    refine .overList (fun _ _ => ?_) (State.updGraph_within).mono
    split
    · exact (State.writeRecord_within).after (State.post_within).mono
    · exact .refl

theorem State.abortSeq_within {fn p seq} {s : State} : s.Within Part.submission (State.abortSeq fn p seq s) := by
  unfold State.abortSeq
  refine .ite .refl ?_
  dsimp only
  split
  · exact (State.abortGraph_within).mono
  · exact .refl

theorem execAbortSeq_answers {fn p seq} {s : State} : s.Answers Part.submission (execAbortSeq fn p seq s) :=
  .next (State.abortSeq_within).mono

end Sys2Proof.Machine
end

section
/-! PROOFS. What the operations of Machine/KvOps.lean may reach. -/
namespace Sys2Proof.Machine

theorem State.putStock_within {d l} {s : State} : s.Within [.regs, .serving] (State.putStock d l s) :=
  (State.wrF_within).after ((State.wrF_within).after ((State.wrF_within).after (.setServing .refl)))

theorem State.writeDescs_within {r} {s : State} : s.Within (Part.reporting [.memory, .mem]) (State.writeDescs r s) :=
  .overList (fun _ _ => (State.engineWrite_within).mono) .refl

theorem State.updRow_within {ref f} {s : State} : s.Within Part.tables (State.updRow ref f s) := by
  unfold State.updRow
  split
  · exact .refl
  · exact (State.writeDescs_within).after (.setServing .refl)

theorem State.allocRow_within {d sl fmt log2p} {s : State} {r} (h : State.allocRow d sl fmt log2p s = some r) :
    s.Within Part.tables r.2 := by
  unfold State.allocRow at h
  dsimp only at h
  split at h
  · cases h
  · obtain rfl := Option.some.inj h
    exact (State.wrN_within).after ((State.writeDescs_within).after (.setServing (State.putStock_within).mono))

theorem State.tryFree_within {ref} {s : State} : s.Within Part.tables (State.tryFree ref s) := by
  unfold State.tryFree
  split
  · exact .refl
  · exact .ite ((State.wrN_within).after ((State.putStock_within).after (.overList (fun _ _ => (State.engineWrite_within).mono) (.setServing
        .refl)))) .refl

theorem State.addRef_within {ref} {s : State} : s.Within Part.tables (State.addRef ref s) :=
  (State.updRow_within).mono

theorem State.dropRef_within {ref} {s : State} : s.Within Part.tables (State.dropRef ref s) :=
  (State.tryFree_within).after (State.updRow_within).mono

theorem State.lease_within {ref} {s : State} : s.Within Part.tables (State.lease ref s) :=
  (State.updRow_within).mono

theorem State.unlease_within {ref} {s : State} : s.Within Part.tables (State.unlease ref s) :=
  (State.tryFree_within).after (State.updRow_within).mono

theorem State.freeRows_within {sl} {s : State} : s.Within Part.tables (State.freeRows sl s) :=
  .overList (fun _ _ => (State.tryFree_within).mono) .refl

theorem State.trickLease_within {ref t} {s : State} : s.Within Part.tables (State.trickLease ref t s) :=
  (State.updRow_within).mono

theorem State.putHand_within {p h} {s : State} : s.Within [.serving] (State.putHand p h s) :=
  (State.putServing_within).mono

theorem State.updHand_within {p i f} {s : State} : s.Within [.serving] (State.updHand p i f s) := by
  unfold State.updHand
  split
  · exact (State.putHand_within).mono
  · exact .refl

theorem State.showServing_within {p} {s : State} : s.Within [.regs] (State.showServing p s) :=
  .overList (fun _ _ => (State.wrN_within).mono) ((State.wrF_within).after (State.wrF_within).mono)

theorem State.writeTable_within {sl t} {s : State} : s.Within (Part.reporting [.memory, .mem]) (State.writeTable sl t s) :=
  .overList (fun _ _ => (State.blockWrite_within).mono) .refl

theorem State.writeTableDesc_within {sl d off} {s : State} : s.Within (Part.reporting [.memory, .mem]) (State.writeTableDesc sl d off s) :=
  (State.engineWrite_within).mono

theorem State.appendEntry_within {sl t e} {s : State} {r} (h : State.appendEntry sl t e s = some r) :
    s.Within Part.tables r.2 := by
  unfold State.appendEntry at h
  dsimp only at h
  split at h
  · split at h
    · cases h
    · obtain rfl := Option.some.inj h
      exact (State.writeTable_within).after ((State.writeTableDesc_within).after (State.putStock_within).mono)
  · obtain rfl := Option.some.inj h
    exact (State.writeTable_within).mono

theorem State.growTables_within {sl b st h dies} {s : State} {r} (hr : State.growTables sl b st h dies s = some r) :
    s.Within Part.tables r.2 := by
  induction dies generalizing h s with
  | nil =>
    obtain rfl := Option.some.inj hr
    exact .refl
  | cons d rest ih =>
    rw [State.growTables] at hr
    split at hr
    · cases hr
    · next h1 =>
      split at hr
      · cases hr
      · next h2 => exact (ih hr).after ((State.appendEntry_within h2).after ((State.addRef_within).after (State.allocRow_within h1)))

theorem State.startCow_within {sl pos h dies} {s : State} {r} (hr : State.startCow sl pos h dies s = some r) :
    s.Within Part.tables r.2 := by
  induction dies generalizing h s with
  | nil =>
    obtain rfl := Option.some.inj hr
    exact .refl
  | cons d rest ih =>
    rw [State.startCow] at hr
    split at hr
    · exact ih hr
    · split at hr
      · exact ih hr
      · split at hr
        · exact ih hr
        · split at hr
          · cases hr
          · next h1 => exact (ih hr).after ((State.writeTable_within).after ((State.count_within).after ((State.updRow_within).after
                (State.allocRow_within h1))))

theorem State.countExhaust_within {p} {s : State} : s.Within [.regs] (State.countExhaust p s) :=
  .overList (fun _ _ => (State.count_within).mono) .refl

theorem State.reserveRows_within {sl limit fuel h dies} {s : State} {r} (hr : State.reserveRows sl limit fuel h dies s = some r) :
    s.Within Part.tables r.2 := by
  induction fuel generalizing h s with
  | zero =>
    obtain rfl := Option.some.inj hr
    exact .refl
  | succ fuel ih =>
    rw [State.reserveRows] at hr
    split at hr
    · obtain rfl := Option.some.inj hr
      exact .refl
    · split at hr
      · cases hr
      · next h1 => exact (ih hr).after (State.growTables_within h1)

theorem State.kvReserve_within {p h valid} {s : State} {r} (hr : State.kvReserve p h valid s = some r) :
    s.Within Part.tables r.2 := by
  unfold State.kvReserve at hr
  dsimp only at hr
  split at hr
  · cases hr
  · next h' u h1 =>
    refine (State.reserveRows_within hr).after ?_
    split at h1
    · exact State.startCow_within h1
    · obtain ⟨-, rfl⟩ := Prod.mk.inj (Option.some.inj h1)
      exact .refl

theorem State.finishCow_within {sl h d} {s : State} : s.Within Part.tables (State.finishCow sl h d s).2 := by
  unfold State.finishCow
  refine .ite_snd .refl ?_
  refine .pair_snd ?_
  refine (State.writeTable_within).after ?_
  refine .overList (fun _ _ => ?_) .refl
  dsimp only
  split
  · exact (State.dropRef_within).after (State.updRow_within).mono
  · exact (State.updRow_within).mono

theorem State.finishCows_within {sl h l} {s : State} : s.Within Part.tables (State.finishCows sl h l s).2 := by
  induction l generalizing h s with
  | nil => exact .refl
  | cons _ _ ih =>
    rw [State.finishCows]
    exact ih.after (State.finishCow_within).mono

theorem State.settleFlush_within {p h} {s : State} : s.Within [.regs] (State.settleFlush p h s).2 :=
  .ite_snd (.pair_snd (.overList (fun _ _ => (State.count_within).mono) .refl)) .refl

theorem State.retable_within {sl f h} {s : State} : s.Within (Part.reporting [.memory, .mem]) (State.retable sl f h s).2 :=
  .pair_snd (.overList (fun _ _ => (State.writeTable_within).mono) .refl)

theorem State.kvSettle_within {p kept wasDecode h} {s : State} : s.Within Part.tables (State.kvSettle p kept wasDecode h s).2.1 :=
  (State.settleFlush_within).after ((State.finishCows_within).after ((State.retable_within).after (.overList (fun _ _ => (State.count_within).mono)
      .refl)))

theorem State.kvExtend_within {p full h} {s : State} {r} (hr : State.kvExtend p full h s = some r) :
    s.Within Part.tables r.2 := by
  unfold State.kvExtend at hr
  dsimp only at hr
  split at hr
  · cases hr
  · next h' u h1 =>
    have hu : s.Within Part.tables u := by
      split at h1
      · obtain ⟨-, rfl⟩ := Prod.mk.inj (Option.some.inj h1)
        exact .refl
      · exact State.growTables_within h1
    split at hr
    · exact (State.startCow_within hr).after hu
    · obtain rfl := Option.some.inj hr
      exact hu

theorem State.kvRollback_within {p h} {s : State} : s.Within Part.tables (State.kvRollback p h s).2 :=
  .pair_snd ((State.settleFlush_within).after ((State.finishCows_within).after (.overList (fun _ _ => (State.dropRef_within).mono) (.overList
      (fun _ _ => (State.writeTable_within).mono) (.overList (fun _ _ => (State.count_within).mono) .refl)))))

theorem State.kvRelease_within {h} {s : State} : s.Within Part.tables (State.kvRelease h s) := by
  unfold State.kvRelease
  refine .overList (fun _ _ => ?_) .refl
  refine (State.putStock_within).after ?_
  refine .overList (fun _ _ => (State.engineWrite_within).mono) ?_
  refine .overList (fun _ _ => ?_) .refl
  dsimp only
  split
  · exact (State.dropRef_within).after (State.dropRef_within).mono
  · exact (State.dropRef_within).mono

theorem State.leaseHand_within {h} {s : State} : s.Within Part.tables (State.leaseHand h s).2 :=
  .pair_snd (.overList (fun _ _ => (State.lease_within).mono) .refl)

theorem State.unleaseHand_within {h} {s : State} : s.Within Part.tables (State.unleaseHand h s).2 :=
  .ite_snd (.pair_snd (.overList (fun _ _ => (State.unlease_within).mono) .refl)) .refl

theorem State.freeHand_within {p i} {s : State} : s.Within Part.tables (State.freeHand p i s) := by
  unfold State.freeHand
  split
  · exact .refl
  · exact (State.showServing_within).after ((State.putServing_within).after ((State.kvRelease_within).after (State.unleaseHand_within).mono))

theorem State.writeVector_within {r layer value h i bf m} {s : State} :
    s.Within (Part.reporting [.memory, .mem]) (State.writeVector r layer value h i bf m s).2.2 := by
  conv in @State.writeVector => delta State.writeVector
  obtain ⟨write, hwrite⟩ := exists_eq' (a' := @State.hbmWrite)
  have hw := @State.hbmWrite_within
  rw [hwrite] at hw ⊢
  dsimp only
  split
  · next h1 => exact (hw.snd h1).mono
  · next h1 => exact .ite_snd₂ ((hw.snd h1).mono) (hw.after ((hw.snd h1).mono))

theorem State.writePosition_within {r layer i slotBytes m} {s : State} :
    s.Within (Part.reporting [.memory, .mem]) (State.writePosition r layer i slotBytes m s).2.2 := by
  conv in @State.writePosition => delta State.writePosition
  obtain ⟨write, hwrite⟩ := exists_eq' (a' := @State.writeVector)
  have hw := @State.writeVector_within
  rw [hwrite] at hw ⊢
  refine .foldl_snd₂ (fun _ _ => .foldl_snd₂ (fun _ _ => ?_) .refl) .refl
  split
  · exact .refl
  · exact hw

theorem State.copyBytes_within {src dst n m} {s : State} : s.Within (Part.reporting [.memory, .mem]) (State.copyBytes src dst n m s).2.2 := by
  unfold State.copyBytes
  split
  · next h1 => exact .pair_snd₂ (((State.hbmRead_within).snd₂ h1).mono)
  · next h1 => exact (State.hbmWrite_within).after (((State.hbmRead_within).snd₂ h1).mono)

theorem State.copyPosition_within {src dst layer i m} {s : State} :
    s.Within (Part.reporting [.memory, .mem]) (State.copyPosition src dst layer i m s).2.2 := by
  conv in @State.copyPosition => delta State.copyPosition
  obtain ⟨copy, hcopy⟩ := exists_eq' (a' := @State.copyBytes)
  have hc := @State.copyBytes_within
  rw [hcopy] at hc ⊢
  refine .foldl_snd₂ (fun _ _ => .foldl_snd₂ (fun _ _ => ?_) .refl) .refl
  split
  · exact .refl
  · dsimp only
    split
    · next h1 => exact hc.snd₂ h1
    · next h1 => exact .ite_snd₂ (hc.snd₂ h1) (hc.chain (hc.snd₂ h1))

end Sys2Proof.Machine
end

section
/-! PROOFS. What the operations of Machine/TalonOps.lean may reach. -/
namespace Sys2Proof.Machine

theorem State.useTalon_within {s : State} : s.Within [.power] (State.useTalon s) :=
  .setPower .refl

theorem State.newName_within {p} {s : State} : s.Within [.talon] (State.newName p s).2 :=
  .setTalon .refl

theorem State.putBand_within {b} {s : State} : s.Within [.talon] (State.putBand b s) :=
  .setTalon .refl

theorem State.setOpen_within {z b} {s : State} : s.Within [.talon] (State.setOpen z b s) := by
  unfold State.setOpen
  split
  · exact .setTalon .refl
  · exact .setTalon .refl
  · exact .refl

theorem State.journalled_within {s : State} : s.Within [.talon] (State.journalled s) :=
  .setTalon .refl

theorem State.replayJournal_within {s : State} : s.Within [.talon] (State.replayJournal s) :=
  .setTalon .refl

theorem State.program_within {b k} {s : State} : s.Within [.talon] (State.program b k s) :=
  (State.putBand_within).mono

theorem State.placeRuns_within {z fuel page n} {s : State} {r} (h : State.placeRuns z fuel page n s = some r) : s.Within [.talon] r.2 := by
  induction fuel generalizing page n s r with
  | zero =>
    rw [State.placeRuns] at h
    split at h
    · obtain rfl := Option.some.inj h
      exact .refl
    · cases h
  | succ fuel ih =>
    rw [State.placeRuns] at h
    split at h
    · obtain rfl := Option.some.inj h
      exact .refl
    · extract_lets room at h
      split at h
      · split at h
        · cases h
        · exact (ih h).after (State.setOpen_within).mono
      · split at h
        · cases h
        · next h1 =>
          obtain rfl := Option.some.inj h
          exact (ih h1).after (State.program_within).mono

theorem State.place_within {z page n} {s : State} {r} (h : State.place z page n s = some r) : s.Within [.talon] r.2 := by
  unfold State.place at h
  split at h
  · next h1 =>
    split at h
    · obtain rfl := Option.some.inj h
      exact (State.journalled_within).after (State.placeRuns_within h1)
    · cases h
  · cases h

theorem State.charge_within {p pages} {s : State} : s.Within [.regs, .talon] (State.charge p pages s) :=
  (State.wrN_within).after ((State.wrN_within).after (.setTalon .refl))

theorem State.giveUp_within {p pages} {s : State} : s.Within [.regs, .talon, .freeCtr] (State.giveUp p pages s) :=
  .setTalon ((State.charge_within).after (State.drawn_within).mono)

theorem State.chargeWeights_within {pages} {s : State} : s.Within [.talon] (State.chargeWeights pages s) :=
  .setTalon .refl

theorem State.showShare_within {p} {s : State} : s.Within [.regs] (State.showShare p s) :=
  (State.wrN_within).after (State.wrN_within).mono

theorem State.countReads_within {fs} {s : State} : s.Within [.talon] (State.countReads fs s) :=
  .overList (fun _ _ => (State.putBand_within).mono) .refl

theorem State.fitExtent_within {pages x} {s : State} {r} (hx : ∀ y, x = some y → s.Within [.talon] y.2.2) (h : State.fitExtent pages x s = some r) :
    s.Within [.talon] r.2.2 := by
  cases x with
  | none => cases h
  | some x =>
    simp only [State.fitExtent, Option.bind_some] at h
    split at h
    · obtain rfl := Option.some.inj h
      exact hx x rfl
    · obtain ⟨y, hy, rfl⟩ := Option.map_eq_some_iff.mp h
      exact State.place_within hy

theorem State.Within.rewrite {Q : List Part} {s t : State} {touch f}
    (hf : ∀ (l : List Fragment) (u : State) r, f l u = some r → u.Within [.talon] r.2.2) (h : s.Within Q t)
    (hQ : autoParam (Part.Fits [.regs, .talon] Q) Nat.toPNat._auto_1) : s.Within Q (t.rewrite touch f) := by
  refine .chain (.of_subset ?_ (Part.subset_of_bits hQ)) h
  unfold State.rewrite
  refine .overList (fun _ _ => ?_) (.overList (fun _ _ => ?_) (.overList (fun _ _ => ?_) .refl))
  · split
    · exact .refl
    · next h1 => exact .setTalon ((State.chargeWeights_within).after (hf _ _ _ h1).mono)
  · split
    · exact .refl
    · next h1 => exact .setTalon ((State.charge_within).after (State.fitExtent_within (hf _ _) h1).mono)
  · split
    · exact .refl
    · next h1 => exact .setTalon ((State.charge_within).after (State.fitExtent_within (hf _ _) h1).mono)

theorem State.moveFragments_within {z touch fs} {s : State} {r} (h : State.moveFragments z touch fs s = some r) : s.Within [.talon] r.2.2 := by
  unfold State.moveFragments at h
  refine State.Within.foldl_option_of (R := fun x : List Fragment × Nat × State => s.Within [.talon] x.2.2) ?_ (fun _ hw => Option.some.inj hw ▸
      .refl) h
  intro acc f y hy hf
  split at hf
  · cases hf
  · next l n t =>
    have ht := hy _ rfl
    split at hf
    · obtain rfl := Option.some.inj hf
      exact ht
    · obtain ⟨x, hx, rfl⟩ := Option.map_eq_some_iff.mp hf
      exact (State.place_within hx).after ht

theorem State.eraseBand_within {b} {s : State} : s.Within [.talon] (State.eraseBand b s) :=
  (State.putBand_within).mono

theorem State.showErase_within {s : State} : s.Within [.regs, .ledger] (State.showErase s) :=
  (State.ledgerPut_within).after ((State.ledgerPut_within).after ((State.wrF_within).after (State.wrF_within).mono))

theorem State.relocateBand_within {b} {s : State} : s.Within [.regs, .ledger, .talon] (State.relocateBand b s) := by
  unfold State.relocateBand
  exact .iteStep ((State.showErase_within).after (State.eraseBand_within).mono) (.rewrite (fun _ _ _ => State.moveFragments_within)
    ((State.countReads_within).after (.iteStep (State.setOpen_within).mono .refl)))

theorem State.showSpares_within {s : State} : s.Within [.regs, .ledger] (State.showSpares s) :=
  (State.ledgerPut_within).after (State.wrF_within).mono

theorem State.spareBlock_within {die b} {s : State} : s.Within (Part.reporting [.talon]) (State.spareBlock die b s).2 := by
  unfold State.spareBlock
  refine .ite_snd .refl ?_
  refine .ite_snd ?_ (.iteStep (State.postAt_within).mono ((State.showSpares_within).after (.setTalon (State.putBand_within).mono)))
  refine .pair_snd ?_
  refine (State.showErase_within).after ?_
  split
  · exact (State.wrF_within).after (State.putBand_within).mono
  · exact (State.wrF_within).after (State.putBand_within).mono
  · exact (State.putBand_within).mono

theorem State.retireBlock_within {die b} {s : State} : s.Within (Part.reporting [.talon]) (State.retireBlock die b s) := by
  have hcount (u : State) (touch : Fragment → Bool) : u.Within (Part.reporting [.talon])
      (u.rewrite touch (fun fs t => some (fs, ((fs.filter touch).map (t.pagesOn die)).sum, t))) :=
    .rewrite (fun _ _ _ h => Option.some.inj h ▸ .refl) .refl
  unfold State.retireBlock
  extract_lets off u tal u1 touch v
  have hv : s.Within (Part.reporting [.talon]) v :=
    .ite ((State.relocateBand_within).after (.setTalon (State.wrN_within).mono)) ((hcount _ _).chain (.setTalon (State.wrN_within).mono))
  split
  · next h1 => exact (State.postAt_within).after (((State.spareBlock_within).snd h1).after hv)
  · next h1 => exact ((State.spareBlock_within).snd h1).after hv

theorem State.factoryBlock_within {die b} {s : State} : s.Within (Part.reporting [.talon]) (State.factoryBlock die b s) :=
  .ite ((State.spareBlock_within).after (State.wrN_within).mono) (.iteStep (State.postAt_within).mono ((State.showSpares_within).after (.setTalon
      (State.wrN_within).mono)))

theorem State.reprogram_within {band i} {s : State} : s.Within [.regs, .talon] (State.reprogram band i s) := by
  unfold State.reprogram
  refine .rewrite (fun l u r h => ?_) .refl
  split at h
  · cases h
  · obtain ⟨x, hx, rfl⟩ := Option.map_eq_some_iff.mp h
    exact State.place_within hx

theorem State.dropExtent_within {name} {s : State} : s.Within [.regs, .talon, .freeCtr] (State.dropExtent name s) := by
  unfold State.dropExtent
  split
  · exact .refl
  · exact (State.showShare_within).after ((State.journalled_within).after (.setTalon (.ite .refl (State.giveUp_within).mono)))

theorem State.updImage_within {id f} {s : State} : s.Within [.talon] (State.updImage id f s) :=
  .setTalon .refl

theorem State.dropParked_within {handle} {s : State} : s.Within [.regs, .talon, .freeCtr] (State.dropParked handle s) := by
  unfold State.dropParked
  split
  · exact .refl
  · exact (State.showShare_within).after ((State.journalled_within).after (.setTalon (.ite .refl (State.giveUp_within).mono)))

end Sys2Proof.Machine
end

section
/-! PROOFS. What the operations of Machine/PrefixOps.lean may reach. -/
namespace Sys2Proof.Machine

theorem State.writeNode_within {p i} {s : State} : s.Within (Part.reporting [.memory, .mem]) (State.writeNode p i s) := by
  conv in @State.writeNode => delta State.writeNode
  obtain ⟨blockWrite', hblockWrite⟩ := exists_eq' (a' := @State.blockWrite)
  have wblockWrite := @State.blockWrite_within
  rw [hblockWrite] at wblockWrite ⊢
  dsimp only
  split
  · exact wblockWrite.mono
  · exact wblockWrite.mono

theorem State.showIndex_within {p} {s : State} : s.Within [.regs] (State.showIndex p s) :=
  (State.wrN_within).after (State.wrN_within).mono

theorem State.putNode_within {p i n} {s : State} : s.Within (Part.reporting [.memory, .mem, .pfx]) (State.putNode p i n s) :=
  (State.showIndex_within).after ((State.writeNode_within).after (.setPfx .refl))

theorem State.updNode_within {p i f} {s : State} : s.Within (Part.reporting [.memory, .mem, .pfx]) (State.updNode p i f s) := by
  unfold State.updNode
  split
  · exact (State.putNode_within).mono
  · exact .refl

theorem State.writeBucket_within {p b} {s : State} : s.Within (Part.reporting [.memory, .mem]) (State.writeBucket p b s) :=
  (State.engineWrite_within).mono

theorem State.news_within {p own a} {s : State} : s.Within [.serving] (State.news p own a s) :=
  .ite .refl (State.updSlot_within).mono

theorem State.linkNode_within {p i n} {s : State} : s.Within (Part.reporting [.memory, .mem, .pfx]) (State.linkNode p i n s) := by
  unfold State.linkNode
  dsimp only
  split
  · exact (State.writeNode_within).after ((State.putNode_within).after ((State.writeBucket_within).after (.setPfx .refl)))
  · exact (State.putNode_within).after ((State.writeBucket_within).after (.setPfx .refl))

theorem State.unlinkNode_within {p i} {s : State} : s.Within (Part.reporting [.memory, .mem, .pfx]) (State.unlinkNode p i s) := by
  unfold State.unlinkNode
  split
  · exact .refl
  · dsimp only
    split
    · exact (State.writeNode_within).after ((State.showIndex_within).after ((State.writeNode_within).after (.setPfx (.ite
          ((State.writeBucket_within).after (.setPfx .refl)) (.overList (fun _ _ => (State.putNode_within).mono) .refl)))))
    · exact (State.showIndex_within).after ((State.writeNode_within).after (.setPfx (.ite ((State.writeBucket_within).after (.setPfx .refl))
          (.overList (fun _ _ => (State.putNode_within).mono) .refl))))

theorem State.abandonTransfer_within {x} {s : State} : s.Within Part.prefixes (State.abandonTransfer x s) :=
  .overList (fun _ _ => (State.unlease_within).mono) (.overList (fun _ _ => (State.updNode_within).mono) ((State.dropExtent_within).after (.setTalon
      .refl)))

theorem State.evictNode_within {p i} {s : State} : s.Within Part.prefixes (State.evictNode p i s) := by
  unfold State.evictNode
  split
  · exact .refl
  · refine (State.news_within).after ?_
    refine (State.count_within).after ?_
    refine .iteStep (State.dropExtent_within).mono ?_
    refine (State.unlinkNode_within).after ?_
    refine .overList (fun _ _ => (State.updHand_within).mono) ?_
    split
    · exact .overList (fun _ _ => (State.dropRef_within).mono) .refl
    · exact .ite ((State.abandonTransfer_within).after (.overList (fun _ _ => (State.dropRef_within).mono) .refl)) (.setTalon (.overList (fun _ _ =>
          (State.dropRef_within).mono) .refl))

theorem State.evictSubtree_within {p i} {s : State} : s.Within Part.prefixes (State.evictSubtree p i s) :=
  .overList (fun _ _ => (State.evictNode_within).mono) .refl

theorem State.markLost_within {p i} {s : State} : s.Within (Part.reporting [.memory, .mem, .serving, .pfx]) (State.markLost p i s) := by
  unfold State.markLost
  split
  · exact (State.putNode_within).after (.overList (fun _ _ => (State.dropRef_within).mono) .refl)
  · exact .refl

theorem State.loseNodes_within {p nodes} {s : State} : s.Within Part.prefixes (State.loseNodes p nodes s) :=
  .overList (fun _ _ => .ite (State.markLost_within).mono (State.evictSubtree_within).mono) .refl

theorem State.promptTokens_within {p d} {s : State} : s.Within (Part.reporting [.heldRS, .memory]) (State.promptTokens p d s).2 := by
  unfold State.promptTokens
  refine .chain (.ite_snd (.pair_snd .refl) .refl) ?_
  refine .foldl_snd₂ (fun _ _ => ?_) (.ite_snd₂ (.ite_snd₂ (.pair_snd₂ (State.hostReading_within).mono) .refl) (State.globalRead_within).mono)
  split
  · next h1 => exact .pair_snd₂ (((State.globalRead_within).snd₂ h1).mono)
  · next h1 => exact .pair_snd₂ (((State.globalRead_within).snd₂ h1).mono)

theorem State.readAreas_within {l} {s : State} : s.Within (Part.reporting [.memory]) (State.readAreas l s).2 := by
  induction l generalizing s with
  | nil => exact .refl
  | cons _ _ ih =>
    rw [State.readAreas]
    split
    · next h1 => exact .pair_snd (((State.hbmRead_within).snd₂ h1).mono)
    · next h1 => exact ih.after (((State.hbmRead_within).snd₂ h1).mono)

theorem State.walkStep_within {p parent sl variant tokens} {s : State} : s.Within (Part.reporting [.memory])
    (State.walkStep p parent sl variant tokens s).2 := by
  conv in @State.walkStep => delta State.walkStep
  obtain ⟨rd64', hrd64⟩ := exists_eq' (a' := @State.rd64)
  rw [hrd64]
  dsimp only
  split
  · next h1 => exact .pair_snd (((State.readAreas_within).snd h1).mono)
  · next h1 => exact .pair_snd (((State.readAreas_within).snd h1).mono)

theorem State.walkPath_within {p d tokens n g parent} {s : State} :
    s.Within (Part.reporting [.memory]) (State.walkPath p d tokens n g parent s).2 := by
  obtain ⟨path, hpath⟩ := exists_eq' (a' := @State.walkPath)
  obtain ⟨step, hstep⟩ := exists_eq' (a' := @State.walkStep)
  have hw := @State.walkStep_within
  rw [hpath]
  delta State.walkPath State.walkPath._f at hpath
  rw [hstep] at hw hpath
  subst hpath
  induction n generalizing g parent s with
  | zero => exact .refl
  | succ n ih =>
    dsimp only [Nat.brecOn, Nat.brecOn.go] at ih ⊢
    split
    · next h1 => exact .ite_snd (hw.snd h1) (.pair_snd (ih.chain (hw.snd h1)))
    · next h1 => exact hw.snd h1

theorem State.promotionRows_within {sl fmt log2p l} {s : State} {r} (hr : State.promotionRows sl fmt log2p l s = some r) :
    s.Within Part.tables r.2 := by
  induction l generalizing s r with
  | nil =>
    obtain rfl := Option.some.inj hr
    exact .refl
  | cons d t ih =>
    rw [State.promotionRows] at hr
    split at hr
    · cases hr
    · next h1 =>
      obtain ⟨x, hx, rfl⟩ := Option.map_eq_some_iff.mp hr
      exact (ih hx).after ((State.lease_within).after (State.allocRow_within h1))

theorem State.startPromotion_within {p sl name} {s : State} : s.Within (Part.reporting [.memory, .mem, .serving, .pfx, .talon])
    (State.startPromotion p sl name s) := by
  unfold State.startPromotion
  split
  · exact .refl
  · refine .ite .refl ?_
    split
    · exact .refl
    · next h1 => exact .setTalon (.overList (fun _ _ => (State.news_within).after (State.updNode_within).mono) ((State.promotionRows_within h1).mono))

theorem State.walkTokens_within {p d} {s : State} : s.Within (Part.reporting [.heldRS, .memory]) (State.walkTokens p d s).2 :=
  .ite_snd .refl (.pair_snd (State.promptTokens_within).mono)

theorem State.lookup_within {p d} {s : State} : s.Within (Part.reporting [.heldRS, .memory, .mem, .serving, .pfx, .talon]) (State.lookup p d s) := by
  conv in @State.lookup => delta State.lookup
  obtain ⟨walkPath', hwalkPath⟩ := exists_eq' (a' := @State.walkPath)
  have wwalkPath := @State.walkPath_within
  rw [hwalkPath] at wwalkPath ⊢
  refine .overList (fun _ _ => ?_) ((State.count_within).after (wwalkPath.after (State.walkTokens_within).mono))
  split
  · exact .iteStep (State.startPromotion_within).mono .refl
  · exact .refl

theorem State.appendEntries_within {sl d l h} {s : State} {r} (hr : State.appendEntries sl d l h s = some r) :
    s.Within Part.tables r.2 := by
  induction l generalizing h s with
  | nil =>
    obtain rfl := Option.some.inj hr
    exact .refl
  | cons e t ih =>
    rw [State.appendEntries] at hr
    split at hr
    · next h1 => exact (ih hr).after ((State.appendEntry_within h1).after (State.addRef_within).mono)
    · cases hr

theorem State.referRows_within {p sl used l h} {s : State} {r} (hr : State.referRows p sl used l h s = some r) :
    s.Within Part.tables r.2 := by
  induction l generalizing h s with
  | nil =>
    obtain rfl := Option.some.inj hr
    exact .refl
  | cons d rest ih =>
    rw [State.referRows] at hr
    split at hr
    · next h1 => exact (ih hr).after (State.appendEntries_within h1)
    · cases hr

theorem State.applyHit_within {p h path} {s : State} : s.Within (Part.reporting [.memory, .mem, .serving, .pfx]) (State.applyHit p h path s).2 := by
  unfold State.applyHit
  dsimp only
  split
  · exact .refl
  · next h1 => exact .pair_snd (.overList (fun _ _ => (State.news_within).after (State.updNode_within).mono) ((State.count_within).after
        ((State.referRows_within h1).mono)))

theorem State.insertNodes_within {p l x1} {s : State} : s.Within Part.prefixes
    (State.insertNodes p l x1 s).2 := by
  obtain ⟨nodes, hnodes⟩ := exists_eq' (a' := @State.insertNodes)
  obtain ⟨step, hstep⟩ := exists_eq' (a' := @State.walkStep)
  have hw := @State.walkStep_within
  rw [hnodes]
  delta State.insertNodes State.insertNodes._f at hnodes
  rw [hstep] at hw hnodes
  subst hnodes
  induction l generalizing x1 s with
  | zero => exact .refl
  | succ l ih =>
    dsimp only [Nat.brecOn, Nat.brecOn.go] at ih ⊢
    refine .ite_snd .refl ?_
    split
    · next h1 => exact (hw.snd h1).mono
    · next h1 => exact ih.after ((hw.snd h1).mono)
    · next h1 =>
        split
        · split
          · exact (hw.snd h1).mono
          · split
            · exact (State.evictSubtree_within).after ((hw.snd h1).mono)
            · exact (hw.snd h1).mono
        · refine ih.after ?_
          refine (State.news_within).after ?_
          refine (State.linkNode_within).after ?_
          refine .overList (fun _ _ => (State.addRef_within).mono) ?_
          split
          · exact (hw.snd h1).mono
          · split
            · exact (State.evictSubtree_within).after ((hw.snd h1).mono)
            · exact (hw.snd h1).mono

theorem State.startDemotion_within {p given rows nodes} {s : State} : s.Within (Part.reporting [.memory, .mem, .serving, .pfx, .talon])
    (State.startDemotion p given rows nodes s) := by
  unfold State.startDemotion
  split
  · dsimp only
    split
    · exact .refl
    · next h1 =>
        refine (State.showShare_within).after ?_
        refine .setTalon ?_
        refine .overList (fun _ _ => (State.news_within).after (State.updNode_within).mono) ?_
        refine .overList (fun _ _ => (State.lease_within).mono) ?_
        split
        · exact (State.place_within h1).mono
        · exact (State.newName_within).after ((State.place_within h1).mono)
  · exact .refl

theorem State.makeRoom_within {p bytes own l} {s : State} : s.Within Part.prefixes (State.makeRoom p bytes own l s) := by
  induction l generalizing s with
  | zero => exact .refl
  | succ l ih =>
    rw [State.makeRoom]
    refine .ite .refl ?_
    split
    · exact ih.after (State.evictSubtree_within).mono
    · exact .refl

theorem State.demoteGroup_within {p rows nodes} {s : State} : s.Within Part.prefixes (State.demoteGroup p rows nodes s) := by
  unfold State.demoteGroup
  refine .ite ?_ (.chain (.ite ((State.post_within).after ((State.count_within).after (.overList (fun _ _ => (State.evictSubtree_within).mono)
      .refl))) (.ite (State.startDemotion_within).mono ((State.post_within).after ((State.count_within).after (.overList (fun _ _ =>
      (State.evictSubtree_within).mono) .refl))))) (.ite (State.makeRoom_within).mono .refl))
  refine .overList (fun _ _ => .overList (fun _ _ => (State.dropRef_within).mono) .refl) ?_
  refine .overList (fun _ _ => ?_) .refl
  split
  · exact (State.news_within).after (State.putNode_within).mono
  · exact .refl

theorem State.setDemoting_within {p on} {s : State} : s.Within [.pfx] (State.setDemoting p on s) :=
  .setPfx .refl

theorem State.demoteLoop_within {p l} {s : State} : s.Within Part.prefixes (State.demoteLoop p l s) := by
  induction l generalizing s with
  | zero => exact .refl
  | succ l ih =>
    rw [State.demoteLoop]
    refine .ite (State.setDemoting_within).mono ?_
    refine .ite .refl ?_
    split
    · exact (State.setDemoting_within).mono
    · exact ih.after (State.demoteGroup_within).mono

theorem State.demoteCheck_within {p asked} {s : State} : s.Within Part.prefixes (State.demoteCheck p asked s) :=
  .ite .refl (.iteStep (State.demoteLoop_within).mono (.ite (State.setDemoting_within).mono .refl))

theorem State.rowImage_within {sev r} {s : State} : s.Within (Part.reporting [.memory]) (State.rowImage sev r s).2.2 := by
  conv in @State.rowImage => delta State.rowImage
  obtain ⟨hbmRead', hhbmRead⟩ := exists_eq' (a' := @State.hbmRead)
  have whbmRead := @State.hbmRead_within
  rw [hhbmRead] at whbmRead ⊢
  refine .foldl_snd₂ (fun _ _ => ?_) .refl
  split
  · exact .refl
  · split
    · next h1 => exact .pair_snd₂ ((whbmRead.snd₂ h1).mono)
    · next h1 =>
        refine .ite_snd₂ (.pair_snd₂ ((whbmRead.snd₂ h1).mono)) ?_
        split
        · next h2 => exact .pair_snd₂ ((whbmRead.snd₂ h2).after ((whbmRead.snd₂ h1).mono))
        · next h2 => exact .pair_snd₂ ((whbmRead.snd₂ h2).after ((whbmRead.snd₂ h1).mono))

theorem State.fillRow_within {r b} {s : State} : s.Within (Part.reporting [.memory, .mem]) (State.fillRow r b s) :=
  .overList (fun _ _ => .iteStep (State.hbmWrite_within).mono (State.hbmWrite_within).mono) .refl

theorem State.endTransfer_within {x} {s : State} : s.Within [.talon] (State.endTransfer x s) :=
  .setTalon .refl

theorem State.updExtent_within {name f} {s : State} : s.Within [.talon] (State.updExtent name f s) :=
  .setTalon .refl

theorem State.demotionRead_within {x} {s : State} : s.Within Part.prefixes (State.demotionRead x s) := by
  unfold State.demotionRead
  dsimp only
  split
  · next h1 =>
      refine (State.demoteCheck_within).after ?_
      refine (State.loseNodes_within).after ?_
      refine (State.abandonTransfer_within).after ?_
      refine State.Within.snd₂ ?_ h1
      refine .foldl_snd₂ (fun _ _ => ?_) .refl
      split
      · exact .refl
      · split
        · exact .refl
        · exact (State.rowImage_within).mono
  · next h1 =>
      refine (State.demoteCheck_within).after ?_
      refine (State.count_within).after ?_
      refine .overList (fun _ _ => (State.unlease_within).mono) ?_
      refine .overList (fun _ _ => .overList (fun _ _ => (State.dropRef_within).mono) .refl) ?_
      refine .overList (fun _ _ => .elseStep (State.dropExtent_within).mono .refl) ?_
      refine .overList (fun _ _ => (State.updNode_within).mono) ?_
      refine (State.updExtent_within).after ?_
      refine (State.endTransfer_within).after ?_
      refine State.Within.snd₂ ?_ h1
      refine .foldl_snd₂ (fun _ _ => ?_) .refl
      split
      · exact .refl
      · split
        · exact .refl
        · exact (State.rowImage_within).mono

theorem State.pageLost_within {band page} {s : State} : s.Within Part.prefixes (State.pageLost band page s) :=
  .iteStep (State.journalled_within).mono (.setTalon (.overList (fun _ _ => (State.post_within).after ((State.dropExtent_within).after
      (State.loseNodes_within).mono)) .refl))

theorem State.countRetries_within {cws} {s : State} : s.Within [.talon] (State.countRetries cws s) :=
  .overList (fun _ _ => .elseStep (State.putBand_within).mono .refl) .refl

theorem State.ledgerVolatile_within {s : State} : s.Within Part.reports (State.ledgerVolatile s) :=
  (State.setAlert_within).after ((State.post_within).after (State.wrF_within).mono)

theorem State.ladder_within {cws} {s : State} : s.Within (Part.reporting [.memory, .mem, .power, .serving, .pfx, .talon, .freeCtr])
    (State.ladder cws s) :=
  .iteStep ((State.postFatalAt_within).after ((State.ledgerVolatile_within).after (State.wrF_within).mono)) (.overList (fun _ _ =>
      (State.retireBlock_within).mono) (.overList (fun _ _ => .iteStep ((State.pageLost_within).after ((State.postAt_within).after
      (State.ledgerAdd_within).mono)) ((State.putBand_within).after (.iteStep (State.postAt_within).mono (.ite (State.countSat_within).mono (.ite
      (State.countSat_within).mono (.iteStep (State.countSat_within).mono .refl)))))) (.setTalon ((State.countRetries_within).after
      (State.useTalon_within).mono))))

theorem State.promotionRead_within {x} {s : State} : s.Within (Part.reporting [.memory, .mem, .serving, .pfx, .talon]) (State.promotionRead x s) := by
  unfold State.promotionRead
  dsimp only
  split
  · exact .overList (fun _ _ => (State.unlease_within).mono) (State.endTransfer_within).mono
  · refine (State.count_within).after ?_
    refine .overList (fun _ _ => (State.unlease_within).mono) ?_
    refine .overList (fun _ _ => (State.updNode_within).after (.overList (fun _ _ => (State.addRef_within).mono) .refl)) ?_
    refine .foldl_snd (fun _ _ => ?_) (.pair_snd ((State.countReads_within).after (State.endTransfer_within).mono))
    split
    · exact .refl
    · exact .pair_snd ((State.updRow_within).after (State.fillRow_within).mono)

theorem State.dropLostNodes_within {p} {s : State} : s.Within Part.prefixes (State.dropLostNodes p s) :=
  .overList (fun _ _ => .iteStep (State.loseNodes_within).mono .refl) .refl

theorem State.adopt_within {p sl e} {s : State} : s.Within (Part.reporting [.memory, .mem, .serving, .pfx]) (State.adopt p sl e s) := by
  unfold State.adopt
  refine .foldl_snd (fun _ _ => ?_) .refl
  split
  · exact .refl
  · exact .pair_snd ((State.news_within).after (State.linkNode_within).mono)

theorem State.rebuildIndex_within {p sl} {s : State} : s.Within (Part.reporting [.memory, .mem, .serving, .pfx, .talon]) (State.rebuildIndex p sl s)
    :=
  .ite .refl (.overList (fun _ _ => .overList (fun _ _ => .iteStep ((State.adopt_within).after (State.countReads_within).mono) .refl) .refl) .refl)

end Sys2Proof.Machine
end

section
/-! PROOFS. What the operations of Machine/NdxOps.lean may reach. -/
namespace Sys2Proof.Machine

theorem State.putPeer_within {p j x} {s : State} : s.Within [.ndx] (State.putPeer p j x s) :=
  .setNdx .refl

theorem State.sendFlit_within {l f} {s : State} : s.Within [.pcie, .ndx] (State.sendFlit l f s) :=
  .ite .refl (.ite (State.putLink_within).mono ((State.emit_within).after (State.putLink_within).mono))

theorem State.anyLink_within {ls} {s : State} : s.Within [.freeCtr] (State.anyLink ls s).2 := by
  unfold State.anyLink
  split
  · exact .refl
  · exact .refl
  · exact .pair_snd (State.drawn_within).mono

theorem State.shareLink_within {p hop} {s : State} : s.Within [.freeCtr] (State.shareLink p hop s).2 :=
  (State.anyLink_within).mono

theorem State.restripe_within {p hop} {s : State} : s.Within [.ndx] (State.restripe p hop s) :=
  .overList (fun _ _ => (State.putLink_within).mono) .refl

theorem State.waitFlits_within {p hop fs} {s : State} : s.Within [.ndx] (State.waitFlits p hop fs s) :=
  .setNdx .refl

theorem State.sendOn_within {l fs} {s : State} : s.Within [.pcie, .ndx] (State.sendOn l fs s) :=
  .overList (fun _ _ => (State.sendFlit_within).mono) (State.putLink_within).mono

theorem State.sendUnit_within {p hop fs} {s : State} : s.Within [.pcie, .ndx, .freeCtr] (State.sendUnit p hop fs s) := by
  unfold State.sendUnit
  split
  · next h1 => exact (State.sendOn_within).after (((State.shareLink_within).snd h1).mono)
  · next h1 => exact (State.waitFlits_within).after (((State.shareLink_within).snd h1).mono)

theorem State.sendVia_within {p j fs} {s : State} : s.Within [.pcie, .ndx, .freeCtr] (State.sendVia p j fs s) := by
  unfold State.sendVia
  split
  · next h1 => exact .overList (fun _ _ => (State.sendFlit_within).mono) (((State.anyLink_within).snd h1).mono)
  · next h1 => exact (State.waitFlits_within).after (((State.anyLink_within).snd h1).mono)

theorem State.flushWaiting_within {p hop} {s : State} : s.Within [.pcie, .ndx, .freeCtr] (State.flushWaiting p hop s) := by
  unfold State.flushWaiting
  split
  · exact .refl
  · refine .overList (fun _ _ => ?_) (.setNdx .refl)
    split
    · exact .ite (State.sendFlit_within).mono (State.sendUnit_within).mono
    · exact .refl

theorem State.transmit_within {p j type seq body} {s : State} : s.Within [.pcie, .ndx, .freeCtr] (State.transmit p j type seq body s) :=
  .ite .refl (State.sendVia_within).mono

theorem State.fillWindow_within {p j} {s : State} : s.Within [.pcie, .ndx, .freeCtr] (State.fillWindow p j s) :=
  .overList (fun _ _ => (State.transmit_within).mono) (State.putPeer_within).mono

theorem State.sendControl_within {p j type body} {s : State} : s.Within [.pcie, .ndx, .freeCtr] (State.sendControl p j type body s) :=
  (State.fillWindow_within).after (State.putPeer_within).mono

theorem State.sendAck_within {p j seq} {s : State} : s.Within [.pcie, .ndx, .freeCtr] (State.sendAck p j seq s) :=
  (State.transmit_within).mono

theorem State.sendTransfer_within {p j d} {s : State} : s.Within [.pcie, .ndx, .freeCtr] (State.sendTransfer p j d s) :=
  (State.sendUnit_within).after (State.putPeer_within).mono

theorem State.sendData_within {p j d} {s : State} : s.Within [.pcie, .ndx, .freeCtr] (State.sendData p j d s) :=
  .overList (fun _ _ => (State.sendTransfer_within).mono) .refl

end Sys2Proof.Machine
end

section
/-! PROOFS. What the operations of Machine/ServingOps.lean may reach. -/
namespace Sys2Proof.Machine

theorem State.scqPut_within {p c b} {s : State} : s.Within Part.entries (State.scqPut p c b s).2 := by
  unfold State.scqPut
  dsimp only
  split
  · next h1 => exact .pair_snd ((State.stopRing_within).after (((State.ringWrite_within).snd h1).mono))
  · next h1 => exact .iteStep (State.putServing_within).mono ((State.wrN_within).after (((State.ringWrite_within).snd h1).mono))

theorem State.postEntry_within {p c b} {s : State} : s.Within Part.entries (State.postEntry p c b s).2 :=
  .ite_snd .refl (.ite_snd (.pair_snd (State.putServing_within).mono) (State.scqPut_within).mono)

theorem State.scqIrq_within {p c} {s : State} : s.Within [.pcie] (State.scqIrq p c s) :=
  .ite (State.msix_within).mono .refl

theorem State.postSrv_within {st} {s : State} : s.Within Part.reports (State.postSrv st s) :=
  .ite (State.post_within).mono .refl

theorem State.postNow_within {p rq st kind tag} {s : State} : s.Within Part.entries (State.postNow p rq st kind tag s) := by
  unfold State.postNow
  dsimp only
  split
  · next h1 => exact (State.scqIrq_within).after (((State.postEntry_within).snd h1).after (State.postSrv_within).mono)
  · next h1 => exact ((State.postEntry_within).snd h1).after (State.postSrv_within).mono

theorem State.note_within {p rq st kind b} {s : State} : s.Within (Part.reporting [.serving]) (State.note p rq st kind b s) :=
  (State.putServing_within).after (State.postSrv_within).mono

theorem State.noteAck_within {p rq st tag} {s : State} : s.Within (Part.reporting [.serving]) (State.noteAck p rq st tag s) :=
  (State.note_within).mono

theorem State.flushOutbox_within {p} {s : State} : s.Within Part.entries (State.flushOutbox p s) :=
  .overList (fun _ _ => (State.scqIrq_within).mono) (.foldl_snd (fun _ _ => .pair_snd (State.postEntry_within).mono) (.pair_snd
      (State.putServing_within).mono))

theorem State.endHand_within {p i st reason} {s : State} : s.Within (Part.reporting [.serving]) (State.endHand p i st reason s) := by
  unfold State.endHand
  split
  · exact .refl
  · exact .ite .refl ((State.updSlot_within).after ((State.updHand_within).after (.iteStep (State.count_within).mono (State.note_within).mono)))

theorem State.endHeld_within {p r st} {s : State} : s.Within (Part.reporting [.serving]) (State.endHeld p r st s) :=
  (State.putServing_within).after (State.note_within).mono

theorem State.retireHand_within {p i} {s : State} : s.Within Part.tables (State.retireHand p i s) := by
  unfold State.retireHand
  split
  · exact (State.freeHand_within).after (.ite (State.noteAck_within).mono .refl)
  · exact .refl

theorem State.freeEnded_within {p sl} {s : State} : s.Within Part.tables (State.freeEnded p sl s) :=
  .overList (fun _ _ => (State.retireHand_within).mono) .refl

theorem State.setTrick_within {sl t} {s : State} : s.Within [.regs] (State.setTrick sl t s) :=
  (State.wr64_within).mono

theorem State.failSlot_within {p sl st} {s : State} : s.Within Part.tables (State.failSlot p sl st s) :=
  (State.showServing_within).after ((State.wrF_within).after ((State.freeEnded_within).after ((State.updSlot_within).after (.overList (fun _ _ =>
      .ite (State.noteAck_within).mono (State.noteAck_within).mono) (.overList (fun _ _ => (State.endHeld_within).mono) (.overList (fun _ _ =>
      (State.endHand_within).mono) .refl))))))

theorem State.countAbandoned_within {sl t} {s : State} : s.Within (Part.reporting [.serving]) (State.countAbandoned sl t s).2 :=
  .pair_snd ((State.updSlot_within).after ((State.post_within).after ((State.count_within).after (State.setTrick_within).mono)))

theorem State.loseSlot_within {p sl} {s : State} : s.Within Part.entries (State.loseSlot p sl s) := by
  unfold State.loseSlot
  refine .ite .refl ?_
  refine (State.flushOutbox_within).after ?_
  refine (State.failSlot_within).after ?_
  split
  · exact (State.countAbandoned_within).mono
  · exact .refl

theorem State.loseGroup_within {p} {s : State} : s.Within Part.entries (State.loseGroup p s) :=
  .overList (fun _ _ => (State.loseSlot_within).mono) .refl

theorem State.tokensArrived_within {p h first} {s : State} : s.Within [.regs] (State.tokensArrived p h first s).2.2 :=
  .ite_snd₂ (.ite (State.count_within).mono .refl) (.ite_snd₂ .refl (.ite (State.count_within).mono .refl))

theorem State.updateCap_within {p sl} {s : State} : s.Within [.regs] (State.updateCap p sl s) :=
  (State.wrN_within).mono

theorem State.updateAverage_within {sl trick} {s : State} : s.Within [.regs, .serving] (State.updateAverage sl trick s) :=
  .ite ((State.wrN_within).after (State.putSlot_within).mono) (.iteStep (State.wrN_within).mono (State.putSlot_within).mono)

theorem State.tagEntry_within {p tag} {s : State} : s.Within (Part.reporting [.memory]) (State.tagEntry p tag s).2 := by
  conv in @State.tagEntry => delta State.tagEntry
  obtain ⟨rd64', hrd64⟩ := exists_eq' (a' := @State.rd64)
  rw [hrd64]
  split
  · next h1 => exact .pair_snd (((State.hbmRead_within).snd₂ h1).mono)
  · next h1 => exact .pair_snd (((State.hbmRead_within).snd₂ h1).mono)

theorem State.lookSegment_within {p sl g} {s : State} : s.Within (Part.reporting [.memory]) (State.lookSegment p sl g s).2 := by
  unfold State.lookSegment
  refine .ite_snd .refl ?_
  split
  · next h1 => exact .pair_snd (((State.tagEntry_within).snd h1).mono)
  · next h1 => exact .ite_snd (.pair_snd (((State.tagEntry_within).snd h1).mono)) (.ite_snd (.pair_snd (((State.tagEntry_within).snd h1).mono))
        (.pair_snd (((State.tagEntry_within).snd h1).mono)))

theorem State.lookSegments_within {p sl segs} {s : State} : s.Within (Part.reporting [.memory]) (State.lookSegments p sl segs s).2 :=
  .foldl_snd (fun _ _ => .pair_snd (State.lookSegment_within).mono) .refl

theorem State.addHand_within {p h} {s : State} : s.Within [.regs, .serving] (State.addHand p h s) :=
  (State.showServing_within).after (State.putServing_within).mono

theorem State.admitRequest_within {p r segs i kitty} {s : State} : s.Within (Part.reporting [.heldRS, .memory, .mem, .serving, .pfx])
    (State.admitRequest p r segs i kitty s) := by
  conv in @State.admitRequest => delta State.admitRequest
  obtain ⟨walkPath', hwalkPath⟩ := exists_eq' (a' := @State.walkPath)
  have wwalkPath := @State.walkPath_within
  rw [hwalkPath] at wwalkPath ⊢
  exact (State.updSlot_within).after ((State.addHand_within).after ((State.applyHit_within).after (wwalkPath.after ((State.walkTokens_within).after
      (State.putServing_within).mono))))

theorem State.considerHeld_within {p sl table l x1} {s : State} : s.Within (Part.reporting [.heldRS, .memory, .mem, .serving, .pfx])
    (State.considerHeld p sl table l x1 s) := by
  induction l generalizing x1 s with
  | nil => exact .refl
  | cons _ _ ih =>
    rw [State.considerHeld]
    dsimp only
    split
    · exact ih.after (.ite ((State.endHeld_within).after (State.lookSegments_within).mono) (State.lookSegments_within).mono)
    · refine .ite (ih.after (State.lookSegments_within).mono) ?_
      split
      · exact .ite (ih.after (State.lookSegments_within).mono) (.ite (ih.after ((State.admitRequest_within).after (State.lookSegments_within).mono))
            (ih.after (State.lookSegments_within).mono))
      · exact ih.after (State.lookSegments_within).mono

theorem State.admitHeld_within {p sl table} {s : State} : s.Within (Part.reporting [.heldRS, .memory, .mem, .serving, .pfx])
    (State.admitHeld p sl table s) := by
  unfold State.admitHeld
  dsimp only
  split
  · exact (State.considerHeld_within).after (.overList (fun _ _ => (State.count_within).after (State.endHeld_within).mono) .refl)
  · exact .overList (fun _ _ => (State.count_within).after (State.endHeld_within).mono) .refl

theorem State.submitCopy_within {p sl trick template} {s : State} : s.Within [.regs, .power, .dealer] (State.submitCopy p sl trick template s) :=
  (State.wake_within).after (State.putPartDealer_within).mono

theorem State.sendPlan_within {p t} {s : State} : s.Within [.pcie, .ndx, .freeCtr] (State.sendPlan p t s) :=
  .overList (fun _ _ => .overList (fun _ _ => (State.sendControl_within).mono) .refl) .refl

theorem State.submitReady_within {p} {s : State} : s.Within [.regs, .pcie, .power, .dealer, .serving, .ndx, .freeCtr] (State.submitReady p s) := by
  unfold State.submitReady
  refine .overList (fun _ _ => ?_) .refl
  split
  · exact .elseStep ((State.submitCopy_within).after ((State.sendPlan_within).after (State.updSlot_within).mono)) .refl
  · exact .refl

end Sys2Proof.Machine
end

section
/-! PROOFS. What the operations of Machine/Links.lean may reach. -/
namespace Sys2Proof.Machine

theorem State.dropCollective_within {c} {s : State} : s.Within [.ndx] (State.dropCollective c s) :=
  .setNdx .refl

theorem State.updCollective_within {uid tid f} {s : State} : s.Within [.ndx] (State.updCollective uid tid f s) :=
  .setNdx .refl

theorem State.placeNext_within {p} {s : State} : s.Within [.ndx] (State.placeNext p s) := by
  unfold State.placeNext
  refine .ite .refl ?_
  split
  · exact (State.updCollective_within).mono
  · exact .refl

theorem State.failCollective_within {c st} {s : State} : s.Within Part.failure (State.failCollective c st s) :=
  (State.placeNext_within).after ((State.failTask_within).after (.iteStep (State.post_within).mono (.setNdx ((State.count_within).after
      (State.dropCollective_within).mono))))

theorem State.failCollectives_within {p st sel} {s : State} : s.Within Part.failure (State.failCollectives p st sel s) :=
  .overList (fun _ _ => (State.failCollective_within).mono) .refl

theorem State.leaveGroup_within {p code st} {s : State} : s.Within Part.entries (State.leaveGroup p code st s) :=
  (State.postPartFatal_within).after ((State.loseGroup_within).after (State.wrF_within).mono)

theorem State.hearFrom_within {p} {s : State} : s.Within [.ndx] (State.hearFrom p s) :=
  .overList (fun _ _ => (State.putPeer_within).mono) .refl

theorem State.evaluateGroup_within {p} {s : State} : s.Within Part.failure (State.evaluateGroup p s) :=
  .ite .refl (.chain (.ite ((State.leaveGroup_within).after (State.failCollectives_within).mono) (State.wrF_within).mono) (.ite
      (State.hearFrom_within).mono .refl))

theorem State.setBw_within {l bw} {s : State} : s.Within [.regs] (State.setBw l bw s) := by
  unfold State.setBw
  dsimp only
  split
  · exact (State.wrF_within).mono
  · refine .elseStep (State.count_within).mono ?_
    split
    · exact (State.wr_within).after (State.wrF_within).mono
    · exact (State.wrF_within).mono

theorem State.moveFlits_within {l} {s : State} : s.Within [.pcie, .ndx, .freeCtr] (State.moveFlits l s) := by
  unfold State.moveFlits
  dsimp only
  split
  · exact (State.putLink_within).mono
  · exact (State.flushWaiting_within).after ((State.waitFlits_within).after ((State.restripe_within).after (State.putLink_within).mono))

theorem State.linkTrained_within {l rate width lanes narrow} {s : State} : s.Within (Part.reporting [.ndx, .freeCtr])
    (State.linkTrained l rate width lanes narrow s) := by
  unfold State.linkTrained
  dsimp only
  split
  · exact (State.flushWaiting_within).after ((State.restripe_within).after (.iteStep ((State.postAt_within).after (State.ledgerAdd_within).mono)
        ((State.putBit_within).after ((State.putLink_within).after ((State.setBw_within).after ((State.wrF_within).after ((State.wrF_within).after
        ((State.wrF_within).after ((State.wrF_within).after (State.wrF_within).mono)))))))))
  · exact .iteStep ((State.postAt_within).after (State.ledgerAdd_within).mono) ((State.putBit_within).after ((State.putLink_within).after
        ((State.setBw_within).after ((State.wrF_within).after ((State.wrF_within).after ((State.wrF_within).after ((State.wrF_within).after
        (State.wrF_within).mono)))))))

theorem State.linkDown_within {l cause} {s : State} : s.Within (Part.reporting [.heldRS, .hostMem, .cores, .memory, .mem, .power, .dealer, .cvOwner,
    .serving, .ndx, .vision, .media, .freeCtr]) (State.linkDown l cause s) := by
  unfold State.linkDown
  dsimp only
  split
  · exact .iteStep (State.evaluateGroup_within).mono (.iteStep ((State.postAt_within).after ((State.count_within).after
        ((State.bumpEpoch_within).after (State.ledgerRecord_within).mono))) ((State.putBit_within).after ((State.moveFlits_within).after
        ((State.postAt_within).after ((State.ledgerAdd_within).after ((State.setBw_within).after ((State.wrF_within).after ((State.wrF_within).after
        ((State.wrF_within).after ((State.wrF_within).after (State.wrF_within).mono))))))))))
  · exact .iteStep ((State.postAt_within).after ((State.count_within).after ((State.bumpEpoch_within).after (State.ledgerRecord_within).mono)))
        ((State.putBit_within).after ((State.moveFlits_within).after ((State.postAt_within).after ((State.ledgerAdd_within).after
        ((State.setBw_within).after ((State.wrF_within).after ((State.wrF_within).after ((State.wrF_within).after ((State.wrF_within).after
        (State.wrF_within).mono)))))))))

theorem State.attempt_within {l maxRate maxWidth narrowRate cause as} {s : State} : s.Within (Part.reporting [.heldRS, .hostMem, .cores, .memory,
    .mem, .power, .dealer, .cvOwner, .serving, .ndx, .vision, .media, .freeCtr]) (State.attempt l maxRate maxWidth narrowRate cause as s) := by
  unfold State.attempt
  dsimp only
  split
  · exact (State.linkTrained_within).after ((State.ledgerAdd_within).after (State.count_within).mono)
  · exact .ite ((State.linkDown_within).after ((State.ledgerAdd_within).after (State.count_within).mono)) ((State.putLink_within).after
        ((State.ledgerAdd_within).after (State.count_within).mono))

theorem State.trainLink_within {l as} {s : State} : s.Within (Part.reporting [.heldRS, .hostMem, .cores, .memory, .mem, .power, .dealer, .cvOwner,
    .serving, .ndx, .vision, .media, .freeCtr]) (State.trainLink l as s) :=
  (State.attempt_within).after (State.wrF_within).mono

theorem execLinkRetrain_answers {link r} {s : State} : s.Answers (Part.reporting [.heldRS, .hostMem, .cores, .memory, .mem, .power, .dealer,
    .cvOwner, .serving, .ndx, .vision, .media, .freeCtr]) (execLinkRetrain link r s) := by
  unfold execLinkRetrain
  refine .ite (.next .refl) ?_
  dsimp only
  split
  · exact .next (.ite ((State.moveFlits_within).after ((State.wrF_within).after ((State.ledgerAdd_within).after (State.count_within).mono))) .refl)
  · exact .next ((State.linkTrained_within).after (.ite ((State.moveFlits_within).after ((State.wrF_within).after ((State.ledgerAdd_within).after
        (State.count_within).mono))) .refl))
  · exact .next ((State.attempt_within).after (.ite ((State.moveFlits_within).after ((State.wrF_within).after ((State.ledgerAdd_within).after
        (State.count_within).mono))) .refl))

theorem execLinkDomainFailure_answers {link} {s : State} : s.Answers (Part.reporting [.heldRS, .hostMem, .cores, .memory, .mem, .power, .dealer,
    .cvOwner, .serving, .ndx, .vision, .media, .freeCtr]) (execLinkDomainFailure link s) :=
  .next (.ite (State.linkDown_within).mono .refl)

theorem execTransitDieFabricFailure_answers {die} {s : State} : s.Answers Part.reports (execTransitDieFabricFailure die s) :=
  .next (.ite (State.postFatal_within).mono .refl)

theorem State.toInbox_within {p src type seq body} {s : State} : s.Within [.ndx] (State.toInbox p src type seq body s) :=
  .setNdx .refl

theorem State.receiveMessage_within {p f m} {s : State} : s.Within [.regs, .pcie, .ndx, .freeCtr] (State.receiveMessage p f m s) :=
  .ite (State.count_within).mono (.ite (State.toInbox_within).mono (.ite ((State.sendAck_within).after ((State.toInbox_within).after
      (State.putPeer_within).mono)) (.ite (State.sendAck_within).mono (State.count_within).mono)))

theorem State.replayFrom_within {l seq} {s : State} : s.Within [.regs, .pcie, .ndx] (State.replayFrom l seq s) :=
  (State.count_within).after (.overList (fun _ _ => (State.emit_within).mono) (State.putLink_within).mono)

theorem State.linkAcked_within {l seq} {s : State} : s.Within [.pcie, .ndx] (State.linkAcked l seq s) :=
  .ite .refl (.overList (fun _ _ => (State.sendFlit_within).mono) (State.putLink_within).mono)

theorem State.sendNotice_within {p l j} {s : State} : s.Within [.regs, .pcie, .ndx] (State.sendNotice p l j s) :=
  .ite .refl (.overList (fun _ _ => (State.sendFlit_within).mono) ((State.count_within).after (State.putLink_within).mono))

theorem State.receiveData_within {p f} {s : State} : s.Within [.ndx] (State.receiveData p f s) := by
  unfold State.receiveData
  dsimp only
  split
  · exact .ite (.setNdx .refl) (.setNdx .refl)
  · exact .setNdx .refl

theorem State.receiveControl_within {p l f} {s : State} : s.Within [.regs, .pcie, .ndx, .freeCtr] (State.receiveControl p l f s) :=
  .ite ((State.receiveMessage_within).after (State.putLink_within).mono) (State.putLink_within).mono

theorem State.relayData_within {p f} {s : State} : s.Within [.pcie, .ndx, .freeCtr] (State.relayData p f s) := by
  unfold State.relayData
  dsimp only
  split
  · exact (State.sendOn_within).after (.setNdx .refl)
  · split
    · next h1 => exact (State.sendOn_within).after (.setNdx (((State.shareLink_within).snd h1).mono))
    · next h1 => exact (State.waitFlits_within).after (.setNdx (((State.shareLink_within).snd h1).mono))

theorem State.relayControl_within {p l f} {s : State} : s.Within [.pcie, .ndx, .freeCtr] (State.relayControl p l f s) :=
  .ite ((State.sendVia_within).after (State.putLink_within).mono) (State.putLink_within).mono

theorem State.deliver_within {p l f} {s : State} : s.Within [.regs, .pcie, .power, .ndx, .freeCtr] (State.deliver p l f s) :=
  .ite (.ite ((State.receiveControl_within).after (.elseStep (State.wake_within).mono (State.putPeer_within).mono))
      ((State.receiveData_within).after ((State.wake_within).after (State.putPeer_within).mono))) (.ite (.ite (State.relayControl_within).mono
      (State.relayData_within).mono) (State.count_within).mono)

theorem State.checkFlit_within {p l f} {s : State} : s.Within (Part.reporting [.power, .ndx, .freeCtr]) (State.checkFlit p l f s) :=
  .ite (State.deliver_within).mono (.ite ((State.post_within).after (State.count_within).mono) (.ite ((State.sendNotice_within).after
      ((State.post_within).after (State.count_within).mono)) (.ite ((State.post_within).after (State.count_within).mono)
      (State.deliver_within).mono)))

theorem State.linkReply_within {type l p seq} {s : State} : s.Within [.pcie] (State.linkReply type l p seq s) :=
  .ite .refl (State.emit_within).mono

theorem execFlitReceive_answers {link lseq fec f} {s : State} : s.Answers (Part.reporting [.power, .dealer, .serving, .ndx, .freeCtr])
    (execFlitReceive link lseq fec f s) := by
  unfold execFlitReceive
  split
  · exact .next .refl
  · refine .ite (.next ((State.linkReply_within).after ((State.ledgerAdd_within).after ((State.count_within).after (.setLedger .refl))))) ?_
    dsimp only
    split
    · exact .next (.ite ((State.ledgerAdd_within).after ((State.count_within).after (.setLedger .refl))) (.setLedger .refl))
    · exact .next ((State.submitReady_within).after ((State.linkAcked_within).after (.ite ((State.ledgerAdd_within).after
          ((State.count_within).after (.setLedger .refl))) (.setLedger .refl))))
    · exact .next ((State.replayFrom_within).after (.ite ((State.ledgerAdd_within).after ((State.count_within).after (.setLedger .refl)))
          (.setLedger .refl)))
    · exact .ite (.next (.ite ((State.ledgerAdd_within).after ((State.count_within).after (.setLedger .refl))) (.setLedger .refl))) (.next
          ((State.checkFlit_within).after (.ite ((State.linkReply_within).after ((State.putLink_within).after (.ite ((State.ledgerAdd_within).after
          ((State.count_within).after (.setLedger .refl))) (.setLedger .refl)))) ((State.feedPath_within).after ((State.linkReply_within).after
          ((State.putLink_within).after (.ite ((State.ledgerAdd_within).after ((State.count_within).after (.setLedger .refl))) (.setLedger
          .refl))))))))
    · exact .ite (.next (.ite ((State.ledgerAdd_within).after ((State.count_within).after (.setLedger .refl))) (.setLedger .refl))) (.next
          ((State.checkFlit_within).after (.ite ((State.linkReply_within).after ((State.putLink_within).after (.ite ((State.ledgerAdd_within).after
          ((State.count_within).after (.setLedger .refl))) (.setLedger .refl)))) ((State.feedPath_within).after ((State.linkReply_within).after
          ((State.putLink_within).after (.ite ((State.ledgerAdd_within).after ((State.count_within).after (.setLedger .refl))) (.setLedger
          .refl))))))))
    · exact .ite (.next (.ite ((State.ledgerAdd_within).after ((State.count_within).after (.setLedger .refl))) (.setLedger .refl))) (.next
          ((State.checkFlit_within).after (.ite ((State.linkReply_within).after ((State.putLink_within).after (.ite ((State.ledgerAdd_within).after
          ((State.count_within).after (.setLedger .refl))) (.setLedger .refl)))) ((State.feedPath_within).after ((State.linkReply_within).after
          ((State.putLink_within).after (.ite ((State.ledgerAdd_within).after ((State.count_within).after (.setLedger .refl))) (.setLedger
          .refl))))))))
    · exact .next ((State.count_within).after (.ite ((State.ledgerAdd_within).after ((State.count_within).after (.setLedger .refl))) (.setLedger
          .refl)))

theorem execLinkNakReceive_answers {link seq} {s : State} : s.Answers [.regs, .pcie, .ndx] (execLinkNakReceive link seq s) :=
  .next (.ite (State.replayFrom_within).mono .refl)

theorem execLinkAckReceive_answers {link seq} {s : State} : s.Answers [.regs, .pcie, .power, .dealer, .serving, .ndx, .freeCtr]
    (execLinkAckReceive link seq s) := by
  unfold execLinkAckReceive
  refine .next ?_
  refine .ite ?_ .refl
  dsimp only
  split
  · exact (State.submitReady_within).after (State.linkAcked_within).mono
  · exact (State.linkAcked_within).mono

end Sys2Proof.Machine
end

section
/-! PROOFS. What the operations of Machine/Serving.lean may reach. -/
namespace Sys2Proof.Machine

theorem State.readSamples_within {sl trick l} {s : State} : s.Within (Part.reporting [.memory]) (State.readSamples sl trick l s).2 := by
  obtain ⟨samples, hsamples⟩ := exists_eq' (a' := @State.readSamples)
  obtain ⟨read, hread⟩ := exists_eq' (a' := @State.globalRead)
  have hr := @State.globalRead_within
  rw [hsamples]
  delta State.readSamples State.readSamples._f at hsamples
  rw [hread] at hr hsamples
  subst hsamples
  induction l generalizing s with
  | nil => exact .refl
  | cons x l ih =>
    dsimp only [List.brecOn, List.brecOn.go] at ih ⊢
    refine .ite_snd ih ?_
    split
    · next h1 => exact hr.snd₂ h1
    · next h1 =>
      split
      · next h2 => exact (ih.snd h2).chain (hr.snd₂ h1)
      · next h2 => exact (ih.snd h2).chain (hr.snd₂ h1)

theorem State.postTokens_within {p h toks firstPos} {s : State} : s.Within (Part.reporting [.serving]) (State.postTokens p h toks firstPos s).2 := by
  unfold State.postTokens
  dsimp only
  split
  · exact (State.endHand_within).after ((State.putHand_within).after ((State.note_within).after (State.tokensArrived_within).mono))
  · exact (State.putHand_within).after ((State.note_within).after (State.tokensArrived_within).mono)

theorem State.verifyHand_within {p sl rows samples i} {s : State} : s.Within (Part.reporting [.serving]) (State.verifyHand p sl rows samples i s).2
    := by
  unfold State.verifyHand
  split
  · exact .refl
  · refine .ite_snd .refl ?_
    refine .ite_snd (.pair_snd ((State.updSlot_within).after ((State.postTokens_within).after ((State.count_within).after
        (State.count_within).mono)))) ?_
    dsimp only
    split
    · exact .pair_snd (State.putHand_within).mono
    · exact .pair_snd (State.postTokens_within).mono

theorem State.rollbackRows_within {p rows} {s : State} : s.Within Part.tables (State.rollbackRows p rows s) := by
  unfold State.rollbackRows
  refine .overList (fun _ _ => ?_) .refl
  split
  · exact .iteStep ((State.putHand_within).after (State.kvRollback_within).mono) .refl
  · exact .refl

theorem State.failResume_within {p sl h} {s : State} : s.Within (Part.reporting [.serving]) (State.failResume p sl h s) :=
  (State.updHand_within).after ((State.updSlot_within).after (State.noteAck_within).mono)

theorem State.endNamed_within {p sl e} {s : State} : s.Within (Part.reporting [.serving]) (State.endNamed p sl e s) := by
  unfold State.endNamed
  split
  · exact .refl
  · exact .ite (State.failResume_within).mono (State.endHand_within).mono

theorem State.firstTrickDone_within {p i} {s : State} : s.Within (Part.reporting [.serving, .talon, .freeCtr]) (State.firstTrickDone p i s) := by
  unfold State.firstTrickDone
  split
  · exact .refl
  · split
    · exact .refl
    · exact (State.dropParked_within).after ((State.updHand_within).after (.ite (State.noteAck_within).mono .refl))

theorem State.applyTrick_within {p sl f} {s : State} : s.Within Part.tables (State.applyTrick p sl f s).2 := by
  unfold State.applyTrick
  split
  next st fails h0 =>
  extract_lets bad named u decodeRows v lost
  have hv : s.Within Part.tables v := (State.updSlot_within).after (.overList (fun _ _ => (State.endNamed_within).mono) .refl)
  have hlost (w : State) : w.Within Part.tables (lost w).2 := by
    dsimp only [lost]
    split
    · next h1 => exact .pair_snd ((State.failSlot_within).after ((State.rollbackRows_within).after (((State.countAbandoned_within).snd h1).mono)))
    · next h1 => exact .pair_snd ((State.rollbackRows_within).after (((State.countAbandoned_within).snd h1).mono))
  refine .ite_snd ((hlost v).chain hv) ?_
  split
  · next h1 => exact (hlost _).chain (((State.readSamples_within).snd h1).after hv)
  · next h1 =>
    exact .pair_snd (.foldl_snd (fun _ _ => .pair_snd (State.verifyHand_within).mono)
      (.pair_snd ((State.updSlot_within).after ((State.setTrick_within).after (((State.readSamples_within).snd h1).after hv)))))

theorem State.doCancel_within {p sl c} {s : State} : s.Within (Part.reporting [.serving]) (State.doCancel p sl c s) := by
  unfold State.doCancel
  split
  · exact (State.noteAck_within).after (State.endHeld_within).mono
  · dsimp only
    split
    · exact .ite (State.noteAck_within).mono ((State.noteAck_within).after ((State.endHand_within).after (.ite (State.noteAck_within).mono .refl)))
    · exact (State.noteAck_within).mono
    · exact (State.noteAck_within).mono

theorem State.doPark_within {p sl c} {s : State} :
    s.Within (Part.reporting [.memory, .mem, .serving, .talon]) (State.doPark p sl c s) := by
  unfold State.doPark
  refine .ite (State.noteAck_within).mono ?_
  split
  · exact (State.noteAck_within).mono
  · refine .ite (State.noteAck_within).mono ?_
    dsimp only
    split
    · exact (State.noteAck_within).mono
    · next h1 =>
      split at h1
      · exact (State.updSlot_within).after ((State.putHand_within).after ((State.showShare_within).after (.setTalon ((State.leaseHand_within).after
          ((State.newName_within).after (State.place_within h1).mono)))))
      · cases h1

theorem State.finishParkings_within {p sl} {s : State} : s.Within (Part.reporting [.serving, .talon, .freeCtr]) (State.finishParkings p sl s) :=
  .overList (fun _ _ => .ite ((State.noteAck_within).after (State.endHand_within).mono) ((State.noteAck_within).after ((State.endHand_within).after
      (State.dropParked_within).mono))) .refl

theorem State.doResume_within {p sl c} {s : State} : s.Within (Part.reporting [.serving]) (State.doResume p sl c s) := by
  unfold State.doResume
  split
  · exact (State.updSlot_within).after (State.addHand_within).mono
  · exact (State.noteAck_within).mono

theorem State.enterResumed_within {p h} {s : State} : s.Within (Part.reporting [.heldRS, .memory, .serving]) (State.enterResumed p h s) :=
  .ite ((State.putHand_within).after (State.walkTokens_within).mono) (State.putHand_within).mono

theorem State.finishResumes_within {p sl} {s : State} : s.Within (Part.reporting [.heldRS, .memory, .serving]) (State.finishResumes p sl s) :=
  .overList (fun _ _ => .ite (.elseStep (State.noteAck_within).mono (State.enterResumed_within).mono) (State.failResume_within).mono) (.ite
      (State.updSlot_within).mono .refl)

theorem State.extendHand_within {p sl i full l} {s : State} : s.Within Part.prefixes (State.extendHand p sl i full l s) := by
  induction l generalizing s with
  | zero => exact .refl
  | succ l ih =>
    rw [State.extendHand]
    split
    · exact .refl
    · refine .ite .refl ?_
      split
      · next h1 => exact (State.putHand_within).after ((State.kvExtend_within h1).mono)
      · dsimp only
        split
        · next h2 => exact (State.putHand_within).after ((State.kvExtend_within h2).after ((State.demoteCheck_within).after
              (State.countExhaust_within).mono))
        · exact ih.after ((State.retireHand_within).after ((State.endHand_within).after ((State.demoteCheck_within).after
              (State.countExhaust_within).mono)))

theorem State.commitHand_within {p sl k} {s : State} : s.Within Part.prefixes (State.commitHand p sl k s) := by
  unfold State.commitHand
  split
  · exact .refl
  · refine .ite .refl ?_
    dsimp only
    split
    · exact (State.extendHand_within).after ((State.putHand_within).after (State.kvSettle_within).mono)
    · exact (State.putHand_within).after (.ite_snd (.pair_snd ((State.extendHand_within).after ((State.putHand_within).after
          (State.kvSettle_within).mono))) ((State.insertNodes_within).after ((State.extendHand_within).after ((State.putHand_within).after
          (State.kvSettle_within).mono))))

theorem State.promptInput_within {sl d pos} {s : State} : s.Within (Part.reporting [.heldRS, .memory]) (State.promptInput sl d pos s).2 := by
  unfold State.promptInput
  split
  · refine .ite_snd ?_ ?_
    · refine .ite_snd .refl ?_
      split
      · next h1 => exact .pair_snd (((State.globalRead_within).snd₂ h1).mono)
      · next h1 => exact .pair_snd (((State.globalRead_within).snd₂ h1).mono)
    · split
      · next h2 => exact .pair_snd (((State.globalRead_within).snd₂ h2).mono)
      · next h2 => exact .pair_snd (((State.globalRead_within).snd₂ h2).mono)
  · refine .ite_snd (.pair_snd (State.hostReading_within).mono) ?_
    split
    · next h3 => exact .pair_snd (((State.globalRead_within).snd₂ h3).mono)
    · next h3 => exact .pair_snd (((State.globalRead_within).snd₂ h3).mono)

theorem State.chunkRows_within {sl h final l x1} {s : State} : s.Within (Part.reporting [.heldRS, .memory]) (State.chunkRows sl h final l x1 s).2
    := by
  induction l generalizing x1 s with
  | zero => exact .refl
  | succ l ih =>
    rw [State.chunkRows]
    split
    · next h1 => exact .pair_snd (((State.promptInput_within).snd h1).mono)
    · next h1 =>
        split
        · next h2 => exact .pair_snd ((ih.snd h2).after (((State.promptInput_within).snd h1).mono))
        · next h2 => exact .pair_snd ((ih.snd h2).after (((State.promptInput_within).snd h1).mono))

theorem State.addDecode_within {p sl h b} {s : State} : s.Within [.serving] (State.addDecode p sl h b s).2 :=
  .pair_snd (State.putHand_within).mono

theorem State.addChunk_within {p sl h b} {s : State} : s.Within (Part.reporting [.heldRS, .memory, .mem, .serving, .pfx, .talon, .freeCtr])
    (State.addChunk p sl h b s).2 := by
  unfold State.addChunk
  refine .ite_snd .refl ?_
  dsimp only
  split
  · next h1 => exact .pair_snd ((State.endHand_within).after (((State.chunkRows_within).snd h1).mono))
  · next h1 =>
      split
      · exact .pair_snd ((State.demoteCheck_within).after ((State.countExhaust_within).after (((State.chunkRows_within).snd h1).mono)))
      · next h2 => exact .pair_snd ((State.putHand_within).after ((State.kvReserve_within h2).after (((State.chunkRows_within).snd h1).mono)))

theorem State.gatherRows_within {p sl budget} {s : State} : s.Within (Part.reporting [.heldRS, .memory, .mem, .serving, .pfx, .talon, .freeCtr])
    (State.gatherRows p sl budget s).2 :=
  .foldl_snd (fun _ _ => (State.addChunk_within).mono) (.pair_snd (.foldl_snd (fun _ _ => (State.addDecode_within).mono) (.pair_snd (.ite
      (State.putSlot_within).mono .refl))))

theorem State.writeRows_within {base n i rows} {s : State} : s.Within (Part.reporting [.memory, .mem]) (State.writeRows base n i rows s).2 := by
  induction n generalizing i rows s with
  | zero => exact .refl
  | succ n ih =>
    unfold State.writeRows
    dsimp only
    split
    · next h1 => exact (State.hbmWrite_within).snd h1
    · next h1 => exact ih.after ((State.hbmWrite_within).snd h1)

theorem State.sendRows_within {p t embed} {s : State} : s.Within [.pcie, .ndx, .freeCtr] (State.sendRows p t embed s).2 :=
  .foldl_snd (fun _ _ => .pair_snd (State.sendData_within).mono) .refl

theorem State.abandonBuild_within {p sl rows} {s : State} : s.Within Part.tables (State.abandonBuild p sl rows s) := by
  unfold State.abandonBuild
  split
  · next h1 => exact (State.failSlot_within).after (((State.countAbandoned_within).snd h1).after (State.rollbackRows_within).mono)
  · next h1 => exact (State.updSlot_within).after (((State.countAbandoned_within).snd h1).after (State.rollbackRows_within).mono)

theorem State.prepareTrick_within {p sl table} {s : State} :
    s.Within (Part.reporting [.heldRS, .memory, .mem, .serving, .pfx, .talon, .freeCtr]) (State.prepareTrick p sl table s).2 := by
  unfold State.prepareTrick
  refine .ite_snd .refl ?_
  split
  · exact .pair_snd (State.abandonBuild_within).mono
  · extract_lets bs
    split
    next b u h1 =>
    have hu : s.Within (Part.reporting [.heldRS, .memory, .mem, .serving, .pfx, .talon, .freeCtr]) u :=
      ((State.gatherRows_within).snd h1).mono
    refine .ite_snd hu ?_
    split
    · exact .pair_snd ((State.rollbackRows_within).after hu)
    · dsimp only
      split
      · next h2 => exact .pair_snd ((State.abandonBuild_within).after (((State.globalRead_within).snd₂ h2).after hu))
      · next h2 =>
        split
        · next h3 =>
          exact .pair_snd ((State.abandonBuild_within).after (((State.writeRows_within).snd h3).after (((State.globalRead_within).snd₂ h2).after hu)))
        · next h3 => exact .pair_snd (((State.writeRows_within).snd h3).after (((State.globalRead_within).snd₂ h2).after hu))

theorem State.launchTrick_within {p sl k} {s : State} : s.Within [.regs, .pcie, .power, .dealer, .serving, .ndx, .freeCtr]
    (State.launchTrick p sl k s) :=
  (State.submitReady_within).after ((State.putSlot_within).after (State.sendRows_within).mono)

theorem State.commitSlotRS_within {p sl} {s : State} : s.Within [.regs, .heldRS, .serving] (State.commitSlotRS p sl s) := by
  unfold State.commitSlotRS
  exact (State.commitRS_within).after (.elseStep (State.updSlot_within).mono (.overList (fun _ _ => (State.updSlot_within).mono) .refl))

theorem State.badRecords_within {p bad} {s : State} : s.Within (Part.reporting [.memory]) (State.badRecords p bad s).2 := by
  unfold State.badRecords
  refine .foldl_snd (fun _ _ => ?_) .refl
  refine .ite_snd .refl ?_
  split
  · next h1 => exact .pair_snd (((State.readReserve_within).snd h1).mono)
  · next h1 => exact .pair_snd (((State.readReserve_within).snd h1).mono)

theorem State.readTable_within {p sl} {s : State} : s.Within (Part.reporting [.memory]) (State.readTable p sl s).2 := by
  unfold State.readTable
  refine .ite_snd .refl ?_
  split
  · next h1 => exact .pair_snd (((State.globalRead_within).snd₂ h1).mono)
  · next h1 => exact .pair_snd (((State.globalRead_within).snd₂ h1).mono)

theorem State.decideAt_within {p sl} {s : State} : s.Within [.serving] (State.decideAt p sl s) :=
  (State.putServing_within).mono

theorem State.boundary_within {p sl badHands} {s : State} : s.Within Part.boundary (State.boundary p sl badHands s) := by
  unfold State.boundary
  extract_lets u f v
  split
  next bad w h1 =>
  extract_lets x y r z kept cmds a b c d e g i j
  have hy : s.Within Part.boundary y :=
    (State.updSlot_within).after (.overList (fun _ _ => (State.endNamed_within).mono) (((State.badRecords_within).snd h1).after
      ((State.updSlot_within).after ((State.decideAt_within).after (State.commitSlotRS_within).mono))))
  have hz : s.Within Part.boundary z := by
    clear_value f
    dsimp only [z, r]
    split
    · exact (State.applyTrick_within).after hy
    · exact hy
  clear_value z r
  refine .ite ((State.decideAt_within).after ((State.flushOutbox_within).after hz)) ?_
  have hd : s.Within Part.boundary d :=
    (State.freeRows_within).after ((State.freeEnded_within).after (.overList (fun _ _ => (State.commitHand_within).mono)
      (.overList (fun _ _ => (State.firstTrickDone_within).mono) (.overList (fun _ _ => (State.doCancel_within).mono)
        ((State.updSlot_within).after hz)))))
  have hj : s.Within Part.boundary j :=
    (State.updateAverage_within).after ((State.updateCap_within).after ((State.freeEnded_within).after ((State.finishResumes_within).after
      ((State.finishParkings_within).after (.overList (fun _ _ => (State.doPark_within).mono) ((State.demoteCheck_within).after
        ((State.dropLostNodes_within).after hd)))))))
  split
  next table k h2 =>
  extract_lets l m
  have hm : s.Within Part.boundary m :=
    .overList (fun _ _ => (State.doResume_within).mono) ((State.admitHeld_within).after (((State.readTable_within).snd h2).after hj))
  split
  next ready n h3 =>
  have hn : s.Within Part.boundary n := State.Within.snd (.ite_snd ((State.prepareTrick_within).after hm) hm) h3
  extract_lets o
  have ho : s.Within Part.boundary o :=
    (State.decideAt_within).after ((State.flushOutbox_within).after ((State.showServing_within).after ((State.freeEnded_within).after hn)))
  split
  · exact (State.launchTrick_within).after ho
  · exact ho

theorem State.idleBoundary_within {p sl} {s : State} : s.Within Part.boundary (State.idleBoundary p sl s) :=
  .ite (State.boundary_within).mono (State.updSlot_within).mono

theorem State.putFetched_within {p x} {s : State} : s.Within [.serving] (State.putFetched p x s) :=
  .setServing .refl

theorem State.fetchRequest_within {p l} {s : State} : s.Within (Part.reporting [.heldRS, .hostMem, .memory, .mem, .dealer, .serving, .vision,
    .media]) (State.fetchRequest p l s) := by
  induction l generalizing s with
  | nil => exact .refl
  | cons _ _ ih =>
    rw [State.fetchRequest]
    refine .ite (ih.mono) ?_
    dsimp only
    split
    · next h1 => exact ih.after ((State.stopRing_within).after (((State.ringRead_within).snd h1).mono))
    · next h1 => exact .ite (ih.after (((State.ringRead_within).snd h1).mono)) (.chain (.ite (State.postNow_within).mono
          (State.putFetched_within).mono) ((State.putServing_within).after ((State.wrN_within).after (((State.ringRead_within).snd h1).mono))))

theorem execRequestFetch_answers {p upsets} {s : State} : s.Answers (Part.reporting [.heldRS, .hostMem, .cores, .memory, .mem, .dealer, .serving,
    .vision, .media]) (execRequestFetch p upsets s) :=
  .ite (.next (State.upset_within).mono) (.next ((State.showServing_within).after ((State.fetchRequest_within).after (State.upset_within).mono)))

theorem State.enqueue_within {p q b} {s : State} : s.Within Part.entries (State.enqueue p q b s).2 := by
  unfold State.enqueue
  refine .ite_snd (.iteStep (State.slotEvent_within).mono (State.postNow_within).mono) ?_
  refine .ite_snd (.iteStep (State.slotEvent_within).mono (State.postNow_within).mono) ?_
  refine .ite_snd (.iteStep (State.slotEvent_within).mono (State.postNow_within).mono) ?_
  split
  · next h1 => exact .iteStep (State.slotEvent_within).mono ((State.postNow_within).after (State.Within.snd₂ (.ite_snd₂ .refl
        (State.globalRead_within).mono) h1))
  · next h1 => exact .ite_snd (.iteStep (State.slotEvent_within).mono ((State.postNow_within).after (State.Within.snd₂ (.ite_snd₂ .refl
        (State.globalRead_within).mono) h1))) (.ite_snd (.iteStep (State.slotEvent_within).mono ((State.postNow_within).after (State.Within.snd₂
        (.ite_snd₂ .refl (State.globalRead_within).mono) h1))) (.ite_snd (.iteStep (State.slotEvent_within).mono ((State.postNow_within).after
        (State.Within.snd₂ (.ite_snd₂ .refl (State.globalRead_within).mono) h1))) (.pair_snd ((State.putServing_within).after (State.Within.snd₂
        (.ite_snd₂ .refl (State.globalRead_within).mono) h1)))))

theorem State.submit_within {p q b} {s : State} : s.Within (Part.reporting [.heldRS, .hostMem, .memory, .mem, .dealer, .serving, .pfx, .talon,
    .vision, .media]) (State.submit p q b s) := by
  unfold State.submit
  split
  · next h1 => exact (State.showServing_within).after ((State.slotEvent_within).after ((State.lookup_within).after
        (((State.enqueue_within).snd h1).mono)))
  · next h1 => exact ((State.enqueue_within).snd h1).mono

theorem State.endHeldNow_within {p st r} {s : State} : s.Within Part.entries (State.endHeldNow p st r s) :=
  (State.showServing_within).after ((State.slotEvent_within).after ((State.flushOutbox_within).after (State.endHeld_within).mono))

theorem State.submitFailed_within {p st q b} {s : State} : s.Within Part.entries (State.submitFailed p st q b s) := by
  unfold State.submitFailed
  split
  · next h1 => exact (State.endHeldNow_within).after (((State.enqueue_within).snd h1).mono)
  · next h1 => exact ((State.enqueue_within).snd h1).mono

theorem State.command_within {p q b} {s : State} : s.Within Part.entries (State.command p q b s) :=
  .ite (.ite (State.postNow_within).mono (.ite (State.postNow_within).mono ((State.slotEvent_within).after (State.updSlot_within).mono))) (.ite
      (State.postNow_within).mono ((State.slotEvent_within).after (State.updSlot_within).mono))

theorem State.Within.onFetched {Q : List Part} {s t : State} {p op f} (hf : ∀ q b (u : State), u.Within Q (f q b u)) (h : s.Within Q t)
    (hQ : autoParam (Part.Fits [.regs, .power, .serving] Q) Nat.toPNat._auto_1) :
    s.Within Q (t.onFetched p op f) := by
  refine .chain ?_ h
  unfold State.onFetched
  split
  · exact .ite ((hf _ _ _).chain (.of_subset (P := [.regs, .power, .serving]) ((State.putFetched_within).after (State.wake_within).mono)
        (Part.subset_of_bits hQ))) .refl
  · exact .refl

theorem execSubmit_answers {p upsets} {s : State} : s.Answers (Part.reporting [.heldRS, .hostMem, .cores, .memory, .mem, .power, .dealer, .serving,
    .pfx, .talon, .vision, .media]) (execSubmit p upsets s) :=
  .next (.ite (State.upset_within).mono (.onFetched (fun _ _ _ => (State.submit_within).mono) (State.upset_within).mono))

theorem execCancel_answers {p} {s : State} : s.Answers Part.submission (execCancel p s) :=
  .next (.onFetched (fun _ _ _ => (State.command_within).mono) .refl)

theorem execPark_answers {p} {s : State} : s.Answers Part.submission (execPark p s) :=
  .next (.onFetched (fun _ _ _ => (State.command_within).mono) .refl)

theorem execResume_answers {p} {s : State} : s.Answers Part.submission (execResume p s) :=
  .next (.onFetched (fun _ _ _ => (State.command_within).mono) .refl)

theorem State.takeReport_within {sl} {s : State} : s.Within [.dealer] (State.takeReport sl s).2 := by
  unfold State.takeReport
  dsimp only
  split
  · exact .refl
  · exact .setDealer .refl

theorem execTrickGraphComplete_answers {sl badHands upsets} {s : State} : s.Answers (Part.reporting [.heldRS, .hostMem, .cores, .memory, .mem,
    .power, .dealer, .serving, .pfx, .talon, .ndx, .vision, .media, .freeCtr]) (execTrickGraphComplete sl badHands upsets s) := by
  unfold execTrickGraphComplete
  refine .ite (.next (State.upset_within).mono) ?_
  split
  · next h1 => exact .next (((State.takeReport_within).snd h1).after (State.upset_within).mono)
  · next h1 =>
      split
      · exact .next (((State.takeReport_within).snd h1).after (State.upset_within).mono)
      · exact .next (.ite ((State.boundary_within).after ((State.updSlot_within).after (((State.takeReport_within).snd h1).after
            (State.upset_within).mono))) ((State.updSlot_within).after (((State.takeReport_within).snd h1).after (State.upset_within).mono)))

theorem execIdleBoundary_answers {sl badHands upsets} {s : State} : s.Answers (Part.reporting [.heldRS, .hostMem, .cores, .memory, .mem, .power,
    .dealer, .serving, .pfx, .talon, .ndx, .vision, .media, .freeCtr]) (execIdleBoundary sl badHands upsets s) :=
  .next (.ite ((State.boundary_within).after (State.upset_within).mono) (State.upset_within).mono)

theorem execHeldDeadlinePass_answers {sl} {s : State} : s.Answers [.serving] (execHeldDeadlinePass sl s) :=
  .next (.ite (State.slotEvent_within).mono .refl)

theorem execHoldMaxPass_answers {sl} {s : State} : s.Answers [.serving] (execHoldMaxPass sl s) :=
  .next (.ite (State.slotEvent_within).mono .refl)

theorem execGroupTimeout_answers {sl} {s : State} : s.Answers Part.entries (execGroupTimeout sl s) := by
  unfold execGroupTimeout
  dsimp only
  split
  · exact .next .refl
  · exact .next (.ite (State.loseSlot_within).mono .refl)

theorem execFollowerTrickComplete_answers {sl badHands} {s : State} : s.Answers (Part.reporting [.heldRS, .memory, .dealer, .serving, .ndx,
    .freeCtr]) (execFollowerTrickComplete sl badHands s) := by
  unfold execFollowerTrickComplete
  refine .ite (.next .refl) ?_
  split
  · next h1 => exact .next (((State.takeReport_within).snd h1).mono)
  · next h1 =>
      split
      · exact .next (((State.takeReport_within).snd h1).mono)
      · exact .next ((State.putSlot_within).after (.ite ((State.setTrick_within).after ((State.sendControl_within).after
            ((State.badRecords_within).after ((State.commitSlotRS_within).after (((State.takeReport_within).snd h1).mono)))))
            ((State.post_within).after ((State.count_within).after ((State.setTrick_within).after ((State.sendControl_within).after
            ((State.badRecords_within).after ((State.commitSlotRS_within).after (((State.takeReport_within).snd h1).mono)))))))))

theorem State.parkBody_within {p h} {s : State} : s.Within (Part.reporting [.memory]) (State.parkBody p h s).2.2 := by
  unfold State.parkBody
  refine .foldl_snd₂ (fun _ _ => ?_) ?_
  · split
    · exact .refl
    · split
      · exact .refl
      · exact (State.rowImage_within).mono
  · refine .foldl_snd₂ (fun _ _ => ?_) .refl
    split
    · exact .refl
    · exact (State.hbmRead_within).mono

theorem State.memberParked_within {p i member st} {s : State} : s.Within Part.boundary (State.memberParked p i member st s) := by
  unfold State.memberParked
  split
  · exact .refl
  · exact .ite .refl (.elseStep (.ite (State.idleBoundary_within).mono ((State.flushOutbox_within).after ((State.showServing_within).after
        ((State.freeEnded_within).after (State.finishParkings_within).mono)))) (State.putHand_within).mono)

theorem execParkWriteComplete_answers {p hr upsets} {s : State} : s.Answers (Part.reporting [.heldRS, .hostMem, .cores, .memory, .mem, .power,
    .dealer, .serving, .pfx, .talon, .ndx, .vision, .media, .freeCtr]) (execParkWriteComplete p hr upsets s) := by
  unfold execParkWriteComplete
  dsimp only
  split
  · exact .next (State.upset_within).mono
  · refine .ite (.next (State.upset_within).mono) ?_
    refine .ite ?_ ?_
    · refine .next ?_
      refine (State.memberParked_within).after ?_
      refine (State.putHand_within).after ?_
      refine (State.unleaseHand_within).after ?_
      split
      · next h1 => exact .pair_snd ((State.dropParked_within).after (((State.parkBody_within).snd₂ h1).after ((State.useTalon_within).after
            (State.upset_within).mono)))
      · next h1 => exact .pair_snd ((State.charge_within).after ((State.journalled_within).after (.setTalon (((State.parkBody_within).snd₂ h1).after
            ((State.useTalon_within).after (State.upset_within).mono)))))
    · refine .next ?_
      refine (State.updSlot_within).after ?_
      refine (State.putHand_within).after ?_
      refine (State.putHand_within).after ?_
      refine (State.unleaseHand_within).after ?_
      split
      · next h2 => exact .pair_snd ((State.dropParked_within).after (((State.parkBody_within).snd₂ h2).after ((State.useTalon_within).after
            (State.upset_within).mono)))
      · next h2 => exact .pair_snd ((State.charge_within).after ((State.journalled_within).after (.setTalon (((State.parkBody_within).snd₂ h2).after
            ((State.useTalon_within).after (State.upset_within).mono)))))

theorem State.resumeRows_within {sl l h} {s : State} {r} (hr : State.resumeRows sl l h s = some r) :
    s.Within Part.tables r.2 := by
  induction l generalizing h s with
  | nil =>
    obtain rfl := Option.some.inj hr
    exact .refl
  | cons x rest ih =>
    rw [State.resumeRows] at hr
    split at hr
    · cases hr
    · next h1 =>
      refine (ih hr).after
        (State.Within.foldl_option_of (R := fun y : HandRecord × State => s.Within Part.tables y.2) ?_
          (fun _ hw => Option.some.inj hw ▸ .refl) h1)
      intro acc e y hy hf
      split at hf
      · cases hf
      · split at hf
        · cases hf
        · next h2 =>
          split at hf
          · cases hf
          · next h3 =>
            obtain rfl := Option.some.inj hf
            exact (State.appendEntry_within h3).after ((State.addRef_within).after ((State.allocRow_within h2).after (hy _ rfl)))

theorem State.fillResumed_within {p img h} {s : State} : s.Within Part.tables (State.fillResumed p img h s) := by
  unfold State.fillResumed
  refine .foldl_snd (fun _ _ => ?_) (.pair_snd (.overList (fun _ _ => (State.hbmWrite_within).mono) .refl))
  split
  · exact .refl
  · exact .pair_snd ((State.updRow_within).after (State.fillRow_within).mono)

theorem execDemotionReadComplete_answers {p extent upsets} {s : State} : s.Answers (Part.reporting [.cores, .memory, .mem, .power, .serving, .pfx,
    .talon, .freeCtr]) (execDemotionReadComplete p extent upsets s) := by
  unfold execDemotionReadComplete
  dsimp only
  split
  · exact .next (.ite ((State.demotionRead_within).after ((State.useTalon_within).after (State.upset_within).mono)) (State.upset_within).mono)
  · exact .next (State.upset_within).mono

theorem execExtentCommit_answers {extent} {s : State} : s.Answers (Part.reporting [.memory, .mem, .power, .serving, .pfx, .talon, .freeCtr])
    (execExtentCommit extent s) := by
  unfold execExtentCommit
  split
  · exact .next .refl
  · exact .ite (.next .refl) (.next ((State.demoteCheck_within).after ((State.showShare_within).after ((State.charge_within).after
        ((State.journalled_within).after ((State.updExtent_within).after (State.useTalon_within).mono))))))

theorem execPromotionReadComplete_answers {p extent cws} {s : State} : s.Answers (Part.reporting [.memory, .mem, .power, .serving, .pfx, .talon,
    .freeCtr]) (execPromotionReadComplete p extent cws s) := by
  unfold execPromotionReadComplete
  split
  · exact .next .refl
  · refine .ite (.next .refl) ?_
    refine .next ?_
    split
    · exact (State.promotionRead_within).after (State.ladder_within).mono
    · exact (State.ladder_within).mono

theorem execPrefixReportSend_answers {p} {s : State} : s.Answers [.pcie, .ndx, .freeCtr] (execPrefixReportSend p s) :=
  .ite (.next .refl) (.next (State.sendControl_within).mono)

end Sys2Proof.Machine
end

section
/-! PROOFS. What the operations of Machine/Followers.lean may reach. -/
namespace Sys2Proof.Machine

theorem State.takeInbox_within {p type} {s : State} : s.Within [.ndx] (State.takeInbox p type s).2 := by
  unfold State.takeInbox
  dsimp only
  split
  · exact .setNdx .refl
  · exact .refl

theorem execHeartbeatSend_answers {p} {s : State} : s.Answers [.regs, .heldRS, .pcie, .ndx, .freeCtr] (execHeartbeatSend p s) :=
  .ite (.next .refl) (.next (.ite (.overList (fun _ _ => (State.sendControl_within).mono) ((State.commitRS_within).after (.setNdx .refl)))
      ((State.commitRS_within).after (.setNdx .refl))))

theorem execHeartbeatReceive_answers {p} {s : State} : s.Answers [.ndx] (execHeartbeatReceive p s) := by
  unfold execHeartbeatReceive
  split
  · next h1 => exact .next ((State.putPeer_within).after (((State.takeInbox_within).snd h1).mono))
  · next h1 => exact .next (((State.takeInbox_within).snd h1).mono)

theorem execFenceTimeout_answers {p j} {s : State} : s.Answers Part.failure (execFenceTimeout p j s) :=
  .ite (.next ((State.evaluateGroup_within).after ((State.failCollectives_within).after (State.putBit_within).mono))) (.next .refl)

theorem execFencedReceive_answers {p} {s : State} : s.Answers (Part.reporting [.hostMem, .memory, .mem, .dealer, .serving, .ndx, .vision, .media])
    (execFencedReceive p s) := by
  unfold execFencedReceive
  split
  · next h1 => exact .next (.ite (((State.takeInbox_within).snd h1).mono) ((State.leaveGroup_within).after (((State.takeInbox_within).snd h1).mono)))
  · next h1 => exact .next (((State.takeInbox_within).snd h1).mono)

theorem execControlAckReceive_answers {p} {s : State} : s.Answers [.pcie, .ndx, .freeCtr] (execControlAckReceive p s) := by
  unfold execControlAckReceive
  split
  · next h1 => exact .next ((State.fillWindow_within).after ((State.putPeer_within).after (((State.takeInbox_within).snd h1).mono)))
  · next h1 => exact .next (((State.takeInbox_within).snd h1).mono)

theorem execControlRetransmit_answers {p j} {s : State} : s.Answers (Part.reporting [.ndx, .freeCtr]) (execControlRetransmit p j s) := by
  unfold execControlRetransmit
  dsimp only
  split
  · exact .next .refl
  · exact .ite (.next .refl) (.ite (.next ((State.fillWindow_within).after ((State.post_within).after ((State.count_within).after
        (State.putPeer_within).mono)))) (.next ((State.transmit_within).after ((State.post_within).after (State.putPeer_within).mono))))

theorem State.prefixMissing_within {p sl h} {s : State} : s.Within (Part.reporting [.serving]) (State.prefixMissing p sl h s) :=
  (State.post_within).after ((State.updSlot_within).after (State.putHand_within).mono)

theorem State.hitEntry_within {p d e h} {s : State} : s.Within Part.tables (State.hitEntry p d e h s).2 := by
  unfold State.hitEntry
  refine .ite_snd .refl ?_
  dsimp only
  split
  · next h1 => exact (State.appendEntry_within h1).after ((State.addRef_within).after (.overList (fun _ _ => (State.dropRef_within).mono) .refl))
  · exact .pair_snd ((State.post_within).after ((State.updSlot_within).after ((State.countExhaust_within).after (.overList (fun _ _ =>
        (State.dropRef_within).mono) .refl))))

theorem State.applyAction_within {p sl all a} {s : State} : s.Within Part.prefixes (State.applyAction p sl all a s) := by
  unfold State.applyAction
  split
  · exact (State.updHand_within).after ((State.linkNode_within).after (.overList (fun _ _ => (State.addRef_within).mono) (.ite
        (State.evictSubtree_within).mono .refl)))
  · split
    · refine .ite (State.prefixMissing_within).mono ?_
      refine (State.putHand_within).after ?_
      refine .foldl_snd (fun _ _ => ?_) (.pair_snd ((State.count_within).after (State.updNode_within).mono))
      split
      · exact .refl
      · exact (State.hitEntry_within).mono
    · exact (State.prefixMissing_within).mono
    · exact .refl
  · exact (State.evictNode_within).mono
  · refine .ite .refl ?_
    split
    · exact .refl
    · exact .elseStep (.overList (fun _ _ => (State.markLost_within).mono) .refl) (.ite (State.startDemotion_within).mono .refl)
  · split
    · refine .ite .refl ?_
      dsimp only
      split
      · exact .iteStep (State.markLost_within).mono (State.startPromotion_within).mono
      · exact (State.startPromotion_within).mono
    · exact .refl
  · dsimp only
    split
    · exact (State.linkNode_within).after (.ite (State.evictSubtree_within).mono .refl)
    · exact (State.linkNode_within).after (.ite (State.evictSubtree_within).mono .refl)
  · split
    · exact .ite (.overList (fun _ _ => (State.dropRef_within).mono) (State.putNode_within).mono) (State.markLost_within).mono
    · exact .refl

theorem State.failFollower_within {p sl} {s : State} : s.Within Part.tables (State.failFollower p sl s) :=
  (State.post_within).after ((State.showServing_within).after ((State.wrF_within).after ((State.updSlot_within).after (.overList (fun _ _ =>
      (State.freeHand_within).mono) .refl))))

theorem State.noPage_within {p sl i} {s : State} : s.Within (Part.reporting [.serving]) (State.noPage p sl i s) :=
  (State.post_within).after ((State.updSlot_within).after (State.updHand_within).mono)

theorem State.followerCommit_within {p sl f t lost i} {s : State} : s.Within (Part.reporting [.memory, .mem, .serving, .talon, .freeCtr])
    (State.followerCommit p sl f t lost i s) := by
  unfold State.followerCommit
  split
  · exact .refl
  · refine .ite .refl ?_
    refine .ite ((State.putHand_within).after (State.kvRollback_within).mono) ?_
    dsimp only
    split
    · refine (State.dropParked_within).after ?_
      refine (State.updHand_within).after ?_
      split
      · next h1 => exact (State.putHand_within).after ((State.kvExtend_within h1).after (State.kvSettle_within).mono)
      · exact (State.noPage_within).after ((State.countExhaust_within).after ((State.putHand_within).after (State.kvSettle_within).mono))
    · split
      · next h1 => exact (State.putHand_within).after ((State.kvExtend_within h1).after (State.kvSettle_within).mono)
      · exact (State.noPage_within).after ((State.countExhaust_within).after ((State.putHand_within).after (State.kvSettle_within).mono))

theorem State.followerStart_within {p sl e} {s : State} : s.Within Part.tables (State.followerStart p sl e s) :=
  (State.addHand_within).after (.ite (State.freeHand_within).mono .refl)

theorem State.followerPark_within {p sl e} {s : State} :
    s.Within (Part.reporting [.memory, .mem, .serving, .talon]) (State.followerPark p sl e s) := by
  unfold State.followerPark
  split
  · exact .refl
  · dsimp only
    split
    · exact (State.updSlot_within).after (State.postAt_within).mono
    · next h1 =>
      split at h1
      · exact (State.putHand_within).after ((State.showShare_within).after (.setTalon ((State.leaseHand_within).after (State.place_within h1).mono)))
      · cases h1

theorem State.followerEnd_within {p e} {s : State} : s.Within (Part.reporting [.memory, .mem, .serving, .talon, .freeCtr]) (State.followerEnd p e s)
    := by
  unfold State.followerEnd
  split
  · exact .refl
  · exact (State.freeHand_within).after (.ite (State.dropParked_within).mono .refl)

theorem State.followerRows_within {p sl rows i} {s : State} : s.Within Part.tables (State.followerRows p sl rows i s) := by
  unfold State.followerRows
  split
  · exact .refl
  · refine .ite (State.putHand_within).mono ?_
    split
    · next h1 => exact (State.putHand_within).after ((State.kvReserve_within h1).mono)
    · exact (State.noPage_within).after ((State.countExhaust_within).after (State.putHand_within).mono)

theorem State.writeEmbeds_within {p sl trick rows} {s : State} : s.Within (Part.reporting [.memory, .mem, .ndx])
    (State.writeEmbeds p sl trick rows s) :=
  .setNdx (.foldl (fun _ _ => .iteStep (State.blockWrite_within).mono .refl) .refl)

theorem State.reportFailed_within {p sl trick st} {s : State} : s.Within (Part.reporting [.memory, .mem, .serving, .ndx, .freeCtr])
    (State.reportFailed p sl trick st s) :=
  (State.putSlot_within).after ((State.freeRows_within).after ((State.post_within).after ((State.count_within).after ((State.setTrick_within).after
      (State.sendControl_within).mono))))

theorem State.runPlan_within {p t} {s : State} : s.Within (Part.reporting [.memory, .mem, .power, .dealer, .serving, .ndx, .freeCtr])
    (State.runPlan p t s) := by
  conv in @State.runPlan => delta State.runPlan
  obtain ⟨globalRead', hglobalRead⟩ := exists_eq' (a' := @State.globalRead)
  have wglobalRead := @State.globalRead_within
  rw [hglobalRead] at wglobalRead ⊢
  obtain ⟨writeRows', hwriteRows⟩ := exists_eq' (a' := @State.writeRows)
  have wwriteRows := @State.writeRows_within
  rw [hwriteRows] at wwriteRows ⊢
  dsimp only
  split
  · next h1 => exact (State.reportFailed_within).after ((wglobalRead.snd₂ h1).after ((State.showServing_within).after (.overList (fun _ _ =>
        (State.followerRows_within).mono) .refl)))
  · next h1 =>
      split
      · exact (State.failFollower_within).after ((wglobalRead.snd₂ h1).after ((State.showServing_within).after (.overList (fun _ _ =>
            (State.followerRows_within).mono) .refl)))
      · split
        · next h2 => exact (State.reportFailed_within).after ((wglobalRead.snd₂ h2).after ((wglobalRead.snd₂ h1).after
              ((State.showServing_within).after (.overList (fun _ _ => (State.followerRows_within).mono) .refl))))
        · next h2 =>
            split
            · next h3 => exact (State.reportFailed_within).after ((wwriteRows.snd h3).after ((wglobalRead.snd₂ h2).after
                  ((wglobalRead.snd₂ h1).after ((State.showServing_within).after (.overList (fun _ _ => (State.followerRows_within).mono) .refl)))))
            · next h3 => exact (State.submitCopy_within).after ((State.updSlot_within).after ((State.writeEmbeds_within).after
                  ((wwriteRows.snd h3).after ((wglobalRead.snd₂ h2).after ((wglobalRead.snd₂ h1).after ((State.showServing_within).after (.overList
                  (fun _ _ => (State.followerRows_within).mono) .refl)))))))

theorem State.runWhenRead_within {p t} {s : State} : s.Within (Part.reporting [.memory, .mem, .power, .dealer, .serving, .ndx, .freeCtr])
    (State.runWhenRead p t s) :=
  .ite (State.updSlot_within).mono ((State.runPlan_within).after (State.updSlot_within).mono)

theorem State.applyPlan_within {p t} {s : State} : s.Within (Part.reporting [.memory, .mem, .power, .dealer, .serving, .pfx, .talon, .ndx,
    .freeCtr]) (State.applyPlan p t s) := by
  unfold State.applyPlan
  refine .ite (State.failFollower_within).mono ?_
  refine (State.runWhenRead_within).after ?_
  refine (State.showServing_within).after ?_
  refine .overList (fun _ _ => (State.applyAction_within).mono) ?_
  refine .overList (fun _ _ => (State.followerPark_within).mono) ?_
  refine .overList (fun _ _ => (State.followerStart_within).mono) ?_
  refine .overList (fun _ _ => (State.followerEnd_within).mono) ?_
  refine (State.dropLostNodes_within).after ?_
  refine (State.freeRows_within).after ?_
  split
  · exact (State.updSlot_within).after (.overList (fun _ _ => (State.followerCommit_within).mono) .refl)
  · exact .refl

theorem execTrickPlanReceive_answers {p upsets} {s : State} : s.Answers (Part.reporting [.cores, .memory, .mem, .power, .dealer, .serving, .pfx,
    .talon, .ndx, .freeCtr]) (execTrickPlanReceive p upsets s) := by
  unfold execTrickPlanReceive
  dsimp only
  split
  · exact .next (State.upset_within).mono
  · exact .ite (.next (State.upset_within).mono) (.next (.ite ((State.applyPlan_within).after (.setNdx (State.upset_within).mono)) (.setNdx
        (State.upset_within).mono)))

theorem State.followerResumed_within {p h st} {s : State} : s.Within (Part.reporting [.memory, .mem, .power, .dealer, .serving, .ndx, .freeCtr])
    (State.followerResumed p h st s) := by
  unfold State.followerResumed
  dsimp only
  split
  · exact (State.runWhenRead_within).after (.ite (State.updHand_within).mono ((State.updSlot_within).after (State.updHand_within).mono))
  · exact .ite (State.updHand_within).mono ((State.updSlot_within).after (State.updHand_within).mono)

theorem execResumeReadComplete_answers {p hr cws} {s : State} : s.Answers Part.boundary (execResumeReadComplete p hr cws s) := by
  unfold execResumeReadComplete
  split
  · exact .next .refl
  · refine .ite (.next .refl) ?_
    refine .next ?_
    refine .ite ?_ ?_
    · refine (State.idleBoundary_within).after ?_
      refine (State.putHand_within).after ?_
      split
      · exact .pair_snd₂ (State.ladder_within).mono
      · dsimp only
        split
        · exact (State.countReads_within).after (State.ladder_within).mono
        · next h1 => exact .pair_snd₂ ((State.fillResumed_within).after ((State.resumeRows_within h1).after ((State.countReads_within).after
              (State.ladder_within).mono)))
    · refine (State.followerResumed_within).after ?_
      refine (State.putHand_within).after ?_
      split
      · exact .pair_snd₂ (State.ladder_within).mono
      · dsimp only
        split
        · exact (State.countReads_within).after (State.ladder_within).mono
        · next h2 => exact .pair_snd₂ ((State.fillResumed_within).after ((State.resumeRows_within h2).after ((State.countReads_within).after
              (State.ladder_within).mono)))

theorem execTrickReportReceive_answers {p badHands upsets} {s : State} : s.Answers (Part.reporting [.heldRS, .hostMem, .cores, .memory, .mem,
    .power, .dealer, .serving, .pfx, .talon, .ndx, .vision, .media, .freeCtr]) (execTrickReportReceive p badHands upsets s) := by
  unfold execTrickReportReceive
  dsimp only
  split
  · next h1 => exact .next (((State.takeInbox_within).snd h1).after (State.upset_within).mono)
  · next h1 =>
      refine .ite (.next (((State.takeInbox_within).snd h1).after (State.upset_within).mono)) ?_
      split
      · exact .next (.overList (fun _ _ => (State.memberParked_within).mono) (((State.takeInbox_within).snd h1).after (State.upset_within).mono))
      · exact .ite (.next (.overList (fun _ _ => (State.memberParked_within).mono) (((State.takeInbox_within).snd h1).after
            (State.upset_within).mono))) (.next (.ite ((State.boundary_within).after ((State.updSlot_within).after (.overList (fun _ _ =>
            (State.memberParked_within).mono) (((State.takeInbox_within).snd h1).after (State.upset_within).mono)))) ((State.updSlot_within).after
            (.overList (fun _ _ => (State.memberParked_within).mono) (((State.takeInbox_within).snd h1).after (State.upset_within).mono)))))

theorem execPrefixReportReceive_answers {p} {s : State} : s.Answers (Part.reporting [.memory, .mem, .serving, .pfx, .talon, .ndx, .freeCtr])
    (execPrefixReportReceive p s) := by
  unfold execPrefixReportReceive
  split
  · next h1 => exact .next (((State.takeInbox_within).snd h1).mono)
  · next h1 => exact .ite (.next (((State.takeInbox_within).snd h1).mono)) (.next (.overList (fun _ _ => .iteStep (State.evictSubtree_within).mono
        .refl) ((State.putPeer_within).after (((State.takeInbox_within).snd h1).mono))))

end Sys2Proof.Machine
end

section
/-! PROOFS. What the operations of Machine/Collectives.lean may reach. -/
namespace Sys2Proof.Machine

theorem State.takeEarly_within {p trick coll} {s : State} : s.Within [.ndx] (State.takeEarly p trick coll s).2 :=
  .setNdx .refl

theorem State.giveData_within {c d} {s : State} : s.Within Part.failure (State.giveData c d s) :=
  .ite (State.updCollective_within).mono (State.failCollective_within).mono

theorem State.issueCollective_within {n q op d} {s : State} : s.Within Part.failure (State.issueCollective n q op d s) := by
  unfold State.issueCollective
  split
  · exact .refl
  · split
    · exact .refl
    · refine .ite (State.rejectDescriptor_within).mono ?_
      refine .ite ((State.failCollective_within).after (.setNdx (.setNdx .refl))) ?_
      refine .ite ((State.failCollective_within).after (.setNdx (.setNdx .refl))) ?_
      refine .foldl (fun _ _ => ?_) ((State.placeNext_within).after ((State.takeEarly_within).after (.setNdx (.setNdx .refl))))
      split
      · exact (State.giveData_within).mono
      · exact .refl

theorem State.readSources_within {c l} {s : State} : s.Within (Part.reporting [.memory]) (State.readSources c l s).2 := by
  obtain ⟨self, hself⟩ := exists_eq' (a' := @State.readSources)
  obtain ⟨hbmRead', hhbmRead⟩ := exists_eq' (a' := @State.hbmRead)
  have whbmRead := @State.hbmRead_within
  rw [hself]
  delta State.readSources State.readSources._f at hself
  rw [hhbmRead] at whbmRead hself
  subst hself
  induction l generalizing s with
  | nil => exact .refl
  | cons _ _ ih =>
    dsimp only [List.brecOn, List.brecOn.go] at ih ⊢
    refine .ite_snd ?_ ?_
    · split
      · next h1 => exact .pair_snd ((ih.snd h1).mono)
      · next h1 => exact .pair_snd ((ih.snd h1).mono)
    · split
      · next h2 => exact .pair_snd ((whbmRead.snd₂ h2).mono)
      · next h2 =>
          split
          · next h3 => exact .pair_snd ((ih.snd h3).after ((whbmRead.snd₂ h2).mono))
          · next h3 => exact .pair_snd ((ih.snd h3).after ((whbmRead.snd₂ h2).mono))

theorem State.sendFirst_within {c} {s : State} : s.Within [.pcie, .ndx, .freeCtr] (State.sendFirst c s) := by
  unfold State.sendFirst
  dsimp only
  split
  · exact .refl
  · exact (State.sendData_within).mono
  · exact .overList (fun _ _ => (State.sendData_within).mono) .refl
  · exact .overList (fun _ _ => .overList (fun _ _ => (State.sendData_within).mono) .refl) .refl

theorem State.tryReduce_within {c} {s : State} : s.Within [.pcie, .ndx, .freeCtr] (State.tryReduce c s) :=
  .ite .refl (.ite .refl (.iteStep (.overList (fun _ _ => (State.sendData_within).mono) .refl) (State.updCollective_within).mono))

theorem State.startCollective_within {c} {s : State} : s.Within (Part.reporting [.heldRS, .hostMem, .cores, .memory, .mem, .power, .dealer,
    .cvOwner, .serving, .ndx, .vision, .media, .freeCtr]) (State.startCollective c s) := by
  unfold State.startCollective
  refine .ite .refl ?_
  dsimp only
  split
  · next h1 => exact (State.failCollective_within).after (((State.readSources_within).snd h1).mono)
  · next h1 => exact (State.tryReduce_within).after ((State.sendFirst_within).after ((State.updCollective_within).after
        (((State.readSources_within).snd h1).mono)))

theorem State.steerOf_within {sl layer variant} {s : State} : s.Within (Part.reporting [.memory]) (State.steerOf sl layer variant s).2 := by
  conv in @State.steerOf => delta State.steerOf
  obtain ⟨rd64', hrd64⟩ := exists_eq' (a' := @State.rd64)
  rw [hrd64]
  dsimp only
  split
  · next h1 => exact .pair_snd (((State.globalRead_within).snd₂ h1).mono)
  · next h1 => exact .pair_snd (((State.globalRead_within).snd₂ h1).mono)

theorem State.steerRow_within {sl layer variant row} {s : State} : s.Within (Part.reporting [.memory]) (State.steerRow sl layer variant row s).2 := by
  conv in @State.steerRow => delta State.steerRow
  obtain ⟨rd64', hrd64⟩ := exists_eq' (a' := @State.rd64)
  rw [hrd64]
  refine .ite_snd .refl ?_
  split
  · next h1 => exact .pair_snd (((State.steerOf_within).snd h1).mono)
  · next h1 => exact .pair_snd (((State.steerOf_within).snd h1).mono)
  · next h1 =>
      split
      · next h2 => exact .pair_snd (((State.globalRead_within).snd₂ h2).after (((State.steerOf_within).snd h1).mono))
      · next h2 => exact .pair_snd (((State.globalRead_within).snd₂ h2).after (((State.steerOf_within).snd h1).mono))

theorem State.steerRows_within {c hidden l x1 x2} {s : State} : s.Within (Part.reporting [.memory]) (State.steerRows c hidden l x1 x2 s).2 := by
  obtain ⟨self, hself⟩ := exists_eq' (a' := @State.steerRows)
  obtain ⟨globalRead', hglobalRead⟩ := exists_eq' (a' := @State.globalRead)
  have wglobalRead := @State.globalRead_within
  rw [hself]
  delta State.steerRows State.steerRows._f at hself
  rw [hglobalRead] at wglobalRead hself
  subst hself
  induction l generalizing x1 x2 s with
  | zero => exact .refl
  | succ l ih =>
    dsimp only [Nat.brecOn, Nat.brecOn.go] at ih ⊢
    split
    · next h1 => exact .pair_snd ((wglobalRead.snd₂ h1).mono)
    · next h1 =>
        split
        · next h2 => exact .pair_snd (((State.steerRow_within).snd h2).after ((wglobalRead.snd₂ h1).mono))
        · next h2 =>
            split
            · next h3 => exact .pair_snd ((ih.snd h3).after (((State.steerRow_within).snd h2).after ((wglobalRead.snd₂ h1).mono)))
            · next h3 => exact .pair_snd ((ih.snd h3).after (((State.steerRow_within).snd h2).after ((wglobalRead.snd₂ h1).mono)))

theorem State.steered_within {c b} {s : State} : s.Within (Part.reporting [.memory]) (State.steered c b s).2 :=
  .ite_snd .refl (State.steerRows_within).mono

theorem State.writeResult_within {c b l} {s : State} : s.Within (Part.reporting [.memory, .mem]) (State.writeResult c b l s).2 := by
  obtain ⟨self, hself⟩ := exists_eq' (a' := @State.writeResult)
  obtain ⟨hbmWrite', hhbmWrite⟩ := exists_eq' (a' := @State.hbmWrite)
  have whbmWrite := @State.hbmWrite_within
  rw [hself]
  delta State.writeResult State.writeResult._f at hself
  rw [hhbmWrite] at whbmWrite hself
  subst hself
  induction l generalizing s with
  | nil => exact .refl
  | cons _ _ ih =>
    dsimp only [List.brecOn, List.brecOn.go] at ih ⊢
    split
    · next h1 => exact .pair_snd ((whbmWrite.snd h1).mono)
    · next h1 => exact ih.after ((whbmWrite.snd h1).mono)

theorem State.completeCollective_within {c} {s : State} : s.Within Part.failure (State.completeCollective c s) := by
  unfold State.completeCollective
  split
  · exact .refl
  · split
    · next h1 => exact (State.failCollective_within).after (((State.steered_within).snd h1).mono)
    · next h1 =>
        split
        · next h2 => exact (State.failCollective_within).after (((State.writeResult_within).snd h2).after (((State.steered_within).snd h1).mono))
        · next h2 => exact .chain (.ite ((State.placeNext_within).after ((State.bumpDone_within).after ((State.count_within).after
              (State.dropCollective_within).mono))) (.ite (State.failCollective_within).mono ((State.placeNext_within).after
              ((State.bumpDone_within).after ((State.count_within).after (State.dropCollective_within).mono))))) ((State.snoop_within).after
              (((State.writeResult_within).snd h2).after (((State.steered_within).snd h1).mono)))

theorem execCollectiveInstanceStart_answers {p trick coll upsets} {s : State} : s.Answers (Part.reporting [.heldRS, .hostMem, .cores, .memory, .mem,
    .power, .dealer, .cvOwner, .serving, .ndx, .vision, .media, .freeCtr]) (execCollectiveInstanceStart p trick coll upsets s) := by
  unfold execCollectiveInstanceStart
  dsimp only
  split
  · exact .next (.ite ((State.startCollective_within).after (State.upset_within).mono) (State.upset_within).mono)
  · exact .next (State.upset_within).mono

theorem execCollectiveDataReceive_answers {p} {s : State} : s.Answers (Part.reporting [.heldRS, .hostMem, .cores, .memory, .mem, .power, .dealer,
    .cvOwner, .serving, .ndx, .vision, .media, .freeCtr]) (execCollectiveDataReceive p s) := by
  unfold execCollectiveDataReceive
  split
  · exact .next .refl
  · refine .ite (.next (.setNdx (.setNdx .refl))) ?_
    split
    · dsimp only
      split
      · exact .next ((State.tryReduce_within).after ((State.giveData_within).after (.setNdx .refl)))
      · exact .next ((State.giveData_within).after (.setNdx .refl))
    · exact .ite (.next (.setNdx (.setNdx .refl))) (.next (.setNdx (.setNdx .refl)))

theorem execCollTimeout_answers {p trick coll} {s : State} : s.Answers Part.failure (execCollTimeout p trick coll s) := by
  unfold execCollTimeout
  split
  · exact .next (.ite (State.failCollective_within).mono .refl)
  · exact .next .refl

end Sys2Proof.Machine
end

section
/-! PROOFS. What the operations of Machine/Edge.lean may reach. -/
namespace Sys2Proof.Machine

theorem State.readMany_within {n l} {s : State} : s.Within (Part.reporting [.memory]) (State.readMany n l s).2 := by
  induction l generalizing s with
  | nil => exact .refl
  | cons x t ih =>
    cases x with
    | none =>
      rw [State.readMany]
      split
      · next h1 => exact ih.snd h1
      · next h1 => exact ih.snd h1
    | some a =>
      rw [State.readMany]
      split
      · next h1 => exact (State.hbmRead_within).snd₂ h1
      · next h1 =>
        split
        · next h2 => exact (ih.snd h2).chain ((State.hbmRead_within).snd₂ h1)
        · next h2 => exact (ih.snd h2).chain ((State.hbmRead_within).snd₂ h1)

theorem State.Within.edgeRows {Q : List Part} {s t : State} {row l} (hf : ∀ y (u : State), u.Within Q (row y u).2) (h : s.Within Q t)
    (hQ : autoParam (Part.Fits (Part.reporting [.memory, .mem]) Q) Nat.toPNat._auto_1) :
    s.Within Q (t.edgeRows row l).2 := by
  refine .chain ?_ h
  clear h
  induction l generalizing t with
  | nil => exact .refl
  | cons y l ih =>
    rw [State.edgeRows]
    split
    · next h1 => exact (hf _ _).snd h1
    · next h1 =>
      have hwrite : ∀ (ws : List (Nat × List Byte)) (u : State), u.Within Q (ws.foldl (fun (acc : Option Nat × State) w =>
          match acc with
          | (some st, s) => (some st, s)
          | (none, s) => s.hbmWrite 3 w.1 w.2) (none, u)).2 := by
        intro ws u
        refine .foldl_snd (fun r w => ?_) .refl
        split
        · exact .refl
        · exact (State.hbmWrite_within).of_subset (Part.subset_of_bits hQ)
      dsimp only
      split
      · next h2 => exact ((hwrite _ _).snd h2).chain ((hf _ _).snd h1)
      · next h2 => exact ih.chain (((hwrite _ _).snd h2).chain ((hf _ _).snd h1))

theorem State.convRow_within {j weights scales y} {s : State} : s.Within (Part.reporting [.memory]) (State.convRow j weights scales y s).2 := by
  unfold State.convRow
  dsimp only
  split
  · next h1 => exact .pair_snd (((State.readMany_within).snd h1).mono)
  · next h1 => exact .pair_snd (((State.readMany_within).snd h1).mono)

theorem State.planConv_within {p ws} {s : State} : s.Within (Part.reporting [.memory]) (State.planConv p ws s).2 := by
  unfold State.planConv
  split
  · exact .refl
  · refine .ite_snd .refl ?_
    refine .ite_snd .refl ?_
    dsimp only
    split
    · next h1 => exact .pair_snd (((State.hbmRead_within).snd₂ h1).mono)
    · next h1 =>
        split
        · next h2 => exact .pair_snd (State.Within.snd₂ (.ite_snd₂ (.pair_snd₂ (((State.hbmRead_within).snd₂ h1).mono))
              ((State.hbmRead_within).after (((State.hbmRead_within).snd₂ h1).mono))) h2)
        · next h2 => exact .pair_snd (State.Within.snd₂ (.ite_snd₂ (.pair_snd₂ (((State.hbmRead_within).snd₂ h1).mono))
              ((State.hbmRead_within).after (((State.hbmRead_within).snd₂ h1).mono))) h2)

theorem State.ingestRow_within {j norm y} {s : State} : s.Within (Part.reporting [.memory, .freeCtr]) (State.ingestRow j norm y s).2 := by
  unfold State.ingestRow
  dsimp only
  split
  · next h1 => exact .pair_snd (((State.readMany_within).snd h1).mono)
  · next h1 => exact .pair_snd (.setFreeCtr (((State.readMany_within).snd h1).mono))

theorem State.planIngest_within {p ws} {s : State} : s.Within (Part.reporting [.memory]) (State.planIngest p ws s).2 := by
  unfold State.planIngest
  split
  · exact .refl
  · refine .ite_snd .refl ?_
    refine .ite_snd .refl ?_
    split
    · next h1 => exact .pair_snd (((State.hbmRead_within).snd₂ h1).mono)
    · next h1 => exact .pair_snd (((State.hbmRead_within).snd₂ h1).mono)

theorem State.ringEdge_within {d p} {s : State} : s.Within (Part.reporting [.heldRS, .memory, .dealer, .serving, .vision, .media])
    (State.ringEdge d p s).2 := by
  unfold State.ringEdge
  refine .ite_snd .refl ?_
  dsimp only
  split
  · next h1 => exact .pair_snd ((State.stopRing_within).after (((State.ringRead_within).snd h1).mono))
  · next h1 => exact .pair_snd (((State.ringRead_within).snd h1).mono)

theorem State.sourceEdge_within {d p src} {s : State} : s.Within (Part.reporting [.heldRS, .memory, .dealer, .serving, .vision, .media])
    (State.sourceEdge d p src s).2 := by
  unfold State.sourceEdge
  split
  · exact (State.ringEdge_within).mono
  · exact .refl

theorem State.chainedEdge_within {d p} {s : State} : s.Within (Part.reporting [.heldRS, .memory, .dealer, .serving, .vision, .media])
    (State.chainedEdge d p s).2 := by
  unfold State.chainedEdge
  split
  · exact .refl
  · exact .pair_snd (State.sourceEdge_within).mono

theorem State.nextEdge_within {d p} {s : State} : s.Within (Part.reporting [.heldRS, .memory, .dealer, .serving, .vision, .media])
    (State.nextEdge d p s).2 := by
  unfold State.nextEdge
  split
  · next h1 => exact .pair_snd (((State.chainedEdge_within).snd h1).mono)
  · next h1 =>
      refine .ite_snd (.pair_snd (((State.chainedEdge_within).snd h1).mono)) ?_
      split
      · exact .pair_snd (((State.chainedEdge_within).snd h1).mono)
      · exact (State.ringEdge_within).after (((State.chainedEdge_within).snd h1).mono)

theorem State.takeEdge_within {d j} {s : State} : s.Within [.regs, .vision] (State.takeEdge d j s) := by
  unfold State.takeEdge
  split
  · exact (State.wrN_within).mono
  · exact (State.putEdge_within).mono

theorem State.runEdge_within {d p j} {s : State} : s.Within (Part.reporting [.memory, .vision]) (State.runEdge d p j s) := by
  unfold State.runEdge
  extract_lets e w0 op isRing prev dst join go
  have hjoin (ws : List Nat) (r : EdgePlan × State) : r.2.Within (Part.reporting [.memory, .vision]) (join ws r) := by
    dsimp only [join]
    split
    · exact (State.putEdge_within).mono
    · exact (State.putEdge_within).mono
  have hgo (ws : List Nat) : s.Within (Part.reporting [.memory, .vision]) (go ws) :=
    (hjoin ws _).chain (.ite_snd (State.planIngest_within).mono (.ite_snd (State.planConv_within).mono .refl))
  have hbad (x : Nat × Bool) : s.Within (Part.reporting [.memory, .vision]) (join j.words (.error x, s)) := hjoin j.words (.error x, s)
  clear_value prev
  refine .ite (hbad _) (.ite (hgo _) ?_)
  split
  · exact hbad _
  · exact .ite (hbad _) (hgo _)

theorem State.edgeRow_within {r y} {s : State} : s.Within (Part.reporting [.memory, .freeCtr]) (State.edgeRow r y s).2 := by
  unfold State.edgeRow
  refine .ite_snd ?_ ?_
  · split
    · exact (State.ingestRow_within).mono
    · exact .refl
  · split
    · exact (State.convRow_within).mono
    · exact .refl

theorem State.advanceRun_within {prev r} {s : State} : s.Within (Part.reporting [.memory, .mem, .freeCtr]) (State.advanceRun prev r s).2 := by
  unfold State.advanceRun
  refine .ite_snd .refl ?_
  dsimp only
  split
  · next h1 => exact .pair_snd (State.Within.snd (.edgeRows (fun _ _ => (State.edgeRow_within).mono) .refl) h1)
  · next h1 => exact .pair_snd (State.Within.snd (.edgeRows (fun _ _ => (State.edgeRow_within).mono) .refl) h1)

theorem State.progressEdge_within {d} {s : State} : s.Within (Part.reporting [.memory, .mem, .vision, .freeCtr]) (State.progressEdge d s) := by
  unfold State.progressEdge
  split
  · exact .refl
  · exact (State.putEdge_within).after (.foldl_snd₂ (fun _ _ => (State.advanceRun_within).mono) (State.advanceRun_within).mono)

theorem State.startEdgeJob_within {d op} {s : State} : s.Within (Part.reporting [.heldRS, .memory, .mem, .power, .dealer, .serving, .vision, .media,
    .freeCtr]) (State.startEdgeJob d op s) := by
  unfold State.startEdgeJob
  split
  · exact .refl
  · refine .ite .refl ?_
    split
    · next h1 => exact ((State.nextEdge_within).snd h1).after (State.progressEdge_within).mono
    · next h1 => exact .ite (((State.nextEdge_within).snd h1).after (State.progressEdge_within).mono) (.ite ((State.requestEngine_within).after
          (((State.nextEdge_within).snd h1).after (State.progressEdge_within).mono)) ((State.progressEdge_within).after
          ((State.runEdge_within).after ((State.commitRS_within).after ((State.takeEdge_within).after (((State.nextEdge_within).snd h1).after
          (State.progressEdge_within).mono))))))

theorem State.endEdge_within {d p src st} {s : State} : s.Within Part.submission (State.endEdge d p src st s) := by
  unfold State.endEdge
  extract_lets u v w
  have hw : s.Within Part.submission w :=
    .iteStep (State.count_within).mono ((State.count_within).after (.ite (State.post_within).mono .refl))
  clear_value w
  split
  · obtain ⟨write, hwrite⟩ := exists_eq' (a' := @State.ringWrite)
    have hr := @State.ringWrite_within
    rw [hwrite] at hr ⊢
    dsimp only
    refine .ite hw ?_
    split
    · next h1 => exact (State.stopRing_within).after ((hr.snd h1).after hw)
    · next h1 => exact .iteStep (State.msix_within).mono (hr.after ((hr.snd h1).after hw))
  · exact (State.jobDone_within).after hw

theorem State.edgeComplete_within {d} {s : State} : s.Within (Part.reporting [.heldRS, .hostMem, .memory, .mem, .power, .dealer, .serving, .vision,
    .media, .freeCtr]) (State.edgeComplete d s) := by
  unfold State.edgeComplete
  split
  · exact .refl
  · refine .ite .refl ?_
    dsimp only
    split
    · split
      · exact (State.endEdge_within).after ((State.putEdge_within).after (State.progressEdge_within).mono)
      · exact (State.progressEdge_within).mono
    · split
      · next h1 => exact ((State.nextEdge_within).snd h1).after (State.progressEdge_within).mono
      · next h1 => exact .ite ((State.endEdge_within).after ((State.takeEdge_within).after (((State.nextEdge_within).snd h1).after
            (State.progressEdge_within).mono))) (.ite ((State.endEdge_within).after ((State.putEdge_within).after ((State.takeEdge_within).after
            (((State.nextEdge_within).snd h1).after (State.progressEdge_within).mono)))) (((State.nextEdge_within).snd h1).after
            (State.progressEdge_within).mono))

theorem State.endEdgeJobs_within {d p st l} {s : State} : s.Within (Part.reporting [.heldRS, .hostMem, .memory, .mem, .power, .dealer, .serving,
    .vision, .media]) (State.endEdgeJobs d p st l s) := by
  induction l generalizing s with
  | zero => exact .refl
  | succ l ih =>
    rw [State.endEdgeJobs]
    split
    · next h1 => exact ((State.nextEdge_within).snd h1).mono
    · next h1 => exact ih.after ((State.endEdge_within).after ((State.takeEdge_within).after (((State.nextEdge_within).snd h1).mono)))

theorem State.edgeFail_within {d} {s : State} : s.Within (Part.reporting [.heldRS, .hostMem, .memory, .mem, .power, .dealer, .serving, .vision,
    .media]) (State.edgeFail d s) := by
  unfold State.edgeFail
  refine .ite .refl ?_
  dsimp only
  split
  · exact .setPower ((State.post_within).after ((State.putBit_within).after (State.wrN_within).mono))
  · exact (State.endEdgeJobs_within).after (.overList (fun _ _ => (State.endEdge_within).mono) ((State.putEdge_within).after (.setPower
        ((State.post_within).after ((State.putBit_within).after (State.wrN_within).mono)))))

theorem execEdgeIngest_answers {die upsets} {s : State} : s.Answers (Part.reporting [.heldRS, .cores, .memory, .mem, .power, .dealer, .serving,
    .vision, .media, .freeCtr]) (execEdgeIngest die upsets s) :=
  .next ((State.startEdgeJob_within).after (State.upset_within).mono)

theorem execEdgeConv_answers {die upsets} {s : State} : s.Answers (Part.reporting [.heldRS, .cores, .memory, .mem, .power, .dealer, .serving,
    .vision, .media, .freeCtr]) (execEdgeConv die upsets s) :=
  .next ((State.startEdgeJob_within).after (State.upset_within).mono)

theorem execEdgeTconv_answers {die upsets} {s : State} : s.Answers (Part.reporting [.heldRS, .cores, .memory, .mem, .power, .dealer, .serving,
    .vision, .media, .freeCtr]) (execEdgeTconv die upsets s) :=
  .next ((State.startEdgeJob_within).after (State.upset_within).mono)

theorem execEdgeJobComplete_answers {die upsets} {s : State} : s.Answers (Part.reporting [.heldRS, .hostMem, .cores, .memory, .mem, .power, .dealer,
    .serving, .vision, .media, .freeCtr]) (execEdgeJobComplete die upsets s) :=
  .next ((State.edgeComplete_within).after (State.upset_within).mono)

theorem execEdgeEngineFail_answers {die} {s : State} : s.Answers (Part.reporting [.heldRS, .hostMem, .memory, .mem, .power, .dealer, .serving,
    .vision, .media]) (execEdgeEngineFail die s) :=
  .next (State.edgeFail_within).mono

end Sys2Proof.Machine
end

section
/-! PROOFS. What the operations of Machine/FeatureMap.lean may reach. -/
namespace Sys2Proof.Machine

theorem State.featureMap_within {n q fill words} {s : State} : s.Within Part.failure (State.featureMap n q fill words s) := by
  unfold State.featureMap
  dsimp only
  split
  · exact .refl
  · refine .ite .refl ?_
    refine .ite (State.rejectDescriptor_within).mono ?_
    split
    · exact (State.refuseAccess_within).mono
    · exact (State.refuseAccess_within).mono
    · split
      · next h1 => exact (State.failSram_within).after (((State.globalRead_within).snd₂ h1).mono)
      · next h1 =>
          split
          · next h2 => exact (State.failSram_within).after (((State.globalWrite_within).snd h2).after (((State.globalRead_within).snd₂ h1).mono))
          · next h2 => exact (State.bumpDone_within).after ((State.snoop_within).after ((State.raise_within).after
                (((State.globalWrite_within).snd h2).after (((State.globalRead_within).snd₂ h1).mono))))

theorem State.tagPost_within {n q words} {s : State} : s.Within Part.failure (State.tagPost n q words s) := by
  unfold State.tagPost
  dsimp only
  split
  · exact .refl
  · refine .ite (State.rejectDescriptor_within).mono ?_
    split
    · next h1 => exact (State.failOnCore_within).after (((State.putTag_within).snd h1).mono)
    · next h1 => exact (State.bumpDone_within).after (((State.putTag_within).snd h1).mono)

theorem State.hostTagPresent_within {p tag} {s : State} : s.Within Part.tables (State.hostTagPresent p tag s) :=
  .ite (State.writeTag_within).mono (State.post_within).mono

theorem State.frameStart_within {p pipe} {s : State} : s.Within (Part.reporting [.hostMem, .memory, .mem, .power, .serving, .vision, .media])
    (State.frameStart p pipe s) := by
  unfold State.frameStart
  split
  · exact .refl
  · exact .ite ((State.count_within).after ((State.postTagFailed_within).after ((State.post_within).after (State.putFrames_within).mono)))
        (State.beginFrame_within).mono

theorem State.hostTagPost_within {fn p tag op} {s : State} : s.Within Part.tables (State.hostTagPost fn p tag op s) := by
  unfold State.hostTagPost
  refine .ite .refl ?_
  split
  · exact (State.hostTagPresent_within).mono
  · exact (State.postTagFailed_within).after (State.post_within).mono
  · exact (State.writeTag_within).mono
  · exact .refl

theorem execTagPostPresent_answers {fn p tag} {s : State} : s.Answers Part.tables (execTagPostPresent fn p tag s) :=
  .next (State.hostTagPost_within).mono

theorem execTagPostFailed_answers {fn p tag} {s : State} : s.Answers Part.tables (execTagPostFailed fn p tag s) :=
  .next (State.hostTagPost_within).mono

theorem execTagReturnAbsent_answers {fn p tag} {s : State} : s.Answers Part.tables (execTagReturnAbsent fn p tag s) :=
  .next (State.hostTagPost_within).mono

theorem execPipelineFrameStart_answers {p pipe upsets} {s : State} : s.Answers (Part.reporting [.hostMem, .cores, .memory, .mem, .power, .serving,
    .vision, .media]) (execPipelineFrameStart p pipe upsets s) :=
  .next (.ite ((State.frameStart_within).after (State.upset_within).mono) (State.upset_within).mono)

end Sys2Proof.Machine
end

section
/-! PROOFS. What the operations of Machine/MediaDecode.lean may reach. -/
namespace Sys2Proof.Machine

theorem State.mediaFetch_within {m} {s : State} : s.Within (Part.reporting [.heldRS, .hostMem, .memory, .mem, .power, .dealer, .serving, .vision,
    .media]) (State.mediaFetch m s) := by
  unfold State.mediaFetch
  split
  · exact .refl
  · refine .ite .refl ?_
    refine .ite ((State.wake_within).after (State.requestEngine_within).mono) ?_
    split
    · next h1 => exact (State.stopRing_within).after (((State.ringRead_within).snd h1).mono)
    · next h1 => exact .ite (((State.ringRead_within).snd h1).mono) (.chain (.ite (State.putQueue_within).mono (State.endCommand_within).mono)
          ((State.wrN_within).after (((State.ringRead_within).snd h1).mono)))

theorem State.Within.onHead {Q : List Part} {s t : State} {m c op f} (hf : ∀ x (u : State), u.Within Q (f x u)) (h : s.Within Q t)
    (hQ : autoParam (Part.Fits [.regs, .media] Q) Nat.toPNat._auto_1) : s.Within Q (t.onHead m c op f) := by
  refine .chain ?_ h
  unfold State.onHead
  dsimp only
  split
  · exact .ite .refl ((hf _ _).chain ((State.putQueue_within).after .refl hQ))
  · exact .refl

theorem State.Within.onFreeing {Q : List Part} {s t : State} {m c op f} (hf : ∀ x (u : State), u.Within Q (f x u)) (h : s.Within Q t)
    (hQ : autoParam (Part.Fits [.regs, .media] Q) Nat.toPNat._auto_1) : s.Within Q (t.onFreeing m c op f) := by
  refine .chain ?_ h
  unfold State.onFreeing
  dsimp only
  split
  · exact .ite ((hf _ _).chain ((State.putQueue_within).after .refl hQ)) .refl
  · exact .refl

theorem State.openCtx_within {m c tag kind} {s : State} : s.Within Part.entries (State.openCtx m c tag kind s) :=
  (State.mediaAck_within).after ((State.putCtx_within).after (State.updMedia_within).mono)

theorem State.openWith_within {m c kind x} {s : State} : s.Within Part.entries (State.openWith m c kind x s) :=
  .ite (State.mediaAck_within).mono (.ite (State.mediaAck_within).mono (State.openCtx_within).mono)

theorem State.readyDecode_within {m c} {s : State} : s.Within Part.entries (State.readyDecode m c s) := by
  unfold State.readyDecode
  split
  · refine .ite .refl ?_
    split
    · exact (State.endCommand_within).after (State.putQueue_within).mono
    · refine .ite .refl ?_
      split
      · exact (State.endCommand_within).after (State.putQueue_within).mono
      · exact .ite .refl (State.updDec_within).mono
  · exact .refl

theorem State.dropOwnHolds_within {m c} {s : State} : s.Within (Part.reporting [.memory, .mem, .media]) (State.dropOwnHolds m c s) := by
  unfold State.dropOwnHolds
  split
  · exact .refl
  · exact (State.updDec_within).after (.overList (fun _ _ => (State.unhold_within).after (State.unhold_within).mono) .refl)

theorem State.startClose_within {m c x ahead rest k} {s : State} : s.Within Part.entries (State.startClose m c x ahead rest k s) :=
  (State.finishClose_within).after (.elseStep (State.dropOwnHolds_within).mono ((State.putCtx_within).after (.overList (fun _ _ =>
      (State.endCommand_within).mono) (State.putQueue_within).mono)))

theorem State.closeCtx_within {m c} {s : State} : s.Within Part.entries (State.closeCtx m c s) := by
  unfold State.closeCtx
  dsimp only
  split
  · exact .ite .refl (State.startClose_within).mono
  · exact .ite ((State.mediaAck_within).after (State.putQueue_within).mono) .refl
  · exact .refl

theorem State.releaseSlots_within {m c x} {s : State} : s.Within Part.entries (State.releaseSlots m c x s) := by
  unfold State.releaseSlots
  split
  · exact (State.mediaAck_within).mono
  · exact .ite (State.mediaAck_within).mono ((State.finishClose_within).after ((State.mediaAck_within).after (.overList (fun _ _ =>
        (State.unhold_within).mono) .refl)))

theorem State.updateRate_within {m c x} {s : State} : s.Within Part.entries (State.updateRate m c x s) := by
  unfold State.updateRate
  split
  · exact (State.mediaAck_within).mono
  · exact .ite (State.mediaAck_within).mono ((State.mediaAck_within).after (State.updEnc_within).mono)

theorem State.arriveFrame_within {p m c k d i number w h pipe} {s : State} : s.Within (Part.reporting [.heldRS, .memory, .mem, .vision, .media])
    (State.arriveFrame p m c k d i number w h pipe s) :=
  .iteStep (State.setHolds_within).mono ((State.showFrames_within).after ((State.putFrames_within).after (State.commitRS_within).mono))

theorem State.frameRows_within {m r} {s : State} : s.Within [.vision] (State.frameRows m r s) :=
  (State.putFrames_within).mono

theorem State.framesDone_within {m r status} {s : State} : s.Within (Part.reporting [.hostMem, .memory, .mem, .power, .serving, .vision, .media])
    (State.framesDone m r status s) := by
  unfold State.framesDone
  refine .overList (fun _ _ => ?_) (State.putFrames_within).mono
  split
  · exact .refl
  · exact .refl
  · exact (State.startStage_within).after (State.writeFrameRecord_within).mono
  · exact (State.writeFrameRecord_within).mono

theorem State.saveCtx_within {m c saved} {s : State} : s.Within (Part.reporting [.memory, .mem, .media]) (State.saveCtx m c saved s) := by
  unfold State.saveCtx
  split
  · exact .refl
  · exact (State.putCtx_within).after (State.blockWrite_within).mono

theorem State.loadCtx_within {m c} {s : State} : s.Within (Part.reporting [.memory, .media]) (State.loadCtx m c s).2 := by
  unfold State.loadCtx
  split
  · exact .refl
  · split
    · exact .refl
    · exact .ite_snd (.pair_snd (State.hbmRead_within).mono) (.pair_snd ((State.putCtx_within).after (State.hbmRead_within).mono))

theorem State.switchCtx_within {m loaded c saved} {s : State} : s.Within (Part.reporting [.memory, .mem, .media])
    (State.switchCtx m loaded c saved s).2 := by
  unfold State.switchCtx
  split
  · exact (State.loadCtx_within).mono
  · exact .ite_snd .refl ((State.loadCtx_within).after ((State.saveCtx_within).after (State.mediaCount_within).mono))

theorem State.readUnit_within {m c u} {s : State} : s.Within (Part.reporting [.heldRS, .memory]) (State.readUnit m c u s).2.2 :=
  .ite_snd₂ (.pair_snd₂ ((State.feedPath_within).after (State.hostReading_within).mono)) (.pair_snd₂ ((State.feedPath_within).after
      (State.hbmRead_within).mono))

theorem State.trimRefs_within {m c} {s : State} : s.Within (Part.reporting [.memory, .mem, .media]) (State.trimRefs m c s) := by
  unfold State.trimRefs
  split
  · exact .refl
  · refine .ite .refl ?_
    split
    · split
      · exact (State.unhold_within).mono
      · exact .refl
    · exact .refl

theorem State.noPicture_within {m c u st mem} {s : State} : s.Within Part.entries (State.noPicture m c u st mem s) :=
  (State.mediaEntry_within).mono

theorem State.endUnit_within {m c last} {s : State} : s.Within [.regs, .media] (State.endUnit m c last s) :=
  .ite (State.updDec_within).mono .refl

theorem State.unsupport_within {m c} {s : State} : s.Within [.regs, .media] (State.unsupport m c s) :=
  (State.mediaCount_within).after (State.updDec_within).mono

theorem State.startPicture_within {m p c k d u i info last damaged mem} {s : State} : s.Within (Part.reporting [.heldRS, .memory, .mem, .vision,
    .media]) (State.startPicture m p c k d u i info last damaged mem s) := by
  unfold State.startPicture
  refine (State.updMedia_within).after ?_
  refine .elseStep (State.mediaCount_within).mono ?_
  refine .overList (fun _ _ => (State.arriveFrame_within).mono) ?_
  refine .iteStep (State.unhold_within).mono ?_
  refine (State.hbmWrite_within).after ?_
  refine (State.slotWords_within).after ?_
  refine (State.trimRefs_within).after ?_
  refine (State.setHolds_within).after ?_
  refine (State.updDec_within).after ?_
  refine .overList (fun _ _ => ?_) .refl
  split
  · split
    · exact (State.unhold_within).mono
    · exact .refl
  · exact .refl

theorem State.noteSlotWaits_within {m units} {s : State} : s.Within [.regs, .media] (State.noteSlotWaits m units s) :=
  .overList (fun _ _ => .iteStep ((State.updDec_within).after (State.mediaCount_within).mono) .refl) .refl

theorem State.takeUnit_within {m c u loaded saved} {s : State} : s.Within (Part.reporting [.heldRS, .memory, .mem, .media])
    (State.takeUnit m c u loaded saved s) :=
  .iteStep ((State.updDec_within).after ((State.readUnit_within).after (State.putQueue_within).mono)) ((State.updDec_within).after
      ((State.updMedia_within).after ((State.switchCtx_within).after (State.commitRS_within).mono)))

theorem State.startPart_within {m p c k d u i part last sets} {s : State} : s.Within (Part.reporting [.heldRS, .hostMem, .memory, .mem, .dealer,
    .serving, .vision, .media]) (State.startPart m p c k d u i part last sets s) := by
  unfold State.startPart
  dsimp only
  split
  · exact (State.endUnit_within).after ((State.noPicture_within).after ((State.updDec_within).after (.ite (State.mediaCount_within).mono .refl)))
  · exact (State.endUnit_within).after ((State.noPicture_within).after ((State.unsupport_within).after ((State.updDec_within).after (.ite
        (State.mediaCount_within).mono .refl))))
  · exact .ite ((State.startPicture_within).after ((State.updDec_within).after (.ite (State.mediaCount_within).mono .refl)))
        ((State.endUnit_within).after ((State.noPicture_within).after ((State.unsupport_within).after ((State.updDec_within).after (.ite
        (State.mediaCount_within).mono .refl)))))

theorem State.decodeStart_within {m part last sets saved} {s : State} : s.Within (Part.reporting [.heldRS, .hostMem, .memory, .mem, .dealer,
    .serving, .vision, .media]) (State.decodeStart m part last sets saved s) := by
  unfold State.decodeStart
  split
  · exact .refl
  · refine .ite .refl ?_
    dsimp only
    split
    · exact (State.noteSlotWaits_within).mono
    · split
      · exact .elseStep ((State.startPart_within).after (State.takeUnit_within).mono) (State.noteSlotWaits_within).mono
      · exact (State.noteSlotWaits_within).mono

theorem State.putBlock_within {d i slot bx ypos luma samples} {s : State} : s.Within (Part.reporting [.memory, .mem])
    (State.putBlock d i slot bx ypos luma samples s).2 :=
  .foldl_snd (fun _ _ => .pair_snd (State.hbmWrite_within).mono) .refl

theorem State.getBlock_within {d i slot bx ypos luma} {s : State} : s.Within (Part.reporting [.memory]) (State.getBlock d i slot bx ypos luma s).2.2
    :=
  .foldl_snd₂ (fun _ _ => (State.hbmRead_within).mono) .refl

theorem State.loseCurrent_within {m st r} {s : State} : s.Within (Part.reporting [.memory, .mem, .media]) (State.loseCurrent m st r s).2 :=
  .pair_snd (State.unhold_within).mono

theorem State.wroteCurrent_within {m r} {w : Option ℕ × State} : w.2.Within (Part.reporting [.memory, .mem, .media]) (State.wroteCurrent m r w).2
    := by
  unfold State.wroteCurrent
  split
  · exact (State.loseCurrent_within).mono
  · exact .pair_snd .refl

theorem State.markBlock_within {m d slot bx ypos r} {s : State} : s.Within (Part.reporting [.memory, .mem, .media])
    (State.markBlock m d slot bx ypos r s).2 :=
  .pair_snd ((State.updMedia_within).after ((State.wroteCurrent_within).after (State.hbmWrite_within).mono))

theorem State.loseRef_within {m ri n st r} {s : State} : s.Within (Part.reporting [.memory, .mem, .media]) (State.loseRef m ri n st r s).2 := by
  unfold State.loseRef
  refine .pair_snd ?_
  split
  · split
    · exact (State.unhold_within).after (.ite (State.mediaCount_within).mono .refl)
    · exact .ite (State.mediaCount_within).mono .refl
  · exact .ite (State.mediaCount_within).mono .refl

theorem State.readRefBlock_within {d i slot bx ypos} {s : State} : s.Within (Part.reporting [.memory]) (State.readRefBlock d i slot bx ypos s).2.2
    := by
  conv in @State.readRefBlock => delta State.readRefBlock
  obtain ⟨getBlock', hgetBlock⟩ := exists_eq' (a' := @State.getBlock)
  have wgetBlock := @State.getBlock_within
  rw [hgetBlock] at wgetBlock ⊢
  obtain ⟨hbmRead', hhbmRead⟩ := exists_eq' (a' := @State.hbmRead)
  have whbmRead := @State.hbmRead_within
  rw [hhbmRead] at whbmRead ⊢
  exact whbmRead.after (wgetBlock.after wgetBlock.mono)

theorem State.readsMarked_within {m d r q} {s : State} : s.Within (Part.reporting [.memory, .mem, .media]) (State.readsMarked m d r q s).2.2 := by
  unfold State.readsMarked
  refine .ite_snd₂ .refl ?_
  split
  · split
    · next h1 => exact (State.loseRef_within).after (((State.readRefBlock_within).snd₂ h1).mono)
    · next h1 => exact .pair_snd₂ (((State.readRefBlock_within).snd₂ h1).mono)
  · exact .refl

theorem State.neighbourMarked_within {m d r n} {s : State} : s.Within (Part.reporting [.memory, .mem, .media]) (State.neighbourMarked m d r n s).2.2
    := by
  unfold State.neighbourMarked
  dsimp only
  split
  · exact (State.loseCurrent_within).after ((State.getBlock_within).after (State.getBlock_within).mono)
  · exact (State.getBlock_within).after (State.getBlock_within).mono

theorem State.substituteBlock_within {d i bx ypos luma} {s : State} : s.Within (Part.reporting [.memory])
    (State.substituteBlock d i bx ypos luma s).2.2 := by
  unfold State.substituteBlock
  dsimp only
  split
  · split
    · next h1 => exact .pair_snd₂ (((State.getBlock_within).snd₂ h1).mono)
    · next h1 => exact .pair_snd₂ (((State.getBlock_within).snd₂ h1).mono)
  · exact .refl

theorem State.putCurrent_within {m d bx ypos luma bytes r} {s : State} : s.Within (Part.reporting [.memory, .mem, .media])
    (State.putCurrent m d bx ypos luma bytes r s).2 :=
  (State.wroteCurrent_within).after (State.putBlock_within).mono

theorem State.concealBlock_within {m d b r} {s : State} : s.Within (Part.reporting [.memory, .mem, .media]) (State.concealBlock m d b r s).2 :=
  .ite_snd .refl ((State.markBlock_within).after ((State.putCurrent_within).after ((State.substituteBlock_within).after
      ((State.putCurrent_within).after (State.substituteBlock_within).mono))))

theorem State.blockSamples_within {d r b luma} {s : State} : s.Within (Part.reporting [.memory]) (State.blockSamples d r b luma s).2.2 :=
  .ite_snd₂ .refl (.foldl_snd₂ (fun _ _ => (State.substituteBlock_within).mono) .refl)

theorem State.decodeBlockAt_within {m d b r} {s : State} : s.Within (Part.reporting [.memory, .mem, .media]) (State.decodeBlockAt m d b r s).2 :=
  .ite_snd .refl (.chain (.ite_snd (State.markBlock_within).mono (.pair_snd .refl)) ((State.putCurrent_within).after
      ((State.blockSamples_within).after ((State.putCurrent_within).after ((State.blockSamples_within).after (.foldl_snd₂ (fun _ _ =>
      (State.neighbourMarked_within).mono) (.foldl_snd₂ (fun _ _ => (State.readsMarked_within).mono) .refl)))))))

theorem State.publishRows_within {m d rows r} {s : State} : s.Within (Part.reporting [.memory, .mem, .vision, .media])
    (State.publishRows m d rows r s).2 :=
  .ite_snd .refl (.pair_snd ((State.frameRows_within).after ((State.updMedia_within).after ((State.wroteCurrent_within).after
      (State.slotWords_within).mono))))

theorem State.syntaxError_within {m d e r} {s : State} : s.Within (Part.reporting [.memory, .mem, .media]) (State.syntaxError m d e r s).2 :=
  .ite_snd .refl (.ite_snd (.pair_snd (State.mediaCount_within).mono) (.foldl_snd (fun _ _ => (State.concealBlock_within).mono) (.pair_snd
      (State.mediaCount_within).mono)))

theorem State.decodeRow_within {m row d r} {s : State} : s.Within (Part.reporting [.memory, .mem, .vision, .media]) (State.decodeRow m row d r s) :=
  (State.publishRows_within).after ((State.updMedia_within).after (.foldl_snd (fun _ _ => (State.syntaxError_within).mono) (.foldl_snd (fun _ _ =>
      .ite_snd .refl (State.decodeBlockAt_within).mono) .refl)))

theorem State.blockRow_within {m row} {s : State} : s.Within (Part.reporting [.memory, .mem, .vision, .media]) (State.blockRow m row s) := by
  unfold State.blockRow
  split
  · exact .refl
  · split
    · exact .refl
    · exact .ite .refl (State.decodeRow_within).mono

theorem State.concealRest_within {m d r} {s : State} : s.Within (Part.reporting [.memory, .mem, .vision, .media]) (State.concealRest m d r s).2 :=
  (State.publishRows_within).after (.foldl_snd (fun _ _ => (State.concealBlock_within).mono) (.pair_snd (.ite .refl (State.mediaCount_within).mono)))

theorem State.closeSlot_within {m d r} {s : State} : s.Within (Part.reporting [.memory, .mem, .media]) (State.closeSlot m d r s).2 := by
  conv in @State.closeSlot => delta State.closeSlot
  obtain ⟨slotWords', hslotWords⟩ := exists_eq' (a' := @State.slotWords)
  have wslotWords := @State.slotWords_within
  rw [hslotWords] at wslotWords ⊢
  exact (State.wroteCurrent_within).after (wslotWords.after ((State.wroteCurrent_within).after (wslotWords.after
      ((State.wroteCurrent_within).after wslotWords.mono))))

theorem State.moveLastGood_within {m d r} {s : State} : s.Within (Part.reporting [.memory, .mem, .media]) (State.moveLastGood m d r s) := by
  unfold State.moveLastGood
  refine .ite ?_ (State.setHolds_within).mono
  refine (State.setHolds_within).after ?_
  refine (State.updDec_within).after ?_
  split
  · exact .ite .refl (State.unhold_within).mono
  · exact .refl

theorem State.endPicture_within {m k d r} {s : State} : s.Within Part.submission (State.endPicture m k d r s) :=
  (State.finishClose_within).after (.iteStep (State.dropOwnHolds_within).mono ((State.framesDone_within).after ((State.endUnit_within).after
      ((State.mediaEntry_within).after ((State.ledgerAdd_within).after ((State.mediaCount_within).after ((State.mediaCount_within).after
      ((State.moveLastGood_within).after ((State.updDec_within).after ((State.updMedia_within).after (State.closeSlot_within).mono))))))))))

theorem State.decodeComplete_within {m} {s : State} : s.Within Part.submission (State.decodeComplete m s) := by
  unfold State.decodeComplete
  split
  · exact .refl
  · split
    · exact .ite .refl ((State.endPicture_within).after (State.concealRest_within).mono)
    · exact .refl

theorem execMediaCmdFetch_answers {m upsets} {s : State} : s.Answers (Part.reporting [.heldRS, .hostMem, .cores, .memory, .mem, .power, .dealer,
    .serving, .vision, .media]) (execMediaCmdFetch m upsets s) :=
  .next ((State.mediaFetch_within).after (State.upset_within).mono)

theorem execOpenDec_answers {m c} {s : State} : s.Answers Part.entries (execOpenDec m c s) :=
  .next (.onHead (fun _ _ => (State.openWith_within).mono) .refl)

theorem execOpenEnc_answers {m c} {s : State} : s.Answers Part.entries (execOpenEnc m c s) :=
  .next (.onHead (fun _ _ => (State.openWith_within).mono) .refl)

theorem execClose_answers {m c} {s : State} : s.Answers Part.entries (execClose m c s) :=
  .next (State.closeCtx_within).mono

theorem execDecode_answers {m c} {s : State} : s.Answers Part.entries (execDecode m c s) :=
  .next (State.readyDecode_within).mono

theorem execRelease_answers {m c} {s : State} : s.Answers Part.entries (execRelease m c s) :=
  .next (.onFreeing (fun _ _ => (State.releaseSlots_within).mono) .refl)

theorem execRcUpdate_answers {m c} {s : State} : s.Answers Part.entries (execRcUpdate m c s) :=
  .next (.onHead (fun _ _ => (State.updateRate_within).mono) .refl)

theorem execPictureDecodeStart_answers {m unit last saved upsets} {s : State} : s.Answers (Part.reporting [.heldRS, .hostMem, .cores, .memory, .mem,
    .dealer, .serving, .vision, .media]) (execPictureDecodeStart m unit last saved upsets s) :=
  .next ((State.decodeStart_within).after (State.upset_within).mono)

theorem execBlockRowDecoded_answers {m row upsets} {s : State} : s.Answers (Part.reporting [.cores, .memory, .mem, .vision, .media])
    (execBlockRowDecoded m row upsets s) :=
  .next ((State.blockRow_within).after (State.upset_within).mono)

theorem execPictureDecodeComplete_answers {m upsets} {s : State} : s.Answers (Part.reporting [.hostMem, .cores, .memory, .mem, .power, .dealer,
    .serving, .vision, .media]) (execPictureDecodeComplete m upsets s) :=
  .next ((State.decodeComplete_within).after (State.upset_within).mono)

end Sys2Proof.Machine
end

section
/-! PROOFS. What the operations of Machine/MotionSearch.lean may reach. -/
namespace Sys2Proof.Machine

theorem State.readPlane_within {a pitch w h depth10} {s : State} :
    s.Within (Part.reporting [.memory]) (State.readPlane a pitch w h depth10 s).2.2 := by
  unfold State.readPlane
  exact .foldl_snd₂ (fun _ _ => .pair_snd₂ State.hbmRead_within) .refl

theorem State.readReference_within {e} {s : State} : s.Within (Part.reporting [.memory]) (State.readReference e s).2.2 := by
  conv in @State.readReference => delta State.readReference
  obtain ⟨readPlane', hreadPlane⟩ := exists_eq' (a' := @State.readPlane)
  have wreadPlane := @State.readPlane_within
  rw [hreadPlane] at wreadPlane ⊢
  exact .foldl_snd₂ (fun _ _ => wreadPlane.mono) .refl

theorem State.searchBand_within {e r q y areas} {s : State} : s.Within (Part.reporting [.memory]) (State.searchBand e r q y areas s).2.2 := by
  unfold State.searchBand
  dsimp only
  split
  · exact (State.readReference_within).after (State.readPlane_within).mono
  · exact (State.readReference_within).after (State.readPlane_within).mono

end Sys2Proof.Machine
end

section
/-! PROOFS. What the operations of Machine/MediaEncode.lean may reach. -/
namespace Sys2Proof.Machine

theorem State.readyEncode_within {m c} {s : State} : s.Within Part.entries (State.readyEncode m c s) := by
  unfold State.readyEncode
  split
  · refine .ite .refl ?_
    split
    · exact (State.endCommand_within).after (State.putQueue_within).mono
    · refine .ite .refl ?_
      split
      · exact (State.endCommand_within).after (State.putQueue_within).mono
      · exact .ite ((State.endCommand_within).after (State.putQueue_within).mono) (.ite .refl (State.updEnc_within).mono)
  · exact .refl

theorem State.startEncode_within {m c e u loaded saved} {s : State} : s.Within (Part.reporting [.heldRS, .memory, .mem, .media])
    (State.startEncode m c e u loaded saved s) := by
  unfold State.startEncode
  exact (State.updMedia_within).after ((State.updEnc_within).after (.iteStep (State.putQueue_within).mono ((State.updMedia_within).after
      ((State.switchCtx_within).after (State.commitRS_within).mono))))

theorem State.encodeStart_within {m saved} {s : State} : s.Within (Part.reporting [.heldRS, .memory, .mem, .media]) (State.encodeStart m saved s)
    := by
  unfold State.encodeStart
  refine .ite .refl ?_
  split
  · exact .refl
  · exact (State.startEncode_within).mono

theorem State.rowCoded_within {m r row} {s : State} : s.Within [.regs, .media] (State.rowCoded m r row s).2 :=
  .pair_snd (State.updEnc_within).mono

theorem State.readSource_within {e r} {s : State} : s.Within (Part.reporting [.memory]) (State.readSource e r s).2 := by
  unfold State.readSource
  refine .foldl_snd (fun _ _ => ?_) .refl
  split
  · exact .refl
  · exact .pair_snd (State.hbmRead_within).mono

theorem State.searchRow_within {e r q i areas} {s : State} : s.Within (Part.reporting [.memory]) (State.searchRow e r q i areas s).2 := by
  unfold State.searchRow
  split
  · split
    · next h1 => exact .pair_snd (((State.searchBand_within).snd₂ h1).mono)
    · next h1 => exact .pair_snd (((State.searchBand_within).snd₂ h1).mono)
  · split
    · next h2 => exact .pair_snd (((State.searchBand_within).snd₂ h2).mono)
    · next h2 => exact .pair_snd (((State.searchBand_within).snd₂ h2).mono)
  · exact .refl

theorem State.startRow_within {m e r areas} {s : State} : s.Within (Part.reporting [.memory, .media]) (State.startRow m e r areas s) := by
  unfold State.startRow
  exact (State.updMedia_within).after ((State.searchRow_within).after (State.readSource_within).mono)

theorem State.encodeRow_within {m row} {s : State} : s.Within (Part.reporting [.memory, .media]) (State.encodeRow m row s) := by
  unfold State.encodeRow
  split
  · exact .refl
  · refine .ite .refl ?_
    dsimp only
    split
    · exact .ite_snd .refl (State.rowCoded_within).mono
    · exact (State.startRow_within).after (.ite_snd .refl (State.rowCoded_within).mono)

theorem State.putSlice_within {m r bytes} {s : State} : s.Within Part.entries (State.putSlice m r bytes s) := by
  unfold State.putSlice
  split
  · exact .refl
  · dsimp only
    split
    · exact (State.showCtx_within).after ((State.updMedia_within).after (.ite .refl (State.mediaCount_within).mono))
    · exact (State.mediaEntry_within).after ((State.updEnc_within).after ((State.updMedia_within).after (.ite (State.hostWrite_within).mono
          (State.blockWrite_within).mono)))

theorem State.sliceWritten_within {m coded} {s : State} : s.Within Part.entries (State.sliceWritten m coded s) := by
  unfold State.sliceWritten
  split
  · exact .refl
  · split
    · exact .refl
    · exact .ite .refl (.ite (State.updMedia_within).mono (State.putSlice_within).mono)

theorem State.outConsumed_within {m c x} {s : State} : s.Within Part.entries (State.outConsumed m c x s) := by
  unfold State.outConsumed
  split
  · exact (State.mediaAck_within).mono
  · refine .ite (State.mediaAck_within).mono ?_
    dsimp only
    split
    · split
      · exact .iteStep (State.putSlice_within).mono ((State.mediaAck_within).after (State.updEnc_within).mono)
      · exact (State.mediaAck_within).after (State.updEnc_within).mono
    · exact (State.mediaAck_within).after (State.updEnc_within).mono

theorem State.putRecon_within {e recon} {s : State} : s.Within (Part.reporting [.memory, .mem]) (State.putRecon e recon s) :=
  .overList (fun _ _ => .iteStep (State.blockWrite_within).mono .refl) .refl

theorem State.endEncode_within {m e r} {s : State} : s.Within Part.entries (State.endEncode m e r s) :=
  (State.finishClose_within).after ((State.mediaEntry_within).after (.elseStep (State.mediaCount_within).mono (.iteStep
      (State.mediaCount_within).mono (.iteStep (State.mediaCount_within).mono ((State.mediaCount_within).after ((State.updEnc_within).after
      (State.updMedia_within).mono))))))

theorem State.encodeComplete_within {m row recon} {s : State} : s.Within Part.entries (State.encodeComplete m row recon s) := by
  unfold State.encodeComplete
  split
  · exact .refl
  · split
    · exact .refl
    · exact .ite .refl ((State.endEncode_within).after ((State.putRecon_within).after (State.rowCoded_within).mono))

theorem State.pipePowerDown_within {m} {s : State} : s.Within [.regs, .power] (State.pipePowerDown m s) :=
  .ite ((State.wrF_within).after (.setPower .refl)) .refl

theorem State.endPipe_within {m st} {s : State} : s.Within Part.entries (State.endPipe m st s) :=
  .overList (fun _ _ => (State.showCtx_within).mono) ((State.putFrames_within).after (.overList (fun _ _ => (State.failFrame_within).mono)
      (.overList (fun _ _ => (State.endCommand_within).mono) (State.putMedia_within).mono)))

theorem State.pipeFail_within {m} {s : State} : s.Within Part.submission (State.pipeFail m s) :=
  .ite .refl ((State.putBit_within).after ((State.wrF_within).after ((State.wrF_within).after (.setPower ((State.postAt_within).after
      ((State.ledgerAdd_within).after (State.endPipe_within).mono))))))

theorem execEncode_answers {m c} {s : State} : s.Answers Part.entries (execEncode m c s) :=
  .next (State.readyEncode_within).mono

theorem execOutConsumed_answers {m c} {s : State} : s.Answers Part.entries (execOutConsumed m c s) :=
  .next (.onFreeing (fun _ _ => (State.outConsumed_within).mono) .refl)

theorem execPictureEncodeStart_answers {m saved} {s : State} : s.Answers (Part.reporting [.heldRS, .memory, .mem, .media])
    (execPictureEncodeStart m saved s) :=
  .next (State.encodeStart_within).mono

theorem execEncodeRowStart_answers {m row upsets} {s : State} : s.Answers (Part.reporting [.cores, .memory, .media])
    (execEncodeRowStart m row upsets s) :=
  .next ((State.encodeRow_within).after (State.upset_within).mono)

theorem execSliceWritten_answers {m bytes} {s : State} : s.Answers Part.entries (execSliceWritten m bytes s) :=
  .next (State.sliceWritten_within).mono

theorem execPictureEncodeComplete_answers {m row recon} {s : State} : s.Answers Part.entries (execPictureEncodeComplete m row recon s) :=
  .next (State.encodeComplete_within).mono

theorem execPipePowerDown_answers {m} {s : State} : s.Answers [.regs, .power] (execPipePowerDown m s) :=
  .next (State.pipePowerDown_within).mono

theorem execPipeFail_answers {m} {s : State} : s.Answers Part.submission (execPipeFail m s) :=
  .next (State.pipeFail_within).mono

end Sys2Proof.Machine
end

section
/-! PROOFS. What the operations of Machine/HostMemory.lean may reach. -/
namespace Sys2Proof.Machine

theorem execRemapComplete_answers {die page} {s : State} : s.Answers Part.prefixes (execRemapComplete die page s) := by
  unfold execRemapComplete
  split
  · refine .next ?_
    split
    · exact (State.dropLostNodes_within).after (State.finishRemap_within).mono
    · exact (State.finishRemap_within).mono
  · exact .next .refl

theorem State.scrubUnit_within {a} {s : State} : s.Within (Part.reporting [.memory]) (State.scrubUnit a s) := by
  unfold State.scrubUnit
  refine .overList (fun _ _ => (State.countSat_within).after (.setMemory .refl)) ?_
  split
  · exact (State.retireWords_within).after (.overList (fun _ _ => (State.countDead_within).mono) (State.releaseHeld_within).mono)
  · exact (State.memPartFatal_within).after ((State.retireWords_within).after (.overList (fun _ _ => (State.countDead_within).mono)
        (State.releaseHeld_within).mono))
  · exact (State.postMem_within).after ((State.retireWords_within).after (.overList (fun _ _ => (State.countDead_within).mono)
        (State.releaseHeld_within).mono))

theorem execScrubRead_answers {die upsets} {s : State} : s.Answers (Part.reporting [.cores, .memory]) (execScrubRead die upsets s) := by
  conv in @execScrubRead => delta execScrubRead
  obtain ⟨scrub, hscrub⟩ := exists_eq' (a' := @State.scrubUnit)
  have hs := @State.scrubUnit_within
  rw [hscrub] at hs ⊢
  extract_lets u off a v next mem w x
  have hu : s.Within (Part.reporting [.cores, .memory]) u := (State.upset_within).mono
  have hw : s.Within (Part.reporting [.cores, .memory]) w := .setMemory (hs.after hu)
  have hx : s.Within (Part.reporting [.cores, .memory]) x := (State.wrF_within).after hw
  clear_value u w x next
  exact .ite (.next hu) (.ite (.next (.iteStep (State.wrF_within).mono hx)) (.next hw))

theorem execHbmChannelFailed_answers {die pc addr} {s : State} : s.Answers (Part.reporting [.memory]) (execHbmChannelFailed die pc addr s) :=
  .ite (.next .refl) (.next ((State.memPartFatal_within).after ((State.ledgerRecord_within).after (.setMemory .refl))))

theorem State.sendUr_within {fn} {s : State} : s.Within [.regs, .pcie] (State.sendUr fn s) :=
  (State.emit_within).after (State.count_within).mono

theorem State.sendCa_within {fn} {s : State} : s.Within [.regs, .pcie] (State.sendCa fn s) :=
  (State.emit_within).after (State.count_within).mono

theorem execBar4Read_answers {fn off n upsets} {s : State} : s.Answers (Part.reporting [.cores, .memory]) (execBar4Read fn off n upsets s) := by
  unfold execBar4Read
  refine .ite (.next (State.upset_within).mono) ?_
  refine .ite (.next ((State.sendUr_within).after (State.upset_within).mono)) ?_
  refine .ite (.next ((State.emit_within).after (State.upset_within).mono)) ?_
  refine .ite (.next ((State.postMem_within).after ((State.sendUr_within).after (State.upset_within).mono))) ?_
  split
  · next h1 => exact .next ((State.emit_within).after (((State.hbmRead_within).snd₂ h1).after (State.upset_within).mono))
  · next h1 => exact .next ((State.sendCa_within).after (((State.hbmRead_within).snd₂ h1).after (State.upset_within).mono))

theorem execBar4Write_answers {fn off bytes upsets} {s : State} : s.Answers (Part.reporting [.cores, .memory, .mem])
    (execBar4Write fn off bytes upsets s) :=
  .ite (.next (State.upset_within).mono) (.ite (.next ((State.sendUr_within).after ((State.aerError_within).after (State.upset_within).mono))) (.ite
      (.next (State.upset_within).mono) (.ite (.next ((State.postMem_within).after (State.upset_within).mono)) (.next ((State.feedPath_within).after
      ((State.hbmWrite_within).after (State.upset_within).mono))))))

theorem State.winBase_within {fn target value} {s : State} : s.Within (Part.reporting [.heldRS]) (State.winBase fn target value s) :=
  .ite (State.writeReg_within).mono .refl

theorem execWinBaseWrite_answers {fn target value} {s : State} : s.Answers (Part.reporting [.heldRS]) (execWinBaseWrite fn target value s) :=
  .next (State.winBase_within).mono

end Sys2Proof.Machine
end

section
/-! PROOFS. What the operations of Machine/Rings.lean may reach. -/
namespace Sys2Proof.Machine

theorem State.ringWriteBy_within {page r d off log2 bad} {s : State} : s.Within (Part.reporting [.power])
    (State.ringWriteBy page r d off log2 bad s) :=
  .ite (State.ringPointer_within).mono .refl

theorem State.releaseCompletions_within {p q} {s : State} : s.Within Part.entries (State.releaseCompletions p q s) :=
  .overList (fun _ _ => (State.postCompletion_within).mono) (State.putPartDealer_within).mono

theorem State.releaseEntries_within {p q} {s : State} : s.Within Part.entries (State.releaseEntries p q s) :=
  .iteStep (State.scqIrq_within).mono (.foldl_snd (fun _ _ => .pair_snd (State.postEntry_within).mono) (.pair_snd (State.putServing_within).mono))

theorem State.releaseMedia_within {m p l} {s : State} : s.Within Part.entries (State.releaseMedia m p l s) := by
  induction l generalizing s with
  | nil => exact .refl
  | cons _ _ ih =>
    rw [State.releaseMedia]
    exact .ite .refl (ih.after ((State.mcqPut_within).after (State.updMedia_within).mono))

theorem State.cqHead_within {p q d} {s : State} : s.Within Part.submission (State.cqHead p q d s) :=
  .ite ((State.releaseCompletions_within).after (State.ringPointer_within).mono) .refl

theorem State.scqHead_within {p q d} {s : State} : s.Within Part.submission (State.scqHead p q d s) :=
  .ite .refl (.iteStep (.overList (fun _ _ => (State.slotEvent_within).mono) .refl) ((State.releaseEntries_within).after
      (State.ringPointer_within).mono))

theorem State.mcqHead_within {page m d} {s : State} : s.Within Part.submission (State.mcqHead page m d s) := by
  unfold State.mcqHead
  refine .ite .refl ?_
  dsimp only
  split
  · exact (State.releaseMedia_within).after (State.ringPointer_within).mono
  · exact (State.ringPointer_within).mono

theorem State.pointerWrite_within {page r d} {s : State} : s.Within Part.submission (State.pointerWrite page r d s) := by
  unfold State.pointerWrite
  split
  · exact (State.ringWriteBy_within).mono
  · exact (State.cqHead_within).mono
  · exact (State.ringWriteBy_within).mono
  · exact (State.scqHead_within).mono
  · exact (State.ringWriteBy_within).mono
  · exact (State.mcqHead_within).mono
  · exact (State.ringWriteBy_within).mono
  · exact (State.ringWriteBy_within).mono
  · exact (State.ringWriteBy_within).mono

theorem execSqTailWrite_answers {p q d} {s : State} : s.Answers Part.submission (execSqTailWrite p q d s) :=
  .next (State.pointerWrite_within).mono

theorem execCqHeadWrite_answers {p q d} {s : State} : s.Answers Part.submission (execCqHeadWrite p q d s) :=
  .next (State.pointerWrite_within).mono

theorem execRqTailWrite_answers {p q d} {s : State} : s.Answers Part.submission (execRqTailWrite p q d s) :=
  .next (State.pointerWrite_within).mono

theorem execScqHeadWrite_answers {p q d} {s : State} : s.Answers Part.submission (execScqHeadWrite p q d s) :=
  .next (State.pointerWrite_within).mono

theorem execTlnCmdTailWrite_answers {d} {s : State} : s.Answers Part.submission (execTlnCmdTailWrite d s) :=
  .next (State.pointerWrite_within).mono

theorem execEqTailWrite_answers {page die d} {s : State} : s.Answers Part.submission (execEqTailWrite page die d s) :=
  .next (State.pointerWrite_within).mono

theorem execRkqTailWrite_answers {p d} {s : State} : s.Answers Part.submission (execRkqTailWrite p d s) :=
  .next (State.pointerWrite_within).mono

theorem execMsqTailWrite_answers {page m d} {s : State} : s.Answers Part.submission (execMsqTailWrite page m d s) :=
  .next (State.pointerWrite_within).mono

theorem execMcqHeadWrite_answers {page m d} {s : State} : s.Answers Part.submission (execMcqHeadWrite page m d s) :=
  .next (State.pointerWrite_within).mono

theorem State.enableWrite_within {r value} {s : State} : s.Within (Part.reporting [.heldRS, .dealer, .serving, .talon, .vision, .media])
    (State.enableWrite r value s) :=
  .elseStep (State.disableRing_within).mono (State.writeReg_within).mono

theorem execRingEnableWrite_answers {fn r value} {s : State} : s.Answers (Part.reporting [.heldRS, .dealer, .serving, .talon, .vision, .media])
    (execRingEnableWrite fn r value s) :=
  .next (.ite (State.enableWrite_within).mono .refl)

end Sys2Proof.Machine
end

section
/-! PROOFS. What the operations of Machine/Talon.lean may reach. -/
namespace Sys2Proof.Machine

theorem State.talonHead_within {s : State} : s.Within Part.talonRing (State.talonHead s).2 := by
  unfold State.talonHead
  refine .ite_snd .refl ?_
  dsimp only
  split
  · next h1 => exact .pair_snd ((State.disableRing_within).after (((State.ringRead_within).snd h1).mono))
  · next h1 => exact .ite_snd (.pair_snd (((State.ringRead_within).snd h1).mono)) (.pair_snd (((State.ringRead_within).snd h1).mono))

theorem State.endTalon_within {st} {s : State} : s.Within (Part.reporting [.talon]) (State.endTalon st s) :=
  .setTalon (.ite (State.postAt_within).mono .refl)

theorem State.takeTalon_within {w} {s : State} : s.Within [.regs, .talon] (State.takeTalon w s) :=
  .setTalon (State.wrN_within).mono

theorem State.absorbTalon_within {p} {s : State} : s.Within (Part.reporting [.talon]) (State.absorbTalon p s) :=
  .iteStep (State.endTalon_within).mono (.ite .refl (.setTalon .refl))

theorem State.Within.onTalon {Q : List Part} {s t : State} {op f} (hf : ∀ p g (u : State), u.Within Q (f p g u)) (h : s.Within Q t)
    (hQ : autoParam (Part.Fits Part.talonRing Q) Nat.toPNat._auto_1) : s.Within Q (t.onTalon op f) := by
  refine .chain ?_ h
  unfold State.onTalon
  split
  · next h1 => exact .of_subset (P := Part.talonRing) ((State.talonHead_within).snd h1).mono (Part.subset_of_bits hQ)
  · next w u h1 =>
    have hu : t.Within Q (u.takeTalon w) :=
      .of_subset (P := Part.talonRing) ((State.takeTalon_within).after ((State.talonHead_within).snd h1).mono) (Part.subset_of_bits hQ)
    have hend {v : State} {st : Nat} : v.Within Q (v.endTalon st) :=
      .of_subset (P := Part.talonRing) (State.endTalon_within).mono (Part.subset_of_bits hQ)
    refine .ite .refl ?_
    dsimp only
    exact .ite (hend.chain hu) (.ite (hend.chain hu) ((hf _ _ _).chain hu))

theorem State.talonSource_within {a n} {s : State} : s.Within (Part.reporting [.heldRS, .memory]) (State.talonSource a n s).2 := by
  unfold State.talonSource
  refine .ite_snd (.pair_snd (State.hostReading_within).mono) ?_
  split
  · refine .ite_snd .refl ?_
    split
    · next h1 => exact .pair_snd (((State.hbmRead_within).snd₂ h1).mono)
    · next h1 => exact .pair_snd (((State.hbmRead_within).snd₂ h1).mono)
  · exact .refl

theorem State.imageCreate_within {p w} {s : State} : s.Within (Part.reporting [.talon]) (State.imageCreate p w s) :=
  .ite (State.endTalon_within).mono (.ite (State.endTalon_within).mono (.ite (State.endTalon_within).mono ((State.endTalon_within).after
      ((State.journalled_within).after (.setTalon .refl)))))

theorem State.imageWrite_within {p w} {s : State} : s.Within (Part.reporting [.heldRS, .memory, .power, .talon]) (State.imageWrite p w s) := by
  unfold State.imageWrite
  dsimp only
  split
  · exact (State.endTalon_within).mono
  · refine .ite (State.endTalon_within).mono ?_
    refine .ite (State.endTalon_within).mono ?_
    split
    · next h1 => exact (State.endTalon_within).after (((State.talonSource_within).snd h1).mono)
    · next h1 =>
        split
        · exact (State.endTalon_within).after (((State.talonSource_within).snd h1).mono)
        · next h2 => exact (State.endTalon_within).after ((State.updImage_within).after ((State.feedPath_within).after
              ((State.chargeWeights_within).after ((State.place_within h2).after ((State.useTalon_within).after
              (((State.talonSource_within).snd h1).mono))))))

theorem State.imageSeal_within {p w} {s : State} : s.Within (Part.reporting [.talon]) (State.imageSeal p w s) := by
  unfold State.imageSeal
  split
  · exact (State.endTalon_within).mono
  · exact .ite (State.endTalon_within).mono ((State.endTalon_within).after ((State.journalled_within).after (State.updImage_within).mono))

theorem State.imageDelete_within {p w} {s : State} : s.Within (Part.reporting [.talon]) (State.imageDelete p w s) := by
  unfold State.imageDelete
  split
  · exact (State.endTalon_within).mono
  · exact .ite (State.endTalon_within).mono ((State.endTalon_within).after ((State.journalled_within).after (.setTalon .refl)))

theorem State.slotLoad_within {p w} {s : State} : s.Within (Part.reporting [.talon]) (State.slotLoad p w s) := by
  unfold State.slotLoad
  refine .ite (State.endTalon_within).mono ?_
  split
  · exact (State.endTalon_within).mono
  · exact .ite (State.endTalon_within).mono (.ite (State.endTalon_within).mono (.ite (State.endTalon_within).mono (.ite
        ((State.endTalon_within).after (State.post_within).mono) (.setTalon (State.wrF_within).mono))))

theorem State.endLoad_within {sl st} {s : State} : s.Within (Part.reporting [.memory, .mem, .serving, .pfx, .talon]) (State.endLoad sl st s) :=
  .ite ((State.endTalon_within).after ((State.rebuildIndex_within).after ((State.wrN_within).after ((State.wrF_within).after (.setTalon .refl)))))
      ((State.endTalon_within).after ((State.wrF_within).after (.setTalon .refl)))

theorem State.pourImage_within {words i} {s : State} : s.Within (Part.reporting [.memory, .mem]) (State.pourImage words i s).2 :=
  .foldl_snd (fun _ _ => .ite_snd .refl (.ite_snd (.pair_snd ((State.feedPath_within).after (State.hbmPour_within).mono))
      (State.hbmPour_within).mono)) .refl

theorem State.finishLoad_within {sl cws} {s : State} : s.Within (Part.reporting [.memory, .mem, .power, .serving, .pfx, .talon, .freeCtr])
    (State.finishLoad sl cws s) := by
  unfold State.finishLoad
  split
  · dsimp only
    split
    · exact (State.endLoad_within).after (State.ladder_within).mono
    · refine .ite ((State.endLoad_within).after ((State.countReads_within).after (State.ladder_within).mono)) ?_
      split
      · next h1 => exact (State.endLoad_within).after ((State.putSlot_within).after (((State.pourImage_within).snd h1).after
            ((State.countReads_within).after (State.ladder_within).mono)))
      · next h1 => exact (State.endLoad_within).after (((State.pourImage_within).snd h1).after ((State.countReads_within).after
            (State.ladder_within).mono))
  · exact .refl

theorem State.slotUnload_within {p w} {s : State} : s.Within Part.prefixes (State.slotUnload p w s) :=
  .ite (State.endTalon_within).mono ((State.endTalon_within).after ((State.putSlot_within).after ((State.wrF_within).after (.overList (fun _ _ =>
      (State.evictSubtree_within).mono) .refl))))

theorem State.parkExport_within {cws p w} {s : State} : s.Within (Part.reporting [.hostMem, .memory, .mem, .power, .serving, .pfx, .talon,
    .freeCtr]) (State.parkExport cws p w s) := by
  unfold State.parkExport
  split
  · exact (State.endTalon_within).mono
  · refine .ite (State.endTalon_within).mono ?_
    refine .ite ((State.endTalon_within).after (.setTalon .refl)) ?_
    refine .ite ((State.endTalon_within).after ((State.countReads_within).after ((State.ladder_within).after (.setTalon .refl)))) ?_
    refine .ite ((State.endTalon_within).after ((State.hostWrite_within).after ((State.countReads_within).after ((State.ladder_within).after
        (.setTalon .refl))))) ?_
    split
    · next h1 => exact (State.endTalon_within).after (((State.hbmWrite_within).snd h1).after ((State.countReads_within).after
          ((State.ladder_within).after (.setTalon .refl))))
    · next h1 => exact (State.endTalon_within).after (((State.hbmWrite_within).snd h1).after ((State.countReads_within).after
          ((State.ladder_within).after (.setTalon .refl))))

theorem State.importSegments_within {hand} {s : State} : s.Within (Part.reporting [.memory]) (State.importSegments hand s).2 := by
  unfold State.importSegments
  refine .ite_snd .refl ?_
  split
  · next h1 => exact .pair_snd (((State.globalRead_within).snd₂ h1).mono)
  · next h1 => exact .pair_snd (((State.globalRead_within).snd₂ h1).mono)

theorem State.parkImport_within {p w} {s : State} : s.Within (Part.reporting [.heldRS, .memory, .power, .talon]) (State.parkImport p w s) := by
  unfold State.parkImport
  dsimp only
  split
  · next h1 => exact (State.endTalon_within).after (State.Within.snd (.ite_snd .refl (State.talonSource_within).mono) h1)
  · next h1 =>
      refine .ite ((State.endTalon_within).after ((State.feedPath_within).after (State.Within.snd (.ite_snd .refl
          (State.talonSource_within).mono) h1))) ?_
      refine .ite ((State.endTalon_within).after ((State.feedPath_within).after (State.Within.snd (.ite_snd .refl
          (State.talonSource_within).mono) h1))) ?_
      split
      · next h2 => exact (State.endTalon_within).after (((State.importSegments_within).snd h2).after ((State.feedPath_within).after
            (State.Within.snd (.ite_snd .refl (State.talonSource_within).mono) h1)))
      · next h2 =>
          split
          · exact (State.endTalon_within).after (((State.importSegments_within).snd h2).after ((State.feedPath_within).after (State.Within.snd
                (.ite_snd .refl (State.talonSource_within).mono) h1)))
          · next h3 => exact (State.endTalon_within).after ((State.showShare_within).after ((State.charge_within).after (.setTalon
                ((State.place_within h3).after ((State.useTalon_within).after (((State.importSegments_within).snd h2).after
                ((State.feedPath_within).after (State.Within.snd (.ite_snd .refl (State.talonSource_within).mono) h1))))))))

theorem State.parkDelete_within {p w} {s : State} : s.Within (Part.reporting [.talon, .freeCtr]) (State.parkDelete p w s) := by
  unfold State.parkDelete
  split
  · exact (State.endTalon_within).mono
  · exact .ite (State.endTalon_within).mono ((State.endTalon_within).after (State.dropParked_within).mono)

theorem State.prefixDrop_within {p w} {s : State} : s.Within Part.prefixes (State.prefixDrop p w s) :=
  (State.endTalon_within).after (.overList (fun _ _ => (State.dropExtent_within).after (.overList (fun _ _ => (State.evictSubtree_within).mono)
      .refl)) .refl)

theorem State.stopTalonWork_within {s : State} : s.Within Part.prefixes (State.stopTalonWork s) :=
  .overList (fun _ _ => (State.endLoad_within).mono) (.overList (fun _ _ => (State.dropParked_within).mono) (.overList (fun _ _ =>
      (State.dropExtent_within).after (.overList (fun _ _ => (State.evictSubtree_within).mono) .refl)) (.overList (fun _ _ => .ite
      (State.abandonTransfer_within).mono (.overList (fun _ _ => (State.unlease_within).mono) ((State.endTransfer_within).after (.overList
      (fun _ _ => (State.updNode_within).mono) .refl)))) .refl)))

theorem State.quiesceTalon_within {kind reason} {s : State} : s.Within Part.prefixes (State.quiesceTalon kind reason s) :=
  .setLedgerTalon ((State.stopTalonWork_within).after (.setTalon .refl))

theorem State.endParkings_within {l st} {s : State} : s.Within Part.boundary (State.endParkings l st s) := by
  unfold State.endParkings
  refine .overList (fun _ _ => ?_) .refl
  split
  · exact .refl
  · exact .chain (.ite ((State.updSlot_within).after (State.putHand_within).mono) (State.memberParked_within).mono) ((State.putHand_within).after
        (State.unleaseHand_within).mono)

theorem State.shutdownTalon_within {_p _w} {s : State} : s.Within Part.boundary (State.shutdownTalon _p _w s) :=
  (State.endTalon_within).after ((State.endParkings_within).after ((State.ledgerVolatile_within).after ((State.drawn_within).after
      (State.quiesceTalon_within).mono)))

theorem State.showMount_within {s : State} : s.Within [.regs, .ledger] (State.showMount s) :=
  (State.showErase_within).after ((State.showSpares_within).after ((State.wrF_within).after (State.wrF_within).mono))

theorem State.mountTalon_within {lost images badMarkers factory cws} {s : State} : s.Within (Part.reporting [.memory, .mem, .power, .serving, .pfx,
    .talon, .freeCtr]) (State.mountTalon lost images badMarkers factory cws s) :=
  .chain ((State.ladder_within).after ((State.countReads_within).after (.ite (State.post_within).mono (.iteStep (State.post_within).mono .refl))))
      (.overList (fun _ _ => (State.showShare_within).mono) (.iteStep (.overList (fun _ _ => (State.factoryBlock_within).mono) .refl)
      ((State.showMount_within).after ((State.wrF_within).after ((State.wrF_within).after (.setTalon (.overList (fun _ _ =>
      (State.dropExtent_within).mono) (.elseStep (State.countReads_within).mono ((State.replayJournal_within).after (.setTalon .refl))))))))))

theorem execImageCreate_answers {s : State} : s.Answers Part.talonRing (execImageCreate s) :=
  .next (.onTalon (fun _ _ _ => (State.imageCreate_within).mono) .refl)

theorem execImageWrite_answers {upsets} {s : State} : s.Answers (Part.reporting [.heldRS, .cores, .memory, .power, .dealer, .serving, .talon,
    .vision, .media]) (execImageWrite upsets s) :=
  .next (.onTalon (fun _ _ _ => (State.imageWrite_within).mono) (State.upset_within).mono)

theorem execImageSeal_answers {s : State} : s.Answers Part.talonRing (execImageSeal s) :=
  .next (.onTalon (fun _ _ _ => (State.imageSeal_within).mono) .refl)

theorem execImageDelete_answers {s : State} : s.Answers Part.talonRing (execImageDelete s) :=
  .next (.onTalon (fun _ _ _ => (State.imageDelete_within).mono) .refl)

theorem execSlotLoad_answers {s : State} : s.Answers Part.talonRing (execSlotLoad s) :=
  .next (.onTalon (fun _ _ _ => (State.slotLoad_within).mono) .refl)

theorem execSlotUnload_answers {s : State} : s.Answers (Part.reporting [.heldRS, .memory, .mem, .dealer, .serving, .pfx, .talon, .vision, .media,
    .freeCtr]) (execSlotUnload s) :=
  .next (.onTalon (fun _ _ _ => (State.slotUnload_within).mono) .refl)

theorem execParkExport_answers {cws} {s : State} : s.Answers (Part.reporting [.heldRS, .hostMem, .memory, .mem, .power, .dealer, .serving, .pfx,
    .talon, .vision, .media, .freeCtr]) (execParkExport cws s) :=
  .next (.onTalon (fun _ _ _ => (State.parkExport_within).mono) .refl)

theorem execParkImport_answers {upsets} {s : State} : s.Answers (Part.reporting [.heldRS, .cores, .memory, .power, .dealer, .serving, .talon,
    .vision, .media]) (execParkImport upsets s) :=
  .next (.onTalon (fun _ _ _ => (State.parkImport_within).mono) (State.upset_within).mono)

theorem execParkDelete_answers {s : State} : s.Answers (Part.reporting [.heldRS, .memory, .dealer, .serving, .talon, .vision, .media, .freeCtr])
    (execParkDelete s) :=
  .next (.onTalon (fun _ _ _ => (State.parkDelete_within).mono) .refl)

theorem execPrefixDrop_answers {s : State} : s.Answers (Part.reporting [.heldRS, .memory, .mem, .dealer, .serving, .pfx, .talon, .vision, .media,
    .freeCtr]) (execPrefixDrop s) :=
  .next (.onTalon (fun _ _ _ => (State.prefixDrop_within).mono) .refl)

theorem execShutdown_answers {s : State} : s.Answers Part.boundary (execShutdown s) :=
  .next (.onTalon (fun _ _ _ => (State.shutdownTalon_within).mono) .refl)

theorem execSlotLoadComplete_answers {slot cws} {s : State} : s.Answers (Part.reporting [.memory, .mem, .power, .serving, .pfx, .talon, .freeCtr])
    (execSlotLoadComplete slot cws s) :=
  .next (.ite (State.finishLoad_within).mono .refl)

theorem State.completeTalon_within {c st} {s : State} : s.Within (Part.reporting [.hostMem, .memory, .mem, .dealer, .serving, .talon, .vision,
    .media]) (State.completeTalon c st s) := by
  unfold State.completeTalon
  refine .elseStep ?_ (.setTalon .refl)
  dsimp only
  split
  · next h1 =>
      refine (State.disableRing_within).after ?_
      refine ((State.ringWrite_within).snd h1).after ?_
      split
      · exact (State.ringWrite_within).mono
      · exact .refl
  · next h1 =>
      refine .ite ?_ ?_
      · refine (State.msix_within).after ?_
        refine ((State.ringWrite_within).snd h1).after ?_
        split
        · exact (State.ringWrite_within).mono
        · exact .refl
      · refine ((State.ringWrite_within).snd h1).after ?_
        split
        · exact (State.ringWrite_within).mono
        · exact .refl

theorem execTalonCmdComplete_answers {upsets} {s : State} : s.Answers (Part.reporting [.heldRS, .hostMem, .cores, .memory, .mem, .dealer, .serving,
    .talon, .vision, .media]) (execTalonCmdComplete upsets s) := by
  unfold execTalonCmdComplete
  dsimp only
  split
  · split
    · exact .next ((State.completeTalon_within).after (State.upset_within).mono)
    · exact .next (State.upset_within).mono
  · split
    · next h1 => exact .next (((State.talonHead_within).snd h1).after (State.upset_within).mono)
    · next h1 =>
        refine .ite (.next (State.upset_within).mono) ?_
        split
        · exact .next ((State.completeTalon_within).after ((State.endTalon_within).after ((State.takeTalon_within).after
              (((State.talonHead_within).snd h1).after (State.upset_within).mono))))
        · exact .next ((State.endTalon_within).after ((State.takeTalon_within).after (((State.talonHead_within).snd h1).after
              (State.upset_within).mono)))

theorem execFlashProgramFail_answers {die x} {s : State} : s.Answers (Part.reporting [.memory, .mem, .power, .serving, .pfx, .talon, .freeCtr])
    (execFlashProgramFail die x s) :=
  .next (.ite ((State.retireBlock_within).after ((State.reprogram_within).after (State.ladder_within).mono)) .refl)

theorem execFlashEraseFail_answers {die x} {s : State} : s.Answers (Part.reporting [.memory, .mem, .power, .serving, .pfx, .talon, .freeCtr])
    (execFlashEraseFail die x s) :=
  .next (.ite ((State.retireBlock_within).after (State.ladder_within).mono) .refl)

theorem State.failChannel_within {t} {s : State} : s.Within Part.boundary (State.failChannel t s) := by
  unfold State.failChannel
  refine (State.postAt_within).after ?_
  refine (State.ledgerRecord_within).after ?_
  refine (State.endParkings_within).after ?_
  refine (State.putBit_within).after ?_
  refine (State.wrF_within).after ?_
  refine (State.wrF_within).after ?_
  refine .overList (fun _ _ => (State.showShare_within).mono) ?_
  refine (State.journalled_within).after ?_
  refine .setTalon ?_
  refine .overList (fun _ _ => ?_) ((State.stopTalonWork_within).after (State.drawn_within).mono)
  split
  · exact .refl
  · exact .ite (State.loseNodes_within).mono (State.putNode_within).mono

theorem execTalonChannelFail_answers {channel} {s : State} : s.Answers Part.boundary (execTalonChannelFail channel s) :=
  .next (.ite (State.failChannel_within).mono .refl)

theorem execGarbageCollect_answers {x} {s : State} : s.Answers (Part.reporting [.memory, .mem, .power, .serving, .pfx, .talon, .freeCtr])
    (execGarbageCollect x s) := by
  unfold execGarbageCollect
  refine .ite (.next .refl) ?_
  split
  · exact .next ((State.relocateBand_within).after (State.ladder_within).mono)
  · exact .next .refl

theorem execStaticWearLevel_answers {x} {s : State} : s.Answers (Part.reporting [.memory, .mem, .power, .serving, .pfx, .talon, .freeCtr])
    (execStaticWearLevel x s) := by
  unfold execStaticWearLevel
  refine .ite (.next .refl) ?_
  split
  · exact .next ((State.setOpen_within).after ((State.relocateBand_within).after ((State.setOpen_within).after (State.ladder_within).mono)))
  · exact .next .refl

theorem execRetentionAgeRefresh_answers {x} {s : State} : s.Answers (Part.reporting [.memory, .mem, .power, .serving, .pfx, .talon, .freeCtr])
    (execRetentionAgeRefresh x s) :=
  .next (.ite ((State.relocateBand_within).after (State.ladder_within).mono) .refl)

theorem execReadDisturbRelocate_answers {x} {s : State} : s.Answers (Part.reporting [.memory, .mem, .power, .serving, .pfx, .talon, .freeCtr])
    (execReadDisturbRelocate x s) :=
  .next (.ite ((State.relocateBand_within).after (State.ladder_within).mono) .refl)

theorem execWearCreditTick_answers {s : State} : s.Answers [.regs, .heldRS, .talon] (execWearCreditTick s) :=
  .ite (.next .refl) (.next (.overList (fun _ _ => .elseStep ((State.wrN_within).after (.setTalon .refl)) .refl) (.setTalon
      ((State.wr64_within).after (State.commitRS_within).mono))))

end Sys2Proof.Machine
end

section
/-! PROOFS. What the operations of Machine/Pcie.lean may reach. -/
namespace Sys2Proof.Machine

theorem State.resetFunction_within {fn} {s : State} : s.Within [.regs, .pcie] (State.resetFunction fn s) :=
  (State.wrN_within).after (.setPcie .refl)

theorem State.stopQueues_within {p} {s : State} : s.Within [.regs, .pcie, .dealer, .serving, .vision, .media] (State.stopQueues p s) :=
  .overList (fun _ _ => (State.wrF_within).mono) ((State.stopRing_within).after (.overList (fun _ _ => (State.stopRing_within).mono) (.overList
      (fun _ _ => (State.stopRing_within).after (State.stopRing_within).mono) (.overList (fun _ _ => (State.stopRing_within).after
      (State.stopRing_within).mono) (.overList (fun _ _ => (State.stopRing_within).after (State.stopRing_within).mono) ((State.wrF_within).after
      (State.wrF_within).mono))))))

theorem State.flr_within {fn} {s : State} : s.Within [.regs, .pcie, .dealer, .serving, .talon, .vision, .media] (State.flr fn s) :=
  (State.resetFunction_within).after (.ite (State.disableRing_within).mono (.ite (State.stopQueues_within).mono .refl))

theorem State.flrDone_within {s : State} : s.Within Part.reports (State.flrDone s) :=
  (State.post_within).after (State.count_within).mono

theorem execFlrVf_answers {vf} {s : State} : s.Answers (Part.reporting [.dealer, .serving, .talon, .vision, .media]) (execFlrVf vf s) :=
  .next (.ite ((State.flrDone_within).after (State.flr_within).mono) .refl)

theorem execFlrPf0_answers {s : State} : s.Answers (Part.reporting [.dealer, .serving, .talon, .vision, .media]) (execFlrPf0 s) :=
  .next (.ite ((State.flrDone_within).after (State.flr_within).mono) .refl)

theorem State.trainPcie_within {speed width} {s : State} : s.Within Part.reports (State.trainPcie speed width s) :=
  .ite ((State.post_within).after (State.wrN_within).mono) (.iteStep ((State.post_within).after (State.ledgerAdd_within).mono)
      (State.wrN_within).mono)

theorem execPcieLinkUp_answers {speed width} {s : State} : s.Answers Part.reports (execPcieLinkUp speed width s) :=
  .next (.ite (State.trainPcie_within).mono .refl)

theorem State.losePcie_within {s : State} : s.Within (Part.reporting [.dealer, .serving, .talon, .vision, .media]) (State.losePcie s) :=
  .ite .refl ((State.post_within).after ((State.ledgerAdd_within).after ((State.count_within).after (.overList (fun _ _ =>
      (State.flrDone_within).after (State.flr_within).mono) (State.wrN_within).mono))))

theorem execPcieLinkLoss_answers {s : State} : s.Answers (Part.reporting [.dealer, .serving, .talon, .vision, .media]) (execPcieLinkLoss s) :=
  .next (State.losePcie_within).mono

theorem State.releaseVector_within {fn v} {s : State} : s.Within [.pcie] (State.releaseVector fn v s) :=
  .ite ((State.emit_within).after (.setPcie .refl)) .refl

theorem execMsixUnmask_answers {fn v} {s : State} : s.Answers [.pcie] (execMsixUnmask fn v s) :=
  .ite (.next ((State.releaseVector_within).after (.setPcie .refl))) (.next .refl)

theorem State.releaseWrites_within {fn} {s : State} : s.Within [.pcie, .hostMem] (State.releaseWrites fn s) :=
  .setPcieWithHostMem .refl fun h => cellsWf_writes _ _ _ h

theorem execBusMasterEnableSet_answers {fn} {s : State} : s.Answers [.pcie, .hostMem] (execBusMasterEnableSet fn s) :=
  .ite (.next .refl) (.next (.overList (fun _ _ => (State.releaseVector_within).mono) ((State.releaseWrites_within).after (.setPcie .refl))))

theorem execBusMasterEnableClear_answers {fn} {s : State} : s.Answers [.pcie] (execBusMasterEnableClear fn s) :=
  .next (.setPcie .refl)

theorem State.failHostRead_within {r} {s : State} : s.Within (Part.reporting [.heldRS, .hostMem, .memory, .mem, .power, .dealer, .serving, .talon,
    .vision, .media]) (State.failHostRead r s) := by
  unfold State.failHostRead
  refine .ite .refl ?_
  split
  · exact .ite ((State.disableRing_within).after ((State.post_within).after ((State.count_within).after (State.hostReading_within).mono))) .refl
  · split
    · exact .ite ((State.slotEvent_within).after ((State.updSlot_within).after ((State.post_within).after ((State.count_within).after
          (State.hostReading_within).mono)))) .refl
    · exact .refl
  · split
    · exact .ite (.onFetched (fun _ _ _ => (State.submitFailed_within).mono) ((State.post_within).after ((State.count_within).after
          (State.hostReading_within).mono))) .refl
    · exact .refl
  · split
    · exact .ite ((State.endHeldNow_within).after ((State.post_within).after ((State.count_within).after (State.hostReading_within).mono))) .refl
    · exact .refl
  · split
    · exact .ite ((State.endUnit_within).after ((State.noPicture_within).after ((State.putQueue_within).after ((State.post_within).after
          ((State.count_within).after (State.hostReading_within).mono))))) .refl
    · exact .refl
  · split
    · next h1 => exact .ite ((State.endTalon_within).after ((State.takeTalon_within).after ((State.post_within).after ((State.count_within).after
          ((State.hostReading_within).after (((State.talonHead_within).snd h1).mono)))))) (((State.talonHead_within).snd h1).mono)
    · next h1 => exact ((State.talonHead_within).snd h1).mono

theorem execHostReadError_answers {r} {s : State} : s.Answers (Part.reporting [.heldRS, .hostMem, .memory, .mem, .power, .dealer, .serving, .talon,
    .vision, .media]) (execHostReadError r s) :=
  .next (State.failHostRead_within).mono

theorem execHostReadTimeout_answers {r} {s : State} : s.Answers (Part.reporting [.heldRS, .hostMem, .memory, .mem, .power, .dealer, .serving,
    .talon, .vision, .media]) (execHostReadTimeout r s) :=
  .next (State.failHostRead_within).mono

theorem execPoisonedWriteRx_answers {s : State} : s.Answers Part.reports (execPoisonedWriteRx s) :=
  .next (.ite ((State.post_within).after ((State.aerError_within).after (State.count_within).mono)) .refl)

end Sys2Proof.Machine
end

section
/-! PROOFS. What the operations of Machine/ModuleReset.lean may reach. -/
namespace Sys2Proof.Machine

theorem State.resetModule_within {s : State} : s.Within Part.every (State.resetModule s) := by
  refine ⟨rfl, fun p hp => absurd (Part.mem_every p) hp, fun h => ?_⟩
  obtain ⟨-, hhost, hnor, hcontrol⟩ := (Memory.wf_iff s).mp h
  exact (Memory.wf_iff _).mpr ⟨rfl, hhost, hnor, hcontrol⟩

theorem State.setPowerGood_within {b} {s : State} : s.Within [.side] (State.setPowerGood b s) :=
  .setSide .refl

theorem State.enterStandby_within {s : State} : s.Within Part.every (State.enterStandby s) :=
  .setPower ((State.wrF_within).after ((State.setPowerGood_within).after (State.resetModule_within).mono))

theorem State.talonDown_within {kind reason} {s : State} : s.Within Part.prefixes (State.talonDown kind reason s) :=
  .ite ((State.ledgerVolatile_within).after (State.quiesceTalon_within).mono) .refl

theorem State.trip_within {st counter} {s : State} : s.Within Part.every (State.trip st counter s) :=
  .setMgmt ((State.enterStandby_within).after ((State.talonDown_within).after ((State.setAlert_within).after ((State.postFatal_within).after
      (State.ledgerAdd_within).mono))))

theorem State.unpower_within {s : State} : s.Within Part.every (State.unpower s) :=
  .setNowMgmtLedgerSide ((State.wrF_within).after ((State.wrF_within).after ((State.wrF_within).after ((State.wrF_within).after
      ((State.wrN_within).after (State.enterStandby_within).mono)))))

theorem State.pulled_within {reason} {s : State} : s.Within Part.every (State.pulled reason s) :=
  .ite .refl ((State.enterStandby_within).after (State.talonDown_within).mono)

theorem State.afterLoss_within {s : State} : s.Within Part.every (State.afterLoss s) :=
  .ite .refl (State.unpower_within).mono

theorem State.losePresence_within {s : State} : s.Within Part.every (State.losePresence s) :=
  .setSide (State.pulled_within).mono

theorem State.loseInput_within {reading} {s : State} : s.Within Part.every (State.loseInput reading s) :=
  (State.afterLoss_within).after (.setSide (State.pulled_within).mono)

end Sys2Proof.Machine
end

section
/-! PROOFS. What the operations of Machine/Reckoner.lean may reach. -/
namespace Sys2Proof.Machine

theorem State.readHeads_within {j l} {s : State} : s.Within (Part.reporting [.memory]) (State.readHeads j l s).2 := by
  induction l generalizing s with
  | nil => exact .refl
  | cons _ _ ih =>
    rw [State.readHeads]
    split
    · next h1 => exact .pair_snd (((State.hbmRead_within).snd₂ h1).mono)
    · next h1 =>
        dsimp only
        split
        · next h2 => exact .pair_snd (State.Within.snd₂ (.ite_snd₂ ((State.hbmRead_within).after (((State.hbmRead_within).snd₂ h1).mono))
              (.pair_snd₂ (((State.hbmRead_within).snd₂ h1).mono))) h2)
        · next h2 =>
            split
            · next h3 => exact .pair_snd ((ih.snd h3).after (State.Within.snd₂ (.ite_snd₂ ((State.hbmRead_within).after
                  (((State.hbmRead_within).snd₂ h1).mono)) (.pair_snd₂ (((State.hbmRead_within).snd₂ h1).mono))) h2))
            · next h3 => exact .pair_snd ((ih.snd h3).after (State.Within.snd₂ (.ite_snd₂ ((State.hbmRead_within).after
                  (((State.hbmRead_within).snd₂ h1).mono)) (.pair_snd₂ (((State.hbmRead_within).snd₂ h1).mono))) h2))

theorem State.runReck_within {p q} {s : State} : s.Within (Part.reporting [.memory]) (State.runReck p q s).2 := by
  unfold State.runReck
  refine .ite_snd .refl ?_
  split
  · next h1 => exact .pair_snd (((State.readHeads_within).snd h1).mono)
  · next h1 =>
      refine .ite_snd (.pair_snd (((State.readHeads_within).snd h1).mono)) ?_
      refine .ite_snd (.pair_snd (((State.readHeads_within).snd h1).mono)) ?_
      dsimp only
      split
      · next h2 => exact .pair_snd (State.Within.snd₂ (.ite_snd₂ (.pair_snd₂ (((State.readHeads_within).snd h1).mono)) ((State.hbmRead_within).after
            (((State.readHeads_within).snd h1).mono))) h2)
      · next h2 => exact .pair_snd (State.Within.snd₂ (.ite_snd₂ (.pair_snd₂ (((State.readHeads_within).snd h1).mono)) ((State.hbmRead_within).after
            (((State.readHeads_within).snd h1).mono))) h2)

theorem State.putReck_within {r x} {s : State} : s.Within [.vision] (State.putReck r x s) :=
  .setVision .refl

theorem State.nextReckOf_within {p} {s : State} : s.Within (Part.reporting [.heldRS, .memory, .dealer, .serving, .vision, .media])
    (State.nextReckOf p s).2 := by
  unfold State.nextReckOf
  split
  · exact .refl
  · refine .ite_snd .refl ?_
    dsimp only
    split
    · next h1 => exact .pair_snd ((State.stopRing_within).after (((State.ringRead_within).snd h1).mono))
    · next h1 => exact .pair_snd (((State.ringRead_within).snd h1).mono)

theorem State.nextReck_within {l} {s : State} : s.Within (Part.reporting [.heldRS, .memory, .dealer, .serving, .vision, .media])
    (State.nextReck l s).2 := by
  induction l generalizing s with
  | nil => exact .refl
  | cons _ _ ih =>
    rw [State.nextReck]
    refine .ite_snd (ih.mono) ?_
    split
    · next h1 => exact .pair_snd (((State.nextReckOf_within).snd h1).mono)
    · next h1 => exact ih.after (((State.nextReckOf_within).snd h1).mono)

theorem State.takeReck_within {p j} {s : State} : s.Within [.regs, .vision] (State.takeReck p j s) := by
  unfold State.takeReck
  split
  · exact (State.wrN_within).mono
  · exact .setVision .refl

theorem State.startReckJob_within {r op} {s : State} : s.Within (Part.reporting [.heldRS, .memory, .power, .dealer, .serving, .vision, .media])
    (State.startReckJob r op s) := by
  unfold State.startReckJob
  refine .ite .refl ?_
  split
  · next h1 => exact ((State.nextReck_within).snd h1).mono
  · next h1 => exact .ite (((State.nextReck_within).snd h1).mono) (.ite ((State.requestEngine_within).after (((State.nextReck_within).snd h1).mono))
        ((State.putReck_within).after ((State.runReck_within).after (.setVision ((State.takeReck_within).after
        (((State.nextReck_within).snd h1).mono))))))

theorem State.endReck_within {r x} {s : State} : s.Within (Part.reporting [.hostMem, .memory, .mem, .power, .serving, .vision, .media])
    (State.endReck r x s) := by
  unfold State.endReck
  dsimp only
  split
  · exact .iteStep (State.msix_within).mono ((State.wrN_within).after (.iteStep (State.count_within).mono (.iteStep (State.count_within).mono
        ((State.count_within).after (.elseStep (State.blockWrite_within).mono (.elseStep (State.blockWrite_within).mono (.elseStep
        (State.blockWrite_within).mono (.ite (State.post_within).mono .refl))))))))
  · exact (State.jobDone_within).after ((State.wrN_within).after (.iteStep (State.count_within).mono (.iteStep (State.count_within).mono
        ((State.count_within).after (.elseStep (State.blockWrite_within).mono (.elseStep (State.blockWrite_within).mono (.elseStep
        (State.blockWrite_within).mono (.ite (State.post_within).mono .refl))))))))

theorem State.reckComplete_within {r} {s : State} : s.Within (Part.reporting [.heldRS, .hostMem, .memory, .mem, .power, .dealer, .serving, .vision,
    .media]) (State.reckComplete r s) := by
  unfold State.reckComplete
  refine .ite .refl ?_
  dsimp only
  split
  · exact .ite ((State.endReck_within).after (State.putReck_within).mono) .refl
  · split
    · next h1 => exact ((State.nextReck_within).snd h1).mono
    · next h1 => exact .ite (((State.nextReck_within).snd h1).mono) ((State.endReck_within).after (.setVision ((State.takeReck_within).after
          (((State.nextReck_within).snd h1).mono))))

theorem State.endReckJobs_within {r st l} {s : State} : s.Within (Part.reporting [.heldRS, .hostMem, .memory, .mem, .power, .dealer, .serving,
    .vision, .media]) (State.endReckJobs r st l s) := by
  induction l generalizing s with
  | zero => exact .refl
  | succ l ih =>
    rw [State.endReckJobs]
    split
    · next h1 => exact ((State.nextReck_within).snd h1).mono
    · next h1 => exact ih.after ((State.endReck_within).after ((State.takeReck_within).after (((State.nextReck_within).snd h1).mono)))

theorem State.reckFail_within {r} {s : State} : s.Within (Part.reporting [.heldRS, .hostMem, .memory, .mem, .power, .dealer, .serving, .vision,
    .media]) (State.reckFail r s) := by
  unfold State.reckFail
  refine .ite .refl ?_
  refine .elseStep (State.endReckJobs_within).mono ?_
  split
  · exact (State.endReck_within).after ((State.putReck_within).after (.setPower ((State.post_within).after ((State.putBit_within).after
        (State.wrF_within).mono))))
  · exact (State.putReck_within).after (.setPower ((State.post_within).after ((State.putBit_within).after (State.wrF_within).mono)))

theorem execReckonerDetect_answers {r upsets} {s : State} : s.Answers (Part.reporting [.heldRS, .cores, .memory, .power, .dealer, .serving, .vision,
    .media]) (execReckonerDetect r upsets s) :=
  .next ((State.startReckJob_within).after (State.upset_within).mono)

theorem execReckonerArgmax_answers {r upsets} {s : State} : s.Answers (Part.reporting [.heldRS, .cores, .memory, .power, .dealer, .serving, .vision,
    .media]) (execReckonerArgmax r upsets s) :=
  .next ((State.startReckJob_within).after (State.upset_within).mono)

theorem execReckonerJobComplete_answers {r upsets} {s : State} : s.Answers (Part.reporting [.heldRS, .hostMem, .cores, .memory, .mem, .power,
    .dealer, .serving, .vision, .media]) (execReckonerJobComplete r upsets s) :=
  .next ((State.reckComplete_within).after (State.upset_within).mono)

theorem execReckonerFail_answers {r} {s : State} : s.Answers (Part.reporting [.heldRS, .hostMem, .memory, .mem, .power, .dealer, .serving, .vision,
    .media]) (execReckonerFail r s) :=
  .next (State.reckFail_within).mono

end Sys2Proof.Machine
end

section
/-! PROOFS. What the operations of Machine/SidebandOps.lean may reach. -/
namespace Sys2Proof.Machine

theorem State.emitPacket_within {x} {s : State} : s.Within [.pcie] (State.emitPacket x s) :=
  .setPcie .refl

theorem State.answer_within {m st body} {s : State} : s.Within [.pcie] (State.answer m st body s) :=
  (State.emitPacket_within).mono

theorem State.refuse_within {m st} {s : State} : s.Within Part.reports (State.refuse m st s) :=
  (State.answer_within).after (State.post_within).mono

theorem State.answerBad_within {s : State} : s.Within Part.reports (State.answerBad s) :=
  .overList (fun _ _ => (State.refuse_within).mono) (.setSide .refl)

theorem State.Within.serve {Q : List Part} {s t : State} {code f} (hf : ∀ m (u : State), u.Within Q (f m u)) (h : s.Within Q t)
    (hQ : autoParam (Part.Fits Part.reports Q) Nat.toPNat._auto_1) : s.Within Q (t.serve code f) := by
  refine .chain ?_ h
  unfold State.serve
  split
  · exact .refl
  · have hside : .side ∈ Q := Part.subset_of_bits hQ (by decide)
    exact .ite .refl (.iteStep ((State.answerBad_within).after .refl hQ)
      (.chain (.ite ((State.refuse_within).after .refl hQ) (hf _ _)) (.setSide .refl hside)))

end Sys2Proof.Machine
end

section
/-! PROOFS. What the operations of Machine/Power.lean may reach. -/
namespace Sys2Proof.Machine

theorem State.domainUp_within {d} {s : State} : s.Within [.regs, .memory, .mem, .power, .vision, .media] (State.domainUp d s) := by
  unfold State.domainUp
  dsimp only
  split
  · exact .setPower ((State.zeroStore_within).after (.setPower .refl))
  · exact .setPower ((State.zeroPool_within).after (.setPower .refl))
  · exact .setPower ((State.putEdge_within).after (.setPower .refl))
  · exact .setPower ((State.putReck_within).after (.setPower .refl))
  · exact .setPower ((State.wrF_within).after ((State.updMedia_within).after (.setPower .refl)))
  · exact .setPower (.setPower .refl)

theorem execDomainPowerUpComplete_answers {d} {s : State} : s.Answers [.regs, .memory, .mem, .power, .vision, .media]
    (execDomainPowerUpComplete d s) :=
  .next (.ite (State.domainUp_within).mono .refl)

theorem execPowerGoodTimeout_answers {d} {s : State} : s.Answers (Part.reporting [.heldRS, .hostMem, .cores, .memory, .mem, .power, .dealer,
    .cvOwner, .serving, .pfx, .talon, .ndx, .vision, .media, .freeCtr]) (execPowerGoodTimeout d s) := by
  unfold execPowerGoodTimeout
  refine .ite (.next .refl) ?_
  dsimp only
  split
  · exact .next ((State.failOnCore_within).after ((State.post_within).after (.setPower .refl)))
  · exact .next (.overList (fun _ _ => (State.failOnCore_within).mono) ((State.post_within).after (.setPower .refl)))
  · exact .next ((State.pipeFail_within).after ((State.post_within).after (.setPower .refl)))
  · exact .next ((State.edgeFail_within).after ((State.post_within).after (.setPower .refl)))
  · exact .next ((State.reckFail_within).after ((State.post_within).after (.setPower .refl)))
  · exact .next (.ite ((State.failChannel_within).after ((State.post_within).after (.setPower .refl))) ((State.post_within).after (.setPower .refl)))

theorem execCoreIdleTimeout_answers {n} {s : State} : s.Answers [.cores, .memory, .mem, .power] (execCoreIdleTimeout n s) := by
  unfold execCoreIdleTimeout
  refine .ite (.next .refl) ?_
  split
  · exact .next (.setPower .refl)
  · exact .ite (.next .refl) (.next (.ite (State.coreDown_within).mono (.setPower (State.coreDown_within).mono)))

theorem execClusterIdleTimeout_answers {c} {s : State} : s.Answers [.regs, .heldRS, .memory, .mem, .power, .cvOwner] (execClusterIdleTimeout c s)
    := by
  unfold execClusterIdleTimeout
  refine .ite (.next .refl) ?_
  split
  · exact .next (.setPower .refl)
  · exact .ite (.next .refl) (.next (State.clusterDown_within).mono)

theorem execHbmIdleTimeout_answers {i} {s : State} : s.Answers [.memory] (execHbmIdleTimeout i s) :=
  .ite (.next .refl) (.next (.setMemory .refl))

theorem execEngineIdleTimeout_answers {d} {s : State} : s.Answers [.power] (execEngineIdleTimeout d s) :=
  .next (.ite (.setPower .refl) .refl)

theorem execTalonChannelIdleTimeout_answers {t} {s : State} : s.Answers [.power] (execTalonChannelIdleTimeout t s) :=
  .next (.ite (.setPower .refl) .refl)

theorem execDormantEntry_answers {s : State} : s.Answers [.regs] (execDormantEntry s) := by
  unfold execDormantEntry
  split
  · exact .next .refl
  · exact .ite (.next ((State.count_within).after (State.wrF_within).mono)) (.next .refl)

theorem execRcTrim_answers {s : State} : s.Answers [.power] (execRcTrim s) :=
  .next (.ite (.setPower .refl) .refl)

theorem State.slewClocks_within {s : State} : s.Within [.regs, .power] (State.slewClocks s).2 :=
  .foldl_snd (fun _ _ => .ite_snd .refl (.pair_snd ((State.unboost_within).after (State.wrF_within).mono))) .refl

theorem State.stepClocks_within {s : State} : s.Within [.regs, .power] (State.stepClocks s) :=
  .iteStep (State.count_within).mono (State.slewClocks_within).mono

theorem execCapControllerStep_answers {s : State} : s.Answers [.regs, .power] (execCapControllerStep s) :=
  .ite (.next .refl) (.next ((State.stepClocks_within).after (State.wrF_within).mono))

theorem State.showThrottle_within {s : State} : s.Within [.regs] (State.showThrottle s) :=
  (State.wrF_within).mono

theorem State.throttleOnset_within {s : State} : s.Within Part.reports (State.throttleOnset s) :=
  (State.showThrottle_within).after ((State.post_within).after (State.count_within).mono)

theorem execThermalThrottleStep_answers {d} {s : State} : s.Answers (Part.reporting [.power]) (execThermalThrottleStep d s) :=
  .ite (.next .refl) (.next (.ite ((State.throttleOnset_within).after ((State.ledgerAdd_within).after ((State.stepClocks_within).after (.setPower
      (State.wrF_within).mono)))) ((State.stepClocks_within).after (.setPower (State.wrF_within).mono))))

theorem execThermalRiseStep_answers {d} {s : State} : s.Answers [.regs, .power] (execThermalRiseStep d s) := by
  unfold execThermalRiseStep
  dsimp only
  split
  · exact .next .refl
  · exact .ite (.next .refl) (.next ((State.showThrottle_within).after ((State.stepClocks_within).after (.setPower (State.wrF_within).mono))))

theorem State.storeSensor_within {n v} {s : State} : s.Within [.regs, .ledger] (State.storeSensor n v s) := by
  unfold State.storeSensor
  dsimp only
  split
  · exact (State.ledgerMax_within).after ((State.wrF_within).after (State.wrF_within).mono)
  · exact .setLedger ((State.wrF_within).after (State.wrF_within).mono)

theorem State.trackCool_within {d} {s : State} : s.Within [.power] (State.trackCool d s) :=
  .setPower .refl

theorem State.dieSensorActs_within {n v} {s : State} : s.Within [.regs, .power] (State.dieSensorActs n v s) :=
  (State.trackCool_within).after (.ite (State.unboost_within).mono .refl)

theorem State.xdieSensorActs_within {n} {s : State} : s.Within (Part.reporting [.power]) (State.xdieSensorActs n s) :=
  .ite ((State.throttleOnset_within).after (.setPower .refl)) (.ite ((State.showThrottle_within).after (.setPower .refl)) .refl)

theorem State.stackSensorActs_within {n v} {s : State} : s.Within (Part.reporting [.power]) (State.stackSensorActs n v s) :=
  (State.trackCool_within).after (.ite (.ite .refl ((State.post_within).after (.setPower .refl))) (.setPower .refl))

theorem State.boardSensorActs_within {n v} {s : State} : s.Within (Part.reporting [.power]) (State.boardSensorActs n v s) :=
  .ite (.ite .refl (.chain (.ite (State.throttleOnset_within).mono (State.showThrottle_within).mono) ((State.capChange_within).after (.setPower
      .refl)))) (.ite (.iteStep (State.post_within).mono (.setPower .refl)) .refl)

theorem State.humidityActs_within {n v} {s : State} : s.Within [.regs, .pcie, .mgmt, .side] (State.humidityActs n v s) :=
  .ite (State.setAlert_within).mono .refl

theorem execSensorSample_answers {n v} {s : State} : s.Answers Part.every (execSensorSample n v s) := by
  unfold execSensorSample
  refine .ite (.next .refl) ?_
  refine .ite (.next ((State.humidityActs_within).after (State.storeSensor_within).mono)) ?_
  split
  · exact .ite (.next ((State.trip_within).after ((State.humidityActs_within).after (State.storeSensor_within).mono))) (.ite (.next
        ((State.humidityActs_within).after (State.storeSensor_within).mono)) (.ite (.next ((State.dieSensorActs_within).after
        ((State.humidityActs_within).after (State.storeSensor_within).mono))) (.ite (.next ((State.xdieSensorActs_within).after
        ((State.humidityActs_within).after (State.storeSensor_within).mono))) (.ite (.next ((State.stackSensorActs_within).after
        ((State.humidityActs_within).after (State.storeSensor_within).mono))) (.next ((State.boardSensorActs_within).after
        ((State.humidityActs_within).after (State.storeSensor_within).mono)))))))
  · exact .next (.ite ((State.boardSensorActs_within).after ((State.humidityActs_within).after (State.storeSensor_within).mono))
        ((State.humidityActs_within).after (State.storeSensor_within).mono))

theorem execRailFault_answers {s : State} : s.Answers Part.every (execRailFault s) :=
  .next (.ite .refl ((State.trip_within).after (State.ledgerAdd_within).mono))

theorem State.setDuty_within {f} {s : State} : s.Within [.regs] (State.setDuty f s) :=
  (State.wrF_within).mono

theorem State.dropBallastRequests_within {s : State} : s.Within [.dealer] (State.dropBallastRequests s) :=
  .setDealer .refl

theorem State.applyClamp_within {s : State} : s.Within (Part.reporting [.power, .dealer]) (State.applyClamp s) :=
  (State.post_within).after ((State.count_within).after ((State.dropBallastRequests_within).after ((State.unboost_within).after
      ((State.recomputeBudgets_within).after (.setPower ((State.wrF_within).after (State.setDuty_within).mono))))))

theorem execClampNAssert_answers {s : State} : s.Answers (Part.reporting [.power, .dealer]) (execClampNAssert s) :=
  .ite (.next .refl) (.next (.ite ((State.applyClamp_within).after (.setSide .refl)) (.setSide .refl)))

theorem execClampNRelease_answers {s : State} : s.Answers [.side, .power] (execClampNRelease s) :=
  .next (.ite (.setPower (.setSide .refl)) (.setSide .refl))

theorem State.clampStep_within {watts} {s : State} : s.Within (Part.reporting [.power]) (State.clampStep watts s) :=
  .ite .refl (.ite (.iteStep ((State.post_within).after (.setPower (State.wrF_within).mono)) (.ite (State.setDuty_within).mono .refl)) (.ite (.ite
      (State.setDuty_within).mono (.ite (State.setDuty_within).mono .refl)) .refl))

theorem State.ownTask_within {src c energy} {s : State} : s.Within [.regs, .power, .dealer] (State.ownTask src c energy s) := by
  unfold State.ownTask
  split
  · exact .refl
  · exact .setDealer (State.wake_within).mono

theorem State.requestBallast_within {watts} {s : State} : s.Within [.regs, .power, .dealer] (State.requestBallast watts s) :=
  .setPower (.overList (fun _ _ => (State.ownTask_within).mono) ((State.dropBallastRequests_within).after (.setPower .refl)))

theorem execBallastTaskEnd_answers {c} {s : State} : s.Answers [.cores, .power, .dealer] (execBallastTaskEnd c s) := by
  unfold execBallastTaskEnd
  split
  · exact .next .refl
  · split
    · exact .next .refl
    · exact .ite (.next .refl) (.next ((State.dropGraph_within).after (.overList (fun _ _ => (State.freeCore_within).mono) .refl)))

theorem State.setCapLag_within {b} {s : State} : s.Within [.regs] (State.setCapLag b s) :=
  (State.wrF_within).after (State.wrF_within).mono

theorem State.evalCapLag_within {s : State} : s.Within (Part.reporting [.power]) (State.evalCapLag s) :=
  .ite .refl ((State.post_within).after ((State.ledgerAdd_within).after ((State.count_within).after (.setPower ((State.setCapLag_within).after
      (State.wrN_within).mono)))))

theorem execMeasurementTick_answers {watts} {s : State} : s.Answers (Part.reporting [.power, .dealer]) (execMeasurementTick watts s) := by
  unfold execMeasurementTick
  refine .ite (.next (.ite (.setPower .refl) .refl)) ?_
  refine .next ?_
  refine (State.requestBallast_within).after ?_
  refine (State.clampStep_within).after ?_
  refine (State.evalCapLag_within).after ?_
  refine .ite ?_ ?_
  · refine .setPower ?_
    split
    · exact .setPower (State.wr_within).mono
    · exact .refl
  · refine (State.wrN_within).after ?_
    refine .setPower ?_
    split
    · exact .setPower (State.wr_within).mono
    · exact .refl

theorem State.lagWindow_within {sum n} {s : State} : s.Within [.regs, .power] (State.lagWindow sum n s) :=
  .ite .refl (.ite (.setPower ((State.countSat_within).after (State.wrN_within).mono)) (.ite (.setPower .refl) (.setPower
      (State.setCapLag_within).mono)))

theorem State.anteWindow_within {sum n} {s : State} : s.Within Part.reports (State.anteWindow sum n s) :=
  .ite ((State.post_within).after (State.wrF_within).mono) (.ite .refl (State.wrF_within).mono)

theorem State.closeWindow_within {energies} {s : State} : s.Within [.regs] (State.closeWindow energies s) :=
  .overList (fun _ _ => (State.wrN_within).after (State.wrN_within).mono) .refl

theorem execWindowBoundary_answers {rails} {s : State} : s.Answers (Part.reporting [.heldRS, .power, .dealer]) (execWindowBoundary rails s) := by
  unfold execWindowBoundary
  refine .ite (.next .refl) ?_
  refine .next ?_
  refine (State.recomputeBudgets_within).after ?_
  refine .setPower ?_
  refine (State.stepClocks_within).after ?_
  refine .ite ?_ ?_
  · refine (State.wrF_within).after ?_
    split
    · exact (State.wrN_within).after ((State.waitChanged_within).after ((State.commitRS_within).after ((State.anteWindow_within).after
          ((State.lagWindow_within).after ((State.closeWindow_within).after ((State.wrN_within).after ((State.wrF_within).after
          (State.wrF_within).mono)))))))
    · exact (State.waitChanged_within).after ((State.commitRS_within).after ((State.anteWindow_within).after ((State.lagWindow_within).after
          ((State.closeWindow_within).after ((State.wrN_within).after ((State.wrF_within).after (State.wrF_within).mono))))))
  · split
    · exact (State.wrN_within).after ((State.waitChanged_within).after ((State.commitRS_within).after ((State.anteWindow_within).after
          ((State.lagWindow_within).after ((State.closeWindow_within).after ((State.wrN_within).after ((State.wrF_within).after
          (State.wrF_within).mono)))))))
    · exact (State.waitChanged_within).after ((State.commitRS_within).after ((State.anteWindow_within).after ((State.lagWindow_within).after
          ((State.closeWindow_within).after ((State.wrN_within).after ((State.wrF_within).after (State.wrF_within).mono))))))

theorem State.hostCap_within {value} {s : State} : s.Within (Part.reporting [.heldRS, .power]) (State.hostCap value s) :=
  .ite ((State.capChange_within).after (State.writeReg_within).mono) .refl

theorem execHostCapWrite_answers {value} {s : State} : s.Answers (Part.reporting [.heldRS, .power]) (execHostCapWrite value s) :=
  .next (State.hostCap_within).mono

theorem State.startPower_within {s : State} : s.Within (Part.reporting [.power, .dealer]) (State.startPower s) :=
  .iteStep (State.applyClamp_within).mono (.setPower .refl)

theorem execSetCap_answers {s : State} : s.Answers (Part.reporting [.power]) (execSetCap s) :=
  .next (.serve (fun _ _ => (State.answer_within).after ((State.capChange_within).after (State.wrF_within).mono)) .refl)

theorem execSetAnte_answers {s : State} : s.Answers (Part.reporting [.power]) (execSetAnte s) :=
  .next (.serve (fun _ _ => .ite (State.refuse_within).mono ((State.answer_within).after (.setPower .refl))) .refl)

theorem execSetShares_answers {s : State} : s.Answers (Part.reporting [.power]) (execSetShares s) :=
  .next (.serve (fun _ _ => .ite (State.refuse_within).mono ((State.answer_within).after (.setPower .refl))) .refl)

theorem execSetClampLevel_answers {s : State} : s.Answers Part.reports (execSetClampLevel s) :=
  .next (.serve (fun _ _ => .ite (State.refuse_within).mono ((State.answer_within).after (.iteStep ((State.recomputeBudgets_within).after
      (State.setDuty_within).mono) (State.wrF_within).mono))) .refl)

theorem execStandby_answers {s : State} : s.Answers Part.every (execStandby s) :=
  .next (.serve (fun _ _ => (State.answer_within).after (.elseStep ((State.enterStandby_within).after (State.talonDown_within).mono) .refl)) .refl)

theorem execPowerReport_answers {s : State} : s.Answers Part.reports (execPowerReport s) :=
  .next (.serve (fun _ _ => (State.answer_within).mono) .refl)

end Sys2Proof.Machine
end

section
/-! PROOFS. What the operations of Machine/Health.lean may reach. -/
namespace Sys2Proof.Machine

theorem execSweepDue_answers {s : State} : s.Answers [.regs, .ledger, .power, .dealer] (execSweepDue s) := by
  unfold execSweepDue
  refine .ite (.next .refl) ?_
  split
  · exact .next .refl
  · exact .next ((State.ownTask_within).after (.setLedger .refl))

theorem State.failUnit_within {u} {s : State} : s.Within (Part.reporting [.cvOwner]) (State.failUnit u s) :=
  .ite .refl ((State.postAt_within).after (.overList (fun _ _ => (State.wrF_within).mono) (.setCvOwner (.iteStep (State.ledgerPut_within).mono
      (State.putBit_within).mono))))

theorem State.katTransient_within {n} {s : State} : s.Within Part.reports (State.katTransient n s) :=
  (State.postAt_within).after ((State.count_within).after ((State.ledgerAdd_within).after (State.ledgerAdd_within).mono))

theorem State.katFold_within {die part} {s : State} : s.Within Part.reports (State.katFold die part s) :=
  (State.setAlert_within).after ((State.postAt_within).after ((State.count_within).after (State.ledgerAdd_within).mono))

theorem State.sweepAgain_within {c differ} {s : State} : s.Within [.ledger] (State.sweepAgain c differ s) :=
  .setLedger .refl

theorem State.judgeSweep_within {c differ} {s : State} : s.Within Part.failure (State.judgeSweep c differ s) := by
  unfold State.judgeSweep
  dsimp only
  split
  · exact .elseStep (State.sweepAgain_within).mono (.iteStep (State.count_within).mono (.setLedger (.setLedger .refl)))
  · exact .chain (.ite ((State.katFold_within).after (State.foldCluster_within).mono) (.elseStep (State.sweepAgain_within).mono (.overList
        (fun _ _ => (State.katFold_within).after (State.foldCore_within).mono) .refl))) (.overList (fun _ _ => (State.katTransient_within).mono)
        (.iteStep (State.count_within).mono (.setLedger (.setLedger .refl))))

theorem execSweepComplete_answers {c r} {s : State} : s.Answers Part.failure (execSweepComplete c r s) := by
  unfold execSweepComplete
  split
  · exact .next .refl
  · split
    · exact .next .refl
    · exact .ite (.next .refl) (.next ((State.judgeSweep_within).after (.ite ((State.failUnit_within).after ((State.dropGraph_within).after
          (.overList (fun _ _ => (State.freeCore_within).mono) .refl))) ((State.dropGraph_within).after (.overList (fun _ _ =>
          (State.freeCore_within).mono) .refl)))))

theorem execLedgerCheckpoint_answers {s : State} : s.Answers [.ledger] (execLedgerCheckpoint s) :=
  .ite (.next .refl) (.next (.ite (.setLedger ((State.ledgerAdd_within).after (.setLedger .refl))) ((State.ledgerAdd_within).after (.setLedger
      .refl))))

theorem State.latchPart_within {s : State} : s.Within [.ledger] (State.latchPart s) :=
  .setLedger .refl

theorem State.latchTime_within {s : State} : s.Within [.mgmt] (State.latchTime s) :=
  .setMgmt .refl

theorem execHltPartValueRead_answers {s : State} : s.Answers [.pcie, .ledger] (execHltPartValueRead s) :=
  .next (.ite ((State.emit_within).after (State.latchPart_within).mono) .refl)

theorem execMgtTimeRead_answers {s : State} : s.Answers [.pcie, .mgmt] (execMgtTimeRead s) :=
  .next (.ite ((State.emit_within).after (State.latchTime_within).mono) .refl)

theorem State.measureDrift_within {frequencies} {s : State} : s.Within [.regs, .ledger] (State.measureDrift frequencies s) :=
  (State.count_within).after (.overList (fun _ _ => (State.ledgerPut_within).mono) (.overList (fun _ _ => .elseStep (State.ledgerPut_within).mono
      .refl) (.setLedger .refl)))

theorem execRoMeasure_answers {frequencies} {s : State} : s.Answers [.regs, .ledger] (execRoMeasure frequencies s) :=
  .next (.ite .refl (State.measureDrift_within).mono)

theorem State.setHoldupLow_within {low} {s : State} : s.Within [.regs] (State.setHoldupLow low s) :=
  (State.wrF_within).after (State.wrF_within).mono

theorem State.measureHoldup_within {mj} {s : State} : s.Within Part.reports (State.measureHoldup mj s) :=
  .chain (.ite ((State.setHoldupLow_within).after (State.count_within).mono) (.elseStep ((State.setAlert_within).after ((State.postAt_within).after
      (State.setHoldupLow_within).mono)) (State.count_within).mono)) ((State.ledgerAdd_within).after ((State.ledgerPut_within).after (.setLedger
      .refl)))

theorem execHoldupMeasure_answers {mj} {s : State} : s.Answers Part.reports (execHoldupMeasure mj s) :=
  .next (.ite .refl (State.measureHoldup_within).mono)

theorem State.talonNewDay_within {s : State} : s.Within [.talon] (State.talonNewDay s) :=
  .setTalon .refl

theorem State.showTalonDays_within {d} {s : State} : s.Within Part.reports (State.showTalonDays d s) :=
  .iteStep ((State.setAlert_within).after (State.postAt_within).mono) ((State.ledgerPut_within).after ((State.ledgerPut_within).after
      ((State.wrF_within).after ((State.wrF_within).after (State.wrF_within).mono))))

theorem State.putForecast_within {i part metric days value threshold reached} {s : State} : s.Within [.regs]
    (State.putForecast i part metric days value threshold reached s) :=
  (State.wrN_within).after ((State.wrN_within).after ((State.wrN_within).after (State.wrN_within).mono))

theorem State.forecastEntry_within {i} {s : State} : s.Within [.regs, .ledger] (State.forecastEntry i s) :=
  .ite (.overList (fun _ _ => (State.wrN_within).mono) .refl) ((State.putForecast_within).after (.ite ((State.ledgerPut_within).after (.setLedger
      .refl)) (.iteStep (State.ledgerPut_within).mono (.setLedger .refl))))

theorem State.talonEntries_within {d} {s : State} : s.Within [.regs, .freeCtr] (State.talonEntries d s) :=
  (State.drawn_within).after ((State.putForecast_within).after ((State.putForecast_within).after ((State.putForecast_within).after
      (State.putForecast_within).mono)))

theorem State.showWorst_within {s : State} : s.Within [.regs] (State.showWorst s) :=
  (State.wrN_within).mono

theorem State.forecastAlert_within {s : State} : s.Within Part.reports (State.forecastAlert s) :=
  .ite ((State.setAlert_within).after (State.post_within).mono) .refl

theorem execDailyForecast_answers {s : State} : s.Answers (Part.reporting [.heldRS, .talon, .freeCtr]) (execDailyForecast s) :=
  .ite (.next .refl) (.next ((State.talonNewDay_within).after (.setLedger (.overList (fun _ _ => (State.ledgerRecord_within).mono)
      ((State.forecastAlert_within).after ((State.showWorst_within).after ((State.talonEntries_within).after (.overList (fun _ _ =>
      (State.forecastEntry_within).mono) ((State.showTalonDays_within).after ((State.commitRS_within).after (.setLedger .refl)))))))))))

theorem State.ackAlerts_within {mask} {s : State} : s.Within [.regs, .side] (State.ackAlerts mask s) :=
  (State.driveAlert_within).after (State.wrN_within).mono

theorem execHltAlertAck_answers {value} {s : State} : s.Answers [.regs, .side] (execHltAlertAck value s) :=
  .next (.ite (State.ackAlerts_within).mono .refl)

theorem execHealthSummary_answers {s : State} : s.Answers Part.reports (execHealthSummary s) :=
  .next (.serve (fun _ _ => (State.answer_within).mono) .refl)

theorem execHealthAck_answers {s : State} : s.Answers Part.reports (execHealthAck s) :=
  .next (.serve (fun _ _ => (State.answer_within).after (State.ackAlerts_within).mono) .refl)

theorem execLedgerRead_answers {s : State} : s.Answers Part.reports (execLedgerRead s) := by
  unfold execLedgerRead
  refine .next ?_
  refine .serve (fun _ _ => ?_) .refl
  split
  · exact (State.answer_within).mono
  · exact (State.refuse_within).mono

theorem execForecastRead_answers {s : State} : s.Answers Part.reports (execForecastRead s) :=
  .next (.serve (fun _ _ => .ite (State.answer_within).mono (State.refuse_within).mono) .refl)

end Sys2Proof.Machine
end

section
/-! PROOFS. What the operations of Machine/ConfigStore.lean may reach. -/
namespace Sys2Proof.Machine

theorem State.applyKvPage_within {sl} {s : State} : s.Within Part.reports (State.applyKvPage sl s) :=
  .elseStep (State.wrN_within).mono (.ite (State.post_within).mono .refl)

theorem State.applyImage_within {sel} {s : State} : s.Within Part.reports (State.applyImage sel s) :=
  .overList (fun _ _ => (State.applyKvPage_within).mono) (.overList (fun _ _ => (State.wrN_within).mono) .refl)

theorem State.applyShare_within {p} {s : State} : s.Within [.regs] (State.applyShare p s) :=
  (State.wrF_within).mono

theorem State.takeShares_within {p hand pfx park} {s : State} : s.Within [.regs] (State.takeShares p hand pfx park s) :=
  (State.wrF_within).after ((State.wrF_within).after (State.wrF_within).mono)

theorem State.dealShares_within {ps hand pfx} {s : State} : s.Within [.regs] (State.dealShares ps hand pfx s) :=
  .overList (fun _ _ => (State.takeShares_within).mono) (.overList (fun _ _ => (State.takeShares_within).mono) .refl)

theorem State.showMap_within {s : State} : s.Within [.regs] (State.showMap s) :=
  .overList (fun _ _ => (State.wrF_within).mono) .refl

theorem State.loadLink_within {p e} {s : State} : s.Within [.regs, .ndx] (State.loadLink p e s) :=
  (State.putLink_within).after ((State.wrF_within).after ((State.wrF_within).after ((State.wrF_within).after ((State.wrF_within).after
      ((State.wrF_within).after ((State.wrF_within).after (State.wrF_within).mono))))))

theorem State.loadTopology_within {p} {s : State} : s.Within (Part.reporting [.ndx]) (State.loadTopology p s) := by
  unfold State.loadTopology
  split
  · exact (State.wrN_within).after ((State.wrN_within).after ((State.wrN_within).after (.overList (fun _ _ => (State.wrN_within).mono) .refl)))
  · exact .chain (.ite (.overList (fun _ _ => (State.loadLink_within).mono) .refl) ((State.postPartFatal_within).after (State.wrF_within).mono))
        ((State.wrN_within).after ((State.wrN_within).after ((State.wrN_within).after (.overList (fun _ _ => (State.wrN_within).mono) .refl))))

end Sys2Proof.Machine
end

section
/-! PROOFS. What the operations of Machine/DeckMap.lean may reach. -/
namespace Sys2Proof.Machine

theorem State.bootFoldCore_within {n cause} {s : State} : s.Within [.regs, .ledger] (State.bootFoldCore n cause s) :=
  .ite .refl (.iteStep ((State.ledgerRecord_within).after (State.ledgerAdd_within).mono) (State.markCore_within).mono)

theorem State.bootFoldCluster_within {c cause} {s : State} : s.Within [.regs, .ledger] (State.bootFoldCluster c cause s) :=
  .ite .refl (.iteStep ((State.ledgerRecord_within).after (State.ledgerAdd_within).mono) ((State.markCluster_within).after (.overList (fun _ _ =>
      (State.bootFoldCore_within).mono) .refl)))

theorem State.excludeDie_within {d} {s : State} : s.Within Part.reports (State.excludeDie d s) :=
  .ite .refl ((State.postAt_within).after ((State.ledgerRecord_within).after (.overList (fun _ _ => (State.putBit_within).mono) (.setMgmt (.overList
      (fun _ _ => (State.bootFoldCluster_within).mono) (.overList (fun _ _ => (State.bootFoldCore_within).mono) .refl))))))

theorem State.freshDeck_within {s : State} : s.Within [.regs, .ledger] (State.freshDeck s) :=
  .overList (fun _ _ => (State.bootFoldCore_within).mono) ((State.wrN_within).after ((State.wrN_within).after ((State.wrN_within).after (.overList
      (fun _ _ => (State.wrN_within).mono) (.overList (fun _ _ => (State.wrN_within).mono) (.setLedger .refl))))))

theorem State.chooseRoute_within {bad d} {s : State} : s.Within Part.reports (State.chooseRoute bad d s) :=
  .ite .refl (.ite (State.excludeDie_within).mono ((State.postAt_within).after (State.putBit_within).mono))

theorem State.takeSpare_within {d n} {s : State} : s.Within [.memory] (State.takeSpare d n s) :=
  .setMemory .refl

theorem State.restoreEntry_within {e} {s : State} : s.Within [.regs, .ledger, .memory] (State.restoreEntry e s) :=
  .setLedger ((State.wrN_within).after (State.enterRetirement_within).mono)

theorem State.reapplyRetirement_within {value} {s : State} : s.Within [.regs, .ledger, .memory] (State.reapplyRetirement value s).2 :=
  .ite_snd .refl (.pair_snd ((State.restoreEntry_within).after (.ite (State.wrF_within).mono (State.takeSpare_within).mono)))

theorem State.bootRetire_within {d page} {s : State} : s.Within (Part.reporting [.memory]) (State.bootRetire d page s).2 :=
  .ite_snd .refl (.ite_snd (.ite_snd .refl (.pair_snd ((State.enterRetirement_within).after (State.takeSpare_within).mono))) (.ite_snd .refl
      (.pair_snd (State.unmapPage_within).mono)))

theorem orExclude_within {d} {r : Bool × State} : r.2.Within Part.reports (orExclude d r) :=
  .ite .refl (State.excludeDie_within).mono

theorem State.recordedFolds_within {retest cores clusters} {s : State} : s.Within [.regs, .ledger] (State.recordedFolds retest cores clusters s) :=
  .overList (fun _ _ => .ite (.elseStep (State.bootFoldCore_within).mono .refl) (.iteStep (.elseStep (State.bootFoldCluster_within).mono .refl)
      .refl)) .refl

theorem State.zeroMemory_within {s : State} : s.Within [.memory, .mem] (State.zeroMemory s) :=
  .setMemoryWithMem .refl fun _ => rfl

theorem State.startFirmware_within {r image} {s : State} : s.Within [.cores] (State.startFirmware r image s) :=
  .setCores .refl

theorem State.katBoot_within {n} {s : State} : s.Within Part.reports (State.katBoot n s) :=
  .ite .refl ((State.setAlert_within).after ((State.ledgerAdd_within).after (State.bootFoldCore_within).mono))

theorem State.checkIndex_within {p} {s : State} : s.Within (Part.reporting [.memory, .mem, .pfx]) (State.checkIndex p s) :=
  .ite ((State.post_within).after (.setPfx .refl)) (.iteStep (State.engineWrite_within).mono (.setPfx .refl))

theorem State.showLeads_within {p} {s : State} : s.Within [.regs] (State.showLeads p s) :=
  .overList (fun _ _ => (State.wrF_within).mono) .refl

theorem State.showFree_within {p} {s : State} : s.Within [.regs, .serving] (State.showFree p s) :=
  (State.showServing_within).after (.overList (fun _ _ => (State.putStock_within).mono) .refl)

theorem State.startPartition_within {p} {s : State} : s.Within (Part.reporting [.memory, .mem, .pfx, .ndx]) (State.startPartition p s) :=
  .ite ((State.post_within).after (State.wrF_within).mono) (.ite ((State.wrF_within).after (State.checkIndex_within).mono)
      ((State.post_within).after ((State.setRunning_within).after ((State.wrF_within).after (.overList (fun _ _ => (State.putPeer_within).mono)
      (State.checkIndex_within).mono)))))

end Sys2Proof.Machine
end

section
/-! PROOFS. What the operations of Machine/BringUp.lean may reach. -/
namespace Sys2Proof.Machine

theorem State.advance_within {ms} {s : State} : s.Within [.cores, .power, .now] (State.advance ms s) :=
  (State.passTime_within).mono

theorem State.stageBegin_within {k} {s : State} : s.Within [.regs, .mgmt] (State.stageBegin k s) :=
  .setMgmt (State.wrF_within).mono

theorem State.stageReport_within {k result words} {s : State} : s.Within [.regs] (State.stageReport k result words s) :=
  .overList (fun _ _ => (State.wrN_within).mono) ((State.wr64_within).after ((State.wrN_within).after ((State.wrF_within).after
      (State.wrF_within).mono)))

theorem State.stagePass_within {k words} {s : State} : s.Within [.regs] (State.stagePass k words s) :=
  (State.stageReport_within).mono

theorem State.bringUpRecord_within {s : State} : s.Within [.regs, .ledger] (State.bringUpRecord s) :=
  (State.ledgerRecord_within).mono

theorem State.recordEarly_within {k} {s : State} : s.Within [.regs, .ledger] (State.recordEarly k s) :=
  .ite (State.bringUpRecord_within).mono .refl

theorem State.stageHalt_within {k st words} {s : State} : s.Within Part.reports (State.stageHalt k st words s) :=
  (State.stageReport_within).after ((State.postFatal_within).after (State.recordEarly_within).mono)

theorem State.lossInStage_within {k l} {s : State} : s.Within Part.every (State.lossInStage k l s) :=
  .ite ((State.loseInput_within).after (State.recordEarly_within).mono) ((State.losePresence_within).after (State.recordEarly_within).mono)

theorem State.Within.runStage {Q : List Part} {s t : State} {k ms bound loss} {work : StageWork} (hw : ∀ u : State, u.Within Q (work u).1) (h
    : s.Within Q t)
    (hQ : autoParam (Part.Fits Part.every Q) Nat.toPNat._auto_1) : s.Within Q (t.runStage k ms bound loss work) := by
  refine .chain (.of_subset ?_ (Part.subset_of_bits hQ)) h
  unfold State.runStage
  have hwork : ∀ u : State, u.Within Part.every (work u).1 := fun u => (hw u).of_subset fun p _ => Part.mem_every p
  refine .ite .refl ?_
  split
  · exact (State.lossInStage_within).after ((State.advance_within).after (State.stageBegin_within).mono)
  · refine .ite ((State.stageHalt_within).after ((State.advance_within).after (State.stageBegin_within).mono)) ?_
    split
    · next h1 => exact (State.stagePass_within).after ((State.Within.fst (hwork _) h1).chain ((State.advance_within).after
          (State.stageBegin_within).mono))
    · next h1 => exact (State.stageHalt_within).after ((State.Within.fst (hwork _) h1).chain ((State.advance_within).after
          (State.stageBegin_within).mono))

theorem State.Within.withPart {Q : List Part} {s t : State} {bad} {work : StageWork} (hw : ∀ u : State, u.Within Q (work u).1) (h : s.Within Q t) :
    s.Within Q (withPart bad work t).1 :=
  .ite_fst h ((hw t).chain h)

theorem stage0_within {b} {s : State} : s.Within Part.reports (stage0 b s).1 :=
  (State.measureHoldup_within).after (State.freshDeck_within).mono

theorem stage1_within {b} {s : State} : s.Within (Part.reporting [.power, .dealer, .update]) (stage1 b s).1 := by
  unfold stage1
  dsimp only
  split
  · next h1 => exact (State.showUpdate_within).after (.setUpdate (((State.selectSlot_within).snd h1).after ((State.loadBoot_within).after
        (.setUpdate .refl))))
  · next h1 => exact (State.startPower_within).after ((State.showUpdate_within).after (((State.selectSlot_within).snd h1).after
        ((State.loadBoot_within).after (.setUpdate .refl))))

theorem stage2_within {b} {s : State} : s.Within (Part.reporting [.heldRS, .update]) (stage2 b s).1 := by
  unfold stage2
  dsimp only
  split
  · exact (State.trainPcie_within).after ((State.applyImage_within).after (.setMgmtUpdate .refl))
  · exact .chain (.ite_fst .refl .refl) ((State.trainPcie_within).after ((State.recomputeBudgets_within).after ((State.wrF_within).after
        ((State.dealShares_within).after (.overList (fun _ _ => (State.applyShare_within).mono) ((State.showMap_within).after
        ((State.wrN_within).after ((State.wrN_within).after ((State.applyImage_within).after ((State.resetRegs_within).after (.setMgmtUpdate
        .refl)))))))))))

theorem stage3_within {b} {s : State} : s.Within (Part.reporting [.memory, .mem, .power, .serving, .pfx, .talon, .freeCtr]) (stage3 b s).1 :=
  .ite_fst ((State.ledgerVolatile_within).after (State.wrF_within).mono) ((State.bringUpRecord_within).after (.setLedger ((State.wrF_within).after
      (.iteStep (State.ledgerAdd_within).mono ((State.ledgerAdd_within).after ((State.count_within).after (State.mountTalon_within).mono))))))

theorem stage4_within {b} {s : State} : s.Within Part.reports (stage4 b s).1 :=
  (State.measureDrift_within).after (.overList (fun _ _ => (State.excludeDie_within).mono) (.overList (fun _ _ => (State.chooseRoute_within).mono)
      (.overList (fun _ _ => (State.excludeDie_within).mono) (.setMgmt .refl))))

theorem stage5_within {b} {s : State} : s.Within (Part.reporting [.memory, .mem]) (stage5 b s).1 :=
  .overList (fun _ _ => (State.ledgerPut_within).mono) ((State.zeroMemory_within).after (.overList (fun _ _ => (State.bootFoldCluster_within).mono)
      (.overList (fun _ _ => (State.bootFoldCore_within).mono) (.overList (fun _ _ => .elseStep ((orExclude_within).after
      (State.bootRetire_within).mono) .refl) (.overList (fun _ _ => .iteStep (State.excludeDie_within).mono .refl)
      ((State.recordedFolds_within).after (.overList (fun _ _ => .elseStep ((orExclude_within).after (State.reapplyRetirement_within).mono) .refl)
      .refl)))))))

theorem State.loadGroups_within {s : State} : s.Within (Part.reporting [.ndx]) (State.loadGroups s) :=
  .overList (fun _ _ => (State.showLeads_within).after (State.loadTopology_within).mono) .refl

theorem stage6End_within {s : State} : s.Within Part.failure (stage6End s).1 :=
  .overList (fun _ _ => (State.evaluateGroup_within).mono) .refl

theorem stage7_within {l} {x : State} : x.Within (Part.reporting [.cores, .cvOwner]) (stage7 l x).1 :=
  .withPart (fun _ => .iteStep (State.post_within).mono ((State.ledgerRecord_within).after ((State.wrN_within).after ((State.wrN_within).after
      (.overList (fun _ _ => (State.failUnit_within).mono) (.overList (fun _ _ => (State.katBoot_within).mono) ((State.startFirmware_within).after
      (.overList (fun _ _ => (State.bootFoldCore_within).mono) .refl)))))))) .refl

theorem stage8_within {s : State} : s.Within (Part.reporting [.memory, .mem, .serving, .pfx, .ndx]) (stage8 s).1 := by
  unfold stage8
  dsimp only
  exact (State.post_within).after ((State.wrF_within).after ((State.recomputeBudgets_within).after
    (.overList (fun _ _ => (State.showFree_within).after (State.startPartition_within).mono) (State.wrF_within).mono)))

theorem State.lateStages_within {l} {s : State} : s.Within Part.every (State.lateStages l s) := by
  unfold State.lateStages
  exact .runStage (fun _ => (stage8_within).mono) (.runStage (fun _ => (stage7_within).mono) .refl)

theorem State.stage6Begin_within {b} {s : State} : s.Within Part.every (State.stage6Begin b s) := by
  unfold State.stage6Begin
  refine .ite .refl ?_
  dsimp only
  split
  · exact (State.lossInStage_within).after ((State.advance_within).after ((State.loadGroups_within).after (State.stageBegin_within).mono))
  · exact .ite ((State.stageHalt_within).after ((State.loadGroups_within).after (State.stageBegin_within).mono)) (.ite
        ((State.stageHalt_within).after ((State.advance_within).after ((State.loadGroups_within).after (State.stageBegin_within).mono))) (.ite
        ((State.lateStages_within).after ((State.stagePass_within).after ((stage6End_within).after ((State.advance_within).after
        ((State.loadGroups_within).after (State.stageBegin_within).mono))))) (.setMgmt ((State.advance_within).after
        ((State.loadGroups_within).after (State.stageBegin_within).mono)))))

theorem State.leaveStandby_within {s : State} : s.Within [.regs, .mgmt, .side, .power] (State.leaveStandby s) :=
  .setMgmtSidePower ((State.setPowerGood_within).after (State.wrF_within).mono)

theorem State.runStages_within {b} {s : State} : s.Within Part.every (State.runStages b s) := by
  unfold State.runStages
  exact (State.stage6Begin_within).after (.runStage (fun _ => (stage5_within).mono) (.runStage (fun _ => .withPart (fun _ => (stage4_within).mono)
      .refl)
    (.runStage (fun _ => .withPart (fun _ => (stage3_within).mono) .refl) (.iteStep (State.trainPcie_within).mono (.runStage
      (fun _ => .ite_fst (State.trainPcie_within).mono (stage2_within).mono) (.runStage (fun _ => (stage1_within).mono)
        (.runStage (fun _ => (stage0_within).mono) (State.leaveStandby_within).mono)))))))

theorem State.bringUp_within {b} {s : State} : s.Within Part.every (State.bringUp b s) :=
  .ite (State.runStages_within).mono .refl

theorem State.restart_within {b} {s : State} : s.Within Part.every (State.restart b s) :=
  .iteStep (State.bringUp_within).mono (State.enterStandby_within).mono

theorem State.peersSettled_within {l} {s : State} : s.Within Part.every (State.peersSettled l s) :=
  .ite .refl ((State.lateStages_within).after ((State.stagePass_within).after ((stage6End_within).after (.setMgmt .refl))))

end Sys2Proof.Machine
end

section
/-! PROOFS. What the operations of Machine/Resets.lean may reach. -/
namespace Sys2Proof.Machine

theorem State.resetStatus_within {st} {s : State} : s.Within [.regs] (State.resetStatus st s) :=
  (State.wrF_within).after (State.wrF_within).mono

theorem State.refuseReset_within {st} {s : State} : s.Within Part.reports (State.refuseReset st s).2 :=
  .pair_snd ((State.resetStatus_within).after (State.post_within).mono)

theorem State.beginReset_within {s : State} : s.Within [.regs, .heldRS] (State.beginReset s) :=
  (State.resetStatus_within).after (State.commitReset_within).mono

theorem State.dropJob_within {j} {s : State} : s.Within [.mgmt] (State.dropJob j s) :=
  .setMgmt .refl

theorem State.addJob_within {j} {s : State} : s.Within [.mgmt] (State.addJob j s) :=
  .setMgmt .refl

theorem State.cycleCluster_within {c} {s : State} : s.Within [.regs, .heldRS, .cores, .memory, .mem, .power, .cvOwner] (State.cycleCluster c s) :=
  .setMemory ((State.resetCheckUnit_within).after ((State.zeroPool_within).after (.overList (fun _ _ => (State.zeroStore_within).after
      (State.resetCore_within).mono) .refl)))

theorem State.smallReset_within {j absorbed} {s : State} : s.Within (Part.reporting [.heldRS, .cores, .memory, .mem, .power, .cvOwner])
    (State.smallReset j absorbed s) := by
  unfold State.smallReset
  refine (State.resetStatus_within).after ?_
  refine (State.dropJob_within).after ?_
  split
  · exact (State.post_within).after (.overList (fun _ _ => (State.checkFirmware_within).mono) ((State.cycleCluster_within).after
        (State.count_within).mono))
  · exact .ite .refl (State.resetCores_within).mono

theorem State.absorbCores_within {cores} {s : State} : s.Within Part.failure (State.absorbCores cores s) := by
  unfold State.absorbCores
  refine .overList (fun _ _ => ?_) .refl
  split
  · exact (State.post_within).after (State.failTask_within).mono
  · exact .refl

theorem State.putStaged_within {l} {s : State} : s.Within [.regs, .mgmt] (State.putStaged l s) :=
  (State.wrF_within).after ((State.wrF_within).after (.setMgmt .refl))

theorem State.applyStaged_within {i} {s : State} : s.Within [.mgmt] (State.applyStaged i s) := by
  unfold State.applyStaged
  split
  · exact .setMgmt .refl
  · exact .setMgmt .refl
  · exact .setMgmt .refl

theorem State.takeStaged_within {upTo sel} {s : State} : s.Within [.regs, .mgmt] (State.takeStaged upTo sel s) :=
  (State.putStaged_within).after (.overList (fun _ _ => (State.applyStaged_within).mono) .refl)

theorem State.endServing_within {p} {s : State} : s.Within (Part.reporting [.memory, .mem, .dealer, .cvOwner, .serving, .pfx, .talon, .ndx,
    .freeCtr]) (State.endServing p s) :=
  .setDealerServingPfxTalonNdx (.overList (fun _ _ => (State.dropParked_within).mono) ((State.absorbTalon_within).after (.overList (fun _ _ =>
      (State.endLoad_within).mono) (.overList (fun _ _ => (State.detachTask_within).mono) .refl))))

theorem State.endVision_within {p} {s : State} : s.Within [.vision, .media] (State.endVision p s) :=
  .overList (fun _ _ => (State.putMedia_within).mono) (.setVision (.overList (fun _ _ => (State.putEdge_within).mono) .refl))

theorem State.endGroup_within {p} {s : State} : s.Within [.ndx] (State.endGroup p s) :=
  .setNdx .refl

theorem State.absorbPart_within {p} {s : State} : s.Within (Part.reporting [.memory, .mem, .dealer, .cvOwner, .serving, .pfx, .talon, .ndx, .vision,
    .media, .freeCtr]) (State.absorbPart p s) :=
  (State.endGroup_within).after ((State.endVision_within).after ((State.endServing_within).after ((State.stopQueues_within).after
      ((State.setRunning_within).after (State.wrF_within).mono))))

theorem State.cycleDie_within {d} {s : State} : s.Within [.regs, .ledger, .heldRS, .cores, .memory, .mem, .power, .cvOwner] (State.cycleDie d s) :=
  (State.unboost_within).after (.iteStep (.setLedger .refl) (.overList (fun _ _ => (State.clusterDown_within).mono) (.overList (fun _ _ =>
      (State.coreDown_within).mono) ((State.zeroDie_within).after (.overList (fun _ _ => (State.finishRemap_within).mono) .refl)))))

theorem State.reloadRegs_within {lo n} {s : State} : s.Within (Part.reporting [.heldRS]) (State.reloadRegs lo n s) :=
  (State.applyImage_within).after (State.resetRegs_within).mono

theorem State.reloadPart_within {p} {s : State} : s.Within (Part.reporting [.heldRS]) (State.reloadPart p s) :=
  (State.applyShare_within).after ((State.applyImage_within).after (.overList (fun _ _ => (State.reloadRegs_within).mono) .refl))

theorem State.reloadShares_within {ps} {s : State} : s.Within [.regs] (State.reloadShares ps s) :=
  .overList (fun _ _ => (State.showShare_within).mono) (State.dealShares_within).mono

theorem State.reloadSlot_within {sl} {s : State} : s.Within (Part.reporting [.heldRS]) (State.reloadSlot sl s) :=
  (State.reloadRegs_within).after (State.reloadRegs_within).mono

theorem State.reloadDie_within {d} {s : State} : s.Within (Part.reporting [.heldRS]) (State.reloadDie d s) :=
  (State.wrN_within).after ((State.reloadRegs_within).after (State.reloadRegs_within).mono)

theorem State.reloadPipe_within {m} {s : State} : s.Within (Part.reporting [.heldRS]) (State.reloadPipe m s) :=
  (State.wrF_within).after ((State.wrF_within).after (State.reloadRegs_within).mono)

theorem State.takeFolds_within {dies} {s : State} : s.Within Part.failure (State.takeFolds dies s) :=
  .overList (fun _ _ => .ite (State.foldCluster_within).mono (State.foldCore_within).mono) (.setMgmt .refl)

theorem State.freeLinks_within {ps} {s : State} : s.Within [.regs] (State.freeLinks ps s) :=
  .overList (fun _ _ => (State.wr_within).after (State.wr_within).mono) .refl

theorem State.dropLinks_within {s : State} : s.Within [.regs] (State.dropLinks s) :=
  .overList (fun _ _ => (State.putBit_within).mono) .refl

theorem State.partitionSteps_within {mask dies upTo} {s : State} : s.Within (Part.reporting [.heldRS, .hostMem, .cores, .memory, .mem, .power,
    .dealer, .cvOwner, .serving, .pfx, .talon, .ndx, .vision, .media, .freeCtr]) (State.partitionSteps mask dies upTo s).2 :=
  .pair_snd ((State.dropLinks_within).after (.overList (fun _ _ => (State.showFree_within).mono) (.overList (fun _ _ =>
      (State.showLeads_within).after ((State.wrF_within).after (State.loadTopology_within).mono)) (.overList (fun _ _ =>
      (State.startPartition_within).mono) ((State.takeFolds_within).after ((State.showMap_within).after (.overList (fun _ _ =>
      (State.reloadPipe_within).mono) (.overList (fun _ _ => (State.reloadSlot_within).mono) (.overList (fun _ _ => (State.reloadDie_within).mono)
      ((State.reloadShares_within).after (.overList (fun _ _ => (State.reloadPart_within).after (State.wrF_within).mono) (.setMgmt
      ((State.takeStaged_within).after ((State.freeLinks_within).after (.overList (fun _ _ => (State.cycleDie_within).mono) (.overList (fun _ _ =>
      (State.absorbPart_within).mono) .refl))))))))))))))))

theorem State.partitionEnd_within {j} {s : State} : s.Within (Part.reporting [.heldRS, .hostMem, .cores, .memory, .mem, .power, .dealer, .cvOwner,
    .serving, .pfx, .ndx, .vision, .media]) (State.partitionEnd j s) :=
  (State.resetStatus_within).after ((State.recomputeBudgets_within).after ((State.dropJob_within).after ((State.takeFolds_within).after (.overList
      (fun _ _ => (State.startPartition_within).after (State.evaluateGroup_within).mono) .refl))))

theorem State.settleJobs_within {s : State} : s.Within (Part.reporting [.heldRS, .hostMem, .cores, .memory, .mem, .power, .dealer, .cvOwner,
    .serving, .pfx, .ndx, .vision, .media]) (State.settleJobs s) :=
  .ite .refl (.overList (fun _ _ => (State.partitionEnd_within).mono) .refl)

theorem State.partitionReset_within {j} {s : State} : s.Within (Part.reporting [.heldRS, .hostMem, .cores, .memory, .mem, .power, .dealer, .cvOwner,
    .serving, .pfx, .talon, .ndx, .vision, .media, .freeCtr]) (State.partitionReset j s) :=
  (State.settleJobs_within).after ((State.addJob_within).after ((State.dropJob_within).after ((State.partitionSteps_within).after
      ((State.addJob_within).after (State.dropJob_within).mono))))

theorem State.showdownRetry_within {l} {s : State} : s.Within Part.every (State.showdownRetry l s) := by
  induction l generalizing s with
  | nil => exact .refl
  | cons _ _ ih =>
    rw [State.showdownRetry]
    exact .ite (ih.after ((State.bringUp_within).after ((State.enterStandby_within).after (State.talonDown_within).mono))) .refl

theorem State.restartAll_within {b more} {s : State} : s.Within Part.every (State.restartAll b more s) :=
  (State.showdownRetry_within).after (State.restart_within).mono

theorem State.moduleReset_within {b more} {s : State} : s.Within Part.every (State.moduleReset b more s) :=
  (State.restartAll_within).after (State.talonDown_within).mono

theorem State.requestModule_within {absorb b more} {s : State} : s.Within Part.every (State.requestModule absorb b more s) := by
  unfold State.requestModule
  refine .chain (.ite ((State.moduleReset_within).after ((State.beginReset_within).after (.setMgmt .refl))) (.chain (.ite
      (State.moduleReset_within).mono ((State.resetStatus_within).after (State.addJob_within).mono)) (.overList (fun _ _ => (State.wrF_within).mono)
      ((State.beginReset_within).after (.setMgmt .refl))))) ?_
  split
  · exact (State.refuse_within).after (.setUpdate .refl)
  · exact .refl

theorem State.requestSmall_within {cluster absorb target} {s : State} : s.Within Part.failure (State.requestSmall cluster absorb target s).2 :=
  .ite_snd (State.refuseReset_within).mono (.ite_snd (State.refuseReset_within).mono (.ite_snd (State.refuseReset_within).mono (.chain (.ite_snd
      (.pair_snd (State.smallReset_within).mono) (.iteStep ((State.smallReset_within).after (State.absorbCores_within).mono) .refl))
      ((State.resetStatus_within).after ((State.addJob_within).after (State.beginReset_within).mono)))))

theorem State.requestFold_within {cluster target} {s : State} : s.Within Part.failure (State.requestFold cluster target s).2 :=
  .ite_snd (State.refuseReset_within).mono (.ite_snd (State.refuseReset_within).mono (.pair_snd ((State.resetStatus_within).after (.ite
      (State.foldCluster_within).mono (State.foldCore_within).mono))))

theorem State.requestPartition_within {mask absorb} {s : State} : s.Within (Part.reporting [.heldRS, .hostMem, .cores, .memory, .mem, .power,
    .dealer, .cvOwner, .serving, .pfx, .talon, .ndx, .vision, .media, .freeCtr]) (State.requestPartition mask absorb s).2 :=
  .ite_snd (State.refuseReset_within).mono (.ite_snd (State.refuseReset_within).mono (.ite_snd (State.refuseReset_within).mono (.ite_snd
      (State.refuseReset_within).mono (.ite_snd (State.refuseReset_within).mono (.iteStep (State.partitionReset_within).mono
      ((State.resetStatus_within).after ((State.addJob_within).after (.overList (fun _ _ => .iteStep (State.wrF_within).mono .refl) (.overList
      (fun _ _ => (State.count_within).after (State.countF_within).mono) (State.beginReset_within).mono)))))))))

theorem State.proceed_within {j absorbed b more} {s : State} : s.Within Part.every (State.proceed j absorbed b more s) := by
  unfold State.proceed
  split
  · exact (State.smallReset_within).mono
  · exact (State.smallReset_within).mono
  · exact (State.partitionReset_within).mono
  · exact (State.moduleReset_within).mono

theorem execDrainComplete_answers {job fw boot more} {s : State} : s.Answers Part.every (execDrainComplete job fw boot more s) := by
  unfold execDrainComplete
  dsimp only
  split
  · exact .next (State.upset_within).mono
  · exact .next (.ite ((State.proceed_within).after (State.upset_within).mono) (State.upset_within).mono)

theorem execDrainTimeout_answers {job fw boot more} {s : State} : s.Answers Part.every (execDrainTimeout job fw boot more s) := by
  unfold execDrainTimeout
  dsimp only
  split
  · exact .next (State.upset_within).mono
  · exact .ite (.next (State.upset_within).mono) (.next ((State.proceed_within).after ((State.absorbCores_within).after ((State.count_within).after
        ((State.post_within).after (State.upset_within).mono)))))

theorem State.resetCommand_within {v} {s : State} : s.Within Part.every (State.resetCommand v s) := by
  unfold State.resetCommand
  refine .ite .refl ?_
  split
  · exact (State.requestSmall_within).mono
  · exact (State.requestFold_within).mono
  · exact (State.requestSmall_within).mono
  · exact (State.requestFold_within).mono
  · exact (State.requestPartition_within).mono
  · exact (State.requestModule_within).after (.setFreeCtr .refl)

theorem execRstCoreReset_answers {absorb target fw} {s : State} : s.Answers Part.failure (execRstCoreReset absorb target fw s) :=
  .next (.ite ((State.requestSmall_within).after (State.upset_within).mono) (State.upset_within).mono)

theorem execRstClusterReset_answers {absorb target fw} {s : State} : s.Answers Part.failure (execRstClusterReset absorb target fw s) :=
  .next (.ite ((State.requestSmall_within).after (State.upset_within).mono) (State.upset_within).mono)

theorem execRstPartitionReset_answers {absorb target} {s : State} : s.Answers (Part.reporting [.heldRS, .hostMem, .cores, .memory, .mem, .power,
    .dealer, .cvOwner, .serving, .pfx, .talon, .ndx, .vision, .media, .freeCtr]) (execRstPartitionReset absorb target s) :=
  .next (.ite (State.requestPartition_within).mono .refl)

theorem execRstModuleReset_answers {absorb boot more} {s : State} : s.Answers Part.every (execRstModuleReset absorb boot more s) :=
  .next (.ite (State.requestModule_within).mono .refl)

theorem execRstCoreFold_answers {target} {s : State} : s.Answers Part.failure (execRstCoreFold target s) :=
  .next (.ite (State.requestFold_within).mono .refl)

theorem execRstClusterFold_answers {target} {s : State} : s.Answers Part.failure (execRstClusterFold target s) :=
  .next (.ite (State.requestFold_within).mono .refl)

theorem answerWith_within {m} {r : ℕ × State} : r.2.Within [.pcie] (answerWith m r) :=
  (State.answer_within).mono

theorem execGetStage_answers {s : State} : s.Answers Part.reports (execGetStage s) :=
  .next (.serve (fun _ _ => (State.answer_within).mono) .refl)

theorem execStageRecord_answers {s : State} : s.Answers Part.reports (execStageRecord s) := by
  unfold execStageRecord
  refine .next ?_
  refine .serve (fun _ _ => ?_) .refl
  refine .ite (State.refuse_within).mono ?_
  split
  · exact (State.refuse_within).mono
  · exact .ite (State.refuse_within).mono ((State.answer_within).after (State.putStaged_within).mono)

theorem execClearStaged_answers {s : State} : s.Answers Part.reports (execClearStaged s) :=
  .next (.serve (fun _ _ => .ite (State.refuse_within).mono ((State.answer_within).after (State.putStaged_within).mono)) .refl)

theorem execPartitionReset_answers {s : State} : s.Answers (Part.reporting [.heldRS, .hostMem, .cores, .memory, .mem, .power, .dealer, .cvOwner,
    .serving, .pfx, .talon, .ndx, .vision, .media, .freeCtr]) (execPartitionReset s) :=
  .next (.serve (fun _ _ => (answerWith_within).after (State.requestPartition_within).mono) .refl)

theorem execModuleReset_answers {boot more} {s : State} : s.Answers Part.every (execModuleReset boot more s) :=
  .next (.serve (fun _ _ => (State.requestModule_within).after (State.answer_within).mono) .refl)

theorem execFold_answers {s : State} : s.Answers Part.failure (execFold s) :=
  .next (.serve (fun _ _ => (answerWith_within).after (State.requestFold_within).mono) .refl)

theorem execResumePower_answers {boot more} {s : State} : s.Answers Part.every (execResumePower boot more s) :=
  .next (.serve (fun _ _ => .ite (State.answer_within).mono (.ite (State.refuse_within).mono ((State.showdownRetry_within).after
      ((State.bringUp_within).after (State.answer_within).mono)))) .refl)

theorem execResetNAssert_answers {s : State} : s.Answers Part.every (execResetNAssert s) :=
  .ite (.next (.setSide .refl)) (.next (.setSide ((State.wrF_within).after ((State.enterStandby_within).after (State.talonDown_within).mono))))

theorem execResetNRelease_answers {boot more} {s : State} : s.Answers Part.every (execResetNRelease boot more s) :=
  .ite (.next .refl) (.next (.ite ((State.showdownRetry_within).after ((State.bringUp_within).after (.ite ((State.wrF_within).after (.setSide
      .refl)) (.setSide .refl)))) (.ite ((State.wrF_within).after (.setSide .refl)) (.setSide .refl))))

theorem State.linkSettled_within {late more} {s : State} : s.Within Part.every (State.linkSettled late more s) :=
  (State.settleJobs_within).after ((State.showdownRetry_within).after (State.peersSettled_within).mono)

theorem execPeerTrainingSignal_answers {link attempts late more} {s : State} : s.Answers Part.every
    (execPeerTrainingSignal link attempts late more s) :=
  .next (.ite ((State.linkSettled_within).after (State.trainLink_within).mono) .refl)

theorem execPeerWaitTimeout_answers {link late more} {s : State} : s.Answers Part.every (execPeerWaitTimeout link late more s) :=
  .next (.ite ((State.linkSettled_within).after (State.linkDown_within).mono) .refl)

theorem execStageTimeout_answers {more} {s : State} : s.Answers Part.every (execStageTimeout more s) :=
  .next (.ite .refl ((State.showdownRetry_within).after ((State.stageHalt_within).after (.setMgmt .refl))))

end Sys2Proof.Machine
end

section
/-! PROOFS. What the operations of Machine/Update.lean may reach. -/
namespace Sys2Proof.Machine

theorem State.writeStaging_within {meld pieces received erased} {s : State} : s.Within [.update] (State.writeStaging meld pieces received erased s) :=
  (State.putStaging_within).mono

theorem State.forgetFactory_within {l} {s : State} : s.Within [.update] { s with update := { s.update with factory := l } } :=
  .setUpdate .refl

theorem State.updateBegin_within {m} {s : State} : s.Within (Part.reporting [.update]) (State.updateBegin m s) :=
  .ite (State.refuse_within).mono (.ite (State.refuse_within).mono (.ite ((State.answer_within).after (State.post_within).mono)
    (.ite (State.refuse_within).mono ((State.answer_within).after ((State.showUpdate_within).after ((State.writeStaging_within).after
      ((State.forgetFactory_within).after ((State.writeBoot_within).after (.ite (State.writeBoot_within).mono .refl)))))))))

theorem execUpdateBegin_answers {s : State} : s.Answers (Part.reporting [.update]) (execUpdateBegin s) :=
  .next (.serve (fun _ _ => (State.updateBegin_within).mono) .refl)

theorem execUpdateAbandon_answers {s : State} : s.Answers (Part.reporting [.update]) (execUpdateAbandon s) := by
  unfold execUpdateAbandon
  refine .next ?_
  refine .serve (fun _ _ => ?_) .refl
  refine .ite (State.refuse_within).mono ?_
  split
  · exact (State.answer_within).mono
  · exact (State.answer_within).after ((State.showUpdate_within).after (State.writeBoot_within).mono)

theorem State.verifyStaging_within {k} {s : State} : s.Within (Part.reporting [.update]) (State.verifyStaging k s) := by
  unfold State.verifyStaging
  split
  · exact (State.writeBoot_within).mono
  · exact (State.post_within).after (State.writeBoot_within).mono

theorem State.programPiece_within {k b fails st} {s : State} : s.Within [.update] (State.programPiece k b fails st s).2 :=
  .chain (.ite_snd (.pair_snd ((State.putStaging_within).after (State.norWrite_within).mono)) (.ite_snd (.pair_snd ((State.putStaging_within).after
      ((State.norWrite_within).after ((State.norErase_within).after (State.writeStaging_within).mono)))) (.pair_snd ((State.putStaging_within).after
      ((State.norErase_within).after (State.writeStaging_within).mono))))) (.ite .refl (State.norErase_within).mono)

theorem State.updatePiece_within {fails m} {s : State} : s.Within (Part.reporting [.update]) (State.updatePiece fails m s) := by
  unfold State.updatePiece
  refine .ite (State.refuse_within).mono ?_
  refine .ite ((State.refuse_within).after (State.count_within).mono) ?_
  split
  · refine .ite (State.refuse_within).mono ?_
    refine .ite (State.refuse_within).mono ?_
    refine .ite ((State.answer_within).after ((State.post_within).after (State.count_within).mono)) ?_
    split
    · next h1 => exact (State.refuse_within).after ((State.showUpdate_within).after (((State.programPiece_within).snd h1).mono))
    · next h1 => exact (State.showUpdate_within).after (.iteStep (State.verifyStaging_within).mono ((State.answer_within).after
          ((State.count_within).after (((State.programPiece_within).snd h1).mono))))
  · exact (State.refuse_within).mono

theorem execUpdatePiece_answers {fails} {s : State} : s.Answers (Part.reporting [.update]) (execUpdatePiece fails s) :=
  .next (.serve (fun _ _ => (State.updatePiece_within).mono) .refl)

theorem execUpdateStatus_answers {s : State} : s.Answers Part.reports (execUpdateStatus s) :=
  .next (.serve (fun _ _ => .ite (State.refuse_within).mono (State.answer_within).mono) .refl)

theorem execSetConditions_answers {s : State} : s.Answers Part.reports (execSetConditions s) :=
  .next (.serve (fun _ _ => (State.answer_within).after ((State.wrF_within).after ((State.wrF_within).after (State.wrF_within).mono))) .refl)

theorem State.endActivation_within {st} {s : State} : s.Within (Part.reporting [.update]) (State.endActivation st s) := by
  unfold State.endActivation
  dsimp only
  split
  · exact (State.refuse_within).after ((State.showUpdate_within).after ((State.wrF_within).after (.setMgmtUpdate .refl)))
  · exact (State.showUpdate_within).after ((State.wrF_within).after (.setMgmtUpdate .refl))

theorem State.startTrial_within {boot more} {s : State} : s.Within Part.every (State.startTrial boot more s) := by
  unfold State.startTrial
  split
  · exact (State.endActivation_within).mono
  · refine (State.moduleReset_within).after ?_
    refine .setUpdate ?_
    split
    · exact (State.answer_within).after (State.writeBoot_within).mono
    · exact (State.writeBoot_within).mono

theorem State.recheck_within {boot more} {s : State} : s.Within Part.every (State.recheck boot more s) := by
  unfold State.recheck
  split
  · exact (State.endActivation_within).mono
  · exact (State.startTrial_within).mono

theorem State.activate_within {boot more m} {s : State} : s.Within Part.every (State.activate boot more m s) := by
  unfold State.activate
  dsimp only
  split
  · exact (State.refuse_within).after (State.count_within).mono
  · refine .ite ((State.refuse_within).after (State.count_within).mono) ?_
    split
    · exact (State.refuse_within).after (State.count_within).mono
    · split
      · exact (State.refuse_within).after ((State.showUpdate_within).after ((State.writeBoot_within).after (State.count_within).mono))
      · exact .chain (.ite (State.startTrial_within).mono (.ite (State.recheck_within).mono (.iteStep (State.recheck_within).mono
            ((State.wrF_within).after ((State.addJob_within).after (.overList (fun _ _ => (State.wrF_within).mono) .refl))))))
            ((State.showUpdate_within).after (.setUpdate (State.count_within).mono))

theorem execActivate_answers {boot more} {s : State} : s.Answers Part.every (execActivate boot more s) :=
  .next (.serve (fun _ _ => (State.activate_within).mono) .refl)

theorem execActivationDrainComplete_answers {boot more} {s : State} : s.Answers Part.every (execActivationDrainComplete boot more s) := by
  unfold execActivationDrainComplete
  split
  · exact .ite (.next (State.recheck_within).mono) (.ite (.next .refl) (.next ((State.recheck_within).after ((State.count_within).after
        (State.post_within).mono))))
  · exact .next .refl

theorem State.confirm_within {meld} {s t : State} (h : State.confirm meld s = some t) : s.Within (Part.reporting [.fuses, .update]) t := by
  unfold State.confirm at h
  split at h
  · cases h
  · split at h
    · cases h
    · obtain rfl := Option.some.inj h
      exact (State.showUpdate_within).after ((State.post_within).after ((State.writeBoot_within).after (.setFuses .refl)))

theorem execShowdownConfirm_answers {s : State} : s.Answers (Part.reporting [.update, .fuses]) (execShowdownConfirm s) := by
  unfold execShowdownConfirm
  refine .next ?_
  refine .serve (fun _ _ => ?_) .refl
  split
  · next h1 => exact (State.answer_within).after ((State.confirm_within h1).mono)
  · exact (State.refuse_within).mono

theorem State.hostConfirm_within {value} {s : State} : s.Within (Part.reporting [.fuses, .update]) (State.hostConfirm value s) := by
  unfold State.hostConfirm
  split
  · next h1 =>
    split at h1
    · exact State.confirm_within h1
    · cases h1
  · exact (State.post_within).mono

theorem execUpdConfirmWrite_answers {value} {s : State} : s.Answers (Part.reporting [.update, .fuses]) (execUpdConfirmWrite value s) :=
  .next (.ite (State.hostConfirm_within).mono .refl)

theorem execShowdownDeadline_answers {boot more} {s : State} : s.Answers Part.every (execShowdownDeadline boot more s) :=
  .next (.ite .refl (.ite (State.requestModule_within).mono (.ite .refl (State.requestModule_within).mono)))

theorem execGetIdentity_answers {s : State} : s.Answers Part.reports (execGetIdentity s) :=
  .next (.serve (fun _ _ => (State.answer_within).mono) .refl)

theorem execAttest_answers {s : State} : s.Answers Part.reports (execAttest s) :=
  .next (.serve (fun _ _ => .ite (State.refuse_within).mono ((State.answer_within).after (State.count_within).mono)) .refl)

end Sys2Proof.Machine
end

section
/-! PROOFS. What the operations of Machine/Registers.lean may reach. -/
namespace Sys2Proof.Machine

theorem State.writeMsix_within {fn i v} {s : State} : s.Within [.pcie] (State.writeMsix fn i v s) :=
  (State.releaseVector_within).after (.setPcie .refl)

theorem State.afterWrite_within {off v} {s : State} : s.Within Part.reports (State.afterWrite off v s) := by
  unfold State.afterWrite
  dsimp only
  split
  · exact .iteStep (State.showResult_within).mono (.iteStep (State.post_within).mono (.ite (State.wrF_within).mono .refl))
  · exact .iteStep (State.post_within).mono (.ite (State.wrF_within).mono .refl)

theorem State.writeOwn_within {fn off v} {s : State} : s.Within Part.every (State.writeOwn fn off v s) := by
  unfold State.writeOwn
  split
  · exact (State.pointerWrite_within).mono
  · refine .ite (State.hostCap_within).mono ?_
    refine .ite (State.ackAlerts_within).mono ?_
    refine .ite (State.hostConfirm_within).mono ?_
    refine .ite (State.resetCommand_within).mono ?_
    split
    · exact (State.abortSeq_within).mono
    · exact (State.hostTagPost_within).mono
    · exact (State.winBase_within).mono
    · exact .refl

theorem State.writeOffset_within {fn off v} {s : State} : s.Within Part.every (State.writeOffset fn off v s) := by
  unfold State.writeOffset
  refine .ite (State.writeOwn_within).mono ?_
  split
  · exact .ite (State.enableWrite_within).mono .refl
  · split
    · exact .ite .refl (.ite (State.hostAttach_within).mono (State.hostDetach_within).mono)
    · exact (State.afterWrite_within).after (State.writeReg_within).mono

theorem State.writeBar_within {fn off v} {s : State} : s.Within Part.every (State.writeBar fn off v s) := by
  unfold State.writeBar
  refine .ite .refl ?_
  split
  · exact (State.writeMsix_within).mono
  · split
    · exact .ite (State.writeOffset_within).mono .refl
    · exact .refl

theorem execRegisterWrite_answers {fn off bytes value} {s : State} : s.Answers Part.every (execRegisterWrite fn off bytes value s) :=
  .ite (.next .refl) (.ite (.next ((State.emit_within).after (State.aerError_within).mono)) (.next (.ite ((State.writeBar_within).after
      (State.writeBar_within).mono) (State.writeBar_within).mono)))

end Sys2Proof.Machine
end

section
/-! PROOFS. What the operations of Machine/Sideband.lean may reach. -/
namespace Sys2Proof.Machine

theorem State.startAlwaysOn_within {s : State} : s.Within [.side] (State.startAlwaysOn s) :=
  .setSide .refl

theorem execPresenceLoss_answers {s : State} : s.Answers Part.every (execPresenceLoss s) :=
  .next (.ite .refl (State.losePresence_within).mono)

theorem execPresenceReturn_answers {s : State} : s.Answers [.side] (execPresenceReturn s) :=
  .next (.setSide .refl)

theorem execInputPowerLoss_answers {reading} {s : State} : s.Answers Part.every (execInputPowerLoss reading s) :=
  .next (.ite .refl (State.loseInput_within).mono)

theorem execInputPowerApplied_answers {reading} {s : State} : s.Answers [.side] (execInputPowerApplied reading s) :=
  .next (.setSide (.ite .refl (State.startAlwaysOn_within).mono))

theorem execAuxPowerApplied_answers {reading} {s : State} : s.Answers [.side] (execAuxPowerApplied reading s) :=
  .next (.setSide (.ite .refl (State.startAlwaysOn_within).mono))

theorem execAuxPowerLoss_answers {reading} {s : State} : s.Answers Part.every (execAuxPowerLoss reading s) :=
  .next (.ite .refl ((State.afterLoss_within).after (.setSide .refl)))

theorem execLatchLockedChange_answers {locked} {s : State} : s.Answers [.side] (execLatchLockedChange locked s) :=
  .next (.setSide .refl)

theorem execSidebandMessageReceive_answers {bytes} {s : State} : s.Answers (Part.reporting [.power]) (execSidebandMessageReceive bytes s) :=
  .next (.ite .refl (.ite (State.refuse_within).mono (.ite (State.refuse_within).mono (.setSide (.ite .refl (State.wake_within).mono)))))

theorem execSetdasa_answers {static addr} {s : State} : s.Answers [.side] (execSetdasa static addr s) :=
  .next (.ite (.setSide .refl) .refl)

theorem execEntdaa_answers {addr} {s : State} : s.Answers [.side] (execEntdaa addr s) :=
  .next (.ite (.setSide .refl) .refl)

theorem State.mctpControl_within {cmd body} {s : State} : s.Within [.pcie] (State.mctpControl cmd body s) :=
  .ite (State.emitPacket_within).mono .refl

theorem execSetEndpointId_answers {op eid} {s : State} : s.Answers [.pcie, .side] (execSetEndpointId op eid s) :=
  .next (.ite .refl (.ite (State.mctpControl_within).mono ((State.mctpControl_within).after (.setSide .refl))))

theorem execGetEndpointId_answers {s : State} : s.Answers [.pcie] (execGetEndpointId s) :=
  .next (State.mctpControl_within).mono

theorem execGetMctpVersionSupport_answers {type} {s : State} : s.Answers [.pcie] (execGetMctpVersionSupport type s) :=
  .next (.ite (State.mctpControl_within).mono (State.mctpControl_within).mono)

theorem execGetMessageTypeSupport_answers {s : State} : s.Answers [.pcie] (execGetMessageTypeSupport s) :=
  .next (State.mctpControl_within).mono

theorem execGetVendorMessageSupport_answers {selector} {s : State} : s.Answers [.pcie] (execGetVendorMessageSupport selector s) :=
  .next (.ite (State.mctpControl_within).mono (State.mctpControl_within).mono)

theorem State.pldm_within {cmd body} {s : State} : s.Within [.pcie] (State.pldm cmd body s) :=
  .ite (State.emitPacket_within).mono .refl

theorem execGetTid_answers {s : State} : s.Answers [.pcie] (execGetTid s) :=
  .next (State.pldm_within).mono

theorem execGetPldmVersion_answers {opFlag type} {s : State} : s.Answers [.pcie] (execGetPldmVersion opFlag type s) :=
  .next (.ite (State.pldm_within).mono (.ite (State.pldm_within).mono (State.pldm_within).mono))

theorem execGetPldmTypes_answers {s : State} : s.Answers [.pcie] (execGetPldmTypes s) :=
  .next (State.pldm_within).mono

theorem execGetPldmCommands_answers {type version} {s : State} : s.Answers [.pcie] (execGetPldmCommands type version s) :=
  .next (.ite (State.pldm_within).mono (.ite (State.pldm_within).mono (State.pldm_within).mono))

theorem execGetSensorReading_answers {id} {s : State} : s.Answers [.pcie, .freeCtr] (execGetSensorReading id s) := by
  unfold execGetSensorReading
  refine .next ?_
  split
  · exact (State.pldm_within).mono
  · exact (State.drawn_within).after (State.pldm_within).mono

theorem execGetStateSensorReadings_answers {id} {s : State} : s.Answers [.pcie, .freeCtr] (execGetStateSensorReadings id s) := by
  unfold execGetStateSensorReadings
  refine .next ?_
  split
  · exact (State.pldm_within).mono
  · exact (State.drawn_within).after (State.pldm_within).mono

theorem execGetPdr_answers {handle part count} {s : State} : s.Answers [.pcie] (execGetPdr handle part count s) := by
  unfold execGetPdr
  refine .next ?_
  dsimp only
  split
  · exact (State.pldm_within).mono
  · exact (State.pldm_within).mono

theorem execGetPdrRepositoryInfo_answers {s : State} : s.Answers [.pcie] (execGetPdrRepositoryInfo s) :=
  .next (State.pldm_within).mono

end Sys2Proof.Machine
end

section
/-! PROOFS. What the operations of Machine/KvDesc.lean may reach. -/
namespace Sys2Proof.Machine

theorem State.pagesLive_within {d l} {s : State} : s.Within (Part.reporting [.memory]) (State.pagesLive d l s).2 := by
  obtain ⟨self, hself⟩ := exists_eq' (a' := @State.pagesLive)
  obtain ⟨hbmRead', hhbmRead⟩ := exists_eq' (a' := @State.hbmRead)
  have whbmRead := @State.hbmRead_within
  rw [hself]
  delta State.pagesLive State.pagesLive._f at hself
  rw [hhbmRead] at whbmRead hself
  subst hself
  induction l generalizing s with
  | nil => exact .refl
  | cons _ _ ih =>
    dsimp only [List.brecOn, List.brecOn.go] at ih ⊢
    refine .ite_snd .refl ?_
    split
    · next h1 => exact .pair_snd ((whbmRead.snd₂ h1).mono)
    · next h1 => exact .ite_snd (ih.after ((whbmRead.snd₂ h1).mono)) (.pair_snd ((whbmRead.snd₂ h1).mono))

theorem State.checkTable_within {k} {s : State} : s.Within (Part.reporting [.memory]) (State.checkTable k s).2 := by
  conv in @State.checkTable => delta State.checkTable
  obtain ⟨hbmRead', hhbmRead⟩ := exists_eq' (a' := @State.hbmRead)
  have whbmRead := @State.hbmRead_within
  rw [hhbmRead] at whbmRead ⊢
  obtain ⟨pagesLive', hpagesLive⟩ := exists_eq' (a' := @State.pagesLive)
  have wpagesLive := @State.pagesLive_within
  rw [hpagesLive] at wpagesLive ⊢
  dsimp only
  split
  · next h1 =>
      refine .pair_snd ?_
      refine State.Within.snd₂ ?_ h1
      refine .foldl_snd₂ (fun _ _ => ?_) .refl
      split
      · exact .refl
      · exact whbmRead.mono
  · next h1 =>
      refine .ite_snd ?_ ?_
      · refine .pair_snd ?_
        refine State.Within.snd₂ ?_ h1
        refine .foldl_snd₂ (fun _ _ => ?_) .refl
        split
        · exact .refl
        · exact whbmRead.mono
      · split
        · next h2 =>
            refine .pair_snd ?_
            refine (wpagesLive.snd h2).after ?_
            refine State.Within.snd₂ ?_ h1
            refine .foldl_snd₂ (fun _ _ => ?_) .refl
            split
            · exact .refl
            · exact whbmRead.mono
        · next h2 =>
            refine .pair_snd ?_
            refine (wpagesLive.snd h2).after ?_
            refine State.Within.snd₂ ?_ h1
            refine .foldl_snd₂ (fun _ _ => ?_) .refl
            split
            · exact .refl
            · exact whbmRead.mono
        · next h2 =>
            refine .pair_snd ?_
            refine (wpagesLive.snd h2).after ?_
            refine State.Within.snd₂ ?_ h1
            refine .foldl_snd₂ (fun _ _ => ?_) .refl
            split
            · exact .refl
            · exact whbmRead.mono

theorem State.Within.withTable {Q : List Part} {s t : State} {n k go} (hgo : ∀ b (u : State), u.Within Q (go b u)) (h : s.Within Q t)
    (hQ : autoParam (Part.Fits Part.failure Q) Nat.toPNat._auto_1) : s.Within Q (t.withTable n k go) := by
  refine .chain ?_ h
  unfold State.withTable
  split
  · next h1 => exact (hgo _ _).chain (.of_subset (P := Part.failure) ((State.checkTable_within).snd h1).mono (Part.subset_of_bits hQ))
  · next h1 => exact .of_subset (P := Part.failure) ((State.failOnCore_within).after ((State.checkTable_within).snd h1).mono) (Part.subset_of_bits hQ)
  · next h1 =>
    exact .of_subset (P := Part.failure) ((State.postPartFatal_within).after ((State.checkTable_within).snd h1).mono)
      (Part.subset_of_bits hQ)
  · next h1 => exact .of_subset (P := Part.failure) ((State.checkTable_within).snd h1).mono (Part.subset_of_bits hQ)

theorem State.copyBelow_within {k e runBase m} {s : State} : s.Within Part.tables (State.copyBelow k e runBase m s).2.2 := by
  unfold State.copyBelow
  split
  · exact .refl
  · split
    · exact .refl
    · refine .chain (.ite_snd₂ (State.unlease_within).mono (.pair_snd₂ ((State.updRow_within).after (State.unlease_within).mono))) ?_
      refine .foldl_snd₂ (fun _ _ => ?_) ((State.lease_within).after (State.trickLease_within).mono)
      split
      · exact .refl
      · exact (State.copyPosition_within).mono

theorem State.noteCopied_within {k e} {s : State} : s.Within [.serving] (State.noteCopied k e s) :=
  .ite (State.updHand_within).mono .refl

theorem State.writeRun_within {k first slots m} {s : State} : s.Within Part.tables (State.writeRun k first slots m s).2.2 := by
  unfold State.writeRun
  split
  · exact .refl
  · dsimp only
    split
    · next h1 => exact .pair_snd₂ (State.Within.snd₂ (.ite_snd₂ (State.copyBelow_within).mono .refl) h1)
    · next h1 =>
        split
        · exact .pair_snd₂ (State.Within.snd₂ (.ite_snd₂ (State.copyBelow_within).mono .refl) h1)
        · split
          · next h2 =>
              refine .pair_snd₂ ?_
              refine State.Within.snd₂ ?_ h2
              refine .foldl_snd₂ (fun _ _ => ?_) ((State.trickLease_within).after (State.Within.snd₂ (.ite_snd₂ (State.copyBelow_within).mono
                  .refl) h1))
              split
              · exact .refl
              · exact (State.writePosition_within).mono
          · next h2 =>
              refine .pair_snd₂ ?_
              refine (State.noteCopied_within).after ?_
              refine (State.updRow_within).after ?_
              refine State.Within.snd₂ ?_ h2
              refine .foldl_snd₂ (fun _ _ => ?_) ((State.trickLease_within).after (State.Within.snd₂ (.ite_snd₂ (State.copyBelow_within).mono
                  .refl) h1))
              split
              · exact .refl
              · exact (State.writePosition_within).mono

theorem State.readKitty_within {k l} {s : State} : s.Within (Part.reporting [.memory]) (State.readKitty k l s).2.2 := by
  obtain ⟨self, hself⟩ := exists_eq' (a' := @State.readKitty)
  obtain ⟨hbmRead', hhbmRead⟩ := exists_eq' (a' := @State.hbmRead)
  have whbmRead := @State.hbmRead_within
  rw [hself]
  delta State.readKitty State.readKitty._f at hself
  rw [hhbmRead] at whbmRead hself
  subst hself
  induction l generalizing s with
  | nil => exact .refl
  | cons _ _ ih =>
    dsimp only [List.brecOn, List.brecOn.go] at ih ⊢
    split
    · next h1 => exact .pair_snd₂ ((whbmRead.snd₂ h1).mono)
    · next h1 => exact ih.after ((whbmRead.snd₂ h1).mono)

theorem State.flushSlice_within {k} {s : State} : s.Within Part.tables (State.flushSlice k s).2.2 := by
  unfold State.flushSlice
  refine .ite_snd₂ .refl ?_
  dsimp only
  split
  · next h1 => exact .pair_snd₂ (((State.readKitty_within).snd₂ h1).mono)
  · next h1 =>
      split
      · next h2 => exact .pair_snd₂ (((State.writeRun_within).snd₂ h2).after (((State.readKitty_within).snd₂ h1).mono))
      · next h2 => exact .pair_snd₂ ((State.updHand_within).after (((State.writeRun_within).snd₂ h2).after (((State.readKitty_within).snd₂ h1).mono)))

theorem State.writeKitty_within {k j l} {s : State} : s.Within (Part.reporting [.memory, .mem]) (State.writeKitty k j l s).2 := by
  obtain ⟨self, hself⟩ := exists_eq' (a' := @State.writeKitty)
  obtain ⟨hbmWrite', hhbmWrite⟩ := exists_eq' (a' := @State.hbmWrite)
  have whbmWrite := @State.hbmWrite_within
  rw [hself]
  delta State.writeKitty State.writeKitty._f at hself
  rw [hhbmWrite] at whbmWrite hself
  subst hself
  induction l generalizing j s with
  | nil => exact .refl
  | cons _ _ ih =>
    dsimp only [List.brecOn, List.brecOn.go] at ih ⊢
    split
    · next h1 => exact .pair_snd ((whbmWrite.snd h1).mono)
    · next h1 => exact ih.after ((whbmWrite.snd h1).mono)

theorem State.noteWritten_within {k first count} {s : State} : s.Within [.serving] (State.noteWritten k first count s) :=
  (State.updHand_within).mono

theorem State.kvAppend_within {n q k first count src} {s : State} : s.Within Part.failure (State.kvAppend n q k first count src s) := by
  unfold State.kvAppend
  refine .ite (State.rejectDescriptor_within).mono ?_
  refine .ite (State.bumpDone_within).mono ?_
  refine .withTable (fun _ _ => ?_) .refl
  split
  · next h1 => exact (State.failOnCore_within).after ((State.raise_within).after (((State.flushSlice_within).snd₂ h1).mono))
  · next h1 =>
      refine .useStore (fun _ _ => ?_) ((State.raise_within).after (((State.flushSlice_within).snd₂ h1).mono))
      split
      · next h2 => exact (State.failOnCore_within).after (((State.writeKitty_within).snd h2).mono)
      · next h2 => exact (State.bumpDone_within).after ((State.noteWritten_within).after ((State.snoop_within).after
            (((State.writeKitty_within).snd h2).mono)))

theorem State.kvDirect_within {n q k first count src} {s : State} : s.Within Part.failure (State.kvDirect n q k first count src s) := by
  unfold State.kvDirect
  refine .ite (State.rejectDescriptor_within).mono ?_
  refine .ite (State.bumpDone_within).mono ?_
  refine .withTable (fun _ _ => ?_) .refl
  refine .useStore (fun _ _ => ?_) .refl
  split
  · next h1 => exact (State.failOnCore_within).after ((State.raise_within).after (((State.writeRun_within).snd₂ h1).mono))
  · next h1 => exact (State.bumpDone_within).after ((State.noteWritten_within).after ((State.snoop_within).after ((State.raise_within).after
        (((State.writeRun_within).snd₂ h1).mono))))

theorem State.kvWrite_within {n q op words} {s : State} : s.Within Part.failure (State.kvWrite n q op words s) := by
  unfold State.kvWrite
  dsimp only
  split
  · exact (State.rejectDescriptor_within).mono
  · exact .ite (State.rejectDescriptor_within).mono (.ite (State.kvAppend_within).mono (State.kvDirect_within).mono)

theorem State.readVector_within {k head value src} {s : State} : s.Within Part.tables (State.readVector k head value src s).2.2 := by
  conv in @State.readVector => delta State.readVector
  obtain ⟨hbmRead', hhbmRead⟩ := exists_eq' (a' := @State.hbmRead)
  have whbmRead := @State.hbmRead_within
  rw [hhbmRead] at whbmRead ⊢
  dsimp only
  split
  · exact whbmRead.mono
  · exact whbmRead.mono
  · split
    · next h1 => exact .pair_snd₂ ((whbmRead.snd₂ h1).after (State.trickLease_within).mono)
    · next h1 =>
        refine .ite_snd₂ (.pair_snd₂ ((whbmRead.snd₂ h1).after (State.trickLease_within).mono)) ?_
        split
        · next h2 => exact .pair_snd₂ ((whbmRead.snd₂ h2).after ((whbmRead.snd₂ h1).after (State.trickLease_within).mono))
        · next h2 => exact .pair_snd₂ ((whbmRead.snd₂ h2).after ((whbmRead.snd₂ h1).after (State.trickLease_within).mono))

theorem State.readBlock_within {k head l} {s : State} : s.Within Part.tables (State.readBlock k head l s).2.2 := by
  induction l generalizing s with
  | nil => exact .refl
  | cons x t ih =>
    obtain ⟨j, b⟩ := x
    cases b with
    | false => exact ih
    | true =>
      rw [State.readBlock]
      split
      · exact ih
      · split
        · next h1 => exact (State.readVector_within).snd₂ h1
        · next h1 =>
          split
          · next h2 => exact ((State.readVector_within).snd₂ h2).chain ((State.readVector_within).snd₂ h1)
          · next h2 => exact ih.chain (((State.readVector_within).snd₂ h2).chain ((State.readVector_within).snd₂ h1))

theorem State.gatherBlocks_within {k g tags window bidir l x1} {s : State} : s.Within Part.tables
    (State.gatherBlocks k g tags window bidir l x1 s).2 := by
  induction l generalizing x1 s with
  | nil => exact .refl
  | cons _ _ ih =>
    rw [State.gatherBlocks]
    refine .ite_snd (ih.mono) ?_
    refine .ite_snd .refl ?_
    split
    · next h1 => exact .pair_snd (((State.readBlock_within).snd₂ h1).mono)
    · next h1 => exact .ite_snd .refl (ih.after (((State.readBlock_within).snd₂ h1).mono))

theorem State.kvGather_within {n q words} {s : State} : s.Within Part.failure (State.kvGather n q words s) := by
  unfold State.kvGather
  dsimp only
  split
  · exact (State.rejectDescriptor_within).mono
  · refine .ite (State.rejectDescriptor_within).mono ?_
    refine .withTable (fun _ _ => ?_) .refl
    split
    · next h1 => exact (State.failOnCore_within).after (((State.gatherBlocks_within).snd h1).mono)
    · next h1 => exact .elseStep ((State.bumpDone_within).after (State.snoop_within).mono) ((State.putStore_within).after
          ((State.raise_within).after (((State.gatherBlocks_within).snd h1).mono)))

end Sys2Proof.Machine
end

section
/-! PROOFS. What the operations of Machine/Streams.lean may reach. -/
namespace Sys2Proof.Machine

theorem State.cvRun_within {n q op d} {s : State} : s.Within Part.failure (State.cvRun n q op d s) := by
  unfold State.cvRun
  split
  · exact (State.cvAttach_within).mono
  · exact (State.cvDetach_within).mono
  · exact (State.cvSave_within).mono
  · exact (State.cvRestore_within).mono
  · exact (State.cvFeed_within).mono

theorem State.startItem_within {n q i} {s : State} : s.Within Part.failure (State.startItem n q i s) := by
  unfold State.startItem
  split
  · exact (State.streamMove_within).mono
  · exact (State.tapWalk_within).mono
  · exact (State.cvRun_within).mono
  · exact (State.featureMap_within).mono
  · exact (State.tagPost_within).mono
  · exact (State.kvWrite_within).mono
  · exact (State.kvGather_within).mono
  · exact (State.issueCollective_within).mono

theorem State.runHeld_within {n q l} {s : State} : s.Within Part.failure (State.runHeld n q l s) := by
  induction l generalizing s with
  | zero => exact .refl
  | succ l ih =>
    rw [State.runHeld]
    split
    · exact .refl
    · exact .ite (ih.after ((State.startItem_within).after (State.updCore_within).mono)) .refl

theorem State.runQueue_within {n q} {s : State} : s.Within Part.failure (State.runQueue n q s) :=
  (State.runHeld_within).mono

theorem State.issue_within {n q i} {s : State} : s.Within Part.failure (State.issue n q i s) :=
  .ite (State.startItem_within).mono (State.updCore_within).mono

theorem onQueue_answers {n q i} {s : State} : s.Answers Part.failure (onQueue n q i s) :=
  .onBody (fun _ => (State.issue_within).mono) .refl

theorem onQueueWaiting_answers {n q i w us} {s : State} : s.Answers Part.failure (onQueueWaiting n q i w us s) :=
  .onBodyWaiting (fun _ => (State.issue_within).mono) (State.upset_within).mono

theorem execStreamMove_answers {core queue d w us} {s : State} : s.Answers Part.failure (execStreamMove core queue d w us s) :=
  (onQueueWaiting_answers).mono

theorem execStreamMoveComplete_answers {core queue x} {s : State} : s.Answers Part.failure (execStreamMoveComplete core queue x s) :=
  .next (.ite ((State.runQueue_within).after ((State.streamComplete_within).after ((State.waited_within).after (State.upset_within).mono)))
      (State.upset_within).mono)

theorem execTapWalker_answers {core queue words x} {s : State} : s.Answers Part.failure (execTapWalker core queue words x s) :=
  (onQueueWaiting_answers).mono

theorem execCvAttach_answers {core queue d} {s : State} : s.Answers Part.failure (execCvAttach core queue d s) :=
  (onQueue_answers).mono

theorem execCvDetach_answers {core queue d} {s : State} : s.Answers Part.failure (execCvDetach core queue d s) :=
  (onQueue_answers).mono

theorem execCvSave_answers {core queue d x} {s : State} : s.Answers Part.failure (execCvSave core queue d x s) :=
  (onQueueWaiting_answers).mono

theorem execCvRestore_answers {core queue d x} {s : State} : s.Answers Part.failure (execCvRestore core queue d x s) :=
  (onQueueWaiting_answers).mono

theorem execCvFeed_answers {core queue d x} {s : State} : s.Answers Part.failure (execCvFeed core queue d x s) :=
  (onQueueWaiting_answers).mono

theorem execFeatureMapSpill_answers {core queue words x} {s : State} : s.Answers Part.failure (execFeatureMapSpill core queue words x s) :=
  (onQueueWaiting_answers).mono

theorem execFeatureMapFill_answers {core queue words x} {s : State} : s.Answers Part.failure (execFeatureMapFill core queue words x s) :=
  (onQueueWaiting_answers).mono

theorem execTagPostDescriptor_answers {core queue words} {s : State} : s.Answers Part.failure (execTagPostDescriptor core queue words s) :=
  (onQueue_answers).mono

theorem execKvAppend_answers {core queue words x} {s : State} : s.Answers Part.failure (execKvAppend core queue words x s) :=
  (onQueueWaiting_answers).mono

theorem execKvDirect_answers {core queue words x} {s : State} : s.Answers Part.failure (execKvDirect core queue words x s) :=
  (onQueueWaiting_answers).mono

theorem execKvGather_answers {core queue words x} {s : State} : s.Answers Part.failure (execKvGather core queue words x s) :=
  (onQueueWaiting_answers).mono

theorem execAllReduce_answers {core queue d} {s : State} : s.Answers Part.failure (execAllReduce core queue d s) :=
  (onQueue_answers).mono

theorem execAllGather_answers {core queue d} {s : State} : s.Answers Part.failure (execAllGather core queue d s) :=
  (onQueue_answers).mono

theorem execReduceScatter_answers {core queue d} {s : State} : s.Answers Part.failure (execReduceScatter core queue d s) :=
  (onQueue_answers).mono

theorem execCollSend_answers {core queue d} {s : State} : s.Answers Part.failure (execCollSend core queue d s) :=
  (onQueue_answers).mono

theorem execCollRecv_answers {core queue d} {s : State} : s.Answers Part.failure (execCollRecv core queue d s) :=
  (onQueue_answers).mono

theorem execCollectiveComplete_answers {p trick coll upsets} {s : State} : s.Answers Part.failure (execCollectiveComplete p trick coll upsets s) := by
  unfold execCollectiveComplete
  dsimp only
  split
  · exact .next (.ite ((State.runQueue_within).after ((State.completeCollective_within).after (State.upset_within).mono)) (State.upset_within).mono)
  · exact .next (State.upset_within).mono

end Sys2Proof.Machine
end

section
/-! PROOFS. What the operations of Machine/Step.lean may reach. -/
namespace Sys2Proof.Machine

theorem State.tick_within {s : State} : s.Within [.cores, .power, .now] (State.tick s) :=
  (State.passTime_within).mono

end Sys2Proof.Machine
end

section
/-! PROOFS. What every command and every step keep. -/
namespace Sys2Proof.Machine

/-- Every command answers a next state, and reaches the parts that `touches` gives it. -/
theorem exec_answers (c : Instr) (s : State) : s.Answers (touches c) (exec c s) := by
  cases c with
  | registerWrite => exact execRegisterWrite_answers
  | arrayOp => exact execArrayOp_answers
  | arrayResultLand => exact execArrayResultLand_answers
  | weightTileLoad => exact execWeightTileLoad_answers
  | arraySwap => exact execArraySwap_answers
  | outputStage => exact execOutputStage_answers
  | vectorArithmetic => exact execVectorArithmetic_answers
  | vectorConvert => exact execVectorConvert_answers
  | mxfp4BlockConvert => exact execMxfp4BlockConvert_answers
  | vectorCompare => exact execVectorCompare_answers
  | vectorSelect => exact execVectorSelect_answers
  | vectorReduce => exact execVectorReduce_answers
  | vectorPermute => exact execVectorPermute_answers
  | vectorLoadStore => exact execVectorLoadStore_answers
  | sfuOp => exact execSfuOp_answers
  | sfuResult => exact execSfuResult_answers
  | controlWait => exact execControlWait_answers
  | halt => exact execHalt_answers
  | streamMove => exact execStreamMove_answers
  | streamMoveComplete => exact execStreamMoveComplete_answers
  | tapWalker => exact execTapWalker_answers
  | coreFault => exact execCoreFault_answers
  | sqTailWrite => exact execSqTailWrite_answers
  | cqHeadWrite => exact execCqHeadWrite_answers
  | ringEnableWrite => exact execRingEnableWrite_answers
  | submissionFetch => exact execSubmissionFetch_answers
  | graphAccept => exact execGraphAccept_answers
  | dealerDecision => exact execDealerDecision_answers
  | domainPowerUpComplete => exact execDomainPowerUpComplete_answers
  | powerGoodTimeout => exact execPowerGoodTimeout_answers
  | taskLoadComplete => exact execTaskLoadComplete_answers
  | taskDone => exact execTaskDone_answers
  | taskTimeout => exact execTaskTimeout_answers
  | abortSeq => exact execAbortSeq_answers
  | windowBoundary => exact execWindowBoundary_answers
  | remapComplete => exact execRemapComplete_answers
  | scrubRead => exact execScrubRead_answers
  | hbmChannelFailed => exact execHbmChannelFailed_answers
  | bar4Read => exact execBar4Read_answers
  | bar4Write => exact execBar4Write_answers
  | winBaseWrite => exact execWinBaseWrite_answers
  | requestFetch => exact execRequestFetch_answers
  | rqTailWrite => exact execRqTailWrite_answers
  | scqHeadWrite => exact execScqHeadWrite_answers
  | submit => exact execSubmit_answers
  | cancel => exact execCancel_answers
  | park => exact execPark_answers
  | resume => exact execResume_answers
  | trickGraphComplete => exact execTrickGraphComplete_answers
  | idleBoundary => exact execIdleBoundary_answers
  | heldDeadlinePass => exact execHeldDeadlinePass_answers
  | holdMaxPass => exact execHoldMaxPass_answers
  | groupTimeout => exact execGroupTimeout_answers
  | followerTrickComplete => exact execFollowerTrickComplete_answers
  | parkWriteComplete => exact execParkWriteComplete_answers
  | resumeReadComplete => exact execResumeReadComplete_answers
  | kvAppend => exact execKvAppend_answers
  | kvDirect => exact execKvDirect_answers
  | kvGather => exact execKvGather_answers
  | demotionReadComplete => exact execDemotionReadComplete_answers
  | extentCommit => exact execExtentCommit_answers
  | promotionReadComplete => exact execPromotionReadComplete_answers
  | prefixReportSend => exact execPrefixReportSend_answers
  | tlnCmdTailWrite => exact execTlnCmdTailWrite_answers
  | imageWrite => exact execImageWrite_answers
  | slotLoadComplete => exact execSlotLoadComplete_answers
  | parkExport => exact execParkExport_answers
  | parkImport => exact execParkImport_answers
  | talonCmdComplete => exact execTalonCmdComplete_answers
  | flashProgramFail => exact execFlashProgramFail_answers
  | flashEraseFail => exact execFlashEraseFail_answers
  | talonChannelFail => exact execTalonChannelFail_answers
  | garbageCollect => exact execGarbageCollect_answers
  | staticWearLevel => exact execStaticWearLevel_answers
  | retentionAgeRefresh => exact execRetentionAgeRefresh_answers
  | readDisturbRelocate => exact execReadDisturbRelocate_answers
  | edgeIngest => exact execEdgeIngest_answers
  | edgeConv => exact execEdgeConv_answers
  | edgeTconv => exact execEdgeTconv_answers
  | eqTailWrite => exact execEqTailWrite_answers
  | edgeJobComplete => exact execEdgeJobComplete_answers
  | reckonerDetect => exact execReckonerDetect_answers
  | reckonerArgmax => exact execReckonerArgmax_answers
  | rkqTailWrite => exact execRkqTailWrite_answers
  | reckonerJobComplete => exact execReckonerJobComplete_answers
  | featureMapSpill => exact execFeatureMapSpill_answers
  | featureMapFill => exact execFeatureMapFill_answers
  | tagPostDescriptor => exact execTagPostDescriptor_answers
  | tagPostPresent => exact execTagPostPresent_answers
  | tagPostFailed => exact execTagPostFailed_answers
  | tagReturnAbsent => exact execTagReturnAbsent_answers
  | pipelineFrameStart => exact execPipelineFrameStart_answers
  | edgeEngineFail => exact execEdgeEngineFail_answers
  | reckonerFail => exact execReckonerFail_answers
  | msqTailWrite => exact execMsqTailWrite_answers
  | mcqHeadWrite => exact execMcqHeadWrite_answers
  | mediaCmdFetch => exact execMediaCmdFetch_answers
  | openDec => exact execOpenDec_answers
  | openEnc => exact execOpenEnc_answers
  | close => exact execClose_answers
  | decode => exact execDecode_answers
  | encode => exact execEncode_answers
  | release => exact execRelease_answers
  | rcUpdate => exact execRcUpdate_answers
  | outConsumed => exact execOutConsumed_answers
  | pictureDecodeStart => exact execPictureDecodeStart_answers
  | blockRowDecoded => exact execBlockRowDecoded_answers
  | pictureDecodeComplete => exact execPictureDecodeComplete_answers
  | pictureEncodeStart => exact execPictureEncodeStart_answers
  | encodeRowStart => exact execEncodeRowStart_answers
  | sliceWritten => exact execSliceWritten_answers
  | pictureEncodeComplete => exact execPictureEncodeComplete_answers
  | pipePowerDown => exact execPipePowerDown_answers
  | pipeFail => exact execPipeFail_answers
  | pcieLinkUp => exact execPcieLinkUp_answers
  | flrVf => exact execFlrVf_answers
  | msixUnmask => exact execMsixUnmask_answers
  | busMasterEnableSet => exact execBusMasterEnableSet_answers
  | hostReadError => exact execHostReadError_answers
  | hostReadTimeout => exact execHostReadTimeout_answers
  | peerWaitTimeout => exact execPeerWaitTimeout_answers
  | linkRetrain => exact execLinkRetrain_answers
  | flitReceive => exact execFlitReceive_answers
  | linkNakReceive => exact execLinkNakReceive_answers
  | linkAckReceive => exact execLinkAckReceive_answers
  | trickPlanReceive => exact execTrickPlanReceive_answers
  | trickReportReceive => exact execTrickReportReceive_answers
  | prefixReportReceive => exact execPrefixReportReceive_answers
  | heartbeatReceive => exact execHeartbeatReceive_answers
  | fencedReceive => exact execFencedReceive_answers
  | controlAckReceive => exact execControlAckReceive_answers
  | controlRetransmit => exact execControlRetransmit_answers
  | heartbeatSend => exact execHeartbeatSend_answers
  | fenceTimeout => exact execFenceTimeout_answers
  | allReduce => exact execAllReduce_answers
  | allGather => exact execAllGather_answers
  | reduceScatter => exact execReduceScatter_answers
  | collSend => exact execCollSend_answers
  | collRecv => exact execCollRecv_answers
  | collectiveInstanceStart => exact execCollectiveInstanceStart_answers
  | collectiveDataReceive => exact execCollectiveDataReceive_answers
  | collectiveComplete => exact execCollectiveComplete_answers
  | collTimeout => exact execCollTimeout_answers
  | measurementTick => exact execMeasurementTick_answers
  | ballastTaskEnd => exact execBallastTaskEnd_answers
  | sensorSample => exact execSensorSample_answers
  | thermalThrottleStep => exact execThermalThrottleStep_answers
  | thermalRiseStep => exact execThermalRiseStep_answers
  | coreIdleTimeout => exact execCoreIdleTimeout_answers
  | clusterIdleTimeout => exact execClusterIdleTimeout_answers
  | hbmIdleTimeout => exact execHbmIdleTimeout_answers
  | engineIdleTimeout => exact execEngineIdleTimeout_answers
  | talonChannelIdleTimeout => exact execTalonChannelIdleTimeout_answers
  | hostCapWrite => exact execHostCapWrite_answers
  | resumePower => exact execResumePower_answers
  | resetNRelease => exact execResetNRelease_answers
  | stageTimeout => exact execStageTimeout_answers
  | moduleReset => exact execModuleReset_answers
  | rstCoreReset => exact execRstCoreReset_answers
  | rstClusterReset => exact execRstClusterReset_answers
  | rstPartitionReset => exact execRstPartitionReset_answers
  | rstModuleReset => exact execRstModuleReset_answers
  | rstCoreFold => exact execRstCoreFold_answers
  | rstClusterFold => exact execRstClusterFold_answers
  | drainComplete => exact execDrainComplete_answers
  | drainTimeout => exact execDrainTimeout_answers
  | cvAttach => exact execCvAttach_answers
  | cvDetach => exact execCvDetach_answers
  | cvSave => exact execCvSave_answers
  | cvRestore => exact execCvRestore_answers
  | cvFeed => exact execCvFeed_answers
  | hostCvAttach => exact execHostCvAttach_answers
  | hostCvDetach => exact execHostCvDetach_answers
  | sweepComplete => exact execSweepComplete_answers
  | roMeasure => exact execRoMeasure_answers
  | holdupMeasure => exact execHoldupMeasure_answers
  | hltAlertAck => exact execHltAlertAck_answers
  | updatePiece => exact execUpdatePiece_answers
  | activate => exact execActivate_answers
  | activationDrainComplete => exact execActivationDrainComplete_answers
  | updConfirmWrite => exact execUpdConfirmWrite_answers
  | showdownDeadline => exact execShowdownDeadline_answers
  | inputPowerLoss => exact execInputPowerLoss_answers
  | inputPowerApplied => exact execInputPowerApplied_answers
  | auxPowerApplied => exact execAuxPowerApplied_answers
  | latchLockedChange => exact execLatchLockedChange_answers
  | sidebandMessageReceive => exact execSidebandMessageReceive_answers
  | setdasa => exact execSetdasa_answers
  | entdaa => exact execEntdaa_answers
  | setEndpointId => exact execSetEndpointId_answers
  | getMctpVersionSupport => exact execGetMctpVersionSupport_answers
  | getVendorMessageSupport => exact execGetVendorMessageSupport_answers
  | getPldmVersion => exact execGetPldmVersion_answers
  | getPldmCommands => exact execGetPldmCommands_answers
  | getSensorReading => exact execGetSensorReading_answers
  | getStateSensorReadings => exact execGetStateSensorReadings_answers
  | getPdr => exact execGetPdr_answers
  | transitDieFabricFailure => exact execTransitDieFabricFailure_answers
  | auxPowerLoss => exact execAuxPowerLoss_answers
  | peerTrainingSignal => exact execPeerTrainingSignal_answers
  | busMasterEnableClear => exact execBusMasterEnableClear_answers
  | linkDomainFailure => exact execLinkDomainFailure_answers
  | imageCreate => exact execImageCreate_answers
  | imageSeal => exact execImageSeal_answers
  | imageDelete => exact execImageDelete_answers
  | slotLoad => exact execSlotLoad_answers
  | slotUnload => exact execSlotUnload_answers
  | parkDelete => exact execParkDelete_answers
  | prefixDrop => exact execPrefixDrop_answers
  | shutdown => exact execShutdown_answers
  | wearCreditTick => exact execWearCreditTick_answers
  | pcieLinkLoss => exact execPcieLinkLoss_answers
  | flrPf0 => exact execFlrPf0_answers
  | poisonedWriteRx => exact execPoisonedWriteRx_answers
  | capControllerStep => exact execCapControllerStep_answers
  | railFault => exact execRailFault_answers
  | clampNAssert => exact execClampNAssert_answers
  | clampNRelease => exact execClampNRelease_answers
  | dormantEntry => exact execDormantEntry_answers
  | rcTrim => exact execRcTrim_answers
  | setCap => exact execSetCap_answers
  | setAnte => exact execSetAnte_answers
  | setShares => exact execSetShares_answers
  | setClampLevel => exact execSetClampLevel_answers
  | standby => exact execStandby_answers
  | powerReport => exact execPowerReport_answers
  | resetNAssert => exact execResetNAssert_answers
  | getStage => exact execGetStage_answers
  | stageRecord => exact execStageRecord_answers
  | clearStaged => exact execClearStaged_answers
  | partitionReset => exact execPartitionReset_answers
  | fold => exact execFold_answers
  | sweepDue => exact execSweepDue_answers
  | ledgerCheckpoint => exact execLedgerCheckpoint_answers
  | dailyForecast => exact execDailyForecast_answers
  | healthSummary => exact execHealthSummary_answers
  | healthAck => exact execHealthAck_answers
  | ledgerRead => exact execLedgerRead_answers
  | forecastRead => exact execForecastRead_answers
  | hltPartValueRead => exact execHltPartValueRead_answers
  | mgtTimeRead => exact execMgtTimeRead_answers
  | updateBegin => exact execUpdateBegin_answers
  | updateStatus => exact execUpdateStatus_answers
  | setConditions => exact execSetConditions_answers
  | showdownConfirm => exact execShowdownConfirm_answers
  | updateAbandon => exact execUpdateAbandon_answers
  | attest => exact execAttest_answers
  | getIdentity => exact execGetIdentity_answers
  | presenceLoss => exact execPresenceLoss_answers
  | getEndpointId => exact execGetEndpointId_answers
  | getMessageTypeSupport => exact execGetMessageTypeSupport_answers
  | getTid => exact execGetTid_answers
  | getPldmTypes => exact execGetPldmTypes_answers
  | getPdrRepositoryInfo => exact execGetPdrRepositoryInfo_answers
  | presenceReturn => exact execPresenceReturn_answers

theorem exec_within {c : Instr} {s t : State} (h : exec c s = .next t) : s.Within (touches c) t := by
  obtain ⟨u, hu, hw⟩ := exec_answers c s
  obtain rfl : u = t := Host.Outcome.next.inj (hu.symm.trans h)
  exact hw

/-! ### What a step keeps -/

theorem step_pending {s t : State} (h : step s = .next t) : t.pending = s.pending.tail := by
  cases hs : s.pending with
  | nil =>
    rw [step_idle s hs] at h
    obtain rfl := Host.Outcome.next.inj h
    rw [State.tick_within.pending, hs, List.tail_nil]
  | cons c rest =>
    rw [step_front c rest s hs] at h
    rw [(exec_within h).pending, List.tail_cons]

theorem State.wf_takePending (s : State) (rest : List Instr) : Memory.wf { s with pending := rest } = Memory.wf s := rfl

theorem step_wf {s t : State} (h : step s = .next t) (hs : Memory.wf s = true) : Memory.wf t = true := by
  cases hp : s.pending with
  | nil =>
    rw [step_idle s hp] at h
    obtain rfl := Host.Outcome.next.inj h
    exact State.tick_within.wf hs
  | cons c rest =>
    rw [step_front c rest s hp] at h
    exact (exec_within h).wf (s.wf_takePending rest ▸ hs)

theorem State.queueWf_of_tail {s t : State} (h : t.pending = s.pending.tail) (hs : s.queueWf = true) : t.queueWf = true := by
  simp only [State.queueWf, List.all_eq_true, h] at hs ⊢
  exact fun c hc => hs c (List.mem_of_mem_tail hc)

theorem State.safe_iff (s : State) : s.safe = true ↔ Memory.wf s = true ∧ s.queueWf = true := by simp [State.safe]

/-- Settles O41: every operation of the model keeps the canonical form of the memories, and the queue only loses its front. -/
theorem stepKeepsSafe : Obligations.StepKeepsSafe := by
  intro s t hs h
  obtain ⟨hwf, hqueue⟩ := s.safe_iff.mp hs
  exact t.safe_iff.mpr ⟨step_wf h hwf, State.queueWf_of_tail (step_pending h) hqueue⟩

/-- Settles O38: no arm of `exec` faults or refuses. -/
theorem everyCommandAnswers : Obligations.EveryCommandAnswers := by
  intro c s
  obtain ⟨t, ht, -⟩ := exec_answers c s
  exact ⟨t, ht⟩

/-- Settles O40. -/
theorem stepTakesOneCommand : Obligations.StepTakesOneCommand := fun _ _ => step_pending

/-- Settles O56: a command reaches what `touches` gives it. -/
theorem registerCommandsFrame : Obligations.RegisterCommandsFrame := fun _ _ _ _ h => (exec_within h).frame

/-- Settles O58: a command reaches what `touches` gives it. -/
theorem engineCommandsFrame : Obligations.EngineCommandsFrame := fun _ _ _ _ _ h => (exec_within h).frame

/-- Settles O59: a command reaches what `touches` gives it. -/
theorem workCommandsFrame : Obligations.WorkCommandsFrame := fun _ _ _ _ h => (exec_within h).frame

/-! ### A command of one core leaves the others -/

section
variable {m n : Nat} (h : m ≠ n) {s : State}
include h

theorem State.coreAt_updCore_other (f : CoreState → CoreState) : (s.updCore n f).coreAt m = s.coreAt m :=
  congrArg (Option.getD · CoreState.fresh) (mapGet_mapSet_other h _ _)

theorem State.coreAt_putVreg_other (r v : Nat) : (s.putVreg n r v).coreAt m = s.coreAt m := coreAt_updCore_other h _

theorem State.coreAt_raise_other (fl : Nat) : (s.raise n fl).coreAt m = s.coreAt m := coreAt_updCore_other h _

theorem State.coreAt_arraySwap_other (k : Nat) : ((s.stalled n k).swapTiles n).coreAt m = s.coreAt m :=
  (coreAt_updCore_other h _).trans (coreAt_updCore_other h _)

theorem State.coreAt_vectorCompare_other (bf : Bool) (p : CmpPred) (a b dst : Nat) : (s.vectorCompare n bf p a b dst).coreAt m = s.coreAt m :=
  (coreAt_putVreg_other h _ _).trans (coreAt_raise_other h _)

theorem State.coreAt_vectorReduce_other (f : LaneFmt) (op : ReduceOp) (a dst : Nat) : (s.vectorReduce n f op a dst).coreAt m = s.coreAt m :=
  (coreAt_putVreg_other h _ _).trans (coreAt_raise_other h _)

theorem State.coreAt_sfuOp_other (fn : SfuFn) (bf : Bool) (a g dst : Nat) : (s.sfuOp n fn bf a g dst).coreAt m = s.coreAt m := by
  unfold State.sfuOp
  exact coreAt_updCore_other h _

theorem State.coreAt_sfuReturn_other : (s.sfuReturn n).coreAt m = s.coreAt m := by
  unfold State.sfuReturn
  split
  · rfl
  · exact (coreAt_putVreg_other h _ _).trans (coreAt_updCore_other h _)

end

theorem coreAt_of_onBody {core n : Nat} {f : State → State} {s t : State} (hf : (f s).coreAt n = s.coreAt n) (h : onBody core f s = .next t) :
    t.coreAt n = s.coreAt n := by
  obtain rfl := Host.Outcome.next.inj h
  split
  · exact hf
  · rfl

/-- Settles O57: the eight commands write through the update of their own core. -/
theorem coreOnlyCommandsFrame : Obligations.CoreOnlyCommandsFrame := by
  intro s t c core hc h
  have hframe := (exec_within h).frame
  unfold coreOnly at hc
  split at hc
  case h_9 => cases hc
  all_goals
    obtain rfl := Option.some.inj hc
    refine ⟨fun n hn => ?_, fun p hp _ => hframe p (by rw [touches]; simpa using hp)⟩
  · exact coreAt_of_onBody (f := fun u => (u.stalled _ _).swapTiles _) (State.coreAt_arraySwap_other hn _) h
  · exact coreAt_of_onBody (State.coreAt_vectorCompare_other hn ..) h
  · exact coreAt_of_onBody (State.coreAt_putVreg_other hn ..) h
  · exact coreAt_of_onBody (State.coreAt_vectorReduce_other hn ..) h
  · exact coreAt_of_onBody (State.coreAt_putVreg_other hn ..) h
  · exact coreAt_of_onBody (State.coreAt_sfuOp_other hn ..) h
  · obtain rfl := Host.Outcome.next.inj h
    split
    · exact State.coreAt_sfuReturn_other hn
    · rfl
  · exact coreAt_of_onBody (State.coreAt_updCore_other hn _) h

end Sys2Proof.Machine
end

section
/-! PROOFS. The timebase. -/
namespace Sys2Proof.Machine

/-- The module as reset leaves it, with RESET_N asserted and without its 12 V auxiliary rail, 5 ns after its timebase began. -/
def State.heldOnBus : State := { State.reset with now := 5, side := { State.reset.side with aux12 := false } }

/-- A bring-up in whose stage 0 the 48 V bus is lost. -/
def Boot.cutInStage0 : Boot := { (default : Boot) with late := { (default : LateBoot) with loss := some ⟨0, true, 0⟩ } }

theorem exec_resetNRelease_cutInStage0 : ∃ t, exec (.resetNRelease Boot.cutInStage0 []) State.heldOnBus = .next t ∧ t.now = 0 :=
  ⟨_, rfl, rfl⟩

/-- Refutes O42: the release of RESET_N begins a bring-up, and where the 48 V bus is lost in one of its stages while the auxiliary rail is absent, both
rails are gone and the timebase restarts, though the command is neither loss of power. -/
theorem not_timeNeverRunsBack : ¬ Obligations.TimeNeverRunsBack := by
  unfold Obligations.TimeNeverRunsBack
  intro h
  obtain ⟨t, hexec, hnow⟩ := exec_resetNRelease_cutInStage0
  rcases h State.heldOnBus t (.resetNRelease Boot.cutInStage0 []) hexec with hle | ⟨-, mv, hc | hc⟩
  · rw [hnow] at hle
    exact absurd hle (by decide)
  · cases hc
  · cases hc

end Sys2Proof.Machine
end

section
/-! PROOFS. The state that reset leaves, what a step runs, and memory read back. -/
namespace Sys2Proof.Machine

/-- Settles O43, by the reads inside and outside of a run of written bytes. -/
theorem memoryReadsBack : Obligations.MemoryReadsBack := by
  unfold Obligations.MemoryReadsBack
  intro dflt m a bytes hm
  refine ⟨?_, fun k hk => cellsGet_write_outside dflt bytes m a k hk, cellsWf_write bytes a hm⟩
  refine List.ext_getElem (by simp [cellsRead]) fun i hi hb => ?_
  simp [cellsRead, cellsGet_write_inside dflt bytes m a i hb]

/-- Settles O39, by evaluation. -/
theorem resetIsSafe : Obligations.ResetIsSafe := by
  unfold Obligations.ResetIsSafe
  decide

/-- Settles O37, by evaluation; no register is stored, so each reads its reset word. -/
theorem resetLeavesResetWords : Obligations.ResetLeavesResetWords := by
  unfold Obligations.ResetLeavesResetWords
  exact ⟨rfl, rfl, rfl, rfl, rfl, fun _ => rfl, by decide, by decide, by decide, rfl, rfl⟩

theorem mapGet_map {α β : Type} (f : Nat → α → β) (k : Nat) (m : List (Nat × α)) :
    mapGet k (m.map fun e => (e.1, f e.1 e.2)) = (mapGet k m).map (f k) := by
  induction m with
  | nil => rfl
  | cons e m ih =>
    by_cases h : e.1 = k
    · subst h; simp [mapGet]
    · simp [mapGet, h, ih]

/-- A core after ns nanoseconds. -/
def State.counted (s : State) (ns n : Nat) (c : CoreState) : CoreState := { c with cycles := c.cycles + ns * s.cycleRate (coreCluster n) }

theorem State.coreAt_tick (s : State) (n : Nat) : s.tick.coreAt n = { s.coreAt n with cycles := (s.tick.coreAt n).cycles } := by
  have h : mapGet n s.tick.cores = (mapGet n s.cores).map (s.counted 1 n) := mapGet_map (s.counted 1) n s.cores
  simp only [State.coreAt, mapGetD, h]
  cases mapGet n s.cores <;> rfl

/-- Settles O36: a tick changes the timebase, the resting time and the cycle counts. -/
theorem stepRunsFront : Obligations.StepRunsFront := by
  unfold Obligations.StepRunsFront
  intro s c rest
  refine ⟨step_front c rest s, fun h => ⟨step_idle s h, rfl, ?_, ?_, fun n => ?_⟩⟩
  · rfl
  · rfl
  · exact s.coreAt_tick n

end Sys2Proof.Machine
end

section
/-! PROOFS. Held values: what a commit point, a read and a reset do with them (R406). -/
namespace Sys2Proof.Machine

/-! ### A fold over the held values -/

/-- What a commit point makes of the registers with one held value. -/
def commitEntry (fu : Fuses) (p : Nat → Bool) (m : List (Nat × Word)) (e : Nat × (Nat × Nat)) : List (Nat × Word) :=
  if p e.1 then
    mapSet e.1 (BitVec.ofNat 32 ((((mapGet e.1 m).getD (resetWord fu e.1)).toNat &&& (0xFFFFFFFF ^^^ e.2.1)) ||| (e.2.2 &&& e.2.1))) m
  else m

theorem State.commitRS_regs (p : Nat → Bool) (s : State) : (s.commitRS p).regs = s.heldRS.foldl (commitEntry s.fuses p) s.regs := rfl

theorem mapGet_commitEntry_other {fu : Fuses} {p : Nat → Bool} {off : Nat} {e : Nat × (Nat × Nat)} (h : e.1 = off → p off = false)
    (m : List (Nat × Word)) : mapGet off (commitEntry fu p m e) = mapGet off m := by
  unfold commitEntry
  split
  · next hp => exact mapGet_mapSet_other (fun he => by simp [← he, h he.symm] at hp) _ _
  · rfl

theorem mapGet_commit_other {fu : Fuses} {p : Nat → Bool} {off : Nat} {l : List (Nat × (Nat × Nat))} (h : off ∈ l.map Prod.fst → p off = false)
    (m : List (Nat × Word)) : mapGet off (l.foldl (commitEntry fu p) m) = mapGet off m := by
  induction l generalizing m with
  | nil => rfl
  | cons e l ih =>
    rw [List.foldl_cons, ih fun hl => h (List.mem_cons_of_mem _ hl)]
    exact mapGet_commitEntry_other (fun he => h (he ▸ List.mem_cons_self)) m

theorem mapGet_commit_same {fu : Fuses} {p : Nat → Bool} {off mask value : Nat} (hp : p off = true) {l : List (Nat × (Nat × Nat))}
    (hl : mapGet off l = some (mask, value)) (hnd : (l.map Prod.fst).Nodup) (m : List (Nat × Word)) :
    mapGet off (l.foldl (commitEntry fu p) m) =
      some (BitVec.ofNat 32 ((((mapGet off m).getD (resetWord fu off)).toNat &&& (0xFFFFFFFF ^^^ mask)) ||| (value &&& mask))) := by
  induction l generalizing m with
  | nil => cases hl
  | cons e l ih =>
    obtain ⟨he, hnd⟩ := List.nodup_cons.mp hnd
    by_cases hk : e.1 = off
    · obtain ⟨k, mv⟩ := e
      obtain rfl : k = off := hk
      obtain rfl : mv = (mask, value) := by simpa [mapGet] using hl
      rw [List.foldl_cons, mapGet_commit_other fun hm => absurd hm he]
      simp [commitEntry, hp]
    · rw [List.foldl_cons, ih (by simpa [mapGet, hk] using hl) hnd, mapGet_commitEntry_other fun h => absurd h hk]

theorem State.rdN_commitRS {p : Nat → Bool} {s : State} {off mask value : Nat} (hp : p off = true) (hl : mapGet off s.heldRS = some (mask, value))
    (hnd : (s.heldRS.map Prod.fst).Nodup) (hmask : mask < 2 ^ 32) (hvalue : value &&& mask = value) :
    (s.commitRS p).rdN off = (s.rdN off &&& (0xFFFFFFFF ^^^ mask)) ||| value := by
  have hlt : (s.rdN off &&& (0xFFFFFFFF ^^^ mask)) ||| value < 2 ^ 32 :=
    Nat.or_lt_two_pow (Nat.and_lt_two_pow _ (Nat.xor_lt_two_pow (by decide) hmask)) (hvalue ▸ Nat.and_lt_two_pow _ hmask)
  have h : mapGet off (s.commitRS p).regs = some (BitVec.ofNat 32 ((s.rdN off &&& (0xFFFFFFFF ^^^ mask)) ||| (value &&& mask))) :=
    mapGet_commit_same hp hl hnd s.regs
  rw [State.rdN, State.rd, h, hvalue, Option.getD_some, BitVec.toNat_ofNat, Nat.mod_eq_of_lt hlt]

theorem State.rdN_commitRS_other {p : Nat → Bool} {s : State} {off : Nat} (hp : p off = false) : (s.commitRS p).rdN off = s.rdN off := by
  have h : mapGet off (s.commitRS p).regs = mapGet off s.regs := mapGet_commit_other (fun _ => hp) s.regs
  rw [State.rdN, State.rd, h]
  rfl

/-! ### The word that a read returns -/

/-- What a read returns for one field: the held value where one is held for it. -/
def readField (w mask held : Nat) (f : FieldSpec) : Nat := match f.access with
  | .wo => 0
  | .rs => if fieldOf f mask = 0 then fieldOf f w else fieldOf f held
  | _ => fieldOf f w

theorem readField_lt (w mask held : Nat) (f : FieldSpec) : readField w mask held f < 2 ^ fieldWidth f := by
  unfold readField
  split
  · exact Nat.two_pow_pos _
  · split <;> exact fieldOf_lt f _
  · exact fieldOf_lt f _

theorem State.readStored_eq {s : State} {off i j mask value : Nat} {r : RegSpec} (hr : regAt s.fuses off = some (r, i, j))
    (hl : mapGet off s.heldRS = some (mask, value)) :
    s.readStored off = r.fields.foldl (fun acc f => putFieldOf f (readField (s.rdN off) mask value f) acc) 0 := by
  simp only [State.readStored, hr, mapGetD, hl, Option.getD_some]
  rfl

theorem fieldOf_foldl_put_apart {g : FieldSpec → Nat} {f : FieldSpec} (hf : f.lo ≤ f.hi) {l : List FieldSpec}
    (h : ∀ k ∈ l, k.lo ≤ k.hi ∧ FieldSpec.Apart f k) (w : Nat) : fieldOf f (l.foldl (fun acc k => putFieldOf k (g k) acc) w) = fieldOf f w := by
  induction l generalizing w with
  | nil => rfl
  | cons k l ih =>
    obtain ⟨hk, hapart⟩ := h k List.mem_cons_self
    rw [List.foldl_cons, ih fun x hx => h x (List.mem_cons_of_mem _ hx), fieldOf_putFieldOf_apart hf hk hapart]

theorem fieldOf_foldl_put {g : FieldSpec → Nat} (hg : ∀ f, g f < 2 ^ fieldWidth f) {l : List FieldSpec} (hl : ∀ f ∈ l, f.lo ≤ f.hi)
    (hpw : l.Pairwise FieldSpec.Apart) {f : FieldSpec} (hf : f ∈ l) (w : Nat) :
    fieldOf f (l.foldl (fun acc k => putFieldOf k (g k) acc) w) = g f := by
  induction l generalizing w with
  | nil => cases hf
  | cons k l ih =>
    obtain ⟨hk, hpw⟩ := List.pairwise_cons.mp hpw
    rw [List.foldl_cons]
    rcases List.mem_cons.mp hf with rfl | hm
    · rw [fieldOf_foldl_put_apart (hl f hf) fun x hx => ⟨hl x (List.mem_cons_of_mem _ hx), hk x hx⟩, fieldOf_putFieldOf_of_lt w (hg f)]
    · exact ih (fun x hx => hl x (List.mem_cons_of_mem _ hx)) hpw hm _

/-- Settles O46: a commit point writes each held value once and drops it, and a read takes each field from the held value or the register. -/
theorem heldValuesCommit : Obligations.HeldValuesCommit := by
  unfold Obligations.HeldValuesCommit
  intro s p off mask value hl hnd hmask hvalue
  refine ⟨fun hp => ⟨State.rdN_commitRS hp hl hnd hmask hvalue, ?_⟩, fun hp => ⟨State.rdN_commitRS_other hp, ?_⟩, ?_, ?_⟩
  · exact mapGet_filter_drop (fun k => !p k) (by simp [hp]) s.heldRS
  · exact (mapGet_filter_keep (fun k => !p k) (by simp [hp]) s.heldRS).trans hl
  · intro r i j hr hfields hpw f hf hrs
    rw [State.readStored_eq hr hl, fieldOf_foldl_put (readField_lt _ _ _) (fun g hg => (hfields g hg).1) hpw hf]
    simp only [readField, hrs]
  · intro lo n hlo hn
    exact mapGet_filter_drop (fun k => !decide (lo ≤ k ∧ k < lo + n)) (by simp [hlo, hn]) s.heldRS

end Sys2Proof.Machine
end

section
/-! PROOFS. MSI-X vectors that are masked and unmasked (R318). -/
namespace Sys2Proof.Machine

theorem mem_setInsert_self (k : Nat) (l : List Nat) : k ∈ setInsert k l := by
  induction l with
  | nil => simp [setInsert]
  | cons j l ih =>
    unfold setInsert
    split_ifs with h1 h2
    · exact List.mem_cons_self
    · exact h2 ▸ List.mem_cons_self
    · exact List.mem_cons_of_mem _ ih

theorem contains_setErase_self (k : Nat) (l : List Nat) : (setErase k l).contains k = false := by simp [setErase]

/-- The state with other pending bits. -/
def State.withPending (s : State) (l : List Nat) : State := { s with pcie := { s.pcie with pending := l } }

theorem State.msix_masked {s : State} {fn v : Nat} (hup : s.pcieUp = true) (hm : s.msixMasked fn v = true) :
    s.msix fn v = s.withPending (setInsert (256 * fn + v) s.pcie.pending) := by
  simp [State.msix, hup, hm, State.withPending]

/-- However many messages fall due for a masked vector, its pending bit is set and nothing else happens. -/
theorem State.msix_masked_repeat {s : State} {fn v : Nat} (hup : s.pcieUp = true) (hm : s.msixMasked fn v = true) (n : Nat) :
    ∃ l, (List.range (n + 1)).foldl (fun u _ => u.msix fn v) s = s.withPending l ∧ 256 * fn + v ∈ l := by
  induction n with
  | zero => exact ⟨_, State.msix_masked hup hm, mem_setInsert_self _ _⟩
  | succ n ih =>
    obtain ⟨l, hl, -⟩ := ih
    rw [List.range_succ, List.foldl_append, hl]
    exact ⟨_, State.msix_masked (s := s.withPending l) hup hm, mem_setInsert_self _ _⟩

/-- The state after the mask bit of a vector's table entry is cleared. -/
def State.unmasked (fn v : Nat) (s : State) : State :=
  { s with pcie := { s.pcie with msix := mapSet (4096 * fn + 16 * v + 12) (s.msixWord fn v 3 - s.msixWord fn v 3 % 2) s.pcie.msix } }

theorem State.msixMasked_unmasked (fn v : Nat) (s : State) : (s.unmasked fn v).msixMasked fn v = false := by
  have heven : (s.msixWord fn v 3 - s.msixWord fn v 3 % 2) % 2 = 0 := by omega
  have hword : (s.unmasked fn v).msixWord fn v 3 = s.msixWord fn v 3 - s.msixWord fn v 3 % 2 :=
    congrArg (Option.getD · 1) (mapGet_mapSet_same _ _ _)
  rw [State.msixMasked, hword, heven]
  rfl

theorem State.releaseVector_due {s : State} {fn v : Nat} (hp : s.pcie.pending.contains (256 * fn + v) = true) (hup : s.pcieUp = true)
    (hb : s.busMaster fn = true) (hm : s.msixMasked fn v = false) :
    s.releaseVector fn v = (s.withPending (setErase (256 * fn + v) s.pcie.pending)).emit (.msix fn v) := by
  rw [State.releaseVector, hp, hup, hb, hm]
  rfl

theorem exec_msixUnmask_due {s : State} {fn v : Nat} (hup : s.pcieUp = true) (hfn : fn < 5) (hv : v < 256)
    (hf : fn = 0 ∨ s.ready = true ∧ s.fnExists fn = true) (hb : s.busMaster fn = true) (hp : s.pcie.pending.contains (256 * fn + v) = true) :
    exec (.msixUnmask fn v) s = .next (((s.unmasked fn v).withPending (setErase (256 * fn + v) s.pcie.pending)).emit (.msix fn v)) := by
  have hexec : exec (.msixUnmask fn v) s = .next ((s.unmasked fn v).releaseVector fn v) := if_pos ⟨hfn, hv, hup, hf⟩
  rw [hexec, State.releaseVector_due (s := s.unmasked fn v) hp hup hb (s.msixMasked_unmasked fn v)]
  rfl

/-- Settles O53: the pending bit that many messages set is one bit, and the unmasked vector releases it once. -/
theorem maskedVectorSendsOnce : Obligations.MaskedVectorSendsOnce := by
  unfold Obligations.MaskedVectorSendsOnce
  intro s fn v n hup hfn hv hm
  obtain ⟨l, hl, hmem⟩ := State.msix_masked_repeat hup hm n
  have hc : l.contains (256 * fn + v) = true := List.contains_iff_mem.mpr hmem
  rw [hl]
  exact ⟨rfl, hc, fun hf hb => ⟨_, exec_msixUnmask_due (s := s.withPending l) hup hfn hv hf hb hc, rfl, contains_setErase_self _ _, rfl, rfl⟩⟩

end Sys2Proof.Machine
end

section
/-! PROOFS. The capture of status words (R39). -/
namespace Sys2Proof.Machine

theorem State.noteStage_rd (st k : Nat) (s : State) : (s.noteStage st).rd k = s.rd k := by
  simp only [State.noteStage, State.rd, apply_ite State.regs, apply_ite State.fuses, ite_self]

/-- The word that a capture leaves in ERR, from the word it finds (R39). -/
def capturedWord (st w : Nat) : Nat :=
  if !bitOf w 16 then st % 2 ^ 16 + 2 ^ 16 + w / 2 ^ 17 % 2 * 2 ^ 17
  else if stSeverity (w % 2 ^ 16) ≤ stSeverity st then st % 2 ^ 16 + 2 ^ 16 + 2 ^ 17
  else w % 2 ^ 17 + 2 ^ 17

theorem State.capture_eq (st : Nat) (s : State) : s.capture st =
    ((s.countSat (0x100000 * stBlock st + 8) 0xFFFFFFFF).noteStage st).wrN (0x100000 * stBlock st + 4)
      (capturedWord st (s.rdN (0x100000 * stBlock st + 4))) := by
  simp only [State.capture, capturedWord, Nat.mul_comm (stBlock st)]
  split_ifs <;> rfl

theorem capturedWord_lt (st w : Nat) : capturedWord st w < 2 ^ 32 := by
  unfold capturedWord
  split_ifs <;> omega

theorem capturedWord_first {st w : Nat} (hst : st < 2 ^ 16) (h : bitOf w 16 = false) :
    bitsAt (capturedWord st w) 0 16 = st ∧ bitOf (capturedWord st w) 16 = true ∧ bitOf (capturedWord st w) 17 = bitOf w 17 := by
  have e : capturedWord st w = st % 2 ^ 16 + 2 ^ 16 + w / 2 ^ 17 % 2 * 2 ^ 17 := if_pos (by simp [h])
  rw [e]
  refine ⟨by unfold bitsAt; omega, ?_, ?_⟩
  · simp only [bitOf, beq_iff_eq]; omega
  · simp only [bitOf]; congr 1; omega

theorem capturedWord_next {st w : Nat} (hst : st < 2 ^ 16) (h : bitOf w 16 = true) :
    bitOf (capturedWord st w) 16 = true ∧ bitOf (capturedWord st w) 17 = true ∧
      bitsAt (capturedWord st w) 0 16 = (if stSeverity (bitsAt w 0 16) ≤ stSeverity st then st else bitsAt w 0 16) := by
  have hv : w / 2 ^ 16 % 2 = 1 := by simpa [bitOf] using h
  have hw : bitsAt w 0 16 = w % 2 ^ 16 := by simp [bitsAt]
  rw [hw, capturedWord, h]
  simp only [Bool.not_true, Bool.false_eq_true, if_false, bitOf, beq_iff_eq, bitsAt]
  split_ifs <;> omega

/-- Settles O54: the count and the captured word are the two registers that a capture writes. -/
theorem statusWordsAreCaptured : Obligations.StatusWordsAreCaptured := by
  unfold Obligations.StatusWordsAreCaptured
  intro s st hst
  refine ⟨fun part hcode => by simp [State.postAt, hcode], fun _ => ?_⟩
  dsimp only
  have hword : (s.capture st).rdN (0x100000 * stBlock st + 4) = capturedWord st (s.rdN (0x100000 * stBlock st + 4)) := by
    rw [State.capture_eq, State.rdN_wrN_same, Nat.mod_eq_of_lt (capturedWord_lt _ _)]
  rw [hword]
  refine ⟨?_, capturedWord_first hst, capturedWord_next hst, fun k hword hcount => ?_⟩
  · have hcount : min 0xFFFFFFFF (s.rdN (0x100000 * stBlock st + 8) + 1) < 2 ^ 32 := by omega
    rw [State.capture_eq, State.rdN_wrN_other (by omega), State.rdN, State.noteStage_rd, ← State.rdN, State.countSat, State.rdN_wrN_same]
    exact Nat.mod_eq_of_lt hcount
  · rw [State.capture_eq, State.rd_wrN_other hword, State.noteStage_rd, State.countSat, State.rd_wrN_other hcount]

end Sys2Proof.Machine
end

section
/-! PROOFS. The loss of the PCIe link, and what a Function Level Reset leaves (R318, R321, R322). -/
namespace Sys2Proof.Machine

/-- The registers that the loss of the link speaks of: the link's state, and the counters of losses and of resets. -/
def lossRegs : List Nat := [Reg.PCI_LINK, Reg.PCI_COUNTER 6, Reg.PCI_COUNTER 7]

/-- From s to t nothing has changed that the loss of the link speaks of, but for the given registers. -/
structure State.Beside (s : State) (R : List Nat) (t : State) : Prop where
  memory : t.memory = s.memory
  ndx : t.ndx = s.ndx
  cores : t.cores = s.cores
  busMaster : t.pcie.busMaster = s.pcie.busMaster
  pending : t.pcie.pending = s.pcie.pending
  msix : t.pcie.msix = s.pcie.msix
  regs : ∀ k ∈ lossRegs, k ∉ R → t.rdN k = s.rdN k

theorem State.pcieUp_congr {s t : State} (h : t.rdN Reg.PCI_LINK = s.rdN Reg.PCI_LINK) : t.pcieUp = s.pcieUp := by
  simp only [State.rdN] at h
  simp only [State.pcieUp, State.rdF, getField, h]

theorem State.pcieUp_of_zero {s : State} (h : s.rdN Reg.PCI_LINK = 0) : s.pcieUp = false := by
  simp only [State.rdN] at h
  simp [State.pcieUp, State.rdF, getField, h, bitsAt]

namespace State.Beside
variable {R : List Nat} {s t u : State}

theorem refl : s.Beside R s := ⟨rfl, rfl, rfl, rfl, rfl, rfl, fun _ _ _ => rfl⟩

theorem trans (h : s.Beside R t) (k : t.Beside R u) : s.Beside R u where
  memory := k.memory.trans h.memory
  ndx := k.ndx.trans h.ndx
  cores := k.cores.trans h.cores
  busMaster := k.busMaster.trans h.busMaster
  pending := k.pending.trans h.pending
  msix := k.msix.trans h.msix
  regs x hx hR := (k.regs x hx hR).trans (h.regs x hx hR)

theorem wr {off : Nat} (hoff : off ∈ lossRegs → off ∈ R) (v : Word) : s.Beside R (s.wr off v) :=
  ⟨rfl, rfl, rfl, rfl, rfl, rfl, fun k hk hR => by
    rw [State.rdN, State.rd_wr_other (fun (h : k = off) => hR (h ▸ hoff (h ▸ hk)))]; rfl⟩

theorem overList {α : Type} {l : List α} {f : α → State → State} (h : ∀ a ∈ l, ∀ t : State, t.Beside R (f a t)) : s.Beside R (s.overList l f) := by
  induction l generalizing s with
  | nil => exact refl
  | cons a l ih => exact (h a List.mem_cons_self s).trans (ih fun b hb => h b (List.mem_cons_of_mem _ hb))

theorem pcieUp (h : s.Beside [] t) : t.pcieUp = s.pcieUp := State.pcieUp_congr (h.regs Reg.PCI_LINK (by decide) List.not_mem_nil)

theorem ite {c : Prop} {i : Decidable c} (h : s.Beside R t) (k : s.Beside R u) : s.Beside R (if c then t else u) := by
  split
  · exact h
  · exact k

theorem wrOut {off : Nat} (hoff : off < 0xA00000 ∨ 0xA01120 ≤ off) (v : Word) : s.Beside R (s.wr off v) := by
  refine wr (fun hm => ?_) v
  simp only [lossRegs, Reg.PCI_LINK, Reg.PCI_COUNTER, List.mem_cons, List.not_mem_nil, or_false] at hm
  omega

theorem capture (st : Nat) (s : State) : s.Beside [] (s.capture st) := by
  have hout {k : Nat} (hk : k = 4 ∨ k = 8) : 0x100000 * stBlock st + k ∈ lossRegs → 0x100000 * stBlock st + k ∈ ([] : List Nat) := by
    simp only [lossRegs, Reg.PCI_LINK, Reg.PCI_COUNTER, List.mem_cons, List.not_mem_nil, or_false]
    omega
  have hstage (t : State) : t.Beside [] (t.noteStage st) := by
    unfold State.noteStage
    dsimp only
    split
    · exact ⟨rfl, rfl, rfl, rfl, rfl, rfl, fun _ _ _ => rfl⟩
    · exact refl
  rw [State.capture_eq]
  exact ((wr (hout (.inr rfl)) _).trans (hstage _)).trans (wr (hout (.inl rfl)) _)

theorem ledgerRecord (part st kind value : Nat) (p : Bool) (s : State) : s.Beside [] (s.ledgerRecord part st kind value p) := by
  have hcount : s.Beside [] (s.count (Reg.HLT_COUNTER 4)) := wrOut (.inr (by decide)) _
  unfold State.ledgerRecord
  dsimp only
  split_ifs <;> exact ⟨rfl, rfl, rfl, rfl, rfl, rfl, hcount.regs⟩

theorem ledgerEvent (part st : Nat) (s : State) : s.Beside [] (s.ledgerEvent part st) := by
  have hrate (r : List (Nat × (Nat × Nat))) : s.Beside [] { s with ledger := { s.ledger with rate := r } } :=
    ⟨rfl, rfl, rfl, rfl, rfl, rfl, fun _ _ _ => rfl⟩
  exact ite (wrOut (.inr (by decide)) _) ((hrate _).trans (ledgerRecord _ _ _ _ _ _))

/-- While the link is down no message is sent and none waits. -/
theorem msix_down (h : s.pcieUp = false) (fn v : Nat) : s.Beside R (s.msix fn v) := by
  rw [State.msix, h]
  exact refl

theorem setAlert (h : s.pcieUp = false) (i : Nat) : s.Beside [] (s.setAlert i) := by
  have hdrive : s.Beside [] (s.putBit Reg.HLT_ALERT i true).driveAlert :=
    (wrOut (.inr (by decide)) _).trans ⟨rfl, rfl, rfl, rfl, rfl, rfl, fun _ _ _ => rfl⟩
  have hcount (t : State) : t.Beside [] (t.count (Reg.HLT_COUNTER 3)) := wrOut (.inr (by decide)) _
  have hcapture := (hdrive.trans (hcount _)).trans (capture St.HLT_ALERT_RAISED _)
  exact ite refl (ite (hcapture.trans (msix_down (hcapture.pcieUp.trans h) _ _)) hcapture)

theorem post (h : s.pcieUp = false) (st : Nat) : s.Beside [] (s.post st) := by
  have hcapture := capture st s
  have hledger := ite (c := 2 ≤ stSeverity st) (i := inferInstance) (hcapture.trans (ledgerEvent 0 st _)) hcapture
  have halert (c : Prop) (i : Decidable c) := ite (c := c) (i := i) (hledger.trans (setAlert (hledger.pcieUp.trans h) 0)) hledger
  exact ite refl (ite ((halert _ _).trans (msix_down ((halert _ _).pcieUp.trans h) _ _)) (halert _ _))

/-! ### Queues that stop -/

theorem dropWaiting (r : RingRef) (s : State) : s.Beside R (s.dropWaiting r) := by
  unfold State.dropWaiting
  split
  · exact refl
  · exact ⟨rfl, rfl, rfl, rfl, rfl, rfl, fun _ _ _ => rfl⟩

theorem dropFetched (p q : Nat) (s : State) : s.Beside R (s.dropFetched p q) := by
  unfold State.dropFetched
  dsimp only
  split
  · exact ⟨rfl, rfl, rfl, rfl, rfl, rfl, fun _ _ _ => rfl⟩
  · exact refl

end State.Beside

/-- The numbers of a ring are those of a partition, of a pipe or of a die. -/
def ringInBlock : RingRef → Prop
  | .sq p q | .cq p q | .rq p q | .scq p q => p < 4 ∧ q < 8
  | .msq m | .mcq m => m < 16
  | .eq d => d < 4
  | .rkq p => p < 4
  | .tln => True

namespace State.Beside
variable {R : List Nat}

/-- A ring's CFG, HEAD and TAIL lie outside of the PCIe registers. -/
theorem threeWr {s t : State} (h : s.Beside [] t) {a b c : Nat} (ha : a < 0xA00000) (hb : b < 0xA00000) (hc : c < 0xA00000)
    (f : BitField) (x y z : Nat) : s.Beside [] (((t.wrF a f x).wrN b y).wrN c z) :=
  ((h.trans (wrOut (.inl ha) _)).trans (wrOut (.inl hb) _)).trans (wrOut (.inl hc) _)

theorem putPartDealer (p : Nat) (d : PartDealer) (s : State) : s.Beside R (s.putPartDealer p d) :=
  ⟨rfl, rfl, rfl, rfl, rfl, rfl, fun _ _ _ => rfl⟩

theorem putServing (p : Nat) (x : PartServing) (s : State) : s.Beside R (s.putServing p x) :=
  ⟨rfl, rfl, rfl, rfl, rfl, rfl, fun _ _ _ => rfl⟩

theorem updMedia (m : Nat) (f : MediaPipe → MediaPipe) (s : State) : s.Beside R (s.updMedia m f) :=
  ⟨rfl, rfl, rfl, rfl, rfl, rfl, fun _ _ _ => rfl⟩

theorem setVision (x : VisionState) (s : State) : s.Beside R { s with vision := x } := ⟨rfl, rfl, rfl, rfl, rfl, rfl, fun _ _ _ => rfl⟩

theorem stopRing {r : RingRef} (hr : ringInBlock r) (s : State) : s.Beside [] (s.stopRing r) := by
  have hw := dropWaiting (R := []) r s
  unfold State.stopRing
  cases r with
  | sq p q =>
    obtain ⟨hp, hq⟩ := hr
    refine (threeWr (hw.trans (dropFetched _ _ _)) ?_ ?_ ?_ _ _ _ _).trans (wrOut (.inl ?_) _)
    all_goals simp only [Reg.SQ_CFG, Reg.SQ_HEAD, Reg.SQ_TAIL, Reg.SQ_EXPECT]; omega
  | cq p q =>
    obtain ⟨hp, hq⟩ := hr
    refine (threeWr hw ?_ ?_ ?_ _ _ _ _).trans (putPartDealer _ _ _)
    all_goals simp only [Reg.CQ_CFG, Reg.CQ_HEAD, Reg.CQ_TAIL]; omega
  | rq p q =>
    obtain ⟨hp, hq⟩ := hr
    refine threeWr hw ?_ ?_ ?_ _ _ _ _
    all_goals simp only [Reg.RQ_CFG, Reg.RQ_HEAD, Reg.RQ_TAIL]; omega
  | scq p q =>
    obtain ⟨hp, hq⟩ := hr
    refine (threeWr hw ?_ ?_ ?_ _ _ _ _).trans (putServing _ _ _)
    all_goals simp only [Reg.SCQ_CFG, Reg.SCQ_HEAD, Reg.SCQ_TAIL]; omega
  | msq m =>
    have hm : m < 16 := hr
    refine threeWr hw ?_ ?_ ?_ _ _ _ _
    all_goals simp only [Reg.MSQ_CFG, Reg.MSQ_HEAD, Reg.MSQ_TAIL]; omega
  | mcq m =>
    have hm : m < 16 := hr
    refine (threeWr hw ?_ ?_ ?_ _ _ _ _).trans (updMedia _ _ _)
    all_goals simp only [Reg.MCQ_CFG, Reg.MCQ_HEAD, Reg.MCQ_TAIL]; omega
  | eq d =>
    have hd : d < 4 := hr
    refine (threeWr hw ?_ ?_ ?_ _ _ _ _).trans (setVision _ _)
    all_goals simp only [Reg.EQ_CFG, Reg.EQ_HEAD, Reg.EQ_TAIL]; omega
  | rkq p =>
    have hp : p < 4 := hr
    refine threeWr hw ?_ ?_ ?_ _ _ _ _
    all_goals simp only [Reg.RKQ_CFG, Reg.RKQ_HEAD, Reg.RKQ_TAIL]; omega
  | tln => exact threeWr hw (by decide) (by decide) (by decide) _ _ _ _

theorem stopQueues {p : Nat} (hp : p < 4) (s : State) : s.Beside [] (s.stopQueues p) := by
  have hrings {l : List Nat} {f g : Nat → RingRef} (h : ∀ q ∈ l, ringInBlock (f q) ∧ ringInBlock (g q)) (t : State) :
      t.Beside [] (t.overList l fun q u => (u.stopRing (f q)).stopRing (g q)) :=
    overList fun q hq u => (stopRing (h q hq).1 u).trans (stopRing (h q hq).2 _)
  have hctrl : s.Beside [] ((s.wrF (Reg.PART_CTRL p) Fld.PART_CTRL_ENABLE 0).wrF (Reg.PART_SRV_CTRL p) Fld.PART_SRV_CTRL_ENABLE 0) := by
    refine (wrOut (.inl ?_) _).trans (wrOut (.inl ?_) _)
    all_goals simp only [Reg.PART_CTRL, Reg.PART_SRV_CTRL]; omega
  have hsq := hctrl.trans (hrings (l := List.range 8) (f := .sq p) (g := .cq p) (fun q hq => ⟨⟨hp, by simpa using hq⟩, hp, by simpa using hq⟩) _)
  have hrq := hsq.trans (hrings (l := List.range 4) (f := .rq p) (g := .scq p)
    (fun q hq => by have := List.mem_range.mp hq; exact ⟨⟨hp, by omega⟩, hp, by omega⟩) _)
  have hmsq (t : State) := hrq.trans (hrings (l := (List.range 16).filter fun m => t.pipeOwner m == some p) (f := .msq) (g := .mcq)
    (fun m hm => by have := List.mem_range.mp (List.mem_filter.mp hm).1; exact ⟨this, this⟩) _)
  have heq (t u : State) := (hmsq t).trans (overList (l := u.partDies p) (f := fun d v => v.stopRing (.eq d))
    fun d hd v => stopRing (r := .eq d) (List.mem_range.mp (List.mem_filter.mp hd).1) v)
  refine ((heq _ _).trans (stopRing (r := .rkq p) hp _)).trans (overList fun i hi t => wrOut (.inl ?_) _)
  have := List.mem_range.mp hi
  simp only [Reg.PIPE_CFG_VIS]
  omega

end State.Beside

/-! ### A reset of one function -/

/-- What a Function Level Reset leaves: one more reset is counted, and nothing of the function's MSI-X table, pending bits and mastery is left. -/
structure State.FunctionReset (fn : Nat) (s t : State) : Prop where
  memory : t.memory = s.memory
  ndx : t.ndx = s.ndx
  cores : t.cores = s.cores
  link : t.rdN Reg.PCI_LINK = s.rdN Reg.PCI_LINK
  losses : t.rdN (Reg.PCI_COUNTER 6) = s.rdN (Reg.PCI_COUNTER 6)
  resets : t.rdN (Reg.PCI_COUNTER 7) = (s.rdN (Reg.PCI_COUNTER 7) + 1) % 2 ^ 32
  busMaster : ∀ f ∈ t.pcie.busMaster, f ∈ s.pcie.busMaster ∧ f ≠ fn
  pending : ∀ v ∈ t.pcie.pending, v ∈ s.pcie.pending ∧ v / 256 ≠ fn
  msix : ∀ e ∈ t.pcie.msix, e ∈ s.pcie.msix ∧ ¬ (4096 * fn ≤ e.1 ∧ e.1 < 4096 * fn + 4096)

theorem State.functionReset {fn : Nat} (hfn : fn < 5) {s : State} (hup : s.pcieUp = false) : s.FunctionReset fn ((s.flr fn).flrDone) := by
  have hstop : s.Beside [] (if fn = 0 then s.disableRing .tln else if s.partExists (fn - 1) then s.stopQueues (fn - 1) else s) := by
    refine .ite ?_ (.ite (.stopQueues (by omega) s) .refl)
    exact (State.Beside.stopRing (r := .tln) trivial s).trans ⟨rfl, rfl, rfl, rfl, rfl, rfl, fun _ _ _ => rfl⟩
  generalize hflr : (if fn = 0 then s.disableRing .tln else if s.partExists (fn - 1) then s.stopQueues (fn - 1) else s) = t at hstop
  have hreset : (s.flr fn).flrDone = ((t.resetFunction fn).count (Reg.PCI_COUNTER 7)).post St.PCI_FLR_COMPLETED := by rw [← hflr]; rfl
  have hkept (k : Nat) (hk : k ∈ lossRegs) : (t.resetFunction fn).rdN k = s.rdN k := by
    have hwin : k ≠ Reg.WIN_BASE fn := by
      simp only [lossRegs, Reg.PCI_LINK, Reg.PCI_COUNTER, List.mem_cons, List.not_mem_nil, or_false] at hk
      unfold Reg.WIN_BASE
      omega
    rw [State.resetFunction, State.rdN_wrN_other hwin]
    exact hstop.regs k hk List.not_mem_nil
  have hother (k : Nat) (hk : k ∈ lossRegs) (h7 : k ≠ Reg.PCI_COUNTER 7) : ((t.resetFunction fn).count (Reg.PCI_COUNTER 7)).rdN k = s.rdN k :=
    (State.rdN_wrN_other h7 _ _).trans (hkept k hk)
  have hdown : ((t.resetFunction fn).count (Reg.PCI_COUNTER 7)).pcieUp = false :=
    (State.pcieUp_congr (hother _ (by decide) (by decide))).trans hup
  have hpost := State.Beside.post hdown St.PCI_FLR_COMPLETED
  rw [hreset]
  refine ⟨hpost.memory.trans hstop.memory, hpost.ndx.trans hstop.ndx, hpost.cores.trans hstop.cores,
    (hpost.regs _ (by decide) List.not_mem_nil).trans (hother _ (by decide) (by decide)),
    (hpost.regs _ (by decide) List.not_mem_nil).trans (hother _ (by decide) (by decide)),
    (hpost.regs _ (by decide) List.not_mem_nil).trans ?_, ?_, ?_, ?_⟩
  · rw [State.count, State.rdN_wrN_same, hkept _ (by decide), Nat.mod_mod]
  · intro f hf
    rw [hpost.busMaster] at hf
    obtain ⟨hmem, hne⟩ := List.mem_filter.mp (show f ∈ setErase fn t.pcie.busMaster from hf)
    exact ⟨hstop.busMaster ▸ hmem, of_decide_eq_true hne⟩
  · intro v hv
    rw [hpost.pending] at hv
    obtain ⟨hmem, hne⟩ := List.mem_filter.mp (show v ∈ t.pcie.pending.filter (fun v => decide (v / 256 ≠ fn)) from hv)
    exact ⟨hstop.pending ▸ hmem, of_decide_eq_true hne⟩
  · intro e he
    rw [hpost.msix] at he
    obtain ⟨hmem, hne⟩ := List.mem_filter.mp (show e ∈ mapDrop (inRange (4096 * fn) 4096) t.pcie.msix from he)
    have hout : e.1 < 4096 * fn ∨ 4096 * fn + 4096 ≤ e.1 := by simpa [inRange] using hne
    exact ⟨hstop.msix ▸ hmem, by omega⟩

/-- A reset of each of the functions from 0 on. -/
structure State.FunctionsReset (n : Nat) (s t : State) : Prop where
  memory : t.memory = s.memory
  ndx : t.ndx = s.ndx
  cores : t.cores = s.cores
  link : t.rdN Reg.PCI_LINK = s.rdN Reg.PCI_LINK
  losses : t.rdN (Reg.PCI_COUNTER 6) = s.rdN (Reg.PCI_COUNTER 6)
  resets : t.rdN (Reg.PCI_COUNTER 7) = (s.rdN (Reg.PCI_COUNTER 7) + n) % 2 ^ 32
  busMaster : ∀ f ∈ t.pcie.busMaster, n ≤ f
  pending : ∀ v ∈ t.pcie.pending, n ≤ v / 256
  msix : ∀ e ∈ t.pcie.msix, 4096 * n ≤ e.1

theorem State.functionsReset {s : State} (hup : s.pcieUp = false) (n : Nat) (hn : n ≤ 5) :
    s.FunctionsReset n (s.overList (List.range n) fun f t => (t.flr f).flrDone) := by
  induction n with
  | zero =>
    exact ⟨rfl, rfl, rfl, rfl, rfl, (Nat.mod_eq_of_lt (s.rd _).isLt).symm, fun _ _ => Nat.zero_le _, fun _ _ => Nat.zero_le _, fun _ _ => by omega⟩
  | succ n ih =>
    have h := ih (by omega)
    generalize ht : s.overList (List.range n) (fun f t => (t.flr f).flrDone) = t at h
    have hstep : s.overList (List.range (n + 1)) (fun f t => (t.flr f).flrDone) = (t.flr n).flrDone := by
      rw [← ht, State.overList, State.overList, List.range_succ, List.foldl_append]
      rfl
    rw [hstep]
    have k := State.functionReset (fn := n) (by omega) ((State.pcieUp_congr h.link).trans hup)
    refine ⟨k.memory.trans h.memory, k.ndx.trans h.ndx, k.cores.trans h.cores, k.link.trans h.link, k.losses.trans h.losses, ?_,
      fun f hf => ?_, fun v hv => ?_, fun e he => ?_⟩
    · rw [k.resets, h.resets]
      omega
    · obtain ⟨hm, hne⟩ := k.busMaster f hf
      have := h.busMaster f hm
      omega
    · obtain ⟨hm, hne⟩ := k.pending v hv
      have := h.pending v hm
      omega
    · obtain ⟨hm, hne⟩ := k.msix e he
      have := h.msix e hm
      omega

/-- Settles O55: a loss is one reset of each of the five functions, in a module whose link is already down. -/
theorem linkLossResetsFunctions : Obligations.LinkLossResetsFunctions := by
  unfold Obligations.LinkLossResetsFunctions
  intro s
  refine ⟨fun hdown => by simp [exec, execPcieLinkLoss, State.losePcie, hdown], fun hup => ?_⟩
  have hlink : (s.wrN Reg.PCI_LINK 0).rdN Reg.PCI_LINK = 0 := by rw [State.rdN_wrN_same]; rfl
  have h := State.functionsReset (State.pcieUp_of_zero hlink) 5 (le_refl 5)
  generalize ht : (s.wrN Reg.PCI_LINK 0).overList (List.range 5) (fun f t => (t.flr f).flrDone) = t at h
  have hloss : s.losePcie = ((t.count (Reg.PCI_COUNTER 6)).ledgerAdd 0xA000 0).post St.PCI_PCIE_LINK_DOWN := by
    rw [← ht, State.losePcie, hup]
    rfl
  have hcounted : ((t.count (Reg.PCI_COUNTER 6)).ledgerAdd 0xA000 0).pcieUp = false :=
    State.pcieUp_of_zero (((State.rdN_wrN_other (by decide) _ t).trans h.link).trans hlink)
  have hpost := State.Beside.post hcounted St.PCI_PCIE_LINK_DOWN
  refine ⟨_, congrArg Host.Outcome.next hloss, hpost.pcieUp.trans hcounted, (hpost.regs _ (by decide) List.not_mem_nil).trans ?_,
    (hpost.regs _ (by decide) List.not_mem_nil).trans ?_, ?_, ?_, ?_, hpost.ndx.trans h.ndx, hpost.memory.trans h.memory, hpost.cores.trans h.cores⟩
  · show (t.count (Reg.PCI_COUNTER 6)).rdN (Reg.PCI_COUNTER 6) = _
    rw [State.count, State.rdN_wrN_same, h.losses, State.rdN_wrN_other (by decide), Nat.mod_mod]
  · show (t.count (Reg.PCI_COUNTER 6)).rdN (Reg.PCI_COUNTER 7) = _
    rw [State.count, State.rdN_wrN_other (by decide), h.resets, State.rdN_wrN_other (by decide)]
  · exact List.all_eq_true.mpr fun f hf => decide_eq_true (h.busMaster f (hpost.busMaster ▸ hf))
  · exact List.all_eq_true.mpr fun v hv => decide_eq_true (h.pending v (hpost.pending ▸ hv))
  · exact List.all_eq_true.mpr fun e he => decide_eq_true ((by decide : 5 * 4096 = 4096 * 5) ▸ h.msix e (hpost.msix ▸ he))

end Sys2Proof.Machine
end

section
/-! PROOFS. A VF's write through its BAR4 window (R124, R126). -/
namespace Sys2Proof.Machine

/-! ### Bytes that an operation leaves -/

theorem State.Within.keepsMem {P : List Part} {s t : State} (h : s.Within P t) (hP : Part.mem ∉ P := by decide) : s.keeps t .mem := h.frame .mem hP

namespace State.keepsOutside
variable {s t u : State} {a n : Nat}

theorem of_keeps (h : s.keeps t .mem) : s.keepsOutside t a n := fun k _ => h k

theorem trans_keeps (h : s.keeps t .mem) (k : t.keepsOutside u a n) : s.keepsOutside u a n := fun j hj => (k j hj).trans (h j)

theorem keeps_trans (h : s.keepsOutside t a n) (k : t.keeps u .mem) : s.keepsOutside u a n := fun j hj => (k j).trans (h j hj)

theorem poke (a : Nat) (b : List Byte) (s : State) : s.keepsOutside (s.poke a b) a b.length :=
  fun j hj => cellsGet_write_outside 0 b s.memory.mem a j hj

theorem hbmWrite (sev a : Nat) (b : List Byte) (s : State) : s.keepsOutside (s.hbmWrite sev a b).2 a b.length := by
  have hreach : s.Within (Part.reporting [.memory]) ((s.releaseHeld a b.length).touchStacks a b.length) :=
    (State.touchStacks_within).after (State.releaseHeld_within).mono
  unfold State.hbmWrite
  dsimp only
  split
  · exact of_keeps (s.keeps_refl .mem)
  · split
    · next h => exact of_keeps ((((State.readWords_within).snd h).after hreach).keepsMem)
    · next h =>
      exact trans_keeps (((State.cleanWords_within).after (((State.readWords_within).snd h).after hreach) : s.Within (Part.reporting [.memory]) _).keepsMem)
        (poke _ _ _)

end State.keepsOutside

/-! ### A host's write through its window -/

theorem regionOf_add {a d off j n : Nat} (h : regionOf a = .hbm d off) (hj : j < n) (hfit : off + n ≤ hbmRegion) :
    regionOf (a + j) = .hbm d (off + j) := by
  unfold regionOf at h
  split at h
  · next ha =>
    obtain ⟨rfl, rfl⟩ : a / hbmRegion = d ∧ a % hbmRegion = off := by simpa using h
    have hpos : 0 < hbmRegion := by decide
    have hmod : (a + j) % hbmRegion = a % hbmRegion + j := by
      rw [Nat.add_mod, Nat.mod_eq_of_lt (a := j) (by omega), Nat.mod_eq_of_lt (by omega)]
    have hdiv : (a + j) / hbmRegion = a / hbmRegion := by
      have h1 := Nat.div_add_mod (a + j) hbmRegion
      have h2 := Nat.div_add_mod a hbmRegion
      rw [hmod] at h1
      exact Nat.eq_of_mul_eq_mul_left hpos (by omega)
    have hlt : a + j < 4 * hbmRegion := by
      have h1 : (a + j) / hbmRegion < 4 := hdiv ▸ Nat.div_lt_of_lt_mul (Nat.mul_comm 4 _ ▸ ha)
      exact (Nat.div_lt_iff_lt_mul hpos).mp h1
    rw [regionOf, if_pos hlt, hmod, hdiv]
  · split at h
    · cases h
    · split at h <;> cases h

theorem State.taskEnd_le (s : State) (d : Nat) : s.taskEnd d ≤ hbmRegion := by
  have : s.fitted ≤ hbmRegion := by
    unfold State.fitted hbmRegion
    split <;> omega
  unfold State.taskEnd
  omega

/-- Where a VF's window may be written: its range lies in the task space of a die of its partition (R124). -/
theorem State.windowOk_vf {s : State} {fn a n : Nat} (hfn : 1 ≤ fn) (h : s.windowOk fn a n true = true) :
    ∃ d off, regionOf a = .hbm d off ∧ off + n ≤ s.taskEnd d ∧ s.dieOwner d = some (fn - 1) := by
  unfold State.windowOk at h
  split at h
  · next d off hr =>
    rw [if_neg (by omega)] at h
    simp only [Bool.and_eq_true, decide_eq_true_eq] at h
    exact ⟨d, off, hr, h.1.1, h.1.2⟩
  · cases h

/-- A BAR4 write is a store to its window, where the window may be written, or it changes no byte. -/
theorem exec_bar4Write_cases {s t : State} {fn off : Nat} {bytes : List Nat} {us : List Upset} (h : exec (.bar4Write fn off bytes us) s = .next t) :
    s.keeps t .mem ∨ ((s.upset us).windowOk fn ((s.upset us).windowAddr fn off) bytes.length true = true ∧
      s.keepsOutside t ((s.upset us).windowAddr fn off) bytes.length) := by
  have hup : s.Within [.regs, .ledger, .cores, .memory] (s.upset us) := State.upset_within
  simp only [exec, execBar4Write] at h
  split_ifs at h with hlink hready hfn hok <;> obtain rfl := Host.Outcome.next.inj h
  · exact .inl hup.keepsMem
  · exact .inl (((State.sendUr_within).after ((State.aerError_within).after hup.mono) : s.Within [.regs, .ledger, .cores, .memory, .pcie] _).keepsMem)
  · exact .inl hup.keepsMem
  · exact .inl (((State.postMem_within).after hup.mono : s.Within (Part.reporting [.cores, .memory]) _).keepsMem)
  · have hwindow : off + bytes.length ≤ windowBytes ∧ (s.upset us).windowOk fn ((s.upset us).windowAddr fn off) bytes.length true = true := by
      simpa using hok
    refine .inr ⟨hwindow.2, ?_⟩
    have hstore := State.keepsOutside.hbmWrite 3 ((s.upset us).windowAddr fn off) (bytes.map (BitVec.ofNat 8)) (s.upset us)
    rw [List.length_map] at hstore
    exact .trans_keeps hup.keepsMem (hstore.keeps_trans (State.feedPath_within).keepsMem)

/-- Settles O48: a byte that changed lies in the window, and the window in a task space of the partition. -/
theorem windowWritesStayInPartition : Obligations.WindowWritesStayInPartition := by
  unfold Obligations.WindowWritesStayInPartition
  intro s t fn off bytes us k hfn hexec hne
  rcases exec_bar4Write_cases hexec with hkeep | ⟨hok, hstore⟩
  · exact absurd (hkeep k) hne
  · obtain ⟨d, o, hr, hend, howner⟩ := State.windowOk_vf hfn hok
    have hin : (s.upset us).windowAddr fn off ≤ k ∧ k < (s.upset us).windowAddr fn off + bytes.length := by
      by_contra hout
      exact hne (hstore k (by omega))
    obtain ⟨j, rfl⟩ := Nat.exists_eq_add_of_le hin.1
    exact ⟨d, o + j, regionOf_add hr (by omega) (hend.trans (State.taskEnd_le _ _)), howner, by omega⟩

end Sys2Proof.Machine
end

section
/-! PROOFS. The array's commands (R42 to R60). -/
namespace Sys2Proof.Machine

theorem length_flatMap_leBytes {α : Type} (n : Nat) (g : α → Nat) (l : List α) : (l.flatMap fun x => leBytes n (g x)).length = l.length * n := by
  simp [List.length_flatMap]

theorem State.arrayRow_eq {s : State} {core k cols : Nat} {op : ArrayOp} (hshape : arrayShape op.actFmt op.wFmt = some (k, cols))
    (hacts : s.storeReadable core op.acts (if op.actFmt = .fp4 then 32 else k * NumFmt_bytes op.actFmt) = true)
    (hscales : s.storeReadable core op.actScales (if op.actFmt = .fp4 then 2 else 0) = true) :
    ∃ sums, sums.length = cols ∧ State.arrayRow core op s = s.updCore core (fun c => { c with landing := c.landing ++
      [⟨op.acc, op.add, isIntFmt op.wFmt, sums, c.cycles + (if op.wFmt = .bf16 ∨ op.wFmt = .fp16 then 48 else 40) * cycleUnit⟩] }) := by
  simp only [State.arrayRow, hshape]
  rw [State.useStore_clean _ _ _ _ _ hacts, State.useStore_clean _ _ _ _ _ hscales]
  exact ⟨_, by rw [List.length_map, List.length_range], rfl⟩

theorem State.landRow_eq {s : State} {core row : Nat} {l : Landing} (hl : landingRow row (s.coreAt core).landing = some l)
    (hread : s.storeReadable core l.acc (if l.add = true then 4 * l.sums.length else 0) = true)
    (hwrite : s.storeWritable core l.acc (4 * l.sums.length) = true) :
    ∃ bytes fl, bytes.length = 4 * l.sums.length ∧ s.landRow core row =
      ((s.updCore core (fun c => { c with landing := c.landing.eraseIdx row })).raise core fl).storePut core l.acc bytes := by
  simp only [State.landRow, hl]
  rw [State.useStore_clean _ _ _ _ _ ((s.storeReadable_updCore _ _ _ _ _).trans hread)]
  have hlen (g : Nat → Nat × Nat) : (((List.range l.sums.length).map g).flatMap fun r => leBytes 4 r.1).length = 4 * l.sums.length := by
    rw [length_flatMap_leBytes, List.length_map, List.length_range, Nat.mul_comm]
  refine ⟨_, _, hlen _, State.putStore_clean _ _ _ _ ?_⟩
  rw [hlen]
  exact hwrite

theorem State.loadTile_eq {s : State} {core k cols : Nat} {x : TileLoad} (hshape : arrayShape x.actFmt x.wFmt = some (k, cols))
    (helems : s.storeReadable core x.elems (tileBytes x.actFmt x.wFmt).1 = true)
    (hscales : s.storeReadable core x.scales (tileBytes x.actFmt x.wFmt).2 = true) :
    State.loadTile core x s = s.updCore core (fun c => { c with
      shadow := ⟨s.storeBytes core x.elems (tileBytes x.actFmt x.wFmt).1, s.storeBytes core x.scales (tileBytes x.actFmt x.wFmt).2⟩ }) := by
  simp only [State.loadTile, hshape]
  rw [State.useStore_clean _ _ _ _ _ helems, State.useStore_clean _ _ _ _ _ hscales]

theorem State.outputStage_eq {s : State} {core : Nat} {op : OutputOp} (h4 : op.fmt ≠ .fp4) (h32 : op.fmt ≠ .int32)
    (hacc : s.storeReadable core op.acc (4 * op.cols) = true)
    (hscale : ∀ a, op.scale = some a → s.storeReadable core a (4 * op.cols) = true)
    (hbias : ∀ a, op.bias = some a → s.storeReadable core a (4 * op.cols) = true)
    (hdst : s.storeWritable core op.dst (op.cols * NumFmt_bytes op.fmt) = true) :
    ∃ bits fl lfsr, bits.length = op.cols ∧ State.outputStage core op s =
      (s.updCore core (fun c => { c with lfsr := lfsr, flags := c.flags ||| fl })).storePut core op.dst (packElements op.fmt bits) := by
  unfold State.outputStage
  split
  · next h => exact absurd h h4
  · next h => exact absurd h h32
  · dsimp only
    rw [State.useStore_clean _ _ _ _ _ hacc, State.useStore_clean _ _ _ _ _ (State.storeReadable_option hscale),
      State.useStore_clean _ _ _ _ _ (State.storeReadable_option hbias)]
    have hlen (l : List Nat) (hl : l.length = op.cols) : (packElements op.fmt l).length = op.cols * NumFmt_bytes op.fmt := by
      rw [packElements, ← hl, length_flatMap_leBytes]
      exact h4
    simp only [Nat.or_assoc]
    refine ⟨_, _, _, ?_, State.putStore_clean _ _ _ _ ?_⟩
    · simp
    · rw [hlen _ (by simp)]
      exact hdst

/-- Settles O1, command by command, from what each operation does with readable and writable store. -/
theorem arrayCommandsComplete : Obligations.ArrayCommandsComplete := by
  unfold Obligations.ArrayCommandsComplete
  intro s core w
  dsimp only
  refine ⟨?_, ?_, ?_, ?_, ?_⟩
  · intro op k cols hruns hshape hacts hscales
    obtain ⟨sums, hlen, hrow⟩ := State.arrayRow_eq hshape hacts hscales
    exact ⟨sums, hlen, by simp only [exec, execArrayOp, onTurn, onBodyWaiting, onBody_runs _ _ _ hruns, hrow]⟩
  · intro row l hruns hl hread hwrite
    obtain ⟨bytes, fl, hlen, hrow⟩ := State.landRow_eq hl hread hwrite
    exact ⟨bytes, fl, hlen, by simp only [exec, execArrayResultLand, hruns, if_true, hrow]⟩
  · intro x k cols hruns hshape helems hscales
    simp only [exec, execWeightTileLoad, onTurn, onBodyWaiting, onBody_runs _ _ _ hruns, State.loadTile_eq hshape helems hscales]
  · intro stalls hruns
    simp only [exec, execArraySwap, onBody_runs _ _ _ hruns, State.swapTiles]
  · intro op hruns h4 h32 hacc hscale hbias hdst
    obtain ⟨bits, fl, lfsr, hlen, hstage⟩ := State.outputStage_eq h4 h32 hacc hscale hbias hdst
    exact ⟨bits, fl, lfsr, hlen, by simp only [exec, execOutputStage, onTurn, onBodyWaiting, onBody_runs _ _ _ hruns, hstage]⟩

end Sys2Proof.Machine
end

section
/-! PROOFS. The vector unit's commands (R63 to R65, R487). -/
namespace Sys2Proof.Machine

theorem State.readSram_double (ws : List Nat) (s : State) : (s.readSram ws).2.memory.sramDouble = s.memory.sramDouble := by
  unfold State.readSram
  dsimp only
  split
  · exact State.correctSrams_double _ s
  · exact (congrArg MemState.sramDouble (State.postMem_memory _ _ _ _)).trans (State.correctSrams_double _ s)

theorem State.storePut_double {s : State} {w : Nat} (h : s.memory.sramDouble.contains w = false) (c off : Nat) (b : List Byte) :
    (s.storePut c off b).memory.sramDouble.contains w = false := by
  unfold State.storePut State.sramWrite
  dsimp only
  split
  · next hread => rw [← State.readSram_double, hread] at h; exact h
  · next hread =>
    rw [← State.readSram_double, hread] at h
    simp only [State.poke]
    rw [List.contains_eq_mem, decide_eq_false_iff_not] at h ⊢
    exact fun hm => h (List.mem_filter.mp hm).1

theorem State.storeWritable_storePut {s : State} {core off len : Nat} (h : s.storeWritable core off len = true) (c o : Nat) (b : List Byte) :
    (s.storePut c o b).storeWritable core off len = true := by
  simp only [State.storeWritable, Bool.and_eq_true, List.all_eq_true, Bool.or_eq_true, Bool.not_eq_true'] at h ⊢
  exact ⟨h.1, fun w hw => (h.2 w hw).imp_right fun hd => State.storePut_double hd c o b⟩

theorem packNibbles_length_even (k : Nat) : ∀ l : List Nat, l.length = 2 * k → (packNibbles l).length = k := by
  induction k with
  | zero => intro l hl; rw [List.length_eq_zero_iff.mp hl]; rfl
  | succ k ih =>
    intro l hl
    match l, hl with
    | a :: b :: t, hl => rw [packNibbles, List.length_cons, ih t (by simpa [Nat.mul_succ] using hl)]

theorem mxBlock_length (mode : RMode) (lfsr : Nat) (xs : List Exact) : (mxBlock mode lfsr xs).1.length = xs.length := by
  unfold mxBlock
  dsimp only
  split <;> simp

theorem State.vectorConvert_eq {src dst : NumFmt} (hsrc : src ≠ .fp4) (hdst : dst ≠ .fp4) (s : State) (core a d : Nat) :
    ∃ fl lfsr v inputs, State.vectorConvert core src dst a d s =
      if NumFmt_bytes src ≤ NumFmt_bytes dst then (s.updCore core (fun c => { c with lfsr := lfsr, flags := c.flags ||| fl })).putVreg core d v
      else (s.updCore core (fun c => { c with lfsr := lfsr, flags := c.flags ||| fl })).putLow core d
        (8 * NumFmt_bytes dst * (2048 / (8 * NumFmt_bytes src))) v inputs := by
  have hfull : 8 * NumFmt_bytes dst * (2048 / max (8 * NumFmt_bytes src) (8 * NumFmt_bytes dst)) = 2048 ↔ NumFmt_bytes src ≤ NumFmt_bytes dst := by
    cases src <;> cases dst <;> decide
  unfold State.vectorConvert
  rw [if_neg (not_or.mpr ⟨hsrc, hdst⟩)]
  dsimp only
  simp only [hfull]
  by_cases hle : NumFmt_bytes src ≤ NumFmt_bytes dst
  · simp only [hle, if_true]
    exact ⟨_, _, _, [], rfl⟩
  · simp only [hle, if_false]
    rw [Nat.max_eq_left (by omega)]
    exact ⟨_, _, _, _, rfl⟩

theorem State.mxConvert_eq {bf : Bool} {a block elemsAt scaleAt core : Nat} {s : State} (hblock : block < (if bf = true then 4 else 2))
    (helems : s.storeWritable core elemsAt 16 = true) (hscale : s.storeWritable core scaleAt 1 = true) :
    ∃ fl lfsr es sc, es.length = 16 ∧ State.mxConvert core bf a block elemsAt scaleAt s =
      (((s.updCore core (fun c => { c with lfsr := lfsr, flags := c.flags ||| fl })).storePut core elemsAt es).storePut core scaleAt [sc]) := by
  have hlen : (((lanes (laneBits (if bf then .bf16 else .fp32)) (lanesOf (if bf then .bf16 else .fp32)) (s.vreg core a)).drop (32 * block)).take 32).length
      = 32 := by
    cases bf <;> simp [lanesOf, laneBits] at hblock ⊢ <;> omega
  unfold State.mxConvert
  dsimp only
  generalize ((lanes (laneBits (if bf then .bf16 else .fp32)) (lanesOf (if bf then .bf16 else .fp32)) (s.vreg core a)).drop (32 * block)).take 32 = xs
    at hlen ⊢
  rw [if_neg (by omega)]
  have hbytes (g : Nat → Exact) (mode : RMode) (lfsr : Nat) : (packNibbles (mxBlock mode lfsr (xs.map g)).1).length = 16 :=
    packNibbles_length_even 16 _ (by rw [mxBlock_length, List.length_map, hlen])
  rw [State.putStore_clean _ core elemsAt, State.putStore_clean _ core scaleAt]
  · exact ⟨_, _, _, _, hbytes _ _ _, rfl⟩
  · exact State.storeWritable_storePut ((s.storeWritable_updCore _ _ _ _ _).trans hscale) _ _ _
  · rw [hbytes]
    exact (s.storeWritable_updCore _ _ _ _ _).trans helems

/-- Settles O2, command by command, from what each operation does with the registers that it names. -/
theorem vectorCommandsComplete : Obligations.VectorCommandsComplete := by
  unfold Obligations.VectorCommandsComplete
  intro s core hruns
  dsimp only
  refine ⟨?_, ?_, ?_, ?_, ?_, ?_, ?_, ?_, ?_, ?_⟩
  · intro op a b c dst hop
    obtain ⟨x, hx⟩ := Option.isSome_iff_exists.mp hop
    simp only [exec, execVectorArithmetic, onBody_runs _ _ _ hruns, State.vectorArith, hx, laneBits, lanesOf]
  · intro f op a b c dst hf hop
    exact ⟨_, _, by simp only [exec, execVectorArithmetic, onBody_runs _ _ _ hruns, State.vectorArith_float hf hop]; rfl⟩
  · intro src dst a d hsrc hdst
    obtain ⟨fl, lfsr, v, inputs, h⟩ := State.vectorConvert_eq hsrc hdst s core a d
    exact ⟨fl, lfsr, v, inputs, by simp only [exec, execVectorConvert, onBody_runs _ _ _ hruns, h]⟩
  · intro bf a block elemsAt scaleAt w hblock helems hscale
    obtain ⟨fl, lfsr, es, sc, hlen, h⟩ := State.mxConvert_eq (a := a) hblock helems hscale
    exact ⟨fl, lfsr, es, sc, hlen, by simp only [exec, execMxfp4BlockConvert, onTurn, onBodyWaiting, onBody_runs _ _ _ hruns, h]⟩
  · intro bf p a b dst
    exact ⟨_, _, by simp only [exec, execVectorCompare, onBody_runs _ _ _ hruns, State.vectorCompare]; rfl⟩
  · intro half cond a b dst
    simp only [exec, execVectorSelect, onBody_runs _ _ _ hruns, State.vectorSelect]
  · intro f op a dst
    simp only [exec, execVectorReduce, onBody_runs _ _ _ hruns, State.vectorReduce]
  · intro half idx a dst
    exact ⟨_, by simp only [exec, execVectorPermute, onBody_runs _ _ _ hruns, State.vectorPermute]; rfl⟩
  · intro r off w hread
    simp only [exec, execVectorLoadStore, onBodyWaiting, onBody_runs _ _ _ hruns, State.vectorMove, if_true, State.useStore_clean _ _ _ _ _ hread]
  · intro r off w hwrite
    simp only [exec, execVectorLoadStore, onBodyWaiting, onBody_runs _ _ _ hruns, State.vectorMove, Bool.false_eq_true, if_false]
    rw [State.putStore_clean _ _ _ _ (by rwa [leBytes_length])]

end Sys2Proof.Machine
end

section
/-! PROOFS. Special functions, the control unit, HALT and core faults (R44 to R94). -/
namespace Sys2Proof.Machine

/-- A control operation of a body that runs, once its turn has come. -/
theorem exec_controlWait_runs {s : State} {core : Nat} (hruns : s.bodyRuns core = true) (op : ControlOp) (w : Waits) :
    exec (.controlWait core op w) s = .next (State.control core op (if waitSatisfied (s.coreAt core) op then s else s.waited core w)) := by
  simp only [exec, execControlWait, onBodyWaiting, onBody_runs _ _ _ hruns]
  split <;> rfl

/-- Settles O3, command by command, for a core that runs a body. -/
theorem controlCommandsComplete : Obligations.ControlCommandsComplete := by
  unfold Obligations.ControlCommandsComplete
  intro s core
  dsimp only
  refine ⟨?_, ?_, ?_, ?_, ?_, ?_, ?_⟩
  · intro fn bf a g dst hruns
    exact ⟨_, _, by simp only [exec, execSfuOp, onBody_runs _ _ _ hruns, State.sfuOp]; rfl⟩
  · intro b rest hruns hsfu
    exact ⟨_, by simp only [exec, execSfuResult, hruns, if_true, State.sfuReturn, hsfu]; rfl⟩
  · intro q k w hruns
    rw [exec_controlWait_runs hruns]
    simp only [State.control, waitSatisfied, decide_eq_true_eq]
  · intro off v w hruns hoff
    rw [exec_controlWait_runs hruns]
    simp only [State.control, waitSatisfied, Bool.false_eq_true, if_false, Nat.not_le.mpr hoff]
  · intro off dst w hruns hoff hwrite
    rw [exec_controlWait_runs hruns]
    simp only [State.control, waitSatisfied, Bool.false_eq_true, if_false, Nat.not_le.mpr hoff]
    rw [State.putStore_clean _ _ _ _ (by rwa [leBytes_length])]
  · intro hruns
    simp only [exec, execHalt, onBody_runs _ _ _ hruns, State.haltCore]
  · intro fw u t hruns htask
    simp only [exec, execCoreFault, onBody_runs _ _ _ hruns, State.failOnCore, htask]

end Sys2Proof.Machine
end

section
/-! PROOFS. Descriptors of the stream engine (R70 to R75, R259, R274). -/
namespace Sys2Proof.Machine

/-! ### A descriptor that starts at once, and one that is held -/

theorem State.issue_starts {s : State} {core queue : Nat} (hfree : s.queueFree core queue = true) (hnone : ((s.coreAt core).nextItem queue).isNone = true)
    (i : StreamItem) : s.issue core queue i = s.startItem core queue i := by
  simp [State.issue, hfree, hnone]

theorem onQueueWaiting_starts {s : State} {core queue : Nat} {w : Waits} {us : List Upset} (h : (s.upset us).startsNow core queue w = true)
    (i : StreamItem) : onQueueWaiting core queue i w us s = .next (((s.upset us).waited core w).startItem core queue i) := by
  simp only [State.startsNow, Bool.and_eq_true] at h
  obtain ⟨⟨hbody, hfree⟩, hnone⟩ := h
  rw [← State.issue_starts hfree hnone]
  exact onBody_runs core (fun s => (s.waited core w).issue core queue i) _ hbody

theorem onQueue_starts {s : State} {core queue : Nat} (h : s.startsWith core queue = true) (i : StreamItem) :
    onQueue core queue i s = .next (s.startItem core queue i) := by
  simp only [State.startsWith, Bool.and_eq_true] at h
  obtain ⟨⟨hbody, hfree⟩, hnone⟩ := h
  rw [← State.issue_starts hfree hnone]
  exact onBody_runs core (fun s => s.issue core queue i) s hbody

theorem State.issue_held {s : State} {core queue : Nat} (h : s.queueFree core queue = false ∨ (s.coreAt core).nextItem queue ≠ none)
    (i : StreamItem) : s.issue core queue i = s.updCore core (fun c => { c with issued := c.issued ++ [(queue, i)] }) := by
  refine if_neg fun hc => ?_
  obtain ⟨hfree, hnone⟩ := Bool.and_eq_true_iff.mp hc
  rcases h with h | h
  · rw [h] at hfree
    cases hfree
  · exact h (Option.isNone_iff_eq_none.mp hnone)

/-! ### What the descriptors do -/

theorem State.streamMove_eq {s : State} {core p : Nat} {d : StreamDesc} {pairs : List (Nat × Nat)} (hdims : d.dims.length ≤ 5)
    (hbytes : d.elemBytes ≠ 0) (hcount : d.dims.any (fun x => x.count == 0) = false) (hpart : s.corePart core = some p)
    (hall : s.resolveAll core p d = .ok pairs) (queue : Nat) :
    s.streamMove core queue d = if d.srcGlobal || d.dstGlobal then
        s.updCore core (fun c => { c with queues := c.queues ++ [(queue, ⟨d, s.snoopers core queue⟩)] })
      else s.performMove core queue d pairs (s.snoopers core queue) := by
  unfold State.streamMove
  rw [if_neg (by simp [Nat.not_lt.mpr hdims, hbytes, hcount])]
  simp only [hpart, hall]

theorem State.streamComplete_eq {s : State} {core queue p : Nat} {job : StreamJob} {pairs : List (Nat × Nat)}
    (hjob : (s.coreAt core).queues.find? (fun e => e.1 == queue) = some (queue, job)) (hpart : s.corePart core = some p)
    (hall : s.resolveAll core p job.desc = .ok pairs) :
    s.streamComplete core queue =
      (s.updCore core (fun c => { c with queues := c.queues.filter (fun e => e.1 != queue) })).performMove core queue job.desc pairs job.snoops := by
  simp only [State.streamComplete, hjob, hpart, hall]

theorem State.tapWalk_eq {s : State} {core p : Nat} {words : List Nat} {rd wrt : List Byte} (hpart : s.corePart core = some p)
    (hvalid : tapValid (tapDesc words) = true) (hh : 1 ≤ tapOutH (tapDesc words)) (hw : 1 ≤ tapOutW (tapDesc words))
    (hwalk : (s.walk core p (tapDesc words) (tapCells (tapDesc words)) [] []).1 = .ok (rd, wrt)) (queue : Nat) :
    s.tapWalk core queue words =
      ((s.walk core p (tapDesc words) (tapCells (tapDesc words)) [] []).2.snoop (s.snoopers core queue) rd wrt).bumpDone core queue := by
  unfold State.tapWalk
  simp only [hpart, hvalid, Bool.not_true, Bool.false_eq_true, if_false]
  rw [if_neg (by omega)]
  generalize s.walk core p (tapDesc words) (tapCells (tapDesc words)) [] [] = r at hwalk ⊢
  obtain ⟨res, u⟩ := r
  obtain rfl : res = .ok (rd, wrt) := hwalk
  rfl

theorem State.featureMap_eq {s : State} {core p a b : Nat} {fill : Bool} {words : List Nat} (hpart : s.corePart core = some p)
    (hok : (fmapDesc words).ok = true) (hfill : (fmapDesc words).fill = fill)
    (hsrc : s.resolve core p (fmapDesc words).srcGlobal (fmapDesc words).src
      ((fmapDesc words).blocks * (if fill then (fmapDesc words).packedBytes else (fmapDesc words).plainBytes)) = .ok a)
    (hdst : s.resolve core p (fmapDesc words).dstGlobal (fmapDesc words).dst
      ((fmapDesc words).blocks * (if fill then (fmapDesc words).plainBytes else (fmapDesc words).packedBytes)) = .ok b)
    {bytes : List Byte} {u v : State}
    (hread : s.globalRead 3 a ((fmapDesc words).blocks * (if fill then (fmapDesc words).packedBytes else (fmapDesc words).plainBytes)) = (none, bytes, u))
    (hwrite : u.globalWrite 3 b ((fmapDesc words).convert bytes).1 = (none, v)) (queue : Nat) :
    s.featureMap core queue fill words = ((v.raise core ((fmapDesc words).convert bytes).2).snoop (s.snoopers core queue) bytes
      ((fmapDesc words).convert bytes).1).bumpDone core queue := by
  simp only [State.featureMap, hpart, hok, hfill, hsrc, hdst, hread, hwrite, bne_self_eq_false, Bool.not_true, Bool.false_eq_true, if_false]

theorem State.tagPost_eq {s : State} {core p : Nat} {words : List Nat} (hpart : s.corePart core = some p) (h0 : words.getD 0 0 < 2 ^ 17)
    (h1 : words.getD 1 0 < 2 ^ 48) (h2 : words.getD 2 0 < 2 ^ 48) (hres : bitsAt (words.getD 2 0) 24 8 = 0) (hzero : ∀ i < 5, words.getD (3 + i) 0 = 0)
    (hspace : bitsAt (words.getD 2 0) 32 16 = 0 → s.inTaskSpace p (bitsAt (words.getD 1 0) 0 48)
      (tagBytes (bitOf (words.getD 0 0) 16) (bitsAt (words.getD 2 0) 0 24)) = true)
    (hput : (s.putTag 3 p (bitsAt (words.getD 0 0) 0 16) (bitsAt (words.getD 1 0) 0 48) (bitOf (words.getD 0 0) 16)
      (if bitsAt (words.getD 2 0) 32 16 = 0 then 1 else 2) (bitsAt (words.getD 2 0) 0 24) (bitsAt (words.getD 2 0) 32 16)).1 = none) (queue : Nat) :
    s.tagPost core queue words = (s.putTag 3 p (bitsAt (words.getD 0 0) 0 16) (bitsAt (words.getD 1 0) 0 48) (bitOf (words.getD 0 0) 16)
      (if bitsAt (words.getD 2 0) 32 16 = 0 then 1 else 2) (bitsAt (words.getD 2 0) 0 24) (bitsAt (words.getD 2 0) 32 16)).2.bumpDone core queue := by
  have hlast : (List.range 5).any (fun i => words.getD (3 + i) 0 != 0) = false :=
    List.any_eq_false.mpr fun i hi => by rw [hzero i (List.mem_range.mp hi)]; decide
  have hin : (bitsAt (words.getD 2 0) 32 16 == 0 && !s.inTaskSpace p (bitsAt (words.getD 1 0) 0 48)
      (tagBytes (bitOf (words.getD 0 0) 16) (bitsAt (words.getD 2 0) 0 24))) = false := by
    by_cases h : bitsAt (words.getD 2 0) 32 16 = 0
    · rw [hspace h, Bool.not_true, Bool.and_false]
    · rw [beq_eq_false_iff_ne.mpr h, Bool.false_and]
  simp only [State.tagPost, hpart, Nat.div_eq_of_lt h0, Nat.div_eq_of_lt h1, Nat.div_eq_of_lt h2, hres, hlast, hin, bne_self_eq_false, Bool.or_self,
    Bool.false_eq_true, if_false]
  generalize s.putTag 3 p (bitsAt (words.getD 0 0) 0 16) (bitsAt (words.getD 1 0) 0 48) (bitOf (words.getD 0 0) 16)
      (if bitsAt (words.getD 2 0) 32 16 = 0 then 1 else 2) (bitsAt (words.getD 2 0) 0 24) (bitsAt (words.getD 2 0) 32 16) = r at hput ⊢
  obtain ⟨st, u⟩ := r
  obtain rfl : st = none := hput
  rfl

/-- Settles O4, item by item, for a descriptor that starts at once, one that is held, and one that completes. -/
theorem streamCommandsComplete : Obligations.StreamCommandsComplete := by
  unfold Obligations.StreamCommandsComplete
  intro s core queue us w
  dsimp only
  refine ⟨?_, ?_, ?_, ?_, ?_, ?_⟩
  · intro d p pairs hstarts hdims hbytes hcount hpart hall
    rw [← State.streamMove_eq hdims hbytes hcount hpart hall]
    exact onQueueWaiting_starts hstarts (.move d)
  · intro d hruns hheld
    rw [← State.issue_held hheld]
    exact onBody_runs core (fun s => (s.waited core w).issue core queue (.move d)) _ hruns
  · intro job p pairs hruns hjob hpart hall
    simp only [exec, execStreamMoveComplete, hruns, if_true, State.streamComplete_eq hjob hpart hall]
  · intro words p rd wrt hstarts hpart hvalid hh hw hwalk
    rw [← State.tapWalk_eq hpart hvalid hh hw hwalk]
    exact onQueueWaiting_starts hstarts (.tap words)
  · intro fill words p a b hstarts hpart hok hfill hsrc hdst hread hwrite
    have hmap := State.featureMap_eq hpart hok hfill hsrc hdst (Prod.ext hread rfl) (Prod.ext hwrite rfl) queue
    rw [← hmap]
    cases fill with
    | true => exact onQueueWaiting_starts hstarts (.fmap true words)
    | false => exact onQueueWaiting_starts hstarts (.fmap false words)
  · intro words p hstarts hpart h0 h1 h2 hres hzero hspace hput
    rw [← State.tagPost_eq hpart h0 h1 h2 hres hzero hspace hput]
    exact onQueue_starts hstarts (.tag words)

end Sys2Proof.Machine
end

section
/-! PROOFS. KV descriptors (R196 to R213). -/
namespace Sys2Proof.Machine

theorem State.withTable_sound {s : State} {k : KvTarget} {tags : List Nat} (h : (s.checkTable k).1 = .sound tags) (core : Nat)
    (go : List Nat → State → State) : s.withTable core k go = go tags (s.checkTable k).2 := by
  unfold State.withTable
  generalize s.checkTable k = r at h ⊢
  obtain ⟨check, u⟩ := r
  obtain rfl : check = .sound tags := h
  rfl

section
variable {s : State} {core : Nat} {k : KvTarget} {words : List Nat}

theorem State.kvWrite_append (htarget : s.kvTarget core (words.getD 0 0) = some k) (hok : kvWriteOk 0 words = true) (queue : Nat) :
    s.kvWrite core queue 0 words =
      s.kvAppend core queue k (bitsAt (words.getD 1 0) 0 24) (bitsAt (words.getD 1 0) 32 7) (bitsAt (words.getD 2 0) 0 18) := by
  simp only [State.kvWrite, htarget, hok, Bool.not_true, Bool.false_eq_true, if_false, if_true]

theorem State.kvWrite_direct (htarget : s.kvTarget core (words.getD 0 0) = some k) (hok : kvWriteOk 1 words = true) (queue : Nat) :
    s.kvWrite core queue 1 words =
      s.kvDirect core queue k (bitsAt (words.getD 1 0) 0 24) (bitsAt (words.getD 1 0) 32 7) (bitsAt (words.getD 2 0) 0 18) := by
  simp only [State.kvWrite, htarget, hok, Bool.not_true, Bool.false_eq_true, if_false, Nat.one_ne_zero]

variable {first count src : Nat} {tags : List Nat}

theorem State.kvAppend_noPage (hfits : appendFits k.hand first count = true) (hpage : k.hand.noPage = true) (queue : Nat) :
    s.kvAppend core queue k first count src = s.bumpDone core queue := by
  simp only [State.kvAppend, hfits, hpage, Bool.not_true, Bool.false_eq_true, if_false, if_true]

theorem State.kvDirect_noPage (hfits : s.directFits k first count = true) (hpage : k.hand.noPage = true) (queue : Nat) :
    s.kvDirect core queue k first count src = s.bumpDone core queue := by
  simp only [State.kvDirect, hfits, hpage, Bool.not_true, Bool.false_eq_true, if_false, if_true]

variable {m : KvTraffic} {t u v : State} {b : List Byte}

theorem State.kvAppend_eq (hfits : appendFits k.hand first count = true) (hpage : k.hand.noPage = false)
    (htable : (s.checkTable k).1 = .sound tags) (hflush : (s.checkTable k).2.flushSlice k = (none, m, u))
    (hread : (u.raise core m.flags).storeReadable core src (count * u.kittySlotBytes k.slot) = true)
    (hb : (u.raise core m.flags).storeBytes core src (count * u.kittySlotBytes k.slot) = b)
    (hkitty : (u.raise core m.flags).writeKitty k (first % k.hand.runSize first) (chunksOf ((u.raise core m.flags).kittySlotBytes k.slot) count b)
      = (none, v)) (queue : Nat) :
    s.kvAppend core queue k first count src =
      ((v.snoop (v.snoopers core queue) (m.read ++ b) (m.wrote ++ b)).noteWritten k first count).bumpDone core queue := by
  simp only [State.kvAppend, hfits, hpage, Bool.not_true, Bool.false_eq_true, if_false]
  rw [State.withTable_sound htable]
  simp only [hflush]
  rw [State.useStore_clean _ _ _ _ _ hread, hb, hkitty]

theorem State.kvDirect_eq (hfits : s.directFits k first count = true) (hpage : k.hand.noPage = false)
    (htable : (s.checkTable k).1 = .sound tags) (ht : (s.checkTable k).2 = t)
    (hread : t.storeReadable core src (count * t.kittySlotBytes k.slot) = true)
    (hb : t.storeBytes core src (count * t.kittySlotBytes k.slot) = b)
    (hrun : t.writeRun k first (chunksOf (t.kittySlotBytes k.slot) count b) .none = (none, m, u)) (queue : Nat) :
    s.kvDirect core queue k first count src = ((((u.raise core m.flags).snoop ((u.raise core m.flags).snoopers core queue) (m.read ++ b)
      m.wrote).noteWritten k first count).bumpDone core queue) := by
  simp only [State.kvDirect, hfits, hpage, Bool.not_true, Bool.false_eq_true, if_false]
  rw [State.withTable_sound htable, ht]
  rw [State.useStore_clean _ _ _ _ _ hread, hb, hrun]
  rfl

/-- The blocks that a GATHER reads. -/
def gatheredBlocks (k : KvTarget) (words : List Nat) : List Nat :=
  let g := gatherDesc words
  let stop := if g.blockEnd = 0xFFFFF then writtenBlocks k else min g.blockEnd (writtenBlocks k)
  (List.range (stop - g.blockFirst)).map (· + g.blockFirst)

theorem State.kvGather_eq {a : GatherAcc} (htarget : s.kvTarget core (words.getD 0 0) = some k) (hok : s.gatherOk k.slot words = true)
    (htable : (s.checkTable k).1 = .sound tags) (ht : (s.checkTable k).2 = t)
    (hblocks : t.gatherBlocks k (gatherDesc words) tags (t.rdF (Reg.KV_WINDOW k.slot) Fld.KV_WINDOW_WINDOW)
      (t.rdF (Reg.KV_BIDIR k.slot) Fld.KV_BIDIR_BIDIR_LEN) (gatheredBlocks k words) ⟨[], [], 0, 0⟩ = (.ok a, u))
    (hwrite : (u.raise core a.flags).storeWritable core (gatherDesc words).dst a.out.length = true)
    (hv : (u.raise core a.flags).storePut core (gatherDesc words).dst a.out = v) (htask : (v.coreAt core).task.isSome = true) (queue : Nat) :
    s.kvGather core queue words = (v.snoop (v.snoopers core queue) a.read a.out).bumpDone core queue := by
  simp only [State.kvGather, htarget, hok, Bool.not_true, Bool.false_eq_true, if_false]
  rw [State.withTable_sound htable, ht]
  simp only [gatheredBlocks] at hblocks
  simp only [hblocks]
  rw [State.putStore_clean _ _ _ _ hwrite, hv, if_neg (by simpa [← Option.isSome_iff_ne_none] using htask)]

end

/-- Settles O5, item by item: an APPEND, a DIRECT and a GATHER whose accesses succeed. -/
theorem kvCommandsComplete : Obligations.KvCommandsComplete := by
  unfold Obligations.KvCommandsComplete
  intro s core queue words us k tags wt
  dsimp only
  intro hstarts htarget
  refine ⟨?_, ?_, ?_, ?_, ?_⟩
  · intro hok hfits hpage
    rw [← State.kvAppend_noPage hfits hpage, ← State.kvWrite_append htarget hok]
    exact onQueueWaiting_starts hstarts (.kvWrite 0 words)
  · intro hok hfits hpage htable hflush hread hkitty
    rw [← State.kvAppend_eq hfits hpage htable (Prod.ext hflush rfl) hread rfl (Prod.ext hkitty rfl), ← State.kvWrite_append htarget hok]
    exact onQueueWaiting_starts hstarts (.kvWrite 0 words)
  · intro hok hfits hpage
    rw [← State.kvDirect_noPage hfits hpage, ← State.kvWrite_direct htarget hok]
    exact onQueueWaiting_starts hstarts (.kvWrite 1 words)
  · intro hok hfits hpage htable hread hrun
    rw [← State.kvDirect_eq hfits hpage htable rfl hread rfl (Prod.ext hrun rfl), ← State.kvWrite_direct htarget hok]
    exact onQueueWaiting_starts hstarts (.kvWrite 1 words)
  · intro a hok htable hblocks hwrite htask
    exact (onQueueWaiting_starts hstarts (.kvGather words)).trans
      (congrArg Host.Outcome.next (State.kvGather_eq htarget hok htable rfl (Prod.ext hblocks rfl) hwrite rfl htask queue))

end Sys2Proof.Machine
end

section
/-! PROOFS. Check-value descriptors (R415 to R421). -/
namespace Sys2Proof.Machine

theorem State.onContext_ok {s : State} {core : Nat} {d : CvDesc} {task : Nat × Nat} {ok : State → Nat → (Nat × Nat) → Bool}
    (htask : (s.coreAt core).task = some task) (hd : cvDescOk d = true) (hok : ok s (coreCluster core) task = true)
    (f : State → Nat → (Nat × Nat) → State) : s.onContext core d ok f = f s (coreCluster core) task := by
  simp only [State.onContext, htask, hd, hok, Bool.and_self, if_true]

section
variable {s : State} {core : Nat} {d : CvDesc} {task : Nat × Nat} (htask : (s.coreAt core).task = some task) (hd : cvDescOk d = true)
include htask hd

theorem State.cvDetach_eq (hstate : s.cvState (coreCluster core) d.ctx = 1) (howner : s.cvOwnedBy (coreCluster core) d.ctx = some task) (queue : Nat) :
    s.cvDetach core queue d = (s.detachContext (coreCluster core) d.ctx).bumpDone core queue := by
  rw [State.cvDetach, State.onContext_ok htask hd rfl, if_pos ⟨hstate, howner⟩]

theorem State.cvSave_eq (hplace : recordPlaceOk d = true) {v : State}
    (hwrite : s.globalWrite 3 (storeAddr core d.offset) (s.cvRecord (coreCluster core) d.ctx) = (none, v)) (queue : Nat) :
    s.cvSave core queue d = v.bumpDone core queue := by
  rw [State.cvSave, State.onContext_ok htask hd hplace, hwrite]

theorem State.cvRestore_eq (hfree : s.cvFree (coreCluster core) d.ctx task = true) (hplace : recordPlaceOk d = true) {b : List Byte} {v : State}
    (hread : s.globalRead 3 (storeAddr core d.offset) 32 = (none, b, v)) (queue : Nat) :
    s.cvRestore core queue d =
      ((((((v.wr64 (Reg.CV_RUNNING_LO (coreCluster core) d.ctx) (leAt b 0 8)).wr64 (Reg.CV_BYTES_LO (coreCluster core) d.ctx) (leAt b 8 8)).wrF
        (Reg.CV_CTRL (coreCluster core) d.ctx) Fld.CV_CTRL_ALG (bitsAt (leAt b 16 8) 0 2)).wrF (Reg.CV_CTRL (coreCluster core) d.ctx)
        Fld.CV_CTRL_TAG_LEN (bitsAt (leAt b 16 8) 2 1)).wrF (Reg.CV_CTRL (coreCluster core) d.ctx) Fld.CV_CTRL_STATE 2).showResult (coreCluster core)
        d.ctx).bumpDone core queue := by
  rw [State.cvRestore, State.onContext_ok htask hd (by rw [hfree, hplace, Bool.and_self]), hread]

theorem State.cvFeed_eq (hfree : s.cvFree (coreCluster core) d.ctx task = true) (hlen : 1 ≤ d.length) (hend : d.offset + d.length ≤ storeSize)
    {b : List Byte} {v : State} (hread : s.globalRead 3 (storeAddr core d.offset) d.length = (none, b, v)) (queue : Nat) :
    s.cvFeed core queue d = ((((v.loadContext (coreCluster core) d).startContext (coreCluster core) d.ctx d.keep).feedContext (coreCluster core) d.ctx
      b).wrF (Reg.CV_CTRL (coreCluster core) d.ctx) Fld.CV_CTRL_STATE 2).bumpDone core queue := by
  rw [State.cvFeed, State.onContext_ok htask hd (by rw [hfree, decide_eq_true ⟨hlen, hend⟩, Bool.and_self]), hread]

end

section
variable {s : State} {u x value : Nat} (hnone : (s.cvOwnedBy u x).isNone = true)
include hnone

theorem State.hostAttach_eq (hstate : s.cvState u x ≠ 1)
    (hpath : (s.writeCtrl u x value).pathOk u ((s.writeCtrl u x value).rdF (Reg.CV_CTRL u x) Fld.CV_CTRL_SRC)
      ((s.writeCtrl u x value).rdF (Reg.CV_CTRL u x) Fld.CV_CTRL_INDEX) = true) (hw : (s.writeCtrl u x value).cvState u x ≠ 3) :
    s.hostAttach u x value =
      (((s.writeCtrl u x value).wrF (Reg.CV_CTRL u x) Fld.CV_CTRL_STATE 1).wrF (Reg.CV_CTRL u x) Fld.CV_CTRL_ATTACH 1).startContext u x
        ((((s.writeCtrl u x value).wrF (Reg.CV_CTRL u x) Fld.CV_CTRL_STATE 1).wrF (Reg.CV_CTRL u x) Fld.CV_CTRL_ATTACH 1).rdB (Reg.CV_CTRL u x)
          Fld.CV_CTRL_KEEP) := by
  simp only [State.hostAttach, Option.isNone_iff_eq_none.mp hnone, Option.isSome_none, beq_eq_false_iff_ne.mpr hstate, decide_eq_false hw, hpath,
    Bool.not_true, Bool.or_self, Bool.false_eq_true, if_false]

theorem State.hostDetach_eq (hstate : s.cvState u x = 1) : s.hostDetach u x value = (s.writeCtrl u x value).detachContext u x := by
  simp only [State.hostDetach, Option.isNone_iff_eq_none.mp hnone, Option.isSome_none, hstate, BEq.rfl, Bool.not_false, Bool.and_self, if_true]

end

/-- Settles O6, item by item, for contexts that are free or owned by the task. -/
theorem checkValueCommandsComplete : Obligations.CheckValueCommandsComplete := by
  unfold Obligations.CheckValueCommandsComplete
  intro s core queue d task us wt
  dsimp only
  refine ⟨fun hstarts htask hd => ⟨fun hfree hcore hqueue => ?_, fun hstate howner => ?_⟩,
    fun hstarts htask hd => ⟨fun hplace hwrite => ?_, fun hplace hfree hread => ?_, fun hfree hlen hend hread => ?_⟩,
    fun v x value hreach hfits hnone => ⟨fun h1 h3 hpath hw => ?_, fun hstate => ?_⟩⟩
  · refine (onQueue_starts hstarts (.cv .attach d)).trans (congrArg Host.Outcome.next ?_)
    rw [State.startItem, State.cvRun, State.cvAttach, State.onContext_ok htask hd (by simp [hfree, hcore, hqueue])]
  · exact (onQueue_starts hstarts (.cv .detach d)).trans (congrArg Host.Outcome.next (State.cvDetach_eq htask hd hstate howner queue))
  · exact (onQueueWaiting_starts hstarts (.cv .save d)).trans
      (congrArg Host.Outcome.next (State.cvSave_eq htask hd hplace (Prod.ext hwrite rfl) queue))
  · exact ⟨_, _, (onQueueWaiting_starts hstarts (.cv .restore d)).trans
      (congrArg Host.Outcome.next (State.cvRestore_eq htask hd hfree hplace (Prod.ext hread rfl) queue))⟩
  · exact (onQueueWaiting_starts hstarts (.cv .feed d)).trans
      (congrArg Host.Outcome.next (State.cvFeed_eq htask hd hfree hlen hend (Prod.ext hread rfl) queue))
  · simp only [exec, execHostCvAttach, hreach, hfits, Bool.and_self, if_true]
    exact congrArg Host.Outcome.next (State.hostAttach_eq hnone h1 hpath hw)
  · simp only [exec, execHostCvDetach, hreach, hfits, Bool.and_self, if_true]
    exact congrArg Host.Outcome.next (State.hostDetach_eq hnone hstate)

end Sys2Proof.Machine
end

section
/-! PROOFS. Collectives whose data a check-value context snoops (R340 to R343, R419). -/
namespace Sys2Proof.Machine

/-- A sent collective of one byte that a check-value context snoops. -/
def Collective.snooped : Collective :=
  ⟨0, 1, 0, 0, 0, 0, 0, .send, 0, 1, false, 0, 0, 1, 0, 0, 0, true, true, false, [[1]], none, [], [0]⟩

/-- A ready module whose partition 0 runs, with an attached check-value context and the sent collective. -/
def State.withSnooped : State :=
  { ((State.reset.wrF Reg.MGT_STATE Fld.MGT_STATE_STATE 1).wrF (Reg.PART_STATE 0) Fld.PART_STATE_STATE 1).wrF (Reg.CV_CTRL 0 0) Fld.CV_CTRL_STATE 1 with
    ndx := { State.reset.ndx with collectives := [Collective.snooped] } }

/-- The bytes that a check-value context has taken, after a command. -/
def bytesTaken (o : Out) : Nat := match o with
  | .next t => t.rd64 (Reg.CV_BYTES_LO 0 0)
  | _ => 0

theorem bytesTaken_collectiveComplete : bytesTaken (exec (.collectiveComplete 0 0 0 []) State.withSnooped) = 1 := by decide +kernel

/-- Refutes O7: where a check-value context snoops the queue of a collective, its completion feeds it the sources read, which the statement's state leaves out. -/
theorem not_collectiveCommandsComplete : ¬ Obligations.CollectiveCommandsComplete := by
  unfold Obligations.CollectiveCommandsComplete
  intro h
  obtain ⟨-, -, -, hcomplete, -⟩ := h State.withSnooped []
  have hexec := hcomplete 0 0 0 Collective.snooped [] [] (by decide +kernel) (by decide +kernel) (by decide +kernel) rfl rfl rfl (by decide +kernel)
  have hbytes := bytesTaken_collectiveComplete
  rw [hexec] at hbytes
  revert hbytes
  decide +kernel

end Sys2Proof.Machine
end

section
/-! PROOFS. Submissions (R79, R86 to R91, R103, R104). -/
namespace Sys2Proof.Machine

theorem turnOrder_eq_cons (n : Nat) : ∃ l, (List.range 8).map (fun i => (n + i) % 8) = n % 8 :: l :=
  ⟨_, congrArg (List.map _) (List.range_succ_eq_map (n := 7))⟩

theorem State.fetchFrom_sq {s : State} {p q : Nat} (rest : List Nat) {b : List Byte} (hwaiting : s.sqWaiting p q = true) {u : State}
    (hread : s.ringRead (s.rdF (Reg.SQ_CFG p q) Fld.SQ_CFG_SPACE) (p + 1)
      (ringBase (s.rd64 (Reg.SQ_BASE_LO p q)) 32 (s.rdF (Reg.SQ_CFG p q) Fld.SQ_CFG_SIZE_LOG2) + 32 * s.rdN (Reg.SQ_HEAD p q)) 32 = (some b, u))
    (hnone : u.submitsOf p q = []) (hfence : ((parseEntry (.sq q) b).fence && u.queueBusy p q) = false)
    (hroom : (u.packetTasks p (parseEntry (.sq q) b)).2.2.roomFor p (u.packetTasks p (parseEntry (.sq q) b)).1 = true) :
    State.fetchFrom p (q :: rest) s =
      ((((u.packetTasks p (parseEntry (.sq q) b)).2.2.wrN (Reg.SQ_HEAD p q)
          ((s.rdN (Reg.SQ_HEAD p q) + 1) % 2 ^ s.rdF (Reg.SQ_CFG p q) Fld.SQ_CFG_SIZE_LOG2)).putPartDealer p
        { (u.packetTasks p (parseEntry (.sq q) b)).2.2.partDealer p with
          fetched := some (parseEntry (.sq q) b), fetchedBad := (u.packetTasks p (parseEntry (.sq q) b)).2.1, turn := (q + 1) % 8 }).flushSubmits p q) := by
  rw [State.fetchFrom]
  simp only [hwaiting, Bool.not_true, Bool.false_eq_true, if_false, hread, hnone, List.find?_nil, hfence]
  rw [if_neg (by simp [hroom])]

theorem State.acceptEntry_eq {s u : State} {p : Nat} {e : SubmissionEntry} {copyBad : Option Nat} {b : List Byte} {ts : List TaskDesc}
    (hplace : s.packetPlaceOk p e = true) (hfirst : s.recordsOk p e 1 = true) (hread : s.readPacket p e copyBad = (none, b, u))
    (hrecords : u.recordsOk p e (packetCount b) = true) (hseq : e.seq = u.expectOf p e.source)
    (hhead : bitsAt (leAt b 0 8) 32 32 = u.expectOf p e.source) (hcheck : u.checkPacket p e b = .ok ts) :
    ∃ g : Graph, g.part = p ∧ g.source = e.source ∧ g.seq = e.seq ∧ g.uid = (u.advanceExpect p e.source).dealer.nextUid ∧ g.tag = leAt b 32 8 ∧
      g.tasks = ts.map (newTask (u.advanceExpect p e.source).now) ∧
      s.acceptEntry p e copyBad = { (u.advanceExpect p e.source).wake with dealer := { (u.advanceExpect p e.source).dealer with
        graphs := (u.advanceExpect p e.source).dealer.graphs ++ [g], nextUid := (u.advanceExpect p e.source).dealer.nextUid + 1 } } := by
  simp only [State.acceptEntry, hplace, hfirst, hread, hrecords, hcheck, Bool.not_true, Bool.or_self, Bool.false_eq_true, if_false]
  rw [if_neg (by simp [← hseq, hhead])]
  exact ⟨{
    uid := (u.advanceExpect p e.source).dealer.nextUid, part := p, source := e.source, seq := e.seq, tag := leAt b 32 8
    trick := bitsAt (leAt b 24 8) 0 48
    deckOld := decide (bitsAt (leAt b 16 8) 0 32 < (u.advanceExpect p e.source).rdN Reg.DEAL_DECK_EPOCH)
    records := if e.records then some e.recordAddr else none
    aborted := false
    tasks := ts.map (newTask (u.advanceExpect p e.source).now) }, rfl, rfl, rfl, rfl, rfl, rfl, rfl⟩

/-- Settles O8, by the cases of a fetch and the checks of an acceptance. -/
theorem submissionCommandsComplete : Obligations.SubmissionCommandsComplete := by
  unfold Obligations.SubmissionCommandsComplete
  intro s p us
  dsimp only
  refine ⟨?_, ?_⟩
  · intro hruns hon hfetched
    refine ⟨?_, ?_⟩
    · intro e rest hqueue hroom
      simp only [exec, execSubmissionFetch, hruns, hon, hfetched, hqueue, hroom, Bool.and_self, Bool.not_true, Option.isSome_none, Bool.or_self,
        Bool.false_eq_true, if_false, if_true]
    · intro q b hqueue hq hwaiting hread hnone hfence hroom
      subst hq
      obtain ⟨l, hl⟩ := turnOrder_eq_cons ((s.upset us).partDealer p).turn
      simp only [exec, execSubmissionFetch, hruns, hon, hfetched, hqueue, hl, Bool.and_self, Bool.not_true, Option.isSome_none, Bool.or_self,
        Bool.false_eq_true, if_false]
      exact congrArg Host.Outcome.next (State.fetchFrom_sq l hwaiting (Prod.ext hread rfl) hnone hfence hroom)
  · intro e copyBad ts hfetched hgood hworks hplace hfirst hread hrecords hseq hhead hcheck
    obtain ⟨g, hpart, hsource, hgseq, huid, htag, htasks, haccept⟩ :=
      State.acceptEntry_eq hplace hfirst (Prod.ext hread rfl) hrecords hseq hhead hcheck
    refine ⟨g, hpart, hsource, hgseq, huid, htag, htasks, ?_⟩
    simp only [exec, execGraphAccept, hfetched, hgood, hworks, if_true]
    exact congrArg Host.Outcome.next haccept

end Sys2Proof.Machine
end

section
/-! PROOFS. Issue decisions, loads, ends, timeouts and aborts of tasks (R84 to R116). -/
namespace Sys2Proof.Machine

/-- The ready tasks of one class, decided in rank order (R98). -/
def State.decideClass (p : Nat) (acc : DecisionState × State) (cls : TaskClass) : DecisionState × State :=
  (acc.2.rankedOf p cls).foldl (fun acc x => State.decideTask p x acc) acc

theorem State.decideClass_none {p : Nat} {acc : DecisionState × State} {cls : TaskClass} (h : acc.2.rankedOf p cls = []) :
    State.decideClass p acc cls = acc := by
  rw [State.decideClass, h, List.foldl_nil]

theorem State.decideClass_one {p : Nat} {acc : DecisionState × State} {cls : TaskClass} {x : Ranked} (h : acc.2.rankedOf p cls = [x]) :
    State.decideClass p acc cls = State.decideTask p x acc := by
  rw [State.decideClass, h, List.foldl_cons, List.foldl_nil]

theorem execDealerDecision_eq {s : State} {p : Nat} (hworks : s.partWorks p = true) (hon : s.dealerOn p = true) :
    exec (.dealerDecision p) s = .next ([TaskClass.trump, .prefill, .vision, .collective, .background].foldl (State.decideClass p)
      (({ startedOn := [], held := false, reserved := [] } : DecisionState), s)).2 := by
  simp only [exec, execDealerDecision, hworks, hon, Bool.and_self, Bool.not_true, Bool.false_eq_true, if_false]
  rfl

/-- The first usable placement of a ready task is free, and its energy is admitted: the task starts on it (R95, R96, R100). -/
theorem State.decideTask_starts {s : State} {p i : Nat} {x : Ranked} {g : Graph} {t : Task} {pl : Placement} {l : List (Placement × Nat)}
    (htask : s.taskAt x.graph.uid x.task.desc.id = some (g, t)) (hready : phaseReady t.phase = true)
    (htrump : (t.desc.cls == .prefill && s.trumpWaiting p g.trick) = false) (hlink : (t.desc.cls == .collective && !s.groupLinkUp p) = false)
    (husable : (t.desc.placements.zipIdx).filter (fun e => (placementCores e.1).all s.coreWorking) = (pl, i) :: l)
    (hfree : ((placementCores pl).all (fun n => (s.coreAt n).task.isNone && !s.coreResetting n)) = true) (henergy : s.energyAdmits p g t false = true) :
    (State.decideTask p x ({ startedOn := [], held := false, reserved := [] }, s)).2 = s.startTask p g t i := by
  have hfind : ((pl, i) :: l).find? (fun e => (placementCores e.1).all (fun n => (s.coreAt n).task.isNone && !([] : List Nat).contains n && !s.coreResetting n))
      = some (pl, i) := List.find?_cons_of_pos (by simpa using hfree)
  simp only [State.decideTask, htask, hready, htrump, husable, hlink, Bool.not_true, Bool.false_and, Bool.false_eq_true, if_false]
  simp only [hfind]
  simp [henergy]

/-- A decision with one ready task decides that task only. -/
theorem State.decisions_one {s : State} {p : Nat} {cls : TaskClass} {x : Ranked} {d : DecisionState} (hone : s.rankedOf p cls = [x])
    (hother : ∀ c, c ≠ cls → s.rankedOf p c = [] ∧ (State.decideTask p x (d, s)).2.rankedOf p c = []) :
    [TaskClass.trump, .prefill, .vision, .collective, .background].foldl (State.decideClass p) (d, s) = State.decideTask p x (d, s) := by
  have hbefore (c : TaskClass) (hc : c ≠ cls) : State.decideClass p (d, s) c = (d, s) := State.decideClass_none (hother c hc).1
  have hafter (c : TaskClass) (hc : c ≠ cls) : State.decideClass p (State.decideTask p x (d, s)) c = State.decideTask p x (d, s) :=
    State.decideClass_none (hother c hc).2
  have hthis : State.decideClass p (d, s) cls = State.decideTask p x (d, s) := State.decideClass_one hone
  cases cls <;> simp only [List.foldl_cons, List.foldl_nil, hbefore, hthis, hafter, ne_eq, reduceCtorEq, not_false_eq_true]

/-- Settles O9, command by command. -/
theorem taskCommandsComplete : Obligations.TaskCommandsComplete := by
  unfold Obligations.TaskCommandsComplete
  intro s
  refine ⟨?_, ?_, ?_, ?_, ?_⟩
  · intro p cls x g t pl i l hworks hon hone hother htask hready htrump hlink husable hfree henergy
    have hstart := State.decideTask_starts htask hready htrump hlink husable hfree henergy
    rw [execDealerDecision_eq hworks hon, State.decisions_one hone (by rwa [hstart]), hstart]
  · intro uid tid g t pl us u htask hphase hworks hcounted hpower hpl r hr
    have hload : State.loadCores g t pl.bodyTable t.cores.zipIdx u = (none, r.2) := Prod.ext hr rfl
    simp only [exec, execTaskLoadComplete]
    rw [show s.upset us = u from rfl]
    simp [htask, hphase, hworks, hcounted, hpower, hpl, hload]
  · intro uid tid g h t t' htask hphase hworks habort hdrained hcoll a flags stall empty b hb
    simp only [exec, execTaskDone, htask]
    simp only [hphase, hworks, hdrained, hcoll, habort, ne_eq, not_true_eq_false, Bool.not_true, Bool.or_false, decide_false, Bool.false_eq_true, if_false]
    split
    · next hn => cases hn.symm.trans hb
    · next hs =>
      cases hs.symm.trans hb
      rfl
  · intro uid tid n g t fw u htask hphase hworks hn hrun hlate
    have hany : t.cores.any (fun n => !(u.coreAt n).drained && decide (t.limit * cycleUnit ≤ (u.coreAt n).cycles)) = true :=
      List.any_eq_true.mpr ⟨n, hn, by simp [hrun, hlate]⟩
    simp only [exec, execTaskTimeout]
    rw [show s.upset fw = u from rfl]
    simp only [htask, hphase, hworks, hany, decide_true, Bool.and_self, if_true]
  · intro fn p seq g hreach hmay hworks hfind
    simp only [exec, execAbortSeq, State.abortSeq, hreach, hmay, hworks, hfind, Bool.and_self, Bool.not_true, Bool.false_eq_true, if_false]

end Sys2Proof.Machine
end

section
/-! PROOFS. Remaps, the scrub, channel failures and the host's window (R123 to R140). -/
namespace Sys2Proof.Machine

/-- What a scrub does after the unit: the next place, and the progress that the first die of the module shows. -/
def State.scrubbed (die off : Nat) (u : State) : Out :=
  let next := if u.fitted ≤ off + 256 then 0 else off + 256
  let v := { u with memory := { u.memory with scrubAt := mapSet die next u.memory.scrubAt } }
  if (List.range 4).find? (fun d => !v.mgmt.excludedDies.contains d) = some die then
    let w := v.wrF Reg.MEM_SCRUB Fld.MEM_SCRUB_PROGRESS (next * 65536 / v.fitted)
    .next (if next = 0 then w.wrF Reg.MEM_SCRUB Fld.MEM_SCRUB_PASSES ((w.rdF Reg.MEM_SCRUB Fld.MEM_SCRUB_PASSES + 1) % 2 ^ 16) else w)
  else .next v

theorem execScrubRead_eq {s : State} {die : Nat} {us : List Upset} (hdie : die < 4)
    (hperiod : (s.upset us).rdF Reg.MEM_CFG Fld.MEM_CFG_SCRUB_PERIOD ≠ 0)
    (hself : (s.upset us).memory.selfRefresh.contains
      ((s.upset us).stackIndex (die * hbmRegion + mapGetD 0 die (s.upset us).memory.scrubAt)) = false)
    (hexcluded : (s.upset us).mgmt.excludedDies.contains die = false) (hstandby : (s.upset us).power.standby = false) :
    exec (.scrubRead die us) s = State.scrubbed die (mapGetD 0 die (s.upset us).memory.scrubAt)
      ((s.upset us).scrubUnit (die * hbmRegion + mapGetD 0 die (s.upset us).memory.scrubAt)) := by
  refine if_neg ?_
  rintro (h | h | h | h | h)
  · exact absurd h (Nat.not_le.mpr hdie)
  · exact hperiod h
  · exact absurd (hself.symm.trans h) Bool.false_ne_true
  · exact absurd (hexcluded.symm.trans h) Bool.false_ne_true
  · exact absurd (hstandby.symm.trans h) Bool.false_ne_true

theorem State.scrubbed_eq (die off : Nat) (u : State) :
    let next := if u.fitted ≤ off + 256 then 0 else off + 256
    let v := { u with memory := { u.memory with scrubAt := mapSet die next u.memory.scrubAt } }
    ((List.range 4).find? (fun d => !v.mgmt.excludedDies.contains d) ≠ some die → State.scrubbed die off u = .next v) ∧
    ((List.range 4).find? (fun d => !v.mgmt.excludedDies.contains d) = some die → next ≠ 0 →
      State.scrubbed die off u = .next (v.wrF Reg.MEM_SCRUB Fld.MEM_SCRUB_PROGRESS (next * 65536 / v.fitted))) :=
  ⟨fun hother => if_neg hother, fun hfirst hnext => (if_pos hfirst).trans (congrArg Host.Outcome.next (if_neg hnext))⟩

/-- Settles O10, command by command. -/
theorem memoryCommandsComplete : Obligations.MemoryCommandsComplete := by
  unfold Obligations.MemoryCommandsComplete
  intro s
  refine ⟨?_, ?_, ?_, ?_, ?_, ?_⟩
  · intro die page r hfind
    simp only [exec, execRemapComplete, hfind] <;> rfl
  · intro die us t off a hdie hperiod hself hexcluded hstandby
    rw [execScrubRead_eq hdie hperiod hself hexcluded hstandby]
    exact State.scrubbed_eq die off (t.scrubUnit a)
  · intro die pc a hdie hpc hnew
    simp only [exec, execHbmChannelFailed]
    rw [if_neg (by rw [hnew]; simp only [Bool.false_eq_true, or_false]; omega)]
    rfl
  · intro fn off n us
    dsimp only
    intro hup hready hfn hoff hok hread
    simp only [exec, execBar4Read, hup, hready, hfn, Nat.not_lt.mpr hoff, hok, Bool.not_true, Bool.or_false, decide_false, Bool.false_eq_true, if_false]
    generalize State.hbmRead 3 ((s.upset us).windowAddr fn off) n (s.upset us) = r at hread ⊢
    obtain ⟨st, b, u⟩ := r
    obtain rfl : st = none := hread
    rfl
  · intro fn off bytes us t a b hup hready hfn hoff hok
    simp only [exec, execBar4Write]
    rw [show s.upset us = t from rfl, show t.windowAddr fn off = a from rfl]
    simp only [hup, hready, hfn, Nat.not_lt.mpr hoff, hok, Bool.not_true, Bool.or_false, decide_false, Bool.false_eq_true, if_false]
    rfl
  · intro fn target value hup hready hfn htarget hwho
    have hgo : (s.pcieUp && (s.ready || fn == 0) && s.fnExists fn && decide (target < 5) && (fn == 0 || fn == target)) = true := by
      simpa [hup, hfn, htarget] using ⟨hready, hwho⟩
    simp only [exec, execWinBaseWrite, State.winBase, hgo, if_true]

end Sys2Proof.Machine
end

section
/-! PROOFS. Writes of the rings' tails and heads (R102, R151, R248, R315, R316). -/
namespace Sys2Proof.Machine

/-- A pointer within its ring is stored; a doorbell also wakes the module (R102, R316). -/
theorem State.ringPointer_stores {s : State} {d : DoorbellWrite} (halign : d.viaDoorbell = true → alignedDoorbell d = true) {off log2 bad : Nat}
    (h : d.value < 2 ^ log2) : s.ringPointer d off log2 bad = (if d.viaDoorbell then s.wake else s).wrN off d.value := by
  have hgood : (d.viaDoorbell && !alignedDoorbell d) = false := by
    by_cases hd : d.viaDoorbell = true
    · rw [halign hd, Bool.not_true, Bool.and_false]
    · rw [Bool.eq_false_iff.mpr hd, Bool.false_and]
  simp only [State.ringPointer, hgood, Nat.not_le.mpr h, Bool.false_eq_true, if_false]

theorem State.pointerReaches_eq {s : State} (hreach : s.hostReaches = true) (page : Nat) (r : RingRef) (d : DoorbellWrite) :
    s.pointerReaches page r d = if d.viaDoorbell then namesRing d page r && s.doorbellReaches d.fn page r else s.reachesRing d.fn r := by
  rw [State.pointerReaches, hreach, Bool.true_and]

theorem State.pointerReaches_none {s : State} {d : DoorbellWrite} (hd : d.viaDoorbell = true) (hnone : bar2Ring d.fn (d.offset / 4 * 4) = none)
    (page : Nat) (r : RingRef) : s.pointerReaches page r d = false := by
  simp [State.pointerReaches, hd, namesRing, hnone]

theorem State.ringWriteBy_stores {s : State} {d : DoorbellWrite} (halign : d.viaDoorbell = true → alignedDoorbell d = true) {page : Nat} {r : RingRef}
    (hreach : s.pointerReaches page r d = true) {off log2 bad : Nat} (h : d.value < 2 ^ log2) :
    s.ringWriteBy page r d off log2 bad = (if d.viaDoorbell then s.wake else s).wrN off d.value := by
  rw [State.ringWriteBy, if_pos hreach, State.ringPointer_stores halign h]

/-- Where no doorbell lies, a pointer write changes nothing. -/
theorem State.pointerWrite_unreached {s : State} {d : DoorbellWrite} (h : ∀ page r, s.pointerReaches page r d = false) (page : Nat) (r : RingRef) :
    s.pointerWrite page r d = s := by
  cases r <;> simp [State.pointerWrite, State.ringWriteBy, State.cqHead, State.scqHead, State.mcqHead, h]

/-- Settles O11, ring by ring. -/
theorem ringWritesComplete : Obligations.RingWritesComplete := by
  unfold Obligations.RingWritesComplete
  intro s d hhost halign w reaches
  have hreaches (page : Nat) (r : RingRef) (h : reaches page r = true) : s.pointerReaches page r d = true := (State.pointerReaches_eq hhost page r d).trans h
  refine ⟨?_, ?_, ?_, ?_, ?_, ?_, ?_, ?_, ?_, ?_, ?_⟩
  · intro p q hr h
    exact congrArg Host.Outcome.next (State.ringWriteBy_stores halign (hreaches _ _ hr) h)
  · intro p q hr h
    exact congrArg Host.Outcome.next (State.ringWriteBy_stores halign (hreaches _ _ hr) h)
  · intro hr h
    exact congrArg Host.Outcome.next (State.ringWriteBy_stores halign (hreaches _ _ hr) h)
  · intro page die hr h
    exact congrArg Host.Outcome.next (State.ringWriteBy_stores halign (hreaches _ _ hr) h)
  · intro p hr h
    exact congrArg Host.Outcome.next (State.ringWriteBy_stores halign (hreaches _ _ hr) h)
  · intro page m hr h
    exact congrArg Host.Outcome.next (State.ringWriteBy_stores halign (hreaches _ _ hr) h)
  · intro p q hr h
    simp only [exec, execCqHeadWrite, State.pointerWrite, State.cqHead, hreaches _ _ hr, if_true, State.ringPointer_stores halign h]
    rfl
  · intro p q _ hr h hfull
    simp only [exec, execScqHeadWrite, State.pointerWrite, State.scqHead, hreaches _ _ hr, hfull, State.ringPointer_stores halign h, Bool.not_true,
      Bool.false_and, Bool.false_eq_true, if_false]
    rfl
  · intro page m p hr h howner
    simp only [exec, execMcqHeadWrite, State.pointerWrite, State.mcqHead, hreaches _ _ hr, State.ringPointer_stores halign h, Bool.not_true,
      Bool.false_eq_true, if_false]
    rw [show (if d.viaDoorbell = true then s.wake else s).wrN (Reg.MCQ_HEAD m) d.value = w (Reg.MCQ_HEAD m) from rfl, howner]
  · intro hd hnone p q
    have hstays (page : Nat) (r : RingRef) : s.pointerWrite page r d = s := State.pointerWrite_unreached (State.pointerReaches_none hd hnone) page r
    simp only [exec, execSqTailWrite, execCqHeadWrite, execRqTailWrite, execScqHeadWrite, execTlnCmdTailWrite, execEqTailWrite, execRkqTailWrite,
      execMsqTailWrite, execMcqHeadWrite, hstays, and_self]
  · exact fun _ _ => rfl

end Sys2Proof.Machine
end

section
/-! PROOFS. Register accesses and their widths (R9 to R12, R36, R87, R407). -/
namespace Sys2Proof.Machine

theorem not_pair_of_width {off bytes : Nat} (hbytes : bytes = 4 ∨ bytes = 8) (halign : off % bytes = 0) : ¬((bytes ≠ 4 ∧ bytes ≠ 8) ∨ off % bytes ≠ 0) := by
  omega

/-- Settles O12, by the width of the access. -/
theorem registerWritesComplete : Obligations.RegisterWritesComplete := by
  unfold Obligations.RegisterWritesComplete
  intro s fn
  have hgo (hup : s.pcieUp = true) (hfn : fn < 5) : (!s.pcieUp || decide (5 ≤ fn)) = false := by simp [hup, hfn]
  refine ⟨?_, ?_, ?_, ?_, ?_, ?_, ?_⟩
  · intro off bytes value hup hfn hbad
    refine ⟨s.aerError.emit (.unsupported fn), ?_, rfl, fun k hk => State.rd_wrN_other hk _ s, rfl, rfl, rfl, rfl⟩
    simp only [exec, execRegisterWrite, hgo hup hfn, hbad, Bool.false_eq_true, if_false, if_true]
  · intro off value hup hfn halign
    simp only [exec, execRegisterWrite, hgo hup hfn, Bool.false_eq_true, if_false]
    rw [if_neg (not_pair_of_width (.inl rfl) halign), if_neg (by decide)]
  · intro off value hup hfn halign
    simp only [exec, execRegisterWrite, hgo hup hfn, Bool.false_eq_true, if_false]
    rw [if_neg (not_pair_of_width (.inr rfl) halign), if_pos trivial]
  · intro r value hhost hreach
    simp only [exec, execRingEnableWrite, hhost, hreach, Bool.and_self, if_true, State.enableWrite]
  · intro off bytes hbad
    exact if_pos hbad
  · intro off halign
    exact (if_neg (not_pair_of_width (.inl rfl) halign)).trans (if_pos rfl)
  · intro off halign
    exact (if_neg (not_pair_of_width (.inr rfl) halign)).trans (if_neg (by decide))

end Sys2Proof.Machine
end

section
/-! PROOFS. Request descriptors (R143 to R175). -/
namespace Sys2Proof.Machine

/-! ### A descriptor is fetched -/

theorem requestOrder_eq_cons (n : Nat) : ∃ l, (List.range 4).map (fun i => (n + i) % 4) = n % 4 :: l :=
  ⟨_, congrArg (List.map _) (List.range_succ_eq_map (n := 3))⟩

theorem State.fetchRequest_eq {s u : State} {p q : Nat} (rest : List Nat) {b : List Byte} (hon : s.rdB (Reg.RQ_CFG p q) Fld.RQ_CFG_ENABLE = true)
    (hhead : s.rdN (Reg.RQ_HEAD p q) ≠ s.rdN (Reg.RQ_TAIL p q))
    (hfull : (s.rdB (Reg.SCQ_CFG p (s.scqOf p q)) Fld.SCQ_CFG_ENABLE && s.scqFull p (s.scqOf p q)) = false)
    (hhost : s.hostReadable (s.rdF (Reg.RQ_CFG p q) Fld.RQ_CFG_SPACE) (p + 1) = true)
    (hread : s.ringRead (s.rdF (Reg.RQ_CFG p q) Fld.RQ_CFG_SPACE) (p + 1)
      (ringBase (s.rd64 (Reg.RQ_BASE_LO p q)) 64 (s.rdF (Reg.RQ_CFG p q) Fld.RQ_CFG_SIZE_LOG2) + 64 * s.rdN (Reg.RQ_HEAD p q)) 64 = (some b, u))
    (hlow : 1 ≤ leAt b 0 1) (hhigh : leAt b 0 1 ≤ 4) (hroom : leAt b 0 1 = 1 → (u.partServing p).held.length < 4096) :
    s.fetchRequest p (q :: rest) =
      ((u.wrN (Reg.RQ_HEAD p q) ((s.rdN (Reg.RQ_HEAD p q) + 1) % 2 ^ s.rdF (Reg.RQ_CFG p q) Fld.RQ_CFG_SIZE_LOG2)).putServing p
        { u.partServing p with rqTurn := (q + 1) % 4 }).putFetched p (some (q, b)) := by
  have hskip : ¬(leAt b 0 1 = 1 ∧ 4096 ≤ (u.partServing p).held.length) := fun h => Nat.not_le.mpr (hroom h.1) h.2
  have hbad : ¬(leAt b 0 1 = 0 ∨ 4 < leAt b 0 1) := by omega
  rw [State.fetchRequest]
  simp only [hon, beq_eq_false_iff_ne.mpr hhead, hfull, hhost, hread, hskip, hbad, Bool.not_true, Bool.or_self, Bool.false_eq_true, if_false]

/-! ### A descriptor is served -/

theorem State.onFetched_eq {s : State} {p op q : Nat} {b : List Byte} (hfetched : s.fetchedAt p = some (q, b)) (hop : leAt b 0 1 = op)
    (hworks : s.partWorks p = true) (f : Nat → List Byte → State → State) : s.onFetched p op f = f q b (s.wake.putFetched p none) := by
  simp only [State.onFetched, hfetched, hop, hworks, and_self, if_true]

theorem State.enqueue_eq {s u : State} {p : Nat} (q : Nat) {b bytes : List Byte} (hlead : s.follows p (parseRequest b).slot = false)
    (hslot : s.slotFor p (parseRequest b).slot = true) (hok : s.requestOk p (parseRequest b) (bitsAt (leAt b 56 8) 48 4) = true)
    (hread : (if bitsAt (leAt b 56 8) 48 4 = 0 then (none, [], s) else s.globalRead 3 (parseRequest b).mmAddr (16 * bitsAt (leAt b 56 8) 48 4)) =
      (none, bytes, u))
    (hsegs : u.segmentsOk p (parseRequest b) (parseSegments bytes (bitsAt (leAt b 56 8) 48 4)) = true)
    (hvariant : (parseRequest b).variant < u.rdN (Reg.VARIANT_COUNT (parseRequest b).slot))
    (hnew : u.tagLive p (parseRequest b).slot (parseRequest b).hostTag = false) :
    s.enqueue p q b = (some ⟨{ parseRequest b with segs := parseSegments bytes (bitsAt (leAt b 56 8) 48 4) }, q, u.now⟩,
      u.putServing p { u.partServing p with held := (u.partServing p).held ++
        [⟨{ parseRequest b with segs := parseSegments bytes (bitsAt (leAt b 56 8) 48 4) }, q, u.now⟩] }) := by
  simp only [State.enqueue, hlead, hslot, hok, hread, hsegs, Nat.not_le.mpr hvariant, hnew, Bool.not_true, Bool.false_eq_true, if_false]

theorem State.command_eq {s : State} {p : Nat} (q : Nat) {b : List Byte} (hop : (parseRequest b).opcode ≠ 4)
    (hlead : s.follows p (parseRequest b).slot = false) (hslot : s.slotFor p (parseRequest b).slot = true) :
    s.command p q b = (s.updSlot (parseRequest b).slot (fun x => { x with
      commands := x.commands ++ [⟨(parseRequest b).opcode, (parseRequest b).target, (parseRequest b).hostTag, q, 0, 0, 0⟩] })).slotEvent
        (parseRequest b).slot := by
  simp only [State.command, hop, hlead, hslot, Bool.not_true, Bool.or_self, Bool.false_eq_true, if_false]

theorem State.command_resume {s : State} {p : Nat} (q : Nat) {b : List Byte} (hop : (parseRequest b).opcode = 4)
    (hlead : s.follows p (parseRequest b).slot = false) (hslot : s.slotFor p (parseRequest b).slot = true) :
    s.command p q b = (s.updSlot (parseRequest b).slot (fun x => { x with
      commands := x.commands ++ [⟨4, (parseRequest b).target, (parseRequest b).hostTag, q, (parseRequest b).cls, (parseRequest b).stop0,
        (parseRequest b).stop1⟩] })).slotEvent (parseRequest b).slot := by
  simp only [State.command, hop, hlead, hslot, Bool.not_true, Bool.false_eq_true, if_false, if_true]

/-- Settles O13, by the descriptor's opcode. -/
theorem requestCommandsComplete : Obligations.RequestCommandsComplete := by
  unfold Obligations.RequestCommandsComplete
  intro s p us
  dsimp only
  refine ⟨?_, ?_, ?_⟩
  · intro q b hruns hpower hserve hfetched hq hon hhead hfull hhost hread hlow hhigh hroom
    subst hq
    obtain ⟨l, hl⟩ := requestOrder_eq_cons ((s.upset us).partServing p).rqTurn
    simp only [exec, execRequestFetch, hruns, hpower, hserve, hfetched, hl, Bool.and_self, Bool.not_true, Option.isSome_none, Bool.or_self,
      Bool.false_eq_true, if_false]
    rw [State.fetchRequest_eq l hon hhead hfull hhost (Prod.ext hread rfl) hlow hhigh hroom]
  · intro q b hwaits hfetched hop hworks hlead hslot hok hread hsegs hvariant hnew
    simp only [exec, execSubmit, hwaits, Bool.false_eq_true, if_false, State.onFetched_eq hfetched hop hworks, State.submit]
    rw [State.enqueue_eq q hlead hslot hok (Prod.ext hread rfl) hsegs hvariant hnew]
  · intro q op b hfetched hop hopcode hworks hlead hslot
    refine ⟨?_, ?_⟩
    · rintro (rfl | rfl)
      · simp only [exec, execCancel, if_true, State.onFetched_eq hfetched hop hworks]
        rw [State.command_eq q (by omega) hlead hslot, hopcode]
      · simp only [exec, execPark, Nat.reduceEqDiff, if_false, State.onFetched_eq hfetched hop hworks]
        rw [State.command_eq q (by omega) hlead hslot, hopcode]
    · rintro rfl
      simp only [exec, execResume, State.onFetched_eq hfetched hop hworks]
      rw [State.command_resume q hopcode hlead hslot]

end Sys2Proof.Machine
end

section
/-! PROOFS. Events that form a trick boundary (R161 to R173, R488). -/
namespace Sys2Proof.Machine

theorem any_of_mem {α : Type} {l : List α} {f : α → Bool} {a : α} (ha : a ∈ l) (h : f a = true) : l.any f = true :=
  List.any_eq_true.mpr ⟨a, ha, h⟩

theorem execFollowerTrickComplete_eq {s u : State} {sl : Nat} {r : GraphReport} {f : TrickInFlight} (hworks : s.partWorks (s.slotOwner sl) = true)
    (hready : s.slotReady sl = true) (hfollows : s.slotLead sl = false) (htake : s.takeReport sl = (some r, u)) (hf : (u.slotServing sl).inFlight = some f)
    (hok : trickOk r.status = true) {v : State} (hv : u.commitSlotRS (s.slotOwner sl) sl = v) :
    exec (.followerTrickComplete sl []) s =
      .next (((v.sendControl (s.slotOwner sl) (v.groupLead (s.slotOwner sl)) 2 (reportBody f.num sl 0x3000
          ((v.slotServing sl).toEnd ++ v.namedByFailures (s.slotOwner sl) sl r.failed) (v.slotServing sl).parkReports)).setTrick sl f.num).putSlot sl
        { v.slotServing sl with inFlight := some { f with graphEnd := some (r.status, r.failed) }, toEnd := [], parkReports := [] }) := by
  subst hv
  simp only [exec, execFollowerTrickComplete, hworks, hready, hfollows, htake, hf, hok, State.badRecords, List.foldl_nil, List.append_nil, Bool.not_false,
    Bool.and_self, Bool.not_true, Bool.false_eq_true, if_false, if_true]

/-- Settles O14, event by event. -/
theorem boundaryCommandsComplete : Obligations.BoundaryCommandsComplete := by
  unfold Obligations.BoundaryCommandsComplete
  intro s sl bad us p
  refine ⟨?_, ?_, ?_, ?_, ?_, ?_⟩
  · intro r f
    dsimp only
    intro hworks hlead htake hf
    have hexec : exec (.trickGraphComplete sl bad us) s =
        .next (let v := ((s.upset us).takeReport sl).2.updSlot sl (fun x => { x with inFlight := some { f with graphEnd := some (r.status, r.failed) } })
          if v.trickDone ((s.upset us).slotOwner sl) sl then v.boundary ((s.upset us).slotOwner sl) sl bad else v) := by
      simp only [exec, execTrickGraphComplete, hworks, hlead, Bool.and_self, Bool.not_true, Bool.false_eq_true, if_false]
      generalize (s.upset us).takeReport sl = r' at htake hf ⊢
      obtain ⟨x, u⟩ := r'
      obtain rfl : x = some r := htake
      have hflight : (u.slotServing sl).inFlight = some f := hf
      simp only [hflight]
    refine ⟨fun hdone => ?_, fun hdone => ?_⟩ <;> simp only [hexec, hdone, if_true, Bool.false_eq_true, if_false]
  · dsimp only
    intro hworks hready hlead hnone hevent
    exact congrArg Host.Outcome.next (if_pos (by simp [hworks, hready, hlead, hnone, hevent]))
  · intro hany
    exact congrArg Host.Outcome.next (if_pos hany)
  · intro r hr hmax hlate
    exact congrArg Host.Outcome.next (if_pos (any_of_mem hr (by simpa using ⟨hmax, hlate⟩)))
  · intro f j hf hworks hlead hj hsilent hlate
    have hmissing : (s.otherMembers p).any (fun j => !f.reports.any (fun r => r.1 == j)) = true := any_of_mem hj (by rw [hsilent]; rfl)
    simp only [exec, execGroupTimeout, hf]
    rw [show s.slotOwner sl = p from rfl]
    simp only [hworks, hlead, hmissing, hlate, decide_true, Bool.and_self, if_true]
  · intro r f u hworks hready hfollows htake hf hok v
    exact execFollowerTrickComplete_eq hworks hready hfollows (Prod.ext htake rfl) hf hok rfl

end Sys2Proof.Machine
end

section
/-! PROOFS. Parking, resumption, demotion and promotion (R174, R175, R228 to R233). -/
namespace Sys2Proof.Machine

/-- The record of a parked image whose body has been written is complete (R174). -/
theorem execParkWriteComplete_eq {s t : State} {p i : Nat} {us : List Upset} {h : HandRecord} {b : List Byte} (hhand : (s.upset us).handAt p i = some h)
    (hphase : h.phase = .parking) (hmine : h.awaiting.contains ((s.upset us).groupMember p) = true) (hup : (s.upset us).talonUp = true)
    (hworks : (s.upset us).partWorks p = true) (hparked : ((s.upset us).parkedAt h.parkHandle).isSome = true)
    (hbody : (s.upset us).useTalon.parkBody p h = (none, b, t)) {u v : State} {g : HandRecord}
    (hv : v = (({ t with talon := { t.talon with parked := t.talon.parked.map (fun (i : ParkedImage) =>
      if i.handle = h.parkHandle then { i with complete := true, body := putBody [] 0 b } else i) } } : State).journalled).charge p
        (((t.parkedAt h.parkHandle).map (fun i => pagesFor i.bytes)).getD 0)) (hg : v.unleaseHand h = (g, u)) :
    exec (.parkWriteComplete p i us) s = .next (if (u.putHand p g).slotLead g.desc.slot then (u.putHand p g).memberParked p i ((u.putHand p g).groupMember p) 0x3000
      else ((u.putHand p g).putHand p { g with awaiting := [] }).updSlot g.desc.slot (fun x => { x with parkReports := x.parkReports ++ [(i, 0x3000)] })) := by
  subst hv
  have hgo : ¬(h.phase ≠ .parking ∨ (!h.awaiting.contains ((s.upset us).groupMember p)) = true ∨ (!(s.upset us).talonUp) = true
      ∨ (!(s.upset us).partWorks p) = true ∨ ((s.upset us).parkedAt h.parkHandle).isNone = true) := by
    rw [hphase, hmine, hup, hworks, Option.isNone_eq_false_iff.mpr hparked]
    simp
  simp only [exec, execParkWriteComplete, hhand, hgo, if_false, hbody, hg]
  split <;> rfl

/-- A parked image that can be read back fills its request's record (R175). -/
theorem execResumeReadComplete_eq {s t : State} {p i : Nat} {cws : List Codeword} {h g : HandRecord} {img : ParkedImage} (hhand : s.handAt p i = some h)
    (hphase : h.phase = .resuming) (hawaiting : h.awaiting ≠ []) (hworks : s.partWorks p = true) (hup : s.talonUp = true)
    (hfits : (s.ladder cws).resumeFits p h.desc.slot h.parkHandle = true) (himg : (s.ladder cws).parkedAt h.parkHandle = some img) (hlost : img.lost = false)
    (hrows : State.resumeRows h.desc.slot ((((s.ladder cws).countReads img.fragments).partDies p).zip (img.hand.tables)) (resumedHand img h)
      ((s.ladder cws).countReads img.fragments) = some (g, t))
    (hlead : ((t.fillResumed p img g).putHand p { g with awaiting := [], outcome := some 0x3000 }).slotLead h.desc.slot = true) :
    exec (.resumeReadComplete p i cws) s =
      .next (((t.fillResumed p img g).putHand p { g with awaiting := [], outcome := some 0x3000 }).idleBoundary p h.desc.slot) := by
  have hgo : ¬(h.phase ≠ .resuming ∨ h.awaiting.isEmpty = true ∨ (!s.partWorks p) = true ∨ (!s.talonUp) = true) := by
    rw [hphase, hworks, hup, List.isEmpty_iff]
    simp [hawaiting]
  have hread : (some img).filter (fun i => !i.lost) = some img := by simp [hlost]
  simp only [exec, execResumeReadComplete, hhand, hgo, if_false, hfits, if_true, himg, hread, hrows, hlead]

/-- Settles O15, transfer by transfer. -/
theorem servingTransfersComplete : Obligations.ServingTransfersComplete := by
  unfold Obligations.ServingTransfersComplete
  intro s p us cws
  refine ⟨?_, ?_, ?_, ?_, ?_, ?_⟩
  · intro i h t b hhand hphase hmine hup hworks hparked hbody v g u
    exact execParkWriteComplete_eq hhand hphase hmine hup hworks hparked (Prod.ext hbody rfl) rfl rfl
  · intro i h g img t l m hhand hphase hawaiting hworks hup hfits himg hlost hrows u hlead
    exact execResumeReadComplete_eq hhand hphase hawaiting hworks hup hfits himg hlost hrows hlead
  · intro e x
    dsimp only
    intro htransfer hup hworks
    simp only [exec, execDemotionReadComplete, htransfer, hup, hworks, Bool.and_self, if_true]
  · intro e x hextent hnew hfresh hup hnone
    simp only [exec, execExtentCommit, hextent, hnew, hfresh, hup, hnone, Option.isSome_none, Bool.not_true, Bool.or_self, Bool.false_eq_true, if_false]
  · intro e x y htransfer hup hworks hagain
    simp only [exec, execPromotionReadComplete, htransfer, hup, hworks, hagain, Bool.not_true, Bool.or_self, Bool.false_eq_true, if_false]
  · intro hworks hsize hmember
    simp only [exec, execPrefixReportSend, hworks, Nat.not_le.mpr hsize, beq_eq_false_iff_ne.mpr hmember, decide_false, Bool.not_true, Bool.or_self,
      Bool.false_eq_true, if_false]

end Sys2Proof.Machine
end

section
/-! PROOFS. Heartbeats, fences, acknowledgments and retransmissions (R333 to R339). -/
namespace Sys2Proof.Machine

theorem execHeartbeatSend_eq {s t : State} {p : Nat} (hready : s.ready = true)
    (hdue : mapGetD 0 p s.ndx.heartbeatAt + s.rdF Reg.NDX_CFG Fld.NDX_CFG_HB_MS * 1000000 ≤ s.now)
    (ht : ({ s with ndx := { s.ndx with heartbeatAt := mapSet p s.now s.ndx.heartbeatAt } }).commitRS (inRange 0x900000 0x100000) = t) :
    exec (.heartbeatSend p) s =
      .next (if t.groupState p = 1 ∨ t.groupState p = 2 then t.overList (t.otherMembers p) (fun j t => t.sendControl p j 4 []) else t) := by
  subst ht
  exact if_neg (by rw [hready]; simpa using hdue)

theorem execFenceTimeout_eq {s : State} {p j : Nat} (hready : s.ready = true) (hlow : 1 ≤ s.groupState p) (hhigh : s.groupState p ≤ 3)
    (hmember : j ∈ s.otherMembers p) (hunfenced : bitOf (s.rdF (Reg.FENCE_MASK p) Fld.FENCE_MASK_MASK) j = false)
    (hsilent : (s.peerAt p j).lastHeard + s.rdF Reg.NDX_CFG Fld.NDX_CFG_FENCE_MS * 1000000 ≤ s.now) :
    exec (.fenceTimeout p j) s = .next (((s.putBit (Reg.FENCE_MASK p) j true).failCollectives p St.NDX_MEMBER_FENCED
      (fun c => (s.putBit (Reg.FENCE_MASK p) j true).needs c j)).evaluateGroup p) := by
  refine if_pos ?_
  rw [hready, hunfenced, List.contains_iff_mem.mpr hmember, decide_eq_true hsilent, decide_eq_true ⟨hlow, hhigh⟩]
  rfl

/-- A control message whose acknowledgment is late (R334). -/
theorem execControlRetransmit_eq {s : State} {p j t : Nat} {m : CtlMessage} {rest : List CtlMessage} (hunacked : (s.peerAt p j).unacked = m :: rest)
    (hsent : m.sentAt = some t) (hdue : t + retryEvery ≤ s.now) (hready : s.ready = true) (hgroup : s.groupIsolated p = false) :
    exec (.controlRetransmit p j) s = if retryLimit ≤ m.retries then
        .next ((((s.putPeer p j { s.peerAt p j with unacked := rest }).count (Reg.GROUP_COUNTER p 4)).post St.NDX_CTRL_LOST).fillWindow p j)
      else .next (((s.putPeer p j { s.peerAt p j with unacked := { m with retries := m.retries + 1, sentAt := some s.now } :: rest }).post
          St.NDX_CTRL_RETRANSMIT).transmit p j m.type m.seq m.body) := by
  simp only [exec, execControlRetransmit, hunacked, hsent, hdue, hready, hgroup, decide_true, Bool.not_true, Bool.or_self, Bool.false_eq_true, if_false]

/-- Settles O16, event by event. -/
theorem groupControlComplete : Obligations.GroupControlComplete := by
  unfold Obligations.GroupControlComplete
  intro s p
  refine ⟨?_, ?_, ?_, ?_, ?_, ?_⟩
  · intro hready hdue t
    have hexec := execHeartbeatSend_eq (t := t) hready hdue rfl
    refine ⟨fun hstate => ?_, fun h1 h2 => ?_⟩
    · rw [hexec, if_pos hstate]
    · rw [hexec, if_neg (not_or.mpr ⟨h1, h2⟩)]
  · intro e r he
    have hr : s.takeInbox p 4 = (some e, r.2) := Prod.ext he rfl
    simp only [exec, execHeartbeatReceive, hr]
  · intro j hready hlow hhigh hmember hunfenced hsilent t
    exact execFenceTimeout_eq hready hlow hhigh hmember hunfenced hsilent
  · intro e r he hgroup hstate
    have hr : s.takeInbox p 5 = (some e, r.2) := Prod.ext he rfl
    simp only [exec, execFencedReceive, hr, hgroup, beq_eq_false_iff_ne.mpr hstate, Bool.or_self, Bool.false_eq_true, if_false]
  · intro e r he x
    have hr : s.takeInbox p 6 = (some e, r.2) := Prod.ext he rfl
    simp only [exec, execControlAckReceive, hr]
    rfl
  · intro j m rest t x hunacked hsent hdue hready hgroup
    have hexec := execControlRetransmit_eq hunacked hsent hdue hready hgroup
    refine ⟨fun hretries => ?_, fun hretries => ?_⟩
    · rw [hexec, if_neg (Nat.not_le.mpr hretries)]
    · rw [hexec, if_pos hretries]

end Sys2Proof.Machine
end

section
/-! PROOFS. Plans and reports between members (R158, R168, R335). -/
namespace Sys2Proof.Machine

/-- A plan whose embeddings have arrived, and for which the slot waits, is applied (R335). -/
theorem execTrickPlanReceive_eq {s v : State} {p l : Nat} {us : List Upset} {t : TrickPlan} (hplan : (s.upset us).readyPlan p = some (t, l))
    (hbytes : t.embedBytes ≤ (((s.upset us).embedsOf p t.trick).map (fun e => e.2.length)).sum)
    (hv : { s.upset us with ndx := { (s.upset us).ndx with inbox := (s.upset us).ndx.inbox.filter (fun e =>
      !(e.part == p && e.type == 1 && leAt e.body 0 6 == t.trick && leAt e.body 6 1 % 8 == t.slot)) } } = v)
    (hworks : v.partWorks p = true) (hready : v.slotReady t.slot = true) (howner : v.slotOwner t.slot = p) (hfollows : v.slotLead t.slot = false)
    (hnext : t.trick = v.trickOf t.slot + 1) (hnone : (v.slotServing t.slot).waitingPlan = none) :
    exec (.trickPlanReceive p us) s = .next (v.applyPlan p t) := by
  have hgo : (v.partWorks p && v.slotReady t.slot && v.slotOwner t.slot == p && !v.slotLead t.slot && t.trick == v.trickOf t.slot + 1
      && (v.slotServing t.slot).waitingPlan.isNone) = true := by simp [hworks, hready, howner, hfollows, hnext, hnone]
  simp only [exec, execTrickPlanReceive, hplan, Nat.not_lt.mpr hbytes, if_false, hv, hgo, if_true]

/-- A follower's report for the trick in flight is noted, and the last of them forms the boundary (R164, R168). -/
theorem execTrickReportReceive_eq {s u v : State} {p sl n : Nat} {bad : List (Nat × Nat)} {us : List Upset} {e : InboxEntry} {f : TrickInFlight}
    (htake : (s.upset us).takeInbox p 2 = (some e, u)) (hsl : leAt e.body 6 1 % 8 = sl) (hn : leAt e.body 10 2 = n) (hworks : u.partWorks p = true)
    (hready : u.slotReady sl = true) (howner : u.slotOwner sl = p) (hlead : u.slotLead sl = true)
    (hv : u.overList (pairsAt e.body (16 + 4 * n) (leAt e.body 12 2)) (fun x t => t.memberParked p x.1 e.src x.2) = v)
    (hf : (v.slotServing sl).inFlight = some f) (hnum : f.num = leAt e.body 0 6) (hnew : f.reports.any (fun r => r.1 == e.src) = false) :
    exec (.trickReportReceive p bad us) s =
      .next (let w := v.updSlot sl (fun x => { x with
          inFlight := some { f with reports := f.reports ++ [(e.src, (leAt e.body 8 2, pairsAt e.body 16 n))] } })
        if w.trickDone p sl then w.boundary p sl bad else w) := by
  have hgo : (u.partWorks p && u.slotReady sl && u.slotOwner sl == p && u.slotLead sl) = true := by simp [hworks, hready, howner, hlead]
  subst hsl hn hv
  simp only [exec, execTrickReportReceive, htake, hgo, hf, hnum, hnew, ne_eq, not_true_eq_false, Bool.false_eq_true, or_self, Bool.not_true, if_false]

/-- Settles O17, message by message. -/
theorem groupPlansComplete : Obligations.GroupPlansComplete := by
  unfold Obligations.GroupPlansComplete
  intro s p us
  refine ⟨?_, ?_, ?_⟩
  · intro t l u hplan hbytes v hworks hready howner hfollows hnext hnone
    exact execTrickPlanReceive_eq hplan hbytes rfl hworks hready howner hfollows hnext hnone
  · intro e f bad r sl n v htake hworks hready howner hlead hf hnum hnew w
    exact execTrickReportReceive_eq (Prod.ext htake rfl) rfl rfl hworks hready howner hlead rfl hf hnum hnew
  · intro e r he hworks hmember t
    have hr : s.takeInbox p 3 = (some e, r.2) := Prod.ext he rfl
    simp only [exec, execPrefixReportReceive, hr, hworks, hmember, beq_self_eq_true, Bool.and_self, Bool.not_true, Bool.false_eq_true, if_false]
    rfl

end Sys2Proof.Machine
end

section
/-! PROOFS. Commands of Talon's ring (R242 to R248). -/
namespace Sys2Proof.Machine

theorem State.onTalon_eq {s t : State} {w : List Nat} {op : Nat} (hhead : s.talonHead = (some w, t)) (hop : bitsAt (w.getD 0 0) 0 8 = op)
    (hformat : talonFormatOk op w = true) (hpart : (t.takeTalon w).partExists (bitsAt (w.getD 0 0) 8 2) = true) (habsorbed : t.commandAbsorbed w = false)
    (f : Nat → (Nat → Nat) → State → State) : s.onTalon op f = f (bitsAt (w.getD 0 0) 8 2) (fun i => w.getD i 0) (t.takeTalon w) := by
  simp only [State.onTalon, hhead, hop, ne_eq, not_true_eq_false, habsorbed, hformat, hpart, Bool.not_true, Bool.or_self, Bool.false_eq_true, if_false]

/-! ### Weight images -/

theorem State.imageCreate_eq {s : State} {p : Nat} {g : Nat → Nat} (hsum : g 4 + g 5 + g 6 + g 7 ≠ 0)
    (hsections : [g 4, g 5, g 6, g 7].all (fun n => n % flashPage == 0 && decide (n ≤ 2 ^ 40)) = true) (hnew : s.imageAt (g 1) = none)
    (hroom : s.talon.images.length < 64)
    (hzone : (s.talon.images.map imageBytes).sum + (g 4 + g 5 + g 6 + g 7) ≤ s.zoneUsable .weights) :
    s.imageCreate p g = ({ s with talon := { s.talon with
      images := s.talon.images ++ [(⟨g 1, g 3, p, [g 4, g 5, g 6, g 7], [], .open, [], []⟩ : WeightImage)] } }).journalled.endTalon talonOk := by
  have htotal : [g 4, g 5, g 6, g 7].sum = g 4 + g 5 + g 6 + g 7 := by simp only [List.sum_cons, List.sum_nil]; omega
  have hbad : [g 4, g 5, g 6, g 7].any (fun n => n % flashPage != 0 || decide (2 ^ 40 < n)) = false := by
    rw [List.any_eq_false]
    intro n hn
    have hgood := List.all_eq_true.mp hsections n hn
    simp only [Bool.and_eq_true, beq_iff_eq, decide_eq_true_eq] at hgood
    simp only [hgood.1, Nat.not_lt.mpr hgood.2, bne_self_eq_false, decide_false, Bool.or_self, Bool.false_eq_true, not_false_eq_true]
  unfold State.imageCreate
  dsimp only
  rw [htotal, hbad, if_neg (not_or.mpr ⟨hsum, Bool.false_ne_true⟩), hnew, Option.isSome_none, if_neg Bool.false_ne_true, if_neg (by omega)]

theorem State.imageSeal_eq {s : State} {p : Nat} {g : Nat → Nat} {i : WeightImage} (himage : s.imageAt (g 1) = some i) (hpart : i.part = p)
    (hopen : i.state = .open) (hwritten : i.written.length = imageBytes i / flashPage) :
    s.imageSeal p g = (s.updImage (g 1) (fun i => { i with state := .sealed })).journalled.endTalon talonOk := by
  simp only [State.imageSeal, himage]
  exact if_neg (by simp [hpart, hopen, hwritten])

theorem State.imageDelete_eq {s : State} {p : Nat} {g : Nat → Nat} {i : WeightImage} (himage : s.imageAt (g 1) = some i) (hpart : i.part = p) :
    s.imageDelete p g = ({ s with talon := { s.talon with images := s.talon.images.filter (fun x => x.id != g 1) } }).journalled.endTalon talonOk := by
  simp only [State.imageDelete, himage]
  exact if_neg (by simp [hpart])

theorem State.slotLoad_eq {s : State} {p : Nat} {g : Nat → Nat} {i : WeightImage} (howned : s.slotOwned (bitsAt (g 0) 12 3) = true)
    (howner : s.slotOwner (bitsAt (g 0) 12 3) = p) (hempty : s.slotState (bitsAt (g 0) 12 3) = 0) (himage : s.imageAt (g 1) = some i) (hpart : i.part = p)
    (hsealed : i.state = .sealed) (hplaces : i.sections.zipIdx.all (fun e => e.1 == 0 || s.inTaskSpace p (g (4 + e.2)) e.1) = true)
    (hkitty : s.kittyOk p (bitsAt (g 0) 12 3) = true) {v : State} (hv : v = s.wrF (Reg.SLOT_CTRL (bitsAt (g 0) 12 3)) Fld.SLOT_CTRL_STATE 1) :
    s.slotLoad p g = { v with talon := { v.talon with loads := mapSet (bitsAt (g 0) 12 3) i.id v.talon.loads } } := by
  subst hv
  simp only [State.slotLoad, howned, howner, hempty, himage, hpart, hsealed, hplaces, hkitty, beq_self_eq_true, Bool.and_self, Bool.not_true,
    Bool.false_eq_true, if_false, reduceCtorEq, ne_eq, not_true_eq_false, or_self]

theorem State.slotUnload_eq {s : State} {p : Nat} {g : Nat → Nat} (hready : s.slotReady (bitsAt (g 0) 12 3) = true)
    (howner : s.slotOwner (bitsAt (g 0) 12 3) = p) (hheld : s.heldOf p (bitsAt (g 0) 12 3) = [])
    (hhands : (s.handsOf p (bitsAt (g 0) 12 3)).any (fun h => h.phase != .parking) = false) :
    s.slotUnload p g = ((((s.overList (((s.nodesOf p).filter (fun e => e.2.slot == bitsAt (g 0) 12 3 && e.2.parent.isNone)).map (fun e => e.1))
      (fun i t => t.evictSubtree p i)).wrF (Reg.SLOT_CTRL (bitsAt (g 0) 12 3)) Fld.SLOT_CTRL_STATE 0).putSlot (bitsAt (g 0) 12 3) .empty).endTalon talonOk) := by
  simp only [State.slotUnload, hready, howner, hheld, hhands, beq_self_eq_true, Bool.and_self, Bool.not_true, List.isEmpty_nil, Bool.or_self,
    Bool.false_eq_true, if_false]

theorem State.imageWrite_eq {s u v : State} {p : Nat} {g : Nat → Nat} {i : WeightImage} {b : List Byte} {frags : List Fragment}
    (himage : s.imageAt (g 1) = some i) (hpart : i.part = p) (hopen : i.state = .open) (hoff : g 3 % flashPage = 0) (hlen : g 4 % flashPage = 0)
    (hsome : g 4 ≠ 0) (hfits : g 3 + g 4 ≤ imageBytes i) (hsource : s.talonSource (g 2) (g 4) = (.ok b, u))
    (hplace : u.useTalon.place .weights (g 3 / flashPage) (g 4 / flashPage) = some (frags, v)) :
    s.imageWrite p g = (((v.chargeWeights (g 4 / flashPage)).feedPath 2 0 b).updImage (g 1) (fun j => { j with
      written := ((List.range (g 4 / flashPage)).map (· + g 3 / flashPage)).foldl (fun l u => setInsert u l) j.written, body := putBody j.body (g 3) b
      fragments := dropPages (g 3 / flashPage) ((g 3 + g 4) / flashPage) j.fragments ++ frags })).endTalon talonOk := by
  unfold State.imageWrite
  simp only [himage]
  rw [if_neg (by simp [hpart, hopen]), if_neg (by rw [hoff, hlen]; omega)]
  simp only [hsource, hplace]

/-! ### Parked images -/

/-- The command under execution returns the image's bytes in its word 4 (R248). -/
def State.withBytes (i : ParkedImage) (s : State) : State :=
  { s with talon := { s.talon with command := s.talon.command.map (fun (c : TalonCommand) => { c with word4 := some i.bytes }) } }

theorem State.parkExport_eq {s : State} {cws : List Codeword} {p : Nat} {g : Nat → Nat} {i x : ParkedImage} (himage : s.parkedAt (g 1) = some i)
    (hpart : i.part = p) (hcomplete : i.complete = true) (hbytes : i.bytes ≤ g 4)
    (hagain : (((s.withBytes i).ladder cws).countReads i.fragments).parkedAt (g 1) = some x) (hlost : x.lost = false)
    (hplace : bitOf (g 2) 63 = true ∨ (List.range 4).any (fun q => (s.withBytes i).inTaskSpace q (bitsAt (g 2) 0 48) i.bytes) = true) :
    s.parkExport cws p g = if bitOf (g 2) 63 then
        ((((s.withBytes i).ladder cws).countReads i.fragments).hostWrite 0 (bitsAt (g 2) 0 48) (exportBytes i)).endTalon talonOk
      else match (((s.withBytes i).ladder cws).countReads i.fragments).hbmWrite 3 (bitsAt (g 2) 0 48) (exportBytes i) with
        | (some st, s) => s.endTalon st
        | (none, s) => s.endTalon talonOk := by
  have hgo : ¬(g 4 < i.bytes ∨ (!bitOf (g 2) 63) = true ∧
      (!(List.range 4).any (fun q => (s.withBytes i).inTaskSpace q (bitsAt (g 2) 0 48) i.bytes)) = true) := by
    rintro (h | ⟨h1, h2⟩)
    · omega
    · rcases hplace with h | h
      · rw [h] at h1; cases h1
      · rw [h] at h2; cases h2
  have hfound : (((s.withBytes i).ladder cws).countReads i.fragments |>.parkedAt (g 1)).all (fun x => x.lost) = false := by rw [hagain]; exact hlost
  simp only [State.parkExport, himage, hpart, hcomplete, ne_eq, not_true_eq_false, Bool.not_true, Bool.false_eq_true, or_self, if_false]
  exact (if_neg hgo).trans (if_neg fun h => Bool.false_ne_true (hfound.symm.trans h))

theorem State.parkExport_hbm {s v : State} {cws : List Codeword} {p : Nat} {g : Nat → Nat} {i x : ParkedImage} (himage : s.parkedAt (g 1) = some i)
    (hpart : i.part = p) (hcomplete : i.complete = true) (hbytes : i.bytes ≤ g 4)
    (hagain : (((s.withBytes i).ladder cws).countReads i.fragments).parkedAt (g 1) = some x) (hlost : x.lost = false) (hspace : bitOf (g 2) 63 = false)
    (hplace : (List.range 4).any (fun q => (s.withBytes i).inTaskSpace q (bitsAt (g 2) 0 48) i.bytes) = true)
    (hwrite : (((s.withBytes i).ladder cws).countReads i.fragments).hbmWrite 3 (bitsAt (g 2) 0 48) (exportBytes i) = (none, v)) :
    s.parkExport cws p g = v.endTalon talonOk := by
  rw [State.parkExport_eq himage hpart hcomplete hbytes hagain hlost (.inr hplace), hspace, if_neg Bool.false_ne_true, hwrite]

theorem State.parkDelete_eq {s : State} {p : Nat} {g : Nat → Nat} {i : ParkedImage} (himage : s.parkedAt (g 1) = some i) (hpart : i.part = p)
    (hcomplete : i.complete = true) : s.parkDelete p g = (s.dropParked (g 1)).endTalon talonOk := by
  simp only [State.parkDelete, himage]
  exact if_neg (by simp [hpart, hcomplete])

/-- The image that an import makes of the bytes read (R244, R245). -/
def importedImage (p n : Nat) (b : List Byte) (segs : List Segment) (frags : List Fragment) : ParkedImage :=
  let g := fun i => leAt b (8 * i) 8
  let counts := (List.range (bitsAt (g 4) 40 8)).map (fun d => (d, bitsAt (g 6) (16 * d) 16))
  { handle := g 1, part := p, complete := true, lost := false
    hand := readHand ((b.drop flashPage).take 512) segs (readTables b (flashPage + 512) counts), imageTag := g 3
    groupSize := bitsAt (g 4) 24 8, member := bitsAt (g 4) 32 8, dies := bitsAt (g 4) 40 8, layers := bitsAt (g 5) 0 8
    kvHeads := bitsAt (g 5) 8 8, headDim := bitsAt (g 5) 16 16, bytes := n
    body := putBody [] 0 (b.drop (flashPage + 512 + 8 * ((counts.map (fun e => e.2)).sum))), fragments := frags }

theorem State.parkImport_eq {s t v : State} {p : Nat} {g : Nat → Nat} {b : List Byte} {segs : List Segment} {frags : List Fragment}
    (hlong : flashPage + 512 ≤ g 4) (hsource : s.talonSource (g 2) (g 4) = (.ok b, t)) (hmagic : bitsAt (leAt b 0 8) 0 16 = 0xD8E2)
    (hversion : bitsAt (leAt b 0 8) 16 8 = 1) (hcrc : crc32cTagged (leAt b 8 8) (b.take 64 ++ leBytes 8 0) = leAt b 64 8)
    (hlen : leAt b 56 8 + flashPage = g 4) {q m : State} (hq : t.feedPath 2 0 b = q) (hnew : q.parkedAt (leAt b 8 8) = none)
    (hroom : q.parkRoom p (g 4) = true) (hsegs : q.importSegments ((b.drop flashPage).take 512) = (.ok segs, m))
    (hplace : m.useTalon.place .prefixZone 0 (pagesFor (g 4)) = some (frags, v)) :
    s.parkImport p g = ((({ v with talon := { v.talon with parked := v.talon.parked ++ [importedImage p (g 4) b segs frags] } }).charge p
      (pagesFor (g 4))).showShare p).endTalon talonOk := by
  have hok : (bitsAt (leAt b (8 * 0) 8) 0 16 == 0xD8E2 && bitsAt (leAt b (8 * 0) 8) 16 8 == 1
      && crc32cTagged (leAt b (8 * 1) 8) (b.take 64 ++ leBytes 8 0) == leAt b (8 * 8) 8 && leAt b (8 * 7) 8 + flashPage == g 4
      && (q.parkedAt (leAt b (8 * 1) 8)).isNone) = true := by
    simp only [Nat.mul_zero, Nat.mul_one, Nat.reduceMul, hmagic, hversion, hcrc, hlen, hnew, beq_self_eq_true, Option.isNone_none, Bool.and_self]
  subst hq
  unfold State.parkImport
  simp only [Nat.not_lt.mpr hlong, if_false, hsource]
  simp only [hok, Bool.not_true, Bool.false_eq_true, if_false, hroom, hsegs, hplace, importedImage]

/-- Settles O18, by the OP of the command. -/
theorem talonCommandsComplete : Obligations.TalonCommandsComplete := by
  unfold Obligations.TalonCommandsComplete
  intro s t w us cws
  dsimp only
  intro hformat hpart habsorbed
  refine ⟨fun hhead => ⟨?_, ?_, ?_, ?_, ?_, ?_, ?_, ?_, ?_⟩, fun hhead => ⟨?_, ?_⟩⟩
  · intro hop hsum hsections hnew hroom hzone
    rw [hop] at hformat
    exact congrArg Host.Outcome.next ((State.onTalon_eq hhead hop hformat hpart habsorbed _).trans
      (State.imageCreate_eq (g := fun i => w.getD i 0) hsum hsections hnew hroom hzone))
  · intro i hop himage himgpart hopen hwritten
    rw [hop] at hformat
    exact congrArg Host.Outcome.next ((State.onTalon_eq hhead hop hformat hpart habsorbed _).trans
      (State.imageSeal_eq (g := fun i => w.getD i 0) himage himgpart hopen hwritten))
  · intro i hop himage himgpart
    rw [hop] at hformat
    exact congrArg Host.Outcome.next ((State.onTalon_eq hhead hop hformat hpart habsorbed _).trans
      (State.imageDelete_eq (g := fun i => w.getD i 0) himage himgpart))
  · intro i hop howned howner hempty himage himgpart hsealed hplaces hkitty
    rw [hop] at hformat
    exact congrArg Host.Outcome.next ((State.onTalon_eq hhead hop hformat hpart habsorbed _).trans
      (State.slotLoad_eq (g := fun i => w.getD i 0) howned howner hempty himage himgpart hsealed hplaces hkitty rfl))
  · intro hop hready howner hheld hhands
    rw [hop] at hformat
    exact congrArg Host.Outcome.next ((State.onTalon_eq hhead hop hformat hpart habsorbed _).trans
      (State.slotUnload_eq (g := fun i => w.getD i 0) hready howner hheld hhands))
  · intro i x hop himage himgpart hcomplete hbytes hagain hlost
    rw [hop] at hformat
    have htake := State.onTalon_eq hhead hop hformat hpart habsorbed (State.parkExport cws)
    refine ⟨fun hspace => congrArg Host.Outcome.next (htake.trans ?_), fun hspace hplace hwrite => congrArg Host.Outcome.next (htake.trans ?_)⟩
    · exact (State.parkExport_eq (g := fun i => w.getD i 0) himage himgpart hcomplete hbytes hagain hlost (.inl hspace)).trans (if_pos hspace)
    · exact State.parkExport_hbm (g := fun i => w.getD i 0) himage himgpart hcomplete hbytes hagain hlost hspace hplace (Prod.ext hwrite rfl)
  · intro i hop himage himgpart hcomplete
    rw [hop] at hformat
    exact congrArg Host.Outcome.next ((State.onTalon_eq hhead hop hformat hpart habsorbed _).trans
      (State.parkDelete_eq (g := fun i => w.getD i 0) himage himgpart hcomplete))
  · intro hop
    rw [hop] at hformat
    exact ⟨_, rfl, congrArg Host.Outcome.next (State.onTalon_eq hhead hop hformat hpart habsorbed State.prefixDrop)⟩
  · intro hop
    rw [hop] at hformat
    exact congrArg Host.Outcome.next (State.onTalon_eq hhead hop hformat hpart habsorbed State.shutdownTalon)
  · intro i b frags v hop himage himgpart hopen hoff hlen hsome hfits hsource hplace
    rw [hop] at hformat
    exact congrArg Host.Outcome.next ((State.onTalon_eq hhead hop hformat hpart habsorbed _).trans
      (State.imageWrite_eq (g := fun i => w.getD i 0) himage himgpart hopen hoff hlen hsome hfits (Prod.ext hsource rfl) hplace))
  · intro b frags v hop hlong hsource hmagic hversion hcrc hlen hnew hroom hsegs hplace
    rw [hop] at hformat
    obtain ⟨segs, hsegs⟩ := hsegs
    have himport := State.parkImport_eq (g := fun i => w.getD i 0) (p := bitsAt (w.getD 0 0) 8 2) hlong (Prod.ext hsource rfl) hmagic hversion hcrc hlen rfl
      hnew hroom (Prod.ext hsegs rfl) hplace
    exact ⟨importedImage (bitsAt (w.getD 0 0) 8 2) (w.getD 4 0) b segs frags, rfl, rfl, rfl, rfl, rfl,
      congrArg Host.Outcome.next ((State.onTalon_eq hhead hop hformat hpart habsorbed State.parkImport).trans himport)⟩

end Sys2Proof.Machine
end

section
/-! PROOFS. Talon's own work and the upkeep of the flash (R236 to R248). -/
namespace Sys2Proof.Machine

theorem execSlotLoadComplete_eq {s t : State} {slot id : Nat} {cws : List Codeword} {c : TalonCommand} {i : WeightImage} (hup : s.talonUp = true)
    (hready : s.ready = true) (hload : mapGet slot s.talon.loads = some id) (hcommand : s.talon.command = some c)
    (himage : (s.ladder cws).imageAt id = some i) (hgood : i.state ≠ .damaged)
    (hpour : ((s.ladder cws).countReads i.fragments).pourImage c.words i = (none, t)) :
    exec (.slotLoadComplete slot cws) s =
      .next ((t.putSlot slot { SlotServing.empty with imageId := i.id, imageTag := i.tag }).endLoad slot talonOk) := by
  simp only [exec, execSlotLoadComplete, hup, hready, Bool.and_self, if_true, State.finishLoad, hload, hcommand, himage, hgood, if_false, hpour]

/-- A command under execution that has its status completes: word 4, the status and DONE, then the message (R248). -/
theorem execTalonCmdComplete_eq {s t u v w : State} {us : List Upset} {c : TalonCommand} {st a : Nat} (ht : s.upset us = t)
    (hu : { t with talon := { t.talon with command := none } } = u)
    (ha : ringBase (t.rd64 Reg.TLN_CMD_BASE_LO) 64 (t.rdF Reg.TLN_CMD_CFG Fld.TLN_CMD_CFG_SIZE_LOG2) + 64 * c.ringIndex = a)
    (hcommand : t.talon.command = some c) (hstatus : c.status = some st) (hon : t.rdB Reg.TLN_CMD_CFG Fld.TLN_CMD_CFG_ENABLE = true)
    (hv : (match c.word4 with
      | some x => (u.ringWrite (t.rdF Reg.TLN_CMD_CFG Fld.TLN_CMD_CFG_SPACE) 0 (a + 32) (leBytes 8 x)).2
      | none => u) = v)
    (hw : v.ringWrite (t.rdF Reg.TLN_CMD_CFG Fld.TLN_CMD_CFG_SPACE) 0 a (leBytes 8 (putBits (putBits (c.words.getD 0 0) 16 16 st) 32 1 1)) = (true, w)) :
    exec (.talonCmdComplete us) s =
      .next (if w.rdB Reg.TLN_CMD_CFG Fld.TLN_CMD_CFG_IRQ_EN then w.msix 0 (w.rdF Reg.TLN_CMD_CFG Fld.TLN_CMD_CFG_VECTOR) else w) := by
  have hrd : u.rdB Reg.TLN_CMD_CFG Fld.TLN_CMD_CFG_ENABLE = true := by rw [← hu]; exact hon
  simp only [exec, execTalonCmdComplete, ht, hcommand, hstatus, State.completeTalon, hu, ha, hrd, Bool.not_true, Bool.false_eq_true, if_false]
  subst hv
  cases hword : c.word4 <;> simp only [hword] at hw ⊢ <;> rw [hw]

theorem execGarbageCollect_eq {s : State} {weights : Bool} {b : Band} {cws : List Codeword} (hup : s.talonUp = true)
    (hfew : (s.freeBands (zoneOf weights)).length < (if weights then 8 else 16))
    (hleast : leastBand (fun b => s.validPages b.index) (s.closedBands (zoneOf weights)) = some b) :
    exec (.garbageCollect ⟨weights, cws⟩) s = .next ((s.ladder cws).relocateBand b.index) := by
  simp only [exec, execGarbageCollect, hup, hleast, Nat.not_le.mpr hfew, decide_false, Bool.not_true, Bool.or_self, Bool.false_eq_true, if_false]

/-- Settles O19, event by event. -/
theorem talonEventsComplete : Obligations.TalonEventsComplete := by
  unfold Obligations.TalonEventsComplete
  intro s
  refine ⟨?_, ?_, ?_, ?_, ?_, ?_, fun hup => ⟨?_, ?_, ?_⟩⟩
  · intro slot cws id c i hup hready hload hcommand himage hgood q hq
    exact execSlotLoadComplete_eq hup hready hload hcommand himage hgood (Prod.ext hq rfl)
  · intro us c st t u cfg a v w hcommand hstatus hon hw
    exact execTalonCmdComplete_eq rfl rfl rfl hcommand hstatus hon rfl (Prod.ext hw rfl)
  · intro die band page cws hup hdie hband
    exact congrArg Host.Outcome.next (if_pos (by rw [hup, decide_eq_true hdie, decide_eq_true hband]; rfl))
  · intro die band cws hup hdie hband
    exact congrArg Host.Outcome.next (if_pos (by rw [hup, decide_eq_true hdie, decide_eq_true hband]; rfl))
  · intro channel hup hchannel hgood
    exact congrArg Host.Outcome.next (if_pos (by rw [hup, decide_eq_true hchannel, hgood]; rfl))
  · intro hup
    exact if_neg (by rw [hup]; exact Bool.false_ne_true)
  · intro weights b cws hfew hleast
    exact execGarbageCollect_eq hup hfew hleast
  · intro weights b f cws z all hi lo hspread hleast hmost t
    refine (if_neg ?_).trans ?_
    · rw [hup]
      exact fun h => Nat.not_le.mpr hspread (of_decide_eq_true h)
    · change (match leastBand Band.wear (s.closedBands z), leastBand (fun b => 32 * hi - b.wear) (s.freeBands z) with
        | some b, some f => _
        | _, _ => _) = _
      rw [hleast, hmost]
  · intro band cws b hprogrammed hretired
    have hb : (s.talonUp && b.programmed != 0 && !b.retired) = true := by rw [hup, hretired, bne_iff_ne.mpr hprogrammed]; rfl
    refine ⟨fun hold => congrArg Host.Outcome.next (if_pos ?_), fun hreads => congrArg Host.Outcome.next (if_pos ?_)⟩
    · refine Bool.and_eq_true_iff.mpr ⟨hb, ?_⟩
      rcases hold with hdue | ⟨e, he, haged⟩
      · rw [Bool.or_eq_true]
        exact .inr hdue
      · rw [Bool.or_eq_true]
        exact .inl (List.any_eq_true.mpr ⟨e, he, decide_eq_true haged⟩)
    · exact Bool.and_eq_true_iff.mpr ⟨hb, hreads⟩

end Sys2Proof.Machine
end

section
/-! PROOFS. Jobs of the edge engines (R251 to R265, R279). -/
namespace Sys2Proof.Machine

theorem State.startEdgeJob_eq {s u : State} {d p op : Nat} {j : QueuedJob} (howner : s.dieOwner d = some p) (hworks : s.partWorks p = true)
    (hgood : s.edgeFailed d = false) (hnext : (s.progressEdge d).nextEdge d p = (some j, u)) (hop : bitsAt (j.words.getD 0 0) 0 4 = op)
    (hpower : u.engineUp (.edge d) = true) :
    s.startEdgeJob d op = (((u.takeEdge d j).commitRS (inRange (0x701100 + 0x40 * d) 0x40)).runEdge d p j).progressEdge d := by
  simp only [State.startEdgeJob, howner, hworks, hgood, hnext, hop, hpower, ne_eq, not_true_eq_false, Bool.not_true, Bool.or_self, Bool.false_eq_true,
    if_false]

theorem State.edgeComplete_eq {s v : State} {d p st : Nat} {r : EdgeRun} (hv : s.progressEdge d = v) (howner : s.dieOwner d = some p)
    (hworks : s.partWorks p = true) (hrunning : (v.edgeAt d).running = some r) (hstatus : r.status = some st) :
    s.edgeComplete d = (v.putEdge d ((v.edgeAt d).shift v.now)).endEdge d p r.source st := by
  simp only [State.edgeComplete, howner, hworks, hv, hrunning, hstatus, Bool.not_true, Bool.false_eq_true, if_false]

theorem State.edgeFail_eq {s b : State} {d p : Nat} {r : EdgeRun} (hd : d < 4) (hgood : s.edgeFailed d = false) {a : State}
    (ha : ((s.wrN (Reg.EDGE_STATE d) 1).putBit Reg.DECK_DIES (12 + d) false).post St.VIS_EDGE_FAILED = a)
    (hb : { a with power := { a.power with enginesUp := a.power.enginesUp.filter (fun x => x != Domain.edge d) } } = b) (howner : b.dieOwner d = some p)
    (hrunning : (b.edgeAt d).running = some r) (hchained : (b.edgeAt d).chained = []) :
    s.edgeFail d = (((b.putEdge d { b.edgeAt d with running := none, chained := [] }).endEdge d p r.source St.VIS_EDGE_FAILED).endEdgeJobs d p
      St.VIS_EDGE_FAILED (1024 + (b.edgeAt d).queue.length)) := by
  have hgo : ¬(4 ≤ d ∨ s.edgeFailed d = true) := by
    rw [hgood]
    simpa using hd
  simp only [State.edgeFail, hgo, if_false, ha, hb, howner, hrunning, hchained, Option.toList_some, List.append_nil]
  rfl

/-- Settles O20, event by event. -/
theorem edgeCommandsComplete : Obligations.EdgeCommandsComplete := by
  unfold Obligations.EdgeCommandsComplete
  intro s d p op us j u t
  refine ⟨?_, ?_, ?_⟩
  · intro howner hworks hgood hnext hop hpower out
    have hstart : t.startEdgeJob d op = out := State.startEdgeJob_eq howner hworks hgood hnext hop hpower
    refine ⟨?_, ?_, ?_⟩ <;> rintro rfl <;> exact congrArg Host.Outcome.next hstart
  · intro r st v howner hworks hrunning hstatus
    exact congrArg Host.Outcome.next (State.edgeComplete_eq rfl howner hworks hrunning hstatus)
  · intro r hd hgood a b howner hrunning hchained
    exact congrArg Host.Outcome.next (State.edgeFail_eq hd hgood rfl rfl howner hrunning hchained)

end Sys2Proof.Machine
end

section
/-! PROOFS. Jobs of the reckoners (R268 to R271, R279). -/
namespace Sys2Proof.Machine

theorem State.startReckJob_eq {s u v : State} {r op p : Nat} {j : QueuedJob} (hok : s.reckonerOk r = true) (hidle : (s.reckAt r).running = none)
    (hnext : State.nextReck s.rotation s = (some (p, j), u)) (hop : bitsAt (j.words.getD 0 0) 0 4 = op) (hpower : u.engineUp (.reckoner r) = true)
    (hv : u.takeReck p j = v) :
    s.startReckJob r op = (({ v with vision := { v.vision with served := p } } : State).runReck p j).2.putReck r
      { (({ v with vision := { v.vision with served := p } } : State).runReck p j).2.reckAt r with
        running := some (({ v with vision := { v.vision with served := p } } : State).runReck p j).1 } := by
  subst hv
  simp only [State.startReckJob, hok, hidle, hnext, hop, hpower, Option.isSome_none, ne_eq, not_true_eq_false, Bool.not_true, Bool.or_self,
    Bool.false_eq_true, if_false]

theorem State.reckComplete_eq {s : State} {r : Nat} {x : ReckonRun} (hok : s.reckonerOk r = true) (hready : s.ready = true)
    (hworks : s.partWorks x.part = true) (hrunning : (s.reckAt r).running = some x) : s.reckComplete r = (s.putReck r ⟨none, s.now⟩).endReck r x := by
  simp only [State.reckComplete, hok, hready, hrunning, hworks, Bool.not_true, Bool.or_self, Bool.false_eq_true, if_false, if_true]

theorem State.reckFail_eq {s a b : State} {r : Nat} (hok : s.reckonerOk r = true)
    (ha : ((s.wrF Reg.VIS_RECKONER (if r = 0 then Fld.VIS_RECKONER_RK0_OK else Fld.VIS_RECKONER_RK1_OK) 0).putBit Reg.DECK_DIES (16 + r)
      false).post St.VIS_RECKONER_FAILED = a)
    (hb : ({ a with power := { a.power with enginesUp := a.power.enginesUp.filter (fun x => x != Domain.reckoner r) } }).putReck r ⟨none, a.now⟩ = b)
    (hidle : (a.reckAt r).running = none) (hother : (b.reckonerOk 0 || b.reckonerOk 1) = true) : s.reckFail r = b := by
  have hnone : (({ a with power := { a.power with enginesUp := a.power.enginesUp.filter (fun x => x != Domain.reckoner r) } } : State).reckAt r).running
      = none := hidle
  simp only [State.reckFail, hok, ha, hnone, hb, hother, Bool.not_true, Bool.false_eq_true, if_false, if_true]

/-- Settles O21, event by event. -/
theorem reckonerCommandsComplete : Obligations.ReckonerCommandsComplete := by
  unfold Obligations.ReckonerCommandsComplete
  intro s r op p us j u t
  refine ⟨?_, ?_, ?_⟩
  · intro hok hidle hnext hop hpower v x out
    have hstart : t.startReckJob r op = out := State.startReckJob_eq hok hidle hnext hop hpower rfl
    refine ⟨?_, ?_⟩ <;> rintro rfl <;> exact congrArg Host.Outcome.next hstart
  · intro x hok hready hworks hrunning
    exact congrArg Host.Outcome.next (State.reckComplete_eq hok hready hworks hrunning)
  · intro hok a b hidle hother
    exact congrArg Host.Outcome.next (State.reckFail_eq hok rfl rfl hidle hother)

end Sys2Proof.Machine
end

section
/-! PROOFS. The host's tags and the frames of a pipeline (R273 to R278). -/
namespace Sys2Proof.Machine

theorem State.hostTagPresent_eq {s : State} {p : Nat} (tag : Nat) (halign : (s.rd64 (Reg.TAG_POST_ADDR_LO p) % 2 ^ 48) % 16 = 0)
    (hspace : s.inTaskSpace p (s.rd64 (Reg.TAG_POST_ADDR_LO p) % 2 ^ 48) (tagBytes (s.rdB (Reg.TAG_POST_COUNT p) Fld.TAG_POST_COUNT_KIND)
      (s.rdF (Reg.TAG_POST_COUNT p) Fld.TAG_POST_COUNT_COUNT)) = true) :
    s.hostTagPresent p tag = s.writeTag p tag (s.rd64 (Reg.TAG_POST_ADDR_LO p) % 2 ^ 48) (s.rdB (Reg.TAG_POST_COUNT p) Fld.TAG_POST_COUNT_KIND) 1
      (s.rdF (Reg.TAG_POST_COUNT p) Fld.TAG_POST_COUNT_COUNT) 0 := by
  simp only [State.hostTagPresent, halign, hspace, beq_self_eq_true, Bool.and_self, if_true]

theorem State.frameStart_eq {s : State} {p pipe : Nat} {f : Frame}
    (hfind : s.vision.frames.find? (fun f => f.part == p && f.pipe == pipe && (f.phase == .arriving || f.phase == .skipped)
      && (decide (0 < f.rows) || f.done)) = some f) :
    s.frameStart p pipe = if f.phase = .skipped then (((s.putFrames (s.vision.frames.erase f)).post St.VIS_FRAME_SKIPPED).postTagFailed p
        ((s.putFrames (s.vision.frames.erase f)).frameTag f) St.VIS_FRAME_SKIPPED).count (Reg.FRAMES_SKIPPED p pipe)
      else s.beginFrame f := by
  rw [State.frameStart, hfind]

/-- A post of a function that reaches the page does what its OP says (R273). -/
theorem State.hostTagPost_reached {s : State} {fn p : Nat} (hhost : s.hostReaches = true) (hreach : s.mayReach fn p = true) (tag : Nat) :
    s.hostTagPost fn p tag 1 = s.hostTagPresent p tag ∧
    s.hostTagPost fn p tag 2 = (s.post St.VIS_HOST_FAILED).postTagFailed p tag St.VIS_HOST_FAILED ∧
    s.hostTagPost fn p tag 3 = s.writeTag p tag 0 false 0 0 0 := by
  have hgo : ¬(!(s.hostReaches && s.mayReach fn p)) = true := by rw [hhost, hreach]; exact Bool.false_ne_true
  delta State.hostTagPost
  rw [if_neg hgo, if_neg hgo, if_neg hgo]
  refine ⟨?_, ?_, ?_⟩ <;> split <;> trivial

/-- Settles O22, by the operation of the tag and the phase of the frame. -/
theorem tagCommandsComplete : Obligations.TagCommandsComplete := by
  unfold Obligations.TagCommandsComplete
  intro s fn p tag pipe us
  dsimp only
  refine ⟨?_, ?_⟩
  · intro hhost hreach
    obtain ⟨hpresent, hfailed, habsent⟩ := State.hostTagPost_reached hhost hreach tag
    refine ⟨?_, congrArg Host.Outcome.next hfailed, congrArg Host.Outcome.next habsent⟩
    intro halign hspace
    exact congrArg Host.Outcome.next (hpresent.trans (State.hostTagPresent_eq tag halign hspace))
  · intro f hruns hfind
    refine ⟨?_, ?_⟩ <;> intro hphase <;>
      simp only [exec, execPipelineFrameStart, hruns, State.frameStart_eq hfind, hphase, if_true, if_false]

end Sys2Proof.Machine
end

section
/-! PROOFS. Media commands (R286 to R309). -/
namespace Sys2Proof.Machine

theorem State.mediaFetch_eq {s u v : State} {m p : Nat} {b : List Byte} {y : MediaCmd} (howner : s.pipeOwner m = some p) (hworks : s.pipeWorks m = true)
    (hruns : s.partRuns p = true) (hon : s.rdB (Reg.MSQ_CFG m) Fld.MSQ_CFG_ENABLE = true) (hhead : s.rdN (Reg.MSQ_HEAD m) ≠ s.rdN (Reg.MSQ_TAIL m))
    (hhost : s.hostReadable (s.rdF (Reg.MSQ_CFG m) Fld.MSQ_CFG_SPACE) (p + 1) = true) (hpower : s.engineUp (.pipe m) = true)
    (hread : s.ringRead (s.rdF (Reg.MSQ_CFG m) Fld.MSQ_CFG_SPACE) (p + 1)
      (ringBase (s.rd64 (Reg.MSQ_BASE_LO m)) 64 (s.rdF (Reg.MSQ_CFG m) Fld.MSQ_CFG_SIZE_LOG2) + 64 * s.rdN (Reg.MSQ_HEAD m)) 64 = (some b, u))
    (hy : ⟨wordsOf8 b, u.now⟩ = y) (hroom : (u.mediaQueue m y.ctx).length < 32)
    (hv : u.wrN (Reg.MSQ_HEAD m) ((s.rdN (Reg.MSQ_HEAD m) + 1) % 2 ^ s.rdF (Reg.MSQ_CFG m) Fld.MSQ_CFG_SIZE_LOG2) = v) (hok : v.commandOk p y = true) :
    s.mediaFetch m = v.putQueue m y.ctx (v.mediaQueue m y.ctx ++ [y]) := by
  simp only [State.mediaFetch, howner, hworks, hruns, hon, beq_eq_false_iff_ne.mpr hhead, hhost, hpower, Bool.not_true, Bool.or_self, Bool.false_eq_true,
    if_false, hread, hy, Nat.not_le.mpr hroom, hv, hok, if_true]

theorem State.onHead_eq {s : State} {m c : Nat} {x : MediaCmd} {rest : List MediaCmd} (hworks : s.pipeWorks m = true)
    (hqueue : s.mediaQueue m c = x :: rest) (hopen : ∀ k, s.mediaCtx m c = some k → k.closing = none) (f : MediaCmd → State → State) :
    s.onHead m c x.op f = f x (s.putQueue m c rest) := by
  cases hctx : s.mediaCtx m c with
  | none => simp only [State.onHead, hqueue, hctx, hworks, ne_eq, not_true_eq_false, decide_false, Bool.not_true, Bool.or_self, Bool.false_eq_true, if_false]
  | some k =>
    simp only [State.onHead, hqueue, hctx, hopen k hctx, hworks, Option.isSome_none, ne_eq, not_true_eq_false, decide_false, Bool.not_true, Bool.or_self,
      Bool.false_eq_true, if_false]

theorem State.openWith_eq {s : State} {m c : Nat} (kind : CtxKind) (x : MediaCmd) (hnone : s.mediaCtx m c = none)
    (hbase : s.rd64 (Reg.CTX_BASE_LO m) % 2 ^ 48 ≠ 0) : s.openWith m c kind x = s.openCtx m c x.tag kind := by
  simp only [State.openWith, hnone, Option.isSome_none, hbase, Bool.false_eq_true, if_false]

/-- The first command of an OP heads the queue: no command stands ahead of it. -/
theorem takeWhile_op_head (x : MediaCmd) (rest : List MediaCmd) : (x :: rest).takeWhile (fun y => y.op != x.op) = [] :=
  List.takeWhile_cons_of_neg (by simp)

theorem State.onFreeing_eq {s : State} {m c : Nat} {x : MediaCmd} {rest : List MediaCmd} (hworks : s.pipeWorks m = true)
    (hqueue : s.mediaQueue m c = x :: rest) (f : MediaCmd → State → State) : s.onFreeing m c x.op f = f x (s.putQueue m c rest) := by
  simp only [State.onFreeing, hqueue, takeWhile_op_head, List.length_nil, List.drop_zero, List.isEmpty_nil, Bool.true_or, hworks, Bool.and_self, if_true,
    List.nil_append]

theorem State.closeCtx_eq {s : State} {m c : Nat} {x : MediaCmd} {rest : List MediaCmd} {k : MediaCtx} (hworks : s.pipeWorks m = true)
    (hqueue : s.mediaQueue m c = x :: rest) (hop : x.op = 3) (hctx : s.mediaCtx m c = some k) (hopen : k.closing = none) :
    s.closeCtx m c = s.startClose m c x [] rest k := by
  have hahead := takeWhile_op_head x rest
  rw [hop] at hahead
  simp only [State.closeCtx, hqueue, hahead, List.length_nil, List.drop_zero, hctx, hopen, Option.isSome_none, hworks, Bool.not_true, Bool.or_self,
    Bool.false_eq_true, if_false]

theorem State.readyDecode_eq {s : State} {m c : Nat} {x : MediaCmd} {rest : List MediaCmd} {k : MediaCtx} {d : DecCtx} (hworks : s.pipeWorks m = true)
    (hqueue : s.mediaQueue m c = x :: rest) (hop : x.op = 4) (hctx : s.mediaCtx m c = some k) (hopen : k.closing = none) (hkind : k.kind = .dec d)
    (hfree : d.unit = none) : s.readyDecode m c = s.updDec m c (fun d => { d with unit := some x }) := by
  simp only [State.readyDecode, hqueue, hctx, hop, hworks, hopen, hkind, hfree, Option.isSome_none, ne_eq, not_true_eq_false, decide_false, Bool.not_true,
    Bool.or_self, Bool.false_eq_true, if_false]

theorem State.readyEncode_eq {s : State} {m c : Nat} {x : MediaCmd} {rest : List MediaCmd} {k : MediaCtx} {e : EncCtx} (hworks : s.pipeWorks m = true)
    (hqueue : s.mediaQueue m c = x :: rest) (hop : x.op = 5) (hctx : s.mediaCtx m c = some k) (hopen : k.closing = none) (hkind : k.kind = .enc e)
    (hfree : e.ready = none) (hsource : s.encodeSourceOk ((s.pipeOwner m).getD 0) e x = true) :
    s.readyEncode m c = s.updEnc m c (fun e => { e with ready := some x }) := by
  simp only [State.readyEncode, hqueue, hctx, hop, hworks, hopen, hkind, hfree, hsource, Option.isSome_none, ne_eq, not_true_eq_false, decide_false,
    Bool.not_true, Bool.or_self, Bool.false_eq_true, if_false]

theorem State.updateRate_eq {s : State} {m c : Nat} {x : MediaCmd} {e : EncCtx} (hctx : s.encCtx m c = some e)
    (hfits : rateFits e.codec (rateCfg (x.word 5) (x.word 6)) = true) :
    s.updateRate m c x = (s.updEnc m c (fun e => { e with rate := rateCfg (x.word 5) (x.word 6) })).mediaAck m c 0x8000 x.tag := by
  simp only [State.updateRate, hctx, hfits, Bool.not_true, Bool.false_eq_true, if_false]

theorem State.releaseSlots_eq {s : State} {m c : Nat} {x : MediaCmd} {d : DecCtx} (hctx : s.decCtx m c = some d) (hmask : x.word 1 < 2 ^ d.slots.length) :
    s.releaseSlots m c x = (((s.overList ((List.range d.slots.length).filter (bitOf (x.word 1))) (fun i t => t.unhold m c i 2)).mediaAck
      m c 0x8000 x.tag).finishClose m c) := by
  simp only [State.releaseSlots, hctx, Nat.not_le.mpr hmask, if_false]

theorem State.outConsumed_eq {s u : State} {m c : Nat} {x : MediaCmd} {e : EncCtx} (hctx : s.encCtx m c = some e) (hhead : x.word 1 < e.outSize)
    (hu : (s.updEnc m c (fun z => { z with
      outHead := x.word 1, outUsed := z.outUsed - (x.word 1 + e.outSize - e.outHead) % e.outSize })).mediaAck m c 0x8000 x.tag = u)
    (hidle : (u.mediaPipe m).enc = none) : s.outConsumed m c x = u := by
  simp only [State.outConsumed, hctx, Nat.not_le.mpr hhead, if_false, hu, hidle]

/-- Settles O23, by the OP of the command. -/
theorem mediaCommandsComplete : Obligations.MediaCommandsComplete := by
  unfold Obligations.MediaCommandsComplete
  intro s m c x rest
  refine ⟨?_, ?_⟩
  · intro p us b
    dsimp only
    intro howner hworks hruns hon hhead hhost hpower hread hroom hok
    exact congrArg Host.Outcome.next (State.mediaFetch_eq howner hworks hruns hon hhead hhost hpower (Prod.ext hread rfl) rfl hroom rfl hok)
  · intro hworks hqueue t
    refine ⟨?_, ?_, ?_, ?_⟩
    · intro hnone hagain hbase
      have hopen : ∀ k, s.mediaCtx m c = some k → k.closing = none := fun k hk => by rw [hnone] at hk; cases hk
      refine ⟨fun hop => ?_, fun hop => ?_⟩
      · have htake := State.onHead_eq hworks hqueue hopen (fun x s => s.openWith m c (.dec (openedDec x)) x)
        rw [hop] at htake
        exact congrArg Host.Outcome.next (htake.trans (State.openWith_eq _ x hagain hbase))
      · have htake := State.onHead_eq hworks hqueue hopen (fun x s => s.openWith m c (.enc (openedEnc x)) x)
        rw [hop] at htake
        exact congrArg Host.Outcome.next (htake.trans (State.openWith_eq _ x hagain hbase))
    · intro k hctx hclosing
      refine ⟨?_, ?_, ?_, ?_⟩
      · intro hop
        exact congrArg Host.Outcome.next (State.closeCtx_eq hworks hqueue hop hctx hclosing)
      · intro d hop hkind hfree
        exact congrArg Host.Outcome.next (State.readyDecode_eq hworks hqueue hop hctx hclosing hkind hfree)
      · intro e hop hkind hfree hsource
        exact congrArg Host.Outcome.next (State.readyEncode_eq hworks hqueue hop hctx hclosing hkind hfree hsource)
      · intro e hop henc hfits
        have hopen : ∀ k, s.mediaCtx m c = some k → k.closing = none := fun k' hk => by rw [hctx] at hk; cases hk; exact hclosing
        have htake := State.onHead_eq hworks hqueue hopen (State.updateRate m c)
        rw [hop] at htake
        exact congrArg Host.Outcome.next (htake.trans (State.updateRate_eq henc hfits))
    · intro d hop hdec hmask
      have htake := State.onFreeing_eq hworks hqueue (State.releaseSlots m c)
      rw [hop] at htake
      exact congrArg Host.Outcome.next (htake.trans (State.releaseSlots_eq hdec hmask))
    · intro e hop henc hhead u hidle
      have htake := State.onFreeing_eq hworks hqueue (State.outConsumed m c)
      rw [hop] at htake
      exact congrArg Host.Outcome.next (htake.trans (State.outConsumed_eq henc hhead rfl hidle))

end Sys2Proof.Machine
end

section
/-! PROOFS. Pictures of a media pipe (R282 to R309). -/
namespace Sys2Proof.Machine

theorem State.decodeStart_eq {s v : State} {m p c i : Nat} {d : DecCtx} {u : MediaCmd} {k : MediaCtx} (part : UnitPart) (last : Bool)
    (sets : List ParamSet) (saved : List Nat) (hv : s.noteSlotWaits m (s.readyUnits m) = v) (howner : s.pipeOwner m = some p)
    (hworks : s.pipeWorks m = true) (hcool : s.pipeHot m = false) (hpower : s.engineUp (.pipe m) = true) (hidle : (s.mediaPipe m).dec = none)
    (hheld : (s.mediaPipe m).held = []) (hroom : s.mcqFull m = false)
    (hunit : oldestOf (fun e => e.2.fetchTs) ((s.readyUnits m).filter (fun e => e.2.1.freeSlot.isSome)) = some (c, d, u))
    (hctx : v.mediaCtx m c = some k) (hslot : d.freeSlot = some i) (hhost : bitOf (u.word 1) 63 = true → v.hostReadable 1 (p + 1) = true) :
    s.decodeStart m part last sets saved = (v.takeUnit m c u (s.mediaPipe m).decLoaded saved).startPart m p c k d u i part last sets := by
  have hread : ¬((bitOf (u.word 1) 63 && !v.hostReadable 1 (p + 1)) = true) := by
    intro h
    rw [Bool.and_eq_true] at h
    rw [hhost h.1] at h
    exact Bool.false_ne_true h.2
  simp only [State.decodeStart, howner, hworks, hcool, hpower, hidle, hheld, hroom, Option.isSome_none, List.isEmpty_nil, Bool.not_true, Bool.or_self,
    Bool.false_eq_true, if_false, hv, hunit, hctx, hslot, hread]

theorem State.blockRow_eq {s : State} {m : Nat} (row : BlockRow) {r : DecRun} {d : DecCtx} (hrun : (s.mediaPipe m).dec = some r)
    (hctx : s.decCtx m r.ctx = some d) (hworks : s.pipeWorks m = true) : s.blockRow m row = s.decodeRow m row d r := by
  simp only [State.blockRow, hrun, hctx, hworks, Bool.not_true, Bool.false_eq_true, if_false]

theorem State.decodeComplete_eq {s : State} {m : Nat} {r : DecRun} {d : DecCtx} {k : MediaCtx} (hrun : (s.mediaPipe m).dec = some r)
    (hctx : s.mediaCtx m r.ctx = some k) (hdec : s.decCtx m r.ctx = some d) (hworks : s.pipeWorks m = true) :
    s.decodeComplete m = (s.concealRest m d r).2.endPicture m k d (s.concealRest m d r).1 := by
  simp only [State.decodeComplete, hrun, hctx, hdec, hworks, Bool.not_true, Bool.false_eq_true, if_false]

theorem State.encodeStart_eq {s : State} {m c : Nat} {e : EncCtx} {u : MediaCmd} (saved : List Nat) (hworks : s.pipeWorks m = true)
    (hcool : s.pipeHot m = false) (hpower : s.engineUp (.pipe m) = true) (hidle : (s.mediaPipe m).enc = none) (hheld : (s.mediaPipe m).held = [])
    (hroom : s.mcqFull m = false) (hpicture : oldestOf (fun e => e.2.fetchTs) (s.readyPictures m) = some (c, e, u)) :
    s.encodeStart m saved = s.startEncode m c e u (s.mediaPipe m).encLoaded saved := by
  simp only [State.encodeStart, hworks, hcool, hpower, hidle, hheld, hroom, Option.isSome_none, List.isEmpty_nil, Bool.not_true, Bool.or_self,
    Bool.false_eq_true, if_false, hpicture]

theorem State.encodeRow_eq {s : State} {m : Nat} {row : CodedRow} {r : EncRun} {e : EncCtx} {x : EncRun × State}
    (hx : (if r.row = 0 then (r, s) else s.rowCoded m r row) = x) (hrun : (s.mediaPipe m).enc = some r) (hworks : s.pipeWorks m = true)
    (hrow : r.row < r.rows) (hwait : r.waiting = none) (hctx : x.2.encCtx m r.ctx = some e) : s.encodeRow m row = x.2.startRow m e x.1 row.areas := by
  simp only [State.encodeRow, hrun, hworks, Nat.not_le.mpr hrow, hwait, decide_false, Option.isSome_none, Bool.not_true, Bool.or_self, Bool.false_eq_true,
    if_false, hx, hctx]

theorem State.sliceWritten_eq {s : State} {m : Nat} {coded : List Byte} {r : EncRun} {e : EncCtx} (hrun : (s.mediaPipe m).enc = some r)
    (hctx : s.encCtx m r.ctx = some e) (hworks : s.pipeWorks m = true) (hwait : r.waiting = none) (hslice : r.sliceRow < r.rows)
    (hend : sliceEnd e r < r.row) (hlen : (e.sliceBytes r coded).length ≤ min 0x400000 (e.outSize / 2)) :
    s.sliceWritten m coded = s.putSlice m r (e.sliceBytes r coded) := by
  simp only [State.sliceWritten, hrun, hctx, hworks, hwait, Nat.not_le.mpr hslice, Nat.not_le.mpr hend, decide_false, Option.isSome_none, Bool.not_true,
    Bool.or_self, Bool.false_eq_true, if_false, Nat.not_lt.mpr hlen]

theorem State.encodeComplete_eq {s : State} {m : Nat} (row : CodedRow) (recon : List (Nat × List Nat)) {r : EncRun} {e : EncCtx}
    (hrun : (s.mediaPipe m).enc = some r) (hctx : s.encCtx m r.ctx = some e) (hworks : s.pipeWorks m = true) (hrows : r.row = r.rows)
    (hslices : r.sliceRow = r.rows) (hwait : r.waiting = none) :
    s.encodeComplete m row recon = ((s.rowCoded m r row).2.putRecon e recon).endEncode m e (s.rowCoded m r row).1 := by
  simp only [State.encodeComplete, hrun, hctx, hworks, hrows, hslices, hwait, Option.isSome_none, ne_eq, not_true_eq_false, decide_false, Bool.not_true,
    Bool.or_self, Bool.false_eq_true, if_false]

theorem State.pipePowerDown_eq {s : State} {m : Nat} (hpower : s.engineUp (.pipe m) = true) (hctxs : (s.mediaPipe m).ctxs = [])
    (hqueues : (s.mediaPipe m).queues = []) (hdec : (s.mediaPipe m).dec = none) (henc : (s.mediaPipe m).enc = none)
    (hlong : (s.mediaPipe m).idleSince + s.rdN (Reg.MED_PIPE_CFG m) % 2 ^ 16 * 1000000 ≤ s.now) :
    s.pipePowerDown m = ({ s with power := { s.power with enginesUp := s.power.enginesUp.filter (fun d => d != Domain.pipe m) } }).wrF (Reg.PIPE_INFO m)
      Fld.PIPE_INFO_POWERED 0 := by
  simp only [State.pipePowerDown, hpower, hctxs, hqueues, hdec, henc, hlong, decide_true, List.isEmpty_nil, Option.isNone_none, Bool.and_self, if_true]

/-- Settles O24, event by event. -/
theorem pictureCommandsComplete : Obligations.PictureCommandsComplete := by
  unfold Obligations.PictureCommandsComplete
  intro s m us saved
  dsimp only
  refine ⟨?_, ?_, ?_, ?_, ?_, ?_, ?_, ?_, ?_⟩
  · intro p c i part last sets d u k howner hworks hcool hpower hidle hheld hroom hunit hctx hslot hhost
    exact congrArg Host.Outcome.next
      (State.decodeStart_eq part last sets saved rfl howner hworks hcool hpower hidle hheld hroom hunit hctx hslot hhost)
  · intro row r d hrun hctx hworks
    exact congrArg Host.Outcome.next (State.blockRow_eq row hrun hctx hworks)
  · intro r d k hrun hctx hdec hworks
    exact congrArg Host.Outcome.next (State.decodeComplete_eq hrun hctx hdec hworks)
  · intro c e u hworks hcool hpower hidle hheld hroom hpicture
    exact congrArg Host.Outcome.next (State.encodeStart_eq saved hworks hcool hpower hidle hheld hroom hpicture)
  · intro row r e hrun hworks hrow hwait hctx
    exact congrArg Host.Outcome.next (State.encodeRow_eq rfl hrun hworks hrow hwait hctx)
  · intro bytes r e hrun hctx hworks hwait hslice hend hlen
    exact congrArg Host.Outcome.next (State.sliceWritten_eq hrun hctx hworks hwait hslice hend hlen)
  · intro row recon r e hrun hctx hworks hrows hslices hwait
    exact congrArg Host.Outcome.next (State.encodeComplete_eq row recon hrun hctx hworks hrows hslices hwait)
  · intro hpower hctxs hqueues hdec henc hlong
    exact congrArg Host.Outcome.next (State.pipePowerDown_eq hpower hctxs hqueues hdec henc hlong)
  · intro hm hgood
    exact congrArg Host.Outcome.next (if_neg (by rw [decide_eq_true hm, hgood]; exact Bool.false_ne_true))

end Sys2Proof.Machine
end

section
/-! PROOFS. Retraining, flits and acknowledgments of a link (R327 to R330). -/
namespace Sys2Proof.Machine

/-- A running link that must retrain, in its three courses (R327). -/
theorem execLinkRetrain_eq {s t : State} {link : Nat} (hlink : link < 16) {r : RetrainEvent} (hstate : s.linkState link = 3)
    (hmust : s.mustRetrain link r.lockLost = true)
    (ht : (((s.count (Reg.LINK_RETRAINS link)).ledgerAdd (0x5000 + link) 2).wrF (Reg.LINK_STATE link) Fld.LINK_STATE_STATE 4).moveFlits link = t) :
    exec (.linkRetrain link r) s = .next (match r.course with
      | .begins => t
      | .held => t.linkTrained link (s.rdF (Reg.LINK_STATE link) Fld.LINK_STATE_RATE) (s.rdF (Reg.LINK_STATE link) Fld.LINK_STATE_WIDTH)
          (s.rdF (Reg.LINK_STATE link) Fld.LINK_STATE_LANES) false
      | .attempts as => t.attempt link (s.rdF (Reg.LINK_STATE link) Fld.LINK_STATE_RATE) (s.rdF (Reg.LINK_STATE link) Fld.LINK_STATE_WIDTH)
          (s.rdF (Reg.LINK_STATE link) Fld.LINK_STATE_RATE) 3 as) := by
  simp only [exec, execLinkRetrain, hstate, hmust, Nat.not_le.mpr hlink, beq_self_eq_true, Bool.and_self, Bool.true_or, Bool.not_true, decide_false,
    Bool.or_self, Bool.false_eq_true, if_false, if_true, ht]
  cases r.course <;> rfl

theorem State.attempt_trained {s : State} {l maxRate maxWidth narrowRate cause n r w lanes : Nat} {as : List Attempt}
    (h : firstResult maxRate maxWidth (3 - (s.linkRun l).tries) as = (n, some (r, w, lanes))) :
    s.attempt l maxRate maxWidth narrowRate cause as = ((s.count (Reg.LINK_ATTEMPTS l) n).ledgerAdd (0x5000 + l) 3 n).linkTrained l r w lanes
      (decide (w < maxWidth ∨ r < narrowRate)) := by
  simp only [State.attempt, h]

/-- A flit of a group's data or control that arrives in order is acknowledged and checked (R328, R330). -/
theorem execFlitReceive_eq {s t u : State} {link p : Nat} {f : Flit} (hup : s.linkUp link = true) (howner : s.linkOwner link = some p)
    (hlow : 1 ≤ f.type) (hhigh : f.type ≤ 3) (hwait : s.mustWait p f = false)
    (ht : { s with ledger := { s.ledger with codewords := mapSet link (mapGetD 0 link s.ledger.codewords + 1) s.ledger.codewords } } = t)
    (hu : (t.putLink link { s.linkRun link with rxSeq := ((s.linkRun link).rxSeq + 1) % 2 ^ 16 }).linkReply 4 link p (s.linkRun link).rxSeq = u) :
    exec (.flitReceive link (s.linkRun link).rxSeq .clean f) s =
      .next ((if f.type = 1 then u else u.feedPath 5 link f.payload).checkFlit p link f) := by
  have hnow : t.mustWait p f = false := by rw [← ht]; exact hwait
  have htype : f.type = 1 ∨ f.type = 2 ∨ f.type = 3 := by omega
  simp only [exec, execFlitReceive, hup, howner, if_true, ht, reduceCtorEq, if_false]
  rcases htype with h | h | h <;> simp only [h, ne_eq, not_true_eq_false, decide_false, hnow, Bool.or_self, Bool.false_eq_true, if_false, hu]

/-- Settles O25, event by event. -/
theorem linkCommandsComplete : Obligations.LinkCommandsComplete := by
  unfold Obligations.LinkCommandsComplete
  intro s link hlink
  dsimp only
  refine ⟨?_, ?_, ?_, ?_⟩
  · intro lockLost hstate hmust
    refine ⟨?_, ?_, ?_⟩
    · exact execLinkRetrain_eq hlink (r := ⟨lockLost, .begins⟩) hstate hmust rfl
    · exact execLinkRetrain_eq hlink (r := ⟨lockLost, .held⟩) hstate hmust rfl
    · intro as n r w l hfirst
      exact (execLinkRetrain_eq hlink (r := ⟨lockLost, .attempts as⟩) hstate hmust rfl).trans (congrArg Host.Outcome.next (State.attempt_trained hfirst))
  · intro howner hlow hhigh
    exact congrArg Host.Outcome.next (if_pos ⟨hlink, howner, hlow, hhigh⟩)
  · intro p lseq f hup howner hseq hlow hhigh hwait
    subst hseq
    exact execFlitReceive_eq hup howner hlow hhigh hwait rfl rfl
  · intro seq hup
    exact ⟨congrArg Host.Outcome.next (if_pos hup), congrArg Host.Outcome.next (if_pos hup)⟩

end Sys2Proof.Machine
end

section
/-! PROOFS. The PCIe endpoint's own events (R311 to R322) and the way between dies (R25). -/
namespace Sys2Proof.Machine

theorem execMsixUnmask_eq {s : State} {fn v : Nat} (hfn : fn < 5) (hv : v < 256) (hup : s.pcieUp = true)
    (hready : fn = 0 ∨ s.ready = true ∧ s.fnExists fn = true) :
    exec (.msixUnmask fn v) s = .next (({ s with pcie := { s.pcie with
      msix := mapSet (4096 * fn + 16 * v + 12) (s.msixWord fn v 3 - s.msixWord fn v 3 % 2) s.pcie.msix } }).releaseVector fn v) :=
  if_pos ⟨hfn, hv, hup, hready⟩

theorem execBusMasterEnableSet_eq {s : State} {fn : Nat} (hfn : fn < 5) (hup : s.pcieUp = true) :
    exec (.busMasterEnableSet fn) s =
      .next ((({ s with pcie := { s.pcie with busMaster := setInsert fn s.pcie.busMaster } }).releaseWrites fn).overList (List.range 256)
        (fun v t => t.releaseVector fn v)) :=
  if_neg (by rw [hup]; simpa using hfn)

/-- The way over die 1 to the dies 2 and 3 fails (R25). -/
theorem execTransitDieFabricFailure_eq {s : State} {die : Nat} (hone : s.fuses.x2 = false) (hready : s.ready = true)
    (hroute : bitOf (s.rdN Reg.DECK_TALON) 16 = true) (hdie : bitOf (s.rdN Reg.DECK_DIES) 1 = true) (hfar : die = 2 ∨ die = 3) :
    exec (.transitDieFabricFailure die) s = .next (s.postFatal St.MGT_TRANSIT_FAILED) := by
  simp only [exec, execTransitDieFabricFailure, hone, hready, hroute, hdie, Bool.not_true, Bool.not_false, Bool.false_eq_true, if_false, if_true, true_and]
  refine congrArg Host.Outcome.next (if_pos ?_)
  rcases hfar with rfl | rfl <;> rfl

/-- Settles O26, event by event. -/
theorem pcieCommandsComplete : Obligations.PcieCommandsComplete := by
  unfold Obligations.PcieCommandsComplete
  intro s
  refine ⟨?_, ?_, ?_, rfl, ?_, ?_, fun _ => rfl, fun _ => ⟨rfl, rfl⟩, ?_, ?_⟩
  · intro vf hlow hhigh hup
    exact congrArg Host.Outcome.next (if_pos ⟨hlow, hhigh, hup⟩)
  · intro hup
    exact congrArg Host.Outcome.next (if_pos hup)
  · intro speed width hlanes hdown
    exact congrArg Host.Outcome.next (if_pos (by rw [hlanes, hdown]; rfl))
  · intro fn v hfn hv hup hready w
    exact execMsixUnmask_eq hfn hv hup hready
  · intro fn hfn hup
    exact execBusMasterEnableSet_eq hfn hup
  · intro hup
    exact congrArg Host.Outcome.next (if_pos hup)
  · intro die hone hready hroute hdie hfar
    exact execTransitDieFabricFailure_eq hone hready hroute hdie hfar

end Sys2Proof.Machine
end

section
/-! PROOFS. Power domains (R350 to R356, R363). -/
namespace Sys2Proof.Machine

theorem execPowerGoodTimeout_eq {s t : State} {d : Domain} (hwaking : s.power.waking.contains d = true) (hover : s.wakeOver d = true)
    (ht : ({ s with power := { s.power with waking := s.power.waking.filter (fun x => x != d) } }).post St.PWR_POWER_UP_FAILED = t) :
    exec (.powerGoodTimeout d) s = .next (match d with
      | .core n => t.failOnCore n St.DEAL_CORE_FAULT
      | .cluster c => t.overList ((List.range 16).map (· + 16 * c)) (fun n t => t.failOnCore n St.DEAL_CORE_FAULT)
      | .pipe m => t.pipeFail m
      | .edge e => t.edgeFail e
      | .reckoner r => t.reckFail r
      | .talonChannel c => if t.talonUp then t.failChannel c else t) := by
  simp only [exec, execPowerGoodTimeout, hwaking, hover, Bool.not_true, Bool.or_self, Bool.false_eq_true, if_false, ht]
  cases d <;> rfl

theorem execCoreIdleTimeout_eq {s : State} {n since : Nat} (hpower : s.corePowered n = true) (hsleep : s.sleepMode = true)
    (htask : (s.coreAt n).task = none) (hfree : s.coreReserved n = false) (hsince : mapGet n s.power.idleSince = some since)
    (hlong : since + s.rdF Reg.PWR_IDLE Fld.PWR_IDLE_CORE_IDLE_US * 1000 ≤ s.now)
    (hother : (List.range 16).any (fun k => (s.coreDown n).corePowered (16 * coreCluster n + k)) = true) :
    exec (.coreIdleTimeout n) s = .next (s.coreDown n) := by
  simp only [exec, execCoreIdleTimeout, hpower, hsleep, htask, hfree, hsince, Nat.not_lt.mpr hlong, hother, Option.isSome_none, Bool.not_true,
    Bool.or_self, Bool.false_eq_true, if_false, if_true]

theorem execClusterIdleTimeout_eq {s : State} {c since : Nat} (hpower : s.clusterPowered c = true) (hsleep : s.sleepMode = true)
    (hidle : (List.range 16).any (fun k => s.corePowered (16 * c + k) || s.coreWanted (16 * c + k)) = false)
    (hsince : mapGet (2048 + c) s.power.idleSince = some since)
    (hlong : since + s.rdF Reg.PWR_IDLE Fld.PWR_IDLE_CLUSTER_IDLE_US * 1000 ≤ s.now) :
    exec (.clusterIdleTimeout c) s = .next (s.clusterDown c) := by
  simp only [exec, execClusterIdleTimeout, hpower, hsleep, hidle, hsince, Nat.not_lt.mpr hlong, Bool.not_true, Bool.or_self, Bool.false_eq_true, if_false]

/-- Settles O27, event by event. -/
theorem domainCommandsComplete : Obligations.DomainCommandsComplete := by
  unfold Obligations.DomainCommandsComplete
  intro s
  refine ⟨?_, ?_, ?_, ?_, ?_, ?_, ?_, ?_, ?_, ?_⟩
  · intro d hwaking
    exact congrArg Host.Outcome.next (if_pos hwaking)
  · intro d hwaking hover t
    exact execPowerGoodTimeout_eq hwaking hover rfl
  · intro n since hpower hsleep htask hfree hsince hlong hother
    exact execCoreIdleTimeout_eq hpower hsleep htask hfree hsince hlong hother
  · intro c since hpower hsleep hidle hsince hlong
    exact execClusterIdleTimeout_eq hpower hsleep hidle hsince hlong
  · intro i hpower hfitted hlong
    exact if_neg (by rw [hpower, hfitted, decide_eq_false (Nat.not_lt.mpr hlong)]; exact Bool.false_ne_true)
  · intro e hrunning hqueue hlong
    exact congrArg Host.Outcome.next (if_pos (by simp only [hrunning, hqueue, hlong]; rfl))
  · intro r hrunning hlong
    exact congrArg Host.Outcome.next (if_pos (by simp only [hrunning, hlong]; rfl))
  · intro t hcommand htransfers hloads hlong
    exact congrArg Host.Outcome.next (if_pos (by rw [hcommand, htransfers, hloads, decide_eq_true hlong]; rfl))
  · intro since hsince hresting hstate hlong
    simp only [exec, execDormantEntry, hsince, hresting, hstate, hlong, beq_self_eq_true, decide_true, Bool.and_self, if_true]
  · intro hruns
    exact congrArg Host.Outcome.next (if_pos hruns)

end Sys2Proof.Machine
end

section
/-! PROOFS. Measurement, caps, thermal steps and trips (R357 to R371). -/
namespace Sys2Proof.Machine

theorem execCapControllerStep_eq {s : State} (hstarted : s.power.started = true) (hdue : s.power.capChangeAt + 50000 ≤ s.now)
    (hover : (s.power.input.take 5).length * s.controllerCap < (s.power.input.take 5).sum * 100) :
    exec .capControllerStep s = .next (s.wrF Reg.PWR_STATE Fld.PWR_STATE_CAP_MHZ
      (min (s.rdF Reg.PWR_STATE Fld.PWR_STATE_CAP_MHZ) (max s.floorMhz (s.rdF Reg.PWR_STATE Fld.PWR_STATE_CAP_MHZ - 100)))).stepClocks := by
  have hsome : (s.power.input.take 5).isEmpty = false := by
    rw [List.isEmpty_eq_false_iff]
    intro h
    rw [h] at hover
    simp at hover
  simp only [exec, execCapControllerStep, hstarted, Nat.not_lt.mpr hdue, hsome, Nat.not_le.mpr hover, decide_false, Bool.not_true, Bool.or_self,
    Bool.false_eq_true, if_false]

theorem execThermalThrottleStep_eq {s t : State} {d : Nat}
    (ht : s.wrF (Reg.PWR_DIE_CLK d) Fld.PWR_DIE_CLK_THERMAL_MHZ (max s.floorMhz (s.rdF (Reg.PWR_DIE_CLK d) Fld.PWR_DIE_CLK_THERMAL_MHZ - 100)) = t)
    (hd : d < 4) (hstarted : s.power.started = true) (hhot : s.dieHot d = true) (hfloor : s.floorMhz < s.rdF (Reg.PWR_DIE_CLK d) Fld.PWR_DIE_CLK_THERMAL_MHZ)
    (hagain : s.power.throttledDies.contains d = true) :
    exec (.thermalThrottleStep d) s = .next ({ t with power := { t.power with
      throttledDies := setInsert d t.power.throttledDies, coolSince := mapDel d t.power.coolSince } }).stepClocks := by
  have hgo : ¬(4 ≤ d ∨ (!s.power.started) = true ∨ (!s.dieHot d) = true ∨ s.rdF (Reg.PWR_DIE_CLK d) Fld.PWR_DIE_CLK_THERMAL_MHZ ≤ s.floorMhz) := by
    rw [hstarted, hhot]
    simp only [Bool.not_true, Bool.false_eq_true, false_or]
    omega
  have honset : t.power.throttledDies.contains d = true := by rw [← ht]; exact hagain
  simp only [exec, execThermalThrottleStep, hgo, if_false, ht, honset, Bool.not_true, Bool.false_eq_true]

theorem execThermalRiseStep_eq {s t : State} {d since new : Nat}
    (hnew : min s.fuses.sustainedMhz (s.rdF (Reg.PWR_DIE_CLK d) Fld.PWR_DIE_CLK_THERMAL_MHZ + 100) = new)
    (ht : s.wrF (Reg.PWR_DIE_CLK d) Fld.PWR_DIE_CLK_THERMAL_MHZ new = t) (hd : d < 4) (hsince : mapGet d s.power.coolSince = some since)
    (hdue : since + 250000 ≤ s.now) (hlow : s.rdF (Reg.PWR_DIE_CLK d) Fld.PWR_DIE_CLK_THERMAL_MHZ < s.fuses.sustainedMhz) :
    exec (.thermalRiseStep d) s = .next ({ t with power := { t.power with
      coolSince := mapSet d t.now t.power.coolSince
      throttledDies := if new = t.fuses.sustainedMhz then setErase d t.power.throttledDies else t.power.throttledDies } }).stepClocks.showThrottle := by
  have hgo : ¬(4 ≤ d ∨ s.now < since + 250000 ∨ s.fuses.sustainedMhz ≤ s.rdF (Reg.PWR_DIE_CLK d) Fld.PWR_DIE_CLK_THERMAL_MHZ) := by omega
  simp only [exec, execThermalRiseStep, hsince, hgo, if_false, hnew, ht]

theorem State.humidityActs_tripped {n t : Nat} (h : tripLevel n = some t) (v : Int) (s : State) : s.humidityActs n v = s := by
  have hn : n ≠ 52 := by
    rintro rfl
    cases h
  exact if_neg (by simp [hn])

theorem execSensorSample_eq {s u : State} {n t : Nat} {v : Int} (hu : s.storeSensor n v = u) (hfitted : s.sensorFitted n = true)
    (hruns : s.mgmtRuns = true) (hawake : u.power.standby = false) (hlevel : tripLevel n = some t) :
    exec (.sensorSample n v) s = if (16 * t : Int) ≤ v then .next (u.trip St.PWR_THERMAL_TRIP 2)
        else if !u.power.started then .next u
        else if n < 32 then .next (u.dieSensorActs n v)
        else if n < 40 then .next (u.xdieSensorActs n)
        else if n < 48 then .next (u.stackSensorActs n v)
        else .next (u.boardSensorActs n v) := by
  simp only [exec, execSensorSample, hfitted, hruns, hu, State.humidityActs_tripped hlevel, hawake, hlevel, Bool.not_true, Bool.or_self,
    Bool.false_eq_true, if_false]

theorem execBallastTaskEnd_eq {s : State} {c : Nat} {g : Graph} {t : Task} {l : List Task}
    (hfind : s.dealer.graphs.find? (fun g => g.source == .ballast c) = some g) (htasks : g.tasks = t :: l) (hphase : t.phase = .loading)
    (hpower : t.cores.all s.corePowered = true) (hdue : s.ballastSince t + 8000 ≤ s.now) :
    exec (.ballastTaskEnd c) s = .next ((s.overList t.cores (fun n u => u.freeCore n)).dropGraph g.uid) := by
  simp only [exec, execBallastTaskEnd, hfind, htasks, List.head?_cons, hphase, hpower, Nat.not_lt.mpr hdue, ne_eq, not_true_eq_false, Bool.not_true,
    Bool.false_eq_true, or_self, if_false]

/-- A sample of the module's input power enters the window (R357). -/
def State.sampled (watts : Nat) (s : State) : State :=
  { s with power := { s.power with
    input := watts :: s.power.input.take 24, winSum := s.power.winSum + watts, winCount := s.power.winCount + 1
    winPeak := max s.power.winPeak watts, winClean := s.power.winClean && !s.capLag && !s.clampInForce } }

/-- What a measurement does once the ante in force is known. -/
def State.measured (watts : Nat) (s : State) : Out :=
  let t := s.sampled watts
  let t := if t.power.windowDone then t else t.wrN Reg.PWR_FIXED (min 0xFFFFFFFF (watts * 250000))
  .next ((t.evalCapLag.clampStep watts).requestBallast watts)

/-- The ante that SET_ANTE left takes effect at the measurement (R359). -/
def State.anteTaken (s : State) : State :=
  match s.power.anteNext with
  | some v => { s.wr Reg.PWR_ANTE (BitVec.ofNat 32 v) with power := { s.power with anteNext := none } }
  | none => s

theorem State.anteTaken_none {s : State} (h : s.power.anteNext = none) : s.anteTaken = s := by
  rw [State.anteTaken, h]

theorem execMeasurementTick_eq {s : State} (watts : Nat) (hstarted : s.power.started = true) :
    exec (.measurementTick watts) s = s.anteTaken.measured watts :=
  if_neg (by rw [hstarted]; exact Bool.false_ne_true)

theorem State.measured_eq {s : State} {watts : Nat} (hdone : s.power.windowDone = true) :
    s.measured watts = .next (((s.sampled watts).evalCapLag.clampStep watts).requestBallast watts) := by
  have hagain : (s.sampled watts).power.windowDone = true := hdone
  simp only [State.measured, hagain, if_true]

/-- Settles O28, event by event. -/
theorem powerControlComplete : Obligations.PowerControlComplete := by
  unfold Obligations.PowerControlComplete
  intro s
  refine ⟨?_, ?_, ?_, ?_, ?_, ?_, ?_, ?_, ?_, ?_, ?_⟩
  · intro mhz hstarted hdue hover
    exact execCapControllerStep_eq hstarted hdue hover
  · intro d off mhz t hd hstarted hhot hfloor hagain
    exact execThermalThrottleStep_eq rfl hd hstarted hhot hfloor hagain
  · intro d since off mhz new t hd hsince hdue hlow
    exact execThermalRiseStep_eq rfl rfl hd hsince hdue hlow
  · intro n v t hfitted hruns hawake hlevel
    have hexec := execSensorSample_eq rfl hfitted hruns hawake hlevel
    refine ⟨fun htrip => hexec.trans (if_pos htrip), fun hcool hdie hstarted => ?_⟩
    rw [hexec, if_neg (Int.not_le.mpr hcool), hstarted, Bool.not_true, if_neg Bool.false_ne_true, if_pos hdie]
  · intro hawake hgood
    exact congrArg Host.Outcome.next (if_neg (by rw [hawake, hgood]; exact Bool.false_ne_true))
  · intro hfree hstarted hawake
    exact (if_neg (by rw [hfree]; exact Bool.false_ne_true)).trans (congrArg Host.Outcome.next (if_pos (by rw [hstarted, hawake]; rfl)))
  · exact ⟨fun hforce => congrArg Host.Outcome.next (if_pos hforce),
      fun hforce => congrArg Host.Outcome.next (if_neg fun h => Bool.false_ne_true (hforce.symm.trans h))⟩
  · intro c g t l hfind htasks hphase hpower hdue
    exact execBallastTaskEnd_eq hfind htasks hphase hpower hdue
  · intro watts t hstarted hante hdone
    rw [execMeasurementTick_eq watts hstarted, State.anteTaken_none hante, State.measured_eq hdone]
    rfl
  · intro energies hstarted
    simp only [exec, execWindowBoundary, hstarted, Bool.not_true, Bool.false_eq_true, if_false]
    exact ⟨_, rfl, rfl, rfl, rfl, rfl, rfl, rfl⟩
  · intro value hhost
    exact congrArg Host.Outcome.next (if_pos hhost)

end Sys2Proof.Machine
end

section
/-! PROOFS. Power, health, reset and configuration messages (R369 to R411, R476, R477). -/
namespace Sys2Proof.Machine

theorem next_serve {s : State} {m : SidebandMsg} {rest : List SidebandMsg} {code : Nat} (h : s.serves code m rest = true) {f : SidebandMsg → State → State}
    {t : State} (ht : f m (s.taking rest) = t) : (Host.Outcome.next (s.serve code f) : Out) = .next t := by
  rw [State.serve_runs code f s m rest h, ht]

/-- Settles O29, message by message. -/
theorem messagesComplete : Obligations.MessagesComplete := by
  unfold Obligations.MessagesComplete
  intro s m rest code
  dsimp only
  intro hserves
  refine ⟨?_, ?_, ?_, ?_, ?_, ?_, ?_, ?_, ?_, ?_, ?_, ?_, ?_, ?_, ?_, ?_, ?_⟩
  · rintro rfl
    exact next_serve hserves rfl
  · rintro rfl hwatts hmode
    exact next_serve hserves (if_neg (by omega))
  · rintro rfl hsum
    exact next_serve hserves (if_neg (Nat.not_lt.mpr hsum))
  · rintro rfl hlow hhigh
    exact next_serve hserves (if_neg (by omega))
  · rintro rfl
    exact next_serve hserves rfl
  · rintro boot rfl hstandby hstart
    exact next_serve hserves ((if_neg (by rw [hstandby]; exact Bool.false_ne_true)).trans
      (if_neg (by rw [hstart]; exact Bool.false_ne_true)))
  · rintro rfl
    exact next_serve hserves rfl
  · rintro rfl
    exact next_serve hserves rfl
  · rintro rfl
    exact next_serve hserves rfl
  · rintro r rfl hrecord
    exact next_serve hserves (by simp only [hrecord])
  · rintro rfl hentry
    exact next_serve hserves (if_pos hentry)
  · rintro rfl
    exact next_serve hserves rfl
  · rintro items rfl hready hitems hroom
    exact next_serve hserves (by simp only [hready, hitems, Nat.not_lt.mpr hroom, Bool.not_true, Bool.false_eq_true, if_false])
  · rintro rfl hready
    exact next_serve hserves (if_neg (by rw [hready]; exact Bool.false_ne_true))
  · rintro rfl
    exact next_serve hserves rfl
  · rintro boot more rfl
    exact next_serve hserves rfl
  · rintro rfl
    exact next_serve hserves rfl

end Sys2Proof.Machine
end

section
/-! PROOFS. Sweeps, checkpoints, latched reads and the day's measurements (R423 to R435). -/
namespace Sys2Proof.Machine

theorem execSweepDue_eq {s : State} {c : Nat} (hready : s.ready = true) (hawake : s.isDormant = false)
    (hperiod : s.rdF Reg.HLT_CFG Fld.HLT_CFG_SWEEP_PERIOD_H ≠ 0) (hnone : s.dealer.graphs.any isSweep = false) (hnext : s.nextSweep = some c) :
    exec .sweepDue s = .next (({ s with ledger := { s.ledger with sweeping := some c } }).ownTask (.sweep c) c 240000) := by
  simp only [exec, execSweepDue, hready, hawake, hperiod, hnone, hnext, decide_false, Bool.not_true, Bool.or_self, Bool.false_eq_true, if_false]

theorem execSweepComplete_eq {s u : State} {c : Nat} (differ : List Nat) (unitBad : Bool) {g : Graph} {t : Task} {l : List Task}
    (hfind : s.dealer.graphs.find? (fun g => g.source == .sweep c) = some g) (htasks : g.tasks = t :: l) (hphase : t.phase = .loading)
    (hpower : t.cores.all s.corePowered = true) (hworks : s.partWorks g.part = true)
    (hu : (s.overList t.cores (fun n u => u.freeCore n)).dropGraph g.uid = u) :
    exec (.sweepComplete c ⟨differ, unitBad⟩) s =
      .next ((if unitBad && !bitOf (u.rdN (Reg.CVU_FAILED (c / 32))) (c % 32) then u.failUnit c else u).judgeSweep c
        ((List.range 16).filter differ.contains)) := by
  simp only [exec, execSweepComplete, hfind, htasks, List.head?_cons, hphase, hpower, hworks, ne_eq, not_true_eq_false, Bool.not_true, Bool.false_eq_true,
    or_self, if_false, hu]

theorem execLedgerCheckpoint_eq {s t : State} (hruns : s.mgmtRuns = true) (hdue : s.hoursSince s.ledger.checkpointAt 1 = true)
    (ht : ({ s with ledger := { s.ledger with checkpointAt := s.now } }).ledgerAdd 0 0 = t) :
    exec .ledgerCheckpoint s =
      .next (if t.rdF Reg.HLT_STATE Fld.HLT_STATE_LEDGER = 0 then { t with ledger := { t.ledger with checkpoint := t.ledger.counters } } else t) := by
  simp only [exec, execLedgerCheckpoint, hruns, hdue, Bool.not_true, Bool.or_self, Bool.false_eq_true, if_false, ht]

theorem execDailyForecast_eq {s t u v : State} (hruns : s.mgmtRuns = true) (hover : s.dayOver = true)
    (ht : ({ s with ledger := { s.ledger with forecastAt := s.now } }).commitRS (inRange 0xC00000 0x100000) = t)
    (hu : (((t.showTalonDays t.talonDays).overList (List.range 51) (fun i t => t.forecastEntry i)).talonEntries t.talonDays).showWorst.forecastAlert = u)
    (hv : u.overList (List.range 12) (fun k t => t.ledgerRecord (k * 0x1000) 0 6 (t.ledgerGet (k * 0x1000) 0) false) = v) :
    exec .dailyForecast s = .next ({ v with ledger := { v.ledger with dayBase := v.ledger.counters, codewords := [] } }).talonNewDay := by
  simp only [exec, execDailyForecast, hruns, hover, Bool.not_true, Bool.or_self, Bool.false_eq_true, if_false, ht, hu, hv]

/-- Settles O30, event by event. -/
theorem healthCommandsComplete : Obligations.HealthCommandsComplete := by
  unfold Obligations.HealthCommandsComplete
  intro s
  refine ⟨?_, ?_, ?_, ?_, ?_, ?_, ?_, ?_, ?_⟩
  · intro c hready hawake hperiod hnone hnext
    exact execSweepDue_eq hready hawake hperiod hnone hnext
  · intro c differ unitBad g t l hfind htasks hphase hpower hworks u v
    exact execSweepComplete_eq differ unitBad hfind htasks hphase hpower hworks rfl
  · intro hruns hdue t
    exact execLedgerCheckpoint_eq hruns hdue rfl
  · intro hup
    exact congrArg Host.Outcome.next (if_pos hup)
  · intro hup
    exact congrArg Host.Outcome.next (if_pos hup)
  · intro frequencies hawake hstarted hdue
    exact congrArg Host.Outcome.next (if_neg (by rw [hawake, hstarted, hdue]; exact Bool.false_ne_true))
  · intro mj hbus hawake hgood hdue
    exact congrArg Host.Outcome.next (if_neg (by rw [hbus, hawake, hgood, hdue]; exact Bool.false_ne_true))
  · intro value hup
    exact congrArg Host.Outcome.next (if_pos hup)
  · intro hruns hover t d u v
    exact execDailyForecast_eq hruns hover rfl rfl rfl

end Sys2Proof.Machine
end

section
/-! PROOFS. Update messages (R441 to R459). -/
namespace Sys2Proof.Machine

/-! ### A word whose bits are given one by one -/

/-- The word of n bits that a predicate names. -/
def maskWord (f : Nat → Bool) (n : Nat) : Nat := (List.range n).foldl (fun a i => if f i then a + 2 ^ i else a) 0

theorem maskWord_succ (f : Nat → Bool) (n : Nat) : maskWord f (n + 1) = if f n then maskWord f n + 2 ^ n else maskWord f n := by
  simp only [maskWord, List.range_succ, List.foldl_append, List.foldl_cons, List.foldl_nil]

theorem maskWord_lt (f : Nat → Bool) (n : Nat) : maskWord f n < 2 ^ n := by
  induction n with
  | zero => exact Nat.one_pos
  | succ n ih =>
    rw [maskWord_succ]
    split <;> omega

theorem bitOf_eq_testBit (w i : Nat) : bitOf w i = w.testBit i := by
  rw [Nat.testBit_eq_decide_div_mod_eq, bitOf]
  rfl

theorem bitOf_maskWord (f : Nat → Bool) {n i : Nat} (h : i < n) : bitOf (maskWord f n) i = f i := by
  rw [bitOf_eq_testBit]
  induction n with
  | zero => omega
  | succ n ih =>
    have hlow := Nat.testBit_lt_two_pow (maskWord_lt f n)
    rw [maskWord_succ]
    rcases Nat.lt_succ_iff_lt_or_eq.mp h with hi | rfl
    · split
      · rw [Nat.add_comm, Nat.testBit_two_pow_add_gt hi, ih hi]
      · exact ih hi
    · split
      · next hf => rw [Nat.add_comm, Nat.testBit_two_pow_add_eq, hlow, hf]; rfl
      · next hf => rw [hlow]; exact (Bool.eq_false_iff.mpr hf).symm

/-! ### The messages -/

theorem ed448Sign_length (secret msg : List Byte) : (ed448Sign secret msg).length = 114 := by
  simp only [ed448Sign, edEncode, List.length_append, leBytes_length]

/-- Settles O31, message by message. -/
theorem updateMessagesComplete : Obligations.UpdateMessagesComplete := by
  unfold Obligations.UpdateMessagesComplete
  intro s m rest code
  dsimp only
  intro hserves
  refine ⟨?_, ?_, ?_, ?_, ?_, ?_, ?_, ?_, ?_⟩
  · rintro rfl
    exact next_serve hserves rfl
  · rintro fails rfl
    exact next_serve hserves rfl
  · rintro rfl hfirst
    exact ⟨maskWord (fun i => (((s.taking rest).update.staging.map (fun r => r.received)).getD []).contains (leAt m.body 0 2 + i)) 256,
      fun i hi => bitOf_maskWord _ hi, next_serve hserves (if_neg (not_not.mpr hfirst))⟩
  · rintro rfl
    exact next_serve hserves rfl
  · rintro boot more rfl
    exact next_serve hserves rfl
  · rintro u rfl hconfirm
    exact next_serve hserves (by simp only [hconfirm])
  · rintro k rfl hopen hslot
    exact next_serve hserves (by simp only [hopen, hslot, Bool.not_true, Bool.false_eq_true, if_false])
  · rintro rfl hresult hgood hrecovery
    exact ⟨ed448Sign_length _ _, next_serve hserves (if_neg (by rw [hrecovery]; exact not_or.mpr ⟨hresult, not_or.mpr ⟨hgood, Bool.false_ne_true⟩⟩))⟩
  · rintro rfl
    exact next_serve hserves rfl

end Sys2Proof.Machine
end

section
/-! PROOFS. The drain of an activation and the end of a showdown (R447 to R456). -/
namespace Sys2Proof.Machine

theorem execActivationDrainComplete_eq {s : State} {a : SidebandMsg} {j : ResetJob} (boot : Boot) (more : List Boot)
    (hactivating : s.update.activating = some a) (hjob : s.mgmt.jobs.find? (fun j => j.scope == .module) = some j) (hdrained : s.drained j = true) :
    exec (.activationDrainComplete boot more) s = .next (s.recheck boot more) := by
  simp only [exec, execActivationDrainComplete, hactivating, hjob, hdrained, if_true]

theorem execShowdownDeadline_eq {s : State} (boot : Boot) (more : List Boot) (hshowdown : s.inShowdown = true) (hruns : s.mgmtRuns = true)
    (hgood : s.mgmt.fatal = none) (hawake : s.power.standby = false) (hdue : s.showdownDue ≤ s.now)
    (hjobs : s.mgmt.jobs.any (fun j => j.scope == .module) = false) :
    exec (.showdownDeadline boot more) s = .next (s.requestModule false boot more) := by
  simp only [exec, execShowdownDeadline, hshowdown, hruns, hgood, hawake, Nat.not_lt.mpr hdue, hjobs, Option.isSome_none, decide_false, Bool.not_true,
    Bool.or_self, Bool.false_eq_true, if_false]

/-- Settles O32, event by event. -/
theorem activationEventsComplete : Obligations.ActivationEventsComplete := by
  unfold Obligations.ActivationEventsComplete
  intro s boot more
  refine ⟨?_, ?_, ?_⟩
  · intro a j hactivating hjob hdrained
    exact execActivationDrainComplete_eq boot more hactivating hjob hdrained
  · intro hshowdown hruns hgood hawake hdue hjobs
    exact execShowdownDeadline_eq boot more hshowdown hruns hgood hawake hdue hjobs
  · intro value hup
    exact congrArg Host.Outcome.next (if_pos hup)

end Sys2Proof.Machine
end

section
/-! PROOFS. Resets, folds and their drains (R397 to R411). -/
namespace Sys2Proof.Machine

theorem execDrainComplete_eq {s : State} {fw : List Upset} {job : Nat} {j : ResetJob} (boot : Boot) (more : List Boot)
    (hjob : (s.upset fw).mgmt.jobs[job]? = some j) (hmay : (s.upset fw).mayProceed j = true) (hdrained : (s.upset fw).drained j = true) :
    exec (.drainComplete job fw boot more) s = .next ((s.upset fw).proceed j false boot more) := by
  simp only [exec, execDrainComplete, hjob, hmay, hdrained, Bool.and_self, if_true]

theorem execDrainTimeout_eq {s : State} {fw : List Upset} {job : Nat} {j : ResetJob} (boot : Boot) (more : List Boot)
    (hjob : (s.upset fw).mgmt.jobs[job]? = some j) (hmay : (s.upset fw).mayProceed j = true) (hbusy : (s.upset fw).drained j = false)
    (hdue : j.started + (s.upset fw).rdF Reg.RST_CFG Fld.RST_CFG_DRAIN_TIMEOUT_MS * msNs ≤ (s.upset fw).now) :
    exec (.drainTimeout job fw boot more) s = .next
      (((((s.upset fw).post St.RST_DRAIN_TIMED_OUT).count (Reg.RST_COUNTER 3)).absorbCores (jobCores j)).proceed j true boot more) := by
  simp only [exec, execDrainTimeout, hjob, hmay, hbusy, Nat.not_lt.mpr hdue, decide_false, Bool.not_true, Bool.or_self, Bool.false_eq_true, if_false]

/-- Settles O33, by the command that RST_CMD names and by the ends of a drain. -/
theorem resetCommandsComplete : Obligations.ResetCommandsComplete := by
  unfold Obligations.ResetCommandsComplete
  intro s fw boot more
  dsimp only
  refine ⟨?_, ?_, ?_⟩
  · intro job j hjob hmay
    exact ⟨fun hdrained => execDrainComplete_eq boot more hjob hmay hdrained, fun hbusy hdue => execDrainTimeout_eq boot more hjob hmay hbusy hdue⟩
  · intro hup absorb target
    exact ⟨congrArg Host.Outcome.next (if_pos hup), congrArg Host.Outcome.next (if_pos hup)⟩
  · intro hup absorb target
    exact ⟨congrArg Host.Outcome.next (if_pos hup), congrArg Host.Outcome.next (if_pos hup), congrArg Host.Outcome.next (if_pos hup),
      congrArg Host.Outcome.next (if_pos hup)⟩

end Sys2Proof.Machine
end

section
/-! PROOFS. Rails, side lines and the peers' training (R350 to R403, R470 to R475). -/
namespace Sys2Proof.Machine

theorem execResetNAssert_eq {s : State} (hfree : s.side.resetAsserted = false) (hruns : s.mgmtRuns = true) {t : State}
    (ht : ((s.talonDown 1 0).enterStandby).wrF Reg.MGT_STATE Fld.MGT_STATE_STATE 3 = t) :
    exec .resetNAssert s = .next { t with side := { t.side with resetAsserted := true } } := by
  subst ht
  exact if_neg (by rw [hfree, hruns]; exact Bool.false_ne_true)

/-- The end of RESET_N in a module that can start: bring-up begins (R403). -/
theorem execResetNRelease_eq {s t : State} (boot : Boot) (more : List Boot) (hheld : s.side.resetAsserted = true) (hruns : s.mgmtRuns = true)
    (ht : ({ s with side := { s.side with resetAsserted := false } }).wrF Reg.MGT_STATE Fld.MGT_STATE_STATE 0 = t) (hstart : t.canStart = true)
    (hpresent : t.side.present = true) : exec (.resetNRelease boot more) s = .next ((t.bringUp boot).showdownRetry more) := by
  have hstill : ({ s with side := { s.side with resetAsserted := false } } : State).mgmtRuns = true := hruns
  simp only [exec, execResetNRelease, hheld, hstill, Bool.not_true, Bool.false_eq_true, if_false, if_true]
  rw [ht, hstart, hpresent]
  rfl

/-- Settles O34, line by line. -/
theorem lineEventsComplete : Obligations.LineEventsComplete := by
  unfold Obligations.LineEventsComplete
  intro s
  refine ⟨?_, ?_, ?_, ?_, ?_, ?_, rfl, ?_, fun _ => ⟨rfl, rfl⟩, ?_, fun _ => rfl⟩
  · intro hfree hruns t
    exact execResetNAssert_eq hfree hruns rfl
  · intro boot hheld hruns t hstart hpresent
    exact execResetNRelease_eq boot [] hheld hruns rfl hstart hpresent
  · intro link attempts late more hlink hstate
    exact congrArg Host.Outcome.next (if_pos ⟨hlink, hstate⟩)
  · intro link late more hlink hstate hlate
    exact congrArg Host.Outcome.next (if_pos ⟨hlink, hstate, hlate⟩)
  · intro more hwaiting
    exact congrArg Host.Outcome.next (if_neg (by rw [hwaiting]; exact Bool.false_ne_true))
  · intro hpresent
    exact congrArg Host.Outcome.next (if_neg (by rw [hpresent]; exact Bool.false_ne_true))
  · intro reading hbus
    exact congrArg Host.Outcome.next (if_neg (by rw [hbus]; exact Bool.false_ne_true))
  · intro reading haux
    exact congrArg Host.Outcome.next (if_neg (by rw [haux]; exact Bool.false_ne_true))

end Sys2Proof.Machine
end

section
/-! PROOFS. Vendor messages, addresses, MCTP and PLDM (R473 to R479). -/
namespace Sys2Proof.Machine

/-- A vendor message that the module can hold joins those held; any but a power report wakes it (R476). -/
theorem execSidebandMessageReceive_eq {s t : State} {bytes : List Nat} {b : List Byte} {m : SidebandMsg} (hruns : s.mgmtRuns = true)
    (htarget : s.side.targetUp = true) (hb : bytes.map (BitVec.ofNat 8) = b) (hm : ⟨leAt b 3 1 % 32, leAt b 4 1, b.drop 6, false⟩ = m)
    (hlong : 5 ≤ b.length) (hshort : b.length ≤ 65600) (htype : leAt b 0 1 = 0x7E)
    (hvendor : leAt b 1 1 * 256 + leAt b 2 1 = s.fuses.vendorId % 65536) (hrequest : bitOf (leAt b 3 1) 7 = false) (hroom : s.side.held.length < 9)
    (hok : messageOk b = true) (ht : (if m.code = 0x07 then s else s.wake) = t) :
    exec (.sidebandMessageReceive bytes) s = .next { t with side := { t.side with held := t.side.held ++ [m] } } := by
  subst hm ht
  simp only [exec, execSidebandMessageReceive, hb, hruns, htarget, htype, hvendor, hrequest, hok, Nat.not_lt.mpr hshort, Nat.not_lt.mpr hlong,
    Nat.not_le.mpr hroom, bne_self_eq_false, decide_false, Bool.not_true, Bool.or_self, Bool.or_false, Bool.false_and, Bool.false_eq_true, if_false,
    decide_eq_true_eq]

theorem execSetEndpointId_eq {s : State} {op eid : Nat} (hruns : s.mgmtRuns = true) (htarget : s.side.targetUp = true) (hop : op < 2) (hlow : 0 < eid)
    (hhigh : eid < 0xFF) :
    exec (.setEndpointId op eid) s = .next (({ s with side := { s.side with endpointId := eid } }).mctpControl 1 [0, 0, eid, 0]) := by
  have hgo : ¬(2 ≤ op ∨ eid = 0 ∨ 0xFF ≤ eid) := by omega
  simp only [exec, execSetEndpointId, hruns, htarget, hgo, Bool.not_true, Bool.or_self, Bool.false_eq_true, if_false]

theorem execGetPldmVersion_eq {s : State} {type : Nat} (h : type ∈ pldmTypes) :
    exec (.getPldmVersion 1 type) s =
      .next (s.pldm 3 ([0] ++ le 4 0 ++ [5] ++ le 4 (Config.pldmVersion type) ++ le 4 (versionCrc (Config.pldmVersion type)))) := by
  simp only [exec, execGetPldmVersion, List.contains_iff_mem.mpr h, ne_eq, not_true_eq_false, Bool.not_true, Bool.false_eq_true, if_false]

theorem execGetPldmCommands_eq {s : State} {type : Nat} (h : type ∈ pldmTypes) :
    exec (.getPldmCommands type (Config.pldmVersion type % 2 ^ 32)) s = .next (s.pldm 5 ([0] ++ bitmapBytes 32 (pldmCommandsOf type))) := by
  simp only [exec, execGetPldmCommands, List.contains_iff_mem.mpr h, ne_eq, not_true_eq_false, Bool.not_true, Bool.false_eq_true, if_false]

theorem execGetSensorReading_eq {s : State} {id size : Nat} {reading : List Nat} (h : s.numericSensor id = some (size, reading)) :
    exec (.getSensorReading id) s =
      .next ((s.pldm 0x11 ([0, size, 0, 0] ++ (List.range 3).map (fun i => Config.sensorState id i s.freeCtr % 256) ++ reading)).drawn) := by
  simp only [exec, execGetSensorReading, h]

theorem execGetStateSensorReadings_eq {s : State} {id v : Nat} (h : s.stateSensor id = some v) :
    exec (.getStateSensorReadings id) s =
      .next ((s.pldm 0x21 ([0, 1, 0, v] ++ (List.range 2).map (fun i => Config.sensorState id i s.freeCtr % 256))).drawn) := by
  simp only [exec, execGetStateSensorReadings, h]

theorem execGetPdr_eq {s : State} {h : Nat} (part count : Nat) {id : Nat} (hlow : 1 ≤ h) (hid : s.pdrSensors[h - 1]? = some id) :
    ∃ body, exec (.getPdr h part count) s = .next (s.pldm 0x51 ([0] ++ body)) := by
  have hzero : h ≠ 0 := by omega
  simp only [exec, execGetPdr, hzero, if_false, hid, List.append_assoc]
  exact ⟨_, rfl⟩

theorem execGetPdrRepositoryInfo_eq (s : State) : ∃ body, exec .getPdrRepositoryInfo s = .next (s.pldm 0x50 ([0, 0] ++ body)) := by
  simp only [exec, execGetPdrRepositoryInfo, List.append_assoc]
  exact ⟨_, rfl⟩

/-- Settles O35, request by request. -/
theorem sidebandBusComplete : Obligations.SidebandBusComplete := by
  unfold Obligations.SidebandBusComplete
  intro s hruns htarget
  refine ⟨?_, ?_, ?_, rfl, ?_, rfl, rfl, rfl, ?_, rfl, ?_, ?_, ?_, ?_⟩
  · intro bytes b m hlong hshort htype hvendor hrequest hroom hok t
    exact execSidebandMessageReceive_eq hruns htarget rfl rfl hlong hshort htype hvendor hrequest hroom hok rfl
  · intro addr hnone
    exact ⟨congrArg Host.Outcome.next (if_pos (by rw [hruns, htarget, hnone, beq_self_eq_true]; rfl)),
      congrArg Host.Outcome.next (if_pos (by rw [hruns, htarget, hnone]; rfl))⟩
  · intro op eid hop hlow hhigh
    exact execSetEndpointId_eq hruns htarget hop hlow hhigh
  · rintro type (rfl | rfl | rfl | rfl) <;> rfl
  · intro type htype
    exact ⟨execGetPldmVersion_eq htype, execGetPldmCommands_eq htype⟩
  · intro id size reading hreading
    exact ⟨_, by rw [List.length_map, List.length_range], execGetSensorReading_eq hreading⟩
  · intro id v hv
    exact ⟨_, by rw [List.length_map, List.length_range], execGetStateSensorReadings_eq hv⟩
  · intro h part count id hlow hid
    exact execGetPdr_eq part count hlow hid
  · exact execGetPdrRepositoryInfo_eq s

end Sys2Proof.Machine
end

section
/-! PROOFS. The bytes that a store changes (O60). -/
namespace Sys2Proof.Machine

/-! ### What a GATHER stores after its reads -/

theorem State.keepsOutside.storePut (core off : Nat) (b : List Byte) (s : State) :
    s.keepsOutside (s.storePut core off b) (storeAddr core off) b.length := by
  unfold State.storePut State.sramWrite
  dsimp only
  split
  · next h => exact .of_keeps ((State.readSram_within).snd h).keepsMem
  · next h => exact .trans_keeps ((State.readSram_within).snd h).keepsMem (.poke _ _ _)

/-- After its reads a GATHER changes the bytes of its output only. -/
theorem State.kvGather_stores {s t u : State} {core queue : Nat} {k : KvTarget} {words tags : List Nat} {a : GatherAcc}
    (htarget : s.kvTarget core (words.getD 0 0) = some k) (hok : s.gatherOk k.slot words = true) (htable : (s.checkTable k).1 = .sound tags)
    (ht : (s.checkTable k).2 = t)
    (hblocks : t.gatherBlocks k (gatherDesc words) tags (t.rdF (Reg.KV_WINDOW k.slot) Fld.KV_WINDOW_WINDOW)
      (t.rdF (Reg.KV_BIDIR k.slot) Fld.KV_BIDIR_BIDIR_LEN) (gatheredBlocks k words) ⟨[], [], 0, 0⟩ = (.ok a, u))
    (hwrite : (u.raise core a.flags).storeWritable core (gatherDesc words).dst a.out.length = true) :
    u.keepsOutside (s.kvGather core queue words) (storeAddr core (gatherDesc words).dst) a.out.length := by
  have hstore : u.keepsOutside ((u.raise core a.flags).storePut core (gatherDesc words).dst a.out) (storeAddr core (gatherDesc words).dst) a.out.length :=
    .trans_keeps (State.raise_within).keepsMem (.storePut _ _ _ _)
  simp only [State.kvGather, htarget, hok, Bool.not_true, Bool.false_eq_true, if_false]
  rw [State.withTable_sound htable, ht]
  simp only [gatheredBlocks] at hblocks
  simp only [hblocks]
  rw [State.putStore_clean _ _ _ _ hwrite]
  split
  · exact hstore
  · exact hstore.keeps_trans (State.keeps_trans (State.snoop_within).keepsMem (State.bumpDone_within).keepsMem)

/-! ### A GATHER that renews the lease of a page -/

/-- A running task of one core. -/
def TaskDesc.running : TaskDesc := ⟨0, .prefill, false, 0, [], [⟨1, 1, 1, 0⟩], 0, 1, 0, 1, 0, 0, 0, 0, []⟩

/-- The task's graph, of trick 1. -/
def Graph.running : Graph :=
  ⟨1, 0, .serving 0, 0, 0, 1, false, none, false, [⟨TaskDesc.running, .running, 0, false, 0, none, none, [], 0, [0], 0, 0, 0, 0, 0, 0, 0, 0⟩]⟩

/-- A decoding request whose 16 positions lie in one page of BF16. -/
def HandRecord.paged : HandRecord where
  index := 3
  generation := 0
  phase := .decode
  desc := ⟨1, 0, 0, false, 0, 7, 0, 0, 16, 8, 0, 0, 0, 0, 0, 0, 0, 0, []⟩
  rq := 0
  order := 0
  submitTs := 0
  admitTs := 0
  firstTs := 0
  lastTs := 0
  promptDone := 16
  generated := 0
  position := 16
  lastToken := 0
  tbtLast := 0
  tbtMax := 0
  tbtOver := 0
  drafts := []
  parkHandle := 0
  skipInterval := false
  dropImage := none
  parkBy := (0, 0)
  awaiting := []
  outcome := none
  log2p := 4
  kitty := 0
  flushPending := false
  flushed := []
  copied := []
  tentative := 1
  startPos := 16
  reservedRows := 0
  written := []
  tables := [⟨0, [1], [⟨0, 4, 2, .committed, 0⟩]⟩]
  path := []
  noPage := false
  leased := false
  prompt := []

/-- The row of that page: block 0, written whole, last leased in trick 0. -/
def KvRow.paged : KvRow := ⟨0, [0], 0, 4, 2, 0, 1, 0, 0, none, [16]⟩

/-- A ready module whose partition 0 runs the task on core 0, and whose slot 0 holds the request. -/
def State.withRequest : State :=
  let s := (State.reset.wrF Reg.MGT_STATE Fld.MGT_STATE_STATE 1).wrF (Reg.PART_STATE 0) Fld.PART_STATE_STATE 1
  let s := (s.wrF (Reg.SLOT_CTRL 0) Fld.SLOT_CTRL_OWNED 1).wrF (Reg.SLOT_GEOM 0) Fld.SLOT_GEOM_LAYERS 1
  let s := (s.wrF (Reg.KV_GEOM 0) Fld.KV_GEOM_KV_HEADS 1).wrF (Reg.KV_GEOM 0) Fld.KV_GEOM_HEAD_DIM 0
  let s := ((s.wrN Reg.SRV_HR_SHARE 1).wr64 (Reg.KV_BASE_LO 0) (2 ^ 24)).wr64 (Reg.DESC_BASE_LO 0) (2 ^ 25)
  { s.putServing 0 { PartServing.empty with hrs := [HandRecord.paged] } with
    dealer := { s.dealer with graphs := [Graph.running] }
    cores := [(0, { CoreState.fresh with task := some (1, 0) })] }

/-- The request's page, with its table and its descriptor in memory. -/
def State.withPage : State :=
  let s := State.withRequest.poke (2 ^ 24 + 4096 + 64) (leBytes 8 (4 * 2 ^ 24 + 2 * 2 ^ 28))
  ({ s with serving := { s.serving with rows := [KvRow.paged] } }).writeDescs KvRow.paged

/-- A GATHER of block 0 for a query at position 16 into the start of the core's store. -/
def pageWords : List Nat := [3, 16 + 2 ^ 32, 2 ^ 20, 0, 8192 * 2 ^ 32]

/-- The layer slice that the GATHER names. -/
def KvTarget.paged : KvTarget := ⟨0, 0, 1, 0, 0, HandRecord.paged⟩

/-- A command that waits for nothing. -/
def Waits.none : Waits := ⟨0, [], []⟩

/-- The state in which the GATHER runs. -/
def State.gathering : State := (State.withPage.upset []).waited 0 Waits.none

/-- The result of the GATHER's reads. -/
def pageGathered : Except Nat GatherAcc × State :=
  (State.gathering.checkTable KvTarget.paged).2.gatherBlocks KvTarget.paged (gatherDesc pageWords) [2]
    ((State.gathering.checkTable KvTarget.paged).2.rdF (Reg.KV_WINDOW 0) Fld.KV_WINDOW_WINDOW)
    ((State.gathering.checkTable KvTarget.paged).2.rdF (Reg.KV_BIDIR 0) Fld.KV_BIDIR_BIDIR_LEN) (gatheredBlocks KvTarget.paged pageWords) ⟨[], [], 0, 0⟩

theorem gathering_starts : (State.withPage.upset []).startsNow 0 0 Waits.none = true := by decide +kernel

theorem gathering_target : State.gathering.kvTarget 0 (pageWords.getD 0 0) = some KvTarget.paged := by decide +kernel

theorem gathering_table : (State.gathering.checkTable KvTarget.paged).1 = .sound [2] := by decide +kernel

theorem pageGathered_writable : (match pageGathered.1 with
    | .ok a => (pageGathered.2.raise 0 a.flags).storeWritable 0 (gatherDesc pageWords).dst a.out.length
    | .error _ => false) = true := by decide +kernel

/-- The byte of the page's descriptor that holds the low bits of the trick of its lease (R205). -/
def leaseByte (s : State) : Byte := cellsGet 0 s.memory.mem (2 ^ 25 + 6)

theorem leaseByte_of_keepsOutside {s t : State} {a n : Nat} (h : s.keepsOutside t a n) (ha : 2 ^ 25 + 6 < a) : leaseByte t = leaseByte s := h _ (.inl ha)

theorem leaseByte_before : leaseByte State.withPage = 0 := by decide +kernel

theorem leaseByte_gathered : leaseByte pageGathered.2 = 64 := by decide +kernel

/-- Refutes O60: a GATHER that reads a page renews the page's lease, and so writes the page's descriptor in memory, besides the store that the
statement lets it change. -/
theorem not_storesChangeTheirBytesOnly : ¬ Obligations.StoresChangeTheirBytesOnly := by
  unfold Obligations.StoresChangeTheirBytesOnly
  intro h
  obtain ⟨-, -, -, -, -, -, -, -, hqueue, -⟩ := h State.withPage (State.gathering.startItem 0 0 (.kvGather pageWords)) 0
  obtain ⟨-, -, -, -, -, hkv⟩ := hqueue 0 Waits.none []
  obtain ⟨a, hread, hwrite⟩ : ∃ a, pageGathered.1 = .ok a ∧
      (pageGathered.2.raise 0 a.flags).storeWritable 0 (gatherDesc pageWords).dst a.out.length = true := by
    have hmatch := pageGathered_writable
    split at hmatch
    · next a ha => exact ⟨a, ha, hmatch⟩
    · cases hmatch
  obtain ⟨-, hgather⟩ := hkv pageWords [2] KvTarget.paged gathering_starts gathering_target gathering_table
  have hok : State.gathering.gatherOk 0 pageWords = true := by decide +kernel
  have hkeep := hgather a hok hread hwrite (onQueueWaiting_starts gathering_starts (.kvGather pageWords))
  have hblocks : pageGathered = (.ok a, pageGathered.2) := by rw [← hread]
  have hstore (queue : Nat) := State.kvGather_stores (queue := queue) gathering_target hok gathering_table rfl hblocks hwrite
  have hout : 2 ^ 25 + 6 < storeAddr 0 (gatherDesc pageWords).dst := by decide
  have hbyte : leaseByte pageGathered.2 = leaseByte State.withPage :=
    (leaseByte_of_keepsOutside (hstore 0) hout).symm.trans (leaseByte_of_keepsOutside hkeep hout)
  rw [leaseByte_gathered, leaseByte_before] at hbyte
  exact absurd hbyte (by decide)

end Sys2Proof.Machine
end
